-- ==== Sys2Proof/Word.lean ====
section
/-! DEFINITION. The words of the machine: bytes, 32-bit register words, 64-bit values, and the plainest helpers on
lists of bytes (little-endian, R5). -/

namespace Sys2Proof

/-- One byte. -/
abbrev Byte := BitVec 8
/-- One 32-bit register (R7). -/
abbrev Word := BitVec 32
/-- One 64-bit value. -/
abbrev DWord := BitVec 64
/-- The 128-bit payload of a flit. -/
abbrev Payload := BitVec 128

end Sys2Proof
end

