-- ==== Sys2Proof/Syntax.lean ====
section
/-! DEFINITION. The commands the block takes: one constructor per row of spec/opcode_table.json, with its operands. -/

namespace Sys2Proof

/-- Who sends a command or a register write (R4, R20, R504). -/
inductive Agent where
  | host | sec | pmc | sch
  | ccc (k : Fin 8)
  deriving DecidableEq, Repr

/-- The width of an access (R11). -/
inductive Width where
  | w8 | w16 | w32 | w64
  deriving DecidableEq, Repr

/-- A two-wire descriptor as a core queues it (R512): the core, its tag, and the fields of the two words; `rsvd`: a
reserved field is non-zero; `buf`: the data buffer. -/
structure TwDesc where
  core : Fin 11
  tag : BitVec 16
  pec : Bool
  addr : BitVec 7
  cmd : Byte
  rlen : Byte
  wlen : Byte
  rsvd : Bool
  buf : List Byte
  deriving DecidableEq, Repr

/-- What the bus does with a transaction: the target acknowledges and sends these bytes (the PEC last, on a read with
PEC); it refuses its address or a later byte; or the transaction does not end by itself (another controller or a held
clock decides). -/
inductive BusResult where
  | ok (rd : List Byte)
  | nackAddr
  | nackData
  | hang
  deriving DecidableEq, Repr

/-- One 100 ns slot of the fast channels (R240, R501): the codes of IFAST_0 to 7, of IBUS (two's complement) and of VBUS, and
which of the ten samples are stale (bit 0 to 7 IFAST, 8 IBUS, 9 VBUS). -/
structure FastSlot where
  ifast : List (BitVec 12)
  ibus : BitVec 14
  vbus : BitVec 14
  stale : BitVec 10
  deriving DecidableEq, Repr

/-- The fields of an OP_REQ but OP (R174). -/
structure SyncReq where
  operand : DWord
  timeout : BitVec 16
  tag : Byte
  ord : Bool
  w : Bool
  cond : BitVec 2
  handle : Word
  deriving DecidableEq, Repr

/-- A mailbox request as it arrives (R439, R441): its channel (0 to 3 W0, 4 MCTP over PCIe, 5 MCTP over SMBus), the header
fields but OPCODE, and the payload bytes received. -/
structure MbxReq where
  ch : Fin 6
  major : Byte
  minor : Byte
  tag : BitVec 16
  status : BitVec 16
  len : BitVec 16
  flags : BitVec 16
  detail : Word
  gts : DWord
  zero : Word
  crc : Word
  pay : List Byte
  deriving DecidableEq, Repr

/-- A tile instruction's common fields (R87) as the sequencer of tile `t` issues it: the three formats, NCTL, MODE, the
addresses; `srcC` a third operand; `sa` to `sd` the scale arrays of MX operands; `va`, `vb`, `vc` their element variants. -/
structure TileOp where
  t : Fin 72
  fa : Fin 16
  fb : Fin 16
  fd : Fin 16
  nctl : Byte
  mode : BitVec 4
  dst : Word
  srcA : Word
  srcB : Word
  srcC : Word
  sa : Word
  sb : Word
  sc : Word
  sd : Word
  va : Bool
  vb : Bool
  vc : Bool
  deriving DecidableEq, Repr

/-- Operations of the vector unit, by group. -/
inductive VecOp where
  | add | sub | mul | fma | min | max | abs | neg | lt | le | eq | select
  deriving DecidableEq, Repr
inductive TransOp where
  | exp | log | tanh | sigmoid | rsqrt | sin | cos
  deriving DecidableEq, Repr
inductive IntOp where
  | add | sub | mul | adds | subs | muls | div | shl | shr | sar | and | or | xor
  deriving DecidableEq, Repr
inductive RedOp where
  | sum | max | min
  deriving DecidableEq, Repr

/-- What TREECFG names (R96): the node words and the leaf table, the base score, each tree's root index and output. -/
structure TreeCfg where
  nodes : Word
  leaves : Word
  base : Word
  trees : List (BitVec 20 × Fin 16)
  deriving DecidableEq, Repr

/-- What raised a tile fault (R124): an uncorrectable error in code or the control region (R101), a failed DMA completion, an
engine parity fault. A heartbeat fault is CCC_HEARTBEAT_CHECK's. -/
inductive TileFaultKind where
  | fatal | dma | parity
  deriving DecidableEq, Repr

/-- Causes of a hot-swap fault that a comparator or timer reports (R321); an SOA fault is SOA_INTEGRATE's. -/
inductive HswCause where
  | ov | fastTrip | tMax
  deriving DecidableEq, Repr

/-- The memories whose code words are decoded (R34), in the order of GLB_ECC_LAST.MEM. -/
inductive EccMem where
  | tile | commons | sync | hbm | core | ffr | replay
  deriving DecidableEq, Repr

/-- What decoding a code word gives (R35): no error; one or two bits corrected; an error that is not correctable, with the data
as they stand in the array. -/
inductive EccResult where
  | clean | corrected
  | uncorr (raw : DWord)
  deriving DecidableEq, Repr

/-- The commands: one constructor per row of spec/opcode_table.json. -/
inductive Instr where
  /-- REGISTER_WRITE (R7). -/
  | registerWrite (by_ : Agent) (a : BitVec 28) (w : Width) (v : DWord)
  /-- COUNTER_CLEAR_WRITE (R49). -/
  | counterClearWrite (by_ : Agent) (a : BitVec 28)
  /-- SET_WRITE_LOCK (R9). -/
  | setWriteLock (by_ : Agent)
  /-- COUNTER_LOW_READ (R12). -/
  | counterLowRead (by_ : Agent) (a : BitVec 28)
  /-- WIDE_FIELD_LOW_WRITE (R14). -/
  | wideFieldLowWrite (by_ : Agent) (a : BitVec 28) (v : Word)
  /-- WIDE_FIELD_HIGH_WRITE (R14). -/
  | wideFieldHighWrite (by_ : Agent) (a : BitVec 28) (v : Word)
  /-- HV_BRIDGE_TRANSFER (R19). -/
  | hvBridgeTransfer (ch : Fin 138) (crcOk : Bool)
  /-- CRYSTAL_LOSS (R23). -/
  | crystalLoss
  /-- CODE_WORD_READ (R35). -/
  | codeWordRead (m : EccMem) (w : BitVec 31) (r : EccResult)
  /-- ECC_WRITEBACK (R36). -/
  | eccWriteback (m : EccMem) (w : BitVec 31)
  /-- PATROL_SCRUB (R39). -/
  | patrolScrub (m : EccMem) (w : BitVec 31) (r : EccResult)
  /-- SCRUB_PERIOD_MISSED (R39). -/
  | scrubPeriodMissed (hbm : Bool)
  /-- POWER_ON_RESET (R42). -/
  | powerOnReset (capsel : BitVec 3) (hswsel : BitVec 2) (goldenLow : Bool) (mfgLow : Bool)
  /-- COLD_RESET (R43). -/
  | coldReset
  /-- WARM_RESET (R42). -/
  | warmReset
  /-- PCIE_RESET (R45). -/
  | pcieReset
  /-- COLD_REQ (R50). -/
  | coldReq (by_ : Agent) (v : Word)
  /-- WARM_REQ (R50). -/
  | warmReq (by_ : Agent) (v : Word)
  /-- CLEAR_CAUSE (R49). -/
  | clearCause (by_ : Agent) (v : Word)
  /-- CORE_RESET_REQ (R50). -/
  | coreResetReq (by_ : Agent) (v : Word)
  /-- SEC_WARM_REQUEST (R42). -/
  | secWarmRequest
  /-- DEFERRED_COLD_RESET (R44). -/
  | deferredColdReset
  /-- CORE_POWER_RESTART (R46). -/
  | corePowerRestart
  /-- NOP (R87). -/
  | nop (o : TileOp)
  /-- WAIT (R87). -/
  | wait (o : TileOp)
  /-- BRANCH (R87). -/
  | branch (o : TileOp) (taken : Bool) (target : Word)
  /-- LOOP (R87). -/
  | loop (o : TileOp) (again : Bool) (target : Word)
  /-- SETSHAPE (R87). -/
  | setshape (o : TileOp) (m : Fin 32) (n : Fin 32) (k : Fin 65536)
  /-- YIELD (R87). -/
  | yield (o : TileOp)
  /-- END (R87). -/
  | endProgram (o : TileOp)
  /-- MMA (R91). -/
  | mma (o : TileOp) (bank : Fin 4)
  /-- STACC (R92). -/
  | stacc (o : TileOp) (bank : Fin 4)
  /-- CLRACC (R91). -/
  | clracc (o : TileOp) (bank : Fin 4)
  /-- VECTOR_ARITHMETIC (R81). -/
  | vectorArithmetic (o : TileOp) (op : VecOp) (n : Fin 65536)
  /-- VECTOR_DIV_SQRT (R81). -/
  | vectorDivSqrt (o : TileOp) (sqrt : Bool) (n : Fin 65536)
  /-- VECTOR_TRANSCENDENTAL (R93). -/
  | vectorTranscendental (o : TileOp) (op : TransOp) (n : Fin 65536)
  /-- VECTOR_INTEGER (R94). -/
  | vectorInteger (o : TileOp) (op : IntOp) (n : Fin 65536)
  /-- VECTOR_CONVERT (R75). -/
  | vectorConvert (o : TileOp) (n : Fin 65536)
  /-- REDUCE (R95). -/
  | reduce (o : TileOp) (op : RedOp) (n : Fin 65536)
  /-- GATHER (R87). -/
  | gather (o : TileOp) (n : Fin 65536)
  /-- SCATTER (R87). -/
  | scatter (o : TileOp) (n : Fin 65536)
  /-- TREEBATCH (R97). -/
  | treebatch (o : TileOp) (v : BitVec 16) (nf : Fin 1025)
  /-- TREECFG (R96). -/
  | treecfg (o : TileOp) (cfg : TreeCfg)
  /-- COPY (R99). -/
  | copy (o : TileOp) (da : BitVec 35) (sa : BitVec 35) (len : Word)
  /-- COPY2D (R99). -/
  | copy2d (o : TileOp) (da : BitVec 35) (sa : BitVec 35) (len : Word) (rows : BitVec 16) (dstr : Word) (sstr : Word)
  /-- SIGNAL (R87). -/
  | signal (o : TileOp) (l : Fin 64)
  /-- WAITSIG (R87). -/
  | waitsig (o : TileOp)
  /-- RESERVED_OPC (R88). -/
  | reservedOpc (o : TileOp) (opc : Byte)
  /-- TILE_APERTURE_WRITE (R102). -/
  | tileApertureWrite (t : Fin 72) (off : BitVec 15) (w : Width) (v : DWord)
  /-- TILE_APERTURE_READ (R102). -/
  | tileApertureRead (t : Fin 72) (off : BitVec 15) (w : Width)
  /-- LOADER_LOAD (R111). -/
  | loaderLoad
  /-- SLOT_COMMIT (R115). -/
  | slotCommit (n : Fin 32)
  /-- SLOT_CTRL_RETIRE (R117). -/
  | slotCtrlRetire (n : Fin 32)
  /-- SLOT_INVOKE (R118). -/
  | slotInvoke (n : Fin 32)
  /-- SLOT_TIMER_TICK (R118). -/
  | slotTimerTick (n : Fin 32)
  /-- INVOCATION_COMMIT (R119). -/
  | invocationCommit (n : Fin 32) (outs : List (List Byte))
  /-- INVOCATION_WATCHDOG (R110). -/
  | invocationWatchdog (n : Fin 32)
  /-- TILE_HEARTBEAT_ADVANCE (R121). -/
  | tileHeartbeatAdvance (t : Fin 72)
  /-- CCC_HEARTBEAT_CHECK (R121). -/
  | cccHeartbeatCheck (c : Fin 8) (pass : Bool)
  /-- RESERVE_SELF_TEST (R122). -/
  | reserveSelfTest (c : Fin 8) (pass : Bool)
  /-- TILE_ROW_REMAP (R123). -/
  | tileRowRemap (t : Fin 72) (row : BitVec 20)
  /-- TILE_FAULT (R124). -/
  | tileFault (t : Fin 72) (kind : TileFaultKind) (pass : Bool)
  /-- INJECT_FATAL (R130). -/
  | injectFatal (t : Fin 72) (pass : Bool)
  /-- TILE_SR_SEED_WRITE (R71). -/
  | tileSrSeedWrite (t : Fin 72) (seed : Word)
  /-- BOOT_TILE_SELF_TEST (R561). -/
  | bootTileSelfTest (c : Fin 8) (good : BitVec 9)
  /-- VL_EN_WRITE (R166). -/
  | vlEnWrite (on : Bool)
  /-- LINK_EN_WRITE (R166). -/
  | linkEnWrite (n : Fin 24) (on : Bool)
  /-- FORCE_FAIL (R154). -/
  | forceFail (n : Fin 24)
  /-- RETRAIN (R166). -/
  | retrain (n : Fin 24)
  /-- DETECT_END (R165). -/
  | detectEnd (n : Fin 24) (beacon : Bool)
  /-- EQ_COMPLETE (R144). -/
  | eqComplete (n : Fin 24)
  /-- FRAME_LOCK (R136). -/
  | frameLock (n : Fin 24)
  /-- PARAM (R143). -/
  | param (n : Fin 24) (p : Payload)
  /-- TRAINING_STATE_TIMEOUT (R144). -/
  | trainingStateTimeout (n : Fin 24)
  /-- STANDBY_REFRESH (R144). -/
  | standbyRefresh (n : Fin 24) (relocked : Bool)
  /-- PCS_FRAME_RECEIVE (R135). -/
  | pcsFrameReceive (n : Fin 24) (symErrs : Fin 69)
  /-- LOSS_OF_SIGNAL (R154). -/
  | lossOfSignal (n : Fin 24)
  /-- DATA_FLIT_RECEIVE (R148). -/
  | dataFlitReceive (n : Fin 24) (f : BitVec 160)
  /-- IDLE (R140). -/
  | idle (n : Fin 24) (ack : Option (BitVec 7))
  /-- STATUS (R151). -/
  | status (n : Fin 24) (ack : Option (BitVec 7)) (credits : DWord)
  /-- NAK (R148). -/
  | nak (n : Fin 24) (seq : BitVec 7)
  /-- REPLAY_MARK (R148). -/
  | replayMark (n : Fin 24) (seq : BitVec 7)
  /-- NAK_RESEND_TIMEOUT (R148). -/
  | nakResendTimeout (n : Fin 24)
  /-- ACK_TIMEOUT (R154). -/
  | ackTimeout (n : Fin 24)
  /-- REPLAY_RATE_WINDOW_END (R154). -/
  | replayRateWindowEnd (n : Fin 24)
  /-- ROLE_FAILED (R155). -/
  | roleFailed (n : Fin 24) (pos : Fin 3) (role : Fin 4) (rxseq : Option (BitVec 7))
  /-- ROLE_FAILED_ACK (R155). -/
  | roleFailedAck (n : Fin 24) (pos : Fin 3) (rxseq : Option (BitVec 7))
  /-- ROLE_ASSUME (R155). -/
  | roleAssume (n : Fin 24) (role : Fin 4) (rxseq : Option (BitVec 7))
  /-- ROLE_ASSUME_ACK (R155). -/
  | roleAssumeAck (n : Fin 24) (role : Fin 4) (rxseq : Option (BitVec 7))
  /-- ROLE_RESEND_TIMEOUT (R155). -/
  | roleResendTimeout (a : Fin 8)
  /-- VL_ACC_ROLE_WRITE (R157). -/
  | vlAccRoleWrite (a : Fin 8) (ag : Agent) (v : BitVec 6)
  /-- TSYNC_EXCHANGE (R158). -/
  | tsyncExchange (a : Fin 8)
  /-- TSYNC_FOLLOW (R158). -/
  | tsyncFollow (a : Fin 8)
  /-- TSYNC_DREQ (R158). -/
  | tsyncDreq (a : Fin 8) (times : BitVec 4) (offset : Int) (path : BitVec 16) (locked : Bool)
  /-- PAIR_RSP (R162). -/
  | pairRsp (a : Fin 8) (v : BitVec 2)
  /-- PAIR_RSP_TIMEOUT (R162). -/
  | pairRspTimeout (a : Fin 8)
  /-- BIND_OK_WRITE (R162). -/
  | bindOkWrite (a : Fin 8) (on : Bool)
  /-- FORCE_SIDEBAND (R165). -/
  | forceSideband (a : Fin 8) (on : Bool)
  /-- PRSNT_EDGE (R165). -/
  | prsntEdge (a : Fin 8) (asserted : Bool)
  /-- OP_ARRIVE (R179). -/
  | opArrive (src : Fin 9) (q : SyncReq)
  /-- OP_WAIT (R179). -/
  | opWait (src : Fin 9) (q : SyncReq)
  /-- OP_ADD (R179). -/
  | opAdd (src : Fin 9) (q : SyncReq)
  /-- OP_FETCH_ADD (R179). -/
  | opFetchAdd (src : Fin 9) (q : SyncReq)
  /-- OP_CAS (R179). -/
  | opCas (src : Fin 9) (q : SyncReq)
  /-- OP_SET (R179). -/
  | opSet (src : Fin 9) (q : SyncReq)
  /-- OP_RESET (R179). -/
  | opReset (src : Fin 9) (q : SyncReq)
  /-- OP_RESERVED (R177). -/
  | opReserved (src : Fin 9) (op : Fin 9) (q : SyncReq)
  /-- SYNC_WAIT_TIMEOUT (R184). -/
  | syncWaitTimeout
  /-- SOB_HOP_GO (R200). -/
  | sobHopGo (cmd : Word)
  /-- SYNC_WINDOW_READ (R199). -/
  | syncWindowRead (off : BitVec 20) (w : Width)
  /-- SYNC_WINDOW_WRITE (R199). -/
  | syncWindowWrite (off : BitVec 20) (v : DWord)
  /-- SOB_WAITERS_WRITE (R201). -/
  | sobWaitersWrite
  /-- SOB_EN_WRITE (R201). -/
  | sobEnWrite (ag : Agent) (on : Bool)
  /-- CONTRIB_HEADER (R214). -/
  | contribHeader (n : Fin 24) (p : Payload)
  /-- CONTRIB (R209). -/
  | contrib (n : Fin 24) (p : Payload)
  /-- CONTRIB_LAST (R213). -/
  | contribLast (n : Fin 24) (p : Payload)
  /-- INSTANCE_REDUCTION (R218). -/
  | instanceReduction (c : Byte)
  /-- INSTANCE_FINISH (R213). -/
  | instanceFinish (c : Byte)
  /-- ABORT (R233). -/
  | abort (a : Fin 8) (p : Payload)
  /-- INSTANCE_TIMEOUT (R231). -/
  | instanceTimeout (c : Byte)
  /-- BRD_ICONTRIB (R225). -/
  | brdIcontrib (ag : Agent) (v : Word)
  /-- BRD_EN_WRITE (R238). -/
  | brdEnWrite (ag : Agent) (on : Bool)
  /-- FAST_SAMPLE (R240). -/
  | fastSample (x : FastSlot)
  /-- LIMITER_WINDOW_END (R248). -/
  | limiterWindowEnd
  /-- BUDGET_PROPOSAL (R245). -/
  | budgetProposal (b : List (BitVec 16))
  /-- CAP_FORCE_EXPIRY (R273). -/
  | capForceExpiry (g : BitVec 8)
  /-- PSTATE_REQUEST (R255). -/
  | pstateRequest (a : Fin 8) (p : BitVec 5)
  /-- PSTATE_ACK (R255). -/
  | pstateAck (a : Fin 8) (p : Payload)
  /-- PSTATE_ACK_TIMEOUT (R255). -/
  | pstateAckTimeout (a : Fin 8)
  /-- VOLTAGE_SETTLE_DONE (R253). -/
  | voltageSettleDone (a : Fin 8)
  /-- FILLER_ACK (R275). -/
  | fillerAck (a : Fin 8) (p : Payload)
  /-- PTAB_VALID_WRITE (R251). -/
  | ptabValidWrite (a : Fin 8) (on : Bool)
  /-- DVFS_FAULT_CLEAR (R255). -/
  | dvfsFaultClear (a : Fin 8)
  /-- DROOP_CLEAR_EXPIRY (R260). -/
  | droopClearExpiry (a : Fin 8)
  /-- DROOP_HOLD_EXPIRY (R260). -/
  | droopHoldExpiry (a : Fin 8)
  /-- CHECK_TRIGGER (R261). -/
  | checkTrigger (t : Fin 32) (active : Bool)
  /-- CHECK_FORCE_WRITE (R263). -/
  | checkForceWrite (v : BitVec 8)
  /-- CHECK_EN_WRITE (R261). -/
  | checkEnWrite (v : Word)
  /-- CHECK_LATCH_CLEAR (R265). -/
  | checkLatchClear (v : Word)
  /-- CHECK_AUTO_RELEASE (R265). -/
  | checkAutoRelease (t : Fin 24)
  /-- MATE_TRIGGER (R267). -/
  | mateTrigger (coolFail : Bool)
  /-- MATE_POWERDOWN_START (R267). -/
  | matePowerdownStart
  /-- MATE_CLEAR (R269). -/
  | mateClear (v : Word)
  /-- PRERAMP_TIMER (R277). -/
  | prerampTimer (g : BitVec 8)
  /-- GUARDBAND_LEAD (R277). -/
  | guardbandLead (g : BitVec 8)
  /-- GUARDBAND_HOLD_END (R257). -/
  | guardbandHoldEnd (g : BitVec 8)
  /-- SB_LIMIT_WRITE (R279). -/
  | sbLimitWrite (a : Fin 8) (r : BusResult)
  /-- SB_LIMIT_REFRESH (R279). -/
  | sbLimitRefresh (a : Fin 8)
  /-- SB_LIMIT_RETRY (R279). -/
  | sbLimitRetry (a : Fin 8) (r : BusResult)
  /-- LEDGER_FRAME_END (R284). -/
  | ledgerFrameEnd
  /-- TLM_EN_WRITE (R288). -/
  | tlmEnWrite (on : Bool)
  /-- TLM (R290). -/
  | tlm (a : Fin 8) (p : Payload)
  /-- FRAME_RECORD_WRITE (R291). -/
  | frameRecordWrite
  /-- POLICY_INPUT_COPY (R294). -/
  | policyInputCopy
  /-- REPLAY_BLOCK_START (R300). -/
  | replayBlockStart
  /-- SHADOW_LOAD (R304). -/
  | shadowLoad
  /-- GATE_EVALUATION (R307). -/
  | gateEvaluation
  /-- PROMOTION_SWITCH (R309). -/
  | promotionSwitch
  /-- ROLLBACK_TIMER_EXPIRY (R309). -/
  | rollbackTimerExpiry
  /-- ORO_CTRL_ROLLBACK (R310). -/
  | oroCtrlRollback
  /-- BRINGUP_ON (R324). -/
  | bringupOn
  /-- BRINGUP_OFF (R563). -/
  | bringupOff
  /-- CRYSTAL_STABLE (R324). -/
  | crystalStable
  /-- START_PERMITTED (R318). -/
  | startPermitted
  /-- HOTSWAP_FAULT (R321). -/
  | hotswapFault (cause : HswCause)
  /-- HSW_ON (R319). -/
  | hswOn
  /-- HSW_LIMIT_ENTRY (R319). -/
  | hswLimitEntry
  /-- HSW_LIMIT_EXIT (R319). -/
  | hswLimitExit
  /-- SOA_INTEGRATE (R320). -/
  | soaIntegrate (vds : BitVec 17) (vs : BitVec 27)
  /-- HSW_COOL_END (R321). -/
  | hswCoolEnd
  /-- UV_FAULT (R323). -/
  | uvFault
  /-- UV_RESTORE (R323). -/
  | uvRestore
  /-- SEQ_COMMIT (R329). -/
  | seqCommit (by_ : Agent)
  /-- DOMAIN_REQUEST (R334). -/
  | domainRequest (dom : Fin 16) (on : Bool)
  /-- DELAY_ON_EXPIRY (R334). -/
  | delayOnExpiry (n : Fin 96)
  /-- POWER_GOOD_CHANGE (R332). -/
  | powerGoodChange (n : Fin 96) (good : Bool)
  /-- QUAL_COMPLETE (R332). -/
  | qualComplete (n : Fin 96)
  /-- RAMP_TIMEOUT (R332). -/
  | rampTimeout (n : Fin 96)
  /-- QUAL_TIMEOUT (R332). -/
  | qualTimeout (n : Fin 96)
  /-- DRAIN_COMPLETE (R335). -/
  | drainComplete (n : Fin 96)
  /-- FALL_TIMEOUT (R336). -/
  | fallTimeout (n : Fin 96)
  /-- RAIL_FAILED_CLEAR (R337). -/
  | railFailedClear (n : Fin 96)
  /-- PRSNT_REMOVED (R328). -/
  | prsntRemoved (a : Fin 8)
  /-- PRSNT_QUALIFIED (R328). -/
  | prsntQualified (a : Fin 8)
  /-- RESET_STRETCH_DONE (R339). -/
  | resetStretchDone (k : Fin 16)
  /-- RST_HOLD_WRITE (R339). -/
  | rstHoldWrite (hold : BitVec 16)
  /-- SELF_RAIL_RETRY (R326). -/
  | selfRailRetry
  /-- COLD_RESTART_DELAY (R43). -/
  | coldRestartDelay
  /-- COOL_COMMIT (R343). -/
  | coolCommit (by_ : Agent)
  /-- FAN_WINDOW_START (R346). -/
  | fanWindowStart (n : Fin 18)
  /-- TACH_EDGE (R346). -/
  | tachEdge (n : Fin 18)
  /-- FAN_WINDOW_END (R347). -/
  | fanWindowEnd (n : Fin 18)
  /-- FAN_TARGET_WRITE (R347). -/
  | fanTargetWrite (n : Fin 18) (rpm : BitVec 16)
  /-- KICK_EXPIRY (R348). -/
  | kickExpiry (n : Fin 18)
  /-- KICK_GAP_END (R348). -/
  | kickGapEnd (n : Fin 18)
  /-- FAN_FAILED_CLEAR (R352). -/
  | fanFailedClear (n : Fin 18)
  /-- RESERVE_FAN_TEST (R356). -/
  | reserveFanTest (r : Fin 2)
  /-- RESERVE_TEST_END (R356). -/
  | reserveTestEnd (r : Fin 2)
  /-- FAN_COMMISSION (R357). -/
  | fanCommission (by_ : Agent) (n : Fin 18)
  /-- COMMISSION_TIMEOUT (R357). -/
  | commissionTimeout (n : Fin 18)
  /-- PUMP_MEASUREMENT (R359). -/
  | pumpMeasurement (p : Fin 4) (t : Word)
  /-- PUMP_TARGET_WRITE (R359). -/
  | pumpTargetWrite (p : Fin 4) (rpm : BitVec 16)
  /-- PUMP_FAILED_CLEAR (R359). -/
  | pumpFailedClear (p : Fin 4)
  /-- FLOW_EDGE (R360). -/
  | flowEdge (l : Fin 4)
  /-- FLOW_WINDOW_EVALUATION (R361). -/
  | flowWindowEvaluation (l : Fin 4)
  /-- LOOP_FAULT_CLEAR (R362). -/
  | loopFaultClear (l : Fin 4)
  /-- LEAK_REPORT (R364). -/
  | leakReport (r : List (BitVec 12))
  /-- LEAK_LATCH_CLEAR (R364). -/
  | leakLatchClear (z : Fin 16)
  /-- TD_CONVERSION (R365). -/
  | tdConversion (n : Fin 32) (temp : BitVec 16) (fault : Bool)
  /-- COOL_MODE_WRITE (R367). -/
  | coolModeWrite (by_ : Agent) (m : Fin 4)
  /-- COOL_MODE_TIMEOUT (R367). -/
  | coolModeTimeout
  /-- HBM_SOFT_REPAIR (R378). -/
  | hbmSoftRepair (row : Word) (room : Bool)
  /-- ADC_SCAN (R381). -/
  | adcScan (r0 : BitVec 16) (r1 : BitVec 16) (r2 : BitVec 16) (r3 : BitVec 16) (spare : BitVec 16)
  /-- ADC_SAMPLE (R498). -/
  | adcSample (ch : Fin 128) (code : BitVec 16)
  /-- CHK_OSC_FAILURE (R382). -/
  | chkOscFailure
  /-- WATCHDOG_KICK (R385). -/
  | watchdogKick (k : Fin 11) (period : Word)
  /-- WATCHDOG_EXPIRY (R386). -/
  | watchdogExpiry (k : Fin 11)
  /-- ENDGAME_IDENT (R394). -/
  | endgameIdent
  /-- ENDGAME_STATE (R394). -/
  | endgameState
  /-- ENDGAME_RESET_CAUSE (R394). -/
  | endgameResetCause
  /-- ENDGAME_RAILS (R394). -/
  | endgameRails
  /-- ENDGAME_SUPPLY (R394). -/
  | endgameSupply
  /-- ENDGAME_PROTECT (R394). -/
  | endgameProtect
  /-- ENDGAME_COOLING (R394). -/
  | endgameCooling
  /-- ENDGAME_RECORDER (R394). -/
  | endgameRecorder
  /-- GOLDEN_EXIT (R395). -/
  | goldenExit
  /-- ENDGAME_AUTO_EXIT (R395). -/
  | endgameAutoExit
  /-- ROM_BOOT (R411). -/
  | romBoot (golden : Bool)
  /-- UPDATE_ERASE_COMPLETE (R416). -/
  | updateEraseComplete (ok : Bool)
  /-- UPDATE_SESSION_TIMEOUT (R416). -/
  | updateSessionTimeout
  /-- ACTIVATION_RELEASE (R419). -/
  | activationRelease
  /-- AUTO_CONFIRM (R420). -/
  | autoConfirm
  /-- CONFIRM_TIMEOUT (R420). -/
  | confirmTimeout
  /-- WAKE (R425). -/
  | wake (golden : Bool) (scrubOk : Bool)
  /-- SPDM_GET_VERSION (R426). -/
  | spdmGetVersion (ch : Fin 2)
  /-- SPDM_GET_CAPABILITIES (R426). -/
  | spdmGetCapabilities (ch : Fin 2)
  /-- SPDM_NEGOTIATE_ALGORITHMS (R426). -/
  | spdmNegotiateAlgorithms (ch : Fin 2) (p384 : Bool) (sha384 : Bool)
  /-- SPDM_GET_DIGESTS (R426). -/
  | spdmGetDigests (ch : Fin 2)
  /-- SPDM_GET_CERTIFICATE (R426). -/
  | spdmGetCertificate (ch : Fin 2) (slot : Byte) (off : BitVec 16) (len : BitVec 16)
  /-- SPDM_CHALLENGE (R426). -/
  | spdmChallenge (ch : Fin 2) (nonce : List Byte)
  /-- SPDM_GET_MEASUREMENTS (R427). -/
  | spdmGetMeasurements (ch : Fin 2) (index : Byte) (nonce : List Byte)
  /-- SPDM_UNSUPPORTED_REQUEST (R426). -/
  | spdmUnsupportedRequest (ch : Fin 2)
  /-- SET_ENDPOINT_ID (R438). -/
  | setEndpointId (ch : Fin 2) (eid : Byte)
  /-- GET_ENDPOINT_ID (R438). -/
  | getEndpointId (ch : Fin 2)
  /-- GET_ENDPOINT_UUID (R438). -/
  | getEndpointUuid (ch : Fin 2)
  /-- GET_MCTP_VERSION_SUPPORT (R438). -/
  | getMctpVersionSupport (ch : Fin 2) (ty : Byte)
  /-- GET_MESSAGE_TYPE_SUPPORT (R438). -/
  | getMessageTypeSupport (ch : Fin 2)
  /-- MBX_UNKNOWN_OPCODE (R443). -/
  | mbxUnknownOpcode (op : BitVec 16) (q : MbxReq)
  /-- GET_VERSION (R453). -/
  | getVersion (q : MbxReq)
  /-- GET_IDENTITY (R453). -/
  | getIdentity (q : MbxReq)
  /-- GET_STATUS (R453). -/
  | getStatus (q : MbxReq)
  /-- HEARTBEAT (R451). -/
  | heartbeat (q : MbxReq)
  /-- GET_RESET_CAUSE (R453). -/
  | getResetCause (q : MbxReq)
  /-- GET_TIME (R453). -/
  | getTime (q : MbxReq)
  /-- GET_OPCODES (R453). -/
  | getOpcodes (q : MbxReq)
  /-- RELEASE_LEASE (R451). -/
  | releaseLease (q : MbxReq)
  /-- SET_TRAY_CAP (R243). -/
  | setTrayCap (q : MbxReq)
  /-- GET_POWER (R454). -/
  | getPower (q : MbxReq)
  /-- SET_STATIC_BUDGETS (R245). -/
  | setStaticBudgets (q : MbxReq)
  /-- SET_ACC_MAX (R454). -/
  | setAccMax (q : MbxReq)
  /-- SET_CHECK_FORCE (R454). -/
  | setCheckForce (q : MbxReq)
  /-- CLEAR_CHECK_LATCH (R265). -/
  | clearCheckLatch (q : MbxReq)
  /-- CLEAR_MATE (R269). -/
  | clearMate (q : MbxReq)
  /-- SET_SHAPING (R454). -/
  | setShaping (q : MbxReq)
  /-- CLOCK_OPEN (R283). -/
  | clockOpen (q : MbxReq)
  /-- CLOCK_BIND (R283). -/
  | clockBind (q : MbxReq)
  /-- CLOCK_UNBIND (R283). -/
  | clockUnbind (q : MbxReq)
  /-- CLOCK_CLOSE (R283). -/
  | clockClose (q : MbxReq)
  /-- CLOCK_FREE (R283). -/
  | clockFree (q : MbxReq)
  /-- CLOCK_READ (R454). -/
  | clockRead (q : MbxReq)
  /-- ADD_TOKENS (R285). -/
  | addTokens (q : MbxReq)
  /-- SIGN_STATEMENT (R286). -/
  | signStatement (q : MbxReq)
  /-- DOMAIN_SET (R328). -/
  | domainSet (q : MbxReq)
  /-- GET_SEQ (R455). -/
  | getSeq (q : MbxReq)
  /-- RAIL_CLEAR (R337). -/
  | railClear (q : MbxReq)
  /-- RESET_HOLD (R455). -/
  | resetHold (q : MbxReq)
  /-- DEEP_SLEEP (R424). -/
  | deepSleep (q : MbxReq)
  /-- GET_COOLING (R456). -/
  | getCooling (q : MbxReq)
  /-- SET_ZONE_FLOOR (R456). -/
  | setZoneFloor (q : MbxReq)
  /-- SET_COOL_MODE (R456). -/
  | setCoolMode (q : MbxReq)
  /-- COMMISSION_FAN (R456). -/
  | commissionFan (q : MbxReq)
  /-- CLEAR_COOL_FAULT (R456). -/
  | clearCoolFault (q : MbxReq)
  /-- PKG_BEGIN (R457). -/
  | pkgBegin (q : MbxReq)
  /-- PKG_DATA (R457). -/
  | pkgData (q : MbxReq)
  /-- PKG_LOAD (R457). -/
  | pkgLoad (q : MbxReq)
  /-- SLOT_RETIRE (R457). -/
  | slotRetire (q : MbxReq)
  /-- SLOT_QUERY (R457). -/
  | slotQuery (q : MbxReq)
  /-- ORO_SET (R457). -/
  | oroSet (q : MbxReq)
  /-- ORO_ROLLBACK (R457). -/
  | oroRollback (q : MbxReq)
  /-- ORO_QUERY (R457). -/
  | oroQuery (q : MbxReq)
  /-- GROUP_CREATE (R458). -/
  | groupCreate (q : MbxReq)
  /-- GROUP_DELETE (R458). -/
  | groupDelete (q : MbxReq)
  /-- GROUP_POLICY (R458). -/
  | groupPolicy (q : MbxReq)
  /-- OBJ_ALLOC (R169). -/
  | objAlloc (q : MbxReq)
  /-- OBJ_FREE (R169). -/
  | objFree (q : MbxReq)
  /-- CTX_CREATE (R206). -/
  | ctxCreate (q : MbxReq)
  /-- CTX_DELETE (R202). -/
  | ctxDelete (q : MbxReq)
  /-- CASTLE (R196). -/
  | castle (q : MbxReq)
  /-- ACC_CONFIG (R458). -/
  | accConfig (q : MbxReq)
  /-- GET_ACC (R458). -/
  | getAcc (q : MbxReq)
  /-- TLM_FRAMES (R459). -/
  | tlmFrames (q : MbxReq)
  /-- LOG_CONFIG (R459). -/
  | logConfig (q : MbxReq)
  /-- LOG_READ (R464). -/
  | logRead (q : MbxReq)
  /-- TRACE_SET (R459). -/
  | traceSet (q : MbxReq)
  /-- UPDATE_BEGIN (R416). -/
  | updateBegin (q : MbxReq)
  /-- UPDATE_DATA (R416). -/
  | updateData (q : MbxReq)
  /-- UPDATE_COMMIT (R416). -/
  | updateCommit (q : MbxReq)
  /-- UPDATE_CANCEL (R416). -/
  | updateCancel (q : MbxReq)
  /-- UPDATE_ACTIVATE (R419). -/
  | updateActivate (q : MbxReq)
  /-- UPDATE_CONFIRM (R420). -/
  | updateConfirm (q : MbxReq)
  /-- UPDATE_REJECT (R420). -/
  | updateReject (q : MbxReq)
  /-- UPDATE_STATUS (R460). -/
  | updateStatus (q : MbxReq)
  /-- GET_NONCE (R461). -/
  | getNonce (q : MbxReq)
  /-- OWNER_KEY_ADD (R429). -/
  | ownerKeyAdd (q : MbxReq)
  /-- OWNER_KEY_REVOKE (R429). -/
  | ownerKeyRevoke (q : MbxReq)
  /-- MODEL_KEY_ENROL (R430). -/
  | modelKeyEnrol (q : MbxReq)
  /-- DEBUG_TOKEN (R461). -/
  | debugToken (q : MbxReq)
  /-- ECHO (R462). -/
  | echo (q : MbxReq)
  /-- FREEZE (R462). -/
  | freeze (q : MbxReq)
  /-- FFR_ARCHIVE (R462). -/
  | ffrArchive (q : MbxReq)
  /-- MBX_CH_DONE (R440). -/
  | mbxChDone (c : Fin 4)
  /-- COMPLETION_WRITE (R444). -/
  | completionWrite
  /-- REPLY_TIMEOUT (R446). -/
  | replyTimeout
  /-- LEASE_EXPIRY (R451). -/
  | leaseExpiry
  /-- LEASE_WARNING (R451). -/
  | leaseWarning
  /-- TRACE_POINT (R465). -/
  | tracePoint (n : Byte) (core : Fin 11) (arg : Word)
  /-- LOG_RECORD (R464). -/
  | logRecord (core : Fin 11) (level : Fin 4) (code : Word) (args : List Byte)
  /-- CQ_PKT_OPEN (R472). -/
  | cqPktOpen (q : Fin 16) (writer : Fin 16)
  /-- CQ_WR_DATA (R472). -/
  | cqWrData (q : Fin 16) (writer : Fin 16) (v : Word)
  /-- CQ_PKT_CLOSE (R472). -/
  | cqPktClose (q : Fin 16) (writer : Fin 16) (lastBytes : BitVec 3)
  /-- CQ_WR_FIRST (R475). -/
  | cqWrFirst (q : Fin 16) (writer : Fin 16) (v : Word)
  /-- CQ_LINGER_EXPIRY (R475). -/
  | cqLingerExpiry (q : Fin 4)
  /-- CQ_RD_TAG (R476). -/
  | cqRdTag (q : Fin 16)
  /-- CQ_NOTICE_ACK (R477). -/
  | cqNoticeAck (q : Fin 16) (n : BitVec 16)
  /-- FLUSH (R478). -/
  | flush (q : Fin 16)
  /-- CQ_MARK_SET (R479). -/
  | cqMarkSet (q : Fin 16)
  /-- REWIND (R479). -/
  | rewind (q : Fin 16)
  /-- TRACE_UNIT_SEND (R481). -/
  | traceUnitSend
  /-- FFR_EVENT (R484). -/
  | ffrEvent (rank : Fin 19) (cls : Fin 4) (code : BitVec 7) (payload : List Byte)
  /-- FFR_APPEND (R484). -/
  | ffrAppend
  /-- FFR_PAUSE (R488). -/
  | ffrPause (on : Bool)
  /-- FFR_PAUSE_EXPIRY (R488). -/
  | ffrPauseExpiry
  /-- FFR_CLEAR (R489). -/
  | ffrClear (key : BitVec 16)
  /-- RECORDER_ARCHIVE (R490). -/
  | recorderArchive (ok : Bool)
  /-- CRC_ALG_WRITE (R492). -/
  | crcAlgWrite (k : Fin 4) (alg : BitVec 3)
  /-- CRC_INIT (R492). -/
  | crcInit (k : Fin 4)
  /-- CRC_VALUE_WRITE (R492). -/
  | crcValueWrite (k : Fin 4) (v : DWord)
  /-- CRC_DATA (R493). -/
  | crcData (k : Fin 4) (w : Width) (v : DWord)
  /-- SNAPSHOT_TRIGGER (R494). -/
  | snapshotTrigger (sources : BitVec 5)
  /-- SNAP_TRIGGER_WRITE (R494). -/
  | snapTriggerWrite
  /-- FREEZE_PIN (R494). -/
  | freezePin
  /-- SNAPSHOT_COPY_DONE (R495). -/
  | snapshotCopyDone
  /-- SNAP_ARM (R497). -/
  | snapArm
  /-- QUICK_WRITE (R512). -/
  | quickWrite (n : Fin 12) (t : TwDesc) (r : BusResult)
  /-- QUICK_READ (R512). -/
  | quickRead (n : Fin 12) (t : TwDesc) (r : BusResult)
  /-- SEND_BYTE (R512). -/
  | sendByte (n : Fin 12) (t : TwDesc) (r : BusResult)
  /-- RECEIVE_BYTE (R512). -/
  | receiveByte (n : Fin 12) (t : TwDesc) (r : BusResult)
  /-- WRITE_BYTE (R512). -/
  | writeByte (n : Fin 12) (t : TwDesc) (r : BusResult)
  /-- WRITE_WORD (R512). -/
  | writeWord (n : Fin 12) (t : TwDesc) (r : BusResult)
  /-- READ_BYTE (R512). -/
  | readByte (n : Fin 12) (t : TwDesc) (r : BusResult)
  /-- READ_WORD (R512). -/
  | readWord (n : Fin 12) (t : TwDesc) (r : BusResult)
  /-- BLOCK_WRITE (R512). -/
  | blockWrite (n : Fin 12) (t : TwDesc) (r : BusResult)
  /-- BLOCK_READ (R512). -/
  | blockRead (n : Fin 12) (t : TwDesc) (r : BusResult)
  /-- PROCESS_CALL (R512). -/
  | processCall (n : Fin 12) (t : TwDesc) (r : BusResult)
  /-- BLOCK_PROCESS_CALL (R512). -/
  | blockProcessCall (n : Fin 12) (t : TwDesc) (r : BusResult)
  /-- RESERVED_DESCRIPTOR_TYPE (R513). -/
  | reservedDescriptorType (n : Fin 12) (ty : Fin 4) (t : TwDesc)
  /-- CLOCK_STRETCH_TIMEOUT (R514). -/
  | clockStretchTimeout (n : Fin 12)
  /-- ARBITRATION_LOST (R516). -/
  | arbitrationLost (n : Fin 12) (addressed : Bool)
  /-- ARBITRATION_RETRY (R516). -/
  | arbitrationRetry (n : Fin 12) (r : BusResult)
  /-- ALERT_ASSERT (R518). -/
  | alertAssert (src : Fin 20) (level : Bool)
  /-- ARA_READ (R518). -/
  | araRead (n : Fin 12) (resp : Option Byte)
  /-- ALERT_UNMASK (R518). -/
  | alertUnmask (n : Fin 12)
  /-- STUCK_BUS (R519). -/
  | stuckBus (n : Fin 12) (sclLow : Bool) (freed : Bool)
  /-- SEGPWR_OFF_END (R519). -/
  | segpwrOffEnd (n : Fin 12)
  /-- SEGPWR_ON_END (R519). -/
  | segpwrOnEnd (n : Fin 12) (linesHigh : Bool)
  /-- AVS_WRITE_COMMIT (R524). -/
  | avsWriteCommit (a : Fin 8) (mv : BitVec 16)
  /-- AVS_READ_TELEMETRY (R524). -/
  | avsReadTelemetry (a : Fin 8) (what : Fin 3)
  /-- AVS_READ_STATUS (R524). -/
  | avsReadStatus (a : Fin 8)
  /-- AVS_WRITE_STATUS (R524). -/
  | avsWriteStatus (a : Fin 8) (v : BitVec 16)
  /-- AVS_RESPONSE (R525). -/
  | avsResponse (a : Fin 8) (ack : BitVec 2) (data : BitVec 16) (crcOk : Bool)
  /-- AVS_BUSY_WAIT_END (R525). -/
  | avsBusyWaitEnd (a : Fin 8)
  /-- AVS_STATUS_ALERT (R525). -/
  | avsStatusAlert (a : Fin 8)
  /-- CRYSTAL_START_TIMEOUT (R324). -/
  | crystalStartTimeout
  /-- COMMISSION_I_NOM_MEASURED (R357). -/
  | commissionINomMeasured (n : Fin 18)
  /-- RESERVED_LCT (R142). -/
  | reservedLct (n : Fin 24) (lct : Bool)
  /-- MCTP_MESSAGE_DISCARD (R438). -/
  | mctpMessageDiscard (ch : Fin 2) (failed : Bool)
  /-- ENDGAME_UNKNOWN_COMMAND (R394). -/
  | endgameUnknownCommand (cmd : Byte)
  /-- JTAG_BYPASS (R557). -/
  | jtagBypass
  /-- JTAG_IDCODE (R557). -/
  | jtagIdcode
  /-- JTAG_SAMPLE_PRELOAD (R557). -/
  | jtagSamplePreload (balls : List Bool) (cells : List Bool)
  /-- JTAG_EXTEST (R557). -/
  | jtagExtest (balls : List Bool) (cells : List Bool)
  /-- JTAG_CLAMP (R557). -/
  | jtagClamp
  /-- JTAG_HIGHZ (R557). -/
  | jtagHighz
  /-- JTAG_DEBUG (R557). -/
  | jtagDebug
  deriving DecidableEq, Repr

end Sys2Proof
end

