-- ==== Sys2Proof/Machine/RegMap.lean ====
section
/-! DEFINITION. The register map of W0 (R15): every register of the field tables of spec/01 to spec/15 with its
address, its reset word and the access type of each field, and a name `F.<REGISTER>_<FIELD>` for each field. Written out
from the field tables by a script over spec/*.md. -/

namespace Sys2Proof.Machine

/-- The access types of R7. -/
inductive Access where
  | rw | ro | wo | w1c | w1s | rws | rwl
  deriving DecidableEq, Repr

/-- One field of a register: its lowest bit, its width, its access type; `own`: a row of the command table other than
REGISTER_WRITE carries its writes; `port`: read-only in W0 and written by firmware through its own port. -/
structure FieldDef where
  lo : Nat
  len : Nat
  acc : Access
  own : Bool
  port : Bool
  deriving DecidableEq, Repr

/-- One register (or `count` like ones, `stride` bytes apart), its cold-reset word and its fields. -/
structure RegDef where
  base : Nat
  stride : Nat
  count : Nat
  rst : Nat
  fields : List FieldDef
  deriving DecidableEq, Repr

/-- A field by name: the register's base and stride, the field's lowest bit and width. -/
structure Fld where
  base : Nat
  stride : Nat
  lo : Nat
  len : Nat
  deriving DecidableEq, Repr

/-- The byte address of the field's register, index `i`. -/
def Fld.addr (f : Fld) (i : Nat) : Nat := f.base + f.stride * i

/-- Registers of block GLB, part 0. -/
def glbRegs0 : List RegDef := [
  -- GLB_ID
  ⟨0x0, 0x0, 1, 0xb00960, [⟨24, 4, .ro, false, false⟩, ⟨16, 8, .ro, false, false⟩, ⟨0, 16, .ro, false, false⟩]⟩,
  -- GLB_CONFIG
  ⟨0x4, 0x0, 1, 0x40481804, [⟨24, 8, .ro, false, false⟩, ⟨16, 8, .ro, false, false⟩, ⟨8, 8, .ro, false, false⟩, ⟨0, 4, .ro, false, false⟩]⟩,
  -- GLB_RESET_CAUSE
  ⟨0x10, 0x0, 1, 0x1, [⟨16, 16, .ro, false, false⟩, ⟨8, 1, .ro, false, false⟩, ⟨7, 1, .ro, false, false⟩, ⟨6, 1, .ro, false, false⟩, ⟨5, 1, .ro, false, false⟩, ⟨4, 1, .ro, false, false⟩, ⟨3, 1, .ro, false, false⟩, ⟨2, 1, .ro, false, false⟩, ⟨1, 1, .ro, false, false⟩, ⟨0, 1, .ro, false, false⟩]⟩,
  -- GLB_RESET_CTRL
  ⟨0x14, 0x0, 1, 0x0, [⟨16, 16, .wo, true, false⟩, ⟨2, 1, .wo, true, false⟩, ⟨1, 1, .wo, true, false⟩, ⟨0, 1, .wo, true, false⟩]⟩,
  -- GLB_CORE_RESET
  ⟨0x18, 0x0, 1, 0x0, [⟨16, 16, .wo, true, false⟩, ⟨1, 10, .wo, true, false⟩]⟩,
  -- GLB_CLK_STATUS
  ⟨0x20, 0x0, 1, 0x20, [⟨6, 1, .ro, false, false⟩, ⟨5, 1, .ro, false, false⟩, ⟨4, 1, .ro, false, false⟩, ⟨3, 1, .ro, false, false⟩, ⟨2, 1, .ro, false, false⟩, ⟨1, 1, .ro, false, false⟩, ⟨0, 1, .ro, false, false⟩]⟩,
  -- GLB_GTS_LO
  ⟨0x30, 0x0, 1, 0x0, [⟨0, 32, .ro, false, false⟩]⟩,
  -- GLB_GTS_HI
  ⟨0x34, 0x0, 1, 0x0, [⟨0, 32, .ro, false, false⟩]⟩,
  -- GLB_WRITE_LOCK
  ⟨0x40, 0x0, 1, 0x0, [⟨0, 1, .ro, true, false⟩]⟩,
  -- GLB_ECC_CE_COUNT
  ⟨0x50, 0x0, 1, 0x0, [⟨0, 32, .rws, true, false⟩]⟩,
  -- GLB_ECC_UE_COUNT
  ⟨0x54, 0x0, 1, 0x0, [⟨0, 32, .rws, true, false⟩]⟩,
  -- GLB_ECC_LAST
  ⟨0x58, 0x0, 1, 0x0, [⟨28, 4, .rws, false, false⟩, ⟨0, 16, .rws, false, false⟩]⟩,
  -- GLB_ECC_LAST_WORD
  ⟨0x5c, 0x0, 1, 0x0, [⟨0, 31, .rws, false, false⟩]⟩,
  -- GLB_SCRUB_CTRL
  ⟨0x60, 0x0, 1, 0x803e8, [⟨16, 16, .rwl, false, false⟩, ⟨0, 16, .rwl, false, false⟩]⟩,
  -- GLB_SCRUB_STATUS
  ⟨0x64, 0x0, 1, 0x0, [⟨1, 1, .w1c, false, false⟩, ⟨0, 1, .w1c, false, false⟩]⟩,
  -- GLB_DIE_STATUS
  ⟨0x70, 0x0, 1, 0x0, [⟨16, 16, .ro, false, false⟩, ⟨0, 16, .ro, false, false⟩]⟩,
  -- BOOT_STATUS
  ⟨0x100, 0x0, 1, 0x0, [⟨28, 4, .ro, false, false⟩, ⟨26, 2, .ro, false, false⟩, ⟨25, 1, .ro, false, false⟩, ⟨24, 1, .ro, false, false⟩, ⟨23, 1, .ro, false, false⟩, ⟨22, 1, .ro, false, false⟩, ⟨21, 1, .ro, false, false⟩, ⟨20, 1, .ro, false, false⟩]⟩,
  -- BOOT_SLOT_STATE
  ⟨0x104, 0x8, 3, 0x0, [⟨28, 4, .ro, false, false⟩, ⟨24, 4, .ro, false, false⟩, ⟨21, 3, .ro, false, false⟩, ⟨18, 3, .ro, false, false⟩, ⟨16, 2, .ro, false, false⟩, ⟨0, 16, .ro, false, false⟩]⟩,
  -- BOOT_SLOT_SEQ
  ⟨0x108, 0x8, 3, 0x0, [⟨0, 32, .ro, false, false⟩]⟩,
  -- BOOT_VERSION
  ⟨0x120, 0x0, 1, 0x0, [⟨0, 32, .ro, false, false⟩]⟩]

/-- Registers of block GLB, part 1. -/
def glbRegs1 : List RegDef := [
  -- BOOT_SVN
  ⟨0x124, 0x0, 1, 0x0, [⟨16, 16, .ro, false, false⟩, ⟨0, 16, .ro, false, false⟩]⟩,
  -- BOOT_TIME
  ⟨0x128, 0x0, 1, 0x0, [⟨0, 32, .ro, false, false⟩]⟩,
  -- BOOT_COUNT_LO
  ⟨0x130, 0x0, 1, 0x0, [⟨0, 32, .ro, false, false⟩]⟩,
  -- BOOT_COUNT_HI
  ⟨0x134, 0x0, 1, 0x0, [⟨0, 32, .ro, false, false⟩]⟩,
  -- UPD_STATUS
  ⟨0x138, 0x0, 1, 0x0, [⟨28, 4, .ro, false, false⟩, ⟨26, 2, .ro, false, false⟩, ⟨16, 8, .ro, false, false⟩, ⟨0, 8, .ro, false, false⟩]⟩,
  -- TRUST_STATUS
  ⟨0x13c, 0x0, 1, 0x0, [⟨12, 4, .ro, false, false⟩, ⟨4, 4, .ro, false, false⟩, ⟨0, 4, .ro, false, false⟩]⟩]

/-- Every register of block GLB. -/
def glbRegs : List RegDef := glbRegs0 ++ glbRegs1

/-- Registers of block MBX, part 0. -/
def mbxRegs0 : List RegDef := [
  -- MBX_ID
  ⟨0x100000, 0x0, 1, 0x10303, [⟨16, 8, .ro, false, false⟩, ⟨8, 8, .ro, false, false⟩, ⟨0, 8, .ro, false, false⟩]⟩,
  -- MBX_STATUS
  ⟨0x100004, 0x0, 1, 0x0, [⟨10, 2, .ro, false, false⟩, ⟨8, 2, .ro, false, false⟩, ⟨4, 2, .ro, false, false⟩, ⟨0, 1, .ro, false, false⟩]⟩,
  -- MBX_LEASE
  ⟨0x100008, 0x0, 1, 0x0, [⟨0, 16, .ro, false, false⟩]⟩,
  -- MBX_ERR
  ⟨0x10000c, 0x0, 1, 0x0, [⟨3, 1, .w1c, false, false⟩, ⟨2, 1, .w1c, false, false⟩, ⟨1, 1, .w1c, false, false⟩, ⟨0, 1, .w1c, false, false⟩]⟩,
  -- MBX_INT_STATUS
  ⟨0x100010, 0x0, 1, 0x0, [⟨0, 16, .w1c, false, false⟩]⟩,
  -- MBX_EVT_MISSED
  ⟨0x100014, 0x0, 1, 0x0, [⟨0, 32, .rw, true, false⟩]⟩,
  -- MBX_CH_DOORBELL
  ⟨0x100100, 0x8, 4, 0x0, [⟨31, 1, .wo, true, false⟩]⟩,
  -- MBX_CH_STATUS
  ⟨0x100104, 0x8, 4, 0x0, [⟨16, 16, .ro, false, false⟩, ⟨8, 1, .w1c, true, false⟩, ⟨0, 2, .ro, false, false⟩]⟩]

/-- Every register of block MBX. -/
def mbxRegs : List RegDef := mbxRegs0

/-- Registers of block PWC, part 0. -/
def pwcRegs0 : List RegDef := [
  -- PWC_CTRL
  ⟨0x200000, 0x0, 1, 0x0, [⟨3, 1, .rw, false, false⟩, ⟨2, 1, .rw, false, false⟩, ⟨1, 1, .rw, false, false⟩, ⟨0, 1, .rw, false, false⟩]⟩,
  -- PWC_STATUS
  ⟨0x200004, 0x0, 1, 0x0, [⟨24, 8, .ro, false, false⟩, ⟨23, 1, .ro, false, false⟩, ⟨20, 3, .ro, false, false⟩, ⟨19, 1, .ro, false, false⟩, ⟨0, 8, .ro, false, false⟩]⟩,
  -- PWC_EMERG
  ⟨0x200008, 0x0, 1, 0x0, [⟨16, 16, .ro, false, false⟩, ⟨0, 7, .ro, false, false⟩]⟩,
  -- PWC_ERR
  ⟨0x20000c, 0x0, 1, 0x0, [⟨5, 1, .w1c, false, false⟩, ⟨4, 1, .w1c, false, false⟩, ⟨3, 1, .w1c, false, false⟩, ⟨2, 1, .w1c, false, false⟩, ⟨1, 1, .w1c, false, false⟩, ⟨0, 1, .w1c, false, false⟩]⟩,
  -- PWC_TRAY_CAP
  ⟨0x200010, 0x0, 1, 0x0, [⟨16, 16, .ro, false, false⟩, ⟨0, 16, .ro, false, false⟩]⟩,
  -- PWC_OVERHEAD
  ⟨0x200014, 0x0, 1, 0x258, [⟨0, 16, .rwl, false, false⟩]⟩,
  -- PWC_CAP_DEFAULT
  ⟨0x200020, 0x4, 4, 0x0, [⟨16, 16, .rwl, false, false⟩, ⟨0, 16, .rwl, false, false⟩]⟩,
  -- PWC_LIM_CFG
  ⟨0x200030, 0x0, 1, 0x5080064, [⟨24, 8, .rwl, false, false⟩, ⟨16, 8, .rwl, false, false⟩, ⟨0, 16, .rwl, false, false⟩]⟩,
  -- PWC_SLEW_CFG
  ⟨0x200034, 0x0, 1, 0x640014, [⟨16, 16, .rw, false, false⟩, ⟨0, 8, .rw, false, false⟩]⟩,
  -- PWC_SHAPE_CFG
  ⟨0x200038, 0x0, 1, 0x203c032, [⟨24, 8, .rw, false, false⟩, ⟨14, 5, .rw, false, false⟩, ⟨9, 5, .rw, false, false⟩, ⟨0, 9, .rw, false, false⟩]⟩,
  -- PWC_GB_CFG
  ⟨0x20003c, 0x0, 1, 0x28190a25, [⟨24, 8, .rwl, false, false⟩, ⟨16, 8, .rwl, false, false⟩, ⟨8, 8, .rwl, false, false⟩, ⟨4, 4, .rw, false, false⟩, ⟨0, 4, .rw, false, false⟩]⟩,
  -- PWC_DROOP_CFG
  ⟨0x200040, 0x0, 1, 0x28021518, [⟨24, 8, .rwl, false, false⟩, ⟨16, 5, .rwl, false, false⟩, ⟨0, 16, .rwl, false, false⟩]⟩,
  -- PWC_DROOP_TIME
  ⟨0x200044, 0x0, 1, 0xc8000a, [⟨16, 16, .rwl, false, false⟩, ⟨0, 16, .rwl, false, false⟩]⟩,
  -- PWC_DVFS_CFG
  ⟨0x200048, 0x0, 1, 0x14030064, [⟨24, 8, .rwl, false, false⟩, ⟨16, 8, .rwl, false, false⟩, ⟨0, 16, .rwl, false, false⟩]⟩,
  -- PWC_ARB_CFG
  ⟨0x20004c, 0x0, 1, 0x7d00032, [⟨16, 16, .rwl, false, false⟩, ⟨0, 16, .rw, false, false⟩]⟩,
  -- PWC_CHECK_EN
  ⟨0x200060, 0x0, 1, 0xffffffff, [⟨16, 16, .rwl, true, false⟩, ⟨8, 8, .rwl, true, false⟩, ⟨0, 8, .rwl, true, false⟩]⟩,
  -- PWC_CHECK_CFG
  ⟨0x200064, 0x0, 1, 0x3e80444, [⟨16, 16, .rwl, false, false⟩, ⟨13, 1, .rwl, false, false⟩, ⟨12, 1, .rwl, false, false⟩, ⟨8, 4, .rwl, false, false⟩, ⟨4, 4, .rwl, false, false⟩, ⟨0, 4, .rwl, false, false⟩]⟩,
  -- PWC_CHECK_LATCH
  ⟨0x200068, 0x0, 1, 0x0, [⟨16, 16, .w1c, true, false⟩, ⟨8, 8, .w1c, true, false⟩, ⟨0, 8, .w1c, true, false⟩]⟩,
  -- PWC_CHECK_FORCE
  ⟨0x20006c, 0x0, 1, 0x0, [⟨0, 8, .rw, true, false⟩]⟩,
  -- PWC_VRALERT_MAP
  ⟨0x200070, 0x4, 4, 0x0, [⟨24, 8, .rwl, false, false⟩, ⟨16, 8, .rwl, false, false⟩, ⟨8, 8, .rwl, false, false⟩, ⟨0, 8, .rwl, false, false⟩]⟩]

/-- Registers of block PWC, part 1. -/
def pwcRegs1 : List RegDef := [
  -- PWC_MATE_STATUS
  ⟨0x200080, 0x0, 1, 0x0, [⟨8, 1, .ro, false, false⟩, ⟨0, 4, .ro, false, false⟩]⟩,
  -- PWC_MATE_CFG
  ⟨0x200084, 0x0, 1, 0x640019, [⟨16, 16, .rwl, false, false⟩, ⟨0, 16, .rwl, false, false⟩]⟩,
  -- PWC_MATE_CLEAR
  ⟨0x200088, 0x0, 1, 0x0, [⟨16, 16, .wo, true, false⟩, ⟨0, 1, .wo, true, false⟩]⟩,
  -- PWC_CLK_SEL
  ⟨0x200100, 0x0, 1, 0x0, [⟨0, 12, .rw, false, false⟩]⟩,
  -- PWC_CLK_STATE
  ⟨0x200104, 0x0, 1, 0x0, [⟨30, 2, .ro, false, false⟩, ⟨0, 8, .ro, false, false⟩]⟩,
  -- PWC_CLK_WORK_LO
  ⟨0x200108, 0x0, 1, 0x0, [⟨0, 32, .ro, false, false⟩]⟩,
  -- PWC_CLK_WORK_HI
  ⟨0x20010c, 0x0, 1, 0x0, [⟨0, 32, .ro, false, false⟩]⟩,
  -- PWC_CLK_FILLER_LO
  ⟨0x200110, 0x0, 1, 0x0, [⟨0, 32, .ro, false, false⟩]⟩,
  -- PWC_CLK_FILLER_HI
  ⟨0x200114, 0x0, 1, 0x0, [⟨0, 32, .ro, false, false⟩]⟩,
  -- PWC_CLK_OVERHEAD_LO
  ⟨0x200118, 0x0, 1, 0x0, [⟨0, 32, .ro, false, false⟩]⟩,
  -- PWC_CLK_OVERHEAD_HI
  ⟨0x20011c, 0x0, 1, 0x0, [⟨0, 32, .ro, false, false⟩]⟩,
  -- PWC_CLK_TOKENS_LO
  ⟨0x200120, 0x0, 1, 0x0, [⟨0, 32, .ro, false, false⟩]⟩,
  -- PWC_CLK_TOKENS_HI
  ⟨0x200124, 0x0, 1, 0x0, [⟨0, 32, .ro, false, false⟩]⟩,
  -- PWC_CLK_UNBOUND_LO
  ⟨0x200128, 0x0, 1, 0x0, [⟨0, 32, .ro, false, false⟩]⟩,
  -- PWC_CLK_UNBOUND_HI
  ⟨0x20012c, 0x0, 1, 0x0, [⟨0, 32, .ro, false, false⟩]⟩,
  -- PWC_ACC_BUDGET
  ⟨0x201000, 0x200, 8, 0x0, [⟨16, 16, .ro, false, false⟩, ⟨0, 16, .ro, false, false⟩]⟩,
  -- PWC_ACC_PSTATE
  ⟨0x201004, 0x200, 8, 0x1f1f1f, [⟨31, 1, .ro, false, false⟩, ⟨30, 1, .ro, false, false⟩, ⟨29, 1, .ro, false, false⟩, ⟨24, 5, .ro, false, false⟩, ⟨22, 2, .ro, false, false⟩, ⟨21, 1, .w1c, true, false⟩, ⟨16, 5, .ro, false, false⟩, ⟨8, 5, .ro, false, false⟩, ⟨0, 5, .ro, false, false⟩]⟩,
  -- PWC_ACC_FILLER
  ⟨0x201008, 0x200, 8, 0x0, [⟨21, 1, .ro, false, false⟩, ⟨16, 5, .ro, false, false⟩]⟩,
  -- PWC_ACC_POWER
  ⟨0x20100c, 0x200, 8, 0x0, [⟨16, 16, .ro, false, false⟩, ⟨0, 16, .ro, false, false⟩]⟩,
  -- PWC_ACC_CFG
  ⟨0x201010, 0x200, 8, 0xffff0000, [⟨16, 16, .rwl, false, false⟩, ⟨1, 1, .ro, false, false⟩, ⟨0, 1, .rwl, true, false⟩]⟩]

/-- Registers of block PWC, part 2. -/
def pwcRegs2 : List RegDef := [
  -- PWC_ACC_SB
  ⟨0x201014, 0x200, 8, 0x0, [⟨31, 1, .ro, false, true⟩, ⟨30, 1, .ro, false, true⟩, ⟨28, 2, .ro, false, true⟩, ⟨24, 4, .ro, false, true⟩, ⟨16, 7, .ro, false, true⟩, ⟨8, 8, .ro, false, true⟩]⟩,
  -- PWC_PTAB0_0
  ⟨0x201100, 0x8, 32, 0x0, [⟨16, 16, .rwl, false, false⟩, ⟨0, 16, .rwl, false, false⟩]⟩,
  -- PWC_PTAB1_0
  ⟨0x201104, 0x8, 32, 0x0, [⟨16, 16, .rwl, false, false⟩, ⟨0, 16, .rwl, false, false⟩]⟩,
  -- PWC_PTAB0_1
  ⟨0x201300, 0x8, 32, 0x0, [⟨16, 16, .rwl, false, false⟩, ⟨0, 16, .rwl, false, false⟩]⟩,
  -- PWC_PTAB1_1
  ⟨0x201304, 0x8, 32, 0x0, [⟨16, 16, .rwl, false, false⟩, ⟨0, 16, .rwl, false, false⟩]⟩,
  -- PWC_PTAB0_2
  ⟨0x201500, 0x8, 32, 0x0, [⟨16, 16, .rwl, false, false⟩, ⟨0, 16, .rwl, false, false⟩]⟩,
  -- PWC_PTAB1_2
  ⟨0x201504, 0x8, 32, 0x0, [⟨16, 16, .rwl, false, false⟩, ⟨0, 16, .rwl, false, false⟩]⟩,
  -- PWC_PTAB0_3
  ⟨0x201700, 0x8, 32, 0x0, [⟨16, 16, .rwl, false, false⟩, ⟨0, 16, .rwl, false, false⟩]⟩,
  -- PWC_PTAB1_3
  ⟨0x201704, 0x8, 32, 0x0, [⟨16, 16, .rwl, false, false⟩, ⟨0, 16, .rwl, false, false⟩]⟩,
  -- PWC_PTAB0_4
  ⟨0x201900, 0x8, 32, 0x0, [⟨16, 16, .rwl, false, false⟩, ⟨0, 16, .rwl, false, false⟩]⟩,
  -- PWC_PTAB1_4
  ⟨0x201904, 0x8, 32, 0x0, [⟨16, 16, .rwl, false, false⟩, ⟨0, 16, .rwl, false, false⟩]⟩,
  -- PWC_PTAB0_5
  ⟨0x201b00, 0x8, 32, 0x0, [⟨16, 16, .rwl, false, false⟩, ⟨0, 16, .rwl, false, false⟩]⟩,
  -- PWC_PTAB1_5
  ⟨0x201b04, 0x8, 32, 0x0, [⟨16, 16, .rwl, false, false⟩, ⟨0, 16, .rwl, false, false⟩]⟩,
  -- PWC_PTAB0_6
  ⟨0x201d00, 0x8, 32, 0x0, [⟨16, 16, .rwl, false, false⟩, ⟨0, 16, .rwl, false, false⟩]⟩,
  -- PWC_PTAB1_6
  ⟨0x201d04, 0x8, 32, 0x0, [⟨16, 16, .rwl, false, false⟩, ⟨0, 16, .rwl, false, false⟩]⟩,
  -- PWC_PTAB0_7
  ⟨0x201f00, 0x8, 32, 0x0, [⟨16, 16, .rwl, false, false⟩, ⟨0, 16, .rwl, false, false⟩]⟩,
  -- PWC_PTAB1_7
  ⟨0x201f04, 0x8, 32, 0x0, [⟨16, 16, .rwl, false, false⟩, ⟨0, 16, .rwl, false, false⟩]⟩,
  -- ARB_GRP_CFG
  ⟨0x220000, 0x10, 256, 0x2, [⟨1, 1, .ro, false, true⟩, ⟨0, 1, .ro, false, true⟩]⟩,
  -- ARB_GRP_STATE
  ⟨0x220004, 0x10, 256, 0x0, [⟨31, 1, .ro, false, false⟩, ⟨16, 15, .ro, false, false⟩, ⟨8, 8, .rw, true, false⟩, ⟨0, 8, .rw, true, false⟩]⟩,
  -- ORO_CTRL
  ⟨0x230000, 0x0, 1, 0x0, [⟨2, 1, .wo, true, false⟩, ⟨1, 1, .rw, false, false⟩, ⟨0, 1, .rw, true, false⟩]⟩]

/-- Registers of block PWC, part 3. -/
def pwcRegs3 : List RegDef := [
  -- ORO_STATUS
  ⟨0x230004, 0x0, 1, 0x0, [⟨28, 4, .ro, false, false⟩, ⟨23, 5, .ro, false, false⟩, ⟨22, 1, .ro, false, false⟩, ⟨17, 5, .ro, false, false⟩, ⟨16, 1, .ro, false, false⟩, ⟨11, 5, .ro, false, false⟩, ⟨10, 1, .ro, false, false⟩, ⟨5, 5, .ro, false, false⟩, ⟨4, 1, .ro, false, false⟩, ⟨3, 1, .w1c, false, false⟩, ⟨2, 1, .ro, false, false⟩, ⟨1, 1, .ro, false, false⟩, ⟨0, 1, .ro, false, false⟩]⟩,
  -- ORO_FRAME_CFG
  ⟨0x230008, 0x0, 1, 0x5080514, [⟨24, 8, .rwl, false, false⟩, ⟨16, 8, .rwl, false, false⟩, ⟨8, 8, .rwl, false, false⟩, ⟨0, 8, .rwl, false, false⟩]⟩,
  -- ORO_GATE_CFG
  ⟨0x23000c, 0x0, 1, 0x53c0258, [⟨24, 8, .rwl, false, false⟩, ⟨16, 8, .rwl, false, false⟩, ⟨0, 16, .rwl, false, false⟩]⟩,
  -- ORO_SOLVE_CFG
  ⟨0x230010, 0x0, 1, 0x30a0258, [⟨24, 8, .rwl, false, false⟩, ⟨16, 8, .rwl, false, false⟩, ⟨0, 16, .rwl, false, false⟩]⟩,
  -- ORO_CLEAN
  ⟨0x230014, 0x0, 1, 0x0, [⟨16, 16, .ro, false, false⟩, ⟨0, 16, .ro, false, false⟩]⟩,
  -- ORO_ERR_ACTIVE
  ⟨0x230018, 0x0, 1, 0x0, [⟨0, 32, .ro, false, false⟩]⟩,
  -- ORO_ERR_SHADOW
  ⟨0x23001c, 0x0, 1, 0x0, [⟨0, 32, .ro, false, false⟩]⟩,
  -- ORO_ERR_BASE
  ⟨0x230020, 0x0, 1, 0x0, [⟨0, 32, .ro, false, false⟩]⟩,
  -- ORO_COUNTS
  ⟨0x230024, 0x0, 1, 0x0, [⟨24, 8, .rw, true, false⟩, ⟨16, 8, .rw, true, false⟩, ⟨8, 8, .rw, true, false⟩, ⟨0, 8, .rw, true, false⟩]⟩,
  -- ORO_TLM_MISS
  ⟨0x230028, 0x0, 1, 0x0, [⟨0, 32, .rw, true, false⟩]⟩]

/-- Every register of block PWC. -/
def pwcRegs : List RegDef := pwcRegs0 ++ pwcRegs1 ++ pwcRegs2 ++ pwcRegs3

/-- Registers of block SEQ, part 0. -/
def seqRegs0 : List RegDef := [
  -- SEQ_CTRL
  ⟨0x300000, 0x0, 1, 0x0, [⟨1, 1, .wo, true, false⟩, ⟨0, 1, .ro, false, false⟩]⟩,
  -- SEQ_STATUS
  ⟨0x300004, 0x0, 1, 0x0, [⟨28, 4, .ro, false, false⟩, ⟨27, 1, .ro, false, false⟩, ⟨26, 1, .ro, false, false⟩, ⟨16, 7, .ro, false, false⟩, ⟨0, 7, .ro, false, false⟩]⟩,
  -- SEQ_ERR
  ⟨0x300008, 0x0, 1, 0x0, [⟨9, 1, .w1c, false, false⟩, ⟨8, 1, .w1c, false, false⟩, ⟨7, 1, .w1c, false, false⟩, ⟨6, 1, .w1c, false, false⟩, ⟨5, 1, .w1c, false, false⟩, ⟨4, 1, .w1c, false, false⟩, ⟨3, 1, .w1c, false, false⟩, ⟨2, 1, .w1c, false, false⟩, ⟨1, 1, .w1c, false, false⟩, ⟨0, 1, .w1c, false, false⟩]⟩,
  -- SEQ_LAST_FAIL
  ⟨0x30000c, 0x0, 1, 0x0, [⟨28, 4, .rws, false, false⟩, ⟨24, 4, .rws, false, false⟩, ⟨20, 4, .rws, false, false⟩, ⟨16, 4, .rws, false, false⟩, ⟨0, 7, .rws, false, false⟩]⟩,
  -- SEQ_HSW_CFG
  ⟨0x300010, 0x0, 1, 0xdc960064, [⟨24, 8, .rwl, false, false⟩, ⟨16, 8, .rwl, false, false⟩, ⟨8, 8, .rwl, false, false⟩, ⟨0, 8, .rwl, false, false⟩]⟩,
  -- SEQ_HSW_SOA
  ⟨0x300014, 0x0, 1, 0xa30, [⟨16, 16, .rwl, false, false⟩, ⟨8, 8, .rwl, false, false⟩, ⟨4, 4, .rwl, false, false⟩]⟩,
  -- SEQ_HSW_STATUS
  ⟨0x300018, 0x0, 1, 0x0, [⟨28, 4, .ro, false, false⟩, ⟨24, 4, .ro, false, false⟩, ⟨16, 8, .ro, false, false⟩, ⟨0, 4, .ro, false, false⟩]⟩,
  -- SEQ_HSW_SHUNT
  ⟨0x30001c, 0x0, 1, 0xfa, [⟨0, 16, .rwl, false, false⟩]⟩,
  -- SEQ_BUS_CFG
  ⟨0x300020, 0x0, 1, 0x84606458, [⟨24, 8, .rwl, false, false⟩, ⟨16, 8, .rwl, false, false⟩, ⟨8, 8, .rwl, false, false⟩, ⟨0, 8, .rwl, false, false⟩]⟩,
  -- SEQ_BUS_STATUS
  ⟨0x300024, 0x0, 1, 0x0, [⟨16, 16, .ro, false, false⟩, ⟨3, 1, .ro, false, false⟩, ⟨2, 1, .ro, false, false⟩, ⟨1, 1, .ro, false, false⟩, ⟨0, 1, .ro, false, false⟩]⟩,
  -- SEQ_DOM_REQ
  ⟨0x300030, 0x0, 1, 0x1, [⟨0, 16, .ro, false, false⟩]⟩,
  -- SEQ_DOM_STATE
  ⟨0x300034, 0x0, 1, 0x0, [⟨0, 32, .ro, false, false⟩]⟩,
  -- SEQ_DOM_FLAGS
  ⟨0x300038, 0x0, 1, 0x0, [⟨16, 16, .ro, false, false⟩, ⟨0, 16, .ro, false, false⟩]⟩,
  -- SEQ_DOM_CFG
  ⟨0x300040, 0x4, 16, 0x0, [⟨7, 1, .ro, false, true⟩, ⟨6, 1, .ro, false, true⟩, ⟨5, 1, .ro, false, true⟩, ⟨4, 1, .ro, false, true⟩, ⟨0, 3, .ro, false, true⟩]⟩,
  -- SEQ_FAILED
  ⟨0x300080, 0x4, 3, 0x0, [⟨0, 32, .ro, false, false⟩]⟩,
  -- SEQ_ON
  ⟨0x300090, 0x4, 3, 0x0, [⟨0, 32, .ro, false, false⟩]⟩,
  -- SEQ_RST_CFG
  ⟨0x300100, 0x4, 16, 0x5000a, [⟨31, 1, .ro, false, true⟩, ⟨24, 7, .ro, false, true⟩, ⟨14, 10, .ro, false, true⟩, ⟨0, 8, .ro, false, true⟩]⟩,
  -- SEQ_RST_HOLD
  ⟨0x300140, 0x0, 1, 0x0, [⟨0, 16, .rw, true, false⟩]⟩,
  -- SEQ_RST_STATUS
  ⟨0x300144, 0x0, 1, 0xffff, [⟨16, 16, .ro, false, false⟩, ⟨0, 16, .ro, false, false⟩]⟩,
  -- SEQ_RAIL_PAR
  ⟨0x301000, 0x20, 96, 0x7f7f7f00, [⟨24, 8, .ro, false, true⟩, ⟨16, 8, .ro, false, true⟩, ⟨8, 8, .ro, false, true⟩, ⟨0, 8, .ro, false, true⟩]⟩]

/-- Registers of block SEQ, part 1. -/
def seqRegs1 : List RegDef := [
  -- SEQ_RAIL_TIME
  ⟨0x301004, 0x20, 96, 0x140000, [⟨24, 8, .ro, false, true⟩, ⟨16, 8, .ro, false, true⟩, ⟨8, 8, .ro, false, true⟩, ⟨0, 8, .ro, false, true⟩]⟩,
  -- SEQ_RAIL_PG
  ⟨0x301008, 0x20, 96, 0xa0a, [⟨31, 1, .ro, false, true⟩, ⟨30, 1, .ro, false, true⟩, ⟨29, 1, .ro, false, true⟩, ⟨24, 4, .ro, false, true⟩, ⟨17, 7, .ro, false, true⟩, ⟨8, 9, .ro, false, true⟩, ⟨0, 8, .ro, false, true⟩]⟩,
  -- SEQ_RAIL_THR
  ⟨0x30100c, 0x20, 96, 0xffff0000, [⟨16, 16, .ro, false, true⟩, ⟨0, 16, .ro, false, true⟩]⟩,
  -- SEQ_RAIL_STATUS
  ⟨0x301010, 0x20, 96, 0x0, [⟨28, 4, .ro, false, false⟩, ⟨24, 4, .ro, false, false⟩, ⟨20, 4, .ro, false, false⟩, ⟨1, 1, .ro, false, false⟩, ⟨0, 1, .w1c, true, false⟩]⟩]

/-- Every register of block SEQ. -/
def seqRegs : List RegDef := seqRegs0 ++ seqRegs1

/-- Registers of block COOL, part 0. -/
def coolRegs0 : List RegDef := [
  -- COOL_CTRL
  ⟨0x400000, 0x0, 1, 0x3c000000, [⟨24, 8, .ro, false, true⟩, ⟨2, 1, .wo, true, false⟩, ⟨0, 2, .ro, false, false⟩]⟩,
  -- COOL_STATUS
  ⟨0x400004, 0x0, 1, 0x0, [⟨31, 1, .ro, false, false⟩, ⟨30, 1, .ro, false, false⟩, ⟨29, 1, .ro, false, false⟩, ⟨24, 5, .ro, false, false⟩, ⟨16, 8, .ro, false, false⟩, ⟨12, 4, .ro, false, false⟩, ⟨8, 4, .ro, false, false⟩]⟩,
  -- COOL_ERR
  ⟨0x400008, 0x0, 1, 0x0, [⟨13, 1, .w1c, false, false⟩, ⟨12, 1, .w1c, false, false⟩, ⟨11, 1, .w1c, false, false⟩, ⟨10, 1, .w1c, false, false⟩, ⟨9, 1, .w1c, false, false⟩, ⟨8, 1, .w1c, false, false⟩, ⟨7, 1, .w1c, false, false⟩, ⟨6, 1, .w1c, false, false⟩, ⟨5, 1, .w1c, false, false⟩, ⟨4, 1, .w1c, false, false⟩, ⟨3, 1, .w1c, false, false⟩, ⟨2, 1, .w1c, false, false⟩, ⟨1, 1, .w1c, false, false⟩, ⟨0, 1, .w1c, false, false⟩]⟩,
  -- COOL_TACH_CFG
  ⟨0x40000c, 0x0, 1, 0x32320540, [⟨24, 8, .ro, false, true⟩, ⟨16, 8, .ro, false, true⟩, ⟨8, 8, .ro, false, true⟩, ⟨0, 8, .ro, false, true⟩]⟩,
  -- COOL_FAN_FAULT
  ⟨0x400010, 0x0, 1, 0x32060a96, [⟨24, 8, .ro, false, true⟩, ⟨16, 8, .ro, false, true⟩, ⟨8, 8, .ro, false, true⟩, ⟨0, 8, .ro, false, true⟩]⟩,
  -- COOL_KICK
  ⟨0x400014, 0x0, 1, 0x140a0000, [⟨24, 8, .ro, false, true⟩, ⟨16, 8, .ro, false, true⟩]⟩,
  -- COOL_RSV
  ⟨0x400018, 0x0, 1, 0x181e0140, [⟨24, 8, .ro, false, true⟩, ⟨16, 8, .ro, false, true⟩, ⟨0, 16, .ro, false, true⟩]⟩,
  -- COOL_RSV_COVER
  ⟨0x40001c, 0x0, 1, 0x0, [⟨16, 16, .ro, false, true⟩, ⟨0, 16, .ro, false, true⟩]⟩,
  -- COOL_FLOW_CFG
  ⟨0x400020, 0x0, 1, 0x1930a400, [⟨24, 8, .ro, false, true⟩, ⟨20, 4, .ro, false, true⟩, ⟨12, 8, .ro, false, true⟩, ⟨8, 4, .ro, false, true⟩]⟩,
  -- FAN_CFG
  ⟨0x401000, 0x20, 18, 0x2006440, [⟨31, 1, .ro, false, true⟩, ⟨30, 1, .ro, false, true⟩, ⟨27, 3, .ro, false, true⟩, ⟨25, 2, .ro, false, true⟩, ⟨18, 7, .ro, false, true⟩, ⟨8, 10, .ro, false, true⟩, ⟨0, 8, .ro, false, true⟩]⟩,
  -- FAN_TARGET
  ⟨0x401004, 0x20, 18, 0x0, [⟨0, 16, .ro, false, false⟩]⟩,
  -- FAN_LIMIT
  ⟨0x401008, 0x20, 18, 0xffff03e8, [⟨16, 16, .ro, false, true⟩, ⟨0, 16, .ro, false, true⟩]⟩,
  -- FAN_CURRENT
  ⟨0x40100c, 0x20, 18, 0x0, [⟨16, 16, .ro, false, true⟩, ⟨0, 16, .ro, false, false⟩]⟩,
  -- FAN_STATUS
  ⟨0x401010, 0x20, 18, 0x800, [⟨28, 4, .ro, false, false⟩, ⟨24, 4, .ro, false, false⟩, ⟨22, 2, .ro, false, false⟩, ⟨21, 1, .ro, false, false⟩, ⟨16, 5, .ro, false, false⟩, ⟨15, 1, .ro, false, false⟩, ⟨1, 11, .ro, false, false⟩, ⟨0, 1, .w1c, true, false⟩]⟩,
  -- FAN_SPEED
  ⟨0x401014, 0x20, 18, 0x0, [⟨16, 16, .ro, false, false⟩, ⟨0, 16, .ro, false, false⟩]⟩,
  -- FAN_REF
  ⟨0x401018, 0x20, 18, 0x0, [⟨31, 1, .wo, true, false⟩, ⟨16, 11, .ro, false, true⟩, ⟨0, 16, .ro, false, true⟩]⟩,
  -- PUMP_CFG
  ⟨0x402000, 0x20, 4, 0x8000040, [⟨31, 1, .ro, false, true⟩, ⟨29, 2, .ro, false, true⟩, ⟨27, 2, .ro, false, true⟩, ⟨20, 7, .ro, false, true⟩, ⟨0, 8, .ro, false, true⟩]⟩,
  -- PUMP_TARGET
  ⟨0x402004, 0x20, 4, 0xffff0000, [⟨16, 16, .ro, false, true⟩, ⟨0, 16, .ro, false, false⟩]⟩,
  -- PUMP_STATUS
  ⟨0x402008, 0x20, 4, 0x800, [⟨16, 16, .ro, false, false⟩, ⟨13, 3, .ro, false, false⟩, ⟨12, 1, .ro, false, false⟩, ⟨1, 11, .ro, false, false⟩, ⟨0, 1, .w1c, true, false⟩]⟩,
  -- LOOP_CFG
  ⟨0x403000, 0x20, 4, 0x0, [⟨31, 1, .ro, false, true⟩, ⟨30, 1, .ro, false, true⟩, ⟨23, 7, .ro, false, true⟩, ⟨3, 1, .ro, false, false⟩, ⟨2, 1, .ro, false, false⟩, ⟨1, 1, .ro, false, false⟩, ⟨0, 1, .w1c, true, false⟩]⟩]

/-- Registers of block COOL, part 1. -/
def coolRegs1 : List RegDef := [
  -- LOOP_FLOW_CFG
  ⟨0x403004, 0x20, 4, 0x0, [⟨16, 16, .ro, false, true⟩, ⟨8, 8, .ro, false, true⟩, ⟨0, 8, .ro, false, true⟩]⟩,
  -- LOOP_PRESS_CFG
  ⟨0x403008, 0x20, 4, 0xffff0000, [⟨16, 16, .ro, false, true⟩, ⟨0, 16, .ro, false, true⟩]⟩,
  -- LOOP_STATUS
  ⟨0x40300c, 0x20, 4, 0x0, [⟨16, 16, .ro, false, false⟩, ⟨0, 16, .ro, false, false⟩]⟩,
  -- LEAK_CFG
  ⟨0x404000, 0x8, 16, 0x47d00c8, [⟨31, 1, .ro, false, true⟩, ⟨30, 1, .ro, false, true⟩, ⟨24, 4, .ro, false, true⟩, ⟨12, 12, .ro, false, true⟩, ⟨0, 12, .ro, false, true⟩]⟩,
  -- LEAK_STATUS
  ⟨0x404004, 0x8, 16, 0x0, [⟨20, 12, .ro, false, false⟩, ⟨2, 2, .ro, false, false⟩, ⟨0, 1, .w1c, true, false⟩]⟩,
  -- TD_CFG
  ⟨0x405000, 0x8, 32, 0x6405, [⟨31, 1, .ro, false, true⟩, ⟨28, 3, .ro, false, true⟩, ⟨8, 8, .ro, false, true⟩, ⟨0, 8, .ro, false, true⟩]⟩,
  -- TD_STATUS
  ⟨0x405004, 0x8, 32, 0x0, [⟨16, 16, .ro, false, false⟩, ⟨2, 1, .ro, false, false⟩, ⟨1, 1, .ro, false, false⟩]⟩]

/-- Every register of block COOL. -/
def coolRegs : List RegDef := coolRegs0 ++ coolRegs1

/-- Registers of block TLM, part 0. -/
def tlmRegs0 : List RegDef := [
  -- TLM_STATUS
  ⟨0x500000, 0x0, 1, 0x0, [⟨11, 1, .ro, false, false⟩, ⟨9, 2, .ro, false, false⟩, ⟨8, 1, .ro, false, false⟩, ⟨4, 4, .ro, false, false⟩, ⟨0, 4, .ro, false, false⟩]⟩,
  -- TLM_REF
  ⟨0x500004, 0x0, 1, 0x0, [⟨16, 16, .ro, false, true⟩, ⟨0, 16, .ro, false, false⟩]⟩,
  -- TLM_FAN_SCALE
  ⟨0x500008, 0x0, 1, 0x3e8, [⟨0, 16, .rwl, false, false⟩]⟩,
  -- TLM_FAST_CFG
  ⟨0x500040, 0x4, 8, 0x2710, [⟨16, 12, .rwl, false, false⟩, ⟨0, 16, .rwl, false, false⟩]⟩,
  -- TLM_FAST
  ⟨0x500080, 0x4, 10, 0x0, [⟨31, 1, .ro, false, false⟩, ⟨30, 1, .ro, false, false⟩, ⟨16, 14, .ro, false, false⟩, ⟨0, 16, .ro, false, false⟩]⟩,
  -- TLM_CH
  ⟨0x501000, 0x4, 128, 0x0, [⟨31, 1, .ro, false, false⟩, ⟨16, 12, .ro, false, false⟩, ⟨0, 16, .ro, false, false⟩]⟩]

/-- Every register of block TLM. -/
def tlmRegs : List RegDef := tlmRegs0

/-- Registers of block CQ, part 0. -/
def cqRegs0 : List RegDef := [
  -- CQ_STATUS
  ⟨0x600000, 0x0, 1, 0x0, [⟨16, 16, .ro, false, false⟩, ⟨4, 1, .ro, false, false⟩, ⟨0, 4, .ro, false, false⟩]⟩,
  -- CQ_TRC_CFG
  ⟨0x600004, 0x0, 1, 0x5, [⟨31, 1, .rwl, false, false⟩, ⟨0, 8, .rwl, false, false⟩]⟩,
  -- CQ_ERR
  ⟨0x600008, 0x0, 1, 0x0, [⟨0, 16, .w1c, false, false⟩]⟩,
  -- CQ_CFG
  ⟨0x601000, 0x100, 16, 0x14, [⟨31, 1, .rw, false, false⟩, ⟨30, 1, .rw, false, false⟩, ⟨29, 1, .rw, false, false⟩, ⟨28, 1, .wo, true, false⟩, ⟨24, 4, .rw, false, false⟩, ⟨0, 16, .rw, false, false⟩]⟩,
  -- CQ_LEVEL
  ⟨0x601004, 0x100, 16, 0x0, [⟨16, 12, .ro, false, false⟩, ⟨0, 12, .ro, false, false⟩]⟩,
  -- CQ_WM
  ⟨0x601008, 0x100, 16, 0x6000200, [⟨16, 12, .rw, false, false⟩, ⟨0, 12, .rw, false, false⟩]⟩,
  -- CQ_COUNTS
  ⟨0x60100c, 0x100, 16, 0x0, [⟨16, 16, .rw, true, false⟩, ⟨0, 16, .rw, true, false⟩]⟩,
  -- CQ_NOTICE
  ⟨0x601010, 0x100, 16, 0x0, [⟨16, 16, .wo, true, false⟩, ⟨0, 16, .ro, false, false⟩]⟩,
  -- CQ_MARK
  ⟨0x601014, 0x100, 16, 0x0, [⟨4, 1, .w1c, false, false⟩, ⟨3, 1, .w1c, false, false⟩, ⟨2, 1, .wo, true, false⟩, ⟨1, 1, .wo, true, false⟩, ⟨0, 1, .ro, false, false⟩]⟩,
  -- CQ_RD_TAG
  ⟨0x601018, 0x100, 16, 0x200, [⟨0, 32, .ro, false, false⟩]⟩,
  -- CQ_RD_DATA_0
  ⟨0x601020, 0x100, 16, 0x0, [⟨0, 32, .ro, false, false⟩]⟩,
  -- CQ_RD_DATA_1
  ⟨0x601024, 0x100, 16, 0x0, [⟨0, 32, .ro, false, false⟩]⟩,
  -- CQ_RD_DATA_2
  ⟨0x601028, 0x100, 16, 0x0, [⟨0, 32, .ro, false, false⟩]⟩,
  -- CQ_RD_DATA_3
  ⟨0x60102c, 0x100, 16, 0x0, [⟨0, 32, .ro, false, false⟩]⟩,
  -- CQ_RD_DATA_4
  ⟨0x601030, 0x100, 16, 0x0, [⟨0, 32, .ro, false, false⟩]⟩,
  -- CQ_RD_DATA_5
  ⟨0x601034, 0x100, 16, 0x0, [⟨0, 32, .ro, false, false⟩]⟩,
  -- CQ_RD_DATA_6
  ⟨0x601038, 0x100, 16, 0x0, [⟨0, 32, .ro, false, false⟩]⟩,
  -- CQ_RD_DATA_7
  ⟨0x60103c, 0x100, 16, 0x0, [⟨0, 32, .ro, false, false⟩]⟩,
  -- CQ_WR_FIRST
  ⟨0x601040, 0x100, 16, 0x0, [⟨0, 32, .wo, true, false⟩]⟩,
  -- CQ_WR_DATA
  ⟨0x601044, 0x100, 16, 0x0, [⟨0, 32, .wo, true, false⟩]⟩]

/-- Registers of block CQ, part 1. -/
def cqRegs1 : List RegDef := [
  -- CQ_PKT_OPEN
  ⟨0x601048, 0x100, 16, 0x0, [⟨0, 1, .wo, true, false⟩]⟩,
  -- CQ_PKT_CLOSE
  ⟨0x60104c, 0x100, 16, 0x0, [⟨0, 3, .wo, true, false⟩]⟩]

/-- Every register of block CQ. -/
def cqRegs : List RegDef := cqRegs0 ++ cqRegs1

/-- Registers of block FFR, part 0. -/
def ffrRegs0 : List RegDef := [
  -- FFR_CTRL
  ⟨0x700000, 0x0, 1, 0x0, [⟨16, 16, .wo, true, false⟩, ⟨1, 1, .wo, true, false⟩, ⟨0, 1, .rw, true, false⟩]⟩,
  -- FFR_STATUS
  ⟨0x700004, 0x0, 1, 0x0, [⟨31, 1, .ro, false, false⟩, ⟨30, 1, .ro, false, false⟩, ⟨0, 16, .ro, false, false⟩]⟩,
  -- FFR_FILL
  ⟨0x700008, 0x0, 1, 0x0, [⟨16, 16, .ro, false, false⟩, ⟨0, 16, .ro, false, false⟩]⟩,
  -- FFR_LOST
  ⟨0x70000c, 0x0, 1, 0x0, [⟨0, 32, .ro, false, false⟩]⟩,
  -- FFR_ARCH
  ⟨0x700010, 0x0, 1, 0x0, [⟨16, 16, .ro, false, false⟩, ⟨0, 16, .ro, false, false⟩]⟩]

/-- Every register of block FFR. -/
def ffrRegs : List RegDef := ffrRegs0

/-- Registers of block CRC, part 0. -/
def crcRegs0 : List RegDef := [
  -- CRC_CFG
  ⟨0x800000, 0x40, 4, 0x0, [⟨31, 1, .wo, true, false⟩, ⟨12, 4, .rw, false, false⟩, ⟨8, 1, .rw, false, false⟩, ⟨0, 3, .rw, true, false⟩]⟩,
  -- CRC_VALUE_LO
  ⟨0x800008, 0x40, 4, 0xffffffff, [⟨0, 32, .rw, true, false⟩]⟩,
  -- CRC_VALUE_HI
  ⟨0x80000c, 0x40, 4, 0x0, [⟨0, 32, .rw, true, false⟩]⟩,
  -- CRC_RESULT_LO
  ⟨0x800010, 0x40, 4, 0x0, [⟨0, 32, .ro, false, false⟩]⟩,
  -- CRC_RESULT_HI
  ⟨0x800014, 0x40, 4, 0x0, [⟨0, 32, .ro, false, false⟩]⟩,
  -- CRC_DATA
  ⟨0x800018, 0x40, 4, 0x0, [⟨0, 32, .wo, true, false⟩]⟩,
  -- CRC_COUNT
  ⟨0x80001c, 0x40, 4, 0x0, [⟨0, 32, .rw, false, false⟩]⟩]

/-- Every register of block CRC. -/
def crcRegs : List RegDef := crcRegs0

/-- Registers of block TW, part 0. -/
def twRegs0 : List RegDef := [
  -- TW_STATUS
  ⟨0x900000, 0x0, 1, 0x0, [⟨31, 1, .ro, false, false⟩, ⟨16, 12, .ro, false, false⟩, ⟨0, 12, .ro, false, false⟩]⟩,
  -- TW_ERR
  ⟨0x900004, 0x0, 1, 0x0, [⟨6, 1, .w1c, false, false⟩, ⟨5, 1, .w1c, false, false⟩, ⟨4, 1, .w1c, false, false⟩, ⟨3, 1, .w1c, false, false⟩, ⟨2, 1, .w1c, false, false⟩, ⟨1, 1, .w1c, false, false⟩, ⟨0, 1, .w1c, false, false⟩]⟩,
  -- TW_ACC_ALERT
  ⟨0x900008, 0x0, 1, 0xffffffff, [⟨0, 32, .ro, false, true⟩]⟩,
  -- TW_SMB0_ADDR
  ⟨0x90000c, 0x0, 1, 0x4c, [⟨0, 7, .rwl, false, false⟩]⟩,
  -- TW_AVS_CFG
  ⟨0x900010, 0x0, 1, 0x30502, [⟨16, 8, .rwl, false, false⟩, ⟨8, 8, .rwl, false, false⟩, ⟨0, 8, .rwl, false, false⟩]⟩,
  -- TW_SEGPWR_CFG
  ⟨0x900014, 0x0, 1, 0x640032, [⟨16, 16, .rwl, false, false⟩, ⟨0, 16, .rwl, false, false⟩]⟩,
  -- TW_SEG_CFG
  ⟨0x901000, 0x40, 12, 0x31e30, [⟨31, 1, .ro, false, true⟩, ⟨30, 1, .ro, false, true⟩, ⟨29, 1, .ro, false, true⟩, ⟨24, 2, .ro, false, true⟩, ⟨16, 5, .ro, false, true⟩, ⟨8, 8, .ro, false, true⟩, ⟨4, 4, .ro, false, true⟩]⟩,
  -- TW_SEG_STATUS
  ⟨0x901004, 0x40, 12, 0x0, [⟨28, 4, .ro, false, false⟩, ⟨24, 4, .ro, false, false⟩, ⟨16, 7, .ro, false, false⟩, ⟨0, 5, .ro, false, false⟩]⟩,
  -- TW_SEG_COUNTS
  ⟨0x901008, 0x40, 12, 0x0, [⟨24, 8, .rw, true, false⟩, ⟨16, 8, .rw, true, false⟩, ⟨8, 8, .rw, true, false⟩, ⟨0, 8, .rw, true, false⟩]⟩,
  -- TW_SEG_ALERT
  ⟨0x90100c, 0x40, 12, 0x0, [⟨31, 1, .ro, false, false⟩, ⟨30, 1, .ro, false, false⟩, ⟨16, 8, .rw, true, false⟩, ⟨0, 7, .ro, false, false⟩]⟩,
  -- TW_SEG_RECOV
  ⟨0x901010, 0x40, 12, 0x0, [⟨8, 8, .ro, false, false⟩, ⟨0, 8, .ro, false, false⟩]⟩,
  -- TW_AVS_STATUS
  ⟨0x902000, 0x10, 8, 0x0, [⟨30, 2, .ro, false, false⟩, ⟨29, 1, .ro, false, false⟩, ⟨28, 1, .ro, false, false⟩, ⟨0, 16, .ro, false, false⟩]⟩,
  -- TW_AVS_COUNTS
  ⟨0x902004, 0x10, 8, 0x0, [⟨24, 8, .rw, true, false⟩, ⟨16, 8, .rw, true, false⟩, ⟨8, 8, .rw, true, false⟩, ⟨0, 8, .rw, true, false⟩]⟩,
  -- TW_AVS_SEL
  ⟨0x902008, 0x10, 8, 0x0, [⟨4, 1, .ro, false, true⟩, ⟨0, 4, .ro, false, true⟩]⟩]

/-- Every register of block TW. -/
def twRegs : List RegDef := twRegs0

/-- Registers of block VL, part 0. -/
def vlRegs0 : List RegDef := [
  -- VL_CTRL
  ⟨0xa00000, 0x0, 1, 0xa0000, [⟨16, 8, .rw, false, false⟩, ⟨0, 1, .rw, true, false⟩]⟩,
  -- VL_FAIL_CFG
  ⟨0xa00004, 0x0, 1, 0x8080040, [⟨24, 8, .rwl, false, false⟩, ⟨16, 8, .rwl, false, false⟩, ⟨0, 16, .rwl, false, false⟩]⟩,
  -- VL_STATUS
  ⟨0xa00008, 0x0, 1, 0x0, [⟨24, 8, .ro, false, false⟩, ⟨16, 8, .ro, false, false⟩, ⟨8, 8, .ro, false, false⟩, ⟨0, 8, .ro, false, false⟩]⟩,
  -- LNK_CTRL
  ⟨0xa10000, 0x1000, 24, 0x1, [⟨3, 1, .wo, true, false⟩, ⟨2, 1, .wo, true, false⟩, ⟨0, 1, .rw, true, false⟩]⟩,
  -- LNK_STATE
  ⟨0xa10004, 0x1000, 24, 0x0, [⟨20, 2, .ro, false, false⟩, ⟨19, 1, .ro, false, false⟩, ⟨16, 3, .ro, false, false⟩, ⟨0, 4, .ro, false, false⟩]⟩,
  -- LNK_CFG
  ⟨0xa10008, 0x1000, 24, 0x0, [⟨0, 2, .rwl, false, false⟩]⟩,
  -- LNK_ERR
  ⟨0xa1000c, 0x1000, 24, 0x0, [⟨9, 1, .w1c, false, false⟩, ⟨8, 1, .w1c, false, false⟩, ⟨7, 1, .w1c, false, false⟩, ⟨6, 1, .w1c, false, false⟩, ⟨5, 1, .w1c, false, false⟩, ⟨4, 1, .w1c, false, false⟩, ⟨3, 1, .w1c, false, false⟩, ⟨2, 1, .w1c, false, false⟩, ⟨1, 1, .w1c, false, false⟩, ⟨0, 1, .w1c, false, false⟩]⟩,
  -- LNK_CNT0
  ⟨0xa10010, 0x1000, 24, 0x0, [⟨16, 16, .rw, true, false⟩, ⟨0, 16, .rw, true, false⟩]⟩,
  -- LNK_CNT1
  ⟨0xa10014, 0x1000, 24, 0x0, [⟨16, 16, .rw, true, false⟩, ⟨0, 16, .rw, true, false⟩]⟩,
  -- LNK_CNT2
  ⟨0xa10018, 0x1000, 24, 0x0, [⟨24, 8, .rw, true, false⟩, ⟨16, 8, .rw, true, false⟩, ⟨0, 16, .rw, true, false⟩]⟩,
  -- LNK_SEQ
  ⟨0xa1001c, 0x1000, 24, 0x0, [⟨16, 7, .ro, false, false⟩, ⟨8, 7, .ro, false, false⟩, ⟨0, 7, .ro, false, false⟩]⟩,
  -- LNK_PCS_LAT
  ⟨0xa10020, 0x1000, 24, 0x0, [⟨16, 16, .ro, false, false⟩, ⟨0, 16, .ro, false, false⟩]⟩,
  -- VL_ACC_STATUS
  ⟨0xa30000, 0x100, 8, 0x0, [⟨22, 2, .ro, false, false⟩, ⟨21, 1, .ro, false, false⟩, ⟨20, 1, .w1c, false, false⟩, ⟨0, 3, .ro, false, false⟩]⟩,
  -- VL_ACC_CTRL
  ⟨0xa30004, 0x100, 8, 0x0, [⟨1, 1, .rw, true, false⟩, ⟨0, 1, .rw, true, false⟩]⟩,
  -- VL_ACC_ROLE
  ⟨0xa30008, 0x100, 8, 0x24, [⟨4, 2, .rw, true, false⟩, ⟨2, 2, .rw, true, false⟩, ⟨0, 2, .rw, true, false⟩]⟩,
  -- VL_ACC_TSYNC
  ⟨0xa3000c, 0x100, 8, 0x0, [⟨16, 16, .ro, false, false⟩, ⟨0, 16, .ro, false, false⟩]⟩]

/-- Every register of block VL. -/
def vlRegs : List RegDef := vlRegs0

/-- Registers of block SOB, part 0. -/
def sobRegs0 : List RegDef := [
  -- SOB_CTRL
  ⟨0xc00000, 0x0, 1, 0x0, [⟨0, 1, .ro, true, false⟩]⟩,
  -- SOB_STATUS
  ⟨0xc00004, 0x0, 1, 0x0, [⟨31, 1, .ro, false, false⟩, ⟨0, 17, .ro, false, false⟩]⟩,
  -- SOB_GROUPS
  ⟨0xc00008, 0x0, 1, 0x0, [⟨16, 9, .ro, false, false⟩, ⟨0, 9, .ro, false, false⟩]⟩,
  -- SOB_WAITERS
  ⟨0xc0000c, 0x0, 1, 0x0, [⟨16, 16, .rw, true, false⟩, ⟨0, 16, .ro, false, false⟩]⟩,
  -- SOB_ERR
  ⟨0xc00010, 0x0, 1, 0x0, [⟨5, 1, .w1c, false, false⟩, ⟨4, 1, .w1c, false, false⟩, ⟨3, 1, .w1c, false, false⟩, ⟨2, 1, .w1c, false, false⟩, ⟨1, 1, .w1c, false, false⟩, ⟨0, 1, .w1c, false, false⟩]⟩,
  -- SOB_GEN_BASE
  ⟨0xc00014, 0x0, 1, 0x1, [⟨0, 8, .ro, false, false⟩]⟩,
  -- SOB_OPS_LO
  ⟨0xc00020, 0x0, 1, 0x0, [⟨0, 32, .ro, false, false⟩]⟩,
  -- SOB_OPS_HI
  ⟨0xc00024, 0x0, 1, 0x0, [⟨0, 32, .ro, false, false⟩]⟩,
  -- SOB_TIMEOUTS
  ⟨0xc00028, 0x0, 1, 0x0, [⟨0, 32, .rw, true, false⟩]⟩,
  -- SOB_OPERR
  ⟨0xc0002c, 0x0, 1, 0x0, [⟨0, 32, .rw, true, false⟩]⟩,
  -- SOB_HOP_HANDLE
  ⟨0xc00040, 0x0, 1, 0x0, [⟨0, 32, .rw, false, false⟩]⟩,
  -- SOB_HOP_CMD
  ⟨0xc00044, 0x0, 1, 0x0, [⟨31, 1, .wo, true, false⟩, ⟨7, 1, .rw, false, false⟩, ⟨4, 2, .rw, false, false⟩, ⟨0, 4, .rw, false, false⟩]⟩,
  -- SOB_HOP_OPERAND_LO
  ⟨0xc00048, 0x0, 1, 0x0, [⟨0, 32, .rw, true, false⟩]⟩,
  -- SOB_HOP_OPERAND_HI
  ⟨0xc0004c, 0x0, 1, 0x0, [⟨0, 32, .rw, true, false⟩]⟩,
  -- SOB_HOP_RESULT_LO
  ⟨0xc00050, 0x0, 1, 0x0, [⟨0, 32, .ro, false, false⟩]⟩,
  -- SOB_HOP_RESULT_HI
  ⟨0xc00054, 0x0, 1, 0x0, [⟨0, 32, .ro, false, false⟩]⟩,
  -- SOB_HOP_STATUS
  ⟨0xc00058, 0x0, 1, 0x0, [⟨9, 1, .ro, false, false⟩, ⟨8, 1, .w1c, false, false⟩, ⟨0, 8, .ro, false, false⟩]⟩,
  -- SOB_SRC
  ⟨0xc00100, 0x4, 10, 0x0, [⟨16, 12, .ro, false, false⟩, ⟨0, 5, .ro, false, false⟩]⟩,
  -- GRP_CTRL
  ⟨0xc01000, 0x10, 256, 0x0, [⟨30, 2, .ro, false, false⟩, ⟨24, 1, .ro, false, false⟩, ⟨0, 17, .ro, false, false⟩]⟩,
  -- GRP_MAP
  ⟨0xc01004, 0x10, 256, 0xffffffff, [⟨0, 32, .ro, false, false⟩]⟩]

/-- Registers of block SOB, part 1. -/
def sobRegs1 : List RegDef := [
  -- GRP_USAGE
  ⟨0xc01008, 0x10, 256, 0x0, [⟨17, 15, .ro, false, false⟩, ⟨0, 17, .ro, false, false⟩]⟩]

/-- Every register of block SOB. -/
def sobRegs : List RegDef := sobRegs0 ++ sobRegs1

/-- Registers of block BRD, part 0. -/
def brdRegs0 : List RegDef := [
  -- BRD_CTRL
  ⟨0x2000000, 0x0, 1, 0x0, [⟨0, 1, .ro, true, false⟩]⟩,
  -- BRD_STATUS
  ⟨0x2000004, 0x0, 1, 0x0, [⟨16, 10, .ro, false, false⟩, ⟨0, 9, .ro, false, false⟩]⟩,
  -- BRD_AREA
  ⟨0x2000008, 0x0, 1, 0x2000, [⟨16, 16, .ro, false, false⟩, ⟨0, 16, .ro, false, false⟩]⟩,
  -- BRD_ERR
  ⟨0x200000c, 0x0, 1, 0x0, [⟨4, 1, .w1c, false, false⟩, ⟨3, 1, .w1c, false, false⟩, ⟨2, 1, .w1c, false, false⟩, ⟨1, 1, .w1c, false, false⟩, ⟨0, 1, .w1c, false, false⟩]⟩,
  -- BRD_DONE_LO
  ⟨0x2000010, 0x0, 1, 0x0, [⟨0, 32, .ro, false, false⟩]⟩,
  -- BRD_DONE_HI
  ⟨0x2000014, 0x0, 1, 0x0, [⟨0, 32, .ro, false, false⟩]⟩,
  -- BRD_ABORTS
  ⟨0x2000018, 0x0, 1, 0x0, [⟨0, 32, .rw, true, false⟩]⟩,
  -- BRD_TRAIN_DROPS
  ⟨0x200001c, 0x0, 1, 0x0, [⟨16, 16, .rw, true, false⟩, ⟨0, 16, .rw, true, false⟩]⟩,
  -- BRD_ICONTRIB
  ⟨0x2000020, 0x0, 1, 0x0, [⟨16, 8, .ro, true, false⟩, ⟨0, 16, .ro, true, false⟩]⟩,
  -- BRD_ISTATUS
  ⟨0x2000024, 0x0, 1, 0x0, [⟨24, 8, .ro, false, false⟩, ⟨8, 16, .ro, false, false⟩, ⟨6, 2, .ro, false, false⟩, ⟨0, 6, .ro, false, false⟩]⟩,
  -- BRD_CTX_CFG
  ⟨0x2010000, 0x20, 256, 0x0, [⟨31, 1, .ro, false, false⟩, ⟨16, 8, .ro, false, false⟩, ⟨12, 4, .ro, false, false⟩, ⟨11, 1, .ro, false, false⟩, ⟨5, 3, .ro, false, false⟩, ⟨0, 3, .ro, false, false⟩]⟩,
  -- BRD_CTX_FMT
  ⟨0x2010004, 0x20, 256, 0x0, [⟨16, 1, .ro, false, false⟩, ⟨8, 8, .ro, false, false⟩, ⟨4, 4, .ro, false, false⟩, ⟨0, 4, .ro, false, false⟩]⟩,
  -- BRD_CTX_LEN
  ⟨0x2010008, 0x20, 256, 0x0, [⟨0, 18, .ro, false, false⟩]⟩,
  -- BRD_CTX_MEMBERS
  ⟨0x201000c, 0x20, 256, 0x0, [⟨16, 9, .ro, false, false⟩, ⟨0, 9, .ro, false, false⟩]⟩,
  -- BRD_CTX_TIMEOUT
  ⟨0x2010010, 0x20, 256, 0x0, [⟨0, 16, .ro, false, false⟩]⟩,
  -- BRD_CTX_STATE
  ⟨0x2010014, 0x20, 256, 0x0, [⟨16, 16, .ro, false, false⟩, ⟨7, 9, .ro, false, false⟩, ⟨6, 1, .ro, false, false⟩, ⟨0, 4, .ro, false, false⟩]⟩,
  -- BRD_CTX_FLAGS
  ⟨0x2010018, 0x20, 256, 0x0, [⟨8, 5, .w1c, false, false⟩, ⟨0, 5, .ro, false, false⟩]⟩,
  -- BRD_CTX_AREA
  ⟨0x201001c, 0x20, 256, 0x0, [⟨16, 16, .ro, false, false⟩, ⟨0, 13, .ro, false, false⟩]⟩]

/-- Every register of block BRD. -/
def brdRegs : List RegDef := brdRegs0

/-- Registers of block TILE, part 0. -/
def tileRegs0 : List RegDef := [
  -- TILE_ID
  ⟨0x4000000, 0x10000, 72, 0x0, [⟨16, 1, .ro, false, false⟩, ⟨8, 4, .ro, false, false⟩, ⟨0, 7, .ro, false, false⟩]⟩,
  -- TILE_STATE
  ⟨0x4000004, 0x10000, 72, 0x0, [⟨16, 6, .ro, false, false⟩, ⟨13, 1, .ro, false, false⟩, ⟨8, 5, .ro, false, false⟩, ⟨0, 4, .ro, false, false⟩]⟩,
  -- TILE_CTRL
  ⟨0x4000008, 0x10000, 72, 0x0, [⟨8, 1, .wo, true, false⟩, ⟨0, 1, .rwl, false, false⟩]⟩,
  -- TILE_ERR
  ⟨0x400000c, 0x10000, 72, 0x0, [⟨8, 1, .w1c, false, false⟩, ⟨7, 1, .w1c, false, false⟩, ⟨6, 1, .w1c, false, false⟩, ⟨5, 1, .w1c, false, false⟩, ⟨4, 1, .w1c, false, false⟩, ⟨3, 1, .w1c, false, false⟩, ⟨2, 1, .w1c, false, false⟩, ⟨1, 1, .w1c, false, false⟩, ⟨0, 1, .w1c, false, false⟩]⟩,
  -- TILE_FLAGS
  ⟨0x4000010, 0x10000, 72, 0x0, [⟨8, 5, .w1c, false, false⟩, ⟨0, 5, .ro, false, false⟩]⟩,
  -- TILE_SR_SEED
  ⟨0x4000014, 0x10000, 72, 0x0, [⟨0, 32, .rw, true, false⟩]⟩,
  -- TILE_APERTURE_PAGE
  ⟨0x4000018, 0x10000, 72, 0x0, [⟨0, 6, .rw, false, false⟩]⟩,
  -- TILE_TAG
  ⟨0x400001c, 0x10000, 72, 0x0, [⟨0, 32, .ro, false, false⟩]⟩,
  -- TILE_BUSY_LO
  ⟨0x4000020, 0x10000, 72, 0x0, [⟨0, 32, .ro, false, false⟩]⟩,
  -- TILE_BUSY_HI
  ⟨0x4000024, 0x10000, 72, 0x0, [⟨0, 32, .ro, false, false⟩]⟩,
  -- TILE_ECC
  ⟨0x4000028, 0x10000, 72, 0x0, [⟨16, 16, .ro, false, false⟩, ⟨0, 16, .ro, false, false⟩]⟩,
  -- TILE_REPAIR
  ⟨0x400002c, 0x10000, 72, 0x200f, [⟨16, 8, .ro, false, false⟩, ⟨8, 8, .ro, false, false⟩, ⟨4, 4, .ro, false, false⟩, ⟨0, 4, .ro, false, false⟩]⟩,
  -- ARR_STATUS
  ⟨0x4480000, 0x0, 1, 0x400000ff, [⟨24, 8, .ro, false, false⟩, ⟨16, 8, .ro, false, false⟩, ⟨0, 8, .ro, false, false⟩]⟩,
  -- ARR_LOADER
  ⟨0x4480004, 0x0, 1, 0x0, [⟨8, 3, .ro, false, false⟩, ⟨0, 3, .ro, false, false⟩]⟩,
  -- ARR_TAKEOVER
  ⟨0x4480008, 0x0, 1, 0x0, [⟨24, 8, .ro, false, false⟩, ⟨16, 1, .ro, false, false⟩, ⟨8, 8, .ro, false, false⟩, ⟨0, 8, .ro, false, false⟩]⟩,
  -- ARR_STREAM_BW
  ⟨0x448000c, 0x0, 1, 0x0, [⟨0, 13, .ro, false, false⟩]⟩,
  -- SLOT_CTRL
  ⟨0x4481000, 0x40, 32, 0x0, [⟨21, 1, .rw, false, false⟩, ⟨16, 5, .rw, false, false⟩, ⟨8, 1, .rw, false, false⟩, ⟨1, 1, .wo, true, false⟩, ⟨0, 1, .wo, true, false⟩]⟩,
  -- SLOT_STATE
  ⟨0x4481004, 0x40, 32, 0x0, [⟨24, 8, .ro, false, false⟩, ⟨20, 4, .ro, false, false⟩, ⟨16, 4, .ro, false, false⟩, ⟨15, 1, .ro, false, false⟩, ⟨14, 1, .ro, false, false⟩, ⟨13, 1, .w1c, false, false⟩, ⟨0, 4, .ro, false, false⟩]⟩,
  -- SLOT_INVOKE
  ⟨0x4481008, 0x40, 32, 0x0, [⟨0, 1, .wo, true, false⟩]⟩,
  -- SLOT_PERIOD
  ⟨0x448100c, 0x40, 32, 0x0, [⟨0, 32, .rw, false, false⟩]⟩]

/-- Registers of block TILE, part 1. -/
def tileRegs1 : List RegDef := [
  -- SLOT_START_LO
  ⟨0x4481010, 0x40, 32, 0x0, [⟨0, 32, .rw, true, false⟩]⟩,
  -- SLOT_START_HI
  ⟨0x4481014, 0x40, 32, 0x0, [⟨0, 32, .rw, true, false⟩]⟩,
  -- SLOT_SEQ
  ⟨0x4481018, 0x40, 32, 0x0, [⟨0, 32, .ro, false, false⟩]⟩,
  -- SLOT_COUNTS
  ⟨0x448101c, 0x40, 32, 0x0, [⟨20, 10, .rw, true, false⟩, ⟨10, 10, .rw, true, false⟩, ⟨0, 10, .rw, true, false⟩]⟩,
  -- SLOT_TAG
  ⟨0x4481020, 0x40, 32, 0x0, [⟨0, 32, .ro, false, false⟩]⟩]

/-- Every register of block TILE. -/
def tileRegs : List RegDef := tileRegs0 ++ tileRegs1

/-- Registers of block SNAP, part 0. -/
def snapRegs0 : List RegDef := [
  -- SNAP_CTRL
  ⟨0x8000000, 0x0, 1, 0x0, [⟨1, 1, .wo, true, false⟩, ⟨0, 1, .wo, true, false⟩]⟩,
  -- SNAP_STATUS
  ⟨0x8000004, 0x0, 1, 0x80000000, [⟨31, 1, .ro, false, false⟩, ⟨30, 1, .ro, false, false⟩, ⟨16, 8, .ro, false, false⟩, ⟨0, 10, .ro, false, false⟩]⟩,
  -- SNAP_SRC_EN
  ⟨0x8000008, 0x0, 1, 0xf, [⟨4, 1, .rw, false, false⟩, ⟨3, 1, .rw, false, false⟩, ⟨2, 1, .rw, false, false⟩, ⟨1, 1, .rw, false, false⟩, ⟨0, 1, .rw, false, false⟩]⟩,
  -- SNAP_CAUSE
  ⟨0x800000c, 0x0, 1, 0x0, [⟨0, 5, .ro, false, false⟩]⟩,
  -- SNAP_TRIG_GTS_LO
  ⟨0x8000010, 0x0, 1, 0x0, [⟨0, 32, .ro, false, false⟩]⟩,
  -- SNAP_TRIG_GTS_HI
  ⟨0x8000014, 0x0, 1, 0x0, [⟨0, 32, .ro, false, false⟩]⟩,
  -- SNAP_TRIG_HANDLE
  ⟨0x8000018, 0x0, 1, 0x0, [⟨0, 32, .rw, false, false⟩]⟩]

/-- Every register of block SNAP. -/
def snapRegs : List RegDef := snapRegs0

/-- The registers of the block a W0 byte address lies in (R15). -/
def blockRegs (a : Nat) : List RegDef :=
  if a < 0x100000 then glbRegs else
  if a < 0x200000 then mbxRegs else
  if a < 0x300000 then pwcRegs else
  if a < 0x400000 then seqRegs else
  if a < 0x500000 then coolRegs else
  if a < 0x600000 then tlmRegs else
  if a < 0x700000 then cqRegs else
  if a < 0x800000 then ffrRegs else
  if a < 0x900000 then crcRegs else
  if a < 0xa00000 then twRegs else
  if a < 0xc00000 then vlRegs else
  if a < 0x1000000 then sobRegs else
  if a < 0x2000000 then [] else
  if a < 0x4000000 then brdRegs else
  if a < 0x8000000 then tileRegs else
  snapRegs

end Sys2Proof.Machine
end

