-- ==== Sys2Proof/Machine/RegNames.lean ====
section
/-! DEFINITION. Names of the register fields (spec/01 to spec/15, field tables): `F.<REGISTER>_<FIELD>`. -/

namespace Sys2Proof.Machine.F

/-- GLB_ID.TGRADE [27:24]. -/
abbrev GLB_ID_TGRADE : Fld := ⟨0x0, 0x0, 24, 4⟩
/-- GLB_ID.STEPPING [23:16]. -/
abbrev GLB_ID_STEPPING : Fld := ⟨0x0, 0x0, 16, 8⟩
/-- GLB_ID.DEVICE_ID [15:0]. -/
abbrev GLB_ID_DEVICE_ID : Fld := ⟨0x0, 0x0, 0, 16⟩
/-- GLB_CONFIG.TILES_ACTIVE [31:24]. -/
abbrev GLB_CONFIG_TILES_ACTIVE : Fld := ⟨0x4, 0x0, 24, 8⟩
/-- GLB_CONFIG.TILES_TOTAL [23:16]. -/
abbrev GLB_CONFIG_TILES_TOTAL : Fld := ⟨0x4, 0x0, 16, 8⟩
/-- GLB_CONFIG.LINKS_TOTAL [15:8]. -/
abbrev GLB_CONFIG_LINKS_TOTAL : Fld := ⟨0x4, 0x0, 8, 8⟩
/-- GLB_CONFIG.HBM_GIB_DIV4 [3:0]. -/
abbrev GLB_CONFIG_HBM_GIB_DIV4 : Fld := ⟨0x4, 0x0, 0, 4⟩
/-- GLB_RESET_CAUSE.CORE_WDOG [31:16]. -/
abbrev GLB_RESET_CAUSE_CORE_WDOG : Fld := ⟨0x10, 0x0, 16, 16⟩
/-- GLB_RESET_CAUSE.CORE_PWR [8:8]. -/
abbrev GLB_RESET_CAUSE_CORE_PWR : Fld := ⟨0x10, 0x0, 8, 1⟩
/-- GLB_RESET_CAUSE.ENDGAME_EXIT [7:7]. -/
abbrev GLB_RESET_CAUSE_ENDGAME_EXIT : Fld := ⟨0x10, 0x0, 7, 1⟩
/-- GLB_RESET_CAUSE.SEC_WARM [6:6]. -/
abbrev GLB_RESET_CAUSE_SEC_WARM : Fld := ⟨0x10, 0x0, 6, 1⟩
/-- GLB_RESET_CAUSE.HOST_CORE [5:5]. -/
abbrev GLB_RESET_CAUSE_HOST_CORE : Fld := ⟨0x10, 0x0, 5, 1⟩
/-- GLB_RESET_CAUSE.HOST_WARM [4:4]. -/
abbrev GLB_RESET_CAUSE_HOST_WARM : Fld := ⟨0x10, 0x0, 4, 1⟩
/-- GLB_RESET_CAUSE.HOST_COLD [3:3]. -/
abbrev GLB_RESET_CAUSE_HOST_COLD : Fld := ⟨0x10, 0x0, 3, 1⟩
/-- GLB_RESET_CAUSE.RC_SWITCH [2:2]. -/
abbrev GLB_RESET_CAUSE_RC_SWITCH : Fld := ⟨0x10, 0x0, 2, 1⟩
/-- GLB_RESET_CAUSE.BUS_UV [1:1]. -/
abbrev GLB_RESET_CAUSE_BUS_UV : Fld := ⟨0x10, 0x0, 1, 1⟩
/-- GLB_RESET_CAUSE.POR [0:0]. -/
abbrev GLB_RESET_CAUSE_POR : Fld := ⟨0x10, 0x0, 0, 1⟩
/-- GLB_RESET_CTRL.KEY [31:16]. -/
abbrev GLB_RESET_CTRL_KEY : Fld := ⟨0x14, 0x0, 16, 16⟩
/-- GLB_RESET_CTRL.CLEAR_CAUSE [2:2]. -/
abbrev GLB_RESET_CTRL_CLEAR_CAUSE : Fld := ⟨0x14, 0x0, 2, 1⟩
/-- GLB_RESET_CTRL.COLD_REQ [1:1]. -/
abbrev GLB_RESET_CTRL_COLD_REQ : Fld := ⟨0x14, 0x0, 1, 1⟩
/-- GLB_RESET_CTRL.WARM_REQ [0:0]. -/
abbrev GLB_RESET_CTRL_WARM_REQ : Fld := ⟨0x14, 0x0, 0, 1⟩
/-- GLB_CORE_RESET.KEY [31:16]. -/
abbrev GLB_CORE_RESET_KEY : Fld := ⟨0x18, 0x0, 16, 16⟩
/-- GLB_CORE_RESET.CORE [10:1]. -/
abbrev GLB_CORE_RESET_CORE : Fld := ⟨0x18, 0x0, 1, 10⟩
/-- GLB_CLK_STATUS.RC_ACTIVE [6:6]. -/
abbrev GLB_CLK_STATUS_RC_ACTIVE : Fld := ⟨0x20, 0x0, 6, 1⟩
/-- GLB_CLK_STATUS.CHK_OK [5:5]. -/
abbrev GLB_CLK_STATUS_CHK_OK : Fld := ⟨0x20, 0x0, 5, 1⟩
/-- GLB_CLK_STATUS.AON_PLL_LOCK [4:4]. -/
abbrev GLB_CLK_STATUS_AON_PLL_LOCK : Fld := ⟨0x20, 0x0, 4, 1⟩
/-- GLB_CLK_STATUS.PCIE_LOCK [3:3]. -/
abbrev GLB_CLK_STATUS_PCIE_LOCK : Fld := ⟨0x20, 0x0, 3, 1⟩
/-- GLB_CLK_STATUS.HBM_LOCK [2:2]. -/
abbrev GLB_CLK_STATUS_HBM_LOCK : Fld := ⟨0x20, 0x0, 2, 1⟩
/-- GLB_CLK_STATUS.SYS_LOCK [1:1]. -/
abbrev GLB_CLK_STATUS_SYS_LOCK : Fld := ⟨0x20, 0x0, 1, 1⟩
/-- GLB_CLK_STATUS.CTL_LOCK [0:0]. -/
abbrev GLB_CLK_STATUS_CTL_LOCK : Fld := ⟨0x20, 0x0, 0, 1⟩
/-- GLB_GTS_LO.GTS_LO [31:0]. -/
abbrev GLB_GTS_LO : Fld := ⟨0x30, 0x0, 0, 32⟩
/-- GLB_GTS_HI.GTS_HI [31:0]. -/
abbrev GLB_GTS_HI : Fld := ⟨0x34, 0x0, 0, 32⟩
/-- GLB_WRITE_LOCK.LOCKED [0:0]. -/
abbrev GLB_WRITE_LOCK_LOCKED : Fld := ⟨0x40, 0x0, 0, 1⟩
/-- GLB_ECC_CE_COUNT.COUNT [31:0]. -/
abbrev GLB_ECC_CE_COUNT_COUNT : Fld := ⟨0x50, 0x0, 0, 32⟩
/-- GLB_ECC_UE_COUNT.COUNT [31:0]. -/
abbrev GLB_ECC_UE_COUNT_COUNT : Fld := ⟨0x54, 0x0, 0, 32⟩
/-- GLB_ECC_LAST.MEM [31:28]. -/
abbrev GLB_ECC_LAST_MEM : Fld := ⟨0x58, 0x0, 28, 4⟩
/-- GLB_ECC_LAST.SEQ [15:0]. -/
abbrev GLB_ECC_LAST_SEQ : Fld := ⟨0x58, 0x0, 0, 16⟩
/-- GLB_ECC_LAST_WORD.WORD [30:0]. -/
abbrev GLB_ECC_LAST_WORD_WORD : Fld := ⟨0x5c, 0x0, 0, 31⟩
/-- GLB_SCRUB_CTRL.HBM_PERIOD [31:16]. -/
abbrev GLB_SCRUB_CTRL_HBM_PERIOD : Fld := ⟨0x60, 0x0, 16, 16⟩
/-- GLB_SCRUB_CTRL.SRAM_PERIOD [15:0]. -/
abbrev GLB_SCRUB_CTRL_SRAM_PERIOD : Fld := ⟨0x60, 0x0, 0, 16⟩
/-- GLB_SCRUB_STATUS.HBM_LATE [1:1]. -/
abbrev GLB_SCRUB_STATUS_HBM_LATE : Fld := ⟨0x64, 0x0, 1, 1⟩
/-- GLB_SCRUB_STATUS.SRAM_LATE [0:0]. -/
abbrev GLB_SCRUB_STATUS_SRAM_LATE : Fld := ⟨0x64, 0x0, 0, 1⟩
/-- GLB_DIE_STATUS.BRIDGE_CRC_ERR [31:16]. -/
abbrev GLB_DIE_STATUS_BRIDGE_CRC_ERR : Fld := ⟨0x70, 0x0, 16, 16⟩
/-- GLB_DIE_STATUS.TJ_MAX [15:0]. -/
abbrev GLB_DIE_STATUS_TJ_MAX : Fld := ⟨0x70, 0x0, 0, 16⟩
/-- TILE_ID.RESERVE_POS [16:16]. -/
abbrev TILE_ID_RESERVE_POS : Fld := ⟨0x4000000, 0x10000, 16, 1⟩
/-- TILE_ID.POSITION [11:8]. -/
abbrev TILE_ID_POSITION : Fld := ⟨0x4000000, 0x10000, 8, 4⟩
/-- TILE_ID.PHYS [6:0]. -/
abbrev TILE_ID_PHYS : Fld := ⟨0x4000000, 0x10000, 0, 7⟩
/-- TILE_STATE.LOGICAL [21:16]. -/
abbrev TILE_STATE_LOGICAL : Fld := ⟨0x4000004, 0x10000, 16, 6⟩
/-- TILE_STATE.SLOT_VALID [13:13]. -/
abbrev TILE_STATE_SLOT_VALID : Fld := ⟨0x4000004, 0x10000, 13, 1⟩
/-- TILE_STATE.SLOT [12:8]. -/
abbrev TILE_STATE_SLOT : Fld := ⟨0x4000004, 0x10000, 8, 5⟩
/-- TILE_STATE.STATE [3:0]. -/
abbrev TILE_STATE_STATE : Fld := ⟨0x4000004, 0x10000, 0, 4⟩
/-- TILE_CTRL.INJECT_FATAL [8:8]. -/
abbrev TILE_CTRL_INJECT_FATAL : Fld := ⟨0x4000008, 0x10000, 8, 1⟩
/-- TILE_CTRL.APERTURE_EN [0:0]. -/
abbrev TILE_CTRL_APERTURE_EN : Fld := ⟨0x4000008, 0x10000, 0, 1⟩
/-- TILE_ERR.BIST_FAIL [8:8]. -/
abbrev TILE_ERR_BIST_FAIL : Fld := ⟨0x400000c, 0x10000, 8, 1⟩
/-- TILE_ERR.HEARTBEAT [7:7]. -/
abbrev TILE_ERR_HEARTBEAT : Fld := ⟨0x400000c, 0x10000, 7, 1⟩
/-- TILE_ERR.WDOG [6:6]. -/
abbrev TILE_ERR_WDOG : Fld := ⟨0x400000c, 0x10000, 6, 1⟩
/-- TILE_ERR.ADDR [5:5]. -/
abbrev TILE_ERR_ADDR : Fld := ⟨0x400000c, 0x10000, 5, 1⟩
/-- TILE_ERR.ILLEGAL [4:4]. -/
abbrev TILE_ERR_ILLEGAL : Fld := ⟨0x400000c, 0x10000, 4, 1⟩
/-- TILE_ERR.APERTURE [3:3]. -/
abbrev TILE_ERR_APERTURE : Fld := ⟨0x400000c, 0x10000, 3, 1⟩
/-- TILE_ERR.UE_FATAL [2:2]. -/
abbrev TILE_ERR_UE_FATAL : Fld := ⟨0x400000c, 0x10000, 2, 1⟩
/-- TILE_ERR.UE_DATA [1:1]. -/
abbrev TILE_ERR_UE_DATA : Fld := ⟨0x400000c, 0x10000, 1, 1⟩
/-- TILE_ERR.CE [0:0]. -/
abbrev TILE_ERR_CE : Fld := ⟨0x400000c, 0x10000, 0, 1⟩
/-- TILE_FLAGS.ACC [12:8]. -/
abbrev TILE_FLAGS_ACC : Fld := ⟨0x4000010, 0x10000, 8, 5⟩
/-- TILE_FLAGS.LAST [4:0]. -/
abbrev TILE_FLAGS_LAST : Fld := ⟨0x4000010, 0x10000, 0, 5⟩
/-- TILE_SR_SEED.SEED [31:0]. -/
abbrev TILE_SR_SEED_SEED : Fld := ⟨0x4000014, 0x10000, 0, 32⟩
/-- TILE_APERTURE_PAGE.PAGE [5:0]. -/
abbrev TILE_APERTURE_PAGE_PAGE : Fld := ⟨0x4000018, 0x10000, 0, 6⟩
/-- TILE_TAG.TAG [31:0]. -/
abbrev TILE_TAG_TAG : Fld := ⟨0x400001c, 0x10000, 0, 32⟩
/-- TILE_BUSY_LO.BUSY_LO [31:0]. -/
abbrev TILE_BUSY_LO : Fld := ⟨0x4000020, 0x10000, 0, 32⟩
/-- TILE_BUSY_HI.BUSY_HI [31:0]. -/
abbrev TILE_BUSY_HI : Fld := ⟨0x4000024, 0x10000, 0, 32⟩
/-- TILE_ECC.CE_COUNT [31:16]. -/
abbrev TILE_ECC_CE_COUNT : Fld := ⟨0x4000028, 0x10000, 16, 16⟩
/-- TILE_ECC.UE_COUNT [15:0]. -/
abbrev TILE_ECC_UE_COUNT : Fld := ⟨0x4000028, 0x10000, 0, 16⟩
/-- TILE_REPAIR.ROWS_USED [23:16]. -/
abbrev TILE_REPAIR_ROWS_USED : Fld := ⟨0x400002c, 0x10000, 16, 8⟩
/-- TILE_REPAIR.ROWS_TOTAL [15:8]. -/
abbrev TILE_REPAIR_ROWS_TOTAL : Fld := ⟨0x400002c, 0x10000, 8, 8⟩
/-- TILE_REPAIR.COLS_USED [7:4]. -/
abbrev TILE_REPAIR_COLS_USED : Fld := ⟨0x400002c, 0x10000, 4, 4⟩
/-- TILE_REPAIR.COLS_TOTAL [3:0]. -/
abbrev TILE_REPAIR_COLS_TOTAL : Fld := ⟨0x400002c, 0x10000, 0, 4⟩
/-- ARR_STATUS.TILES_ACTIVE [31:24]. -/
abbrev ARR_STATUS_TILES_ACTIVE : Fld := ⟨0x4480000, 0x0, 24, 8⟩
/-- ARR_STATUS.SLOTS_READY [23:16]. -/
abbrev ARR_STATUS_SLOTS_READY : Fld := ⟨0x4480000, 0x0, 16, 8⟩
/-- ARR_STATUS.RESERVE_AVAIL [7:0]. -/
abbrev ARR_STATUS_RESERVE_AVAIL : Fld := ⟨0x4480000, 0x0, 0, 8⟩
/-- ARR_LOADER.QUEUED [10:8]. -/
abbrev ARR_LOADER_QUEUED : Fld := ⟨0x4480004, 0x0, 8, 3⟩
/-- ARR_LOADER.STEP [2:0]. -/
abbrev ARR_LOADER_STEP : Fld := ⟨0x4480004, 0x0, 0, 3⟩
/-- ARR_TAKEOVER.COUNT [31:24]. -/
abbrev ARR_TAKEOVER_COUNT : Fld := ⟨0x4480008, 0x0, 24, 8⟩
/-- ARR_TAKEOVER.IN_PROGRESS [16:16]. -/
abbrev ARR_TAKEOVER_IN_PROGRESS : Fld := ⟨0x4480008, 0x0, 16, 1⟩
/-- ARR_TAKEOVER.LAST_FAILED [15:8]. -/
abbrev ARR_TAKEOVER_LAST_FAILED : Fld := ⟨0x4480008, 0x0, 8, 8⟩
/-- ARR_TAKEOVER.LAST_RESERVE [7:0]. -/
abbrev ARR_TAKEOVER_LAST_RESERVE : Fld := ⟨0x4480008, 0x0, 0, 8⟩
/-- ARR_STREAM_BW.RESERVED [12:0]. -/
abbrev ARR_STREAM_BW_RESERVED : Fld := ⟨0x448000c, 0x0, 0, 13⟩
/-- SLOT_CTRL.PRED_VALID [21:21]. -/
abbrev SLOT_CTRL_PRED_VALID : Fld := ⟨0x4481000, 0x40, 21, 1⟩
/-- SLOT_CTRL.PRED [20:16]. -/
abbrev SLOT_CTRL_PRED : Fld := ⟨0x4481000, 0x40, 16, 5⟩
/-- SLOT_CTRL.TIMER_EN [8:8]. -/
abbrev SLOT_CTRL_TIMER_EN : Fld := ⟨0x4481000, 0x40, 8, 1⟩
/-- SLOT_CTRL.RETIRE [1:1]. -/
abbrev SLOT_CTRL_RETIRE : Fld := ⟨0x4481000, 0x40, 1, 1⟩
/-- SLOT_CTRL.COMMIT [0:0]. -/
abbrev SLOT_CTRL_COMMIT : Fld := ⟨0x4481000, 0x40, 0, 1⟩
/-- SLOT_STATE.TILE_COUNT [31:24]. -/
abbrev SLOT_STATE_TILE_COUNT : Fld := ⟨0x4481004, 0x40, 24, 8⟩
/-- SLOT_STATE.LC [23:20]. -/
abbrev SLOT_STATE_LC : Fld := ⟨0x4481004, 0x40, 20, 4⟩
/-- SLOT_STATE.SET [19:16]. -/
abbrev SLOT_STATE_SET : Fld := ⟨0x4481004, 0x40, 16, 4⟩
/-- SLOT_STATE.STREAMED [15:15]. -/
abbrev SLOT_STATE_STREAMED : Fld := ⟨0x4481004, 0x40, 15, 1⟩
/-- SLOT_STATE.NO_RESERVE [14:14]. -/
abbrev SLOT_STATE_NO_RESERVE : Fld := ⟨0x4481004, 0x40, 14, 1⟩
/-- SLOT_STATE.COMMIT_REJECT [13:13]. -/
abbrev SLOT_STATE_COMMIT_REJECT : Fld := ⟨0x4481004, 0x40, 13, 1⟩
/-- SLOT_STATE.STATE [3:0]. -/
abbrev SLOT_STATE_STATE : Fld := ⟨0x4481004, 0x40, 0, 4⟩
/-- SLOT_INVOKE.GO [0:0]. -/
abbrev SLOT_INVOKE_GO : Fld := ⟨0x4481008, 0x40, 0, 1⟩
/-- SLOT_PERIOD.PERIOD_NS [31:0]. -/
abbrev SLOT_PERIOD_PERIOD_NS : Fld := ⟨0x448100c, 0x40, 0, 32⟩
/-- SLOT_START_LO.START_LO [31:0]. -/
abbrev SLOT_START_LO : Fld := ⟨0x4481010, 0x40, 0, 32⟩
/-- SLOT_START_HI.START_HI [31:0]. -/
abbrev SLOT_START_HI : Fld := ⟨0x4481014, 0x40, 0, 32⟩
/-- SLOT_SEQ.SEQ [31:0]. -/
abbrev SLOT_SEQ_SEQ : Fld := ⟨0x4481018, 0x40, 0, 32⟩
/-- SLOT_COUNTS.LATE [29:20]. -/
abbrev SLOT_COUNTS_LATE : Fld := ⟨0x448101c, 0x40, 20, 10⟩
/-- SLOT_COUNTS.DROPPED [19:10]. -/
abbrev SLOT_COUNTS_DROPPED : Fld := ⟨0x448101c, 0x40, 10, 10⟩
/-- SLOT_COUNTS.OVERRUN [9:0]. -/
abbrev SLOT_COUNTS_OVERRUN : Fld := ⟨0x448101c, 0x40, 0, 10⟩
/-- SLOT_TAG.TAG [31:0]. -/
abbrev SLOT_TAG_TAG : Fld := ⟨0x4481020, 0x40, 0, 32⟩
/-- VL_CTRL.TSYNC_PERIOD [23:16]. -/
abbrev VL_CTRL_TSYNC_PERIOD : Fld := ⟨0xa00000, 0x0, 16, 8⟩
/-- VL_CTRL.EN [0:0]. -/
abbrev VL_CTRL_EN : Fld := ⟨0xa00000, 0x0, 0, 1⟩
/-- VL_FAIL_CFG.ACK_TIMEOUT [31:24]. -/
abbrev VL_FAIL_CFG_ACK_TIMEOUT : Fld := ⟨0xa00004, 0x0, 24, 8⟩
/-- VL_FAIL_CFG.SAME_SEQ_LIMIT [23:16]. -/
abbrev VL_FAIL_CFG_SAME_SEQ_LIMIT : Fld := ⟨0xa00004, 0x0, 16, 8⟩
/-- VL_FAIL_CFG.RATE_LIMIT [15:0]. -/
abbrev VL_FAIL_CFG_RATE_LIMIT : Fld := ⟨0xa00004, 0x0, 0, 16⟩
/-- VL_STATUS.ACTIVE [31:24]. -/
abbrev VL_STATUS_ACTIVE : Fld := ⟨0xa00008, 0x0, 24, 8⟩
/-- VL_STATUS.STANDBY [23:16]. -/
abbrev VL_STATUS_STANDBY : Fld := ⟨0xa00008, 0x0, 16, 8⟩
/-- VL_STATUS.FAULT [15:8]. -/
abbrev VL_STATUS_FAULT : Fld := ⟨0xa00008, 0x0, 8, 8⟩
/-- VL_STATUS.TAKEOVERS [7:0]. -/
abbrev VL_STATUS_TAKEOVERS : Fld := ⟨0xa00008, 0x0, 0, 8⟩
/-- LNK_CTRL.FORCE_FAIL [3:3]. -/
abbrev LNK_CTRL_FORCE_FAIL : Fld := ⟨0xa10000, 0x1000, 3, 1⟩
/-- LNK_CTRL.RETRAIN [2:2]. -/
abbrev LNK_CTRL_RETRAIN : Fld := ⟨0xa10000, 0x1000, 2, 1⟩
/-- LNK_CTRL.EN [0:0]. -/
abbrev LNK_CTRL_EN : Fld := ⟨0xa10000, 0x1000, 0, 1⟩
/-- LNK_STATE.ROLE [21:20]. -/
abbrev LNK_STATE_ROLE : Fld := ⟨0xa10004, 0x1000, 20, 2⟩
/-- LNK_STATE.FEC_CORRECT [19:19]. -/
abbrev LNK_STATE_FEC_CORRECT : Fld := ⟨0xa10004, 0x1000, 19, 1⟩
/-- LNK_STATE.ATTEMPTS [18:16]. -/
abbrev LNK_STATE_ATTEMPTS : Fld := ⟨0xa10004, 0x1000, 16, 3⟩
/-- LNK_STATE.STATE [3:0]. -/
abbrev LNK_STATE_STATE : Fld := ⟨0xa10004, 0x1000, 0, 4⟩
/-- LNK_CFG.FEC [1:0]. -/
abbrev LNK_CFG_FEC : Fld := ⟨0xa10008, 0x1000, 0, 2⟩
/-- LNK_ERR.NO_ENDPOINT [9:9]. -/
abbrev LNK_ERR_NO_ENDPOINT : Fld := ⟨0xa1000c, 0x1000, 9, 1⟩
/-- LNK_ERR.BAD_NAK [8:8]. -/
abbrev LNK_ERR_BAD_NAK : Fld := ⟨0xa1000c, 0x1000, 8, 1⟩
/-- LNK_ERR.LOS [7:7]. -/
abbrev LNK_ERR_LOS : Fld := ⟨0xa1000c, 0x1000, 7, 1⟩
/-- LNK_ERR.LOCK_LOST [6:6]. -/
abbrev LNK_ERR_LOCK_LOST : Fld := ⟨0xa1000c, 0x1000, 6, 1⟩
/-- LNK_ERR.SAME_SEQ [5:5]. -/
abbrev LNK_ERR_SAME_SEQ : Fld := ⟨0xa1000c, 0x1000, 5, 1⟩
/-- LNK_ERR.RATE [4:4]. -/
abbrev LNK_ERR_RATE : Fld := ⟨0xa1000c, 0x1000, 4, 1⟩
/-- LNK_ERR.ACK_TIMEOUT [3:3]. -/
abbrev LNK_ERR_ACK_TIMEOUT : Fld := ⟨0xa1000c, 0x1000, 3, 1⟩
/-- LNK_ERR.CREDIT_VIOL [2:2]. -/
abbrev LNK_ERR_CREDIT_VIOL : Fld := ⟨0xa1000c, 0x1000, 2, 1⟩
/-- LNK_ERR.BAD_TYPE [1:1]. -/
abbrev LNK_ERR_BAD_TYPE : Fld := ⟨0xa1000c, 0x1000, 1, 1⟩
/-- LNK_ERR.TRAIN_FAIL [0:0]. -/
abbrev LNK_ERR_TRAIN_FAIL : Fld := ⟨0xa1000c, 0x1000, 0, 1⟩
/-- LNK_CNT0.CRC_ERR [31:16]. -/
abbrev LNK_CNT0_CRC_ERR : Fld := ⟨0xa10010, 0x1000, 16, 16⟩
/-- LNK_CNT0.REPLAYS [15:0]. -/
abbrev LNK_CNT0_REPLAYS : Fld := ⟨0xa10010, 0x1000, 0, 16⟩
/-- LNK_CNT1.FEC_SYM [31:16]. -/
abbrev LNK_CNT1_FEC_SYM : Fld := ⟨0xa10014, 0x1000, 16, 16⟩
/-- LNK_CNT1.FEC_UNCORR [15:0]. -/
abbrev LNK_CNT1_FEC_UNCORR : Fld := ⟨0xa10014, 0x1000, 0, 16⟩
/-- LNK_CNT2.RETRAINS [31:24]. -/
abbrev LNK_CNT2_RETRAINS : Fld := ⟨0xa10018, 0x1000, 24, 8⟩
/-- LNK_CNT2.FAILURES [23:16]. -/
abbrev LNK_CNT2_FAILURES : Fld := ⟨0xa10018, 0x1000, 16, 8⟩
/-- LNK_CNT2.NAKS_SENT [15:0]. -/
abbrev LNK_CNT2_NAKS_SENT : Fld := ⟨0xa10018, 0x1000, 0, 16⟩
/-- LNK_SEQ.TX_ACKED [22:16]. -/
abbrev LNK_SEQ_TX_ACKED : Fld := ⟨0xa1001c, 0x1000, 16, 7⟩
/-- LNK_SEQ.TX_NEXT [14:8]. -/
abbrev LNK_SEQ_TX_NEXT : Fld := ⟨0xa1001c, 0x1000, 8, 7⟩
/-- LNK_SEQ.RX_ACCEPTED [6:0]. -/
abbrev LNK_SEQ_RX_ACCEPTED : Fld := ⟨0xa1001c, 0x1000, 0, 7⟩
/-- LNK_PCS_LAT.PEER [31:16]. -/
abbrev LNK_PCS_LAT_PEER : Fld := ⟨0xa10020, 0x1000, 16, 16⟩
/-- LNK_PCS_LAT.LOCAL [15:0]. -/
abbrev LNK_PCS_LAT_LOCAL : Fld := ⟨0xa10020, 0x1000, 0, 16⟩
/-- VL_ACC_STATUS.PAIR [23:22]. -/
abbrev VL_ACC_STATUS_PAIR : Fld := ⟨0xa30000, 0x100, 22, 2⟩
/-- VL_ACC_STATUS.TSYNC_LOCKED [21:21]. -/
abbrev VL_ACC_STATUS_TSYNC_LOCKED : Fld := ⟨0xa30000, 0x100, 21, 1⟩
/-- VL_ACC_STATUS.BINDING_CHANGED [20:20]. -/
abbrev VL_ACC_STATUS_BINDING_CHANGED : Fld := ⟨0xa30000, 0x100, 20, 1⟩
/-- VL_ACC_STATUS.MODE [2:0]. -/
abbrev VL_ACC_STATUS_MODE : Fld := ⟨0xa30000, 0x100, 0, 3⟩
/-- VL_ACC_CTRL.BIND_OK [1:1]. -/
abbrev VL_ACC_CTRL_BIND_OK : Fld := ⟨0xa30004, 0x100, 1, 1⟩
/-- VL_ACC_CTRL.FORCE_SIDEBAND [0:0]. -/
abbrev VL_ACC_CTRL_FORCE_SIDEBAND : Fld := ⟨0xa30004, 0x100, 0, 1⟩
/-- VL_ACC_ROLE.RESERVE [5:4]. -/
abbrev VL_ACC_ROLE_RESERVE : Fld := ⟨0xa30008, 0x100, 4, 2⟩
/-- VL_ACC_ROLE.SECONDARY [3:2]. -/
abbrev VL_ACC_ROLE_SECONDARY : Fld := ⟨0xa30008, 0x100, 2, 2⟩
/-- VL_ACC_ROLE.PRIMARY [1:0]. -/
abbrev VL_ACC_ROLE_PRIMARY : Fld := ⟨0xa30008, 0x100, 0, 2⟩
/-- VL_ACC_TSYNC.OFFSET [31:16]. -/
abbrev VL_ACC_TSYNC_OFFSET : Fld := ⟨0xa3000c, 0x100, 16, 16⟩
/-- VL_ACC_TSYNC.PATH [15:0]. -/
abbrev VL_ACC_TSYNC_PATH : Fld := ⟨0xa3000c, 0x100, 0, 16⟩
/-- SOB_CTRL.EN [0:0]. -/
abbrev SOB_CTRL_EN : Fld := ⟨0xc00000, 0x0, 0, 1⟩
/-- SOB_STATUS.CASTLING [31:31]. -/
abbrev SOB_STATUS_CASTLING : Fld := ⟨0xc00004, 0x0, 31, 1⟩
/-- SOB_STATUS.OBJECTS [16:0]. -/
abbrev SOB_STATUS_OBJECTS : Fld := ⟨0xc00004, 0x0, 0, 17⟩
/-- SOB_GROUPS.SUSPENDED [24:16]. -/
abbrev SOB_GROUPS_SUSPENDED : Fld := ⟨0xc00008, 0x0, 16, 9⟩
/-- SOB_GROUPS.ACTIVE [8:0]. -/
abbrev SOB_GROUPS_ACTIVE : Fld := ⟨0xc00008, 0x0, 0, 9⟩
/-- SOB_WAITERS.HIGH [31:16]. -/
abbrev SOB_WAITERS_HIGH : Fld := ⟨0xc0000c, 0x0, 16, 16⟩
/-- SOB_WAITERS.PARKED [15:0]. -/
abbrev SOB_WAITERS_PARKED : Fld := ⟨0xc0000c, 0x0, 0, 16⟩
/-- SOB_ERR.HOP_BUSY [5:5]. -/
abbrev SOB_ERR_HOP_BUSY : Fld := ⟨0xc00010, 0x0, 5, 1⟩
/-- SOB_ERR.WIN_WRITE [4:4]. -/
abbrev SOB_ERR_WIN_WRITE : Fld := ⟨0xc00010, 0x0, 4, 1⟩
/-- SOB_ERR.TABLE_FULL [3:3]. -/
abbrev SOB_ERR_TABLE_FULL : Fld := ⟨0xc00010, 0x0, 3, 1⟩
/-- SOB_ERR.OUTSTANDING [2:2]. -/
abbrev SOB_ERR_OUTSTANDING : Fld := ⟨0xc00010, 0x0, 2, 1⟩
/-- SOB_ERR.POISON [1:1]. -/
abbrev SOB_ERR_POISON : Fld := ⟨0xc00010, 0x0, 1, 1⟩
/-- SOB_ERR.CE [0:0]. -/
abbrev SOB_ERR_CE : Fld := ⟨0xc00010, 0x0, 0, 1⟩
/-- SOB_GEN_BASE.GEN_BASE [7:0]. -/
abbrev SOB_GEN_BASE_GEN_BASE : Fld := ⟨0xc00014, 0x0, 0, 8⟩
/-- SOB_OPS_LO.OPS_LO [31:0]. -/
abbrev SOB_OPS_LO : Fld := ⟨0xc00020, 0x0, 0, 32⟩
/-- SOB_OPS_HI.OPS_HI [31:0]. -/
abbrev SOB_OPS_HI : Fld := ⟨0xc00024, 0x0, 0, 32⟩
/-- SOB_TIMEOUTS.COUNT [31:0]. -/
abbrev SOB_TIMEOUTS_COUNT : Fld := ⟨0xc00028, 0x0, 0, 32⟩
/-- SOB_OPERR.COUNT [31:0]. -/
abbrev SOB_OPERR_COUNT : Fld := ⟨0xc0002c, 0x0, 0, 32⟩
/-- SOB_HOP_HANDLE.HANDLE [31:0]. -/
abbrev SOB_HOP_HANDLE_HANDLE : Fld := ⟨0xc00040, 0x0, 0, 32⟩
/-- SOB_HOP_CMD.GO [31:31]. -/
abbrev SOB_HOP_CMD_GO : Fld := ⟨0xc00044, 0x0, 31, 1⟩
/-- SOB_HOP_CMD.ORD [7:7]. -/
abbrev SOB_HOP_CMD_ORD : Fld := ⟨0xc00044, 0x0, 7, 1⟩
/-- SOB_HOP_CMD.COND [5:4]. -/
abbrev SOB_HOP_CMD_COND : Fld := ⟨0xc00044, 0x0, 4, 2⟩
/-- SOB_HOP_CMD.OP [3:0]. -/
abbrev SOB_HOP_CMD_OP : Fld := ⟨0xc00044, 0x0, 0, 4⟩
/-- SOB_HOP_OPERAND_LO.OPERAND_LO [31:0]. -/
abbrev SOB_HOP_OPERAND_LO : Fld := ⟨0xc00048, 0x0, 0, 32⟩
/-- SOB_HOP_OPERAND_HI.OPERAND_HI [31:0]. -/
abbrev SOB_HOP_OPERAND_HI : Fld := ⟨0xc0004c, 0x0, 0, 32⟩
/-- SOB_HOP_RESULT_LO.RESULT_LO [31:0]. -/
abbrev SOB_HOP_RESULT_LO : Fld := ⟨0xc00050, 0x0, 0, 32⟩
/-- SOB_HOP_RESULT_HI.RESULT_HI [31:0]. -/
abbrev SOB_HOP_RESULT_HI : Fld := ⟨0xc00054, 0x0, 0, 32⟩
/-- SOB_HOP_STATUS.BUSY [9:9]. -/
abbrev SOB_HOP_STATUS_BUSY : Fld := ⟨0xc00058, 0x0, 9, 1⟩
/-- SOB_HOP_STATUS.DONE [8:8]. -/
abbrev SOB_HOP_STATUS_DONE : Fld := ⟨0xc00058, 0x0, 8, 1⟩
/-- SOB_HOP_STATUS.STATUS [7:0]. -/
abbrev SOB_HOP_STATUS_STATUS : Fld := ⟨0xc00058, 0x0, 0, 8⟩
/-- SOB_SRC.PARKED [27:16]. -/
abbrev SOB_SRC_PARKED : Fld := ⟨0xc00100, 0x4, 16, 12⟩
/-- SOB_SRC.OUTSTANDING [4:0]. -/
abbrev SOB_SRC_OUTSTANDING : Fld := ⟨0xc00100, 0x4, 0, 5⟩
/-- GRP_CTRL.STATE [31:30]. -/
abbrev GRP_CTRL_STATE : Fld := ⟨0xc01000, 0x10, 30, 2⟩
/-- GRP_CTRL.HOST_OK [24:24]. -/
abbrev GRP_CTRL_HOST_OK : Fld := ⟨0xc01000, 0x10, 24, 1⟩
/-- GRP_CTRL.QUOTA [16:0]. -/
abbrev GRP_CTRL_QUOTA : Fld := ⟨0xc01000, 0x10, 0, 17⟩
/-- GRP_MAP.MEMBER [31:0]. -/
abbrev GRP_MAP_MEMBER : Fld := ⟨0xc01004, 0x10, 0, 32⟩
/-- GRP_USAGE.PARKED [31:17]. -/
abbrev GRP_USAGE_PARKED : Fld := ⟨0xc01008, 0x10, 17, 15⟩
/-- GRP_USAGE.OBJECTS [16:0]. -/
abbrev GRP_USAGE_OBJECTS : Fld := ⟨0xc01008, 0x10, 0, 17⟩
/-- BRD_CTRL.EN [0:0]. -/
abbrev BRD_CTRL_EN : Fld := ⟨0x2000000, 0x0, 0, 1⟩
/-- BRD_STATUS.OPEN [25:16]. -/
abbrev BRD_STATUS_OPEN : Fld := ⟨0x2000004, 0x0, 16, 10⟩
/-- BRD_STATUS.CONTEXTS [8:0]. -/
abbrev BRD_STATUS_CONTEXTS : Fld := ⟨0x2000004, 0x0, 0, 9⟩
/-- BRD_AREA.USED [31:16]. -/
abbrev BRD_AREA_USED : Fld := ⟨0x2000008, 0x0, 16, 16⟩
/-- BRD_AREA.TOTAL [15:0]. -/
abbrev BRD_AREA_TOTAL : Fld := ⟨0x2000008, 0x0, 0, 16⟩
/-- BRD_ERR.ABORT_IGNORED [4:4]. -/
abbrev BRD_ERR_ABORT_IGNORED : Fld := ⟨0x200000c, 0x0, 4, 1⟩
/-- BRD_ERR.ORPHAN [3:3]. -/
abbrev BRD_ERR_ORPHAN : Fld := ⟨0x200000c, 0x0, 3, 1⟩
/-- BRD_ERR.POISON [2:2]. -/
abbrev BRD_ERR_POISON : Fld := ⟨0x200000c, 0x0, 2, 1⟩
/-- BRD_ERR.TRAIN_REFUSED [1:1]. -/
abbrev BRD_ERR_TRAIN_REFUSED : Fld := ⟨0x200000c, 0x0, 1, 1⟩
/-- BRD_ERR.INSTANCE_ABORT [0:0]. -/
abbrev BRD_ERR_INSTANCE_ABORT : Fld := ⟨0x200000c, 0x0, 0, 1⟩
/-- BRD_DONE_LO.DONE_LO [31:0]. -/
abbrev BRD_DONE_LO : Fld := ⟨0x2000010, 0x0, 0, 32⟩
/-- BRD_DONE_HI.DONE_HI [31:0]. -/
abbrev BRD_DONE_HI : Fld := ⟨0x2000014, 0x0, 0, 32⟩
/-- BRD_ABORTS.COUNT [31:0]. -/
abbrev BRD_ABORTS_COUNT : Fld := ⟨0x2000018, 0x0, 0, 32⟩
/-- BRD_TRAIN_DROPS.ORPHANS [31:16]. -/
abbrev BRD_TRAIN_DROPS_ORPHANS : Fld := ⟨0x200001c, 0x0, 16, 16⟩
/-- BRD_TRAIN_DROPS.REFUSED [15:0]. -/
abbrev BRD_TRAIN_DROPS_REFUSED : Fld := ⟨0x200001c, 0x0, 0, 16⟩
/-- BRD_ICONTRIB.CTX [23:16]. -/
abbrev BRD_ICONTRIB_CTX : Fld := ⟨0x2000020, 0x0, 16, 8⟩
/-- BRD_ICONTRIB.INST [15:0]. -/
abbrev BRD_ICONTRIB_INST : Fld := ⟨0x2000020, 0x0, 0, 16⟩
/-- BRD_ISTATUS.CTX [31:24]. -/
abbrev BRD_ISTATUS_CTX : Fld := ⟨0x2000024, 0x0, 24, 8⟩
/-- BRD_ISTATUS.INST [23:8]. -/
abbrev BRD_ISTATUS_INST : Fld := ⟨0x2000024, 0x0, 8, 16⟩
/-- BRD_ISTATUS.EVENT [7:6]. -/
abbrev BRD_ISTATUS_EVENT : Fld := ⟨0x2000024, 0x0, 6, 2⟩
/-- BRD_ISTATUS.STATUS [5:0]. -/
abbrev BRD_ISTATUS_STATUS : Fld := ⟨0x2000024, 0x0, 0, 6⟩
/-- BRD_CTX_CFG.VALID [31:31]. -/
abbrev BRD_CTX_CFG_VALID : Fld := ⟨0x2010000, 0x20, 31, 1⟩
/-- BRD_CTX_CFG.GROUP [23:16]. -/
abbrev BRD_CTX_CFG_GROUP : Fld := ⟨0x2010000, 0x20, 16, 8⟩
/-- BRD_CTX_CFG.ROOT [15:12]. -/
abbrev BRD_CTX_CFG_ROOT : Fld := ⟨0x2010000, 0x20, 12, 4⟩
/-- BRD_CTX_CFG.TRK [11:11]. -/
abbrev BRD_CTX_CFG_TRK : Fld := ⟨0x2010000, 0x20, 11, 1⟩
/-- BRD_CTX_CFG.OP [7:5]. -/
abbrev BRD_CTX_CFG_OP : Fld := ⟨0x2010000, 0x20, 5, 3⟩
/-- BRD_CTX_CFG.TYPE [2:0]. -/
abbrev BRD_CTX_CFG_TYPE : Fld := ⟨0x2010000, 0x20, 0, 3⟩
/-- BRD_CTX_FMT.MXV_IN [16:16]. -/
abbrev BRD_CTX_FMT_MXV_IN : Fld := ⟨0x2010004, 0x20, 16, 1⟩
/-- BRD_CTX_FMT.NCTL [15:8]. -/
abbrev BRD_CTX_FMT_NCTL : Fld := ⟨0x2010004, 0x20, 8, 8⟩
/-- BRD_CTX_FMT.FMT_OUT [7:4]. -/
abbrev BRD_CTX_FMT_FMT_OUT : Fld := ⟨0x2010004, 0x20, 4, 4⟩
/-- BRD_CTX_FMT.FMT_IN [3:0]. -/
abbrev BRD_CTX_FMT_FMT_IN : Fld := ⟨0x2010004, 0x20, 0, 4⟩
/-- BRD_CTX_LEN.N [17:0]. -/
abbrev BRD_CTX_LEN_N : Fld := ⟨0x2010008, 0x20, 0, 18⟩
/-- BRD_CTX_MEMBERS.RECV [24:16]. -/
abbrev BRD_CTX_MEMBERS_RECV : Fld := ⟨0x201000c, 0x20, 16, 9⟩
/-- BRD_CTX_MEMBERS.CONTRIB [8:0]. -/
abbrev BRD_CTX_MEMBERS_CONTRIB : Fld := ⟨0x201000c, 0x20, 0, 9⟩
/-- BRD_CTX_TIMEOUT.TIMEOUT [15:0]. -/
abbrev BRD_CTX_TIMEOUT_TIMEOUT : Fld := ⟨0x2010010, 0x20, 0, 16⟩
/-- BRD_CTX_STATE.INST [31:16]. -/
abbrev BRD_CTX_STATE_INST : Fld := ⟨0x2010014, 0x20, 16, 16⟩
/-- BRD_CTX_STATE.ARRIVED [15:7]. -/
abbrev BRD_CTX_STATE_ARRIVED : Fld := ⟨0x2010014, 0x20, 7, 9⟩
/-- BRD_CTX_STATE.NEXT_OPEN [6:6]. -/
abbrev BRD_CTX_STATE_NEXT_OPEN : Fld := ⟨0x2010014, 0x20, 6, 1⟩
/-- BRD_CTX_STATE.STATE [3:0]. -/
abbrev BRD_CTX_STATE_STATE : Fld := ⟨0x2010014, 0x20, 0, 4⟩
/-- BRD_CTX_FLAGS.ACC [12:8]. -/
abbrev BRD_CTX_FLAGS_ACC : Fld := ⟨0x2010018, 0x20, 8, 5⟩
/-- BRD_CTX_FLAGS.LAST [4:0]. -/
abbrev BRD_CTX_FLAGS_LAST : Fld := ⟨0x2010018, 0x20, 0, 5⟩
/-- BRD_CTX_AREA.FOOT [31:16]. -/
abbrev BRD_CTX_AREA_FOOT : Fld := ⟨0x201001c, 0x20, 16, 16⟩
/-- BRD_CTX_AREA.BASE [12:0]. -/
abbrev BRD_CTX_AREA_BASE : Fld := ⟨0x201001c, 0x20, 0, 13⟩
/-- PWC_CTRL.ORO_EN [3:3]. -/
abbrev PWC_CTRL_ORO_EN : Fld := ⟨0x200000, 0x0, 3, 1⟩
/-- PWC_CTRL.SHAPE_EN [2:2]. -/
abbrev PWC_CTRL_SHAPE_EN : Fld := ⟨0x200000, 0x0, 2, 1⟩
/-- PWC_CTRL.ARB_EN [1:1]. -/
abbrev PWC_CTRL_ARB_EN : Fld := ⟨0x200000, 0x0, 1, 1⟩
/-- PWC_CTRL.SEQ_EN [0:0]. -/
abbrev PWC_CTRL_SEQ_EN : Fld := ⟨0x200000, 0x0, 0, 1⟩
/-- PWC_STATUS.CHECK_ACC [31:24]. -/
abbrev PWC_STATUS_CHECK_ACC : Fld := ⟨0x200004, 0x0, 24, 8⟩
/-- PWC_STATUS.MATE [23:23]. -/
abbrev PWC_STATUS_MATE : Fld := ⟨0x200004, 0x0, 23, 1⟩
/-- PWC_STATUS.CAPSEL [22:20]. -/
abbrev PWC_STATUS_CAPSEL : Fld := ⟨0x200004, 0x0, 20, 3⟩
/-- PWC_STATUS.INFEASIBLE [19:19]. -/
abbrev PWC_STATUS_INFEASIBLE : Fld := ⟨0x200004, 0x0, 19, 1⟩
/-- PWC_STATUS.LIMITING [7:0]. -/
abbrev PWC_STATUS_LIMITING : Fld := ⟨0x200004, 0x0, 0, 8⟩
/-- PWC_EMERG.CLEAR_MS [31:16]. -/
abbrev PWC_EMERG_CLEAR_MS : Fld := ⟨0x200008, 0x0, 16, 16⟩
/-- PWC_EMERG.STATE [6:0]. -/
abbrev PWC_EMERG_STATE : Fld := ⟨0x200008, 0x0, 0, 7⟩
/-- PWC_ERR.SB_WRITE [5:5]. -/
abbrev PWC_ERR_SB_WRITE : Fld := ⟨0x20000c, 0x0, 5, 1⟩
/-- PWC_ERR.AVS_ERR [4:4]. -/
abbrev PWC_ERR_AVS_ERR : Fld := ⟨0x20000c, 0x0, 4, 1⟩
/-- PWC_ERR.PTAB_INVALID [3:3]. -/
abbrev PWC_ERR_PTAB_INVALID : Fld := ⟨0x20000c, 0x0, 3, 1⟩
/-- PWC_ERR.STALE [2:2]. -/
abbrev PWC_ERR_STALE : Fld := ⟨0x20000c, 0x0, 2, 1⟩
/-- PWC_ERR.BUDGET_REJECT [1:1]. -/
abbrev PWC_ERR_BUDGET_REJECT : Fld := ⟨0x20000c, 0x0, 1, 1⟩
/-- PWC_ERR.DVFS_TIMEOUT [0:0]. -/
abbrev PWC_ERR_DVFS_TIMEOUT : Fld := ⟨0x20000c, 0x0, 0, 1⟩
/-- PWC_TRAY_CAP.AVAILABLE_W [31:16]. -/
abbrev PWC_TRAY_CAP_AVAILABLE_W : Fld := ⟨0x200010, 0x0, 16, 16⟩
/-- PWC_TRAY_CAP.CAP_W [15:0]. -/
abbrev PWC_TRAY_CAP_CAP_W : Fld := ⟨0x200010, 0x0, 0, 16⟩
/-- PWC_OVERHEAD.RESERVE_W [15:0]. -/
abbrev PWC_OVERHEAD_RESERVE_W : Fld := ⟨0x200014, 0x0, 0, 16⟩
/-- PWC_CAP_DEFAULT.ENTRY_HI [31:16]. -/
abbrev PWC_CAP_DEFAULT_ENTRY_HI : Fld := ⟨0x200020, 0x4, 16, 16⟩
/-- PWC_CAP_DEFAULT.ENTRY_LO [15:0]. -/
abbrev PWC_CAP_DEFAULT_ENTRY_LO : Fld := ⟨0x200020, 0x4, 0, 16⟩
/-- PWC_LIM_CFG.MARGIN_PCT [31:24]. -/
abbrev PWC_LIM_CFG_MARGIN_PCT : Fld := ⟨0x200030, 0x0, 24, 8⟩
/-- PWC_LIM_CFG.STALE_MAX [23:16]. -/
abbrev PWC_LIM_CFG_STALE_MAX : Fld := ⟨0x200030, 0x0, 16, 8⟩
/-- PWC_LIM_CFG.WIN [15:0]. -/
abbrev PWC_LIM_CFG_WIN : Fld := ⟨0x200030, 0x0, 0, 16⟩
/-- PWC_SLEW_CFG.STEP_MAX [31:16]. -/
abbrev PWC_SLEW_CFG_STEP_MAX : Fld := ⟨0x200034, 0x0, 16, 16⟩
/-- PWC_SLEW_CFG.SLEW [7:0]. -/
abbrev PWC_SLEW_CFG_SLEW : Fld := ⟨0x200034, 0x0, 0, 8⟩
/-- PWC_SHAPE_CFG.PRE_MARGIN [31:24]. -/
abbrev PWC_SHAPE_CFG_PRE_MARGIN : Fld := ⟨0x200038, 0x0, 24, 8⟩
/-- PWC_SHAPE_CFG.K_ARR [18:14]. -/
abbrev PWC_SHAPE_CFG_K_ARR : Fld := ⟨0x200038, 0x0, 14, 5⟩
/-- PWC_SHAPE_CFG.FLOOR [13:9]. -/
abbrev PWC_SHAPE_CFG_FLOOR : Fld := ⟨0x200038, 0x0, 9, 5⟩
/-- PWC_SHAPE_CFG.MIN_WAIT [8:0]. -/
abbrev PWC_SHAPE_CFG_MIN_WAIT : Fld := ⟨0x200038, 0x0, 0, 9⟩
/-- PWC_GB_CFG.DROOP_MV [31:24]. -/
abbrev PWC_GB_CFG_DROOP_MV : Fld := ⟨0x20003c, 0x0, 24, 8⟩
/-- PWC_GB_CFG.HIGH_MV [23:16]. -/
abbrev PWC_GB_CFG_HIGH_MV : Fld := ⟨0x20003c, 0x0, 16, 8⟩
/-- PWC_GB_CFG.LOW_MV [15:8]. -/
abbrev PWC_GB_CFG_LOW_MV : Fld := ⟨0x20003c, 0x0, 8, 8⟩
/-- PWC_GB_CFG.LEAD [7:4]. -/
abbrev PWC_GB_CFG_LEAD : Fld := ⟨0x20003c, 0x0, 4, 4⟩
/-- PWC_GB_CFG.HOLD [3:0]. -/
abbrev PWC_GB_CFG_HOLD : Fld := ⟨0x20003c, 0x0, 0, 4⟩
/-- PWC_DROOP_CFG.DIDT [31:24]. -/
abbrev PWC_DROOP_CFG_DIDT : Fld := ⟨0x200040, 0x0, 24, 8⟩
/-- PWC_DROOP_CFG.STEP [20:16]. -/
abbrev PWC_DROOP_CFG_STEP : Fld := ⟨0x200040, 0x0, 16, 5⟩
/-- PWC_DROOP_CFG.VBUS_TH [15:0]. -/
abbrev PWC_DROOP_CFG_VBUS_TH : Fld := ⟨0x200040, 0x0, 0, 16⟩
/-- PWC_DROOP_TIME.HOLD [31:16]. -/
abbrev PWC_DROOP_TIME_HOLD : Fld := ⟨0x200044, 0x0, 16, 16⟩
/-- PWC_DROOP_TIME.CLEAR [15:0]. -/
abbrev PWC_DROOP_TIME_CLEAR : Fld := ⟨0x200044, 0x0, 0, 16⟩
/-- PWC_DVFS_CFG.ACK_TIMEOUT [31:24]. -/
abbrev PWC_DVFS_CFG_ACK_TIMEOUT : Fld := ⟨0x200048, 0x0, 24, 8⟩
/-- PWC_DVFS_CFG.RETRIES [23:16]. -/
abbrev PWC_DVFS_CFG_RETRIES : Fld := ⟨0x200048, 0x0, 16, 8⟩
/-- PWC_DVFS_CFG.SETTLE [15:0]. -/
abbrev PWC_DVFS_CFG_SETTLE : Fld := ⟨0x200048, 0x0, 0, 16⟩
/-- PWC_ARB_CFG.CAP_FORCE [31:16]. -/
abbrev PWC_ARB_CFG_CAP_FORCE : Fld := ⟨0x20004c, 0x0, 16, 16⟩
/-- PWC_ARB_CFG.SETTLE_MARGIN [15:0]. -/
abbrev PWC_ARB_CFG_SETTLE_MARGIN : Fld := ⟨0x20004c, 0x0, 0, 16⟩
/-- PWC_CHECK_EN.VRALERT [31:16]. -/
abbrev PWC_CHECK_EN_VRALERT : Fld := ⟨0x200060, 0x0, 16, 16⟩
/-- PWC_CHECK_EN.OC [15:8]. -/
abbrev PWC_CHECK_EN_OC : Fld := ⟨0x200060, 0x0, 8, 8⟩
/-- PWC_CHECK_EN.THERMTRIP [7:0]. -/
abbrev PWC_CHECK_EN_THERMTRIP : Fld := ⟨0x200060, 0x0, 0, 8⟩
/-- PWC_CHECK_CFG.AUTO_HOLD [31:16]. -/
abbrev PWC_CHECK_CFG_AUTO_HOLD : Fld := ⟨0x200064, 0x0, 16, 16⟩
/-- PWC_CHECK_CFG.AUTO_OC [13:13]. -/
abbrev PWC_CHECK_CFG_AUTO_OC : Fld := ⟨0x200064, 0x0, 13, 1⟩
/-- PWC_CHECK_CFG.AUTO_VRALERT [12:12]. -/
abbrev PWC_CHECK_CFG_AUTO_VRALERT : Fld := ⟨0x200064, 0x0, 12, 1⟩
/-- PWC_CHECK_CFG.FILT_VRALERT [11:8]. -/
abbrev PWC_CHECK_CFG_FILT_VRALERT : Fld := ⟨0x200064, 0x0, 8, 4⟩
/-- PWC_CHECK_CFG.FILT_OC [7:4]. -/
abbrev PWC_CHECK_CFG_FILT_OC : Fld := ⟨0x200064, 0x0, 4, 4⟩
/-- PWC_CHECK_CFG.FILT_THERMTRIP [3:0]. -/
abbrev PWC_CHECK_CFG_FILT_THERMTRIP : Fld := ⟨0x200064, 0x0, 0, 4⟩
/-- PWC_CHECK_LATCH.VRALERT [31:16]. -/
abbrev PWC_CHECK_LATCH_VRALERT : Fld := ⟨0x200068, 0x0, 16, 16⟩
/-- PWC_CHECK_LATCH.OC [15:8]. -/
abbrev PWC_CHECK_LATCH_OC : Fld := ⟨0x200068, 0x0, 8, 8⟩
/-- PWC_CHECK_LATCH.THERMTRIP [7:0]. -/
abbrev PWC_CHECK_LATCH_THERMTRIP : Fld := ⟨0x200068, 0x0, 0, 8⟩
/-- PWC_CHECK_FORCE.FORCE [7:0]. -/
abbrev PWC_CHECK_FORCE_FORCE : Fld := ⟨0x20006c, 0x0, 0, 8⟩
/-- PWC_VRALERT_MAP.MAP_3 [31:24]. -/
abbrev PWC_VRALERT_MAP_MAP_3 : Fld := ⟨0x200070, 0x4, 24, 8⟩
/-- PWC_VRALERT_MAP.MAP_2 [23:16]. -/
abbrev PWC_VRALERT_MAP_MAP_2 : Fld := ⟨0x200070, 0x4, 16, 8⟩
/-- PWC_VRALERT_MAP.MAP_1 [15:8]. -/
abbrev PWC_VRALERT_MAP_MAP_1 : Fld := ⟨0x200070, 0x4, 8, 8⟩
/-- PWC_VRALERT_MAP.MAP_0 [7:0]. -/
abbrev PWC_VRALERT_MAP_MAP_0 : Fld := ⟨0x200070, 0x4, 0, 8⟩
/-- PWC_MATE_STATUS.ACTIVE [8:8]. -/
abbrev PWC_MATE_STATUS_ACTIVE : Fld := ⟨0x200080, 0x0, 8, 1⟩
/-- PWC_MATE_STATUS.CAUSE [3:0]. -/
abbrev PWC_MATE_STATUS_CAUSE : Fld := ⟨0x200080, 0x0, 0, 4⟩
/-- PWC_MATE_CFG.DELAY [31:16]. -/
abbrev PWC_MATE_CFG_DELAY : Fld := ⟨0x200084, 0x0, 16, 16⟩
/-- PWC_MATE_CFG.FILT [15:0]. -/
abbrev PWC_MATE_CFG_FILT : Fld := ⟨0x200084, 0x0, 0, 16⟩
/-- PWC_MATE_CLEAR.KEY [31:16]. -/
abbrev PWC_MATE_CLEAR_KEY : Fld := ⟨0x200088, 0x0, 16, 16⟩
/-- PWC_MATE_CLEAR.CLEAR [0:0]. -/
abbrev PWC_MATE_CLEAR_CLEAR : Fld := ⟨0x200088, 0x0, 0, 1⟩
/-- PWC_CLK_SEL.CTX [11:0]. -/
abbrev PWC_CLK_SEL_CTX : Fld := ⟨0x200100, 0x0, 0, 12⟩
/-- PWC_CLK_STATE.STATE [31:30]. -/
abbrev PWC_CLK_STATE_STATE : Fld := ⟨0x200104, 0x0, 30, 2⟩
/-- PWC_CLK_STATE.ACC_MASK [7:0]. -/
abbrev PWC_CLK_STATE_ACC_MASK : Fld := ⟨0x200104, 0x0, 0, 8⟩
/-- PWC_CLK_WORK_LO.WORK_LO [31:0]. -/
abbrev PWC_CLK_WORK_LO : Fld := ⟨0x200108, 0x0, 0, 32⟩
/-- PWC_CLK_WORK_HI.WORK_HI [31:0]. -/
abbrev PWC_CLK_WORK_HI : Fld := ⟨0x20010c, 0x0, 0, 32⟩
/-- PWC_CLK_FILLER_LO.FILLER_LO [31:0]. -/
abbrev PWC_CLK_FILLER_LO : Fld := ⟨0x200110, 0x0, 0, 32⟩
/-- PWC_CLK_FILLER_HI.FILLER_HI [31:0]. -/
abbrev PWC_CLK_FILLER_HI : Fld := ⟨0x200114, 0x0, 0, 32⟩
/-- PWC_CLK_OVERHEAD_LO.OVERHEAD_LO [31:0]. -/
abbrev PWC_CLK_OVERHEAD_LO : Fld := ⟨0x200118, 0x0, 0, 32⟩
/-- PWC_CLK_OVERHEAD_HI.OVERHEAD_HI [31:0]. -/
abbrev PWC_CLK_OVERHEAD_HI : Fld := ⟨0x20011c, 0x0, 0, 32⟩
/-- PWC_CLK_TOKENS_LO.TOKENS_LO [31:0]. -/
abbrev PWC_CLK_TOKENS_LO : Fld := ⟨0x200120, 0x0, 0, 32⟩
/-- PWC_CLK_TOKENS_HI.TOKENS_HI [31:0]. -/
abbrev PWC_CLK_TOKENS_HI : Fld := ⟨0x200124, 0x0, 0, 32⟩
/-- PWC_CLK_UNBOUND_LO.UNBOUND_LO [31:0]. -/
abbrev PWC_CLK_UNBOUND_LO : Fld := ⟨0x200128, 0x0, 0, 32⟩
/-- PWC_CLK_UNBOUND_HI.UNBOUND_HI [31:0]. -/
abbrev PWC_CLK_UNBOUND_HI : Fld := ⟨0x20012c, 0x0, 0, 32⟩
/-- PWC_ACC_BUDGET.STAGED_W [31:16]. -/
abbrev PWC_ACC_BUDGET_STAGED_W : Fld := ⟨0x201000, 0x200, 16, 16⟩
/-- PWC_ACC_BUDGET.ACTIVE_W [15:0]. -/
abbrev PWC_ACC_BUDGET_ACTIVE_W : Fld := ⟨0x201000, 0x200, 0, 16⟩
/-- PWC_ACC_PSTATE.IN_FLIGHT [31:31]. -/
abbrev PWC_ACC_PSTATE_IN_FLIGHT : Fld := ⟨0x201004, 0x200, 31, 1⟩
/-- PWC_ACC_PSTATE.DROOP [30:30]. -/
abbrev PWC_ACC_PSTATE_DROOP : Fld := ⟨0x201004, 0x200, 30, 1⟩
/-- PWC_ACC_PSTATE.CHECK [29:29]. -/
abbrev PWC_ACC_PSTATE_CHECK : Fld := ⟨0x201004, 0x200, 29, 1⟩
/-- PWC_ACC_PSTATE.PENDING [28:24]. -/
abbrev PWC_ACC_PSTATE_PENDING : Fld := ⟨0x201004, 0x200, 24, 5⟩
/-- PWC_ACC_PSTATE.GB_LEVEL [23:22]. -/
abbrev PWC_ACC_PSTATE_GB_LEVEL : Fld := ⟨0x201004, 0x200, 22, 2⟩
/-- PWC_ACC_PSTATE.DVFS_FAULT [21:21]. -/
abbrev PWC_ACC_PSTATE_DVFS_FAULT : Fld := ⟨0x201004, 0x200, 21, 1⟩
/-- PWC_ACC_PSTATE.CEILING [20:16]. -/
abbrev PWC_ACC_PSTATE_CEILING : Fld := ⟨0x201004, 0x200, 16, 5⟩
/-- PWC_ACC_PSTATE.TARGET [12:8]. -/
abbrev PWC_ACC_PSTATE_TARGET : Fld := ⟨0x201004, 0x200, 8, 5⟩
/-- PWC_ACC_PSTATE.CURRENT [4:0]. -/
abbrev PWC_ACC_PSTATE_CURRENT : Fld := ⟨0x201004, 0x200, 0, 5⟩
/-- PWC_ACC_FILLER.STANDING [21:21]. -/
abbrev PWC_ACC_FILLER_STANDING : Fld := ⟨0x201008, 0x200, 21, 1⟩
/-- PWC_ACC_FILLER.INTENSITY [20:16]. -/
abbrev PWC_ACC_FILLER_INTENSITY : Fld := ⟨0x201008, 0x200, 16, 5⟩
/-- PWC_ACC_POWER.WIN_W [31:16]. -/
abbrev PWC_ACC_POWER_WIN_W : Fld := ⟨0x20100c, 0x200, 16, 16⟩
/-- PWC_ACC_POWER.I_10MA [15:0]. -/
abbrev PWC_ACC_POWER_I_10MA : Fld := ⟨0x20100c, 0x200, 0, 16⟩
/-- PWC_ACC_CFG.OC_TH [31:16]. -/
abbrev PWC_ACC_CFG_OC_TH : Fld := ⟨0x201010, 0x200, 16, 16⟩
/-- PWC_ACC_CFG.MONO_FAIL [1:1]. -/
abbrev PWC_ACC_CFG_MONO_FAIL : Fld := ⟨0x201010, 0x200, 1, 1⟩
/-- PWC_ACC_CFG.PTAB_VALID [0:0]. -/
abbrev PWC_ACC_CFG_PTAB_VALID : Fld := ⟨0x201010, 0x200, 0, 1⟩
/-- PWC_ACC_SB.VALID [31:31]. -/
abbrev PWC_ACC_SB_VALID : Fld := ⟨0x201014, 0x200, 31, 1⟩
/-- PWC_ACC_SB.PEC [30:30]. -/
abbrev PWC_ACC_SB_PEC : Fld := ⟨0x201014, 0x200, 30, 1⟩
/-- PWC_ACC_SB.FMT [29:28]. -/
abbrev PWC_ACC_SB_FMT : Fld := ⟨0x201014, 0x200, 28, 2⟩
/-- PWC_ACC_SB.SEG [27:24]. -/
abbrev PWC_ACC_SB_SEG : Fld := ⟨0x201014, 0x200, 24, 4⟩
/-- PWC_ACC_SB.ADDR [22:16]. -/
abbrev PWC_ACC_SB_ADDR : Fld := ⟨0x201014, 0x200, 16, 7⟩
/-- PWC_ACC_SB.CMD [15:8]. -/
abbrev PWC_ACC_SB_CMD : Fld := ⟨0x201014, 0x200, 8, 8⟩
/-- PWC_PTAB0_0.FREQ [31:16]. -/
abbrev PWC_PTAB0_0_FREQ : Fld := ⟨0x201100, 0x8, 16, 16⟩
/-- PWC_PTAB0_0.VOLT [15:0]. -/
abbrev PWC_PTAB0_0_VOLT : Fld := ⟨0x201100, 0x8, 0, 16⟩
/-- PWC_PTAB1_0.POWER [31:16]. -/
abbrev PWC_PTAB1_0_POWER : Fld := ⟨0x201104, 0x8, 16, 16⟩
/-- PWC_PTAB1_0.FREF [15:0]. -/
abbrev PWC_PTAB1_0_FREF : Fld := ⟨0x201104, 0x8, 0, 16⟩
/-- PWC_PTAB0_1.FREQ [31:16]. -/
abbrev PWC_PTAB0_1_FREQ : Fld := ⟨0x201300, 0x8, 16, 16⟩
/-- PWC_PTAB0_1.VOLT [15:0]. -/
abbrev PWC_PTAB0_1_VOLT : Fld := ⟨0x201300, 0x8, 0, 16⟩
/-- PWC_PTAB1_1.POWER [31:16]. -/
abbrev PWC_PTAB1_1_POWER : Fld := ⟨0x201304, 0x8, 16, 16⟩
/-- PWC_PTAB1_1.FREF [15:0]. -/
abbrev PWC_PTAB1_1_FREF : Fld := ⟨0x201304, 0x8, 0, 16⟩
/-- PWC_PTAB0_2.FREQ [31:16]. -/
abbrev PWC_PTAB0_2_FREQ : Fld := ⟨0x201500, 0x8, 16, 16⟩
/-- PWC_PTAB0_2.VOLT [15:0]. -/
abbrev PWC_PTAB0_2_VOLT : Fld := ⟨0x201500, 0x8, 0, 16⟩
/-- PWC_PTAB1_2.POWER [31:16]. -/
abbrev PWC_PTAB1_2_POWER : Fld := ⟨0x201504, 0x8, 16, 16⟩
/-- PWC_PTAB1_2.FREF [15:0]. -/
abbrev PWC_PTAB1_2_FREF : Fld := ⟨0x201504, 0x8, 0, 16⟩
/-- PWC_PTAB0_3.FREQ [31:16]. -/
abbrev PWC_PTAB0_3_FREQ : Fld := ⟨0x201700, 0x8, 16, 16⟩
/-- PWC_PTAB0_3.VOLT [15:0]. -/
abbrev PWC_PTAB0_3_VOLT : Fld := ⟨0x201700, 0x8, 0, 16⟩
/-- PWC_PTAB1_3.POWER [31:16]. -/
abbrev PWC_PTAB1_3_POWER : Fld := ⟨0x201704, 0x8, 16, 16⟩
/-- PWC_PTAB1_3.FREF [15:0]. -/
abbrev PWC_PTAB1_3_FREF : Fld := ⟨0x201704, 0x8, 0, 16⟩
/-- PWC_PTAB0_4.FREQ [31:16]. -/
abbrev PWC_PTAB0_4_FREQ : Fld := ⟨0x201900, 0x8, 16, 16⟩
/-- PWC_PTAB0_4.VOLT [15:0]. -/
abbrev PWC_PTAB0_4_VOLT : Fld := ⟨0x201900, 0x8, 0, 16⟩
/-- PWC_PTAB1_4.POWER [31:16]. -/
abbrev PWC_PTAB1_4_POWER : Fld := ⟨0x201904, 0x8, 16, 16⟩
/-- PWC_PTAB1_4.FREF [15:0]. -/
abbrev PWC_PTAB1_4_FREF : Fld := ⟨0x201904, 0x8, 0, 16⟩
/-- PWC_PTAB0_5.FREQ [31:16]. -/
abbrev PWC_PTAB0_5_FREQ : Fld := ⟨0x201b00, 0x8, 16, 16⟩
/-- PWC_PTAB0_5.VOLT [15:0]. -/
abbrev PWC_PTAB0_5_VOLT : Fld := ⟨0x201b00, 0x8, 0, 16⟩
/-- PWC_PTAB1_5.POWER [31:16]. -/
abbrev PWC_PTAB1_5_POWER : Fld := ⟨0x201b04, 0x8, 16, 16⟩
/-- PWC_PTAB1_5.FREF [15:0]. -/
abbrev PWC_PTAB1_5_FREF : Fld := ⟨0x201b04, 0x8, 0, 16⟩
/-- PWC_PTAB0_6.FREQ [31:16]. -/
abbrev PWC_PTAB0_6_FREQ : Fld := ⟨0x201d00, 0x8, 16, 16⟩
/-- PWC_PTAB0_6.VOLT [15:0]. -/
abbrev PWC_PTAB0_6_VOLT : Fld := ⟨0x201d00, 0x8, 0, 16⟩
/-- PWC_PTAB1_6.POWER [31:16]. -/
abbrev PWC_PTAB1_6_POWER : Fld := ⟨0x201d04, 0x8, 16, 16⟩
/-- PWC_PTAB1_6.FREF [15:0]. -/
abbrev PWC_PTAB1_6_FREF : Fld := ⟨0x201d04, 0x8, 0, 16⟩
/-- PWC_PTAB0_7.FREQ [31:16]. -/
abbrev PWC_PTAB0_7_FREQ : Fld := ⟨0x201f00, 0x8, 16, 16⟩
/-- PWC_PTAB0_7.VOLT [15:0]. -/
abbrev PWC_PTAB0_7_VOLT : Fld := ⟨0x201f00, 0x8, 0, 16⟩
/-- PWC_PTAB1_7.POWER [31:16]. -/
abbrev PWC_PTAB1_7_POWER : Fld := ⟨0x201f04, 0x8, 16, 16⟩
/-- PWC_PTAB1_7.FREF [15:0]. -/
abbrev PWC_PTAB1_7_FREF : Fld := ⟨0x201f04, 0x8, 0, 16⟩
/-- ARB_GRP_CFG.POLICY [1:1]. -/
abbrev ARB_GRP_CFG_POLICY : Fld := ⟨0x220000, 0x10, 1, 1⟩
/-- ARB_GRP_CFG.PACE [0:0]. -/
abbrev ARB_GRP_CFG_PACE : Fld := ⟨0x220000, 0x10, 0, 1⟩
/-- ARB_GRP_STATE.STAGED [31:31]. -/
abbrev ARB_GRP_STATE_STAGED : Fld := ⟨0x220004, 0x10, 31, 1⟩
/-- ARB_GRP_STATE.STAGE_AGE [30:16]. -/
abbrev ARB_GRP_STATE_STAGE_AGE : Fld := ⟨0x220004, 0x10, 16, 15⟩
/-- ARB_GRP_STATE.EARLY [15:8]. -/
abbrev ARB_GRP_STATE_EARLY : Fld := ⟨0x220004, 0x10, 8, 8⟩
/-- ARB_GRP_STATE.FORCED [7:0]. -/
abbrev ARB_GRP_STATE_FORCED : Fld := ⟨0x220004, 0x10, 0, 8⟩
/-- ORO_CTRL.ROLLBACK [2:2]. -/
abbrev ORO_CTRL_ROLLBACK : Fld := ⟨0x230000, 0x0, 2, 1⟩
/-- ORO_CTRL.PROMOTE_HOLD [1:1]. -/
abbrev ORO_CTRL_PROMOTE_HOLD : Fld := ⟨0x230000, 0x0, 1, 1⟩
/-- ORO_CTRL.TLM_EN [0:0]. -/
abbrev ORO_CTRL_TLM_EN : Fld := ⟨0x230000, 0x0, 0, 1⟩
/-- ORO_STATUS.STATE [31:28]. -/
abbrev ORO_STATUS_STATE : Fld := ⟨0x230004, 0x0, 28, 4⟩
/-- ORO_STATUS.ACTIVE_SLOT [27:23]. -/
abbrev ORO_STATUS_ACTIVE_SLOT : Fld := ⟨0x230004, 0x0, 23, 5⟩
/-- ORO_STATUS.ACTIVE_VALID [22:22]. -/
abbrev ORO_STATUS_ACTIVE_VALID : Fld := ⟨0x230004, 0x0, 22, 1⟩
/-- ORO_STATUS.SHADOW_SLOT [21:17]. -/
abbrev ORO_STATUS_SHADOW_SLOT : Fld := ⟨0x230004, 0x0, 17, 5⟩
/-- ORO_STATUS.SHADOW_VALID [16:16]. -/
abbrev ORO_STATUS_SHADOW_VALID : Fld := ⟨0x230004, 0x0, 16, 1⟩
/-- ORO_STATUS.RETAINED_SLOT [15:11]. -/
abbrev ORO_STATUS_RETAINED_SLOT : Fld := ⟨0x230004, 0x0, 11, 5⟩
/-- ORO_STATUS.RETAINED_VALID [10:10]. -/
abbrev ORO_STATUS_RETAINED_VALID : Fld := ⟨0x230004, 0x0, 10, 1⟩
/-- ORO_STATUS.TRAIN_SLOT [9:5]. -/
abbrev ORO_STATUS_TRAIN_SLOT : Fld := ⟨0x230004, 0x0, 5, 5⟩
/-- ORO_STATUS.TRAIN_VALID [4:4]. -/
abbrev ORO_STATUS_TRAIN_VALID : Fld := ⟨0x230004, 0x0, 4, 1⟩
/-- ORO_STATUS.ROLLED_BACK [3:3]. -/
abbrev ORO_STATUS_ROLLED_BACK : Fld := ⟨0x230004, 0x0, 3, 1⟩
/-- ORO_STATUS.GATE_ERR_MET [2:2]. -/
abbrev ORO_STATUS_GATE_ERR_MET : Fld := ⟨0x230004, 0x0, 2, 1⟩
/-- ORO_STATUS.GATE_CLEAN_MET [1:1]. -/
abbrev ORO_STATUS_GATE_CLEAN_MET : Fld := ⟨0x230004, 0x0, 1, 1⟩
/-- ORO_STATUS.DEFER [0:0]. -/
abbrev ORO_STATUS_DEFER : Fld := ⟨0x230004, 0x0, 0, 1⟩
/-- ORO_FRAME_CFG.TLM_WINDOW [31:24]. -/
abbrev ORO_FRAME_CFG_TLM_WINDOW : Fld := ⟨0x230008, 0x0, 24, 8⟩
/-- ORO_FRAME_CFG.TRIG_OFFSET [23:16]. -/
abbrev ORO_FRAME_CFG_TRIG_OFFSET : Fld := ⟨0x230008, 0x0, 16, 8⟩
/-- ORO_FRAME_CFG.HOLDOUT_DIV [15:8]. -/
abbrev ORO_FRAME_CFG_HOLDOUT_DIV : Fld := ⟨0x230008, 0x0, 8, 8⟩
/-- ORO_FRAME_CFG.SAMPLE_MS [7:0]. -/
abbrev ORO_FRAME_CFG_SAMPLE_MS : Fld := ⟨0x230008, 0x0, 0, 8⟩
/-- ORO_GATE_CFG.GAIN_PCT [31:24]. -/
abbrev ORO_GATE_CFG_GAIN_PCT : Fld := ⟨0x23000c, 0x0, 24, 8⟩
/-- ORO_GATE_CFG.EVAL_SEG [23:16]. -/
abbrev ORO_GATE_CFG_EVAL_SEG : Fld := ⟨0x23000c, 0x0, 16, 8⟩
/-- ORO_GATE_CFG.CLEAN_S [15:0]. -/
abbrev ORO_GATE_CFG_CLEAN_S : Fld := ⟨0x23000c, 0x0, 0, 16⟩
/-- ORO_SOLVE_CFG.INVALID_LIMIT [31:24]. -/
abbrev ORO_SOLVE_CFG_INVALID_LIMIT : Fld := ⟨0x230010, 0x0, 24, 8⟩
/-- ORO_SOLVE_CFG.DEADBAND_W [23:16]. -/
abbrev ORO_SOLVE_CFG_DEADBAND_W : Fld := ⟨0x230010, 0x0, 16, 8⟩
/-- ORO_SOLVE_CFG.ROLLBACK_S [15:0]. -/
abbrev ORO_SOLVE_CFG_ROLLBACK_S : Fld := ⟨0x230010, 0x0, 0, 16⟩
/-- ORO_CLEAN.SHADOW_CLEAN_S [31:16]. -/
abbrev ORO_CLEAN_SHADOW_CLEAN_S : Fld := ⟨0x230014, 0x0, 16, 16⟩
/-- ORO_CLEAN.HELDOUT_SEG [15:0]. -/
abbrev ORO_CLEAN_HELDOUT_SEG : Fld := ⟨0x230014, 0x0, 0, 16⟩
/-- ORO_ERR_ACTIVE.SUM [31:0]. -/
abbrev ORO_ERR_ACTIVE_SUM : Fld := ⟨0x230018, 0x0, 0, 32⟩
/-- ORO_ERR_SHADOW.SUM [31:0]. -/
abbrev ORO_ERR_SHADOW_SUM : Fld := ⟨0x23001c, 0x0, 0, 32⟩
/-- ORO_ERR_BASE.SUM [31:0]. -/
abbrev ORO_ERR_BASE_SUM : Fld := ⟨0x230020, 0x0, 0, 32⟩
/-- ORO_COUNTS.PROMOTIONS [31:24]. -/
abbrev ORO_COUNTS_PROMOTIONS : Fld := ⟨0x230024, 0x0, 24, 8⟩
/-- ORO_COUNTS.ROLLBACKS [23:16]. -/
abbrev ORO_COUNTS_ROLLBACKS : Fld := ⟨0x230024, 0x0, 16, 8⟩
/-- ORO_COUNTS.SHADOW_VIOL [15:8]. -/
abbrev ORO_COUNTS_SHADOW_VIOL : Fld := ⟨0x230024, 0x0, 8, 8⟩
/-- ORO_COUNTS.ACTIVE_INVALID [7:0]. -/
abbrev ORO_COUNTS_ACTIVE_INVALID : Fld := ⟨0x230024, 0x0, 0, 8⟩
/-- ORO_TLM_MISS.COUNT [31:0]. -/
abbrev ORO_TLM_MISS_COUNT : Fld := ⟨0x230028, 0x0, 0, 32⟩
/-- SEQ_CTRL.COMMIT [1:1]. -/
abbrev SEQ_CTRL_COMMIT : Fld := ⟨0x300000, 0x0, 1, 1⟩
/-- SEQ_CTRL.GRAPH_VALID [0:0]. -/
abbrev SEQ_CTRL_GRAPH_VALID : Fld := ⟨0x300000, 0x0, 0, 1⟩
/-- SEQ_STATUS.PHASE [31:28]. -/
abbrev SEQ_STATUS_PHASE : Fld := ⟨0x300004, 0x0, 28, 4⟩
/-- SEQ_STATUS.MATE_HOLD [27:27]. -/
abbrev SEQ_STATUS_MATE_HOLD : Fld := ⟨0x300004, 0x0, 27, 1⟩
/-- SEQ_STATUS.UV_HOLD [26:26]. -/
abbrev SEQ_STATUS_UV_HOLD : Fld := ⟨0x300004, 0x0, 26, 1⟩
/-- SEQ_STATUS.RAILS_FAILED [22:16]. -/
abbrev SEQ_STATUS_RAILS_FAILED : Fld := ⟨0x300004, 0x0, 16, 7⟩
/-- SEQ_STATUS.RAILS_ON [6:0]. -/
abbrev SEQ_STATUS_RAILS_ON : Fld := ⟨0x300004, 0x0, 0, 7⟩
/-- SEQ_ERR.BUS_OV [9:9]. -/
abbrev SEQ_ERR_BUS_OV : Fld := ⟨0x300008, 0x0, 9, 1⟩
/-- SEQ_ERR.BUS_UV [8:8]. -/
abbrev SEQ_ERR_BUS_UV : Fld := ⟨0x300008, 0x0, 8, 1⟩
/-- SEQ_ERR.HSW_FAULT [7:7]. -/
abbrev SEQ_ERR_HSW_FAULT : Fld := ⟨0x300008, 0x0, 7, 1⟩
/-- SEQ_ERR.GRAPH_REJECT [6:6]. -/
abbrev SEQ_ERR_GRAPH_REJECT : Fld := ⟨0x300008, 0x0, 6, 1⟩
/-- SEQ_ERR.FALL_TIMEOUT [5:5]. -/
abbrev SEQ_ERR_FALL_TIMEOUT : Fld := ⟨0x300008, 0x0, 5, 1⟩
/-- SEQ_ERR.OV [4:4]. -/
abbrev SEQ_ERR_OV : Fld := ⟨0x300008, 0x0, 4, 1⟩
/-- SEQ_ERR.PG_LOST [3:3]. -/
abbrev SEQ_ERR_PG_LOST : Fld := ⟨0x300008, 0x0, 3, 1⟩
/-- SEQ_ERR.CHATTER [2:2]. -/
abbrev SEQ_ERR_CHATTER : Fld := ⟨0x300008, 0x0, 2, 1⟩
/-- SEQ_ERR.QUAL_TIMEOUT [1:1]. -/
abbrev SEQ_ERR_QUAL_TIMEOUT : Fld := ⟨0x300008, 0x0, 1, 1⟩
/-- SEQ_ERR.RAMP_TIMEOUT [0:0]. -/
abbrev SEQ_ERR_RAMP_TIMEOUT : Fld := ⟨0x300008, 0x0, 0, 1⟩
/-- SEQ_LAST_FAIL.CAUSE [31:28]. -/
abbrev SEQ_LAST_FAIL_CAUSE : Fld := ⟨0x30000c, 0x0, 28, 4⟩
/-- SEQ_LAST_FAIL.DOMAIN [27:24]. -/
abbrev SEQ_LAST_FAIL_DOMAIN : Fld := ⟨0x30000c, 0x0, 24, 4⟩
/-- SEQ_LAST_FAIL.CHATTER [23:20]. -/
abbrev SEQ_LAST_FAIL_CHATTER : Fld := ⟨0x30000c, 0x0, 20, 4⟩
/-- SEQ_LAST_FAIL.STATE [19:16]. -/
abbrev SEQ_LAST_FAIL_STATE : Fld := ⟨0x30000c, 0x0, 16, 4⟩
/-- SEQ_LAST_FAIL.RAIL [6:0]. -/
abbrev SEQ_LAST_FAIL_RAIL : Fld := ⟨0x30000c, 0x0, 0, 7⟩
/-- SEQ_HSW_CFG.ILIM_RUN [31:24]. -/
abbrev SEQ_HSW_CFG_ILIM_RUN : Fld := ⟨0x300010, 0x0, 24, 8⟩
/-- SEQ_HSW_CFG.FAST_TRIP [23:16]. -/
abbrev SEQ_HSW_CFG_FAST_TRIP : Fld := ⟨0x300010, 0x0, 16, 8⟩
/-- SEQ_HSW_CFG.ILIM_START [15:8]. -/
abbrev SEQ_HSW_CFG_ILIM_START : Fld := ⟨0x300010, 0x0, 8, 8⟩
/-- SEQ_HSW_CFG.T_MAX [7:0]. -/
abbrev SEQ_HSW_CFG_T_MAX : Fld := ⟨0x300010, 0x0, 0, 8⟩
/-- SEQ_HSW_SOA.SOA_E [31:16]. -/
abbrev SEQ_HSW_SOA_SOA_E : Fld := ⟨0x300014, 0x0, 16, 16⟩
/-- SEQ_HSW_SOA.COOL [15:8]. -/
abbrev SEQ_HSW_SOA_COOL : Fld := ⟨0x300014, 0x0, 8, 8⟩
/-- SEQ_HSW_SOA.RETRY [7:4]. -/
abbrev SEQ_HSW_SOA_RETRY : Fld := ⟨0x300014, 0x0, 4, 4⟩
/-- SEQ_HSW_STATUS.STATE [31:28]. -/
abbrev SEQ_HSW_STATUS_STATE : Fld := ⟨0x300018, 0x0, 28, 4⟩
/-- SEQ_HSW_STATUS.ATTEMPTS [27:24]. -/
abbrev SEQ_HSW_STATUS_ATTEMPTS : Fld := ⟨0x300018, 0x0, 24, 4⟩
/-- SEQ_HSW_STATUS.E_PCT [23:16]. -/
abbrev SEQ_HSW_STATUS_E_PCT : Fld := ⟨0x300018, 0x0, 16, 8⟩
/-- SEQ_HSW_STATUS.LAST_CAUSE [3:0]. -/
abbrev SEQ_HSW_STATUS_LAST_CAUSE : Fld := ⟨0x300018, 0x0, 0, 4⟩
/-- SEQ_HSW_SHUNT.MICRO_OHM [15:0]. -/
abbrev SEQ_HSW_SHUNT_MICRO_OHM : Fld := ⟨0x30001c, 0x0, 0, 16⟩
/-- SEQ_BUS_CFG.OV [31:24]. -/
abbrev SEQ_BUS_CFG_OV : Fld := ⟨0x300020, 0x0, 24, 8⟩
/-- SEQ_BUS_CFG.START [23:16]. -/
abbrev SEQ_BUS_CFG_START : Fld := ⟨0x300020, 0x0, 16, 8⟩
/-- SEQ_BUS_CFG.UV_WARN [15:8]. -/
abbrev SEQ_BUS_CFG_UV_WARN : Fld := ⟨0x300020, 0x0, 8, 8⟩
/-- SEQ_BUS_CFG.UV_FAULT [7:0]. -/
abbrev SEQ_BUS_CFG_UV_FAULT : Fld := ⟨0x300020, 0x0, 0, 8⟩
/-- SEQ_BUS_STATUS.VBUS [31:16]. -/
abbrev SEQ_BUS_STATUS_VBUS : Fld := ⟨0x300024, 0x0, 16, 16⟩
/-- SEQ_BUS_STATUS.OV [3:3]. -/
abbrev SEQ_BUS_STATUS_OV : Fld := ⟨0x300024, 0x0, 3, 1⟩
/-- SEQ_BUS_STATUS.UV_FAULT [2:2]. -/
abbrev SEQ_BUS_STATUS_UV_FAULT : Fld := ⟨0x300024, 0x0, 2, 1⟩
/-- SEQ_BUS_STATUS.UV_WARN [1:1]. -/
abbrev SEQ_BUS_STATUS_UV_WARN : Fld := ⟨0x300024, 0x0, 1, 1⟩
/-- SEQ_BUS_STATUS.START_OK [0:0]. -/
abbrev SEQ_BUS_STATUS_START_OK : Fld := ⟨0x300024, 0x0, 0, 1⟩
/-- SEQ_DOM_REQ.REQ [15:0]. -/
abbrev SEQ_DOM_REQ_REQ : Fld := ⟨0x300030, 0x0, 0, 16⟩
/-- SEQ_DOM_STATE.STATE [31:0]. -/
abbrev SEQ_DOM_STATE_STATE : Fld := ⟨0x300034, 0x0, 0, 32⟩
/-- SEQ_DOM_FLAGS.HELD [31:16]. -/
abbrev SEQ_DOM_FLAGS_HELD : Fld := ⟨0x300038, 0x0, 16, 16⟩
/-- SEQ_DOM_FLAGS.DEGRADED [15:0]. -/
abbrev SEQ_DOM_FLAGS_DEGRADED : Fld := ⟨0x300038, 0x0, 0, 16⟩
/-- SEQ_DOM_CFG.MATE [7:7]. -/
abbrev SEQ_DOM_CFG_MATE : Fld := ⟨0x300040, 0x4, 7, 1⟩
/-- SEQ_DOM_CFG.AUTO_RESTORE [6:6]. -/
abbrev SEQ_DOM_CFG_AUTO_RESTORE : Fld := ⟨0x300040, 0x4, 6, 1⟩
/-- SEQ_DOM_CFG.BOOT_ON [5:5]. -/
abbrev SEQ_DOM_CFG_BOOT_ON : Fld := ⟨0x300040, 0x4, 5, 1⟩
/-- SEQ_DOM_CFG.ACC_VALID [4:4]. -/
abbrev SEQ_DOM_CFG_ACC_VALID : Fld := ⟨0x300040, 0x4, 4, 1⟩
/-- SEQ_DOM_CFG.ACC [2:0]. -/
abbrev SEQ_DOM_CFG_ACC : Fld := ⟨0x300040, 0x4, 0, 3⟩
/-- SEQ_FAILED.RAILS [31:0]. -/
abbrev SEQ_FAILED_RAILS : Fld := ⟨0x300080, 0x4, 0, 32⟩
/-- SEQ_ON.RAILS [31:0]. -/
abbrev SEQ_ON_RAILS : Fld := ⟨0x300090, 0x4, 0, 32⟩
/-- SEQ_RST_CFG.USED [31:31]. -/
abbrev SEQ_RST_CFG_USED : Fld := ⟨0x300100, 0x4, 31, 1⟩
/-- SEQ_RST_CFG.GATE [30:24]. -/
abbrev SEQ_RST_CFG_GATE : Fld := ⟨0x300100, 0x4, 24, 7⟩
/-- SEQ_RST_CFG.STRETCH [23:14]. -/
abbrev SEQ_RST_CFG_STRETCH : Fld := ⟨0x300100, 0x4, 14, 10⟩
/-- SEQ_RST_CFG.LEAD [7:0]. -/
abbrev SEQ_RST_CFG_LEAD : Fld := ⟨0x300100, 0x4, 0, 8⟩
/-- SEQ_RST_HOLD.HOLD [15:0]. -/
abbrev SEQ_RST_HOLD_HOLD : Fld := ⟨0x300140, 0x0, 0, 16⟩
/-- SEQ_RST_STATUS.STRETCHING [31:16]. -/
abbrev SEQ_RST_STATUS_STRETCHING : Fld := ⟨0x300144, 0x0, 16, 16⟩
/-- SEQ_RST_STATUS.ASSERTED [15:0]. -/
abbrev SEQ_RST_STATUS_ASSERTED : Fld := ⟨0x300144, 0x0, 0, 16⟩
/-- SEQ_RAIL_PAR.P3 [31:24]. -/
abbrev SEQ_RAIL_PAR_P3 : Fld := ⟨0x301000, 0x20, 24, 8⟩
/-- SEQ_RAIL_PAR.P2 [23:16]. -/
abbrev SEQ_RAIL_PAR_P2 : Fld := ⟨0x301000, 0x20, 16, 8⟩
/-- SEQ_RAIL_PAR.P1 [15:8]. -/
abbrev SEQ_RAIL_PAR_P1 : Fld := ⟨0x301000, 0x20, 8, 8⟩
/-- SEQ_RAIL_PAR.P0 [7:0]. -/
abbrev SEQ_RAIL_PAR_P0 : Fld := ⟨0x301000, 0x20, 0, 8⟩
/-- SEQ_RAIL_TIME.T_RISE [31:24]. -/
abbrev SEQ_RAIL_TIME_T_RISE : Fld := ⟨0x301004, 0x20, 24, 8⟩
/-- SEQ_RAIL_TIME.T_FALL [23:16]. -/
abbrev SEQ_RAIL_TIME_T_FALL : Fld := ⟨0x301004, 0x20, 16, 8⟩
/-- SEQ_RAIL_TIME.DELAY_ON [15:8]. -/
abbrev SEQ_RAIL_TIME_DELAY_ON : Fld := ⟨0x301004, 0x20, 8, 8⟩
/-- SEQ_RAIL_TIME.DELAY_OFF [7:0]. -/
abbrev SEQ_RAIL_TIME_DELAY_OFF : Fld := ⟨0x301004, 0x20, 0, 8⟩
/-- SEQ_RAIL_PG.USED [31:31]. -/
abbrev SEQ_RAIL_PG_USED : Fld := ⟨0x301008, 0x20, 31, 1⟩
/-- SEQ_RAIL_PG.SRC [30:30]. -/
abbrev SEQ_RAIL_PG_SRC : Fld := ⟨0x301008, 0x20, 30, 1⟩
/-- SEQ_RAIL_PG.PG_POL [29:29]. -/
abbrev SEQ_RAIL_PG_PG_POL : Fld := ⟨0x301008, 0x20, 29, 1⟩
/-- SEQ_RAIL_PG.DOMAIN [27:24]. -/
abbrev SEQ_RAIL_PG_DOMAIN : Fld := ⟨0x301008, 0x20, 24, 4⟩
/-- SEQ_RAIL_PG.ADC_CH [23:17]. -/
abbrev SEQ_RAIL_PG_ADC_CH : Fld := ⟨0x301008, 0x20, 17, 7⟩
/-- SEQ_RAIL_PG.QUAL [16:8]. -/
abbrev SEQ_RAIL_PG_QUAL : Fld := ⟨0x301008, 0x20, 8, 9⟩
/-- SEQ_RAIL_PG.DEGLITCH [7:0]. -/
abbrev SEQ_RAIL_PG_DEGLITCH : Fld := ⟨0x301008, 0x20, 0, 8⟩
/-- SEQ_RAIL_THR.OV_MV [31:16]. -/
abbrev SEQ_RAIL_THR_OV_MV : Fld := ⟨0x30100c, 0x20, 16, 16⟩
/-- SEQ_RAIL_THR.UV_MV [15:0]. -/
abbrev SEQ_RAIL_THR_UV_MV : Fld := ⟨0x30100c, 0x20, 0, 16⟩
/-- SEQ_RAIL_STATUS.STATE [31:28]. -/
abbrev SEQ_RAIL_STATUS_STATE : Fld := ⟨0x301010, 0x20, 28, 4⟩
/-- SEQ_RAIL_STATUS.CAUSE [27:24]. -/
abbrev SEQ_RAIL_STATUS_CAUSE : Fld := ⟨0x301010, 0x20, 24, 4⟩
/-- SEQ_RAIL_STATUS.CHATTER [23:20]. -/
abbrev SEQ_RAIL_STATUS_CHATTER : Fld := ⟨0x301010, 0x20, 20, 4⟩
/-- SEQ_RAIL_STATUS.PG [1:1]. -/
abbrev SEQ_RAIL_STATUS_PG : Fld := ⟨0x301010, 0x20, 1, 1⟩
/-- SEQ_RAIL_STATUS.FAILED [0:0]. -/
abbrev SEQ_RAIL_STATUS_FAILED : Fld := ⟨0x301010, 0x20, 0, 1⟩
/-- COOL_CTRL.MODE_MAX [31:24]. -/
abbrev COOL_CTRL_MODE_MAX : Fld := ⟨0x400000, 0x0, 24, 8⟩
/-- COOL_CTRL.COMMIT [2:2]. -/
abbrev COOL_CTRL_COMMIT : Fld := ⟨0x400000, 0x0, 2, 1⟩
/-- COOL_CTRL.MODE [1:0]. -/
abbrev COOL_CTRL_MODE : Fld := ⟨0x400000, 0x0, 0, 2⟩
/-- COOL_STATUS.TABLE_VALID [31:31]. -/
abbrev COOL_STATUS_TABLE_VALID : Fld := ⟨0x400004, 0x0, 31, 1⟩
/-- COOL_STATUS.FULL_LATCH [30:30]. -/
abbrev COOL_STATUS_FULL_LATCH : Fld := ⟨0x400004, 0x0, 30, 1⟩
/-- COOL_STATUS.THERMAL [29:29]. -/
abbrev COOL_STATUS_THERMAL : Fld := ⟨0x400004, 0x0, 29, 1⟩
/-- COOL_STATUS.FANS_FAILED [28:24]. -/
abbrev COOL_STATUS_FANS_FAILED : Fld := ⟨0x400004, 0x0, 24, 5⟩
/-- COOL_STATUS.ZONE_OVR [23:16]. -/
abbrev COOL_STATUS_ZONE_OVR : Fld := ⟨0x400004, 0x0, 16, 8⟩
/-- COOL_STATUS.PUMPS_FAILED [15:12]. -/
abbrev COOL_STATUS_PUMPS_FAILED : Fld := ⟨0x400004, 0x0, 12, 4⟩
/-- COOL_STATUS.LOOP_FAULT [11:8]. -/
abbrev COOL_STATUS_LOOP_FAULT : Fld := ⟨0x400004, 0x0, 8, 4⟩
/-- COOL_ERR.TACH_LOST [13:13]. -/
abbrev COOL_ERR_TACH_LOST : Fld := ⟨0x400008, 0x0, 13, 1⟩
/-- COOL_ERR.TABLE_REJECT [12:12]. -/
abbrev COOL_ERR_TABLE_REJECT : Fld := ⟨0x400008, 0x0, 12, 1⟩
/-- COOL_ERR.COMMISSION_FAIL [11:11]. -/
abbrev COOL_ERR_COMMISSION_FAIL : Fld := ⟨0x400008, 0x0, 11, 1⟩
/-- COOL_ERR.AGE_WARN [10:10]. -/
abbrev COOL_ERR_AGE_WARN : Fld := ⟨0x400008, 0x0, 10, 1⟩
/-- COOL_ERR.RSV_TEST_FAIL [9:9]. -/
abbrev COOL_ERR_RSV_TEST_FAIL : Fld := ⟨0x400008, 0x0, 9, 1⟩
/-- COOL_ERR.RSV_EXHAUSTED [8:8]. -/
abbrev COOL_ERR_RSV_EXHAUSTED : Fld := ⟨0x400008, 0x0, 8, 1⟩
/-- COOL_ERR.TD_FAULT [7:7]. -/
abbrev COOL_ERR_TD_FAULT : Fld := ⟨0x400008, 0x0, 7, 1⟩
/-- COOL_ERR.LEAK_OPEN [6:6]. -/
abbrev COOL_ERR_LEAK_OPEN : Fld := ⟨0x400008, 0x0, 6, 1⟩
/-- COOL_ERR.LEAK [5:5]. -/
abbrev COOL_ERR_LEAK : Fld := ⟨0x400008, 0x0, 5, 1⟩
/-- COOL_ERR.PRESS_HIGH [4:4]. -/
abbrev COOL_ERR_PRESS_HIGH : Fld := ⟨0x400008, 0x0, 4, 1⟩
/-- COOL_ERR.FLOW_WARN [3:3]. -/
abbrev COOL_ERR_FLOW_WARN : Fld := ⟨0x400008, 0x0, 3, 1⟩
/-- COOL_ERR.FLOW_FAULT [2:2]. -/
abbrev COOL_ERR_FLOW_FAULT : Fld := ⟨0x400008, 0x0, 2, 1⟩
/-- COOL_ERR.PUMP_FAULT [1:1]. -/
abbrev COOL_ERR_PUMP_FAULT : Fld := ⟨0x400008, 0x0, 1, 1⟩
/-- COOL_ERR.FAN_FAULT [0:0]. -/
abbrev COOL_ERR_FAN_FAULT : Fld := ⟨0x400008, 0x0, 0, 1⟩
/-- COOL_TACH_CFG.PERIOD [31:24]. -/
abbrev COOL_TACH_CFG_PERIOD : Fld := ⟨0x40000c, 0x0, 24, 8⟩
/-- COOL_TACH_CFG.WIN [23:16]. -/
abbrev COOL_TACH_CFG_WIN : Fld := ⟨0x40000c, 0x0, 16, 8⟩
/-- COOL_TACH_CFG.SETTLE [15:8]. -/
abbrev COOL_TACH_CFG_SETTLE : Fld := ⟨0x40000c, 0x0, 8, 8⟩
/-- COOL_TACH_CFG.GAIN [7:0]. -/
abbrev COOL_TACH_CFG_GAIN : Fld := ⟨0x40000c, 0x0, 0, 8⟩
/-- COOL_FAN_FAULT.LOW_PCT [31:24]. -/
abbrev COOL_FAN_FAULT_LOW_PCT : Fld := ⟨0x400010, 0x0, 24, 8⟩
/-- COOL_FAN_FAULT.FAULT [23:16]. -/
abbrev COOL_FAN_FAULT_FAULT : Fld := ⟨0x400010, 0x0, 16, 8⟩
/-- COOL_FAN_FAULT.OPEN_PCT [15:8]. -/
abbrev COOL_FAN_FAULT_OPEN_PCT : Fld := ⟨0x400010, 0x0, 8, 8⟩
/-- COOL_FAN_FAULT.STALL_PCT [7:0]. -/
abbrev COOL_FAN_FAULT_STALL_PCT : Fld := ⟨0x400010, 0x0, 0, 8⟩
/-- COOL_KICK.KICK [31:24]. -/
abbrev COOL_KICK_KICK : Fld := ⟨0x400014, 0x0, 24, 8⟩
/-- COOL_KICK.GAP [23:16]. -/
abbrev COOL_KICK_GAP : Fld := ⟨0x400014, 0x0, 16, 8⟩
/-- COOL_RSV.TEST_H [31:24]. -/
abbrev COOL_RSV_TEST_H : Fld := ⟨0x400018, 0x0, 24, 8⟩
/-- COOL_RSV.TEST_S [23:16]. -/
abbrev COOL_RSV_TEST_S : Fld := ⟨0x400018, 0x0, 16, 8⟩
/-- COOL_RSV.AGE_WARN [15:0]. -/
abbrev COOL_RSV_AGE_WARN : Fld := ⟨0x400018, 0x0, 0, 16⟩
/-- COOL_RSV_COVER.COVER_17 [31:16]. -/
abbrev COOL_RSV_COVER_COVER_17 : Fld := ⟨0x40001c, 0x0, 16, 16⟩
/-- COOL_RSV_COVER.COVER_16 [15:0]. -/
abbrev COOL_RSV_COVER_COVER_16 : Fld := ⟨0x40001c, 0x0, 0, 16⟩
/-- COOL_FLOW_CFG.FWIN [31:24]. -/
abbrev COOL_FLOW_CFG_FWIN : Fld := ⟨0x400020, 0x0, 24, 8⟩
/-- COOL_FLOW_CFG.FLOW_N [23:20]. -/
abbrev COOL_FLOW_CFG_FLOW_N : Fld := ⟨0x400020, 0x0, 20, 4⟩
/-- COOL_FLOW_CFG.GRACE_S [19:12]. -/
abbrev COOL_FLOW_CFG_GRACE_S : Fld := ⟨0x400020, 0x0, 12, 8⟩
/-- COOL_FLOW_CFG.PUMP_FAULT [11:8]. -/
abbrev COOL_FLOW_CFG_PUMP_FAULT : Fld := ⟨0x400020, 0x0, 8, 4⟩
/-- FAN_CFG.USED [31:31]. -/
abbrev FAN_CFG_USED : Fld := ⟨0x401000, 0x20, 31, 1⟩
/-- FAN_CFG.STOP_OK [30:30]. -/
abbrev FAN_CFG_STOP_OK : Fld := ⟨0x401000, 0x20, 30, 1⟩
/-- FAN_CFG.ZONE [29:27]. -/
abbrev FAN_CFG_ZONE : Fld := ⟨0x401000, 0x20, 27, 3⟩
/-- FAN_CFG.PPR [26:25]. -/
abbrev FAN_CFG_PPR : Fld := ⟨0x401000, 0x20, 25, 2⟩
/-- FAN_CFG.SUPPLY [24:18]. -/
abbrev FAN_CFG_SUPPLY : Fld := ⟨0x401000, 0x20, 18, 7⟩
/-- FAN_CFG.FREQ_HZ [17:8]. -/
abbrev FAN_CFG_FREQ_HZ : Fld := ⟨0x401000, 0x20, 8, 10⟩
/-- FAN_CFG.MIN_DUTY [7:0]. -/
abbrev FAN_CFG_MIN_DUTY : Fld := ⟨0x401000, 0x20, 0, 8⟩
/-- FAN_TARGET.TARGET_RPM [15:0]. -/
abbrev FAN_TARGET_TARGET_RPM : Fld := ⟨0x401004, 0x20, 0, 16⟩
/-- FAN_LIMIT.MAX_RPM [31:16]. -/
abbrev FAN_LIMIT_MAX_RPM : Fld := ⟨0x401008, 0x20, 16, 16⟩
/-- FAN_LIMIT.MIN_RPM [15:0]. -/
abbrev FAN_LIMIT_MIN_RPM : Fld := ⟨0x401008, 0x20, 0, 16⟩
/-- FAN_CURRENT.I_NOM [31:16]. -/
abbrev FAN_CURRENT_I_NOM : Fld := ⟨0x40100c, 0x20, 16, 16⟩
/-- FAN_CURRENT.I_LAST [15:0]. -/
abbrev FAN_CURRENT_I_LAST : Fld := ⟨0x40100c, 0x20, 0, 16⟩
/-- FAN_STATUS.STATE [31:28]. -/
abbrev FAN_STATUS_STATE : Fld := ⟨0x401010, 0x20, 28, 4⟩
/-- FAN_STATUS.CAUSE [27:24]. -/
abbrev FAN_STATUS_CAUSE : Fld := ⟨0x401010, 0x20, 24, 4⟩
/-- FAN_STATUS.KICKS [23:22]. -/
abbrev FAN_STATUS_KICKS : Fld := ⟨0x401010, 0x20, 22, 2⟩
/-- FAN_STATUS.COVERED [21:21]. -/
abbrev FAN_STATUS_COVERED : Fld := ⟨0x401010, 0x20, 21, 1⟩
/-- FAN_STATUS.COVER_FAN [20:16]. -/
abbrev FAN_STATUS_COVER_FAN : Fld := ⟨0x401010, 0x20, 16, 5⟩
/-- FAN_STATUS.FULL [15:15]. -/
abbrev FAN_STATUS_FULL : Fld := ⟨0x401010, 0x20, 15, 1⟩
/-- FAN_STATUS.DUTY [11:1]. -/
abbrev FAN_STATUS_DUTY : Fld := ⟨0x401010, 0x20, 1, 11⟩
/-- FAN_STATUS.FAILED [0:0]. -/
abbrev FAN_STATUS_FAILED : Fld := ⟨0x401010, 0x20, 0, 1⟩
/-- FAN_SPEED.RPM [31:16]. -/
abbrev FAN_SPEED_RPM : Fld := ⟨0x401014, 0x20, 16, 16⟩
/-- FAN_SPEED.AGE [15:0]. -/
abbrev FAN_SPEED_AGE : Fld := ⟨0x401014, 0x20, 0, 16⟩
/-- FAN_REF.COMMISSION [31:31]. -/
abbrev FAN_REF_COMMISSION : Fld := ⟨0x401018, 0x20, 31, 1⟩
/-- FAN_REF.REF_DUTY [26:16]. -/
abbrev FAN_REF_REF_DUTY : Fld := ⟨0x401018, 0x20, 16, 11⟩
/-- FAN_REF.REF_RPM [15:0]. -/
abbrev FAN_REF_REF_RPM : Fld := ⟨0x401018, 0x20, 0, 16⟩
/-- PUMP_CFG.USED [31:31]. -/
abbrev PUMP_CFG_USED : Fld := ⟨0x402000, 0x20, 31, 1⟩
/-- PUMP_CFG.LOOP [30:29]. -/
abbrev PUMP_CFG_LOOP : Fld := ⟨0x402000, 0x20, 29, 2⟩
/-- PUMP_CFG.PPR [28:27]. -/
abbrev PUMP_CFG_PPR : Fld := ⟨0x402000, 0x20, 27, 2⟩
/-- PUMP_CFG.SUPPLY [26:20]. -/
abbrev PUMP_CFG_SUPPLY : Fld := ⟨0x402000, 0x20, 20, 7⟩
/-- PUMP_CFG.MIN_DUTY [7:0]. -/
abbrev PUMP_CFG_MIN_DUTY : Fld := ⟨0x402000, 0x20, 0, 8⟩
/-- PUMP_TARGET.MAX_RPM [31:16]. -/
abbrev PUMP_TARGET_MAX_RPM : Fld := ⟨0x402004, 0x20, 16, 16⟩
/-- PUMP_TARGET.TARGET_RPM [15:0]. -/
abbrev PUMP_TARGET_TARGET_RPM : Fld := ⟨0x402004, 0x20, 0, 16⟩
/-- PUMP_STATUS.RPM [31:16]. -/
abbrev PUMP_STATUS_RPM : Fld := ⟨0x402008, 0x20, 16, 16⟩
/-- PUMP_STATUS.STATE [15:13]. -/
abbrev PUMP_STATUS_STATE : Fld := ⟨0x402008, 0x20, 13, 3⟩
/-- PUMP_STATUS.FULL [12:12]. -/
abbrev PUMP_STATUS_FULL : Fld := ⟨0x402008, 0x20, 12, 1⟩
/-- PUMP_STATUS.DUTY [11:1]. -/
abbrev PUMP_STATUS_DUTY : Fld := ⟨0x402008, 0x20, 1, 11⟩
/-- PUMP_STATUS.FAILED [0:0]. -/
abbrev PUMP_STATUS_FAILED : Fld := ⟨0x402008, 0x20, 0, 1⟩
/-- LOOP_CFG.EN [31:31]. -/
abbrev LOOP_CFG_EN : Fld := ⟨0x403000, 0x20, 31, 1⟩
/-- LOOP_CFG.MATE [30:30]. -/
abbrev LOOP_CFG_MATE : Fld := ⟨0x403000, 0x20, 30, 1⟩
/-- LOOP_CFG.ADC_CH [29:23]. -/
abbrev LOOP_CFG_ADC_CH : Fld := ⟨0x403000, 0x20, 23, 7⟩
/-- LOOP_CFG.GRACE [3:3]. -/
abbrev LOOP_CFG_GRACE : Fld := ⟨0x403000, 0x20, 3, 1⟩
/-- LOOP_CFG.PRESS_HIGH [2:2]. -/
abbrev LOOP_CFG_PRESS_HIGH : Fld := ⟨0x403000, 0x20, 2, 1⟩
/-- LOOP_CFG.WARN [1:1]. -/
abbrev LOOP_CFG_WARN : Fld := ⟨0x403000, 0x20, 1, 1⟩
/-- LOOP_CFG.FAULT [0:0]. -/
abbrev LOOP_CFG_FAULT : Fld := ⟨0x403000, 0x20, 0, 1⟩
/-- LOOP_FLOW_CFG.K [31:16]. -/
abbrev LOOP_FLOW_CFG_K : Fld := ⟨0x403004, 0x20, 16, 16⟩
/-- LOOP_FLOW_CFG.WARN [15:8]. -/
abbrev LOOP_FLOW_CFG_WARN : Fld := ⟨0x403004, 0x20, 8, 8⟩
/-- LOOP_FLOW_CFG.FAULT [7:0]. -/
abbrev LOOP_FLOW_CFG_FAULT : Fld := ⟨0x403004, 0x20, 0, 8⟩
/-- LOOP_PRESS_CFG.P_HIGH_MV [31:16]. -/
abbrev LOOP_PRESS_CFG_P_HIGH_MV : Fld := ⟨0x403008, 0x20, 16, 16⟩
/-- LOOP_PRESS_CFG.P_LOW_MV [15:0]. -/
abbrev LOOP_PRESS_CFG_P_LOW_MV : Fld := ⟨0x403008, 0x20, 0, 16⟩
/-- LOOP_STATUS.FLOW [31:16]. -/
abbrev LOOP_STATUS_FLOW : Fld := ⟨0x40300c, 0x20, 16, 16⟩
/-- LOOP_STATUS.PRESS_MV [15:0]. -/
abbrev LOOP_STATUS_PRESS_MV : Fld := ⟨0x40300c, 0x20, 0, 16⟩
/-- LEAK_CFG.USED [31:31]. -/
abbrev LEAK_CFG_USED : Fld := ⟨0x404000, 0x8, 31, 1⟩
/-- LEAK_CFG.MATE [30:30]. -/
abbrev LEAK_CFG_MATE : Fld := ⟨0x404000, 0x8, 30, 1⟩
/-- LEAK_CFG.LEAK_N [27:24]. -/
abbrev LEAK_CFG_LEAK_N : Fld := ⟨0x404000, 0x8, 24, 4⟩
/-- LEAK_CFG.OPEN_KOHM [23:12]. -/
abbrev LEAK_CFG_OPEN_KOHM : Fld := ⟨0x404000, 0x8, 12, 12⟩
/-- LEAK_CFG.WET_KOHM [11:0]. -/
abbrev LEAK_CFG_WET_KOHM : Fld := ⟨0x404000, 0x8, 0, 12⟩
/-- LEAK_STATUS.R_KOHM [31:20]. -/
abbrev LEAK_STATUS_R_KOHM : Fld := ⟨0x404004, 0x8, 20, 12⟩
/-- LEAK_STATUS.STATE [3:2]. -/
abbrev LEAK_STATUS_STATE : Fld := ⟨0x404004, 0x8, 2, 2⟩
/-- LEAK_STATUS.LATCHED [0:0]. -/
abbrev LEAK_STATUS_LATCHED : Fld := ⟨0x404004, 0x8, 0, 1⟩
/-- TD_CFG.USED [31:31]. -/
abbrev TD_CFG_USED : Fld := ⟨0x405000, 0x8, 31, 1⟩
/-- TD_CFG.ZONE [30:28]. -/
abbrev TD_CFG_ZONE : Fld := ⟨0x405000, 0x8, 28, 3⟩
/-- TD_CFG.HOT [15:8]. -/
abbrev TD_CFG_HOT : Fld := ⟨0x405000, 0x8, 8, 8⟩
/-- TD_CFG.HYST [7:0]. -/
abbrev TD_CFG_HYST : Fld := ⟨0x405000, 0x8, 0, 8⟩
/-- TD_STATUS.TEMP [31:16]. -/
abbrev TD_STATUS_TEMP : Fld := ⟨0x405004, 0x8, 16, 16⟩
/-- TD_STATUS.FAULT [2:2]. -/
abbrev TD_STATUS_FAULT : Fld := ⟨0x405004, 0x8, 2, 1⟩
/-- TD_STATUS.HOT [1:1]. -/
abbrev TD_STATUS_HOT : Fld := ⟨0x405004, 0x8, 1, 1⟩
/-- BOOT_STATUS.PATH [31:28]. -/
abbrev BOOT_STATUS_PATH : Fld := ⟨0x100, 0x0, 28, 4⟩
/-- BOOT_STATUS.SLOT [27:26]. -/
abbrev BOOT_STATUS_SLOT : Fld := ⟨0x100, 0x0, 26, 2⟩
/-- BOOT_STATUS.FORCED [25:25]. -/
abbrev BOOT_STATUS_FORCED : Fld := ⟨0x100, 0x0, 25, 1⟩
/-- BOOT_STATUS.TRIAL [24:24]. -/
abbrev BOOT_STATUS_TRIAL : Fld := ⟨0x100, 0x0, 24, 1⟩
/-- BOOT_STATUS.FALLBACK [23:23]. -/
abbrev BOOT_STATUS_FALLBACK : Fld := ⟨0x100, 0x0, 23, 1⟩
/-- BOOT_STATUS.RAIL_PENDING [22:22]. -/
abbrev BOOT_STATUS_RAIL_PENDING : Fld := ⟨0x100, 0x0, 22, 1⟩
/-- BOOT_STATUS.COOL_PENDING [21:21]. -/
abbrev BOOT_STATUS_COOL_PENDING : Fld := ⟨0x100, 0x0, 21, 1⟩
/-- BOOT_STATUS.DEBUG [20:20]. -/
abbrev BOOT_STATUS_DEBUG : Fld := ⟨0x100, 0x0, 20, 1⟩
/-- BOOT_SLOT_STATE.STATE [31:28]. -/
abbrev BOOT_SLOT_STATE_STATE : Fld := ⟨0x104, 0x8, 28, 4⟩
/-- BOOT_SLOT_STATE.REASON [27:24]. -/
abbrev BOOT_SLOT_STATE_REASON : Fld := ⟨0x104, 0x8, 24, 4⟩
/-- BOOT_SLOT_STATE.TRIES [23:21]. -/
abbrev BOOT_SLOT_STATE_TRIES : Fld := ⟨0x104, 0x8, 21, 3⟩
/-- BOOT_SLOT_STATE.TRIAL_MAX [20:18]. -/
abbrev BOOT_SLOT_STATE_TRIAL_MAX : Fld := ⟨0x104, 0x8, 18, 3⟩
/-- BOOT_SLOT_STATE.KEY_INDEX [17:16]. -/
abbrev BOOT_SLOT_STATE_KEY_INDEX : Fld := ⟨0x104, 0x8, 16, 2⟩
/-- BOOT_SLOT_STATE.SVN [15:0]. -/
abbrev BOOT_SLOT_STATE_SVN : Fld := ⟨0x104, 0x8, 0, 16⟩
/-- BOOT_SLOT_SEQ.INSTALL_SEQ [31:0]. -/
abbrev BOOT_SLOT_SEQ_INSTALL_SEQ : Fld := ⟨0x108, 0x8, 0, 32⟩
/-- BOOT_VERSION.BUNDLE_VERSION [31:0]. -/
abbrev BOOT_VERSION_BUNDLE_VERSION : Fld := ⟨0x120, 0x0, 0, 32⟩
/-- BOOT_SVN.BUNDLE_SVN [31:16]. -/
abbrev BOOT_SVN_BUNDLE_SVN : Fld := ⟨0x124, 0x0, 16, 16⟩
/-- BOOT_SVN.FUSED_SVN [15:0]. -/
abbrev BOOT_SVN_FUSED_SVN : Fld := ⟨0x124, 0x0, 0, 16⟩
/-- BOOT_TIME.TIME_US [31:0]. -/
abbrev BOOT_TIME_TIME_US : Fld := ⟨0x128, 0x0, 0, 32⟩
/-- BOOT_COUNT_LO.COUNT_LO [31:0]. -/
abbrev BOOT_COUNT_LO : Fld := ⟨0x130, 0x0, 0, 32⟩
/-- BOOT_COUNT_HI.COUNT_HI [31:0]. -/
abbrev BOOT_COUNT_HI : Fld := ⟨0x134, 0x0, 0, 32⟩
/-- UPD_STATUS.STATE [31:28]. -/
abbrev UPD_STATUS_STATE : Fld := ⟨0x138, 0x0, 28, 4⟩
/-- UPD_STATUS.TARGET [27:26]. -/
abbrev UPD_STATUS_TARGET : Fld := ⟨0x138, 0x0, 26, 2⟩
/-- UPD_STATUS.LAST_STATUS [23:16]. -/
abbrev UPD_STATUS_LAST_STATUS : Fld := ⟨0x138, 0x0, 16, 8⟩
/-- UPD_STATUS.PROGRESS [7:0]. -/
abbrev UPD_STATUS_PROGRESS : Fld := ⟨0x138, 0x0, 0, 8⟩
/-- TRUST_STATUS.MODEL_KEYS [15:12]. -/
abbrev TRUST_STATUS_MODEL_KEYS : Fld := ⟨0x13c, 0x0, 12, 4⟩
/-- TRUST_STATUS.OWNER_REVOKED [7:4]. -/
abbrev TRUST_STATUS_OWNER_REVOKED : Fld := ⟨0x13c, 0x0, 4, 4⟩
/-- TRUST_STATUS.OWNER_FUSED [3:0]. -/
abbrev TRUST_STATUS_OWNER_FUSED : Fld := ⟨0x13c, 0x0, 0, 4⟩
/-- MBX_ID.MAX_MINOR [23:16]. -/
abbrev MBX_ID_MAX_MINOR : Fld := ⟨0x100000, 0x0, 16, 8⟩
/-- MBX_ID.MAX_MAJOR [15:8]. -/
abbrev MBX_ID_MAX_MAJOR : Fld := ⟨0x100000, 0x0, 8, 8⟩
/-- MBX_ID.MIN_MAJOR [7:0]. -/
abbrev MBX_ID_MIN_MAJOR : Fld := ⟨0x100000, 0x0, 0, 8⟩
/-- MBX_STATUS.SERVER [11:10]. -/
abbrev MBX_STATUS_SERVER : Fld := ⟨0x100004, 0x0, 10, 2⟩
/-- MBX_STATUS.LEASE [9:8]. -/
abbrev MBX_STATUS_LEASE : Fld := ⟨0x100004, 0x0, 8, 2⟩
/-- MBX_STATUS.LEASE_XPORT [5:4]. -/
abbrev MBX_STATUS_LEASE_XPORT : Fld := ⟨0x100004, 0x0, 4, 2⟩
/-- MBX_STATUS.READY [0:0]. -/
abbrev MBX_STATUS_READY : Fld := ⟨0x100004, 0x0, 0, 1⟩
/-- MBX_LEASE.REMAIN_MS [15:0]. -/
abbrev MBX_LEASE_REMAIN_MS : Fld := ⟨0x100008, 0x0, 0, 16⟩
/-- MBX_ERR.INTERRUPTED [3:3]. -/
abbrev MBX_ERR_INTERRUPTED : Fld := ⟨0x10000c, 0x0, 3, 1⟩
/-- MBX_ERR.MCTP_DROP [2:2]. -/
abbrev MBX_ERR_MCTP_DROP : Fld := ⟨0x10000c, 0x0, 2, 1⟩
/-- MBX_ERR.LATE_WRITE [1:1]. -/
abbrev MBX_ERR_LATE_WRITE : Fld := ⟨0x10000c, 0x0, 1, 1⟩
/-- MBX_ERR.DOORBELL [0:0]. -/
abbrev MBX_ERR_DOORBELL : Fld := ⟨0x10000c, 0x0, 0, 1⟩
/-- MBX_INT_STATUS.VEC [15:0]. -/
abbrev MBX_INT_STATUS_VEC : Fld := ⟨0x100010, 0x0, 0, 16⟩
/-- MBX_EVT_MISSED.COUNT [31:0]. -/
abbrev MBX_EVT_MISSED_COUNT : Fld := ⟨0x100014, 0x0, 0, 32⟩
/-- MBX_CH_DOORBELL.GO [31:31]. -/
abbrev MBX_CH_DOORBELL_GO : Fld := ⟨0x100100, 0x8, 31, 1⟩
/-- MBX_CH_STATUS.TAG [31:16]. -/
abbrev MBX_CH_STATUS_TAG : Fld := ⟨0x100104, 0x8, 16, 16⟩
/-- MBX_CH_STATUS.DONE [8:8]. -/
abbrev MBX_CH_STATUS_DONE : Fld := ⟨0x100104, 0x8, 8, 1⟩
/-- MBX_CH_STATUS.STATE [1:0]. -/
abbrev MBX_CH_STATUS_STATE : Fld := ⟨0x100104, 0x8, 0, 2⟩
/-- CQ_STATUS.NONEMPTY [31:16]. -/
abbrev CQ_STATUS_NONEMPTY : Fld := ⟨0x600000, 0x0, 16, 16⟩
/-- CQ_STATUS.TRC_HOLD [4:4]. -/
abbrev CQ_STATUS_TRC_HOLD : Fld := ⟨0x600000, 0x0, 4, 1⟩
/-- CQ_STATUS.HELD [3:0]. -/
abbrev CQ_STATUS_HELD : Fld := ⟨0x600000, 0x0, 0, 4⟩
/-- CQ_TRC_CFG.EN [31:31]. -/
abbrev CQ_TRC_CFG_EN : Fld := ⟨0x600004, 0x0, 31, 1⟩
/-- CQ_TRC_CFG.DIV [7:0]. -/
abbrev CQ_TRC_CFG_DIV : Fld := ⟨0x600004, 0x0, 0, 8⟩
/-- CQ_ERR.WRITER [15:0]. -/
abbrev CQ_ERR_WRITER : Fld := ⟨0x600008, 0x0, 0, 16⟩
/-- CQ_CFG.EN [31:31]. -/
abbrev CQ_CFG_EN : Fld := ⟨0x601000, 0x100, 31, 1⟩
/-- CQ_CFG.DRAIN [30:30]. -/
abbrev CQ_CFG_DRAIN : Fld := ⟨0x601000, 0x100, 30, 1⟩
/-- CQ_CFG.TRAILER [29:29]. -/
abbrev CQ_CFG_TRAILER : Fld := ⟨0x601000, 0x100, 29, 1⟩
/-- CQ_CFG.FLUSH [28:28]. -/
abbrev CQ_CFG_FLUSH : Fld := ⟨0x601000, 0x100, 28, 1⟩
/-- CQ_CFG.OWNER [27:24]. -/
abbrev CQ_CFG_OWNER : Fld := ⟨0x601000, 0x100, 24, 4⟩
/-- CQ_CFG.LINGER [15:0]. -/
abbrev CQ_CFG_LINGER : Fld := ⟨0x601000, 0x100, 0, 16⟩
/-- CQ_LEVEL.VISIBLE [27:16]. -/
abbrev CQ_LEVEL_VISIBLE : Fld := ⟨0x601004, 0x100, 16, 12⟩
/-- CQ_LEVEL.USED [11:0]. -/
abbrev CQ_LEVEL_USED : Fld := ⟨0x601004, 0x100, 0, 12⟩
/-- CQ_WM.HIGH [27:16]. -/
abbrev CQ_WM_HIGH : Fld := ⟨0x601008, 0x100, 16, 12⟩
/-- CQ_WM.LOW [11:0]. -/
abbrev CQ_WM_LOW : Fld := ⟨0x601008, 0x100, 0, 12⟩
/-- CQ_COUNTS.DROPPED [31:16]. -/
abbrev CQ_COUNTS_DROPPED : Fld := ⟨0x60100c, 0x100, 16, 16⟩
/-- CQ_COUNTS.FLUSHES [15:0]. -/
abbrev CQ_COUNTS_FLUSHES : Fld := ⟨0x60100c, 0x100, 0, 16⟩
/-- CQ_NOTICE.ACK [31:16]. -/
abbrev CQ_NOTICE_ACK : Fld := ⟨0x601010, 0x100, 16, 16⟩
/-- CQ_NOTICE.PENDING [15:0]. -/
abbrev CQ_NOTICE_PENDING : Fld := ⟨0x601010, 0x100, 0, 16⟩
/-- CQ_MARK.REWIND_FAIL [4:4]. -/
abbrev CQ_MARK_REWIND_FAIL : Fld := ⟨0x601014, 0x100, 4, 1⟩
/-- CQ_MARK.REWIND_LOST [3:3]. -/
abbrev CQ_MARK_REWIND_LOST : Fld := ⟨0x601014, 0x100, 3, 1⟩
/-- CQ_MARK.REWIND [2:2]. -/
abbrev CQ_MARK_REWIND : Fld := ⟨0x601014, 0x100, 2, 1⟩
/-- CQ_MARK.SET [1:1]. -/
abbrev CQ_MARK_SET : Fld := ⟨0x601014, 0x100, 1, 1⟩
/-- CQ_MARK.VALID [0:0]. -/
abbrev CQ_MARK_VALID : Fld := ⟨0x601014, 0x100, 0, 1⟩
/-- CQ_RD_TAG.TAG [31:0]. -/
abbrev CQ_RD_TAG_TAG : Fld := ⟨0x601018, 0x100, 0, 32⟩
/-- CQ_RD_DATA_0.DATA [31:0]. -/
abbrev CQ_RD_DATA_0_DATA : Fld := ⟨0x601020, 0x100, 0, 32⟩
/-- CQ_RD_DATA_1.DATA [31:0]. -/
abbrev CQ_RD_DATA_1_DATA : Fld := ⟨0x601024, 0x100, 0, 32⟩
/-- CQ_RD_DATA_2.DATA [31:0]. -/
abbrev CQ_RD_DATA_2_DATA : Fld := ⟨0x601028, 0x100, 0, 32⟩
/-- CQ_RD_DATA_3.DATA [31:0]. -/
abbrev CQ_RD_DATA_3_DATA : Fld := ⟨0x60102c, 0x100, 0, 32⟩
/-- CQ_RD_DATA_4.DATA [31:0]. -/
abbrev CQ_RD_DATA_4_DATA : Fld := ⟨0x601030, 0x100, 0, 32⟩
/-- CQ_RD_DATA_5.DATA [31:0]. -/
abbrev CQ_RD_DATA_5_DATA : Fld := ⟨0x601034, 0x100, 0, 32⟩
/-- CQ_RD_DATA_6.DATA [31:0]. -/
abbrev CQ_RD_DATA_6_DATA : Fld := ⟨0x601038, 0x100, 0, 32⟩
/-- CQ_RD_DATA_7.DATA [31:0]. -/
abbrev CQ_RD_DATA_7_DATA : Fld := ⟨0x60103c, 0x100, 0, 32⟩
/-- CQ_WR_FIRST.DATA [31:0]. -/
abbrev CQ_WR_FIRST_DATA : Fld := ⟨0x601040, 0x100, 0, 32⟩
/-- CQ_WR_DATA.DATA [31:0]. -/
abbrev CQ_WR_DATA_DATA : Fld := ⟨0x601044, 0x100, 0, 32⟩
/-- CQ_PKT_OPEN.OPEN [0:0]. -/
abbrev CQ_PKT_OPEN_OPEN : Fld := ⟨0x601048, 0x100, 0, 1⟩
/-- CQ_PKT_CLOSE.LAST_BYTES [2:0]. -/
abbrev CQ_PKT_CLOSE_LAST_BYTES : Fld := ⟨0x60104c, 0x100, 0, 3⟩
/-- FFR_CTRL.KEY [31:16]. -/
abbrev FFR_CTRL_KEY : Fld := ⟨0x700000, 0x0, 16, 16⟩
/-- FFR_CTRL.CLEAR [1:1]. -/
abbrev FFR_CTRL_CLEAR : Fld := ⟨0x700000, 0x0, 1, 1⟩
/-- FFR_CTRL.PAUSE [0:0]. -/
abbrev FFR_CTRL_PAUSE : Fld := ⟨0x700000, 0x0, 0, 1⟩
/-- FFR_STATUS.FULL [31:31]. -/
abbrev FFR_STATUS_FULL : Fld := ⟨0x700004, 0x0, 31, 1⟩
/-- FFR_STATUS.ARCHIVING [30:30]. -/
abbrev FFR_STATUS_ARCHIVING : Fld := ⟨0x700004, 0x0, 30, 1⟩
/-- FFR_STATUS.NEXT_SEQ [15:0]. -/
abbrev FFR_STATUS_NEXT_SEQ : Fld := ⟨0x700004, 0x0, 0, 16⟩
/-- FFR_FILL.RECORDS [31:16]. -/
abbrev FFR_FILL_RECORDS : Fld := ⟨0x700008, 0x0, 16, 16⟩
/-- FFR_FILL.FILL16 [15:0]. -/
abbrev FFR_FILL_FILL16 : Fld := ⟨0x700008, 0x0, 0, 16⟩
/-- FFR_LOST.COUNT [31:0]. -/
abbrev FFR_LOST_COUNT : Fld := ⟨0x70000c, 0x0, 0, 32⟩
/-- FFR_ARCH.ARCHIVES [31:16]. -/
abbrev FFR_ARCH_ARCHIVES : Fld := ⟨0x700010, 0x0, 16, 16⟩
/-- FFR_ARCH.FILL16 [15:0]. -/
abbrev FFR_ARCH_FILL16 : Fld := ⟨0x700010, 0x0, 0, 16⟩
/-- CRC_CFG.INIT [31:31]. -/
abbrev CRC_CFG_INIT : Fld := ⟨0x800000, 0x40, 31, 1⟩
/-- CRC_CFG.CQ [15:12]. -/
abbrev CRC_CFG_CQ : Fld := ⟨0x800000, 0x40, 12, 4⟩
/-- CRC_CFG.CQ_BIND [8:8]. -/
abbrev CRC_CFG_CQ_BIND : Fld := ⟨0x800000, 0x40, 8, 1⟩
/-- CRC_CFG.ALG [2:0]. -/
abbrev CRC_CFG_ALG : Fld := ⟨0x800000, 0x40, 0, 3⟩
/-- CRC_VALUE_LO.VALUE_LO [31:0]. -/
abbrev CRC_VALUE_LO : Fld := ⟨0x800008, 0x40, 0, 32⟩
/-- CRC_VALUE_HI.VALUE_HI [31:0]. -/
abbrev CRC_VALUE_HI : Fld := ⟨0x80000c, 0x40, 0, 32⟩
/-- CRC_RESULT_LO.RESULT_LO [31:0]. -/
abbrev CRC_RESULT_LO : Fld := ⟨0x800010, 0x40, 0, 32⟩
/-- CRC_RESULT_HI.RESULT_HI [31:0]. -/
abbrev CRC_RESULT_HI : Fld := ⟨0x800014, 0x40, 0, 32⟩
/-- CRC_DATA.DATA [31:0]. -/
abbrev CRC_DATA_DATA : Fld := ⟨0x800018, 0x40, 0, 32⟩
/-- CRC_COUNT.BYTES [31:0]. -/
abbrev CRC_COUNT_BYTES : Fld := ⟨0x80001c, 0x40, 0, 32⟩
/-- TLM_STATUS.SPARE_ACTIVE [11:11]. -/
abbrev TLM_STATUS_SPARE_ACTIVE : Fld := ⟨0x500000, 0x0, 11, 1⟩
/-- TLM_STATUS.SPARE_FOR [10:9]. -/
abbrev TLM_STATUS_SPARE_FOR : Fld := ⟨0x500000, 0x0, 9, 2⟩
/-- TLM_STATUS.SPARE_FAILED [8:8]. -/
abbrev TLM_STATUS_SPARE_FAILED : Fld := ⟨0x500000, 0x0, 8, 1⟩
/-- TLM_STATUS.CONV_FAILED [7:4]. -/
abbrev TLM_STATUS_CONV_FAILED : Fld := ⟨0x500000, 0x0, 4, 4⟩
/-- TLM_STATUS.SUSPECT [3:0]. -/
abbrev TLM_STATUS_SUSPECT : Fld := ⟨0x500000, 0x0, 0, 4⟩
/-- TLM_REF.SPARE_REF [31:16]. -/
abbrev TLM_REF_SPARE_REF : Fld := ⟨0x500004, 0x0, 16, 16⟩
/-- TLM_REF.REF_TRIM [15:0]. -/
abbrev TLM_REF_REF_TRIM : Fld := ⟨0x500004, 0x0, 0, 16⟩
/-- TLM_FAN_SCALE.MA_PER_V [15:0]. -/
abbrev TLM_FAN_SCALE_MA_PER_V : Fld := ⟨0x500008, 0x0, 0, 16⟩
/-- TLM_FAST_CFG.OFFSET [27:16]. -/
abbrev TLM_FAST_CFG_OFFSET : Fld := ⟨0x500040, 0x4, 16, 12⟩
/-- TLM_FAST_CFG.SCALE [15:0]. -/
abbrev TLM_FAST_CFG_SCALE : Fld := ⟨0x500040, 0x4, 0, 16⟩
/-- TLM_FAST.STALE [31:31]. -/
abbrev TLM_FAST_STALE : Fld := ⟨0x500080, 0x4, 31, 1⟩
/-- TLM_FAST.FAILED [30:30]. -/
abbrev TLM_FAST_FAILED : Fld := ⟨0x500080, 0x4, 30, 1⟩
/-- TLM_FAST.CODE [29:16]. -/
abbrev TLM_FAST_CODE : Fld := ⟨0x500080, 0x4, 16, 14⟩
/-- TLM_FAST.VALUE [15:0]. -/
abbrev TLM_FAST_VALUE : Fld := ⟨0x500080, 0x4, 0, 16⟩
/-- TLM_CH.STALE [31:31]. -/
abbrev TLM_CH_STALE : Fld := ⟨0x501000, 0x4, 31, 1⟩
/-- TLM_CH.MV [27:16]. -/
abbrev TLM_CH_MV : Fld := ⟨0x501000, 0x4, 16, 12⟩
/-- TLM_CH.CODE [15:0]. -/
abbrev TLM_CH_CODE : Fld := ⟨0x501000, 0x4, 0, 16⟩
/-- SNAP_CTRL.TRIGGER [1:1]. -/
abbrev SNAP_CTRL_TRIGGER : Fld := ⟨0x8000000, 0x0, 1, 1⟩
/-- SNAP_CTRL.ARM [0:0]. -/
abbrev SNAP_CTRL_ARM : Fld := ⟨0x8000000, 0x0, 0, 1⟩
/-- SNAP_STATUS.ARMED [31:31]. -/
abbrev SNAP_STATUS_ARMED : Fld := ⟨0x8000004, 0x0, 31, 1⟩
/-- SNAP_STATUS.CAPTURING [30:30]. -/
abbrev SNAP_STATUS_CAPTURING : Fld := ⟨0x8000004, 0x0, 30, 1⟩
/-- SNAP_STATUS.MISSED [23:16]. -/
abbrev SNAP_STATUS_MISSED : Fld := ⟨0x8000004, 0x0, 16, 8⟩
/-- SNAP_STATUS.SECTION_VALID [9:0]. -/
abbrev SNAP_STATUS_SECTION_VALID : Fld := ⟨0x8000004, 0x0, 0, 10⟩
/-- SNAP_SRC_EN.SYNC [4:4]. -/
abbrev SNAP_SRC_EN_SYNC : Fld := ⟨0x8000008, 0x0, 4, 1⟩
/-- SNAP_SRC_EN.PIN [3:3]. -/
abbrev SNAP_SRC_EN_PIN : Fld := ⟨0x8000008, 0x0, 3, 1⟩
/-- SNAP_SRC_EN.FIRMWARE [2:2]. -/
abbrev SNAP_SRC_EN_FIRMWARE : Fld := ⟨0x8000008, 0x0, 2, 1⟩
/-- SNAP_SRC_EN.MATE [1:1]. -/
abbrev SNAP_SRC_EN_MATE : Fld := ⟨0x8000008, 0x0, 1, 1⟩
/-- SNAP_SRC_EN.CHECK [0:0]. -/
abbrev SNAP_SRC_EN_CHECK : Fld := ⟨0x8000008, 0x0, 0, 1⟩
/-- SNAP_CAUSE.SOURCES [4:0]. -/
abbrev SNAP_CAUSE_SOURCES : Fld := ⟨0x800000c, 0x0, 0, 5⟩
/-- SNAP_TRIG_GTS_LO.GTS_LO [31:0]. -/
abbrev SNAP_TRIG_GTS_LO : Fld := ⟨0x8000010, 0x0, 0, 32⟩
/-- SNAP_TRIG_GTS_HI.GTS_HI [31:0]. -/
abbrev SNAP_TRIG_GTS_HI : Fld := ⟨0x8000014, 0x0, 0, 32⟩
/-- SNAP_TRIG_HANDLE.HANDLE [31:0]. -/
abbrev SNAP_TRIG_HANDLE_HANDLE : Fld := ⟨0x8000018, 0x0, 0, 32⟩
/-- TW_STATUS.ENDGAME_RESP [31:31]. -/
abbrev TW_STATUS_ENDGAME_RESP : Fld := ⟨0x900000, 0x0, 31, 1⟩
/-- TW_STATUS.OUT_OF_SERVICE [27:16]. -/
abbrev TW_STATUS_OUT_OF_SERVICE : Fld := ⟨0x900000, 0x0, 16, 12⟩
/-- TW_STATUS.BUSY [11:0]. -/
abbrev TW_STATUS_BUSY : Fld := ⟨0x900000, 0x0, 0, 12⟩
/-- TW_ERR.AVS_FAIL [6:6]. -/
abbrev TW_ERR_AVS_FAIL : Fld := ⟨0x900004, 0x0, 6, 1⟩
/-- TW_ERR.ALERT_STUCK [5:5]. -/
abbrev TW_ERR_ALERT_STUCK : Fld := ⟨0x900004, 0x0, 5, 1⟩
/-- TW_ERR.STUCK [4:4]. -/
abbrev TW_ERR_STUCK : Fld := ⟨0x900004, 0x0, 4, 1⟩
/-- TW_ERR.PEC [3:3]. -/
abbrev TW_ERR_PEC : Fld := ⟨0x900004, 0x0, 3, 1⟩
/-- TW_ERR.TIMEOUT [2:2]. -/
abbrev TW_ERR_TIMEOUT : Fld := ⟨0x900004, 0x0, 2, 1⟩
/-- TW_ERR.LOST [1:1]. -/
abbrev TW_ERR_LOST : Fld := ⟨0x900004, 0x0, 1, 1⟩
/-- TW_ERR.NACK [0:0]. -/
abbrev TW_ERR_NACK : Fld := ⟨0x900004, 0x0, 0, 1⟩
/-- TW_ACC_ALERT.MAP [31:0]. -/
abbrev TW_ACC_ALERT_MAP : Fld := ⟨0x900008, 0x0, 0, 32⟩
/-- TW_SMB0_ADDR.MCTP_ADDR [6:0]. -/
abbrev TW_SMB0_ADDR_MCTP_ADDR : Fld := ⟨0x90000c, 0x0, 0, 7⟩
/-- TW_AVS_CFG.RETRIES [23:16]. -/
abbrev TW_AVS_CFG_RETRIES : Fld := ⟨0x900010, 0x0, 16, 8⟩
/-- TW_AVS_CFG.BUSY_WAIT [15:8]. -/
abbrev TW_AVS_CFG_BUSY_WAIT : Fld := ⟨0x900010, 0x0, 8, 8⟩
/-- TW_AVS_CFG.CLK_DIV [7:0]. -/
abbrev TW_AVS_CFG_CLK_DIV : Fld := ⟨0x900010, 0x0, 0, 8⟩
/-- TW_SEGPWR_CFG.OFF_MS [31:16]. -/
abbrev TW_SEGPWR_CFG_OFF_MS : Fld := ⟨0x900014, 0x0, 16, 16⟩
/-- TW_SEGPWR_CFG.ON_MS [15:0]. -/
abbrev TW_SEGPWR_CFG_ON_MS : Fld := ⟨0x900014, 0x0, 0, 16⟩
/-- TW_SEG_CFG.EN [31:31]. -/
abbrev TW_SEG_CFG_EN : Fld := ⟨0x901000, 0x40, 31, 1⟩
/-- TW_SEG_CFG.MULTI [30:30]. -/
abbrev TW_SEG_CFG_MULTI : Fld := ⟨0x901000, 0x40, 30, 1⟩
/-- TW_SEG_CFG.SEGPWR [29:29]. -/
abbrev TW_SEG_CFG_SEGPWR : Fld := ⟨0x901000, 0x40, 29, 1⟩
/-- TW_SEG_CFG.SPEED [25:24]. -/
abbrev TW_SEG_CFG_SPEED : Fld := ⟨0x901000, 0x40, 24, 2⟩
/-- TW_SEG_CFG.FILT [20:16]. -/
abbrev TW_SEG_CFG_FILT : Fld := ⟨0x901000, 0x40, 16, 5⟩
/-- TW_SEG_CFG.TIMEOUT_MS [15:8]. -/
abbrev TW_SEG_CFG_TIMEOUT_MS : Fld := ⟨0x901000, 0x40, 8, 8⟩
/-- TW_SEG_CFG.ARB_RETRIES [7:4]. -/
abbrev TW_SEG_CFG_ARB_RETRIES : Fld := ⟨0x901000, 0x40, 4, 4⟩
/-- TW_SEG_STATUS.STATE [31:28]. -/
abbrev TW_SEG_STATUS_STATE : Fld := ⟨0x901004, 0x40, 28, 4⟩
/-- TW_SEG_STATUS.LAST [27:24]. -/
abbrev TW_SEG_STATUS_LAST : Fld := ⟨0x901004, 0x40, 24, 4⟩
/-- TW_SEG_STATUS.LAST_ADDR [22:16]. -/
abbrev TW_SEG_STATUS_LAST_ADDR : Fld := ⟨0x901004, 0x40, 16, 7⟩
/-- TW_SEG_STATUS.QUEUED [4:0]. -/
abbrev TW_SEG_STATUS_QUEUED : Fld := ⟨0x901004, 0x40, 0, 5⟩
/-- TW_SEG_COUNTS.NACK [31:24]. -/
abbrev TW_SEG_COUNTS_NACK : Fld := ⟨0x901008, 0x40, 24, 8⟩
/-- TW_SEG_COUNTS.LOST [23:16]. -/
abbrev TW_SEG_COUNTS_LOST : Fld := ⟨0x901008, 0x40, 16, 8⟩
/-- TW_SEG_COUNTS.TIMEOUT [15:8]. -/
abbrev TW_SEG_COUNTS_TIMEOUT : Fld := ⟨0x901008, 0x40, 8, 8⟩
/-- TW_SEG_COUNTS.PEC [7:0]. -/
abbrev TW_SEG_COUNTS_PEC : Fld := ⟨0x901008, 0x40, 0, 8⟩
/-- TW_SEG_ALERT.ASSERTED [31:31]. -/
abbrev TW_SEG_ALERT_ASSERTED : Fld := ⟨0x90100c, 0x40, 31, 1⟩
/-- TW_SEG_ALERT.MASKED [30:30]. -/
abbrev TW_SEG_ALERT_MASKED : Fld := ⟨0x90100c, 0x40, 30, 1⟩
/-- TW_SEG_ALERT.COUNT [23:16]. -/
abbrev TW_SEG_ALERT_COUNT : Fld := ⟨0x90100c, 0x40, 16, 8⟩
/-- TW_SEG_ALERT.LAST_ADDR [6:0]. -/
abbrev TW_SEG_ALERT_LAST_ADDR : Fld := ⟨0x90100c, 0x40, 0, 7⟩
/-- TW_SEG_RECOV.POWERCYCLES [15:8]. -/
abbrev TW_SEG_RECOV_POWERCYCLES : Fld := ⟨0x901010, 0x40, 8, 8⟩
/-- TW_SEG_RECOV.CLEARS [7:0]. -/
abbrev TW_SEG_RECOV_CLEARS : Fld := ⟨0x901010, 0x40, 0, 8⟩
/-- TW_AVS_STATUS.LAST_ACK [31:30]. -/
abbrev TW_AVS_STATUS_LAST_ACK : Fld := ⟨0x902000, 0x10, 30, 2⟩
/-- TW_AVS_STATUS.FAILED [29:29]. -/
abbrev TW_AVS_STATUS_FAILED : Fld := ⟨0x902000, 0x10, 29, 1⟩
/-- TW_AVS_STATUS.ALERT [28:28]. -/
abbrev TW_AVS_STATUS_ALERT : Fld := ⟨0x902000, 0x10, 28, 1⟩
/-- TW_AVS_STATUS.VOLT_MV [15:0]. -/
abbrev TW_AVS_STATUS_VOLT_MV : Fld := ⟨0x902000, 0x10, 0, 16⟩
/-- TW_AVS_COUNTS.CRC_ERR [31:24]. -/
abbrev TW_AVS_COUNTS_CRC_ERR : Fld := ⟨0x902004, 0x10, 24, 8⟩
/-- TW_AVS_COUNTS.BUSY [23:16]. -/
abbrev TW_AVS_COUNTS_BUSY : Fld := ⟨0x902004, 0x10, 16, 8⟩
/-- TW_AVS_COUNTS.RESENDS [15:8]. -/
abbrev TW_AVS_COUNTS_RESENDS : Fld := ⟨0x902004, 0x10, 8, 8⟩
/-- TW_AVS_COUNTS.FAILURES [7:0]. -/
abbrev TW_AVS_COUNTS_FAILURES : Fld := ⟨0x902004, 0x10, 0, 8⟩
/-- TW_AVS_SEL.EN [4:4]. -/
abbrev TW_AVS_SEL_EN : Fld := ⟨0x902008, 0x10, 4, 1⟩
/-- TW_AVS_SEL.SELECT [3:0]. -/
abbrev TW_AVS_SEL_SELECT : Fld := ⟨0x902008, 0x10, 0, 4⟩

end Sys2Proof.Machine.F
end

