-- ==== Sys2Proof/Config.lean ====
section
/-! DEFINITION. What an implementation fixes and the spec leaves open: fused values, the classes and codes of
first-failure records, cryptographic functions, and the free values (opaque constants: nothing can evaluate them). -/

namespace Sys2Proof.Config

/-- A free value: the n-th value the machine takes from outside what the spec states. -/
opaque freeWord : Nat → BitVec 64

/-- Fused: the part is a GM-S960-KT (R1, R2). -/
opaque tgradeKT : Bool
/-- Fused: SRAM repair rows used of a tile (TILE_REPAIR). -/
opaque rowsUsed : Nat → Nat
/-- Fused: SRAM repair columns used of a tile (TILE_REPAIR). -/
opaque colsUsed : Nat → Nat
/-- Fused: the trimmed code of the converters' reference (TLM_REF). -/
opaque refTrim : BitVec 16

/-- The low four bits of the CODE of a hardware first-failure record (R483 gives only the range of each source). -/
opaque ffrCode : Nat → Nat → BitVec 4
/-- The CLASS of a hardware first-failure record where no rule names it (R483). -/
opaque ffrClass : Nat → Nat → BitVec 2

/-- TRAY_ID (R161): the SHA-384 digest of the device's identity public key, 48 bytes. -/
opaque trayId : BitVec 384
/-- This end's transmit and receive PCS latencies, 1/8 ns (R143, R166). -/
opaque pcsTx : BitVec 16
opaque pcsRx : BitVec 16

/-- The byte read at a tile-local address outside the tile's SRAM, for the n-th such read. -/
opaque freeByte : Nat → Nat → BitVec 8
/-- The output lane of the matrix engine that converts element `e` of a bank, and its number in R71. -/
opaque matLane : Nat → Nat
/-- The FP32 codes a vector compare writes for true and for false. -/
opaque cmpTrue : BitVec 32
opaque cmpFalse : BitVec 32
/-- Whether a SELECT takes its first source for the FP32 code of its third. -/
opaque selectsA : BitVec 32 → Bool
/-- The result and flags of a transcendental operation (R93): operation 0 EXP, 1 LOG, 2 TANH, 3 SIGMOID, 4 RSQRT, 5 SIN,
6 COS, on an FP32 code. -/
opaque transc : Nat → BitVec 32 → BitVec 32
opaque transcFlags : Nat → BitVec 32 → BitVec 5
/-- The SRAM row of a tile's code word (R123). -/
opaque sramRow : Nat → Nat
/-- SHA-384 of a byte string. -/
opaque sha384 : List (BitVec 8) → BitVec 384
/-- Whether an ECDSA P-384 signature (r then s) over a SHA-384 digest verifies under a public key. -/
opaque ecdsaOk : List (BitVec 8) → BitVec 384 → List (BitVec 8) → Bool
/-- A signature the device makes with a key of its own, by the key's number and the digest. -/
opaque ecdsaSign : Nat → BitVec 384 → BitVec 768
/-- The same, where the device holds only the SHA-384 digest of the public key (R400). -/
opaque ecdsaOkH : BitVec 384 → BitVec 384 → List (BitVec 8) → Bool
/-- HMAC-SHA-384 under K_MAC, the slot MAC key (R401, R408). -/
opaque slotMac : List (BitVec 8) → BitVec 384
/-- CDI_1 of the bytes it is derived from (R401). -/
opaque cdi1 : List (BitVec 8) → BitVec 384
/-- H(ROM) (R401, R427). -/
opaque romHash : BitVec 384
/-- Fused: OWNER_KEY_HASH_0 (R400). -/
opaque ownerHash0 : BitVec 384
/-- Fused: DEBUG_LOCK (R400). -/
opaque debugLock : Bool
/-- Fused: the serial number and the PCI Vendor ID (R394, R434). -/
opaque serial : BitVec 64
opaque vendorId : BitVec 16
/-- The MCTP endpoint UUID, and the certificate chain of slot 0 in the form GET_CERTIFICATE returns (R426, R438). -/
opaque uuid : BitVec 128
opaque certChain : List (BitVec 8)
/-- The register words an image of type 5 (rail table), 6 (cooling table) or 8 (CONFIG) names: address and word (R405). -/
opaque tableWords : Nat → List (BitVec 8) → List (Nat × BitVec 32)
/-- The LOCK flag of a CONFIG image (R412). -/
opaque configLocks : List (BitVec 8) → Bool
/-- Fused: Glemal's JEP106 manufacturer code, 11 bits (R557). -/
opaque jep106 : BitVec 11
/-- The data of a code word of a replay buffer, as a read finds it: how flits lie in the words is open (R34). -/
opaque replayWord : Nat → Nat → BitVec 64
/-- The hottest main-die sensor at an instant of AONT, 1/64 °C (R558). -/
opaque tjMax : Nat → BitVec 16

end Sys2Proof.Config
end

