-- ==== Sys2Proof/Machine/RegReset.lean ====
section
/-! DEFINITION. The word each register reads as after a cold reset (the Reset column of the field tables, R7), the
per-index and fused ones included. -/

namespace Sys2Proof.Machine

/-- The register definition that holds byte address `a`, if any. -/
def findReg : List RegDef → Nat → Option RegDef
  | [], _ => none
  | r :: l, a =>
    if r.base ≤ a ∧ (r.count = 1 ∧ a = r.base ∨ r.stride ≠ 0 ∧ (a - r.base) % r.stride = 0 ∧ (a - r.base) / r.stride < r.count)
    then some r else findReg l a

/-- The register at `a` in the map of R15. -/
def regDefAt (a : Nat) : Option RegDef := findReg (blockRegs a) a

/-- The index of `a` among the like registers of `r`. -/
def RegDef.idx (r : RegDef) (a : Nat) : Nat := if r.stride = 0 then 0 else (a - r.base) / r.stride

/-- Reset bits that depend on the index or on fuses, added to the table's word. -/
def resetExtra (base i : Nat) : Nat :=
  if base = 0x0 then (if Config.tgradeKT then 2 else 1) * 2 ^ 24                       -- GLB_ID.TGRADE (R2)
  else if base = 0x4000000 then i + (i % 9) * 2 ^ 8 + (if i % 9 = 8 then 2 ^ 16 else 0) -- TILE_ID
  else if base = 0x4000004 then (if i % 9 = 8 then 0 else 2)                            -- TILE_STATE
  else if base = 0x400002c then Config.rowsUsed i % 256 * 2 ^ 16 + Config.colsUsed i % 16 * 2 ^ 4
  else if base = 0xa10004 then (i % 3) * 2 ^ 20                                         -- LNK_STATE.ROLE: position
  else if base = 0x200010 then 12000                                                    -- strap entry 0 (R242)
  else if base = 0x200020 then (12000 - 1000 * (2 * i + 1)) * 2 ^ 16 + (12000 - 1000 * (2 * i))
  else if base = 0x200070 then
    2 ^ ((4 * i + 3) / 2) * 2 ^ 24 + 2 ^ ((4 * i + 2) / 2) * 2 ^ 16 + 2 ^ ((4 * i + 1) / 2) * 2 ^ 8 + 2 ^ (4 * i / 2)
  else if base = 0x301000 then (if i = 0 then 0x7E else if i ≤ 2 then i - 1 else 0x7F)  -- SEQ_RAIL_PAR.P0 (R326)
  else if base = 0x301004 then (if i ≤ 2 then 5 else 10) * 2 ^ 24
  else if base = 0x301008 then (if i ≤ 2 then 2 ^ 31 else 0)
  else if base = 0x601000 then                                                          -- CQ_CFG (R470)
    (if i ≤ 2 ∨ 4 ≤ i ∧ i ≤ 7 then 2 ^ 31 else 0) + (if i ≤ 2 then 2 ^ 30 else 0) + (if i = 4 then 2 ^ 29 else 0) +
      (match i with
        | 0 => 6 | 1 => 3 | 2 => 4 | 4 => 5 | 5 => 7 | 6 => 3 | 7 => 4 | _ => 0) * 2 ^ 24
  else if base = 0x300010 then 5 * 2 ^ 8                                               -- ILIM_START, HSWSEL 0 (R322)
  else if base = 0x300014 then 50 * 2 ^ 16                                              -- SOA_E, HSWSEL 0
  else if base = 0x500004 then Config.refTrim.toNat
  else if base = 0x901000 then (if i = 0 then 2 ^ 31 + 2 ^ 30 else 0)
  else 0

/-- The reset word of the register at byte address `a`; an address with no register reads 0 (R10). -/
def regReset (a : Nat) : Word :=
  match regDefAt a with
  | some r => BitVec.ofNat 32 (r.rst + resetExtra r.base (r.idx a))
  | none => 0

end Sys2Proof.Machine
end

