-- ==== Sys2Proof/Machine/Table.lean ====
section
/-! DEFINITION. Sparse tables: a list of (key, value) pairs in one canonical form (keys strictly rising, no entry equal
to what an unlisted key reads as). Registers, memory and every indexed piece of state are held in one of these. -/

namespace Sys2Proof.Machine

variable {α : Type}

/-- The value at key `k`; an unlisted key reads as `d k`. -/
def tget (d : Nat → α) : List (Nat × α) → Nat → α
  | [], k => d k
  | (a, v) :: l, k => if k = a then v else tget d l k

/-- Drop every entry of key `k`. -/
def tdel : List (Nat × α) → Nat → List (Nat × α)
  | [], _ => []
  | (a, v) :: l, k => if k = a then tdel l k else (a, v) :: tdel l k

/-- Insert an entry before the first larger key. -/
def tins : List (Nat × α) → Nat → α → List (Nat × α)
  | [], k, v => [(k, v)]
  | (a, w) :: l, k, v => if k < a then (k, v) :: (a, w) :: l else (a, w) :: tins l k v

/-- Write `v` at `k`, keeping the canonical form: writing the default removes the entry. -/
def tset [DecidableEq α] (d : Nat → α) (l : List (Nat × α)) (k : Nat) (v : α) : List (Nat × α) :=
  if v = d k then tdel l k else tins (tdel l k) k v

/-- Keys strictly above `lo`, strictly rising, and no entry equal to its default. -/
def twfFrom [DecidableEq α] (d : Nat → α) : Nat → List (Nat × α) → Bool
  | _, [] => true
  | lo, (a, v) :: l => decide (lo ≤ a) && !decide (v = d a) && twfFrom d (a + 1) l

/-- The canonical form. -/
def twf [DecidableEq α] (d : Nat → α) (l : List (Nat × α)) : Bool := twfFrom d 0 l

end Sys2Proof.Machine
end

