-- ==== Sys2Proof/Machine/State.lean ====
section
/-! DEFINITION. The state of the machine: every register of W0 in one table (`regs`), the byte memories, and per block the
state the spec gives it that no register holds. Plain data. -/

namespace Sys2Proof.Machine

/-- What the machine puts out, newest first: the model's own record of every output the spec names. -/
inductive Out where
  /-- Data returned to a reader, and whether it is flagged poisoned. -/
  | data (v : BitVec 64) (poisoned : Bool)
  /-- An MSI-X message (R437). -/
  | msix (v : Nat)
  /-- A data flit put on a link: link, opcode, payload. -/
  | flit (link vc op : Nat) (pay : Payload)
  /-- A link-control flit on a link: link, type, fields. -/
  | lct (link ty : Nat) (fields : List Nat)
  /-- A pin driven to a level: group, index, level. -/
  | pin (grp : String) (i : Nat) (level : Bool)
  /-- A trace-port unit (R481). -/
  | trace (bytes : List Byte)
  /-- A mailbox reply on a message transport (4 VDM, 5 SMBus): the packet of R441, header and payload. -/
  | reply (ch : Nat) (pkt : List Byte)
  /-- A message on another transport: kind, channel, bytes. -/
  | msg (kind : String) (ch : Nat) (bytes : List Byte)
  /-- A two-wire transaction started on a segment: segment, type, address, command, bytes written. -/
  | twoWire (seg ty addr cmd : Nat) (wr : List Byte)
  /-- An AVSBus frame sent: controller, command, data type, data. -/
  | avs (a cmd ty val : Nat)
  /-- A notice to a firmware core: core, code, argument. -/
  | notice (core : Nat) (code : String) (arg : Nat)
  deriving DecidableEq, Repr


/-- What the memory controller counts of one bank of the sync store or the commons (R375). Times are GTS. -/
structure Bank where
  /-- corrected errors, and those of each row; rows already remapped count again from there -/
  ce : List Nat := []
  rowCe : List (Nat × List Nat) := []
  /-- uncorrectable errors: row and time -/
  ue : List (Nat × Nat) := []
  /-- spare rows used, of four (R123) -/
  rowsUsed : Nat := 0
  deriving DecidableEq, Repr


/-- Memory protection (spec/01 R34 to R39, spec/11 R375 to R377). -/
structure EccSt where
  /-- key 64 × memory (2 commons, 3 sync store) + bank -/
  banks : List (Nat × Bank) := []
  /-- by memory: the bank its spare is mapped for (R376) -/
  spared : List (Nat × Option Nat) := []
  /-- commons banks tray firmware allocates nothing in (R377) -/
  comAvoid : Nat := 0
  /-- by word: data the recorder or a replay buffer delivers in place of its contents since an uncorrectable read (R35) -/
  raw : List (Nat × Option Nat) := []
  deriving DecidableEq, Repr

/-- The ensemble a tile's tree engine is configured with (R96, R97): addresses of the node words and the FP32 leaf values, the
root index and output index of each tree in tree order, the FP32 base score. -/
structure Ensemble where
  nodes : Nat
  leaves : Nat
  base : Nat
  trees : List (Nat × Nat)
  deriving DecidableEq, Repr

/-- One tile, beside its registers and SRAM. -/
structure Tile where
  /-- address of the sequencer's next instruction -/
  pc : Nat := 0
  /-- M, N and K of the next MMA -/
  m : Nat := 1
  n : Nat := 1
  k : Nat := 1
  /-- the four accumulator banks: key bank × 1024 + row × 32 + column -/
  acc : List (Nat × Word) := []
  /-- banks that hold INT32, as a mask, and the accumulators that hold poisoned values, keyed as `acc` -/
  accInt : Nat := 0
  accPois : List (Nat × Bool) := []
  ens : Option Ensemble := none
  /-- the seed the stochastic generators were loaded with, and the present state of each lane drawn from since (R71) -/
  seed : Nat := 0
  lanes : List (Nat × Nat) := []
  /-- numeric flags of the running invocation (R74) -/
  fl : Nat := 0
  /-- the running invocation consumed poisoned data (R101) -/
  pois : Bool := false
  /-- the tile's program has reached END in this invocation -/
  ended : Bool := false
  /-- signals raised to this tile and not yet waited for -/
  sig : Nat := 0
  /-- GTS at which the tile last became RUNNING -/
  runAt : Nat := 0
  /-- heartbeats, and the count seen by the last check that found the tile RUNNING (R121) -/
  hb : Nat := 0
  hbSeen : Option Nat := none
  /-- AONT of the corrected errors of each SRAM row (R123) -/
  rowCe : List (Nat × List Nat) := []
  deriving DecidableEq, Repr

/-- An I/O table entry of a loaded package (R105). -/
structure IoEnt where
  name : Nat
  fmt : Nat
  nctl : Nat
  elements : Nat
  off : Nat
  deriving DecidableEq, Repr

/-- One slot, beside its registers (R83, R104, R118 to R120). -/
structure Slot where
  /-- the package as loaded, and the worst class its requester accepts -/
  pkg : List Byte := []
  maxLc : Nat := 0
  /-- 0 free, 1 host, 2 firmware, 3 Orotha (R457) -/
  owner : Nat := 0
  /-- commons region (R99 window 0) and HBM region, base and size -/
  com : Nat × Nat := (0, 0)
  hbm : Nat × Nat := (0, 0)
  /-- HBM windows (R99), at most four -/
  hwin : List (Nat × Nat) := []
  /-- HBM address of logical tile 0's image, bytes of an image and of a checkpoint -/
  img : Nat := 0
  sram : Nat := 0
  st : Nat := 0
  /-- reserved HBM bandwidth, exact, in units of `bwUnit` (R109) -/
  bw : Nat := 0
  ins : List IoEnt := []
  outs : List IoEnt := []
  /-- GTS of the trigger of the running invocation, and whether it was explicit -/
  trig : Nat := 0
  explicit : Bool := false
  /-- an explicit trigger is pending (R118) -/
  pend : Bool := false
  /-- GTS of the pending trigger's arrival -/
  pendAt : Nat := 0
  /-- instant of the last timer tick taken -/
  tick : Option Nat := none
  /-- SEQ of the last commit -/
  seq : Nat := 0
  /-- the running invocation was aborted by a CCC reset and is run again after it (R389) -/
  rerun : Bool := false
  /-- the running invocation is such a re-run, after a takeover or a CCC restart (R305, R316) -/
  again : Bool := false
  /-- a takeover reseeded a tile since the load (R126) -/
  reseeded : Bool := false
  deriving DecidableEq, Repr

/-- A load request waiting in staging (R111): its package, what the request names, whom the reply goes to, and the slot it
places again (R127). -/
structure LoadReq where
  entry : Option Nat
  pkg : List Byte
  /-- 0 GENERAL, 1 ACTIVE, 2 SHADOW, 3 TRAIN -/
  role : Nat
  maxLc : Nat
  /-- MODEL_ID of the base policy a TRAIN request names (R302) -/
  baseId : List Byte
  /-- the operator's signature is missing or fails (R314) -/
  denied : Bool
  owner : Nat
  /-- the accepted request's number -/
  id : Option Nat
  replaces : Option Nat
  /-- a derived package built by PMC (R303) -/
  derived : Bool
  deriving DecidableEq, Repr

/-- A package staging entry (R100, R457): the size announced; `loading`: a load request holds it. -/
structure Staging where
  total : Nat
  loading : Bool
  deriving DecidableEq, Repr


/-- State of block arr that no register holds. -/
structure ArrSt where
  /-- the 72 tiles -/
  tiles : List (Nat × Tile) := []
  /-- the 32 slots -/
  slots : List (Nat × Slot) := []
  /-- load requests waiting, oldest first -/
  loads : List LoadReq := []
  /-- the four staging entries -/
  staging : List (Nat × Option Staging) := []
  /-- tile faults raised while the CCC of their cluster was down: tile, whether the reserve's self-test passes -/
  faults : List (Nat × Bool) := []
  /-- AONT of each reserve's last self-test, by cluster (R122) -/
  bistAt : List (Nat × Nat) := []
  deriving DecidableEq, Repr

/-- A data flit: virtual channel, TYPE, payload, and for RED the role whose link the Board chose (0 primary, 1 secondary). -/
structure Flit where
  vc : Nat
  ty : Nat
  pay : Payload
  role : Nat := 0
  /-- a result train's instance: context × 2^16 + INST + 1; 0 for every other flit -/
  tag : Nat := 0
  deriving DecidableEq, Repr

/-- A flit in a replay buffer: its sequence number, how often it was sent, when it was last sent (R148, R149). -/
structure Sent where
  seq : Nat
  times : Nat
  at' : Nat
  f : Flit
  deriving DecidableEq, Repr

/-- One link (R133 to R154), beside its registers. -/
structure Link where
  /-- GTS at which the present training state was entered -/
  since : Nat := 0
  /-- unacknowledged flits, oldest first (at most 64) -/
  replay : List Sent := []
  /-- next sequence number expected from the peer -/
  rxNext : Nat := 0
  /-- a NAK is out and REPLAY_MARK is awaited; GTS of the NAK -/
  nakAt : Option Nat := none
  /-- credits held for sending, per VC -/
  cred : List Nat := [0, 0, 0, 0]
  /-- flits in the receive buffers -/
  rx : List Flit := []
  /-- credits to return, per VC -/
  ret : List Nat := [0, 0, 0, 0]
  /-- the sequence number last NAKed and how often in a row -/
  sameSeq : Nat × Nat := (0, 0)
  /-- the 100 µs window replays are counted in, and the count -/
  rate : Nat × Nat := (0, 0)
  /-- consecutive bad frames -/
  badFrames : Nat := 0
  /-- the link has been trained since cold reset -/
  trained : Bool := false
  /-- the last DETECT ended with NO_ENDPOINT -/
  noEp : Bool := false
  /-- a data flit has been accepted since training -/
  rxAny : Bool := false
  /-- the last RESULT flit put on the link was inside a train -/
  txOpen : Bool := false
  deriving DecidableEq, Repr

/-- A failed role-holding link whose flits wait for the peer's RXSEQ (R155). -/
structure Failed where
  pos : Nat
  role : Nat
  /-- the frozen replay buffer -/
  frozen : List Sent
  /-- the last data flit accepted on it -/
  rxLast : Option Nat
  /-- GTS of the last ROLE FAILED sent -/
  sentAt : Nat
  /-- a result train was open on the link -/
  midTrain : Bool := false
  /-- the resend of step 3 is done -/
  done : Bool := false
  deriving DecidableEq, Repr

/-- The link service of one accelerator. -/
structure AccVl where
  /-- data flits waiting to be sent, oldest first -/
  txq : List Flit := []
  /-- failed links whose resend is not done -/
  failed : List Failed := []
  /-- the reserve being woken: position and the role it is to take (R155 steps 4 to 6) -/
  wake : Option (Nat × Nat) := none
  /-- the mode is LOST (R157) until a link is ACTIVE or HELD applies -/
  lost : Bool := false
  /-- all three links ended DETECT with NO_ENDPOINT (R165) -/
  sideband : Bool := false
  /-- PRSNT#_a is asserted -/
  present : Bool := false
  /-- GTS was set to 0 since the endpoint's copy was last synchronised (R160) -/
  restart : Bool := true
  /-- the pairing exchange waits for PAIR_RSP: since when, and requests repeated (R162) -/
  pairWait : Option (Nat × Nat) := none
  /-- GTS of the last TSYNC, and its send count once acknowledged (R158) -/
  t1 : Nat := 0
  tsAcked : Option Nat := none
  /-- how often the exchange's TSYNC was sent, once TSYNC_FOLLOW has carried it; 0: no exchange to judge (R159) -/
  tsSent : Nat := 0
  deriving DecidableEq, Repr


/-- State of block vl that no register holds. -/
structure VlSt where
  /-- the 24 links -/
  links : List (Nat × Link) := []
  /-- the link service of the eight accelerators -/
  accs : List (Nat × AccVl) := []
  deriving DecidableEq, Repr

/-- One sync object (R167, R173). WAITERS is shown from the waiter table. -/
structure Obj where
  group : Nat := 0
  gen : Nat := 0
  trk : Bool := false
  ovf : Bool := false
  /-- 0 FREE, 1 COUNTER, 2 BARRIER, 3 SEMAPHORE, 4 EVENT, 5 TICKET -/
  ty : Nat := 0
  word1 : Nat := 0
  value : Nat := 0
  /-- poison flags of its two 64-bit words -/
  poison : Nat := 0
  deriving DecidableEq, Repr

/-- One parked waiter (R180). `operand`: the epoch joined or the ticket taken, for an operation with W. -/
structure Waiter where
  src : Nat
  tag : Nat
  handle : Nat
  op : Nat
  cond : Nat
  operand : Nat
  deadline : Nat
  deriving DecidableEq, Repr


/-- State of block sob that no register holds. -/
structure SobSt where
  /-- the 65,536 objects -/
  objs : List (Nat × Obj) := []
  /-- the waiter table, in parking order -/
  waiters : List Waiter := []
  /-- indexes below this one have been allocated since the store was last cleared -/
  fresh : Nat := 0
  /-- freed indexes, the one freed longest ago first (R169) -/
  freed : List Nat := []
  /-- banks SCH allocates nothing in (R377) -/
  avoid : Nat := 0
  /-- the window's latch: object and bytes 4 to 15 (R199) -/
  winLatch : Option (Nat × Nat) := none
  deriving DecidableEq, Repr

/-- An open train on a link (R209): what its header named, and the data flits received. `refused`: its flits are discarded. -/
structure Train where
  ctx : Nat
  inst : Nat
  member : Nat
  off : Nat
  nfl : Nat
  got : Nat := 0
  refused : Bool := false
  deriving DecidableEq, Repr

/-- One instance buffer (R213). -/
structure BInst where
  /-- GTS at which the instance opened -/
  openAt : Option Nat := none
  /-- per member: the 16-byte units its trains have named, as a bit mask -/
  claimed : List (Nat × Nat) := []
  /-- per member: units written -/
  recv : List (Nat × Nat) := []
  /-- members whose image is complete -/
  done : Nat := 0
  /-- GTS at which the instance completed -/
  complete : Option Nat := none
  reduced : Bool := false
  finished : Bool := false
  deriving DecidableEq, Repr

/-- One context's instances: the current one and the next. `deleting`: the context is freed once no instance remains. -/
structure BCtx where
  cur : BInst := {}
  next : BInst := {}
  deleting : Bool := false
  deriving DecidableEq, Repr


/-- State of block brd that no register holds. -/
structure BrdSt where
  /-- the 256 contexts -/
  ctxs : List (Nat × BCtx) := []
  /-- the open train of each link, towards the S960 -/
  trains : List (Nat × Option Train) := []
  /-- per link: the failed link whose open train its RED flits continue (R212) -/
  redir : List (Nat × Option Nat) := []
  deriving DecidableEq, Repr

/-- Where a P-state change stands (R253). -/
inductive DvfsPhase where
  /-- a raise waits for the AVSBus acknowledge of this voltage -/
  | volt (mv : Nat)
  /-- a raise waits for the settle time to end -/
  | settle (till : Nat)
  /-- PSTATE_SET is sent and its acknowledgement awaited -/
  | sent (at' retries seq : Nat)
  /-- a lowering is acknowledged and its voltage write awaited -/
  | lower
  deriving DecidableEq, Repr

/-- The P-state change in flight of one accelerator (R253, R255). `lim`: the limiter commanded it (R248). -/
structure Change where
  target : Nat
  raise : Bool
  lim : Bool
  phase : DvfsPhase
  deriving DecidableEq, Repr

/-- Droop response of one accelerator (R260). -/
inductive Droop where
  | none | clear (till : Nat) | hold (till : Nat)
  deriving DecidableEq, Repr

/-- Power control of one accelerator, beside its registers. -/
structure AccPwr where
  /-- next SEQ of the PWR channel (0 to 254) -/
  seq : Nat := 0
  change : Option Change := none
  pending : Option Nat := none
  /-- the pending target is reached in single steps (R276) -/
  stepped : Bool := false
  droop : Droop := .none
  /-- the last ten current samples, newest first, mA (R258) -/
  hist : List Int := []
  /-- limiter CHECK of a sideband accelerator (R278) -/
  limCheck : Bool := false
  /-- sums over the window in progress: µW samples, replaced samples -/
  winSum : Int := 0
  winStale : Nat := 0
  /-- P-state clamps or steps in the window in progress (R247) -/
  clamped : Bool := false
  /-- clamp of the staged budget by an EMERGENCY cap (R274) -/
  emergClamp : Option Nat := none
  /-- sideband limit write: due, last written, retry deadline (R279) -/
  sbDue : Bool := false
  sbLast : Nat := 0
  sbRetry : Option Nat := none
  /-- budget host software set, and the maximum host software set (R245, R454) -/
  static : Option Nat := none
  maxW : Option Nat := none
  /-- frame energies in 10^-13 J: work, filler (R284) -/
  work : Int := 0
  filler : Int := 0
  deriving DecidableEq, Repr

/-- A fast channel (R240, R241, R380): IFAST_0 to 7, IBUS 8, VBUS 9. -/
structure FastCh where
  /-- previous good value: mA, or mV for VBUS -/
  good : Int := 0
  stale : Nat := 0
  staleWins : Nat := 0
  edge : Nat := 0
  failed : Bool := false
  /-- the substitution of R380 is in force -/
  subst : Bool := false
  deriving DecidableEq, Repr

/-- A running estimate: `num / 4^sh`, so that adding a quarter of a difference stays exact (R271). -/
structure Est where
  num : Int
  sh : Nat
  deriving DecidableEq, Repr

/-- History of the intervals that end at one tracked collective of a group (R271). Times in ns. -/
structure Interval where
  /-- T̂ and Ŝ, by member -/
  t : List (Nat × Est) := []
  s : List (Nat × Est) := []
  i : Option Est := none
  /-- the collective that ended the interval this one's release opened -/
  next : Option Nat := none
  deriving DecidableEq, Repr

/-- Arbiter state of one group (R271 to R277). A collective is numbered by its handle, or 2^32 + context. -/
structure ArbGrp where
  /-- the release that opened the present interval: collective and GTS -/
  opened : Option (Nat × Nat) := none
  /-- arrival of each member in the present interval -/
  arrive : List (Nat × Nat) := []
  /-- history, by collective -/
  hist : List (Nat × Interval) := []
  /-- earliest staging that awaits a boundary -/
  stagedAt : Option Nat := none
  /-- GTS of the last release -/
  released : Nat := 0
  /-- members ramped down in this interval -/
  down : List Nat := []
  /-- GTS at which the ramp back is complete -/
  rampEnd : Option Nat := none
  /-- GTS at which the guardband was raised -/
  gbAt : Option Nat := none
  deriving DecidableEq, Repr

/-- One chess clock (R283 to R286). Energies in 10^-13 J. -/
structure Clock where
  /-- 0 FREE, 1 OPEN, 2 CLOSED -/
  st : Nat := 0
  jobId : List Byte := []
  /-- bound pairs (accelerator, queue) -/
  pairs : List (Nat × Nat) := []
  work : List Int := [0, 0, 0, 0, 0, 0, 0, 0]
  filler : List Int := [0, 0, 0, 0, 0, 0, 0, 0]
  ovh : Int := 0
  tokens : Nat := 0
  startGts : Nat := 0
  endGts : Nat := 0
  /-- an emergency state was set, or a substituted sample used, during the interval -/
  emerg : Bool := false
  badCal : Bool := false
  deriving DecidableEq, Repr

/-- A clock request waiting for the next frame boundary (R283). -/
inductive ClkOp where
  | open (jobId : List Byte)
  | bind (ctx mask : Nat)
  | unbind (ctx mask : Nat)
  | close (ctx : Nat)
  | free (ctx : Nat)
  deriving DecidableEq, Repr

/-- The energies of a frame that has ended and is not attributed yet, 10^-13 J: per accelerator work and filler, the tray
overhead; `sub`: a substituted sample was used (R284, R380). -/
structure FrameDone where
  k : Nat
  accs : List (Int × Int)
  ovh : Int
  sub : Bool
  deriving DecidableEq, Repr


/-- State of block pwr that no register holds. -/
structure PwrSt where
  /-- the eight accelerators -/
  accs : List (Nat × AccPwr) := []
  /-- the ten fast channels -/
  fast : List (Nat × FastCh) := []
  /-- samples in the limiter window in progress -/
  winN : Nat := 0
  /-- GTS of the first sample of the limiter window in progress (R248) -/
  winFrom : Nat := 0
  /-- tray power sum of the window, µW samples -/
  busSum : Int := 0
  /-- VRALERT#_k filtered levels, 1 = active -/
  vrIn : Nat := 0
  /-- overcurrent comparator levels -/
  ocIn : Nat := 0
  /-- THERMTRIP#_a filtered levels, 1 = active -/
  ttIn : Nat := 0
  /-- AONT since when each trigger is inactive (0 to 15 VRALERT, 16 to 23 overcurrent) -/
  inactSince : List (Nat × Nat) := []
  /-- COOL_FAIL# is low after its filter -/
  coolFail : Bool := false
  /-- AONT at which MATE's power-down starts -/
  mateDown : Option Nat := none
  /-- CHECK held on every accelerator since CHK_OK cleared (R382) -/
  chkHold : Bool := false
  /-- an EMERGENCY cap is in force (R281) -/
  capEmerg : Bool := false
  /-- a NORMAL cap's budgets have not been applied yet -/
  stagedCap : Bool := false
  /-- GTS of the last limiter step (R281) -/
  limStep : Option Nat := none
  /-- AONT since when every emergency state is clear -/
  clearSince : Nat := 0
  /-- the arbiter's groups -/
  groups : List (Nat × ArbGrp) := []
  /-- the 4,096 chess clocks -/
  clocks : List (Nat × Clock) := []
  /-- clock requests waiting for the frame boundary, oldest first, by the held request's number -/
  clkOps : List (Nat × ClkOp) := []
  /-- PWC_CLK_UNBOUND, 10^-13 J -/
  unbound : Int := 0
  /-- tray overhead energy of the frame -/
  frameOver : Int := 0
  /-- the frame the samples are summed in -/
  frameNow : Nat := 0
  /-- frames ended and not attributed yet, oldest first -/
  done : List FrameDone := []
  /-- number of the next frame to be attributed -/
  frame : Nat := 0
  /-- AONT since when VBUS samples are below UV_WARN (R318) -/
  uvSince : Option Nat := none
  /-- AONT since when VBUS samples are below UV_FAULT -/
  uvfSince : Option Nat := none
  /-- AONT since when VBUS samples are at or above START -/
  startSince : Option Nat := none
  deriving DecidableEq, Repr

/-- One accelerator's measurements of the frame in progress or of the last one (R291). Powers in µW samples. -/
structure FrmAcc where
  sum : Int := 0
  peak : Int := 0
  stale : Bool := false
  deriving DecidableEq, Repr

/-- What the frame in progress has gathered from the fast samples (R291). -/
structure Frm where
  n : Nat := 0
  vbus : Int := 0
  ibus : Int := 0
  accs : List (Nat × FrmAcc) := []
  /-- PWC_EMERG.STATE at any point of the frame -/
  emerg : Nat := 0
  deriving DecidableEq, Repr

/-- The commit of a policy slot for tick m (R295, R305): tick, valid, excused, and the four outputs' codes by accelerator. -/
structure Pred where
  m : Nat
  valid : Bool
  excused : Bool
  phase : List Nat
  demand : List Nat
  demandHi : List Nat
  weight : List Nat
  deriving DecidableEq, Repr

/-- The horizon of a tick, from its frame records (R305): per accelerator the sum of MEAN_W, the accelerators not counted,
whether any record had EMERG. -/
structure Horizon where
  m : Nat := 0
  n : Nat := 0
  sums : List (Nat × Nat) := []
  bad : Nat := 0
  emerg : Bool := false
  deriving DecidableEq, Repr

/-- Error sums of one held-out segment (R305, R307): 100 times each error, in 2^-149 W. -/
structure SegErr where
  j : Nat
  a : Nat := 0
  s : Nat := 0
  b : Nat := 0
  deriving DecidableEq, Repr


/-- State of block oro that no register holds. -/
structure OroSt where
  /-- the frame in progress -/
  frm : Frm := {}
  /-- the last frame recorded, plus one -/
  nextRec : Nat := 0
  /-- frames ended and not yet recorded: number, record without the TLM payloads -/
  closed : List (Nat × List Byte) := []
  /-- accepted TLM flits: key frame × 8 + accelerator (R290) -/
  tlm : List (Nat × Option Payload) := []
  /-- the horizon in progress -/
  hor : Horizon := {}
  /-- the last whole horizon: the baseline's measure -/
  last : Horizon := {}
  /-- ACTIVE's last commit -/
  act : Option Pred := none
  /-- SHADOW's last commit -/
  sha : Option Pred := none
  /-- held-out segments of the evaluation window, oldest first -/
  segs : List SegErr := []
  /-- GTS of the SHADOW commit or its last violation (R306) -/
  cleanAt : Nat := 0
  /-- GTS of the SHADOW commit -/
  shadowAt : Nat := 0
  /-- GTS at which the evaluation window last started again (R307, R313) -/
  winAt : Nat := 0
  /-- a candidate load is deferred (R304) -/
  loadDefer : Bool := false
  /-- the held-out segments below this one are evaluated -/
  gateSeg : Nat := 0
  /-- ACTIVE invocations invalid in a row (R310) -/
  invalid : Nat := 0
  /-- Orotha is in FALLBACK -/
  fallback : Bool := false
  /-- a policy has been ACTIVE since ORO_EN was set -/
  started : Bool := false
  /-- a promotion is decided and not yet switched (R309) -/
  promote : Bool := false
  /-- GTS at which RETAINED is retired -/
  retUntil : Option Nat := none
  /-- tray cap at the last submission (R298) -/
  subCap : Option Nat := none
  /-- the SHADOW was loaded by an operator (R315) -/
  opShadow : Bool := false
  /-- MODEL_ID of the base policy of the TRAIN slot (R302) -/
  trainBase : List Byte := []
  /-- instant of the tick the switch takes place at -/
  promoteAt : Nat := 0
  /-- last candidate serial (R303) -/
  serial : Option Nat := none
  /-- candidate waiting: section-set tag, weight bytes, CRC -/
  cand : Option (Nat × Nat × Nat) := none
  /-- replay block being written: ring index, first frame, frames written -/
  blk : Option (Nat × Nat × Nat) := none
  /-- ring index of the next replay block -/
  blkNext : Nat := 0
  /-- SAMPLE_MS boundaries below this one are taken -/
  blkBoundary : Nat := 0
  /-- size of the replay buffer -/
  replayMib : Nat := 2048
  /-- policy ticks below this one have their input copied -/
  copied : Nat := 0
  /-- a TRAIN load that found no room and is requested again (R312) -/
  trainReq : Option LoadReq := none
  deriving DecidableEq, Repr

/-- One rail channel, beside its registers (R325 to R337). Times on AONT. -/
structure Rail where
  /-- when the rail was enabled (E of R332), entered its present state, and last became good in QUAL -/
  enAt : Nat := 0
  since : Nat := 0
  goodAt : Nat := 0
  /-- consecutive ADC observations that differ from the deglitched level (R330) -/
  adcRun : Nat := 0
  deriving DecidableEq, Repr


/-- State of block seq that no register holds. -/
structure SeqSt where
  /-- the 96 rails -/
  rails : List (Nat × Rail) := []
  /-- AONT at which each reset output was asserted -/
  rstAt : List (Nat × Nat) := []
  /-- AONT of the last edge of each PRSNT#_a -/
  prsntAt : List (Nat × Nat) := []
  /-- the undervoltage hold is in force (R323) -/
  uvHold : Bool := false
  /-- domains held without AUTO_RESTORE: they wait for their request to be cleared and set again -/
  uvBlock : Nat := 0
  /-- AONT since when VBUS samples are above UV_FAULT + 1 V -/
  uvAbove : Option Nat := none
  /-- AONT at which the hot-swap controller entered its present state -/
  hswAt : Nat := 0
  /-- the next START is a restart (R321) -/
  restartDue : Bool := false
  /-- restarts, newest first: the AONT at which each is 60 s old -/
  restarts : List Nat := []
  /-- E of R320, pJ -/
  soaE : Nat := 0
  /-- microseconds E has decayed since it was last halved -/
  decayUs : Nat := 0
  /-- a cold reset's power-down is in progress -/
  coldDown : Bool := false
  /-- AONT at which a cold reset turned the FET off -/
  coldOff : Option Nat := none
  /-- failures of self rails since domain 0 was first tried -/
  selfFails : Nat := 0
  /-- AONT at which domain 0 is tried again (R326) -/
  selfRetry : Option Nat := none
  /-- VIN is above the bring-up threshold -/
  vinUp : Bool := false
  /-- 0 the crystal is starting, 1 it runs the AON island, 2 the island stays on the RC oscillator -/
  xtal : Nat := 0
  /-- AONT at which the AON island started -/
  xtalAt : Nat := 0
  deriving DecidableEq, Repr

/-- A measurement window of a fan (R346): its start, the first edge after SETTLE, current samples since SETTLE. -/
structure FanWin where
  start : Nat
  edge : Option Nat := none
  iSum : Nat := 0
  iN : Nat := 0
  deriving DecidableEq, Repr

/-- One fan channel, beside its registers (R345 to R358). Times on AONT. -/
structure Fan where
  since : Nat := 0
  win : Option FanWin := none
  /-- periods below this one have had their window -/
  nextK : Nat := 0
  /-- last tach edge in KICK -/
  lastEdge : Option Nat := none
  /-- current samples of the present kick, newest first: AONT, mA (R348) -/
  kickI : List (Nat × Nat) := []
  /-- consecutive low measurements; in OPENLOOP, good ones and windows in the OPEN or STALL range -/
  low : Nat := 0
  good : Nat := 0
  bad : Nat := 0
  /-- consecutive measurements near the target, or near REF_RPM in commissioning (R357, R358) -/
  near : Nat := 0
  /-- a kick that belongs to a self-test; tests of earlier periods are taken or skipped -/
  testing : Bool := false
  testK : Nat := 0
  /-- commissioning: I_NOM is measured; samples of the last second; I_NOM before -/
  commLoop : Bool := false
  commSum : Nat := 0
  commN : Nat := 0
  commOld : Nat := 0
  /-- the accepted request that asked for it (R456) -/
  commId : Option Nat := none
  deriving DecidableEq, Repr

/-- One pump (R359). -/
structure Pump where
  low : Nat := 0
  graceAt : Nat := 0
  nextK : Nat := 0
  deriving DecidableEq, Repr

/-- One flow window of a loop (R360): edges, pressure samples. -/
structure LoopWin where
  edges : Nat := 0
  pSum : Nat := 0
  pN : Nat := 0
  deriving DecidableEq, Repr

/-- One coolant loop (R360 to R362). -/
structure CLoop where
  wins : List (Nat × LoopWin) := []
  nextK : Nat := 0
  fails : Nat := 0
  lastFail : Bool := false
  grace : Option Nat := none
  deriving DecidableEq, Repr

/-- One leak zone: the class last reported and how often in a row (R364). -/
structure LeakZ where
  cls : Nat := 0
  run : Nat := 0
  deriving DecidableEq, Repr

/-- One remote-diode input (R365). -/
structure Td where
  hot : Bool := false
  above : Nat := 0
  below : Nat := 0
  deriving DecidableEq, Repr


/-- State of block cool that no register holds. -/
structure CoolSt where
  /-- the 18 fan channels -/
  fans : List (Nat × Fan) := []
  /-- the four pumps -/
  pumps : List (Nat × Pump) := []
  /-- the four coolant loops -/
  loops : List (Nat × CLoop) := []
  /-- the sixteen leak zones -/
  leaks : List (Nat × LeakZ) := []
  /-- the 32 remote-diode inputs -/
  tds : List (Nat × Td) := []
  /-- AONT at which MODE was last written -/
  modeAt : Nat := 0
  /-- PMC's watchdog expired in TEST or RECOVERY since MODE was last written (R367) -/
  wdogIn : Bool := false
  deriving DecidableEq, Repr

/-- A firmware core: 0 SEC, 1 PMC, 2 SCH, 3 to 10 CCC_0 to CCC_7 (R385, R386). Times on AONT. -/
structure Core where
  /-- its firmware runs -/
  up : Bool := false
  /-- it is released from reset and its watchdog runs -/
  released : Bool := false
  relAt : Nat := 0
  /-- last kick since release -/
  kickAt : Option Nat := none
  /-- watchdog period, ns, set with the first kick -/
  period : Nat := 0
  /-- expiries, newest first -/
  expiries : List Nat := []
  failed : Bool := false
  /-- its restart waits for SEC to restart -/
  waitSec : Bool := false
  deriving DecidableEq, Repr


/-- State of block flt that no register holds. -/
structure FltSt where
  /-- the Endgame machine keeps the floor -/
  endgame : Bool := false
  /-- AONT of its entry -/
  endAt : Nat := 0
  /-- cause of its entry: 1 CORES, 2 NO_BUNDLE, 3 SELF_RAIL -/
  endCause : Nat := 0
  /-- the automatic exit is still to be tried (R395) -/
  endAuto : Bool := false
  /-- the cold reset that began this boot was an Endgame exit -/
  endBoot : Bool := false
  /-- the eleven cores -/
  cores : List (Nat × Core) := []
  /-- consecutive scans a converter was suspect; 4 is the spare (R381) -/
  convSuspect : List (Nat × Nat) := []
  /-- mux channels whose next sample is stale (R19) -/
  chStale : List (Nat × Bool) := []
  /-- HBM rows under soft repair, newest first (R378) -/
  hbmRows : List Nat := []
  deriving DecidableEq, Repr

/-- An open update session (R416). -/
structure Session where
  target : Nat
  /-- the accepted UPDATE_BEGIN's number, until its completion -/
  id : Option Nat
  /-- cancelled while the erase runs: the session ends with the erase -/
  closing : Bool := false
  /-- GTS of its last request, and bytes of the bundle programmed so far (PROGRESS) -/
  at' : Nat
  wrote : Nat := 0
  deriving DecidableEq, Repr

/-- A model-signing key record of the enrolment area (R430). -/
structure ModelKey where
  seq : Nat
  signer : Nat
  anyDevice : Bool
  key : List Byte
  revoked : Bool
  deriving DecidableEq, Repr

/-- The retention record of deep sleep (R424): the tag record and the slot; `valid`: RETAIN_VALID. -/
structure Retain where
  valid : Bool := false
  tag : List Byte := []
  slot : Nat := 0
  deriving DecidableEq, Repr

/-- The bundle that runs (R413): its slot, its header and manifest, and its tag record. -/
structure Running where
  slot : Nat
  head : List Byte
  man : List Byte
  tag : List Byte
  /-- what CDI_1 was derived from (R401); its last 16 bytes are CONFIG_STATE -/
  cdi : List Byte := []
  deriving DecidableEq, Repr


/-- Resets, boot, update and trust (spec/01 R42 to R50, spec/12). -/
structure BootSt where
  /-- OWNER_KEY_HASH_1 to 3 as fused since manufacture (R400) -/
  ownerHash : List (Nat × Option (BitVec 384)) := []
  /-- OWNER_REVOKE -/
  revoke : Nat := 0
  /-- the fused SVN -/
  svn : Nat := 0
  /-- the enrolment area's model-signing keys -/
  modelKeys : List (Nat × Option ModelKey) := []
  /-- those found valid, as a mask -/
  modelOk : Nat := 0
  /-- a debug token is recorded for the next cold boot (R432) -/
  dbgTok : Bool := false
  /-- FLASH_WP# (R399) -/
  wpHigh : Bool := false
  /-- the boot ROM has still to make: 0 none, 1 cold, 2 warm, 3 core-power restart; a reset is in progress until then -/
  due : Nat := 0
  /-- AONT at which it became due -/
  dueAt : Nat := 0
  /-- causes of the cold or warm reset requested and not yet carried out, as GLB_RESET_CAUSE bits -/
  causes : Nat := 0
  /-- a cold reset is requested -/
  coldReq : Bool := false
  /-- a warm reset is requested -/
  warmReq : Bool := false
  /-- a cold request waits for a power-down sequence to end (R44) -/
  deferred : Bool := false
  /-- core power has been lost since the last start (R46) -/
  coreLost : Bool := false
  /-- CAPSEL_2 to CAPSEL_0 as sampled (R242) -/
  capsel : Nat := 0
  /-- HSWSEL_1 and HSWSEL_0 as sampled (R322) -/
  hswsel : Nat := 0
  /-- GOLDEN# was low at the strap sample -/
  goldStrap : Bool := false
  /-- MFG_TEST# was low at the strap sample -/
  mfgTest : Bool := false
  /-- the cold reset in progress is the GOLDEN# exit (R395) -/
  forceG : Bool := false
  /-- the bundle that runs -/
  run : Option Running := none
  /-- digests of the rail and cooling tables in force (R414, R427) -/
  railDig : List Byte := []
  coolDig : List Byte := []
  /-- the update session -/
  sess : Option Session := none
  /-- the slot whose activation is held (R419) -/
  heldAct : Option Nat := none
  /-- AONT at which SCH first served group 0x00xx in this boot -/
  served : Option Nat := none
  /-- a core's watchdog has expired since then (R420) -/
  wdogSeen : Bool := false
  /-- STMT_COUNT (R428) -/
  stmtCount : Nat := 0
  /-- the retention record -/
  retain : Retain := {}
  /-- deep sleep -/
  asleep : Bool := false
  /-- core debug is open in this boot (R400) -/
  debugOpen : Bool := false
  /-- the tray bus fell below the bring-up-off threshold since the last power-on reset (R49) -/
  fellUv : Bool := false
  /-- a core other than SEC has failed in this trial (R420) -/
  trialFail : Bool := false
  deriving DecidableEq, Repr

/-- A request taken and not yet replied to (R440, R446): its channel, opcode, tag, the reply's minor version and whether it
carries a CRC, and GTS of its doorbell. -/
structure Held where
  id : Nat
  ch : Nat
  op : Nat
  tag : Nat
  minor : Nat
  crc : Bool
  at' : Nat
  deriving DecidableEq, Repr

/-- An accepted request whose completion is not committed yet (R444). -/
structure Outst where
  id : Nat
  xport : Nat
  op : Nat
  tag : Nat
  minor : Nat
  crc : Bool
  deriving DecidableEq, Repr


/-- State of block mbx that no register holds. -/
structure MbxSt where
  /-- requests taken and not yet replied to -/
  held : List Held := []
  /-- accepted requests (at most 16) -/
  outst : List Outst := []
  /-- number of the next held or accepted request (the model's own) -/
  nextId : Nat := 0
  /-- HOLDER of the lease (R451) -/
  holder : Nat := 0
  /-- GTS of the last heartbeat accepted -/
  leaseAt : Nat := 0
  /-- the 250 ms warning has been given since then -/
  warned : Bool := false
  /-- the newest nonce of each transport and when it was issued (R461) -/
  nonces : List (Nat × Option (Nat × List Byte)) := []
  /-- MCTP endpoint IDs of channels 4 and 5 (R438) -/
  eid : List (Nat × Nat) := []
  /-- SET_ZONE_FLOOR percentages (R456) -/
  zoneFloor : List (Nat × Nat) := []
  deriving DecidableEq, Repr

/-- One line of a capture queue (R471): its tag, its 32 bytes, its ring slot and how many of its bytes feed a bound CRC
context (R493). -/
structure CqLine where
  tag : Word
  bytes : List Byte
  slot : Nat
  feed : Nat
  deriving DecidableEq, Repr

/-- One capture queue (R469 to R479). -/
structure Cq where
  /-- lines already read and kept because the rewind mark stands before them -/
  past : List CqLine := []
  /-- visible lines, oldest first -/
  vis : List CqLine := []
  /-- stream: bytes of the line in progress -/
  cur : List Byte := []
  /-- stream: ITEM of the line in progress -/
  item : Nat := 0xF
  /-- stream: GAP of the line in progress -/
  curGap : Bool := false
  /-- packet: payload bytes of the open packet -/
  pkt : Option (List Byte) := none
  /-- packet: the open packet was discarded; its later writes are discarded up to its CLOSE -/
  drop : Bool := false
  /-- stream: WR_DATA words are discarded until the next WR_FIRST -/
  needFirst : Bool := false
  /-- the next line written has GAP set -/
  gap : Bool := false
  lseq : Nat := 0
  pseq : Nat := 0
  /-- lines written so far: the next ring slot -/
  wslot : Nat := 0
  /-- GTS of the last write -/
  lastWr : Nat := 0
  deriving DecidableEq, Repr

/-- An entry of the recorder's event queue, or a record's identity (R482 to R485). -/
structure FfrEntry where
  cls : Nat
  code : Nat
  stamp : Nat
  /-- rank of the source's domain among equal stamps (R484) -/
  rank : Nat
  payload : List Byte
  deriving DecidableEq, Repr

/-- One first-failure record (R482). -/
structure FfrRec where
  e : FfrEntry
  seq : Nat
  rep : Nat
  deriving DecidableEq, Repr

/-- One archived image (R490). -/
structure FfrArchive where
  slot : Nat
  seq : Nat
  bootCount : Nat
  lost : Nat
  recs : List FfrRec
  deriving DecidableEq, Repr

/-- The first-failure recorder (R482 to R490). -/
structure Ffr where
  /-- records, newest first -/
  recs : List FfrRec := []
  /-- the event queue, head first (at most 32) -/
  queue : List FfrEntry := []
  /-- AONT of the last append -/
  lastAppend : Option Nat := none
  /-- folds held while PAUSE is set, by SEQ of their record -/
  held : List (Nat × Nat) := []
  /-- AONT of the last append or fold -/
  lastAct : Option Nat := none
  pausedAt : Nat := 0
  /-- archive slots in flash, newest first (at most 15) -/
  archives : List FfrArchive := []
  archSeq : Nat := 0
  deriving DecidableEq, Repr

/-- The snapshot hub (R494 to R497). -/
structure Snap where
  /-- words captured and not yet copied: image offset, word -/
  captured : List (Nat × Word) := []
  /-- sections captured by a powered domain -/
  sections : Nat := 0
  /-- a trigger was taken and the domains have not captured yet -/
  want : Bool := false
  /-- an ARM is waiting for the copy to end -/
  armLater : Bool := false
  /-- the image, by offset -/
  image : List (Nat × Word) := []
  deriving DecidableEq, Repr


/-- State of block obs that no register holds. -/
structure ObsSt where
  /-- the 16 capture queues -/
  cq : List (Nat × Cq) := []
  /-- the trace port's round-robin turn (R481) -/
  cqRr : Nat := 0
  /-- the first-failure recorder -/
  ffrS : Ffr := {}
  /-- the snapshot hub -/
  snap : Snap := {}
  /-- words of the MSI-X table, by offset (R437) -/
  msix : List (Nat × Word) := []
  /-- pending bits of masked vectors -/
  pba : Nat := 0
  /-- events since cold reset (R463) -/
  evtCount : Nat := 0
  /-- SEQ of the next firmware log record (R464) -/
  logSeq : Nat := 0
  /-- LOG_CONFIG level -/
  logLevel : Nat := 3
  /-- LOG_CONFIG core mask -/
  logMask : Nat := 0x7FF
  /-- LOG_CONFIG: records are also written to capture queue 5 -/
  logCopy : Bool := false
  /-- bytes written to the log ring so far -/
  logHead : Nat := 0
  /-- records kept in the ring: (SEQ, position, length), oldest first -/
  logRecs : List (Nat × Nat × Nat) := []
  /-- enabled trace points (R465) -/
  traceEn : List (Nat × Bool) := []
  /-- completions waiting for queue 4, by the accepted request's number (R444) -/
  waitingCompl : List (Nat × List Byte) := []
  /-- event packets missed while the lease was not HELD (R452) -/
  missedFree : Nat := 0
  /-- accepted FFR_ARCHIVE requests waiting for their archive -/
  archIds : List Nat := []
  deriving DecidableEq, Repr

/-- A descriptor on a segment: its type code, the core's descriptor, what the bus will answer, and the arbitration retries
made so far (R512, R516). -/
structure TwJob where
  ty : Nat
  t : TwDesc
  r : BusResult
  tries : Nat
  deriving DecidableEq, Repr

/-- One entry of a core's completion queue (R513). -/
structure TwDone where
  core : Nat
  seg : Nat
  tag : Nat
  status : Nat
  data : List Byte
  deriving DecidableEq, Repr

/-- What a segment is doing besides transactions (R519). -/
inductive SegMode where
  | normal | powerOff (till : Nat) | powerOn (till : Nat) | outOfService
  deriving DecidableEq, Repr

/-- One two-wire segment (R512 to R521). -/
structure Seg where
  /-- descriptors queued, oldest first (at most 16) -/
  queue : List TwJob := []
  /-- the descriptor on the bus -/
  running : Option TwJob := none
  /-- the running descriptor lost arbitration and waits for a free bus -/
  lost : Bool := false
  mode : SegMode := .normal
  /-- ARA reads in a row that returned an address while the alert stayed asserted -/
  araRun : Nat := 0
  maskTill : Nat := 0
  deriving DecidableEq, Repr

/-- The AVSBus commands the S960 uses (R524). -/
inductive AvsCmd where
  | volt (mv : Nat) | read (what : Nat) | status | wrStatus (v : Nat)
  deriving DecidableEq, Repr

/-- One AVSBus controller (R524, R525). -/
structure Avs where
  /-- the command in flight and its resends -/
  cur : Option (AvsCmd × Nat) := none
  /-- GTS at which a busy command is sent again -/
  waitTill : Option Nat := none
  queue : List AvsCmd := []
  deriving DecidableEq, Repr


/-- State of block tw that no register holds. -/
structure TwSt where
  /-- the twelve segments -/
  segs : List (Nat × Seg) := []
  /-- the cores' completion queues, newest first (R513) -/
  done : List TwDone := []
  /-- ALERT_a inputs as last seen -/
  accAlert : Nat := 0
  /-- SMB_ALERT#_n inputs as last seen, 1 = asserted -/
  segAlert : Nat := 0
  /-- SEGPWR_EN_n outputs (R521) -/
  segPwr : Nat := 0xFFF
  /-- the eight AVSBus controllers -/
  avs : List (Nat × Avs) := []
  deriving DecidableEq, Repr


/-- The JTAG port (spec/16 R557). -/
structure JtagSt where
  /-- instruction register; IDCODE at Test-Logic-Reset -/
  ir : Byte := 1
  /-- the boundary register as preloaded -/
  cells : List Bool := []
  /-- what the covered balls carry: 0 their function, 1 the boundary register, 2 the same, held (CLAMP), 3 high impedance -/
  drive : Nat := 0
  /-- core debug is selected and open -/
  dbg : Bool := false
  deriving DecidableEq, Repr

/-- Everything of the machine but the queue of waiting commands. -/
structure Dev where
  /-- every register of W0 (R7): canonical table over regReset -/
  regs : List (Nat × Word) := []
  /-- byte memories (R34), canonical table over memReset -/
  mem : List (Nat × Byte) := []
  /-- poisoned 64-bit words (R34): canonical table, default false -/
  poison : List (Nat × Bool) := []
  /-- write-backs pending after a read (R36): true = poison, false = correction -/
  wb : List (Nat × Bool) := []
  /-- words with a write-back pending -/
  wbPend : List (Nat × Bool) := []
  /-- the global timestamp, ns (R29) -/
  gts : Nat := 0
  /-- the AON island's copy (R33) -/
  aont : Nat := 0
  /-- the SYS domain runs (R33) -/
  sysOn : Bool := false
  /-- the high-word latch of each 64-bit counter, by its low address (R12, R13) -/
  latch : List (Nat × Word) := []
  /-- the held low word of each writable 64-bit field (R14) -/
  wlow : List (Nat × Word) := []
  /-- outputs, newest first -/
  out : List Out := []
  /-- counter the free values are drawn with (the model's own) -/
  freeCtr : Nat := 0
  /-- block ecc -/
  ecc : EccSt := {}
  /-- block arr -/
  arr : ArrSt := {}
  /-- block vl -/
  vl : VlSt := {}
  /-- block sob -/
  sob : SobSt := {}
  /-- block brd -/
  brd : BrdSt := {}
  /-- block pwr -/
  pwr : PwrSt := {}
  /-- block oro -/
  oro : OroSt := {}
  /-- block seq -/
  seq : SeqSt := {}
  /-- block cool -/
  cool : CoolSt := {}
  /-- block flt -/
  flt : FltSt := {}
  /-- block boot -/
  boot : BootSt := {}
  /-- block mbx -/
  mbx : MbxSt := {}
  /-- block obs -/
  obs : ObsSt := {}
  /-- block tw -/
  tw : TwSt := {}
  /-- block jtag -/
  jtag : JtagSt := {}
  deriving DecidableEq, Repr

/-- The machine: the device, and the commands waiting for it, first in first out. -/
structure State where
  dev : Dev
  pending : List Instr
  deriving DecidableEq, Repr

/-- The machine right after reset: every table empty (each register reads its reset word, each piece of state its reset
value), both timestamps 0, nothing waiting. -/
def State.reset : State := { dev := {}, pending := [] }

/-- Reasons the machine stops. No meaning of this model raises one: every row of the command table has an effect for
every operand. -/
inductive Fault where
  /-- Raised by nothing in this model; it keeps the type inhabited (safe). -/
  | none
  deriving DecidableEq, Repr

/-- Reasons a command is turned away. -/
inductive Refusal where
  /-- Raised by a dispatch arm of a command that has no meaning yet (safe). -/
  | notModelled (mnemonic : String)
  deriving DecidableEq, Repr

/-- The outcome of a command that acts on the device and leaves the queue alone. -/
def State.run (s : State) (f : Dev → Dev) : Host.Outcome State Fault Refusal := .next { s with dev := f s.dev }

end Sys2Proof.Machine
end

