-- ==== Sys2Proof/Machine/Ops.lean ====
section
/-! DEFINITION. The named operations every meaning is built from: fields and registers, byte lists, memory with its
poison flags, outputs, free values, first-failure events. -/

namespace Sys2Proof.Machine

/-- The outcome of a command. -/
abbrev Res := Host.Outcome State Fault Refusal

/-! ### Bits and bytes -/

/-- Bits [lo+len-1:lo] of a word. -/
def bitsOf (w lo len : Nat) : Nat := w / 2 ^ lo % 2 ^ len

/-- Bit `k` of a word. -/
def bitOf (w k : Nat) : Bool := w / 2 ^ k % 2 = 1

/-- The word with bits [lo+len-1:lo] replaced by `v`. -/
def putBits (w lo len v : Nat) : Nat := w % 2 ^ lo + v % 2 ^ len * 2 ^ lo + w / 2 ^ (lo + len) * 2 ^ (lo + len)

/-- The word with bit `k` set or cleared. -/
def putBit (w k : Nat) (b : Bool) : Nat := putBits w k 1 b.toNat

/-- The `n` little-endian bytes of `v` (R5). -/
def le : Nat → Nat → List Byte
  | 0, _ => []
  | n + 1, v => BitVec.ofNat 8 v :: le n (v / 256)

/-- The value of little-endian bytes (R5). -/
def leVal : List Byte → Nat
  | [] => 0
  | b :: l => b.toNat + 256 * leVal l

/-- `n` zero bytes. -/
def zeros (n : Nat) : List Byte := List.replicate n 0

/-- The bytes cut or padded with zeros to `n`. -/
def fitBytes (n : Nat) (l : List Byte) : List Byte := (l ++ zeros (n - l.length)).take n

/-- How many of bits 0 to n − 1 are set. -/
def popcount : Nat → Nat → Nat
  | 0, _ => 0
  | n + 1, w => w % 2 + popcount n (w / 2)

/-- The indexes below `n` whose bit is set. -/
def bitsSet (n w : Nat) : List Nat := (List.range n).filter (bitOf w)

/-- The word whose bit `k` is `p k`, for k < n. -/
def maskOf (n : Nat) (p : Nat → Bool) : Nat := (List.range n).foldl (fun m k => if p k then m + 2 ^ k else m) 0

/-- A two's-complement reading of an `n`-bit value. -/
def signed (n v : Nat) : Int := if v % 2 ^ n < 2 ^ (n - 1) then ((v % 2 ^ n : Nat) : Int) else ((v % 2 ^ n : Nat) : Int) - (2 ^ n : Nat)

/-- An integer as an `n`-bit two's-complement value. -/
def wrapInt (n : Nat) (i : Int) : Nat := (i % (2 ^ n : Nat)).toNat

/-- Saturating add below 2^n. -/
def satAdd (n a b : Nat) : Nat := min (a + b) (2 ^ n - 1)

/-! ### Registers -/

/-- The register word at a W0 byte address. -/
def Dev.rdw (d : Dev) (a : Nat) : Nat := (tget regReset d.regs a).toNat

/-- Store a register word. -/
def Dev.wrw (d : Dev) (a v : Nat) : Dev := { d with regs := tset regReset d.regs a (BitVec.ofNat 32 v) }

/-- The value of field `f`, index `i`. -/
def Dev.rd (d : Dev) (f : Fld) (i : Nat := 0) : Nat := bitsOf (d.rdw (f.addr i)) f.lo f.len

/-- Set field `f`, index `i`, leaving the register's other bits. -/
def Dev.wr (d : Dev) (f : Fld) (i v : Nat) : Dev := d.wrw (f.addr i) (putBits (d.rdw (f.addr i)) f.lo f.len v)

/-- Whether a one-bit field is set. -/
def Dev.is (d : Dev) (f : Fld) (i : Nat := 0) : Bool := d.rd f i = 1

/-- Bit `k` of a field that holds a mask. -/
def Dev.bit (d : Dev) (f : Fld) (i k : Nat) : Bool := bitOf (d.rd f i) k

/-- Set or clear bit `k` of a mask field. -/
def Dev.wrBit (d : Dev) (f : Fld) (i k : Nat) (b : Bool) : Dev := d.wr f i (putBit (d.rd f i) k b)

/-- Raise a saturating counter field by `n`. -/
def Dev.inc (d : Dev) (f : Fld) (i : Nat := 0) (n : Nat := 1) : Dev := d.wr f i (satAdd f.len (d.rd f i) n)

/-- Raise a field by `n`, wrapping. -/
def Dev.incW (d : Dev) (f : Fld) (i : Nat := 0) (n : Nat := 1) : Dev := d.wr f i (d.rd f i + n)

/-- A 64-bit value in two consecutive registers, low word first (R12). -/
def Dev.rd64 (d : Dev) (f : Fld) (i : Nat := 0) : Nat := d.rdw (f.addr i) + 2 ^ 32 * d.rdw (f.addr i + 4)

/-- Store a 64-bit value in two consecutive registers. -/
def Dev.wr64 (d : Dev) (f : Fld) (i v : Nat) : Dev := (d.wrw (f.addr i) (v % 2 ^ 32)).wrw (f.addr i + 4) (v / 2 ^ 32)

/-- Registers at and above `lo` and below `hi` return to their reset words. -/
def Dev.resetRegs (d : Dev) (lo hi : Nat) : Dev := { d with regs := d.regs.filter fun p => !(lo ≤ p.1 && p.1 < hi) }

/-! ### Outputs and free values -/

/-- Record an output. -/
def Dev.emit (d : Dev) (o : Out) : Dev := { d with out := o :: d.out }

/-- The next free value (a value the spec leaves open), and the counter advanced. -/
def Dev.free (d : Dev) : Nat × Dev := ((Config.freeWord d.freeCtr).toNat, { d with freeCtr := d.freeCtr + 1 })

/-- Drive a pin. -/
def Dev.pin (d : Dev) (g : String) (i : Nat) (level : Bool) : Dev := d.emit (.pin g i level)

/-- Tell a firmware core. -/
def Dev.note (d : Dev) (core : Nat) (code : String) (arg : Nat) : Dev := d.emit (.notice core code arg)

/-! ### Memory (R34 to R37): one byte space, a region of 2^40 per memory -/

/-- The memories that hold bytes. -/
inductive Space where
  | commons | hbm | flash | ffr | snap
  | req (c : Nat) | rsp (c : Nat)
  | core (k : Nat)
  | tile (t : Nat)
  deriving DecidableEq, Repr

/-- The region number of a memory. -/
def Space.id : Space → Nat
  | .commons => 0
  | .hbm => 1
  | .flash => 2
  | .ffr => 3
  | .snap => 4
  | .req c => 8 + c % 4
  | .rsp c => 12 + c % 4
  | .core k => 16 + k % 16
  | .tile t => 32 + t

/-- The first key of a memory. -/
def Space.base (m : Space) : Nat := m.id * 2 ^ 40

/-- What a byte nothing has written reads as: erased flash reads 0xFF, every other memory 0 (a DESIGN CHOICE of the
model: the log). -/
def memReset (k : Nat) : Byte := if k / 2 ^ 40 = 2 then 0xFF else 0

/-- Memory is in its canonical form. -/
abbrev Memory.wf (l : List Host.Cell) : Bool := twf memReset l

/-- Read one byte. -/
def Dev.ldb (d : Dev) (m : Space) (a : Nat) : Byte := tget memReset d.mem (m.base + a)

/-- Write one byte. -/
def memPut (l : List Host.Cell) (k : Nat) (b : Byte) : List Host.Cell := tset memReset l k b

/-- Write bytes at rising keys. -/
def memPuts : List Host.Cell → Nat → List Byte → List Host.Cell
  | l, _, [] => l
  | l, k, b :: bs => memPuts (memPut l k b) (k + 1) bs

/-- Read `n` bytes. -/
def Dev.ldn (d : Dev) (m : Space) (a : Nat) : Nat → List Byte
  | 0 => []
  | n + 1 => d.ldb m a :: d.ldn m (a + 1) n

/-- Read an `n`-byte little-endian value. -/
def Dev.ld (d : Dev) (m : Space) (a n : Nat) : Nat := leVal (d.ldn m a n)

/-- Whether the 64-bit word that holds byte `a` is poisoned. -/
def Dev.poisoned (d : Dev) (m : Space) (a : Nat) : Bool := tget (fun _ => false) d.poison ((m.base + a) / 8)

/-- Set or clear the poison flag of the word that holds byte `a`. -/
def Dev.setPoison (d : Dev) (m : Space) (a : Nat) (p : Bool) : Dev :=
  { d with poison := tset (fun _ => false) d.poison ((m.base + a) / 8) p }

/-- Whether any word of [a, a + n) is poisoned. -/
def Dev.poisonIn (d : Dev) (m : Space) (a n : Nat) : Bool :=
  (List.range ((a + n + 7) / 8 - a / 8)).any fun i => d.poisoned m (a / 8 * 8 + 8 * i)

/-- Drop the pending write-back of a word that another write has reached (R36). -/
def Dev.dropWb (d : Dev) (w : Nat) : Dev :=
  { d with wbPend := tset (fun _ => false) d.wbPend w false, wb := tset (fun _ => false) d.wb w false }

/-- After a write of bytes [a, a + n) with poison flag `p` (R37): each word touched is poisoned when the data were, or
when only part of an already poisoned word was written; a pending write-back of the word is dropped. -/
def Dev.poisonWrite (d : Dev) (m : Space) (a n : Nat) (p : Bool) : Dev :=
  (List.range ((a + n + 7) / 8 - a / 8)).foldl (fun d i =>
    let w := a / 8 * 8 + 8 * i
    let whole : Bool := a ≤ w && w + 8 ≤ a + n
    (d.setPoison m w (p || (!whole && d.poisoned m w))).dropWb ((m.base + w) / 8)) d

/-- Write bytes at `a`, carrying the poison flag of their source. -/
def Dev.stn (d : Dev) (m : Space) (a : Nat) (bs : List Byte) (p : Bool := false) : Dev :=
  if bs = [] then d else
    ({ d with mem := memPuts d.mem (m.base + a) bs }).poisonWrite m a bs.length p

/-- Write an `n`-byte little-endian value. -/
def Dev.st (d : Dev) (m : Space) (a n v : Nat) : Dev := d.stn m a (le n v)

/-- Clear a memory: every byte reads its reset value and no word is poisoned. -/
def Dev.clearSpace (d : Dev) (m : Space) : Dev :=
  { d with
    mem := d.mem.filter fun c => !(c.1 / 2 ^ 40 = m.id)
    poison := d.poison.filter fun c => !(c.1 / 2 ^ 37 = m.id)
    wb := d.wb.filter fun c => !(c.1 / 2 ^ 37 = m.id)
    wbPend := d.wbPend.filter fun c => !(c.1 / 2 ^ 37 = m.id) }

/-- Clear bytes [a, a + n) of a memory: they read their reset value and are not poisoned. -/
def Dev.clearRange (d : Dev) (m : Space) (a n : Nat) : Dev :=
  { d with
    mem := d.mem.filter fun c => !(m.base + a ≤ c.1 && c.1 < m.base + a + n)
    poison := d.poison.filter fun c => !((m.base + a) / 8 ≤ c.1 && c.1 < (m.base + a + n) / 8)
    wb := d.wb.filter fun c => !((m.base + a) / 8 ≤ c.1 && c.1 < (m.base + a + n) / 8)
    wbPend := d.wbPend.filter fun c => !((m.base + a) / 8 ≤ c.1 && c.1 < (m.base + a + n) / 8) }

/-! ### First-failure events (R483, R484) -/

/-- A hardware cause: its group of 16 codes, its number within the model, and its class where a rule names it. -/
abbrev Cause := Nat × Nat × Option Nat

/-- Insert an entry by stamp, then by its domain's rank (R484). -/
def ffrInsert (e : FfrEntry) : List FfrEntry → List FfrEntry
  | [] => [e]
  | x :: l => if e.stamp < x.stamp ∨ e.stamp = x.stamp ∧ e.rank < x.rank then e :: x :: l else x :: ffrInsert e l

/-- Whether an entry folds into the last record (R485). -/
def FfrRec.folds (r : FfrRec) (e : FfrEntry) : Bool :=
  r.e.cls = e.cls && r.e.code = e.code && r.e.payload.length = e.payload.length && r.e.payload.take 8 = e.payload.take 8

/-- Fold one occurrence into the last record: REPEAT rises by one, saturating; while PAUSE is set the fold is held
(R485, R488). -/
def Dev.ffrFold (d : Dev) : Dev :=
  match d.obs.ffrS.recs with
  | [] => d
  | r :: l =>
    let d := { d with obs.ffrS.lastAct := some d.aont }
    if d.is F.FFR_CTRL_PAUSE then
      { d with obs.ffrS.held := tset (fun _ => 0) d.obs.ffrS.held r.seq (tget (fun _ => 0) d.obs.ffrS.held r.seq + 1) }
    else { d with obs.ffrS.recs := { r with rep := satAdd 16 r.rep 1 } :: l }

/-- An event enters the recorder's queue; one that matches the last record, with no entry waiting, is folded; one that
finds 32 entries waiting is lost (R484, R485). -/
def Dev.ffrEvent (d : Dev) (e : FfrEntry) : Dev :=
  match d.obs.ffrS.queue, d.obs.ffrS.recs with
  | [], r :: _ =>
    if r.folds e then d.ffrFold else { d with obs.ffrS.queue := [e] }
  | q, _ => if q.length < 32 then { d with obs.ffrS.queue := ffrInsert e q } else d.inc F.FFR_LOST_COUNT

/-- The rank among equal stamps of the domain a group of causes is raised in (R484): AON, LNK, SYS, SYS, SYS, AON, AON, SEC. -/
def causeRank (grp : Nat) : Nat := [1, 5, 4, 4, 4, 1, 1, 8].getD grp 1

/-- A hardware first-failure event with its identifying fields (R483). -/
def Dev.ffr (d : Dev) (c : Cause) (arg0 arg1 : Nat) : Dev :=
  d.ffrEvent
    { cls := match c.2.2 with | some k => k | none => (Config.ffrClass c.1 c.2.1).toNat
      code := 16 * c.1 + (Config.ffrCode c.1 c.2.1).toNat
      stamp := d.aont
      rank := causeRank c.1
      payload := le 4 arg0 ++ le 4 arg1 ++ le 4 d.aont ++ zeros 4 }

end Sys2Proof.Machine
end

