-- ==== Sys2Proof/Machine/Numeric.lean ====
section
/-! DEFINITION. Number formats (spec/02): exact values, the sixteen formats, rounding, overflow, flags, conversions,
microscaling blocks, and the arithmetic at each step of an accumulation. -/

namespace Sys2Proof.Machine

/-! ### Exact values -/

/-- An exact value: NaN, an infinity, or (−1)^neg × man × 2^exp (man 0: a signed zero). -/
inductive Val where
  | nan
  | inf (neg : Bool)
  | fin (neg : Bool) (man : Nat) (exp : Int)
  deriving DecidableEq, Repr

/-- Flags (R74) as bits: 16 INV, 8 OVF, 4 SAT, 2 UNF, 1 INX. -/
abbrev Flags := Nat
abbrev fINV : Flags := 16
abbrev fOVF : Flags := 8
abbrev fSAT : Flags := 4
abbrev fUNF : Flags := 2
abbrev fINX : Flags := 1

/-- An integer as an exact value. -/
def Val.ofInt (i : Int) : Val := .fin (decide (i < 0)) i.natAbs 0

/-- A finite value scaled by 2^k. -/
def Val.scale (v : Val) (k : Int) : Val :=
  match v with
  | .fin s m e => .fin s m (e + k)
  | v => v

def Val.neg (v : Val) : Val :=
  match v with
  | .nan => .nan
  | .inf s => .inf (!s)
  | .fin s m e => .fin (!s) m e

def Val.abs (v : Val) : Val :=
  match v with
  | .nan => .nan
  | .inf _ => .inf false
  | .fin _ m e => .fin false m e

/-- 2^k for k ≥ 0, 1 below. -/
def pow2 (k : Int) : Nat := 2 ^ k.toNat

/-- A finite value as an integer multiple of 2^q, for q no larger than its exponent. -/
def units (s : Bool) (m : Nat) (e q : Int) : Int :=
  let n : Int := (m * pow2 (e - q) : Nat)
  if s then -n else n

/-- Exact sum (R59, R61). -/
def Val.add (x y : Val) : Val × Flags :=
  match x, y with
  | .nan, _ => (.nan, 0)
  | _, .nan => (.nan, 0)
  | .inf s, .inf t => if s = t then (.inf s, 0) else (.nan, fINV)
  | .inf s, _ => (.inf s, 0)
  | _, .inf t => (.inf t, 0)
  | .fin s m e, .fin t n f =>
    let q := min e f
    let v := units s m e q + units t n f q
    if v = 0 then (.fin (m = 0 && n = 0 && s && t) 0 0, 0) else (.fin (decide (v < 0)) v.natAbs q, 0)

/-- Exact product (R59, R61). -/
def Val.mul (x y : Val) : Val × Flags :=
  match x, y with
  | .nan, _ => (.nan, 0)
  | _, .nan => (.nan, 0)
  | .inf s, .inf t => (.inf (s != t), 0)
  | .inf s, .fin t n _ => if n = 0 then (.nan, fINV) else (.inf (s != t), 0)
  | .fin s m _, .inf t => if m = 0 then (.nan, fINV) else (.inf (s != t), 0)
  | .fin s m e, .fin t n f => (.fin (s != t) (m * n) (e + f), 0)

/-- Quotient with a sticky lowest bit, precise enough for one rounding to FP32 (R59). -/
def Val.div (x y : Val) : Val × Flags :=
  match x, y with
  | .nan, _ => (.nan, 0)
  | _, .nan => (.nan, 0)
  | .inf _, .inf _ => (.nan, fINV)
  | .inf s, .fin t _ _ => (.inf (s != t), 0)
  | .fin s _ _, .inf t => (.fin (s != t) 0 0, 0)
  | .fin s m e, .fin t n f =>
    if n = 0 then (if m = 0 then (.nan, fINV) else (.inf (s != t), 0))
    else
      let k := n.log2 + 70
      let a := m * 2 ^ k
      (.fin (s != t) (2 * (a / n) + (if a % n = 0 then 0 else 1)) (e - f - k - 1), 0)

/-- Integer square root, bit by bit from bit `k`. -/
def isqrt (n : Nat) : Nat → Nat → Nat
  | 0, r => if (r + 1) * (r + 1) ≤ n then r + 1 else r
  | k + 1, r => isqrt n k (if (r + 2 ^ (k + 1)) * (r + 2 ^ (k + 1)) ≤ n then r + 2 ^ (k + 1) else r)

/-- Square root with a sticky lowest bit (R59). −0 gives −0. -/
def Val.sqrt (x : Val) : Val × Flags :=
  match x with
  | .nan => (.nan, 0)
  | .inf s => if s then (.nan, fINV) else (.inf false, 0)
  | .fin s m e =>
    if m = 0 then (.fin s 0 0, 0)
    else if s then (.nan, fINV)
    else
      let p := if e % 2 = 0 then (m, e) else (2 * m, e - 1)
      let n := p.1 * 2 ^ 80
      let r := isqrt n (n.log2 / 2 + 1) 0
      (.fin false (2 * r + (if r * r = n then 0 else 1)) (p.2 / 2 - 41), 0)

/-- `x` < `y` for non-NaN values, −0 below +0 (R217). -/
def Val.lt (x y : Val) : Bool :=
  match x, y with
  | .inf s, .inf t => s && !t
  | .inf s, .fin .. => s
  | .fin .., .inf t => !t
  | .fin s m e, .fin t n f =>
    let q := min e f
    let a := units s m e q
    let b := units t n f q
    if a = b then m = 0 && s && !t else decide (a < b)
  | _, _ => false

/-- Numeric equality of non-NaN values (−0 equals +0). -/
def Val.eqv (x y : Val) : Bool :=
  match x, y with
  | .inf s, .inf t => s = t
  | .fin s m e, .fin t n f =>
    let q := min e f
    units s m e q = units t n f q
  | _, _ => false

/-! ### Floating-point formats (R54 to R56) -/

/-- How an all-ones exponent reads: IEEE infinities and NaNs, E4M3's single NaN, or ordinary numbers. -/
inductive Special where
  | ieee | e4m3 | plain
  deriving DecidableEq, Repr

/-- A floating-point layout. -/
structure FFmt where
  eb : Nat
  mb : Nat
  bias : Nat
  sp : Special
  deriving DecidableEq, Repr

abbrev ffFP32 : FFmt := ⟨8, 23, 127, .ieee⟩
abbrev ffFP16 : FFmt := ⟨5, 10, 15, .ieee⟩
abbrev ffBF16 : FFmt := ⟨8, 7, 127, .ieee⟩
abbrev ffE4M3 : FFmt := ⟨4, 3, 7, .e4m3⟩
abbrev ffE5M2 : FFmt := ⟨5, 2, 15, .ieee⟩
abbrev ffE3M2 : FFmt := ⟨3, 2, 3, .plain⟩
abbrev ffE2M3 : FFmt := ⟨2, 3, 1, .plain⟩
abbrev ffE2M1 : FFmt := ⟨2, 1, 1, .plain⟩
/-- Binary64: the Board's internal accumulator for FP32 (R82). -/
abbrev ffB64 : FFmt := ⟨11, 52, 1023, .ieee⟩

/-- Bits of an encoding. -/
def FFmt.width (f : FFmt) : Nat := 1 + f.eb + f.mb

/-- The sign bit's weight. -/
def FFmt.signW (f : FFmt) : Nat := 2 ^ (f.eb + f.mb)

/-- The code of the largest finite magnitude (R56). -/
def FFmt.maxCode (f : FFmt) : Nat :=
  match f.sp with
  | .ieee => (2 ^ f.eb - 1) * 2 ^ f.mb - 1
  | .e4m3 => 2 ^ (f.eb + f.mb) - 2
  | .plain => 2 ^ (f.eb + f.mb) - 1

/-- The canonical NaN (R56, R58). -/
def FFmt.nanCode (f : FFmt) : Nat :=
  match f.sp with
  | .ieee => (2 ^ f.eb - 1) * 2 ^ f.mb + 2 ^ (f.mb - 1)
  | .e4m3 => 2 ^ (f.eb + f.mb) - 1
  | .plain => 0

/-- The code of +Inf, for a format that has one. -/
def FFmt.infCode (f : FFmt) : Nat := (2 ^ f.eb - 1) * 2 ^ f.mb

/-- The value of an encoding (R54, R56). -/
def FFmt.decode (f : FFmt) (c : Nat) : Val :=
  let c := c % 2 ^ f.width
  let s : Bool := c / f.signW = 1
  let mag := c % f.signW
  let e := mag / 2 ^ f.mb
  let m := mag % 2 ^ f.mb
  let special : Option Val :=
    match f.sp with
    | .ieee => if e = 2 ^ f.eb - 1 then some (if m = 0 then .inf s else .nan) else none
    | .e4m3 => if mag = 2 ^ (f.eb + f.mb) - 1 then some .nan else none
    | .plain => none
  match special with
  | some v => v
  | none =>
    if e = 0 then .fin s m (1 - (f.bias : Int) - f.mb)
    else .fin s (2 ^ f.mb + m) ((e : Int) - f.bias - f.mb)

/-! ### Rounding (R68 to R70) -/

/-- Numeric control (R52): rounding mode, saturation, and the 16-bit draw used by stochastic rounding. -/
structure Rnd where
  mode : Nat
  sat : Bool
  draw : Nat := 0
  deriving DecidableEq, Repr

/-- Round to nearest even without saturation. -/
abbrev rne : Rnd := ⟨0, false, 0⟩

/-- The magnitude man × 2^exp rounded to a multiple of 2^q: the multiple, and whether it is inexact. -/
def roundAt (r : Rnd) (man : Nat) (exp q : Int) : Nat × Bool :=
  if q ≤ exp then (man * pow2 (exp - q), false)
  else
    let s := (q - exp).toNat
    let t := man / 2 ^ s
    let rem := man % 2 ^ s
    let up : Bool :=
      match r.mode with
      | 0 => decide (2 ^ s < 2 * rem) || (2 * rem = 2 ^ s && t % 2 = 1)
      | 1 => false
      | _ => decide (65536 ≤ rem * 65536 / 2 ^ s + r.draw)
    (if up then t + 1 else t, rem ≠ 0)

/-- The finite overflow of R72 in a floating-point format. -/
def FFmt.overflow (f : FFmt) (r : Rnd) (s : Bool) : Nat × Flags :=
  let sg := if s then f.signW else 0
  let mx : Nat × Flags := (sg + f.maxCode, fOVF + fSAT + fINX)
  if r.sat ∨ r.mode = 1 then mx
  else match f.sp with
    | .ieee => (sg + f.infCode, fOVF + fINX)
    | .e4m3 => (f.nanCode, fOVF + fINV + fINX)
    | .plain => mx

/-- Convert an exact value to a floating-point format: encoding and flags (R68, R69, R72 to R75). -/
def FFmt.conv (f : FFmt) (r : Rnd) (v : Val) : Nat × Flags :=
  match v with
  | .nan => (match f.sp with | .plain => (0, fINV + fINX) | _ => (f.nanCode, 0))
  | .inf s =>
    let sg := if s then f.signW else 0
    (match f.sp with
    | .ieee => if r.sat then (sg + f.maxCode, fSAT + fINX) else (sg + f.infCode, 0)
    | .e4m3 => if r.sat then (sg + f.maxCode, fINV + fSAT + fINX) else (f.nanCode, fINV + fINX)
    | .plain => (sg + f.maxCode, fINV + fSAT + fINX))
  | .fin s m e =>
    let sg := if s then f.signW else 0
    if m = 0 then (sg, 0)
    else
      let top : Int := (m.log2 : Int) + e
      let emin : Int := 1 - (f.bias : Int)
      let q := max top emin - f.mb
      let n := roundAt r m e q
      let code := (q + f.mb + f.bias - 1).toNat * 2 ^ f.mb + n.1
      if f.maxCode < code then f.overflow r s
      else
        let unf := if top < emin ∧ n.2 then fUNF else 0
        (sg + code, unf + (if n.2 then fINX else 0))

/-- Convert to a two's-complement integer of `w` bits from a floating-point value (R72 to R75). -/
def intOfVal (w : Nat) (r : Rnd) (v : Val) : Nat × Flags :=
  match v with
  | .nan => (0, fINV + fINX)
  | .inf s => (if s then 2 ^ (w - 1) else 2 ^ (w - 1) - 1, fINV + fSAT + fINX)
  | .fin s m e =>
    let n := roundAt r m e 0
    let lim := if s then 2 ^ (w - 1) else 2 ^ (w - 1) - 1
    if lim < n.1 then (if s then 2 ^ (w - 1) else lim, fOVF + fSAT + fINX)
    else (wrapInt w (if s then -(n.1 : Int) else n.1), if n.2 then fINX else 0)

/-- Narrow an integer to `w` bits (R72): wrap, or clamp under SAT. -/
def intOfInt (w : Nat) (sat : Bool) (i : Int) : Nat × Flags :=
  let lo : Int := -(2 ^ (w - 1) : Nat)
  let hi : Int := (2 ^ (w - 1) : Nat) - 1
  if lo ≤ i ∧ i ≤ hi then (wrapInt w i, 0)
  else if sat then (wrapInt w (if i < lo then lo else hi), fSAT + fOVF + fINX)
  else (wrapInt w i, fOVF + fINX)

/-! ### FMT codes (R51) and element access (R63) -/

/-- Bits of an element. -/
def fmtBits (f : Nat) : Nat := [32, 16, 16, 8, 8, 6, 6, 4, 8, 6, 4, 8, 32, 16, 8, 4].getD (f % 16) 8

/-- Block formats. -/
def fmtMX (f : Nat) : Bool := 8 ≤ f && f < 12

/-- Integer formats. -/
def fmtInt (f : Nat) : Bool := 12 ≤ f && f < 16

/-- The floating-point layout of a format, or of an MX format's elements with its variant; none for integers and MXINT8. -/
def fmtFloat (f : Nat) (mxv : Bool) : Option FFmt :=
  match f with
  | 0 => some ffFP32
  | 1 => some ffFP16
  | 2 => some ffBF16
  | 3 => some ffE4M3
  | 4 => some ffE5M2
  | 5 => some ffE3M2
  | 6 => some ffE2M3
  | 7 => some ffE2M1
  | 8 => some (if mxv then ffE5M2 else ffE4M3)
  | 9 => some (if mxv then ffE2M3 else ffE3M2)
  | 10 => some ffE2M1
  | _ => none

/-- emax of an MX element type (R65). -/
def mxEmax (f : Nat) (mxv : Bool) : Int :=
  match f with
  | 8 => if mxv then 15 else 8
  | 9 => if mxv then 2 else 4
  | 10 => 2
  | _ => 0

/-- Bytes of the element array of `n` elements (R63, R67). -/
def elemBytes (f n : Nat) : Nat :=
  if fmtMX f then (n + 31) / 32 * (4 * fmtBits f) else if fmtBits f = 6 then (n + 3) / 4 * 3 else (n * fmtBits f + 7) / 8

/-- The code of element `i` in a packed array (R63): bits [w·i + w − 1 : w·i] of the little-endian stream. -/
def elemAt (w : Nat) (l : List Byte) (i : Nat) : Nat :=
  bitsOf (leVal ((l.drop (w * i / 8)).take 5)) (w * i % 8) w

/-- Pack element codes of `w` bits into `n` bytes (R63). -/
def packElems (w n : Nat) (l : List Nat) : List Byte :=
  le n (l.foldr (fun c acc => c % 2 ^ w + acc * 2 ^ w) 0)

/-- The value of an element code of a non-MX format (R54, R62). -/
def fmtVal (f : Nat) (mxv : Bool) (c : Nat) : Val :=
  match fmtFloat f mxv with
  | some ff => ff.decode c
  | none => .ofInt (signed (fmtBits f) c)

/-- The scale of an E8M0 code (R64): none for NaN. -/
def e8m0 (c : Nat) : Option Int := if c % 256 = 255 then none else some ((c % 256 : Nat) - 127)

/-- The value of an MX element under its block's scale code (R65, R66). -/
def mxVal (f : Nat) (mxv : Bool) (scale c : Nat) : Val :=
  match e8m0 scale with
  | none => .nan
  | some x => (fmtVal f mxv c).scale (if f = 11 then x - 6 else x)

/-- NCTL is valid for format `f` (R53). -/
def nctlOk (f n : Nat) : Bool := n < 16 && n % 4 ≠ 3 && (n / 8 = 0 || f = 8 || f = 9)

/-- NCTL as rounding control. -/
def nctlRnd (n : Nat) (draw : Nat := 0) : Rnd := { mode := n % 4, sat := bitOf n 2, draw := draw }

/-- Convert one exact value to an element of a non-MX format (R75). `src`: the exact integer, when the source is one. -/
def convElem (f : Nat) (r : Rnd) (v : Val) (src : Option Int) : Nat × Flags :=
  match fmtFloat f false with
  | some ff => ff.conv r v
  | none =>
    match src with
    | some i => intOfInt (fmtBits f) r.sat i
    | none => intOfVal (fmtBits f) r v

/-! ### MX blocks (R77, R78) -/

/-- floor(log2) of a finite non-zero magnitude. -/
def Val.top (v : Val) : Int :=
  match v with
  | .fin _ m e => (m.log2 : Int) + e
  | _ => 0

/-- Whether a value is zero, or finite. -/
def Val.isZero (v : Val) : Bool := match v with | .fin _ m _ => m = 0 | _ => false
def Val.isFin (v : Val) : Bool := match v with | .fin .. => true | _ => false

/-- One element of a quantised block: v / 2^x rounded to the element type, clamped (R77). -/
def mxElem (f : Nat) (mxv : Bool) (r : Rnd) (x : Int) (v : Val) : Nat × Flags :=
  match fmtFloat f mxv with
  | some ff =>
    let r' : Rnd := { r with sat := true }
    let c := ff.conv r' (v.scale (-x))
    c
  | none =>
    match v with
    | .fin s m e =>
      let n := roundAt r m (e - x + 6) 0
      if 127 < n.1 then (wrapInt 8 (if s then -127 else 127), fOVF + fSAT + fINX)
      else (wrapInt 8 (if s then -(n.1 : Int) else n.1), if n.2 then fINX else 0)
    | _ => (0, 0)

/-- Quantise one block (R77): the scale code, the element codes, the flags. `draws` gives each element its draw. -/
def mxQuant (f : Nat) (mxv : Bool) (r : Rnd) (draws : List Nat) (vs : List Val) : Nat × List Nat × Flags :=
  if vs.any (fun v => !v.isFin) then (255, vs.map (fun _ => 0), fINV + fINX)
  else
    match vs.filter (fun v => !v.isZero) with
    | [] => (0, vs.map (fun _ => 0), 0)
    | w :: ws =>
      let amax := ws.foldl (fun m v => max m v.top) w.top
      let x := min 127 (max (-127) (amax - mxEmax f mxv))
      let cs := (vs.zip (draws ++ List.replicate vs.length 0)).map fun p => mxElem f mxv { r with draw := p.2 } x p.1
      ((x + 127).toNat, cs.map (·.1), cs.foldl (fun a c => a ||| c.2) 0)

/-! ### FP32 arithmetic (R80, R81) -/

/-- Round an exact value to FP32 with RNE: encoding and flags. -/
def toF32 (v : Val) : Nat × Flags := ffFP32.conv rne v

/-- An FP32 encoding's value. -/
def f32 (c : Nat) : Val := ffFP32.decode c

/-- One rounded operation on exact operands: the FP32 result and its flags. -/
def f32Op (p : Val × Flags) : Nat × Flags :=
  let r := toF32 p.1
  (r.1, p.2 ||| r.2)

/-- An addition in accumulator format `a` with RNE (R82). -/
def accAdd (a : FFmt) (x y : Val) : Val × Flags :=
  let s := x.add y
  let r := a.conv rne s.1
  (a.decode r.1, s.2 ||| r.2)

/-- MAX or MIN of two values (R217): exact, NaN if either is NaN. -/
def valMax (x y : Val) : Val := match x, y with | .nan, _ => .nan | _, .nan => .nan | x, y => if x.lt y then y else x
def valMin (x y : Val) : Val := match x, y with | .nan, _ => .nan | _, .nan => .nan | x, y => if y.lt x then y else x

end Sys2Proof.Machine
end

