-- ==== Sys2Proof/Machine/ObsOps.lean ====
section
/-! DEFINITION. Shared operations of the observation blocks (spec/14): check values, capture queues, interrupt vectors,
events, the snapshot trigger. -/

namespace Sys2Proof.Machine

/-! ### Check values (R491) -/

/-- One bit of a reflected CRC step. -/
def crcBitR (poly v : Nat) : Nat := if v % 2 = 1 then (v / 2) ^^^ poly else v / 2

/-- One bit of a CRC step, most significant bit first, width `w`. -/
def crcBitF (w poly v : Nat) : Nat := if v / 2 ^ (w - 1) % 2 = 1 then (v * 2 % 2 ^ w) ^^^ poly else v * 2 % 2 ^ w

/-- Repeat a function. -/
def iter {α : Type} (f : α → α) : Nat → α → α
  | 0, x => x
  | n + 1, x => iter f n (f x)

/-- Feed one byte to a reflected CRC (`poly` reversed). -/
def crcByteR (poly v : Nat) (b : Byte) : Nat := iter (crcBitR poly) 8 (v ^^^ b.toNat)

/-- Feed one byte, most significant bit first. -/
def crcByteF (w poly v : Nat) (b : Byte) : Nat := iter (crcBitF w poly) 8 (v ^^^ (b.toNat * 2 ^ (w - 8)))

/-- The algorithm a value of CRC_CFG.ALG selects: 5 to 7 are treated as 0. -/
def crcAlg (alg : Nat) : Nat := if alg < 5 then alg else 0

/-- Width of an algorithm (R491). -/
def crcWidth (alg : Nat) : Nat := [32, 32, 16, 8, 64].getD (crcAlg alg) 32

/-- Initial value of an algorithm (R491). -/
def crcInit (alg : Nat) : Nat := [0xFFFFFFFF, 0xFFFFFFFF, 0xFFFF, 0, 0].getD (crcAlg alg) 0

/-- Final exclusive-or of an algorithm (R491). -/
def crcXor (alg : Nat) : Nat := [0xFFFFFFFF, 0xFFFFFFFF, 0, 0, 0].getD (crcAlg alg) 0

/-- Feed one byte to the running value of an algorithm (R491). -/
def crcStep (alg v : Nat) (b : Byte) : Nat :=
  match crcAlg alg with
  | 0 => crcByteR 0x82F63B78 v b
  | 1 => crcByteR 0xEDB88320 v b
  | 2 => crcByteF 16 0x1021 v b
  | 3 => crcByteF 8 0x07 v b
  | _ => crcByteF 64 0x42F0E1EBA9EA3693 v b

/-- Feed bytes in order. -/
def crcFeed (alg : Nat) : Nat → List Byte → Nat
  | v, [] => v
  | v, b :: l => crcFeed alg (crcStep alg v b) l

/-- The check value of a byte string. -/
def crcOf (alg : Nat) (l : List Byte) : Nat := crcFeed alg (crcInit alg) l ^^^ crcXor alg

/-- CRC-32C of a byte string. -/
def crc32c (l : List Byte) : Nat := crcOf 0 l

/-- The bytes of a first-failure record (R482). -/
def FfrRec.bytes (r : FfrRec) : List Byte :=
  let n := (16 + r.e.payload.length + 15) / 16
  let pay := fitBytes (16 * n - 16) r.e.payload
  let h := le 4 (r.seq % 65536 + r.e.code % 128 * 2 ^ 16 + r.e.cls % 4 * 2 ^ 23 + n % 128 * 2 ^ 25) ++ le 6 (r.e.stamp / 1024) ++ le 2 r.rep
  h ++ le 4 (crc32c (h ++ zeros 4 ++ pay)) ++ pay

/-- The recorder's 256 KiB (R482): the records back to back, then zeros. -/
def Dev.ffrImage (d : Dev) : List Byte := fitBytes 262144 (d.obs.ffrS.recs.reverse.flatMap FfrRec.bytes)

/-- SMBus PEC of a byte string. -/
def pec (l : List Byte) : Nat := crcOf 3 l

/-- Feed bytes to CRC context `k` and count them (R493). -/
def Dev.crcFeedCtx (d : Dev) (k : Nat) (l : List Byte) : Dev :=
  (d.wr64 F.CRC_VALUE_LO k (crcFeed (d.rd F.CRC_CFG_ALG k) (d.rd64 F.CRC_VALUE_LO k) l)).inc F.CRC_COUNT_BYTES k l.length

/-- Load the algorithm's initial value and clear the count (R492). -/
def Dev.crcLoad (d : Dev) (k : Nat) : Dev :=
  (d.wr64 F.CRC_VALUE_LO k (crcInit (d.rd F.CRC_CFG_ALG k))).wr F.CRC_COUNT_BYTES k 0

/-! ### Interrupt vectors (R437) -/

/-- Word `j` (0 to 3) of the MSI-X table's entry `v`; the vector-control word resets to masked (PRESUMED: the PCIe base
specification's reset of the mask bit). -/
def msixReset (o : Nat) : Word := if o % 16 = 12 then 1 else 0

/-- Whether vector `v` is masked. -/
def Dev.msixMasked (d : Dev) (v : Nat) : Bool := (tget msixReset d.obs.msix (16 * v + 12)).toNat % 2 = 1

/-- A source of vector `v` fires (R437): the bit of MBX_INT_STATUS is set and, unless masked, the message is sent; a
masked vector is left pending. Without core power there is no MBX. -/
def Dev.vector (d : Dev) (v : Nat) : Dev :=
  if !d.sysOn then d else
  let d := d.wrBit F.MBX_INT_STATUS_VEC 0 v true
  if d.msixMasked v then { d with obs.pba := putBit d.obs.pba v true } else d.emit (.msix v)

/-! ### Capture queues (R469 to R481) -/

/-- Lines of a queue. -/
def cqLines : Nat := 2048

/-- Queue `q`. -/
def Dev.cqGet (d : Dev) (q : Nat) : Cq := tget (fun _ => {}) d.obs.cq q

/-- Replace queue `q`. -/
def Dev.cqPut (d : Dev) (q : Nat) (c : Cq) : Dev := { d with obs.cq := tset (fun _ => {}) d.obs.cq q c }

/-- Whether a queue is a stream queue (R470). -/
def cqStream (q : Nat) : Bool := q < 4

/-- Lines `n` bytes take. -/
def linesOf (n : Nat) : Nat := (n + 31) / 32

/-- Lines the open packet uses so far: the length slot and its payload. -/
def Cq.pktLines (c : Cq) : Nat :=
  match c.pkt with
  | some p => if c.drop then 0 else linesOf (4 + p.length)
  | none => 0

/-- CQ_LEVEL.USED: lines holding data, visible or not. -/
def Cq.used (c : Cq) : Nat := c.vis.length + c.pktLines + (if c.cur = [] then 0 else 1)

/-- The queue's trace port is its drain (streams only). -/
def Dev.cqToPort (d : Dev) (q : Nat) : Bool := cqStream q && d.is F.CQ_CFG_DRAIN q

/-- HELD after the visible count changed (R480). -/
def Dev.cqHeldNow (d : Dev) (q : Nat) : Bool :=
  let hi := min (max (d.rd F.CQ_WM_HIGH q) 1) 2048
  let lo := if d.rd F.CQ_WM_LOW q < hi then d.rd F.CQ_WM_LOW q else hi - 1
  let n := (d.cqGet q).vis.length
  if n ≥ hi then true else if n ≤ lo then false else d.bit F.CQ_STATUS_HELD 0 q

/-- TRC_HOLD# is low: a HELD stream queue drains to the trace port (R480). -/
def Dev.trcHold (d : Dev) : Bool := (List.range 4).any fun q => d.bit F.CQ_STATUS_HELD 0 q && d.cqToPort q

/-- Compare a stream queue with its watermarks, and fire vector 4 at each change the rule names (R480). -/
def Dev.cqWatch (d : Dev) (q : Nat) : Dev :=
  if !cqStream q then d else
    let old := d.trcHold
    let held := d.bit F.CQ_STATUS_HELD 0 q
    let now := d.cqHeldNow q
    if held = now then d else
      let d := d.wrBit F.CQ_STATUS_HELD 0 q now
      let d := if d.cqToPort q then d else d.vector 4
      let new := d.trcHold
      if old = new then d else
        ((d.wr F.CQ_STATUS_TRC_HOLD 0 new.toNat).pin "TRC_HOLD#" 0 (!new)).vector 4

/-- The tag of a line (R471). -/
def cqTag (lseq item : Nat) (gap pad : Bool) (valid : Nat) : Word :=
  BitVec.ofNat 32 (lseq % 65536 * 65536 + item % 16 * 4096 + gap.toNat * 2048 + pad.toNat * 1024 + valid % 64)

/-- Before a writer takes one more line: when the ring is otherwise full of kept lines, the mark's line is overwritten and
the mark is voided (R479). `n` is the number of lines then in use ahead of the reader. -/
def Dev.cqOverMark (d : Dev) (q n : Nat) : Dev :=
  let c := d.cqGet q
  if c.past ≠ [] ∧ c.past.length + n > cqLines then
    ((d.cqPut q { c with past := [] }).wr F.CQ_MARK_VALID q 0).wr F.CQ_MARK_REWIND_LOST q 1
  else d

/-- Append one finished line to the visible lines. -/
def Cq.push (c : Cq) (item : Nat) (gap : Bool) (bytes : List Byte) (feed : Nat) : Cq :=
  { c with
    vis := c.vis ++ [{ tag := cqTag c.lseq item gap (bytes.length < 32) bytes.length, bytes := fitBytes 32 bytes,
                       slot := c.wslot % cqLines, feed := feed }]
    lseq := (c.lseq + 1) % 65536
    wslot := c.wslot + 1 }

/-- The lines of a packet's bytes, `fed` of which feed a bound CRC context. -/
def Cq.pushAll : Nat → Cq → Bool → Nat → List Byte → Cq
  | 0, c, _, _, _ => c
  | n + 1, c, first, fed, bs =>
    if bs = [] then c else
      Cq.pushAll n (c.push (if first then 0 else 0xF) (first && c.gap) (bs.take 32) (min fed 32)) false (fed - 32) (bs.drop 32)

/-- Discard the open packet (R474): its lines are returned, its later writes are discarded, DROPPED rises. -/
def Dev.cqDropPacket (d : Dev) (q : Nat) : Dev :=
  let c := d.cqGet q
  (d.cqPut q { c with pkt := some [], drop := true, gap := true }).inc F.CQ_COUNTS_DROPPED q

/-- The vector of a packet queue's notices (R437). -/
def cqVector (q : Nat) : Nat := if q = 4 then 1 else if q = 5 then 4 else q - 1

/-- The whole of a packet as committed: the length word, the payload, the trailer if the queue appends one (R472). -/
def cqPacket (pseq : Nat) (trailer : Bool) (pay : List Byte) : List Byte :=
  let len := pay.length + (if trailer then 4 else 0)
  let body := le 4 (pseq % 65536 * 65536 + len % 65536) ++ pay
  if trailer then body ++ le 4 (crc32c body) else body

/-- Whether a packet of `n` payload bytes fits the queue now (R473, R474). -/
def Dev.cqFits (d : Dev) (q n : Nat) : Bool :=
  let t := 4 + n + (if d.is F.CQ_CFG_TRAILER q then 4 else 0)
  t ≤ 16384 && (d.cqGet q).vis.length + linesOf t ≤ cqLines

/-- Commit a packet of payload `pay` to queue `q`: visible whole, PENDING rises, the notice source fires (R472, R477). -/
def Dev.cqCommit (d : Dev) (q : Nat) (pay : List Byte) : Dev :=
  let trailer := d.is F.CQ_CFG_TRAILER q
  let c := d.cqGet q
  let bytes := cqPacket c.pseq trailer pay
  let d := d.cqOverMark q (c.vis.length + linesOf bytes.length)
  let c := d.cqGet q
  let c := Cq.pushAll (linesOf bytes.length) c true (4 + pay.length) bytes
  let d := d.cqPut q { c with pkt := none, drop := false, gap := false, pseq := (c.pseq + 1) % 65536, lastWr := d.gts }
  (d.inc F.CQ_NOTICE_PENDING q).vector (cqVector q)

/-- A whole packet from a hardware or firmware owner: committed when the queue can take it, otherwise dropped. Answers
whether it was taken. -/
def Dev.cqSend (d : Dev) (q : Nat) (pay : List Byte) : Bool × Dev :=
  if !d.is F.CQ_CFG_EN q then (false, d)
  else if d.cqFits q pay.length then (true, d.cqCommit q pay)
  else (false, (d.cqPut q { d.cqGet q with gap := true }).inc F.CQ_COUNTS_DROPPED q)

/-- Whether the writer of a queue access may write: EN set, and the writer is the owner; an access by another agent sets
CQ_ERR bit q (R470, R504). -/
def Dev.cqMay (d : Dev) (q writer : Nat) : Bool × Dev :=
  if !d.is F.CQ_CFG_EN q then (false, d)
  else if d.rd F.CQ_CFG_OWNER q = writer ∧ writer ≠ 0 then (true, d)
  else (false, d.wrBit F.CQ_ERR_WRITER 0 q true)

/-- One word into a stream queue (R475). -/
def Dev.cqStreamWord (d : Dev) (q : Nat) (first : Bool) (v : Nat) : Dev :=
  let c := d.cqGet q
  if c.needFirst && !first then d else
    let c := { c with needFirst := false }
    if c.cur = [] ∧ c.vis.length ≥ cqLines then
      (d.cqPut q { c with gap := true }).inc F.CQ_COUNTS_DROPPED q
    else
      let d := if c.cur = [] then (d.cqPut q c).cqOverMark q (c.vis.length + 1) else d.cqPut q c
      let c := d.cqGet q
      let c := if c.cur = [] then { c with item := 0xF, curGap := c.gap, gap := false } else c
      let c := if first && c.item = 0xF then { c with item := c.cur.length / 4 } else c
      let c := { c with cur := c.cur ++ le 4 v, lastWr := d.gts }
      let c := if c.cur.length = 32 then { c.push c.item c.curGap c.cur 32 with cur := [] } else c
      (d.cqPut q c).cqWatch q

/-! ### Events (R463) -/

/-- The 32-byte header of a reply or event packet (R441), without its CRC. -/
def mbxHeader (minor op tag status len flags detail gts : Nat) : List Byte :=
  le 1 3 ++ le 1 minor ++ le 2 op ++ le 2 tag ++ le 2 status ++ le 2 len ++ le 2 flags ++ le 4 detail ++ le 8 gts ++ zeros 8

/-- An event packet (R463): written into queue 4, or counted as missed when the queue cannot take it or a completion
waits (R444). -/
def Dev.event (d : Dev) (code arg0 arg1 : Nat) : Dev :=
  if !d.sysOn then d else
  let pay := le 2 code ++ le 2 arg0 ++ le 4 arg1 ++ le 8 d.gts
  let tag := d.obs.evtCount % 65536
  let d := { d with obs.evtCount := d.obs.evtCount + 1 }
  let miss := fun (d : Dev) =>
    (if d.rd F.MBX_STATUS_LEASE = 1 then d else { d with obs.missedFree := d.obs.missedFree + 1 }).inc F.MBX_EVT_MISSED_COUNT
  if d.obs.waitingCompl ≠ [] then miss d
  else
    let r := d.cqSend 4 (mbxHeader 1 0x00F0 tag 0 16 5 0 d.gts ++ pay)
    if r.1 then r.2 else miss r.2

/-! ### Snapshot trigger (R494, R497) -/

/-- Bits of SNAP_SRC_EN. -/
abbrev snapCheck : Nat := 1
abbrev snapMate : Nat := 2
abbrev snapFirmware : Nat := 4
abbrev snapPin : Nat := 8
abbrev snapSync : Nat := 16

/-- Snapshot sources fire in one cycle: while armed, the enabled ones trigger; otherwise the trigger counts as missed. -/
def Dev.snapFire (d : Dev) (src : Nat) : Dev :=
  let hit := src &&& (d.rdw (F.SNAP_SRC_EN_SYNC.addr 0) % 32)
  if hit = 0 then d
  else if d.is F.SNAP_STATUS_ARMED then
    let d := (d.wr F.SNAP_CAUSE_SOURCES 0 hit).wr64 F.SNAP_TRIG_GTS_LO 0 d.aont
    let d := ((d.wr F.SNAP_STATUS_ARMED 0 0).wr F.SNAP_STATUS_CAPTURING 0 1).wr F.SNAP_STATUS_SECTION_VALID 0 0
    { d with obs.snap.want := true }
  else d.inc F.SNAP_STATUS_MISSED

end Sys2Proof.Machine
end

