-- ==== Sys2Proof/Machine/Observe.lean ====
section
/-! DEFINITION. Meanings of the capture-queue, recorder and check-value commands (spec/14). -/

namespace Sys2Proof.Machine

/-! ### Capture queues -/

/-- CQ_PKT_OPEN (R472, R473). -/
def Dev.pktOpen (d : Dev) (q writer : Nat) : Dev :=
  let r := d.cqMay q writer
  if !r.1 then r.2
  else if cqStream q then d.wrBit F.CQ_ERR_WRITER 0 q true
  else
    let c := d.cqGet q
    let d := if c.pkt.isSome ∧ ¬ c.drop then d.cqDropPacket q else d
    let c := { d.cqGet q with pkt := some [], drop := false }
    -- the length slot takes the first line
    if c.vis.length ≥ cqLines then (d.cqPut q c).cqDropPacket q
    else (d.cqPut q { c with lastWr := d.gts }).cqOverMark q (c.vis.length + 1)

/-- CQ_WR_DATA (R472 to R475). -/
def Dev.wrData (d : Dev) (q writer v : Nat) : Dev :=
  let r := d.cqMay q writer
  if !r.1 then r.2
  else if cqStream q then d.cqStreamWord q false v
  else
    let c := d.cqGet q
    match c.pkt with
    | none => d.wrBit F.CQ_ERR_WRITER 0 q true
    | some p =>
      if c.drop then d
      else
        let p' := p ++ le 4 v
        if 4 + p'.length > 16384 ∨ c.vis.length + linesOf (4 + p'.length) > cqLines then d.cqDropPacket q
        else (d.cqPut q { c with pkt := some p', lastWr := d.gts }).cqOverMark q (c.vis.length + linesOf (4 + p'.length))

/-- CQ_PKT_CLOSE (R472 to R474): LAST_BYTES 0 and 5 to 7 are treated as 4. -/
def Dev.pktClose (d : Dev) (q writer lastBytes : Nat) : Dev :=
  let r := d.cqMay q writer
  if !r.1 then r.2
  else if cqStream q then d.wrBit F.CQ_ERR_WRITER 0 q true
  else
    let c := d.cqGet q
    match c.pkt with
    | none => d.wrBit F.CQ_ERR_WRITER 0 q true
    | some p =>
      if c.drop then d.cqPut q { c with pkt := none, drop := false }
      else
        let lb := if 1 ≤ lastBytes ∧ lastBytes ≤ 4 then lastBytes else 4
        let pay := if p = [] then [] else p.take (p.length - 4 + lb)
        if d.cqFits q pay.length then d.cqCommit q pay
        else
          let d := d.cqDropPacket q
          d.cqPut q { d.cqGet q with pkt := none, drop := false }

/-- CQ_WR_FIRST (R473, R475). -/
def Dev.wrFirst (d : Dev) (q writer v : Nat) : Dev :=
  let r := d.cqMay q writer
  if !r.1 then r.2
  else if cqStream q then d.cqStreamWord q true v
  else d.wrBit F.CQ_ERR_WRITER 0 q true

/-- A partial stream line becomes visible, marked PAD, when LINGER has passed with no write (R475). -/
def Dev.cqLinger (d : Dev) (q : Nat) : Dev :=
  let c := d.cqGet q
  if c.cur ≠ [] ∧ c.lastWr + 100 * max (d.rd F.CQ_CFG_LINGER q) 1 ≤ d.gts then
    (d.cqPut q { c.push c.item c.curGap c.cur c.cur.length with cur := [] }).cqWatch q
  else d

/-- Whether a line of queue `q` reads poisoned (R35): any word of its ring slot in the commons is. -/
def Dev.cqPoisoned (d : Dev) (q : Nat) (l : CqLine) : Bool := d.poisonIn .commons (0x100000 + q * 0x10000 + l.slot * 32) 32

/-- Remove the oldest visible line, keeping it while the rewind mark stands (R476, R479). -/
def Dev.cqTake (d : Dev) (q : Nat) : Dev :=
  let c := d.cqGet q
  match c.vis with
  | [] => d
  | l :: vs =>
    (d.cqPut q { c with vis := vs, past := if d.is F.CQ_MARK_VALID q then c.past ++ [l] else [] }).cqWatch q

/-- Feed a taken line to every CRC context bound to the queue (R493). -/
def Dev.cqFeed (d : Dev) (q : Nat) (l : CqLine) : Dev :=
  (List.range 4).foldl (fun d k =>
    if d.is F.CRC_CFG_CQ_BIND k ∧ d.rd F.CRC_CFG_CQ k = q then d.crcFeedCtx k (l.bytes.take l.feed) else d) d

/-- A 32-bit read of CQ_RD_TAG (R476). -/
def Dev.rdTag (d : Dev) (q : Nat) : Dev :=
  let c := d.cqGet q
  match (if d.cqToPort q then [] else c.vis) with
  | [] => (d.wr F.CQ_RD_TAG_TAG q 0x200).emit (.data 0x200 false)
  | l :: _ =>
    let p := d.cqPoisoned q l
    let tag := l.tag.toNat + (if p then 256 else 0)
    let d := d.wr F.CQ_RD_TAG_TAG q tag
    let d := (List.range 8).foldl (fun d i => d.wrw (0x601020 + 0x100 * q + 4 * i) (leVal ((l.bytes.drop (4 * i)).take 4))) d
    let d := (if p then d else d.cqFeed q l).cqTake q
    d.emit (.data (BitVec.ofNat 64 tag) p)

/-- A write of CQ_CFG.FLUSH (R478). -/
def Dev.cqFlush (d : Dev) (q : Nat) : Dev :=
  let c := d.cqGet q
  let c' : Cq := { c with
    past := [], vis := [], cur := [], gap := true
    pkt := c.pkt.map fun _ => [], drop := c.pkt.isSome
    needFirst := cqStream q }
  let d := ((d.cqPut q c').wr F.CQ_MARK_VALID q 0).wr F.CQ_NOTICE_PENDING q 0
  (d.inc F.CQ_COUNTS_FLUSHES q).cqWatch q

/-- A write of CQ_MARK.SET (R479). -/
def Dev.markSet (d : Dev) (q : Nat) : Dev := (d.cqPut q { d.cqGet q with past := [] }).wr F.CQ_MARK_VALID q 1

/-- A write of CQ_MARK.REWIND (R479). -/
def Dev.rewind (d : Dev) (q : Nat) : Dev :=
  let c := d.cqGet q
  if d.is F.CQ_MARK_VALID q then (d.cqPut q { c with vis := c.past ++ c.vis, past := [] }).cqWatch q
  else d.wr F.CQ_MARK_REWIND_FAIL q 1

/-- The stream queue the trace port serves next (R481): a HELD one, lowest first; otherwise round robin. -/
def Dev.tracePick (d : Dev) : Option Nat :=
  let can := fun q => d.cqToPort q && !(d.cqGet q).vis.isEmpty
  match (List.range 4).find? (fun q => can q && d.bit F.CQ_STATUS_HELD 0 q) with
  | some q => some q
  | none => ((List.range 4).map fun i => (d.obs.cqRr + i) % 4).find? can

/-- The trace port sends one unit (R481). -/
def Dev.traceSend (d : Dev) : Dev :=
  if !d.is F.CQ_TRC_CFG_EN then d else
    match d.tracePick with
    | none => d
    | some q =>
      match (d.cqGet q).vis with
      | [] => d
      | l :: _ =>
        let ctl := 128 + q * 32 + (if d.trcHold then 16 else 0)
        let tag := l.tag.toNat + (if d.cqPoisoned q l then 256 else 0)
        let d := d.emit (.trace (le 1 ctl ++ le 4 tag ++ l.bytes))
        { d.cqTake q with obs.cqRr := (q + 1) % 4 }

def execCqPktOpen (q : Fin 16) (writer : Fin 16) (s : State) : Res := s.run (·.pktOpen q writer)
def execCqWrData (q : Fin 16) (writer : Fin 16) (v : Word) (s : State) : Res := s.run (·.wrData q writer v.toNat)
def execCqPktClose (q : Fin 16) (writer : Fin 16) (lastBytes : BitVec 3) (s : State) : Res :=
  s.run (·.pktClose q writer lastBytes.toNat)
def execCqWrFirst (q : Fin 16) (writer : Fin 16) (v : Word) (s : State) : Res := s.run (·.wrFirst q writer v.toNat)
def execCqLingerExpiry (q : Fin 4) (s : State) : Res := s.run (·.cqLinger q)
def execCqRdTag (q : Fin 16) (s : State) : Res := s.run (·.rdTag q)

/-- CQ_NOTICE.ACK (R477). -/
def execCqNoticeAck (q : Fin 16) (n : BitVec 16) (s : State) : Res :=
  s.run fun d => d.wr F.CQ_NOTICE_PENDING q (d.rd F.CQ_NOTICE_PENDING q - n.toNat)

def execFlush (q : Fin 16) (s : State) : Res := s.run (·.cqFlush q)
def execCqMarkSet (q : Fin 16) (s : State) : Res := s.run (·.markSet q)
def execRewind (q : Fin 16) (s : State) : Res := s.run (·.rewind q)
def execTraceUnitSend (s : State) : Res := s.run (·.traceSend)

/-! ### First-failure recorder -/

/-- Entries at the head that fold into the last record are absorbed (R484, R485). -/
def Dev.ffrAbsorb : Nat → Dev → Dev
  | 0, d => d
  | n + 1, d =>
    match d.obs.ffrS.queue, d.obs.ffrS.recs with
    | e :: q, r :: _ => if r.folds e then Dev.ffrAbsorb n ({ d with obs.ffrS.queue := q }).ffrFold else d
    | _, _ => d

/-- The recorder writes its words [lo, hi): they are no longer poisoned, and a write-back pending on one is dropped (R36, R37). -/
def Dev.ffrWrote (d : Dev) (lo hi : Nat) : Dev :=
  let out := fun (k : Nat) => !(decide (6 * 2 ^ 37 + lo ≤ k) && decide (k < 6 * 2 ^ 37 + hi))
  { d with
    poison := d.poison.filter fun c => out c.1
    wb := d.wb.filter fun c => out c.1
    wbPend := d.wbPend.filter fun c => out c.1
    ecc.raw := d.ecc.raw.filter fun c => out c.1 }

/-- The recorder takes the waiting entry (R482, R484, R486). -/
def Dev.ffrAppend (d : Dev) : Dev :=
  let d := d.ffrAbsorb 32
  match d.obs.ffrS.queue with
  | [] => d
  | e :: q =>
    let free : Bool := match d.obs.ffrS.lastAppend with | none => true | some t => decide (t + 160 ≤ d.aont)
    if !free then d else
      let n := (16 + e.payload.length + 15) / 16
      let fill := d.rd F.FFR_FILL_FILL16
      let d := { d with obs.ffrS.queue := q }
      if d.is F.FFR_STATUS_FULL ∨ (fill + n) * 16 > 262144 then
        (d.wr F.FFR_STATUS_FULL 0 1).inc F.FFR_LOST_COUNT
      else
        let seq := d.rd F.FFR_STATUS_NEXT_SEQ
        let d := d.ffrWrote (2 * fill) (2 * (fill + n))
        let d := { d with
          obs.ffrS.recs := { e := e, seq := seq, rep := 0 } :: d.obs.ffrS.recs
          obs.ffrS.lastAppend := some d.aont
          obs.ffrS.lastAct := some d.aont }
        let d := ((d.wr F.FFR_FILL_FILL16 0 (fill + n)).inc F.FFR_FILL_RECORDS).wr F.FFR_STATUS_NEXT_SEQ 0 (seq + 1)
        d.ffrAbsorb 32

/-- PAUSE clears and the held folds are applied (R488). -/
def Dev.ffrRelease (d : Dev) : Dev :=
  let recs := d.obs.ffrS.recs.map fun (r : FfrRec) => { r with rep := satAdd 16 r.rep (tget (fun _ => 0) d.obs.ffrS.held r.seq) }
  let d := { d with obs.ffrS.recs := recs, obs.ffrS.held := [] }
  d.wr F.FFR_CTRL_PAUSE 0 0

/-- FFR_CTRL.CLEAR (R489): only with the key, only when the present contents are archived, and not in an AON cycle in
which a record was appended or a fold made. -/
def Dev.ffrClear (d : Dev) (key : Nat) : Dev :=
  let busy : Bool := match d.obs.ffrS.lastAct with | none => false | some t => decide (t / 40 = d.aont / 40)
  if key = 0x5A96 ∧ d.rd F.FFR_ARCH_FILL16 = d.rd F.FFR_FILL_FILL16 ∧ ¬ busy then
    let d := { d.ffrWrote 0 32768 with obs.ffrS.recs := [], obs.ffrS.held := [] }
    ((((d.wr F.FFR_FILL_FILL16 0 0).wr F.FFR_FILL_RECORDS 0 0).wr F.FFR_STATUS_NEXT_SEQ 0 0).wr F.FFR_STATUS_FULL 0 0).wr
      F.FFR_LOST_COUNT 0 0
  else d

/-- FFR_EVENT: an event with its fields; the payload is padded to a multiple of 16 bytes, at most 1,008 (R482, R484). -/
def execFfrEvent (rank : Fin 19) (cls : Fin 4) (code : BitVec 7) (payload : List Byte) (s : State) : Res :=
  s.run fun d => d.ffrEvent
    { cls := cls, code := code.toNat, stamp := d.aont, rank := rank,
      payload := fitBytes (min 1008 ((payload.length + 15) / 16 * 16)) payload }

def execFfrAppend (s : State) : Res := s.run (·.ffrAppend)

/-- FFR_CTRL.PAUSE (R488). -/
def execFfrPause (on : Bool) (s : State) : Res :=
  s.run fun d => if on then { d.wr F.FFR_CTRL_PAUSE 0 1 with obs.ffrS.pausedAt := d.aont } else d.ffrRelease

/-- PAUSE clears itself 1 ms after it was set (R488). -/
def execFfrPauseExpiry (s : State) : Res :=
  s.run fun d => if d.is F.FFR_CTRL_PAUSE ∧ d.obs.ffrS.pausedAt + 1000000 ≤ d.aont then d.ffrRelease else d

def execFfrClear (key : BitVec 16) (s : State) : Res := s.run (·.ffrClear key.toNat)

/-! ### Check-value units -/

/-- A write of CRC_CFG.ALG (R492). -/
def execCrcAlgWrite (k : Fin 4) (alg : BitVec 3) (s : State) : Res :=
  s.run fun d => (d.wr F.CRC_CFG_ALG k alg.toNat).crcLoad k

/-- A write of CRC_CFG.INIT (R492). -/
def execCrcInit (k : Fin 4) (s : State) : Res := s.run (·.crcLoad k)

/-- A write of CRC_VALUE: bits above the width are ignored, CRC_COUNT is left (R492). -/
def execCrcValueWrite (k : Fin 4) (v : DWord) (s : State) : Res :=
  s.run fun d => d.wr64 F.CRC_VALUE_LO k (v.toNat % 2 ^ crcWidth (d.rd F.CRC_CFG_ALG k))

/-- Bytes of an access of width `w` (R11). -/
def widthBytes : Width → Nat
  | .w8 => 1 | .w16 => 2 | .w32 => 4 | .w64 => 8

/-- A write of CRC_DATA, any width (R493). -/
def execCrcData (k : Fin 4) (w : Width) (v : DWord) (s : State) : Res :=
  s.run fun d => d.crcFeedCtx k (le (widthBytes w) v.toNat)

end Sys2Proof.Machine
end

