-- ==== Sys2Proof/Machine/LinkOps.lean ====
section
/-! DEFINITION. Shared operations of the Vreljan links (spec/04): flits and their CRC, roles and routing, sending, the
receive buffers, the accelerator's mode. -/

namespace Sys2Proof.Machine

abbrev causeBadType : Cause := (1, 0, none)
abbrev causeLinkFault : Cause := (1, 1, none)
abbrev causePairTimeout : Cause := (1, 2, none)

/-! Virtual channels and the states of LNK_STATE (R139, R166). -/
abbrev vcPwr : Nat := 0
abbrev vcSync : Nat := 1
abbrev vcRed : Nat := 2
abbrev vcMgmt : Nat := 3
abbrev lsDisabled : Nat := 0
abbrev lsDetect : Nat := 1
abbrev lsEq : Nat := 2
abbrev lsAlign : Nat := 3
abbrev lsParam : Nat := 4
abbrev lsActive : Nat := 5
abbrev lsStandby : Nat := 6
abbrev lsWake : Nat := 7
abbrev lsFault : Nat := 8

def Dev.lk (d : Dev) (n : Nat) : Link := tget (fun _ => {}) d.vl.links n
def Dev.lkPut (d : Dev) (n : Nat) (x : Link) : Dev := { d with vl.links := tset (fun _ => {}) d.vl.links n x }
def Dev.acc (d : Dev) (a : Nat) : AccVl := tget (fun _ => {}) d.vl.accs a
def Dev.accPut (d : Dev) (a : Nat) (x : AccVl) : Dev := { d with vl.accs := tset (fun _ => {}) d.vl.accs a x }

/-- The training state of a link. -/
def Dev.lst (d : Dev) (n : Nat) : Nat := d.rd F.LNK_STATE_STATE n

/-- A link enters a training state. -/
def Dev.lkGo (d : Dev) (n st : Nat) : Dev := (d.wr F.LNK_STATE_STATE n st).lkPut n { d.lk n with since := d.gts }

/-- The CRC of a flit (R138): CRC-16, polynomial 0x8BB7, initial value 0xFFFF, over bits [143:0] in the order sent (least
significant first; DEDUCED from the flit's order of sending). -/
def flitCrc (bits : Nat) : Nat :=
  (List.range 144).foldl (fun v i =>
    let fb := (v / 2 ^ 15 % 2) ^^^ (bits / 2 ^ i % 2)
    let s := v * 2 % 65536
    if fb = 1 then s ^^^ 0x8BB7 else s) 0xFFFF

/-- The CRC of a 160-bit flit matches. -/
def flitCrcOk (f : BitVec 160) : Bool := f.toNat / 2 ^ 144 = flitCrc (f.toNat % 2 ^ 144)

/-- Bits [lo+len-1:lo] of a payload. -/
def pbits (p : Payload) (lo len : Nat) : Nat := bitsOf p.toNat lo len

/-- The position that holds role `r` (0 primary, 1 secondary, 2 reserve) of accelerator `a`; 3 when vacant. -/
def Dev.holder (d : Dev) (a r : Nat) : Nat := bitsOf (d.rdw (F.VL_ACC_ROLE_PRIMARY.addr a)) (2 * r) 2

/-- Give role `r` of `a` to position `p` (3: vacate it), and show it in LNK_STATE.ROLE. -/
def Dev.setRole (d : Dev) (a r p : Nat) : Dev :=
  let d := d.wrw (F.VL_ACC_ROLE_PRIMARY.addr a) (putBits (d.rdw (F.VL_ACC_ROLE_PRIMARY.addr a)) (2 * r) 2 p)
  if p < 3 then d.wr F.LNK_STATE_ROLE (3 * a + p) r else d

/-- Link numbers of accelerator `a`. -/
def accLinks (a : Nat) : List Nat := [3 * a, 3 * a + 1, 3 * a + 2]

/-- Whether a link of accelerator `a` is ACTIVE. -/
def Dev.anyActive (d : Dev) (a : Nat) : Bool := (accLinks a).any fun n => d.lst n = lsActive

/-- The ACTIVE link that holds role `r`, if any. -/
def Dev.roleLink (d : Dev) (a r : Nat) : Option Nat :=
  let p := d.holder a r
  if p < 3 ∧ d.lst (3 * a + p) = lsActive then some (3 * a + p) else none

/-- The link a flit of accelerator `a` goes on (R132, R155): the holder of its role; the other role's holder while the role
is vacant and the failed link's resend is done; none while it waits. -/
def Dev.route (d : Dev) (a : Nat) (f : Flit) : Option Nat :=
  let r := if f.vc = vcRed then f.role else 0
  if (d.acc a).failed.any (fun x => !x.done && (f.vc = vcRed || x.role = r)) then none
  else match d.roleLink a r with
    | some n => some n
    | none => d.roleLink a (1 - r)

/-- Put one flit on link `n` (R148, R149, R151): the replay buffer takes it, a credit is spent. -/
def Dev.put (d : Dev) (n : Nat) (f : Flit) : Dev :=
  let x := d.lk n
  let seq := d.rd F.LNK_SEQ_TX_NEXT n
  let x := { x with
    replay := x.replay ++ [{ seq := seq, times := 1, at' := d.gts, f := f }]
    cred := x.cred.set f.vc (x.cred.getD f.vc 0 - 1)
    txOpen := if f.vc = vcRed ∧ (f.ty = 2 ∨ f.ty = 3) then f.ty = 2 else x.txOpen }
  ((d.lkPut n x).wr F.LNK_SEQ_TX_NEXT n ((seq + 1) % 128)).emit (.flit n f.vc f.ty f.pay)

/-- Whether link `n` can take a flit of virtual channel `vc` now. -/
def Dev.canSend (d : Dev) (n vc : Nat) : Bool :=
  let x := d.lk n
  d.lst n = lsActive && x.replay.length < 64 && 0 < x.cred.getD vc 0

/-- The next waiting flit of accelerator `a` that can go: by VC priority, then oldest (R152). -/
def Dev.pick (d : Dev) (a : Nat) : Option (Flit × Nat) :=
  let ok := fun (f : Flit) => match d.route a f with | some n => if d.canSend n f.vc then some (f, n) else none | none => none
  [vcPwr, vcSync, vcRed, vcMgmt].findSome? fun v =>
    match (d.acc a).txq.find? (fun f => f.vc = v && (if v = vcRed then (ok f).isSome else true)) with
    | some f => ok f
    | none => none

/-- Waiting flits go out while links, credits and replay buffers allow. -/
def Dev.pump : Nat → Dev → Nat → Dev
  | 0, d, _ => d
  | k + 1, d, a =>
    match d.pick a with
    | none => d
    | some (f, n) => Dev.pump k ((d.accPut a { d.acc a with txq := (d.acc a).txq.erase f }).put n f) a

/-- Fuel enough for every waiting flit. -/
def Dev.pumpAll (d : Dev) (a : Nat) : Dev := d.pump ((d.acc a).txq.length + 1) a

/-- Send a data flit to accelerator `a`: it joins the queue of its VC. A flit for an accelerator with no link that is
ACTIVE or being taken over is discarded. -/
def Dev.send (d : Dev) (a : Nat) (f : Flit) : Dev :=
  if d.anyActive a ∨ (d.acc a).wake.isSome then
    (d.accPut a { d.acc a with txq := (d.acc a).txq ++ [f] }).pumpAll a
  else d

/-- Send a data flit given by VC, TYPE and payload bits. -/
def Dev.sendFlit (d : Dev) (a vc ty pay : Nat) : Dev := d.send a { vc := vc, ty := ty, pay := BitVec.ofNat 128 pay }

/-- Send a link-control flit. -/
def Dev.lct (d : Dev) (n ty : Nat) (fields : List Nat) : Dev := d.emit (.lct n ty fields)

/-- Receive buffers advertised per VC (R146). -/
def rxAdv (vc : Nat) : Nat := [16, 128, 256, 32].getD vc 0

/-- A receive buffer of link `n` is freed: the credit is returned in a STATUS when a quarter of the VC's buffers are to be
returned or no data flit is ready (R151). -/
def Dev.freeRx (d : Dev) (n vc : Nat) : Dev :=
  let x := d.lk n
  let ret := x.ret.set vc (x.ret.getD vc 0 + 1)
  if ret.getD vc 0 * 4 ≥ rxAdv vc ∨ (d.acc (n / 3)).txq = [] then
    (d.lkPut n { x with ret := [0, 0, 0, 0] }).lct n 1 ret
  else d.lkPut n { x with ret := ret }

/-- The owner of a flit takes it from a receive buffer of accelerator `a`, if it stands in one. -/
def Dev.takeRx (d : Dev) (a vc ty : Nat) (pay : Payload) : Dev :=
  let hit := fun (f : Flit) => f.vc = vc && f.ty = ty && f.pay = pay
  match (accLinks a).find? (fun n => (d.lk n).rx.any hit) with
  | none => d
  | some n =>
    let x := d.lk n
    (d.lkPut n { x with rx := x.rx.eraseP hit }).freeRx n vc

/-- Whether RST_OUT#_a is asserted. -/
def Dev.rstAsserted (d : Dev) (a : Nat) : Bool := d.bit F.SEQ_RST_STATUS_ASSERTED 0 a

/-- The modes of VL_ACC_STATUS.MODE (R166). -/
abbrev modeAbsent : Nat := 0
abbrev modeLinked : Nat := 1
abbrev modeSideband : Nat := 2
abbrev modeLost : Nat := 3
abbrev modeHeld : Nat := 4

/-- The mode R562 gives accelerator `a`. -/
def Dev.modeOf (d : Dev) (a : Nat) : Nat :=
  let x := d.acc a
  if !x.present || d.rstAsserted a then modeHeld
  else if d.anyActive a then modeLinked
  else if d.is F.VL_ACC_CTRL_FORCE_SIDEBAND a || x.sideband then modeSideband
  else if x.lost then modeLost
  else modeAbsent

/-- The mode register of accelerator `a`. -/
def Dev.mode (d : Dev) (a : Nat) : Nat := d.rd F.VL_ACC_STATUS_MODE a

/-- Bring the mode register up to R562; each change is reported by event 0x0002;
entering SIDEBAND or LOST makes the sideband power limit due (R279, R383). HELD and ACTIVE end LOST and SIDEBAND. -/
def Dev.modeUpdate (d : Dev) (a : Nat) : Dev :=
  let m := d.modeOf a
  let d := if m = modeHeld ∨ m = modeLinked then d.accPut a { d.acc a with lost := false, sideband := false } else d
  if m = d.mode a then d
  else
    let x := tget (fun _ => ({} : AccPwr)) d.pwr.accs a
    let d := if m = modeSideband ∨ m = modeLost then { d with pwr.accs := tset (fun _ => {}) d.pwr.accs a { x with sbDue := true } } else d
    (d.wr F.VL_ACC_STATUS_MODE a m).event 2 a m

/-- Whether the pairing state of accelerator `a` is MATCH. -/
def Dev.paired (d : Dev) (a : Nat) : Bool := d.rd F.VL_ACC_STATUS_PAIR a = 1

/-- Whether accelerator `a` is linked. -/
def Dev.linked (d : Dev) (a : Nat) : Bool := d.mode a = modeLinked

end Sys2Proof.Machine
end

