-- ==== Sys2Proof/Machine/TwoWire.lean ====
section
/-! DEFINITION. The two-wire segments and the AVSBus controllers (spec/15): shared operations and the meanings of the
two-wire commands. -/

namespace Sys2Proof.Machine

/-- A segment that cannot be brought back went out of service (R519). -/
abbrev causeSegStuck : Cause := (7, 1, none)

def Dev.segGet (d : Dev) (n : Nat) : Seg := tget (fun _ => {}) d.tw.segs n
def Dev.segPut (d : Dev) (n : Nat) (x : Seg) : Dev := { d with tw.segs := tset (fun _ => {}) d.tw.segs n x }
def Dev.avsGet (d : Dev) (a : Nat) : Avs := tget (fun _ => {}) d.tw.avs a
def Dev.avsPut (d : Dev) (a : Nat) (x : Avs) : Dev := { d with tw.avs := tset (fun _ => {}) d.tw.avs a x }

/-- Whether segment `n` has its alert asserted and not masked (R518). -/
def Dev.segAlerting (d : Dev) (n : Nat) : Bool := d.is F.TW_SEG_ALERT_ASSERTED n && !d.is F.TW_SEG_ALERT_MASKED n

/-- Copy a segment's condition to its status registers (R528). -/
def Dev.segShow (d : Dev) (n : Nat) : Dev :=
  let x := d.segGet n
  let st := match x.mode with
    | .powerOff _ | .powerOn _ => 5
    | .outOfService => 6
    | .normal =>
      if !d.is F.TW_SEG_CFG_EN n then 0 else if x.running.isSome then 2 else if d.segAlerting n then 3 else 1
  let d := (d.wr F.TW_SEG_STATUS_STATE n st).wr F.TW_SEG_STATUS_QUEUED n x.queue.length
  (d.wrBit F.TW_STATUS_BUSY 0 n x.running.isSome).wrBit F.TW_STATUS_OUT_OF_SERVICE 0 n (st = 6)

/-- A descriptor completes with a status (R513): the completion queue, the status registers, the counts and the error bits. -/
def Dev.segDone (d : Dev) (n : Nat) (j : TwJob) (status : Nat) (data : List Byte) : Dev :=
  let c : TwDone := { core := j.t.core, seg := n, tag := j.t.tag.toNat, status := status, data := data }
  let d : Dev := { d with tw.done := c :: d.tw.done }
  let d := (d.wr F.TW_SEG_STATUS_LAST n status).wr F.TW_SEG_STATUS_LAST_ADDR n j.t.addr.toNat
  match status with
  | 1 => (d.inc F.TW_SEG_COUNTS_NACK n).wr F.TW_ERR_NACK 0 1
  | 2 => (d.inc F.TW_SEG_COUNTS_NACK n).wr F.TW_ERR_NACK 0 1
  | 3 => d.wr F.TW_ERR_LOST 0 1
  | 4 => d.wr F.TW_ERR_TIMEOUT 0 1
  | 5 => (d.inc F.TW_SEG_COUNTS_PEC n).wr F.TW_ERR_PEC 0 1
  | _ => d

/-- The address byte of a transfer. -/
def addrByte (t : TwDesc) (rd : Bool) : Byte := BitVec.ofNat 8 (2 * t.addr.toNat + rd.toNat)

/-- Bytes the controller writes after the address byte (SMBus 3.1, R509, R512). -/
def twWritten (ty : Nat) (t : TwDesc) : List Byte :=
  let data := fun k => fitBytes k t.buf
  match ty with
  | 2 => data 1
  | 4 => t.cmd :: data 1
  | 5 => t.cmd :: data 2
  | 6 | 7 | 9 => [t.cmd]
  | 8 | 11 => t.cmd :: t.wlen :: data t.wlen.toNat
  | 10 => t.cmd :: data 2
  | _ => []

/-- Whether a type reads from the target. -/
def twReads (ty : Nat) : Bool := [1, 3, 6, 7, 9, 10, 11].contains ty

/-- Whether a type writes before it reads. -/
def twWrites (ty : Nat) : Bool := !([1, 3].contains ty)

/-- The bytes a PEC covers: the address and data bytes in order, the repeated START's address byte included. -/
def twPecBytes (ty : Nat) (t : TwDesc) (rd : List Byte) : List Byte :=
  (if twWrites ty then addrByte t false :: twWritten ty t else []) ++ (if twReads ty then addrByte t true :: rd else [])

/-- What a completed transfer answers: status and data (R513). A missing byte reads as the released bus, 0xFF. -/
def twResult (ty : Nat) (t : TwDesc) (rd : List Byte) : Nat × List Byte :=
  let at' := fun i => rd.getD i 0xFF
  let check := fun (body data : List Byte) =>
    if t.pec ∧ (at' body.length).toNat ≠ pec (twPecBytes ty t body) then (5, []) else (0, data)
  match ty with
  | 3 | 6 => let b := [at' 0]; check b b
  | 7 | 10 => let b := [at' 0, at' 1]; check b b
  | 9 | 11 =>
    let n := (at' 0).toNat
    if n > t.rlen.toNat then (5, [])
    else let b := (List.range (n + 1)).map at'; check b b.tail
  | _ => (0, [])

/-- The descriptor on the bus reaches its end, unless it hangs. -/
def Dev.segRun (d : Dev) (n : Nat) (j : TwJob) : Dev :=
  let wr := twWritten j.ty j.t
  let wr := if j.t.pec ∧ ¬ twReads j.ty ∧ j.ty ≠ 0 then wr ++ [BitVec.ofNat 8 (pec (addrByte j.t false :: wr))] else wr
  let d := d.emit (.twoWire n j.ty j.t.addr.toNat j.t.cmd.toNat wr)
  match j.r with
  | .ok rd => let r := twResult j.ty j.t rd; d.segDone n j r.1 r.2
  | .nackAddr => d.segDone n j 1 []
  | .nackData => d.segDone n j 2 []
  | .hang => d.segPut n { d.segGet n with running := some j, lost := false }

/-- The controller takes queued descriptors while it is idle, in service and has no alert to serve (R512, R518). -/
def Dev.segPump : Nat → Dev → Nat → Dev
  | 0, d, n => d.segShow n
  | k + 1, d, n =>
    let x := d.segGet n
    match x.running, x.queue with
    | none, j :: q =>
      if x.mode = .outOfService then Dev.segPump k ((d.segPut n { x with queue := q }).segDone n j 6 []) n
      else if x.mode = .normal ∧ d.is F.TW_SEG_CFG_EN n ∧ ¬ d.segAlerting n then
        Dev.segPump k ((d.segPut n { x with queue := q }).segRun n j) n
      else d.segShow n
    | _, _ => d.segShow n

/-- A core offers a descriptor (R512, R513): BAD_DESC completes at once, a full queue refuses it, a segment in recovery or
out of service answers STUCK; otherwise it is queued and taken in order. -/
def Dev.twOffer (d : Dev) (n ty : Nat) (t : TwDesc) (r : BusResult) : Dev :=
  let j : TwJob := { ty := ty, t := t, r := r, tries := 0 }
  let x := d.segGet n
  if ty ≥ 12 ∨ t.addr = 0x0C ∨ t.rsvd then (d.segDone n j 8 []).segShow n
  else if x.mode ≠ .normal then (d.segDone n j 6 []).segShow n
  else if x.queue.length ≥ 16 then d.note t.core "FULL" n
  else (d.segPut n { x with queue := x.queue ++ [j] }).segPump 17 n

def execQuickWrite (n : Fin 12) (t : TwDesc) (r : BusResult) (s : State) : Res := s.run (·.twOffer n 0 t r)
def execQuickRead (n : Fin 12) (t : TwDesc) (r : BusResult) (s : State) : Res := s.run (·.twOffer n 1 t r)
def execSendByte (n : Fin 12) (t : TwDesc) (r : BusResult) (s : State) : Res := s.run (·.twOffer n 2 t r)
def execReceiveByte (n : Fin 12) (t : TwDesc) (r : BusResult) (s : State) : Res := s.run (·.twOffer n 3 t r)
def execWriteByte (n : Fin 12) (t : TwDesc) (r : BusResult) (s : State) : Res := s.run (·.twOffer n 4 t r)
def execWriteWord (n : Fin 12) (t : TwDesc) (r : BusResult) (s : State) : Res := s.run (·.twOffer n 5 t r)
def execReadByte (n : Fin 12) (t : TwDesc) (r : BusResult) (s : State) : Res := s.run (·.twOffer n 6 t r)
def execReadWord (n : Fin 12) (t : TwDesc) (r : BusResult) (s : State) : Res := s.run (·.twOffer n 7 t r)
def execBlockWrite (n : Fin 12) (t : TwDesc) (r : BusResult) (s : State) : Res := s.run (·.twOffer n 8 t r)
def execBlockRead (n : Fin 12) (t : TwDesc) (r : BusResult) (s : State) : Res := s.run (·.twOffer n 9 t r)
def execProcessCall (n : Fin 12) (t : TwDesc) (r : BusResult) (s : State) : Res := s.run (·.twOffer n 10 t r)
def execBlockProcessCall (n : Fin 12) (t : TwDesc) (r : BusResult) (s : State) : Res := s.run (·.twOffer n 11 t r)
def execReservedDescriptorType (n : Fin 12) (ty : Fin 4) (t : TwDesc) (s : State) : Res :=
  s.run (·.twOffer n (12 + ty) t .hang)

/-- The running descriptor ends with a status and the next is taken. -/
def Dev.segEnd (d : Dev) (n status : Nat) : Dev :=
  let x := d.segGet n
  match x.running with
  | none => d
  | some j => ((d.segPut n { x with running := none, lost := false }).segDone n j status []).segPump 17 n

/-- SCL held low for TIMEOUT_MS (R514). -/
def execClockStretchTimeout (n : Fin 12) (s : State) : Res :=
  s.run fun d => (d.inc F.TW_SEG_COUNTS_TIMEOUT n).segEnd n 4

/-- Arbitration lost (R516): on SMB_0 the descriptor waits for a free bus and, if the winner addressed the S960 in the
address byte, the transfer is served as a target; elsewhere it completes with LOST at once. -/
def Dev.arbLost (d : Dev) (n : Nat) (addressed : Bool) : Dev :=
  let x := d.segGet n
  match x.running with
  | none => d
  | some _ =>
    let d := d.inc F.TW_SEG_COUNTS_LOST n
    if n = 0 then
      let d := d.segPut 0 { x with lost := true }
      if addressed then d.emit (.msg "SMB_0 target" 0 []) else d
    else d.segEnd n 3

def execArbitrationLost (n : Fin 12) (addressed : Bool) (s : State) : Res := s.run (·.arbLost n addressed)

/-- The bus is free again: the loser starts again from START, up to ARB_RETRIES times, then completes with LOST (R516). -/
def Dev.arbRetry (d : Dev) (n : Nat) (r : BusResult) : Dev :=
  let x := d.segGet n
  match x.running with
  | none => d
  | some j =>
    if !x.lost then d
    else if j.tries ≥ d.rd F.TW_SEG_CFG_ARB_RETRIES n then d.segEnd n 3
    else
      ((d.segPut n { x with running := none, lost := false }).segRun n { j with tries := j.tries + 1, r := r }).segPump 17 n

def execArbitrationRetry (n : Fin 12) (r : BusResult) (s : State) : Res := s.run (·.arbRetry n r)

/-- Segment `n`'s alert as its inputs stand: SMB_ALERT#_n, or an ALERT_a mapped to it (R518). -/
def Dev.alertLevel (d : Dev) (n : Nat) : Bool :=
  bitOf d.tw.segAlert n ||
    (List.range 8).any fun a => bitOf d.tw.accAlert a && bitsOf (d.rd F.TW_ACC_ALERT_MAP) (4 * a) 4 = n

/-- Take the inputs of segment `n` into ASSERTED. -/
def Dev.alertEval (d : Dev) (n : Nat) : Dev :=
  let on := d.alertLevel n
  let x := d.segGet n
  let d := if on then d else d.segPut n { x with araRun := 0 }
  (d.wr F.TW_SEG_ALERT_ASSERTED n on.toNat).segPump 17 n

/-- An alert input changes: 0 to 11 SMB_ALERT#_n, 12 to 19 ALERT_a (R518). A segment in recovery or out of service ignores
its alert (R519, R520). -/
def Dev.alertInput (d : Dev) (src : Nat) (level : Bool) : Dev :=
  if src < 12 then
    let d := { d with tw.segAlert := putBit d.tw.segAlert src level }
    if (d.segGet src).mode = .normal then d.alertEval src else d
  else
    let a := src - 12
    let d := { d with tw.accAlert := putBit d.tw.accAlert a level }
    let n := bitsOf (d.rd F.TW_ACC_ALERT_MAP) (4 * a) 4
    if n < 12 ∧ (d.segGet n).mode = .normal then d.alertEval n else d

def execAlertAssert (src : Fin 20) (level : Bool) (s : State) : Res := s.run (·.alertInput src level)

/-- The alert is stuck: masked for 1 s (R518). -/
def Dev.alertStuck (d : Dev) (n : Nat) : Dev :=
  let d := (d.wr F.TW_ERR_ALERT_STUCK 0 1).wr F.TW_SEG_ALERT_MASKED n 1
  (d.segPut n { d.segGet n with araRun := 0, maskTill := d.aont + 1000000000 }).segPump 17 n

/-- One ARA read (R518): an answer is recorded and PMC is told; 16 answers in a row, or a NACK, while the alert stays
asserted mask it. It runs only with an alert to serve and no transaction in progress. -/
def Dev.araRead (d : Dev) (n : Nat) (resp : Option Byte) : Dev :=
  let x := d.segGet n
  if ¬ d.segAlerting n ∨ x.running.isSome ∨ x.mode ≠ .normal then d
  else
    let d := d.emit (.twoWire n 6 0x0C 0 [])
    match resp with
    | none => d.alertStuck n
    | some b =>
      let d := (d.inc F.TW_SEG_ALERT_COUNT n).wr F.TW_SEG_ALERT_LAST_ADDR n (b.toNat / 2)
      let d := d.note 1 "ALERT" (n * 128 + b.toNat / 2)
      if x.araRun + 1 ≥ 16 then d.alertStuck n else d.segPut n { x with araRun := x.araRun + 1 }

def execAraRead (n : Fin 12) (resp : Option Byte) (s : State) : Res := s.run (·.araRead n resp)

/-- 1 s after masking the alert is unmasked and evaluated again (R518). -/
def execAlertUnmask (n : Fin 12) (s : State) : Res :=
  s.run fun d =>
    if d.is F.TW_SEG_ALERT_MASKED n ∧ (d.segGet n).maskTill ≤ d.aont then (d.wr F.TW_SEG_ALERT_MASKED n 0).alertEval n else d

/-- A segment goes out of service (R519, R520). -/
def Dev.segOut (d : Dev) (n : Nat) : Dev :=
  let d := d.segPut n { d.segGet n with mode := .outOfService }
  ((d.wr F.TW_ERR_STUCK 0 1).ffr causeSegStuck n 0).segShow n

/-- Every queued descriptor completes with a status (R519, R526). -/
def Dev.segFail (d : Dev) (n status : Nat) : Dev :=
  let x := d.segGet n
  let js := x.running.toList ++ x.queue
  js.foldl (fun d j => d.segDone n j status []) (d.segPut n { x with queue := [], running := none, lost := false })

/-- The descriptors of a core that its watchdog resets complete ABORTED; the others go on (R526). -/
def Dev.twCoreAbort (d : Dev) (k : Nat) : Dev :=
  (List.range 12).foldl (fun (d : Dev) (n : Nat) =>
    let x := d.segGet n
    let mine := fun (j : TwJob) => j.t.core.val = k
    let js := (x.running.toList ++ x.queue).filter mine
    if js.isEmpty then d
    else
      let hit := x.running.toList.any mine
      let x' : Seg := { x with
        queue := x.queue.filter fun (j : TwJob) => !mine j
        running := if hit then none else x.running
        lost := x.lost && !hit }
      (js.foldl (fun d j => d.segDone n j 7 []) (d.segPut n x')).segPump 17 n) d

/-- Drive SEGPWR_EN_n. -/
def Dev.segPower (d : Dev) (n : Nat) (on : Bool) : Dev :=
  ({ d with tw.segPwr := putBit d.tw.segPwr n on }).pin "SEGPWR_EN" n on

/-- A line low for 35 ms with no transfer of the S960's own (R519): step 2 where SDA alone is low, then a power cycle where
SEGPWR is wired, else out of service. -/
def Dev.stuckBus (d : Dev) (n : Nat) (sclLow freed : Bool) : Dev :=
  let x := d.segGet n
  if x.running.isSome ∨ x.mode ≠ .normal ∨ ¬ d.is F.TW_SEG_CFG_EN n then d
  else
    let d := d.segFail n 6
    let d := if sclLow then d else d.inc F.TW_SEG_RECOV_CLEARS n
    if !sclLow && freed then d.segShow n
    else if d.is F.TW_SEG_CFG_SEGPWR n then
      let off := min (max (d.rd F.TW_SEGPWR_CFG_OFF_MS) 10) 5000
      let d := (d.inc F.TW_SEG_RECOV_POWERCYCLES n).segPower n false
      (d.segPut n { d.segGet n with mode := .powerOff (d.aont + off * 1000000) }).segShow n
    else d.segOut n

def execStuckBus (n : Fin 12) (sclLow : Bool) (freed : Bool) (s : State) : Res := s.run (·.stuckBus n sclLow freed)

/-- The supply is switched on again after SEGPWR_OFF (R519). -/
def execSegpwrOffEnd (n : Fin 12) (s : State) : Res :=
  s.run fun d =>
    match (d.segGet n).mode with
    | .powerOff t =>
      if t ≤ d.aont then
        let on := min (max (d.rd F.TW_SEGPWR_CFG_ON_MS) 1) 5000
        (d.segPower n true).segPut n { d.segGet n with mode := .powerOn (d.aont + on * 1000000) }
      else d
    | _ => d

/-- After SEGPWR_ON, both lines high for 1 ms return the segment to IDLE; otherwise it is out of service (R519). -/
def execSegpwrOnEnd (n : Fin 12) (linesHigh : Bool) (s : State) : Res :=
  s.run fun d =>
    match (d.segGet n).mode with
    | .powerOn t =>
      if t + 1000000 ≤ d.aont then
        if linesHigh then (d.segPut n { d.segGet n with mode := .normal }).segPump 17 n else d.segOut n
      else d
    | _ => d

/-! ### AVSBus (R524, R525) -/

/-- Send the frame of a command on controller `a`. -/
def Dev.avsFrame (d : Dev) (a : Nat) (c : AvsCmd) : Dev :=
  match c with
  | .volt mv => d.emit (.avs a 0 0 mv)
  | .read w => d.emit (.avs a 1 w 0)
  | .status => d.emit (.avs a 1 14 0)
  | .wrStatus v => d.emit (.avs a 0 14 v)

/-- An idle controller in use takes its next command, voltage writes first (R524). -/
def Dev.avsPump (d : Dev) (a : Nat) : Dev :=
  let x := d.avsGet a
  if x.cur.isSome ∨ ¬ d.is F.TW_AVS_SEL_EN a then d
  else
    let isVolt := fun (c : AvsCmd) => match c with | .volt _ => true | _ => false
    match x.queue.find? isVolt with
    | some c => (d.avsPut a { x with cur := some (c, 0), queue := x.queue.erase c }).avsFrame a c
    | none =>
      match x.queue with
      | [] => d
      | c :: q => (d.avsPut a { x with cur := some (c, 0), queue := q }).avsFrame a c

/-- Queue a command on controller `a`. -/
def Dev.avsSend (d : Dev) (a : Nat) (c : AvsCmd) : Dev :=
  (d.avsPut a { d.avsGet a with queue := (d.avsGet a).queue ++ [c] }).avsPump a

def execAvsWriteCommit (a : Fin 8) (mv : BitVec 16) (s : State) : Res := s.run (·.avsSend a (.volt mv.toNat))
def execAvsReadTelemetry (a : Fin 8) (what : Fin 3) (s : State) : Res := s.run (·.avsSend a (.read what))
def execAvsReadStatus (a : Fin 8) (s : State) : Res := s.run (·.avsSend a .status)
def execAvsWriteStatus (a : Fin 8) (v : BitVec 16) (s : State) : Res := s.run (·.avsSend a (.wrStatus v.toNat))

/-- The command in flight is sent again (R525). -/
def Dev.avsResend (d : Dev) (a : Nat) (c : AvsCmd) (k : Nat) : Dev :=
  ((d.avsPut a { d.avsGet a with cur := some (c, k + 1), waitTill := none }).inc F.TW_AVS_COUNTS_RESENDS a).avsFrame a c

/-- The command in flight is over; the next is taken. -/
def Dev.avsClear (d : Dev) (a : Nat) : Dev := (d.avsPut a { d.avsGet a with cur := none, waitTill := none }).avsPump a

/-- How a response ends the command in flight: nothing to end, done, failed, or sent again. -/
inductive AvsEnd where
  | idle | done (c : AvsCmd) | failed (c : AvsCmd) | again
  deriving DecidableEq, Repr

/-- A response frame reaches controller `a` (R525). -/
def Dev.avsAnswer (d : Dev) (a ack : Nat) (crcOk : Bool) : AvsEnd × Dev :=
  match (d.avsGet a).cur with
  | none => (.idle, d)
  | some (c, k) =>
    let d := if crcOk then d.wr F.TW_AVS_STATUS_LAST_ACK a ack else d
    let d := if !crcOk || ack = 2 then d.inc F.TW_AVS_COUNTS_CRC_ERR a else if ack = 1 then d.inc F.TW_AVS_COUNTS_BUSY a else d
    let retries := min (d.rd F.TW_AVS_CFG_RETRIES) 7
    if crcOk ∧ ack = 0 then (.done c, d.avsClear a)
    else if crcOk ∧ ack = 3 ∨ k ≥ retries then
      (.failed c, ((d.inc F.TW_AVS_COUNTS_FAILURES a).wr F.TW_ERR_AVS_FAIL 0 1).avsClear a)
    else if crcOk ∧ ack = 1 then
      (.again, d.avsPut a { d.avsGet a with waitTill := some (d.gts + 1000 * max (d.rd F.TW_AVS_CFG_BUSY_WAIT) 1) })
    else (.again, d.avsResend a c k)

/-- A busy command is sent again after BUSY_WAIT (R525). -/
def execAvsBusyWaitEnd (a : Fin 8) (s : State) : Res :=
  s.run fun d =>
    match (d.avsGet a).cur, (d.avsGet a).waitTill with
    | some (c, k), some t => if t ≤ d.gts then d.avsResend a c k else d
    | _, _ => d

/-- The regulator pulls SDATA low on an idle link: the controller reads status (R525). -/
def execAvsStatusAlert (a : Fin 8) (s : State) : Res :=
  s.run fun d =>
    if (d.avsGet a).cur.isSome ∨ ¬ d.is F.TW_AVS_SEL_EN a then d
    else (d.wr F.TW_AVS_STATUS_ALERT a 1).avsSend a .status

end Sys2Proof.Machine
end

