-- ==== Sys2Proof/Machine/PowerOps.lean ====
section
/-! DEFINITION. Shared operations of power control (spec/07): emergency states, CHECK and MATE, budgets and their clamp, the
DVFS sequencer, droop. -/

namespace Sys2Proof.Machine

abbrev causeDvfs : Cause := (4, 0, none)
abbrev causeSbWrite : Cause := (4, 1, none)
abbrev causeFastFail : Cause := (4, 2, none)
abbrev causeCheck : Cause := (4, 3, none)
abbrev causeCapForce : Cause := (4, 4, none)

def Dev.pw (d : Dev) (a : Nat) : AccPwr := tget (fun _ => {}) d.pwr.accs a
def Dev.pwPut (d : Dev) (a : Nat) (x : AccPwr) : Dev := { d with pwr.accs := tset (fun _ => {}) d.pwr.accs a x }

/-- The eight accelerators. -/
def accs8 : List Nat := List.range 8

/-- Apply an operation to each accelerator in order. -/
def Dev.forAcc (d : Dev) (f : Dev → Nat → Dev) : Dev := accs8.foldl f d

/-- An accelerator whose PRSNT#_a is asserted (R244). -/
def Dev.present (d : Dev) (a : Nat) : Bool := (d.acc a).present

/-! ### Emergency states (R281) -/

/-- The states of R281 as they stand. -/
def Dev.emergNow (d : Dev) : Nat :=
  let check := d.rdw (F.PWC_CHECK_LATCH_OC.addr 0) ≠ 0 || d.rd F.PWC_CHECK_FORCE_FORCE ≠ 0 ||
    accs8.any (fun a => (d.pw a).limCheck) || d.pwr.chkHold
  let lim := match d.pwr.limStep with | none => false | some t => decide (d.gts < t + 100000000)
  let bus := d.is F.SEQ_BUS_STATUS_UV_WARN || d.is F.SEQ_BUS_STATUS_UV_FAULT || d.is F.SEQ_BUS_STATUS_OV ||
    d.rd F.SEQ_HSW_STATUS_STATE = 3
  maskOf 7 fun k => match k with
    | 0 => check
    | 1 => d.is F.PWC_MATE_STATUS_ACTIVE
    | 2 => d.pwr.capEmerg || d.is F.PWC_STATUS_INFEASIBLE
    | 3 => lim
    | 4 => accs8.any fun a => (d.pw a).droop ≠ .none
    | 5 => d.is F.COOL_STATUS_THERMAL
    | _ => bus

/-- CLEAR_MS: milliseconds with every state clear, saturating (R281). -/
def Dev.clearMs (d : Dev) : Nat :=
  if d.rd F.PWC_EMERG_STATE ≠ 0 then 0 else min 65535 ((d.aont - d.pwr.clearSince) / 1000000)

/-- Bring PWC_EMERG up to date; a change fires vector 2 and is reported by event 0x0001 (R437, R463). -/
def Dev.emergUpdate (d : Dev) : Dev :=
  let new := d.emergNow
  let old := d.rd F.PWC_EMERG_STATE
  let d := { d with oro.frm := { d.oro.frm with emerg := d.oro.frm.emerg ||| new } }
  if new = old then d
  else
    let ms := d.clearMs
    let d := if new = 0 then { d with pwr.clearSince := d.aont } else d
    let d := (d.wr F.PWC_EMERG_STATE 0 new).vector 2
    let d := if new ≠ 0 then
        { d with pwr.clocks := d.pwr.clocks.map fun (p : Nat × Clock) => if p.2.st = 1 then (p.1, { p.2 with emerg := true }) else p }
      else d
    d.event 1 new ms

/-! ### P-state tables and budgets (R244, R247, R251) -/

/-- A word of the P-state table: entry `p`, word `w`. -/
def Dev.ptab (d : Dev) (a p w : Nat) : Nat := d.rdw (0x201100 + 0x200 * a + 8 * p + 4 * w)
def Dev.freq (d : Dev) (a p : Nat) : Nat := d.ptab a p 0 / 65536
def Dev.volt (d : Dev) (a p : Nat) : Nat := d.ptab a p 0 % 65536
def Dev.power (d : Dev) (a p : Nat) : Nat := d.ptab a p 1 / 65536
def Dev.fref (d : Dev) (a p : Nat) : Nat := d.ptab a p 1 % 65536

/-- The table is valid. -/
def Dev.ptabOk (d : Dev) (a : Nat) : Bool := d.is F.PWC_ACC_CFG_PTAB_VALID a

/-- Last acknowledged P-state. -/
def Dev.cur (d : Dev) (a : Nat) : Nat := d.rd F.PWC_ACC_PSTATE_CURRENT a

/-- Applied budget. -/
def Dev.budget (d : Dev) (a : Nat) : Nat := d.rd F.PWC_ACC_BUDGET_ACTIVE_W a

/-- The lowest-numbered P-state at or above `p` whose POWER fits the applied budget; 31 when none does (R247). -/
def Dev.clampP (d : Dev) (a p : Nat) : Nat :=
  ((List.range 32).find? fun q => p ≤ q && d.power a q ≤ d.budget a).getD 31

/-- A commanded P-state clamped under R247; a clamp sets the accelerator's LIMITING bit. -/
def Dev.clampCmd (d : Dev) (a p : Nat) : Nat × Dev :=
  let q := d.clampP a p
  if q = p then (q, d) else (q, (d.pwPut a { d.pw a with clamped := true }).wrBit F.PWC_STATUS_LIMITING 0 a true)

/-- A filler intensity clamped under R247: the largest k' ≤ k with k' / 16 × FREF(p) ≤ B. -/
def Dev.clampK (d : Dev) (a k : Nat) : Nat × Dev :=
  let k' := ((List.range (min k 16 + 1)).reverse.find? fun j => j * d.fref a (d.cur a) ≤ 16 * d.budget a).getD 0
  if k' = k then (k', d) else (k', (d.pwPut a { d.pw a with clamped := true }).wrBit F.PWC_STATUS_LIMITING 0 a true)

/-- Available power (R244). -/
def Dev.available (d : Dev) : Nat := d.rd F.PWC_TRAY_CAP_CAP_W - d.rd F.PWC_OVERHEAD_RESERVE_W

/-- The accelerators that have a budget: PRSNT#_a asserted. -/
def Dev.budgeted (d : Dev) : List Nat := accs8.filter d.present

/-- Sum over the budgeted accelerators. -/
def Dev.sumAcc (d : Dev) (f : Nat → Nat) : Nat := (d.budgeted.map f).foldl (· + ·) 0

/-- The floor POWER(31) of an accelerator. -/
def Dev.floorW (d : Dev) (a : Nat) : Nat := d.power a 31

/-- Whether a proposed set satisfies R244. -/
def Dev.budgetOk (d : Dev) (b : Nat → Nat) : Bool := d.budgeted.all (fun a => d.floorW a ≤ b a) && d.sumAcc b ≤ d.available

/-- An applied budget: the register, the ceiling, and the sideband write it calls for (R246, R279). -/
def Dev.applyB (d : Dev) (a b : Nat) : Dev :=
  let d := if d.budget a = b then d else d.pwPut a { d.pw a with sbDue := true }
  let d := d.wr F.PWC_ACC_BUDGET_ACTIVE_W a b
  d.wr F.PWC_ACC_PSTATE_CEILING a (d.clampP a 0)

/-- Apply the staged budget of an accelerator, clamped by an EMERGENCY cap that came while it was staged (R273, R274). -/
def Dev.applyStaged (d : Dev) (a : Nat) : Dev :=
  let b := d.rd F.PWC_ACC_BUDGET_STAGED_W a
  if b = 0 then d
  else
    let b := match (d.pw a).emergClamp with | some m => min b m | none => b
    ((d.wr F.PWC_ACC_BUDGET_STAGED_W a 0).pwPut a { d.pw a with emergClamp := none }).applyB a b

/-- The floors alone exceed the available power: INFEASIBLE, and every budgeted accelerator gets its floor (R244). -/
def Dev.infeasible (d : Dev) : Dev :=
  d.budgeted.foldl (fun d a => d.applyB a (d.floorW a)) (d.wr F.PWC_STATUS_INFEASIBLE 0 1)

/-- Whether the floors fit the available power. -/
def Dev.floorsFit (d : Dev) : Bool := d.sumAcc d.floorW ≤ d.available

/-- AVAILABLE_W as the cap stands. -/
def Dev.showAvail (d : Dev) : Dev := d.wr F.PWC_TRAY_CAP_AVAILABLE_W 0 d.available

/-! ### The DVFS sequencer (R253 to R257) -/

/-- Send a PWR flit with the next SEQ in bits [15:8]; answers the SEQ used. -/
def Dev.sendPwr (d : Dev) (a ty pay : Nat) : Nat × Dev :=
  let q := (d.pw a).seq
  (q, (d.pwPut a { d.pw a with seq := if q = 254 then 0 else q + 1 }).sendFlit a vcPwr ty (pay + q * 256))

/-- ACC_a is in CHECK. -/
def Dev.inCheck (d : Dev) (a : Nat) : Bool := d.bit F.PWC_STATUS_CHECK_ACC 0 a

/-- Guardband of a level, mV (R257). -/
def Dev.gbMv (d : Dev) (l : Nat) : Nat :=
  match l with
  | 0 => d.rd F.PWC_GB_CFG_LOW_MV
  | 1 => d.rd F.PWC_GB_CFG_HIGH_MV
  | _ => d.rd F.PWC_GB_CFG_DROOP_MV

/-- The lowest-numbered P-state the accelerator may be running: the last acknowledged, or one sent and not acknowledged
(R253). -/
def Dev.lowestRun (d : Dev) (a : Nat) : Nat :=
  match (d.pw a).change with
  | some c => (match c.phase with | .sent .. => min c.target (d.cur a) | _ => d.cur a)
  | none => d.cur a

/-- The voltage last acknowledged on AVS_a, mV. -/
def Dev.vNow (d : Dev) (a : Nat) : Nat := d.rd F.TW_AVS_STATUS_VOLT_MV a

/-- The voltage writes of AVS_a not yet acknowledged, in order. -/
def Dev.voltsOut (d : Dev) (a : Nat) : List Nat :=
  let x := d.avsGet a
  ((match x.cur with | some (c, _) => [c] | none => []) ++ x.queue).filterMap fun c => match c with | .volt mv => some mv | _ => none

/-- The voltage once every write in progress is done. -/
def Dev.vLast (d : Dev) (a : Nat) : Nat := (d.voltsOut a).getLast?.getD (d.vNow a)

/-- Voltage `mv` is in place now and stays so. -/
def Dev.vAtLeast (d : Dev) (a mv : Nat) : Bool := mv ≤ d.vNow a && (d.voltsOut a).all (fun v => mv ≤ v)

/-- Write a voltage through AVS_a, only for a linked accelerator with a valid table (R251, R278). -/
def Dev.writeV (d : Dev) (a mv : Nat) : Dev := if d.ptabOk a ∧ d.linked a then d.avsSend a (.volt mv) else d

/-- Show the change in flight in PWC_ACC_PSTATE. -/
def Dev.showChange (d : Dev) (a : Nat) : Dev :=
  let x := d.pw a
  let d := d.wr F.PWC_ACC_PSTATE_IN_FLIGHT a x.change.isSome.toNat
  let d := match x.change with | some c => d.wr F.PWC_ACC_PSTATE_TARGET a c.target | none => d
  d.wr F.PWC_ACC_PSTATE_PENDING a (x.pending.getD 0)

/-- Send PSTATE_SET and await its acknowledgement. -/
def Dev.sendPset (d : Dev) (a q : Nat) (raise lim : Bool) : Dev :=
  let r := d.sendPwr a 0 q
  (r.2.pwPut a { r.2.pw a with
    change := some { target := q, raise := raise, lim := lim, phase := .sent d.gts 0 r.1 } }).showChange a

/-- Start a change to `q` from P-state `p` (R253): a raise writes the voltage first unless it is in place; a lowering sends
PSTATE_SET first. -/
def Dev.startChange (d : Dev) (a p q : Nat) : Dev :=
  if !d.ptabOk a || !d.linked a then d.pwPut a { d.pw a with pending := some q }
  else if q < p then
    let mv := d.volt a q + d.gbMv (d.rd F.PWC_ACC_PSTATE_GB_LEVEL a)
    if d.vAtLeast a mv then d.sendPset a q true false
    else
      ((d.pwPut a { d.pw a with change := some { target := q, raise := true, lim := false, phase := .volt mv } }).showChange a).writeV a mv
  else if p < q then d.sendPset a q false false
  else d

/-- The single step toward a goal the arbiter's plan takes at a time (R276). -/
def stepTo (p q : Nat) : Nat := if q < p then p - 1 else if p < q then p + 1 else q

/-- Start the pending target, clamped, when nothing holds it (R255). `from'` is the P-state the accelerator runs. -/
def Dev.startPending (d : Dev) (a from' : Nat) : Dev :=
  let x := d.pw a
  match x.pending with
  | none => d
  | some q =>
    if x.change.isSome ∨ d.inCheck a ∨ x.droop ≠ .none ∨ d.is F.PWC_ACC_PSTATE_DVFS_FAULT a ∨ ¬ d.linked a then d
    else
      let r := d.clampCmd a q
      let t := if x.stepped then stepTo from' r.1 else r.1
      let d := r.2.pwPut a { r.2.pw a with pending := if t = r.1 then none else some r.1 }
      (d.startChange a from' t).showChange a

/-- A P-state request (R255): replaced by one PSTATE_SET 31 under DVFS_FAULT; otherwise it becomes the pending target, which
starts when nothing is in flight. -/
def Dev.request (d : Dev) (a q : Nat) (stepped : Bool) : Dev :=
  if d.is F.PWC_ACC_PSTATE_DVFS_FAULT a then (if d.ptabOk a ∧ ¬ d.inCheck a ∧ d.linked a then (d.sendPwr a 0 31).2 else d)
  else if !d.ptabOk a then d
  else
    let d := d.pwPut a { d.pw a with pending := some q, stepped := stepped }
    (d.startPending a (d.cur a)).showChange a

/-- A command that pre-empts the change in flight (R248, R259, R274): an unsent raise is not sent, a sent change is followed
by PSTATE_SET `q`, an abandoned lowering writes no voltage; what was abandoned becomes the pending target unless a later one
stands or the limiter steps on from a step of its own. `q` is commanded in the lowering order; where it is a raise, because the
raise it replaces was not sent, in that of a raise. -/
def Dev.preempt (d : Dev) (a q : Nat) (lim : Bool) : Dev :=
  if d.is F.PWC_ACC_PSTATE_DVFS_FAULT a then (if d.ptabOk a ∧ ¬ d.inCheck a ∧ d.linked a then (d.sendPwr a 0 31).2 else d)
  else if !d.ptabOk a || !d.linked a then d
  else
    let x := d.pw a
    let ab := match x.pending, x.change with
      | some p, _ => some p
      | none, some c => if c.lim && lim then none else some c.target
      | none, none => none
    let sent : Bool := match x.change with | some c => (match c.phase with | .sent .. => true | _ => false) | none => false
    let d := d.pwPut a { x with pending := ab, change := none }
    if d.inCheck a then (d.pwPut a { d.pw a with pending := some (max q (ab.getD 0)) }).showChange a
    else if q < d.cur a ∧ ¬ sent then
      if x.droop ≠ .none then d.showChange a else ((d.pwPut a { d.pw a with pending := none }).startChange a (d.cur a) q).showChange a
    else d.sendPset a q false lim

/-- The higher-numbered of the last acknowledged P-state and the target in flight (R248, R259); 31 in CHECK (R266). -/
def Dev.runOrMove (d : Dev) (a : Nat) : Nat :=
  if d.inCheck a then 31 else
  match (d.pw a).change with
  | some c => max (d.cur a) c.target
  | none => d.cur a

/-- The voltage follows a guardband level that was `old` (R257): a rise is written at once, a fall in the lowering order;
GUARDBAND_STEP follows. -/
def Dev.gbWrite (d : Dev) (a old : Nat) : Dev :=
  let l := d.rd F.PWC_ACC_PSTATE_GB_LEVEL a
  let r := d.lowestRun a
  let want := d.volt a r + d.gbMv l
  let d :=
    if d.gbMv old < d.gbMv l then
      let base := match (d.pw a).change with | some c => if c.raise then min c.target r else r | none => r
      d.writeV a (max (d.vLast a) (d.volt a base + d.gbMv l))
    else if (d.pw a).change.isSome || d.inCheck a then d
    else if want < d.vLast a then d.writeV a want else d
  if d.linked a ∧ d.ptabOk a then (d.sendPwr a 6 (d.gbMv l * 65536 + l)).2 else d

/-- The guardband of ACC_a takes level `l` (R257). -/
def Dev.setGb (d : Dev) (a l : Nat) : Dev :=
  let old := d.rd F.PWC_ACC_PSTATE_GB_LEVEL a
  if old = l then d else (d.wr F.PWC_ACC_PSTATE_GB_LEVEL a l).gbWrite a old

/-- The accelerator is marked DVFS_FAULT (R255): the voltage is held, PSTATE_SET 31 is sent once. -/
def Dev.dvfsFault (d : Dev) (a : Nat) : Dev :=
  let d := (d.wr F.PWC_ACC_PSTATE_DVFS_FAULT a 1).wr F.PWC_ERR_DVFS_TIMEOUT 0 1
  let d := (d.pwPut a { d.pw a with change := none, pending := none }).ffr causeDvfs a 0
  (if d.linked a ∧ ¬ d.inCheck a then (d.sendPwr a 0 31).2 else d).showChange a

/-- The change in flight ends; then the pending target starts (R255). -/
def Dev.changeEnd (d : Dev) (a : Nat) : Dev :=
  let d := (d.pwPut a { d.pw a with change := none }).showChange a
  (d.startPending a (d.cur a)).showChange a

/-- A change is acknowledged: the voltage goes down to what the P-state now needs, but not in CHECK; the change is done
once that write is acknowledged, or at once when none is made (R253, R257, R259). -/
def Dev.changeDone (d : Dev) (a : Nat) (c : Change) : Dev :=
  let d := d.pwPut a { d.pw a with change := none }
  let want := d.volt a (d.cur a) + d.gbMv (d.rd F.PWC_ACC_PSTATE_GB_LEVEL a)
  if d.inCheck a ∨ want ≥ d.vLast a ∨ ¬ d.linked a ∨ ¬ d.ptabOk a then d.changeEnd a
  else ((d.pwPut a { d.pw a with change := some { c with raise := false, phase := .lower } }).showChange a).writeV a want

/-- A droop event for ACC_a (R259). -/
def Dev.droopEvent (d : Dev) (a : Nat) : Dev :=
  let t := min 31 (d.runOrMove a + d.rd F.PWC_DROOP_CFG_STEP)
  let d := (d.wr F.PWC_ACC_PSTATE_DROOP a 1).setGb a 2
  let d := d.pwPut a { d.pw a with droop := .clear (d.gts + 1000 * d.rd F.PWC_DROOP_TIME_CLEAR) }
  if d.inCheck a then d else d.preempt a t false

/-! ### CHECK and MATE (R261 to R269) -/

/-- The causes that name ACC_a, as CAUSE of CHECK_ASSERT (R252): [0] VRALERT, [1] overcurrent, [2] THERMTRIP, [3] firmware
(a limiter CHECK included), [4] MATE, [5] Endgame, [6] CHK oscillator. -/
def Dev.checkCause (d : Dev) (a : Nat) : Nat :=
  maskOf 7 fun k => match k with
    | 0 => (List.range 16).any fun k =>
        d.bit F.PWC_CHECK_LATCH_VRALERT 0 k && bitOf (d.rdw (0x200070 + 4 * (k / 4)) / 2 ^ (8 * (k % 4))) a
    | 1 => d.bit F.PWC_CHECK_LATCH_OC 0 a
    | 2 => d.bit F.PWC_CHECK_LATCH_THERMTRIP 0 a
    | 3 => d.bit F.PWC_CHECK_FORCE_FORCE 0 a || (d.pw a).limCheck
    | 4 => d.is F.PWC_MATE_STATUS_ACTIVE
    | 5 => d.flt.endgame
    | _ => d.pwr.chkHold

/-- Send CHECK_ASSERT to ACC_a, if a link holds its primary role (R264). -/
def Dev.sendCheck (d : Dev) (a : Nat) : Dev :=
  if (d.roleLink a 0).isSome then d.sendFlit a vcPwr 4 (d.checkCause a) else d

/-- CHECK#_a falls (R263, R264, R266). -/
def Dev.checkOn (d : Dev) (a : Nat) : Dev :=
  let d := ((d.wrBit F.PWC_STATUS_CHECK_ACC 0 a true).wr F.PWC_ACC_PSTATE_CHECK a 1).pin "CHECK#" a false
  let x := d.pw a
  let back := match x.pending, x.change with
    | some p, _ => some p
    | none, some c => some c.target
    | none, none => some (d.cur a)
  let d := (d.pwPut a { x with change := none, pending := back }).showChange a
  if d.pwr.chkHold && !d.is F.GLB_CLK_STATUS_CHK_OK then d else d.sendCheck a

/-- CHECK#_a rises: CHECK_RELEASE, then the raise to the target from P-state 31 (R265, R266). -/
def Dev.checkOff (d : Dev) (a : Nat) : Dev :=
  let d := ((d.wrBit F.PWC_STATUS_CHECK_ACC 0 a false).wr F.PWC_ACC_PSTATE_CHECK a 0).pin "CHECK#" a true
  let d := if (d.roleLink a 0).isSome then d.sendFlit a vcPwr 5 0 else d
  (d.startPending a 31).showChange a

/-- Bring every CHECK#_a up to its causes; a new assertion is a snapshot source (R494). -/
def Dev.checkUpdate (d : Dev) : Dev :=
  let d' := d.forAcc fun d a =>
    let now : Bool := d.checkCause a ≠ 0
    if now = d.inCheck a then d else if now then d.checkOn a else d.checkOff a
  let newly := accs8.any fun a => d'.inCheck a && !d.inCheck a
  if newly then d'.snapFire snapCheck else d'

/-- MATE's causes now active (PWC_MATE_STATUS.CAUSE): a THERMTRIP latch, a leak or flow fault of a MATE zone or loop,
COOL_FAIL#. -/
def Dev.mateCause (d : Dev) : Nat :=
  maskOf 4 fun k => match k with
    | 0 => d.pwr.coolFail
    | 1 => (List.range 4).any fun l => d.is F.LOOP_CFG_FAULT l && d.is F.LOOP_CFG_MATE l
    | 2 => (List.range 16).any fun z => d.is F.LEAK_STATUS_LATCHED z && d.is F.LEAK_CFG_MATE z
    | _ => d.rd F.PWC_CHECK_LATCH_THERMTRIP ≠ 0

/-- Show MATE's causes. -/
def Dev.mateShow (d : Dev) : Dev := d.wr F.PWC_MATE_STATUS_CAUSE 0 d.mateCause

/-- Latch MATE when a cause is active (R267): CHECK on every accelerator, every MATE#_a low, the power-down after DELAY. -/
def Dev.mateTrigger (d : Dev) : Dev :=
  let d := d.mateShow
  if d.mateCause = 0 ∨ d.is F.PWC_MATE_STATUS_ACTIVE then d
  else
    let d := (d.wr F.PWC_MATE_STATUS_ACTIVE 0 1).wr F.PWC_STATUS_MATE 0 1
    let d := d.forAcc fun d a => d.pin "MATE#" a false
    let d := { d with pwr.mateDown := some (d.aont + 1000 * d.rd F.PWC_MATE_CFG_DELAY) }
    (d.snapFire snapMate).checkUpdate.emergUpdate

/-- Clear MATE, if no cause is active (R269). -/
def Dev.mateClear (d : Dev) : Bool × Dev :=
  let d := d.mateShow
  if d.mateCause ≠ 0 then (false, d)
  else
    let d := (d.wr F.PWC_MATE_STATUS_ACTIVE 0 0).wr F.PWC_STATUS_MATE 0 0
    let d := d.forAcc fun d a => d.pin "MATE#" a true
    (true, ({ d with pwr.mateDown := none }).checkUpdate.emergUpdate)

/-- Trigger numbers: 0 to 15 VRALERT#_k, 16 to 23 overcurrent a, 24 to 31 THERMTRIP#_a. The filtered level. -/
def Dev.trigIn (d : Dev) (t : Nat) : Bool :=
  if t < 16 then bitOf d.pwr.vrIn t else if t < 24 then bitOf d.pwr.ocIn (t - 16) else bitOf d.pwr.ttIn (t - 24)

/-- The trigger's bit in PWC_CHECK_EN and PWC_CHECK_LATCH. -/
def trigBit (t : Nat) : Nat := if t < 16 then 16 + t else if t < 24 then 8 + (t - 16) else t - 24

/-- Latch trigger `t` (R261, R265); a latched THERMTRIP is a MATE trigger (R267). -/
def Dev.trigLatch (d : Dev) (t : Nat) : Dev :=
  d.wrw 0x200068 (putBit (d.rdw 0x200068) (trigBit t) true)

/-- The CHECK register address words. -/
abbrev aCheckEn : Nat := 0x200060

/-- After latches changed: CHECK outputs, MATE, emergency states. -/
def Dev.checkSettle (d : Dev) : Dev := (d.checkUpdate.mateTrigger).emergUpdate

end Sys2Proof.Machine
end

