-- ==== Sys2Proof/Machine/ArbiterOps.lean ====
section
/-! DEFINITION. The arbiter (spec/07 R270 to R277), budget staging and the tray cap (R242 to R246, R273, R274). -/

namespace Sys2Proof.Machine

def Dev.gr (d : Dev) (g : Nat) : ArbGrp := tget (fun _ => {}) d.pwr.groups g
def Dev.grPut (d : Dev) (g : Nat) (x : ArbGrp) : Dev := { d with pwr.groups := tset (fun _ => {}) d.pwr.groups g x }

/-- Whether core `k`'s firmware runs. -/
def Dev.coreUp (d : Dev) (k : Nat) : Bool := (tget (fun _ => ({} : Core)) d.flt.cores k).up

/-- SCH sets READY once service has begun, the graph and the cooling table are valid, the sync store and the Board are
enabled, and PMC has given its first kick (R450). -/
def Dev.readyTry (d : Dev) : Dev :=
  if d.sysOn && !d.is F.MBX_STATUS_READY && d.coreUp 2 && d.coreUp 1 && d.is F.SEQ_CTRL_GRAPH_VALID &&
      d.is F.COOL_STATUS_TABLE_VALID && d.is F.SOB_CTRL_EN && d.is F.BRD_CTRL_EN then
    (d.wr F.MBX_STATUS_READY 0 1).vector 3
  else d

/-! ### Groups -/

/-- A group is ACTIVE. -/
def Dev.grpActive (d : Dev) (g : Nat) : Bool := d.rd F.GRP_CTRL_STATE g = 1

/-- The accelerator member `m` (0 to 7) of group `g` is mapped to, if any. -/
def Dev.memberAcc (d : Dev) (g m : Nat) : Option Nat :=
  let a := bitsOf (d.rdw (F.GRP_MAP_MEMBER.addr g)) (4 * m) 4
  if a < 8 then some a else none

/-- The members of group `g` with the accelerators they are mapped to. -/
def Dev.members (d : Dev) (g : Nat) : List (Nat × Nat) :=
  (List.range 8).filterMap fun m => (d.memberAcc g m).map fun a => (m, a)

/-- Group `g` is a pacing group (R270). -/
def Dev.paces (d : Dev) (g : Nat) : Bool := d.grpActive g && d.is F.ARB_GRP_CFG_PACE g

/-- The pacing group of accelerator `a`; a sideband-only accelerator is part of none (R270, R278). -/
def Dev.paceOf (d : Dev) (a : Nat) : Option Nat :=
  if d.mode a = modeSideband then none
  else (List.range 256).find? fun g => d.paces g && (d.members g).any fun p => p.2 = a

/-! ### Staging and applying (R246, R273) -/

/-- Show the oldest staging of group `g`. -/
def Dev.grShow (d : Dev) (g : Nat) : Dev := d.wr F.ARB_GRP_STATE_STAGED g (d.gr g).stagedAt.isSome.toNat

/-- Every staged budget of every member of group `g` is applied. -/
def Dev.applyGroup (d : Dev) (g : Nat) : Dev :=
  let d := (d.members g).foldl (fun d p => d.applyStaged p.2) d
  (d.grPut g { d.gr g with stagedAt := none }).grShow g

/-- A NORMAL cap is applied once no budget is staged; it ends the emergency cap (R281). -/
def Dev.capSettle (d : Dev) : Dev :=
  if d.pwr.stagedCap ∧ accs8.all (fun a => d.rd F.PWC_ACC_BUDGET_STAGED_W a = 0) then
    { d with pwr.stagedCap := false, pwr.capEmerg := false }
  else d

/-- A budget is staged for ACC_a: applied at once without a pacing group, or while the arbiter is off. -/
def Dev.stage (d : Dev) (a b : Nat) : Dev :=
  let d := d.pwPut a { d.pw a with emergClamp := none }
  match if d.is F.PWC_CTRL_ARB_EN ∧ b ≠ 0 then d.paceOf a else none with
  | none => (d.wr F.PWC_ACC_BUDGET_STAGED_W a 0).applyB a b
  | some g =>
    let d := d.wr F.PWC_ACC_BUDGET_STAGED_W a b
    (d.grPut g { d.gr g with stagedAt := some ((d.gr g).stagedAt.getD d.gts) }).grShow g

/-- A group ceases to pace: what is staged for its members is applied (R273). -/
def Dev.unpace (d : Dev) (g : Nat) : Dev := ((d.applyGroup g).capSettle).emergUpdate

/-- The budgets R245 proposes without Orotha: host software's, or the default division. -/
def Dev.ownProposal (d : Dev) (a : Nat) : Nat :=
  match (d.pw a).static with
  | some b => b
  | none => d.floorW a + (d.available - d.sumAcc d.floorW) / d.budgeted.length

/-- Bring INFEASIBLE up to the floors as they stand. -/
def Dev.feasUpdate (d : Dev) : Dev := d.wr F.PWC_STATUS_INFEASIBLE 0 (!d.floorsFit).toNat

/-- Propose a set of budgets (R244, R245): the floors when they alone exceed the available power; discarded as a whole when
the check fails; otherwise staged. -/
def Dev.propose (d : Dev) (b : Nat → Nat) : Dev :=
  let d := d.showAvail.feasUpdate
  if ¬ d.floorsFit then d.infeasible.capSettle.emergUpdate
  else if ¬ d.budgetOk b then (d.wr F.PWC_ERR_BUDGET_REJECT 0 1).capSettle.emergUpdate
  else ((d.budgeted.foldl (fun d a => d.stage a (b a)) d).capSettle).emergUpdate

/-! ### The tray cap (R243, R274) -/

/-- The budgets of an EMERGENCY cap (R274): kept, or scaled down to the new available power above the floors. -/
def Dev.emergBudget (d : Dev) (a : Nat) : Nat :=
  let av := d.available
  let sb := d.sumAcc d.budget
  let sf := d.sumAcc d.floorW
  if sb ≤ av then d.budget a else d.floorW a + (d.budget a - d.floorW a) * (av - sf) / (sb - sf)

/-- An EMERGENCY cap (R274): budgets at once, commands down, pace matching. -/
def Dev.emergencyCap (d : Dev) : Dev :=
  let d := ({ d with pwr.capEmerg := true, pwr.stagedCap := false }).showAvail.feasUpdate
  let new : Nat → Nat := fun a => if d.floorsFit then d.emergBudget a else d.floorW a
  let old := d
  let d := d.budgeted.foldl (fun d a => d.applyB a (new a)) d
  let d := d.budgeted.foldl (fun d a =>
    if d.rd F.PWC_ACC_BUDGET_STAGED_W a ≠ 0 then d.pwPut a { d.pw a with emergClamp := some (new a) } else d) d
  -- commands to what each new budget allows
  let ceil : Nat → Nat := fun a => d.clampP a 0
  let d' := d.budgeted.foldl (fun d a =>
    let p := if d.inCheck a then 31 else match (d.pw a).change with | some c => min (d.cur a) c.target | none => d.cur a
    if p < ceil a then d.preempt a (ceil a) false else d) d
  -- pace matching of the groups of capped members
  let capped : Nat → Bool := fun a => decide (new a < old.budget a)
  ((List.range 256).foldl (fun d g =>
    if ¬ d.paces g then d
    else
      let ms := (d.members g).map (·.2)
      match ms.filter capped with
      | [] => d
      | c :: cs =>
        let f : Nat → Nat := fun a => old.freq a (old.cur a)
        let f' : Nat → Nat := fun a => old.freq a (max (old.cur a) (ceil a))
        let low : Nat := cs.foldl (fun b a => if f' a * f b < f' b * f a then a else b) c
        (ms.filter fun a => !capped a).foldl (fun d m =>
          match ((List.range 32).reverse.find? fun p => f m * f' low ≤ d.freq m p * f low) with
          | some p => d.request m p true
          | none => d) d) d').emergUpdate

/-- A tray cap (R242, R243): answers whether every budget is applied. -/
def Dev.setCap (d : Dev) (w : Nat) (emerg : Bool) : Bool × Dev :=
  let e : Bool := emerg && w < d.rd F.PWC_TRAY_CAP_CAP_W
  let d := d.wr F.PWC_TRAY_CAP_CAP_W 0 w
  let d :=
    if e then d.emergencyCap
    else
      let d := ({ d with pwr.stagedCap := true }).showAvail.feasUpdate
      if d.is F.PWC_CTRL_ORO_EN ∧ d.floorsFit then d.capSettle.emergUpdate else d.propose d.ownProposal
  (accs8.all (fun a => d.rd F.PWC_ACC_BUDGET_STAGED_W a = 0), d)

/-! ### Filler (R275 to R277) -/

/-- The slew limit, A/µs (R276). -/
def Dev.slew (d : Dev) : Nat := min 200 (max 5 (d.rd F.PWC_SLEW_CFG_SLEW))

/-- Current of `k`/16 of FREF for ACC_a, mA, at the last VBUS. -/
def Dev.fillMa (d : Dev) (a k : Nat) : Nat :=
  let mv := 10 * d.rd F.SEQ_BUS_STATUS_VBUS
  if mv = 0 then 0 else (k * d.fref a (d.cur a) * 1000000 + 16 * mv - 1) / (16 * mv)

/-- The RAMP that keeps a step of `ma` within the slew limit, in units of 100 ns. -/
def Dev.rampOf (d : Dev) (ma : Nat) : Nat := min 255 ((ma + 100 * d.slew - 1) / (100 * d.slew))

/-- Send FILLER_SET (R252, R247). `coll`: the collective a standing order names. -/
def Dev.fillerSet (d : Dev) (a k ramp : Nat) (standing : Option Nat) : Dev :=
  if ¬ d.ptabOk a ∨ ¬ d.linked a then d
  else
    let r := d.clampK a k
    let nm := match standing with
      | none => 0
      | some c => (if c < 2 ^ 32 then c * 2 ^ 96 else (c - 2 ^ 32) * 2 ^ 88 + 2 ^ 80) + 2 ^ 69
    (r.2.sendPwr a 2 (nm + ramp * 2 ^ 72 + r.1 * 2 ^ 64)).2

/-! ### History and prediction (R271) -/

/-- Add a quarter of the difference to an estimate; the first sample is taken as it is. -/
def Est.upd (e : Option Est) (x : Int) : Est :=
  match e with
  | none => { num := x, sh := 0 }
  | some e => { num := 3 * e.num + x * 4 ^ e.sh, sh := e.sh + 1 }

/-- Whole part of an estimate. -/
def Est.val (e : Est) : Int := e.num / 4 ^ e.sh

/-- The collective predicted to end the present interval, and its predicted release. -/
def Dev.predict (d : Dev) (g : Nat) : Option (Nat × Nat) :=
  match (d.gr g).opened with
  | none => none
  | some (c, t) =>
    match (tget (fun _ => ({} : Interval)) (d.gr g).hist c).next with
    | none => none
    | some c' => (tget (fun _ => ({} : Interval)) (d.gr g).hist c').i.map fun e => (c', t + e.val.toNat)

/-- How many collectives have history, over all groups. -/
def Dev.histCount (d : Dev) : Nat := (d.pwr.groups.map fun p => p.2.hist.length).foldl (· + ·) 0

/-- Put history, if the collective has some already or one of the 1,024 places is free. -/
def Dev.histPut (d : Dev) (g c : Nat) (v : Interval) : Dev :=
  let x := d.gr g
  if x.hist.any (fun p => p.1 = c) ∨ d.histCount < 1024 then
    d.grPut g { x with hist := tset (fun _ => {}) x.hist c v }
  else d

/-- The interval that `c` ends joins the history; the opener's next collective is `c`. -/
def Dev.histUpdate (d : Dev) (g c : Nat) : Dev :=
  let x := d.gr g
  match x.opened with
  | none => d.histPut g c (tget (fun _ => {}) x.hist c)
  | some (o, t0) =>
    let v := tget (fun _ => ({} : Interval)) x.hist c
    let v := x.arrive.foldl (fun (v : Interval) (p : Nat × Nat) =>
      let m := p.1
      let e := Est.upd ((v.t.find? fun q => q.1 = m).map (·.2)) ((p.2 : Int) - t0)
      let e' := Est.upd ((v.s.find? fun q => q.1 = m).map (·.2)) ((d.gts : Int) - p.2)
      { v with
        t := tset (fun _ => { num := 0, sh := 0 }) (tdel v.t m) m e
        s := tset (fun _ => { num := 0, sh := 0 }) (tdel v.s m) m e' }) v
    let v := { v with i := some (Est.upd v.i ((d.gts : Int) - t0)) }
    let d := d.histPut g c v
    let w := tget (fun _ => ({} : Interval)) (d.gr g).hist o
    d.histPut g o { w with next := some c }

/-- A member's estimate (no entry reads 0). -/
def estOf (l : List (Nat × Est)) (m : Nat) : Est := tget (fun _ => { num := 0, sh := 0 }) l m

/-- `x` < `y` of two estimates. -/
def Est.lt (x y : Est) : Bool := x.num * 4 ^ y.sh < y.num * 4 ^ x.sh

/-! ### Plans (R272) -/

/-- RACE for one accelerator: the lowest-numbered P-state its applied budget allows. -/
def Dev.race (d : Dev) (a : Nat) : Dev := if d.linked a then d.request a (d.clampP a 0) true else d

/-- SETTLE for a member that is not the last to arrive: the highest-numbered P-state whose FREQ is at least
f × T̂ / (T̂ + Ŝ − M), if Ŝ > M. T̂ and Ŝ have the same number of samples. -/
def Dev.settleOne (d : Dev) (v : Interval) (m a : Nat) : Dev :=
  let t := estOf v.t m
  let s := estOf v.s m
  let mm : Int := 1000 * (d.rd F.PWC_ARB_CFG_SETTLE_MARGIN : Nat) * 4 ^ s.sh
  if ¬ d.linked a ∨ s.num ≤ mm then d
  else
    let f : Int := (d.freq a (d.cur a) : Nat)
    match (List.range 32).reverse.find? fun p => f * t.num ≤ (d.freq a p : Nat) * (t.num + s.num - mm) with
    | some p => d.request a p true
    | none => d

/-- The plan of group `g` at a boundary that ended at `c`. -/
def Dev.plan (d : Dev) (g c : Nat) (predicted : Bool) : Dev :=
  let v := tget (fun _ => ({} : Interval)) (d.gr g).hist c
  let ms := d.members g
  if d.is F.ARB_GRP_CFG_POLICY g ∧ predicted ∧ d.coreUp 1 then
    let least := (ms.filter fun p => v.s.any fun q => q.1 = p.1).foldl (fun (b : Option Nat) p =>
      match b with
      | none => some p.1
      | some k => if (estOf v.s p.1).lt (estOf v.s k) then some p.1 else some k) none
    ms.foldl (fun d p => if some p.1 = least then d.race p.2 else d.settleOne v p.1 p.2) d
  else ms.foldl (fun d p => d.race p.2) d

/-- Shaping is on for group `g`: it needs PMC firmware. -/
def Dev.shapes (d : Dev) (g : Nat) : Bool := d.is F.PWC_CTRL_SHAPE_EN && d.paces g && d.coreUp 1

/-- Arm the standing order of the next collective on every member (R277 step 1). -/
def Dev.armAll (d : Dev) (g : Nat) : Dev :=
  match d.predict g with
  | none => d
  | some (c, _) => (d.members g).foldl (fun d p => d.fillerSet p.2 (d.rd F.PWC_SHAPE_CFG_K_ARR) 0 (some c)) d

/-- A tracked arrival of member `m` of group `g` (R271, R277 step 2). -/
def Dev.arbArrive (d : Dev) (g m : Nat) : Dev :=
  if ¬ d.paces g ∨ 8 ≤ m then d
  else
    let x := d.gr g
    let d := d.grPut g { x with arrive := x.arrive.filter (fun p => p.1 ≠ m) ++ [(m, d.gts)] }
    match d.memberAcc g m, d.predict g with
    | some a, some (_, r) =>
      if d.shapes g ∧ d.gts + 1000 * d.rd F.PWC_SHAPE_CFG_MIN_WAIT ≤ r then
        let k := d.rd F.PWC_SHAPE_CFG_FLOOR
        let dk := d.rd F.PWC_SHAPE_CFG_K_ARR - k
        let d := d.fillerSet a k (d.rampOf (d.fillMa a dk)) none
        d.grPut g { d.gr g with down := (d.gr g).down.filter (· ≠ m) ++ [m] }
      else d
    | _, _ => d

/-- A release of tracked collective `c` of group `g`: history, the boundary of R273 and the plan of R272, the standing orders
of the next interval; an early release is counted (R277). -/
def Dev.arbRelease (d : Dev) (g c : Nat) : Dev :=
  if ¬ d.paces g then d
  else
    let x := d.gr g
    let early : Bool := d.shapes g && x.down ≠ [] && (match x.rampEnd with | none => true | some t => decide (d.gts < t))
    let d := if early then d.inc F.ARB_GRP_STATE_EARLY g else d
    let d := d.histUpdate g c
    let d := d.grPut g { d.gr g with opened := some (c, d.gts), arrive := [], released := d.gts, down := [], rampEnd := none }
    let d := d.applyGroup g
    let d := if d.is F.PWC_CTRL_ARB_EN then d.plan g c (d.predict g).isSome else d
    let d := if d.shapes g then d.armAll g else d
    d.capSettle.emergUpdate

/-- The level of the guardband outside droop (R257): HIGH while a group of the accelerator holds it. -/
def Dev.gbRest (d : Dev) (a : Nat) : Nat :=
  match d.paceOf a with
  | some g => if (d.gr g).gbAt.isSome then 1 else 0
  | none => 0

end Sys2Proof.Machine
end

