-- ==== Sys2Proof/Machine/FrameOps.lean ====
section
/-! DEFINITION. Frames of 10 µs (R283, R291): what the samples of a frame gather, and a frame's end. -/

namespace Sys2Proof.Machine

/-- Frames run from GTS multiples of 10 µs. -/
def frameOf (gts : Nat) : Nat := gts / 10000

/-- HOLDOUT_DIV clamped (R317). -/
def Dev.holdoutDiv (d : Dev) : Nat := min 16 (max 2 (d.rd F.ORO_FRAME_CFG_HOLDOUT_DIV))

/-- Segment `j` is held out (R292). -/
def Dev.segHeld (d : Dev) (j : Nat) : Bool := j % d.holdoutDiv = 0

/-- The segment of a frame. -/
def segOf (k : Nat) : Nat := k / 100000

/-- TLM_WINDOW, ns. -/
def Dev.tlmWindow (d : Dev) : Nat := 1000 * min 9 (max 1 (d.rd F.ORO_FRAME_CFG_TLM_WINDOW))

/-- TRIG_OFFSET, ns. -/
def Dev.trigOffset (d : Dev) : Nat := max (1000 * d.rd F.ORO_FRAME_CFG_TRIG_OFFSET) (d.tlmWindow + 2000)

/-- One sample of accelerator `a` joins the frame. -/
def Dev.frmAdd (d : Dev) (a : Nat) (pw : Int) (stale : Bool) : Dev :=
  let x := tget (fun _ => ({} : FrmAcc)) d.oro.frm.accs a
  let y : FrmAcc := { sum := x.sum + pw, peak := max x.peak pw, stale := x.stale || stale }
  { d with oro.frm := { d.oro.frm with accs := tset (fun _ => {}) d.oro.frm.accs a y } }

/-- A 16-bit field of a non-negative value, at most 65,535. -/
def field16 (v : Int) : List Byte := le 2 (min 65535 v.toNat)

/-- ACC_a has an arrival at a tracked barrier or Board instance that is not yet released (R291). -/
def Dev.waiting (d : Dev) (a : Nat) : Bool :=
  (d.sob.objs.any fun p => p.2.trk && p.2.ty = 2 && (List.range 8).any fun m =>
    bitOf (p.2.value / 2 ^ 32) m && d.memberAcc p.2.group m = some a) ||
  d.brd.ctxs.any fun p => d.is F.BRD_CTX_CFG_TRK p.1 && [p.2.cur, p.2.next].any fun b =>
    b.openAt.isSome && b.complete.isNone && (List.range 8).any fun m =>
      bitOf b.done m && d.memberAcc (d.rd F.BRD_CTX_CFG_GROUP p.1) m = some a

/-- The entry of accelerator `a` in the record of the frame that ends, its TLM payload still zero (R291). -/
def Dev.frameEntry (d : Dev) (a : Nat) : List Byte :=
  let f := tget (fun _ => ({} : FrmAcc)) d.oro.frm.accs a
  let n : Int := (max 1 d.oro.frm.n : Nat)
  let flags := maskOf 8 fun k => match k with
    | 1 => d.waiting a
    | 2 => d.bit F.PWC_STATUS_CHECK_ACC 0 a
    | 3 => d.is F.PWC_ACC_PSTATE_DROOP a
    | 4 => d.bit F.PWC_STATUS_LIMITING 0 a
    | 5 => f.stale
    | 6 => d.mode a = modeSideband
    | 7 => !d.present a
    | _ => false
  let rel := match d.paceOf a with | some g => (d.gts - (d.gr g).released) / 1000 | none => 65535
  zeros 16 ++ field16 (f.sum.tdiv (n * 1000000)) ++ field16 (f.peak.tdiv 1000000) ++ le 2 (d.budget a) ++ le 1 (d.cur a) ++
    le 1 (d.rd F.PWC_ACC_FILLER_INTENSITY a) ++ le 1 flags ++ zeros 1 ++ le 2 (min 65535 rel) ++ zeros 4

/-- The record of the frame that ends (R291). -/
def Dev.frameRecord (d : Dev) (k : Nat) : List Byte :=
  let f := d.oro.frm
  let n : Int := (max 1 f.n : Nat)
  le 8 k ++ field16 (f.vbus.tdiv (n * 10)) ++ field16 (f.ibus.tdiv (n * 10)) ++ le 2 (d.rd F.PWC_TRAY_CAP_CAP_W) ++ le 2 d.available ++
    le 1 f.emerg ++ le 1 (d.segHeld (segOf k)).toNat ++ zeros 14 ++ (accs8.flatMap d.frameEntry)

/-- The frame in progress ends: its energies wait to be attributed, its record to be written. -/
def Dev.frameClose (d : Dev) : Dev :=
  let k := d.pwr.frameNow
  let accs := accs8.map fun a => ((d.pw a).work, (d.pw a).filler)
  let sub : Bool := (List.range 10).any fun f => (tget (fun _ => ({} : FastCh)) d.pwr.fast f).subst
  let d' : Dev := { d with
    pwr.done := d.pwr.done ++ [{ k := k, accs := accs, ovh := d.pwr.frameOver, sub := sub }]
    pwr.frameOver := 0
    pwr.frameNow := frameOf d.gts
    oro.closed := if d.is F.ORO_CTRL_TLM_EN then d.oro.closed ++ [(k, d.frameRecord k)] else d.oro.closed
    oro.frm := { emerg := d.rd F.PWC_EMERG_STATE } }
  d'.forAcc fun d a => d.pwPut a { d.pw a with work := 0, filler := 0 }

/-- A frame that GTS has left is ended. -/
def Dev.frameRoll (d : Dev) : Dev := if d.pwr.frameNow < frameOf d.gts then d.frameClose else d

end Sys2Proof.Machine
end

