-- ==== Sys2Proof/Machine/Power.lean ====
section
/-! DEFINITION. Power and current shaping (spec/07): the meanings of its commands, and of AVS_RESPONSE (spec/15). -/

namespace Sys2Proof.Machine

/-! ### Fast samples (R240, R241, R258, R282, R380, R501) -/

def Dev.fastCh (d : Dev) (f : Nat) : FastCh := tget (fun _ => {}) d.pwr.fast f
def Dev.fastPut (d : Dev) (f : Nat) (x : FastCh) : Dev := { d with pwr.fast := tset (fun _ => {}) d.pwr.fast f x }

/-- The value of a code (R501): IFAST and IBUS in mA, VBUS in mV. IBUS with a shunt of 0 µΩ has no stated value. -/
def Dev.fastVal (d : Dev) (f code : Nat) : Int × Dev :=
  if f < 8 then
    ((((code : Int) - (d.rd F.TLM_FAST_CFG_OFFSET f : Nat)) * (d.rd F.TLM_FAST_CFG_SCALE f : Nat)).tdiv 1000, d)
  else if f = 8 then
    let s := d.rd F.SEQ_HSW_SHUNT_MICRO_OHM
    if s = 0 then let r := d.free; ((r.1 : Int), r.2)
    else ((signed 14 code * 80000000).tdiv (8192 * (s : Int)), d)
  else (((code * 80000 / 16384 : Nat) : Int), d)

/-- A 16-bit display of a value in units of 10; a value outside the field has no stated reading. -/
def Dev.show16 (d : Dev) (f : Fld) (i : Nat) (v : Int) : Dev :=
  let w := v.tdiv 10
  if 0 ≤ w ∧ w < 65536 then d.wr f i w.toNat else let r := d.free; r.2.wr f i r.1

/-- The code range of a fast channel ends at these two codes. -/
def fastEdge (f code : Nat) : Bool :=
  if f < 8 then code = 0 || code = 4095 else if f = 8 then code = 0x1FFF || code = 0x2000 else code = 0 || code = 16383

/-- A fast channel is declared failed (R380): a first-failure record; the substitution starts with the next window. -/
def Dev.fastFail (d : Dev) (f : Nat) : Dev :=
  if (d.fastCh f).failed then d
  else ((d.fastPut f { d.fastCh f with failed := true }).wr F.TLM_FAST_FAILED f 1).ffr causeFastFail f 0

/-- One sample of channel `f`: its value as this chapter uses it, stale samples replaced by the previous good one. -/
def Dev.fastIn (d : Dev) (f code : Nat) (stale : Bool) : Int × Dev :=
  let d := (d.wr F.TLM_FAST_STALE f stale.toNat).wr F.TLM_FAST_CODE f code
  let r := d.fastVal f code
  let d := r.2.show16 F.TLM_FAST_VALUE f r.1
  let x := d.fastCh f
  if stale then
    (x.good, (d.fastPut f { x with stale := x.stale + 1 }).wr F.PWC_ERR_STALE 0 1)
  else
    let e := if fastEdge f code then x.edge + 1 else 0
    let d := d.fastPut f { x with good := if x.subst then x.good else r.1, edge := e }
    ((d.fastCh f).good, if 100 ≤ e then d.fastFail f else d)

/-- UV_FAULT's threshold, mV. -/
def Dev.uvFaultMv (d : Dev) : Nat := 500 * max 76 (d.rd F.SEQ_BUS_CFG_UV_FAULT)

/-- START_OK with its 1 V of hysteresis, OV cleared below its threshold. -/
def Dev.busStart (d : Dev) (mv : Nat) : Dev :=
  let d := if mv + 1000 ≤ 500 * min 150 (d.rd F.SEQ_BUS_CFG_OV) then d.wr F.SEQ_BUS_STATUS_OV 0 0 else d
  let start := 500 * d.rd F.SEQ_BUS_CFG_START
  if start ≤ mv then
    { d.wr F.SEQ_BUS_STATUS_START_OK 0 1 with pwr.startSince := some (d.pwr.startSince.getD d.aont) }
  else if mv + 1000 < start then { d.wr F.SEQ_BUS_STATUS_START_OK 0 0 with pwr.startSince := none }
  else d

/-- Since when the bus is below each threshold. -/
def Dev.busSince (d : Dev) (mv : Nat) : Dev :=
  { d with
    pwr.uvSince := if mv < 500 * d.rd F.SEQ_BUS_CFG_UV_WARN then some (d.pwr.uvSince.getD d.aont) else none
    pwr.uvfSince := if mv < d.uvFaultMv then some (d.pwr.uvfSince.getD d.aont) else none
    seq.uvAbove := if d.uvFaultMv + 1000 < mv then some (d.seq.uvAbove.getD d.aont) else none }

/-- UV_WARN after its 10 µs deglitch; both warnings clear with 1 V of hysteresis. -/
def Dev.busWarn (d : Dev) (mv : Nat) : Dev :=
  let d := match d.pwr.uvSince with
    | some t => if t + 10000 ≤ d.aont then d.wr F.SEQ_BUS_STATUS_UV_WARN 0 1 else d
    | none => d
  let d := if 500 * d.rd F.SEQ_BUS_CFG_UV_WARN + 1000 ≤ mv then d.wr F.SEQ_BUS_STATUS_UV_WARN 0 0 else d
  if d.uvFaultMv + 1000 ≤ mv then d.wr F.SEQ_BUS_STATUS_UV_FAULT 0 0 else d

/-- A good VBUS sample at the bus supervision (R318): START_OK and UV_WARN with their 1 V of hysteresis and the 10 µs
deglitch; `mv` in mV. -/
def Dev.busSample (d : Dev) (mv : Nat) : Dev :=
  (((d.wr F.SEQ_BUS_STATUS_VBUS 0 (mv / 10)).busStart mv).busSince mv).busWarn mv

/-- The dI/dt test over the ten samples that end here (R258): a rise above DIDT × 0.9 µs. -/
def didt (d : Dev) (hist : List Int) : Bool :=
  match hist.head?, (hist.drop 9).head? with
  | some new, some old => decide ((900 * d.rd F.PWC_DROOP_CFG_DIDT : Nat) < new - old)
  | _, _ => false

/-- The VBUS sample of a slot: its value, and the bus supervision, which a stale or failed channel does not reach. -/
def Dev.fastBus (d : Dev) (x : FastSlot) : Int × Dev :=
  let v := d.fastIn 9 x.vbus.toNat (bitOf x.stale.toNat 9)
  (v.1, if bitOf x.stale.toNat 9 || (v.2.fastCh 9).subst then v.2 else v.2.busSample v.1.toNat)

/-- An accelerator's window and ledger sums take one sample: current `i`, power `pw` (R240, R278). -/
def Dev.fastAdd (d : Dev) (a : Nat) (i pw : Int) (st stV : Bool) : Dev :=
  let y := d.pw a
  let y := { y with winSum := y.winSum + pw, hist := (i :: y.hist).take 10 }
  let y := if st && !(d.fastCh a).subst then { y with winStale := y.winStale + 1 } else y
  let y := if d.rd F.PWC_ACC_FILLER_INTENSITY a ≠ 0 then { y with filler := y.filler + pw } else { y with work := y.work + pw }
  (d.pwPut a y).frmAdd a pw (st || stV)

/-- Accelerator `a` in a slot: its power, the sums. A failed channel counts with the P-state's power (R380). -/
def Dev.fastAcc (d : Dev) (x : FastSlot) (mv : Int) (a : Nat) : Int × Dev :=
  let st := bitOf x.stale.toNat a
  let i := d.fastIn a (x.ifast.getD a 0).toNat st
  let d := i.2.show16 F.PWC_ACC_POWER_I_10MA a i.1
  let pw : Int := if (d.fastCh a).subst then ((d.power a (d.lowestRun a) * 1000000 : Nat) : Int) else mv * i.1
  (pw, d.fastAdd a i.1 pw st (bitOf x.stale.toNat 9))

/-- The tray's sums of a slot: bus power, overhead, the slot count. -/
def Dev.fastTray (d : Dev) (mv ib accs : Int) : Dev :=
  let ibSub : Bool := (d.fastCh 8).subst
  let bus : Int := if ibSub then accs else mv * ib
  let ovr : Int := if ibSub then 0 else max 0 (bus - accs)
  { d with
    pwr.busSum := d.pwr.busSum + bus
    pwr.frameOver := d.pwr.frameOver + ovr
    pwr.winN := d.pwr.winN + 1
    pwr.winFrom := if d.pwr.winN = 0 then d.gts else d.pwr.winFrom
    oro.frm := { d.oro.frm with n := d.oro.frm.n + 1, vbus := d.oro.frm.vbus + mv, ibus := d.oro.frm.ibus + ib } }

/-- Droop events of a slot (R258): the bus low, or an accelerator's current rising fast. -/
def Dev.fastDroop (d : Dev) (mv : Int) : Dev :=
  let low : Bool := decide (mv < (10 * d.rd F.PWC_DROOP_CFG_VBUS_TH : Nat))
  d.forAcc fun d a => if low || (!(d.fastCh a).subst && didt d (d.pw a).hist) then d.droopEvent a else d

/-- One slot (R240): every channel, the window sums, the ledger, droop. While the SYS domain is off only the bus supervision in the
AON island uses the sample. -/
def Dev.fastSample (d : Dev) (x : FastSlot) : Dev :=
  if ¬ d.sysOn then (d.fastBus x).2.emergUpdate
  else
    let v := d.frameRoll.fastBus x
    let ib := v.2.fastIn 8 x.ibus.toNat (bitOf x.stale.toNat 8)
    let r := accs8.foldl (fun (p : Int × Dev) a => let y := p.2.fastAcc x v.1 a; (p.1 + y.1, y.2)) ((0 : Int), ib.2)
    ((r.2.fastTray v.1 ib.1 r.1).fastDroop v.1).emergUpdate

/-- A fast channel whose transfer failed its CRC has a stale next sample (R19). -/
def execFastSample (x : FastSlot) (s : State) : Res :=
  s.run fun d =>
    let m := maskOf 10 fun k => tget (fun _ => false) d.flt.chStale (128 + k)
    let d : Dev := { d with flt.chStale := d.flt.chStale.filter fun (p : Nat × Bool) => p.1 < 128 }
    d.fastSample { x with stale := x.stale ||| BitVec.ofNat 10 m }

/-! ### The limiter (R248, R249, R278) -/

/-- Samples in a limiter window. -/
def Dev.winLen (d : Dev) : Nat := min 10000 (max 10 (d.rd F.PWC_LIM_CFG_WIN))

/-- The window that took its first sample at `winFrom` is over (R248). -/
def Dev.winDone (d : Dev) : Bool := 0 < d.pwr.winN && d.pwr.winFrom / (100 * d.winLen) < d.gts / (100 * d.winLen)

/-- ACC_a's window exceeds its limit: its mean, or its replaced samples. -/
def Dev.winOver (d : Dev) (a : Nat) : Bool :=
  let n : Nat := d.pwr.winN
  decide ((d.budget a * n * 1000000 * (100 + min 20 (d.rd F.PWC_LIM_CFG_MARGIN_PCT)) : Nat) < (d.pw a).winSum * 100) ||
    decide (d.rd F.PWC_LIM_CFG_STALE_MAX < (d.pw a).winStale)

/-- The limiter acts on ACC_a: CHECK for an accelerator without a link, one P-state lower for another. -/
def Dev.limStepAcc (d : Dev) (a : Nat) : Dev :=
  if d.mode a = modeSideband ∨ d.mode a = modeLost then
    ({ d.pwPut a { d.pw a with limCheck := true } with pwr.limStep := some d.gts }).wrBit F.PWC_STATUS_LIMITING 0 a true
  else
    let p := d.runOrMove a
    if 31 ≤ p then d
    else ({ d.preempt a (p + 1) true with pwr.limStep := some d.gts }).wrBit F.PWC_STATUS_LIMITING 0 a true

/-- The accelerator R249 chooses: the highest window mean relative to its budget, the lowest index on a tie. -/
def Dev.worst (d : Dev) : Option Nat :=
  d.budgeted.foldl (fun (b : Option Nat) a =>
    match b with
    | none => some a
    | some k => if (d.pw k).winSum * (d.budget a : Nat) < (d.pw a).winSum * (d.budget k : Nat) then some a else some k) none

/-- The end of a limiter window. -/
def Dev.limiterWindow (d : Dev) : Dev :=
  if !d.winDone then d
  else
    let n : Nat := d.pwr.winN
    -- the window's own clamps show in LIMITING; the display of the mean
    let d := d.forAcc fun d a =>
      (d.wrBit F.PWC_STATUS_LIMITING 0 a (d.pw a).clamped).show16 F.PWC_ACC_POWER_WIN_W a ((d.pw a).winSum.tdiv (n * 100000))
    -- failed channels (R380)
    let max := d.rd F.PWC_LIM_CFG_STALE_MAX
    let d := (List.range 10).foldl (fun d f =>
      let x := d.fastCh f
      let w := if max < x.stale then x.staleWins + 1 else 0
      let d := d.fastPut f { x with stale := 0, staleWins := w }
      let d := if 2 ≤ w then d.fastFail f else d
      d.fastPut f { d.fastCh f with subst := (d.fastCh f).failed }) d
    let ovr := d.budgeted.filter d.winOver
    let busOver : Bool := decide ((d.rd F.PWC_TRAY_CAP_CAP_W * n * 1000000 : Nat) < d.pwr.busSum)
    let low := d.budgeted.filter fun a => !d.winOver a && decide ((d.pw a).winSum * 10 < (9 * n * d.budget a * 1000000 : Nat))
    let acts := if ovr ≠ [] then ovr else if busOver then d.worst.toList else []
    let d := acts.foldl Dev.limStepAcc d
    let d := low.foldl (fun d a => if acts.contains a then d else d.pwPut a { d.pw a with limCheck := false }) d
    let d := d.forAcc fun d a => d.pwPut a { d.pw a with winSum := 0, winStale := 0, clamped := false }
    ({ d with pwr.winN := 0, pwr.busSum := 0 }).checkUpdate.emergUpdate

def execLimiterWindowEnd (s : State) : Res := s.run (·.limiterWindow)

/-! ### Budgets -/

/-- A set of budgets: Orotha's while ORO_EN is set, otherwise what R245 gives. -/
def execBudgetProposal (b : List (BitVec 16)) (s : State) : Res :=
  s.run fun d => d.propose (if d.is F.PWC_CTRL_ORO_EN then fun a => (b.getD a 0).toNat else d.ownProposal)

/-- CAP_FORCE in ns (R273). -/
def Dev.capForce (d : Dev) : Nat := 1000 * min 2000 (max 10 (d.rd F.PWC_ARB_CFG_CAP_FORCE))

/-- CAP_FORCE runs out: what is staged is applied, and counted as forced. -/
def Dev.capForceEnd (d : Dev) (g : Nat) : Dev :=
  match (d.gr g).stagedAt with
  | some t =>
    if t + d.capForce ≤ d.gts then (((d.applyGroup g).inc F.ARB_GRP_STATE_FORCED g).capSettle).emergUpdate else d
  | none => d

def execCapForceExpiry (g : BitVec 8) (s : State) : Res := s.run (·.capForceEnd g.toNat)

/-! ### The DVFS sequencer -/

/-- PMC requests a P-state; the sequencer sends nothing for PMC while SEQ_EN is clear. -/
def execPstateRequest (a : Fin 8) (p : BitVec 5) (s : State) : Res :=
  s.run fun d => if d.is F.PWC_CTRL_SEQ_EN then d.request a p.toNat false else d

/-- A PSTATE_ACK (R252, R253, R255, R258). -/
def Dev.pstateAck (d : Dev) (a : Nat) (pay : Payload) : Dev :=
  let d := d.takeRx a vcPwr 1 pay
  let p := pbits pay 0 5
  let seq := pbits pay 8 8
  let d :=
    if seq = 255 then d
    else
      let d := d.wr F.PWC_ACC_PSTATE_CURRENT a p
      match (d.pw a).change with
      | some c => (match c.phase with
        | .sent _ _ q => if q = seq then d.changeDone a c else d
        | _ => d)
      | none => d
  (if pbits pay 18 1 = 1 then d.droopEvent a else d).emergUpdate

def execPstateAck (a : Fin 8) (p : Payload) (s : State) : Res := s.run (·.pstateAck a p)

/-- A PSTATE_ACK is overdue (R255). -/
def Dev.ackTimeout (d : Dev) (a : Nat) : Dev :=
  match (d.pw a).change with
  | some c => (match c.phase with
    | .sent t k q =>
      if d.gts < t + 1000 * max 5 (d.rd F.PWC_DVFS_CFG_ACK_TIMEOUT) then d
      else if k < min 7 (d.rd F.PWC_DVFS_CFG_RETRIES) then
        (d.pwPut a { d.pw a with change := some { c with phase := .sent d.gts (k + 1) q } }).sendFlit a vcPwr 0 (c.target + q * 256)
      else d.dvfsFault a
    | _ => d)
  | none => d

def execPstateAckTimeout (a : Fin 8) (s : State) : Res := s.run (·.ackTimeout a)

/-- The settle time of a raise ends: PSTATE_SET goes out. -/
def Dev.settled (d : Dev) (a : Nat) : Dev :=
  match (d.pw a).change with
  | some c => (match c.phase with
    | .settle t => if t ≤ d.gts then d.sendPset a c.target true c.lim else d
    | _ => d)
  | none => d

def execVoltageSettleDone (a : Fin 8) (s : State) : Res := s.run (·.settled a)

/-- A voltage write is acknowledged: the raise that waits for it settles; the lowering that waits for it is done. -/
def Dev.voltDone (d : Dev) (a mv : Nat) : Dev :=
  let old := d.vNow a
  let d := d.wr F.TW_AVS_STATUS_VOLT_MV a mv
  match (d.pw a).change with
  | some c => (match c.phase with
    | .volt w =>
      if w = mv then
        d.pwPut a { d.pw a with change := some { c with phase := .settle (d.gts + (mv - old) * d.rd F.PWC_DVFS_CFG_SETTLE) } }
      else d
    | .lower => if d.voltsOut a = [] then d.changeEnd a else d
    | _ => d)
  | none => d

/-- A response frame of AVS_a (R525): a voltage is recorded, or the failed write marks DVFS_FAULT; what PMC read is its notice. -/
def Dev.avsResponse (d : Dev) (a ack data : Nat) (crcOk : Bool) : Dev :=
  let r := d.avsAnswer a ack crcOk
  match r.1 with
  | .done (.volt mv) => r.2.voltDone a mv
  | .done (.read k) => r.2.note 1 "avs-read" (a * 2 ^ 20 + k * 2 ^ 16 + data)
  | .done .status => (r.2.wr F.TW_AVS_STATUS_ALERT a 0).note 1 "avs-status" (a * 2 ^ 20 + data)
  | .done (.wrStatus _) => r.2
  | .failed (.volt _) =>
    ((r.2.wr F.PWC_ERR_AVS_ERR 0 1).wr F.TW_AVS_STATUS_FAILED a 1).dvfsFault a
  | .failed _ => r.2.note 1 "avs-failed" a
  | _ => r.2

def execAvsResponse (a : Fin 8) (ack : BitVec 2) (data : BitVec 16) (crcOk : Bool) (s : State) : Res :=
  s.run (·.avsResponse a ack.toNat data.toNat crcOk)

/-- A FILLER_ACK shows the intensity in effect and the standing order. -/
def execFillerAck (a : Fin 8) (p : Payload) (s : State) : Res :=
  s.run fun d =>
    ((d.takeRx a vcPwr 3 p).wr F.PWC_ACC_FILLER_INTENSITY a (pbits p 16 5)).wr F.PWC_ACC_FILLER_STANDING a (pbits p 21 1)

/-- A write to a locked field is discarded and recorded (R9). -/
abbrev causeLocked : Cause := (0, 0, none)

/-- The write lock is set. -/
def Dev.locked (d : Dev) : Bool := d.is F.GLB_WRITE_LOCK_LOCKED

/-- Run a write of RWL fields at address `w0` unless the lock discards it. -/
def Dev.unlocked (d : Dev) (w0 : Nat) (f : Dev → Dev) : Dev := if d.locked then d.ffr causeLocked w0 0 else f d

/-- The table of ACC_a does not increase in any column (R251). -/
def Dev.ptabMono (d : Dev) (a : Nat) : Bool :=
  (List.range 31).all fun p =>
    d.freq a (p + 1) ≤ d.freq a p && d.volt a (p + 1) ≤ d.volt a p && d.power a (p + 1) ≤ d.power a p && d.fref a (p + 1) ≤ d.fref a p

/-- PTAB_VALID is set, if the table passes, or cleared. -/
def Dev.ptabValid (d : Dev) (a : Nat) (on : Bool) : Dev :=
  d.unlocked (F.PWC_ACC_CFG_PTAB_VALID.addr a) fun d =>
    if ¬ on then d.wr F.PWC_ACC_CFG_PTAB_VALID a 0
    else if d.ptabMono a then
      let d := (d.wr F.PWC_ACC_CFG_PTAB_VALID a 1).wr F.PWC_ACC_CFG_MONO_FAIL a 0
      d.wr F.PWC_ACC_PSTATE_CEILING a (d.clampP a 0)
    else ((d.wr F.PWC_ACC_CFG_PTAB_VALID a 0).wr F.PWC_ACC_CFG_MONO_FAIL a 1).wr F.PWC_ERR_PTAB_INVALID 0 1

def execPtabValidWrite (a : Fin 8) (on : Bool) (s : State) : Res := s.run (·.ptabValid a on)

/-- DVFS_FAULT is cleared, and TW_AVS_STATUS.FAILED with it. -/
def execDvfsFaultClear (a : Fin 8) (s : State) : Res :=
  s.run fun d => (d.wr F.PWC_ACC_PSTATE_DVFS_FAULT a 0).wr F.TW_AVS_STATUS_FAILED a 0

/-! ### Droop release (R260) -/

def execDroopClearExpiry (a : Fin 8) (s : State) : Res :=
  s.run fun d =>
    match (d.pw a).droop with
    | .clear t => if t ≤ d.gts then d.pwPut a { d.pw a with droop := .hold (d.gts + 1000 * d.rd F.PWC_DROOP_TIME_HOLD) } else d
    | _ => d

/-- HOLD is over: the pending target is requested again, then the guardband returns to its level. -/
def Dev.droopEnd (d : Dev) (a : Nat) : Dev :=
  match (d.pw a).droop with
  | .hold t =>
    if t ≤ d.gts then
      let d := (d.pwPut a { d.pw a with droop := .none }).wr F.PWC_ACC_PSTATE_DROOP a 0
      let old := d.rd F.PWC_ACC_PSTATE_GB_LEVEL a
      let d := d.wr F.PWC_ACC_PSTATE_GB_LEVEL a (d.gbRest a)
      let d := if d.coreUp 1 then (d.startPending a (d.cur a)).showChange a else d
      (if old = d.rd F.PWC_ACC_PSTATE_GB_LEVEL a then d else d.gbWrite a old).emergUpdate
    else d
  | _ => d

def execDroopHoldExpiry (a : Fin 8) (s : State) : Res := s.run (·.droopEnd a)

/-! ### CHECK (R261 to R266) -/

/-- The filtered level of trigger `t` is now `active`. -/
def Dev.trigLevel (d : Dev) (t : Nat) (active : Bool) : Dev :=
  let was := d.trigIn t
  let d :=
    if t < 16 then { d with pwr.vrIn := putBit d.pwr.vrIn t active }
    else if t < 24 then { d with pwr.ocIn := putBit d.pwr.ocIn (t - 16) active }
    else { d with pwr.ttIn := putBit d.pwr.ttIn (t - 24) active }
  let d := if was && !active then { d with pwr.inactSince := tset (fun _ => 0) d.pwr.inactSince t d.aont } else d
  if active && bitOf (d.rdw aCheckEn) (trigBit t) then d.trigLatch t else d

def execCheckTrigger (t : Fin 32) (active : Bool) (s : State) : Res := s.run fun d => (d.trigLevel t active).checkSettle

def execCheckForceWrite (v : BitVec 8) (s : State) : Res :=
  s.run fun d => (d.wr F.PWC_CHECK_FORCE_FORCE 0 v.toNat).checkSettle

/-- Enables change; a trigger enabled while active latches. -/
def Dev.checkEn (d : Dev) (v : Nat) : Dev :=
  d.unlocked aCheckEn fun d =>
    let old := d.rdw aCheckEn
    let d := d.wrw aCheckEn v
    ((List.range 32).foldl (fun d t =>
      if bitOf v (trigBit t) && !bitOf old (trigBit t) && d.trigIn t then d.trigLatch t else d) d).checkSettle

def execCheckEnWrite (v : Word) (s : State) : Res := s.run (·.checkEn v.toNat)

/-- A write of 1 clears a latch bit whose trigger is inactive (R265). -/
def Dev.latchClear (d : Dev) (v : Nat) : Dev :=
  ((List.range 32).foldl (fun d t =>
    if bitOf v (trigBit t) && !d.trigIn t then d.wrw 0x200068 (putBit (d.rdw 0x200068) (trigBit t) false) else d) d).checkSettle

def execCheckLatchClear (v : Word) (s : State) : Res := s.run (·.latchClear v.toNat)

/-- A latch with AUTO set clears itself after AUTO_HOLD of inactivity. -/
def Dev.autoRelease (d : Dev) (t : Nat) : Dev :=
  let auto := if t < 16 then d.is F.PWC_CHECK_CFG_AUTO_VRALERT else d.is F.PWC_CHECK_CFG_AUTO_OC
  if auto ∧ ¬ d.trigIn t ∧ tget (fun _ => 0) d.pwr.inactSince t + 1000 * d.rd F.PWC_CHECK_CFG_AUTO_HOLD ≤ d.aont then
    d.latchClear (2 ^ trigBit t)
  else d

def execCheckAutoRelease (t : Fin 24) (s : State) : Res := s.run (·.autoRelease t)

/-! ### MATE (R267, R269) -/

/-- The filtered COOL_FAIL# (true: low); MATE's causes are looked at. -/
def execMateTrigger (coolFail : Bool) (s : State) : Res :=
  s.run fun d => ({ d with pwr.coolFail := coolFail }).mateTrigger

/-! ### Shaping timers (R257, R277) -/

/-- The ramp back of the waiting members, once its time has come. -/
def Dev.preramp (d : Dev) (g : Nat) : Dev :=
  let x := d.gr g
  match d.predict g with
  | some (_, r) =>
    if ¬ d.shapes g ∨ x.down = [] ∨ x.rampEnd.isSome then d
    else
      let k := d.rd F.PWC_SHAPE_CFG_K_ARR
      let dk := k - d.rd F.PWC_SHAPE_CFG_FLOOR
      let accs := x.down.filterMap (d.memberAcc g)
      let ramp := d.rampOf ((accs.map fun a => d.fillMa a dk).foldl (· + ·) 0)
      if d.gts + 100 * ramp + 1000 * d.rd F.PWC_SHAPE_CFG_PRE_MARGIN < r then d
      else
        let d := accs.foldl (fun d a => d.fillerSet a k ramp none) d
        d.grPut g { d.gr g with rampEnd := some (d.gts + 100 * ramp) }
  | none => d

def execPrerampTimer (g : BitVec 8) (s : State) : Res := s.run (·.preramp g.toNat)

/-- LEAD before the predicted release: the guardband of every member not in droop rises to HIGH. -/
def Dev.gbLead (d : Dev) (g : Nat) : Dev :=
  match d.predict g with
  | some (_, r) =>
    if d.shapes g ∧ r ≤ d.gts + 10000 * d.rd F.PWC_GB_CFG_LEAD then
      let d := d.grPut g { d.gr g with gbAt := some d.gts }
      (d.members g).foldl (fun d p => if d.rd F.PWC_ACC_PSTATE_GB_LEVEL p.2 = 2 then d else d.setGb p.2 1) d
    else d
  | none => d

def execGuardbandLead (g : BitVec 8) (s : State) : Res := s.run (·.gbLead g.toNat)

/-- HOLD after the release: back to LOW. -/
def Dev.gbHoldEnd (d : Dev) (g : Nat) : Dev :=
  let x := d.gr g
  match x.gbAt with
  | some t =>
    if t ≤ x.released ∧ x.released + 10000 * d.rd F.PWC_GB_CFG_HOLD ≤ d.gts then
      let d := d.grPut g { x with gbAt := none }
      (d.members g).foldl (fun d p => if d.rd F.PWC_ACC_PSTATE_GB_LEVEL p.2 = 1 then d.setGb p.2 0 else d) d
    else d
  | none => d

def execGuardbandHoldEnd (g : BitVec 8) (s : State) : Res := s.run (·.gbHoldEnd g.toNat)

/-! ### Sideband power limits (R279) -/

/-- The two data bytes of a budget: LINEAR11 watts, or an unsigned count for FMT 1. -/
def sbWord (fmt b : Nat) : Nat :=
  if fmt = 1 then b % 65536
  else
    let n := ((List.range 16).find? fun n => b ≤ 1023 * 2 ^ n).getD 15
    n * 2048 + b / 2 ^ n % 2048

/-- The limiter can write ACC_a's limit: a device is named, and the mode is sideband-only, or LOST (R383). -/
def Dev.sbOk (d : Dev) (a : Nat) : Bool :=
  d.is F.PWC_ACC_SB_VALID a && d.rd F.PWC_ACC_SB_SEG a < 12 && (d.mode a = modeSideband || d.mode a = modeLost)

/-- One WRITE_WORD of the budget, ahead of the queued descriptors: answers whether it completed OK. -/
def Dev.sbSend (d : Dev) (a : Nat) (r : BusResult) : Bool × Dev :=
  let n := d.rd F.PWC_ACC_SB_SEG a
  let w := sbWord (d.rd F.PWC_ACC_SB_FMT a) (d.budget a)
  let t : TwDesc :=
    { core := 1, tag := 0, pec := d.is F.PWC_ACC_SB_PEC a, addr := BitVec.ofNat 7 (d.rd F.PWC_ACC_SB_ADDR a)
      cmd := BitVec.ofNat 8 (d.rd F.PWC_ACC_SB_CMD a), rlen := 0, wlen := 2, rsvd := false, buf := le 2 w }
  if (d.segGet n).mode ≠ .normal then (false, d)
  else
    (match r with | .ok _ => true | _ => false,
      d.emit (.twoWire n 5 t.addr.toNat t.cmd.toNat (twWritten 5 t)))

/-- The due write of ACC_a's limit, when the segment is between transactions. -/
def Dev.sbWrite (d : Dev) (a : Nat) (r : BusResult) : Dev :=
  if ¬ d.sbOk a ∨ ¬ (d.pw a).sbDue ∨ (d.segGet (d.rd F.PWC_ACC_SB_SEG a)).running.isSome then d
  else
    let x := d.sbSend a r
    x.2.pwPut a { x.2.pw a with sbDue := false, sbLast := d.gts, sbRetry := if x.1 then none else some (d.gts + 10000000) }

def execSbLimitWrite (a : Fin 8) (r : BusResult) (s : State) : Res := s.run (·.sbWrite a r)

/-- Once every second the limit is due again. -/
def execSbLimitRefresh (a : Fin 8) (s : State) : Res :=
  s.run fun d =>
    if d.sbOk a ∧ (d.pw a).sbLast + 1000000000 ≤ d.gts then d.pwPut a { d.pw a with sbDue := true } else d

/-- 10 ms after a failed write it is made again; a second failure is an error. -/
def Dev.sbAgain (d : Dev) (a : Nat) (r : BusResult) : Dev :=
  match (d.pw a).sbRetry with
  | some t =>
    if d.gts < t ∨ ¬ d.sbOk a ∨ (d.segGet (d.rd F.PWC_ACC_SB_SEG a)).running.isSome then d
    else
      let x := d.sbSend a r
      let d := x.2.pwPut a { x.2.pw a with sbRetry := none, sbLast := d.gts }
      if x.1 then d else (d.wr F.PWC_ERR_SB_WRITE 0 1).ffr causeSbWrite a 0
  | none => d

def execSbLimitRetry (a : Fin 8) (r : BusResult) (s : State) : Res := s.run (·.sbAgain a r)

end Sys2Proof.Machine
end

