-- ==== Sys2Proof/Machine/SyncOps.lean ====
section
/-! DEFINITION. Sync objects (spec/05): what each operation does to one object, the waiters it wakes, and the operations of
the hub around it. -/

namespace Sys2Proof.Machine

abbrev causeObjPoison : Cause := (2, 0, none)

/-! ### Status codes (R176) -/
abbrev stOk : Nat := 0x00
abbrev stParked : Nat := 0x01
abbrev stWoken : Nat := 0x02
abbrev stTimeout : Nat := 0x03
abbrev stSat : Nat := 0x04
abbrev stCasMiss : Nat := 0x05
abbrev stFreed : Nat := 0x06
abbrev stCastled : Nat := 0x07
abbrev stStale : Nat := 0x10
abbrev stNotMember : Nat := 0x11
abbrev stBadOp : Nat := 0x12
abbrev stLimit : Nat := 0x13
abbrev stNotHeld : Nat := 0x14
abbrev stTableFull : Nat := 0x15
abbrev stPoisoned : Nat := 0x16
abbrev stOutstanding : Nat := 0x17
abbrev stUnpaired : Nat := 0x18
abbrev stDisabled : Nat := 0x19

/-! Object types and operations (R173, R174). -/
abbrev tyCounter : Nat := 1
abbrev tyBarrier : Nat := 2
abbrev tySem : Nat := 3
abbrev tyEvent : Nat := 4
abbrev tyTicket : Nat := 5
abbrev opArrive : Nat := 0
abbrev opWait : Nat := 1
abbrev opAdd : Nat := 2
abbrev opFetchAdd : Nat := 3
abbrev opCas : Nat := 4
abbrev opSet : Nat := 5
abbrev opReset : Nat := 6

/-- `x` has passed `y` in serial order (R178). -/
def passed (x y : Nat) : Bool := (x + 2 ^ 32 - y % 2 ^ 32) % 2 ^ 32 < 2 ^ 31

/-- The low and high words of VALUE. -/
def Obj.lo (o : Obj) : Nat := o.value % 2 ^ 32
def Obj.hi (o : Obj) : Nat := o.value / 2 ^ 32
/-- ARRIVED and EXPECT of a barrier. -/
def Obj.arrived (o : Obj) : Nat := o.word1 / 65536
def Obj.expect (o : Obj) : Nat := o.word1 % 65536

/-- The present value, in the layout of the type's WAIT row (R567). -/
def Obj.present (o : Obj) : Nat :=
  if o.ty = tyBarrier then o.lo else if o.ty = tyTicket then o.hi * 2 ^ 32 else o.value

/-- Whether the condition of a wait holds on a COUNTER, BARRIER, EVENT or TICKET (R179). `x` is the operand: the epoch joined
or the ticket, for an operation with W. -/
def Obj.holds (o : Obj) (cond x : Nat) : Bool :=
  if o.ty = tyCounter then
    let v := signed 64 o.value
    let y := signed 64 x
    match cond with
    | 0 => decide (y ≤ v)
    | 1 => v = y
    | 2 => v ≠ y
    | _ => decide (v < y)
  else if o.ty = tyBarrier then passed o.lo (x + 1)
  else if o.ty = tyEvent then
    match cond with
    | 0 => o.value &&& x ≠ 0
    | 1 => o.value &&& x = x
    | _ => o.value &&& x = 0
  else passed o.hi x

/-- Checks 8 and 9 of R177 (R179, R566): 0 when the operation is allowed, otherwise its OP_ERR status. -/
def Obj.check (o : Obj) (op cond : Nat) (w : Bool) (x : Nat) (hasWaiters : Bool) : Nat :=
  if o.ty = tyCounter then
    if op = opWait then (if w then stBadOp else 0)
    else if op = opAdd ∨ op = opFetchAdd ∨ op = opCas ∨ op = opSet then (if w ∨ cond ≠ 0 then stBadOp else 0)
    else if op = opReset then (if w ∨ cond ≠ 0 ∨ x ≠ 0 then stBadOp else 0)
    else stBadOp
  else if o.ty = tyBarrier then
    if cond ≠ 0 then stBadOp
    else if op = opArrive then
      if x = 0 ∨ 65536 ≤ x then stBadOp else if o.expect - o.arrived < x then stLimit else 0
    else if w then stBadOp
    else if op = opWait then (if 2 ^ 32 ≤ x then stBadOp else 0)
    else if op = opSet then (if x = 0 ∨ 65536 ≤ x then stBadOp else if o.arrived ≠ 0 then stLimit else 0)
    else if op = opReset then (if x ≠ 0 then stBadOp else 0)
    else stBadOp
  else if o.ty = tySem then
    if w ∨ cond ≠ 0 then stBadOp
    else if op = opAdd ∨ op = opFetchAdd ∨ op = opSet then 0
    else if op = opReset then (if x ≠ 0 then stBadOp else 0)
    else if op = opWait then (if o.word1 < x then stBadOp else 0)
    else stBadOp
  else if o.ty = tyEvent then
    if w then stBadOp
    else if op = opWait then (if cond = 3 ∨ cond = 0 ∧ x = 0 then stBadOp else 0)
    else if cond ≠ 0 then stBadOp
    else if op = opSet ∨ op = opReset ∨ op = opCas then 0
    else stBadOp
  else if o.ty = tyTicket then
    if cond ≠ 0 then stBadOp
    else if op = opFetchAdd then
      if x ≠ 1 then stBadOp else if (o.lo + 1 + 2 ^ 32 - o.hi) % 2 ^ 32 ≥ 2 ^ 31 then stLimit else 0
    else if w then stBadOp
    else if op = opAdd then (if x ≠ 1 then stBadOp else if o.hi = o.lo then stNotHeld else 0)
    else if op = opWait then (if 2 ^ 32 ≤ x then stBadOp else 0)
    else if op = opReset then (if x ≠ 0 then stBadOp else if hasWaiters then stLimit else 0)
    else stBadOp
  else stBadOp

/-- What an allowed operation does (R179): the object after it, the completion status and RESULT, whether it has to wait and
for what operand, whether a barrier was released. -/
structure Eff where
  o : Obj
  st : Nat := stOk
  res : Nat := 0
  wait : Option Nat := none
  release : Bool := false
  deriving DecidableEq, Repr

/-- The clamp of R178: OVF is set and SAT returned. -/
def Eff.sat (e : Eff) (yes : Bool) : Eff := if yes then { e with o := { e.o with ovf := true }, st := stSat } else e

/-- CAS on bits [31:0] (R178). -/
def Obj.cas (o : Obj) (x : Nat) : Eff :=
  if o.lo = x % 2 ^ 32 then { o := { o with value := o.hi * 2 ^ 32 + x / 2 ^ 32 }, res := o.value }
  else { o := o, st := stCasMiss, res := o.value }

/-- COUNTER (R179). -/
def Obj.counter (o : Obj) (op cond x : Nat) : Eff :=
  let old := o.value
  if op = opAdd ∨ op = opFetchAdd then
    let n := signed 64 old + signed 64 x
    let m : Int := max (-(2 ^ 63 : Int)) (min (2 ^ 63 - 1) n)
    let v := wrapInt 64 m
    Eff.sat { o := { o with value := v }, res := if op = opAdd then v else old } (m ≠ n)
  else if op = opCas then o.cas x
  else if op = opSet then { o := { o with value := x }, res := old }
  else if op = opReset then { o := { o with value := 0 }, res := old }
  else if o.holds cond x then { o := o, res := old }
  else { o := o, wait := some x }

/-- EVENT (R179). -/
def Obj.event (o : Obj) (op cond x : Nat) : Eff :=
  let old := o.value
  if op = opSet then { o := { o with value := old ||| x }, res := old }
  else if op = opReset then { o := { o with value := old &&& (2 ^ 64 - 1 - x) }, res := old }
  else if op = opCas then o.cas x
  else if o.holds cond x then { o := o, res := old }
  else { o := o, wait := some x }

/-- BARRIER (R179), by member `m`. -/
def Obj.barrier (o : Obj) (op : Nat) (w : Bool) (x m : Nat) : Eff :=
  let e := o.lo
  if op = opArrive then
    let n := o.arrived + x
    if n = o.expect then
      { o := { o with word1 := o.expect, value := (e + 1) % 2 ^ 32 }, res := e, release := true }
    else
      { o := { o with word1 := n * 65536 + o.expect, value := e + (putBit o.hi m true) * 2 ^ 32 }
        res := e + n * 2 ^ 32, wait := if w then some e else none }
  else if op = opSet then { o := { o with word1 := x }, res := o.word1 }
  else if op = opReset then { o := { o with word1 := o.expect, value := e }, res := o.value }
  else if o.holds 0 x then { o := o, res := e }
  else { o := o, wait := some x }

/-- SEMAPHORE (R179), before the waiters are served. -/
def Obj.sem (o : Obj) (op x : Nat) (hasWaiters : Bool) : Eff :=
  let old := o.value
  if op = opAdd ∨ op = opFetchAdd ∨ op = opSet then
    let n := if op = opSet then x else old + x
    Eff.sat { o := { o with value := min n o.word1 }, res := old } (o.word1 < n)
  else if op = opReset then { o := { o with value := 0 }, res := old }
  else if !hasWaiters && x ≤ old then { o := { o with value := old - x }, res := old - x }
  else { o := o, wait := some x }

/-- TICKET (R179). -/
def Obj.ticket (o : Obj) (op : Nat) (w : Bool) (x : Nat) : Eff :=
  if op = opFetchAdd then
    let o' := { o with value := (o.lo + 1) % 2 ^ 32 + o.hi * 2 ^ 32 }
    { o := o', res := o.value, wait := if w && !passed o.hi o.lo then some o.lo else none }
  else if op = opAdd then
    let v := o.lo + (o.hi + 1) % 2 ^ 32 * 2 ^ 32
    { o := { o with value := v }, res := v }
  else if op = opReset then { o := { o with value := 0 }, res := o.value }
  else if o.holds 0 x then { o := o, res := o.hi * 2 ^ 32 }
  else { o := o, wait := some x }

/-- The effect of an operation on its object. -/
def Obj.apply (o : Obj) (op cond : Nat) (w : Bool) (x m : Nat) (hasWaiters : Bool) : Eff :=
  if o.ty = tyCounter then o.counter op cond x
  else if o.ty = tyBarrier then o.barrier op w x m
  else if o.ty = tySem then o.sem op x hasWaiters
  else if o.ty = tyEvent then o.event op cond x
  else o.ticket op w x

/-- The semaphore's walk (R182): waiters served in order while the count lasts. Answers the count, the served (each with the
count after its acquire) and the rest. -/
def semWalk : Nat → List Waiter → Nat × List (Waiter × Nat) × List Waiter
  | c, [] => (c, [], [])
  | c, w :: l =>
    if w.operand ≤ c then
      let r := semWalk (c - w.operand) l
      (r.1, (w, c - w.operand) :: r.2.1, r.2.2)
    else (c, [], w :: l)

/-- The waiters an object serves after an operation (R182), `gts` the release stamp of a barrier: the object, the woken with
their RESULT, the rest. -/
def Obj.walk (o : Obj) (gts : Nat) (l : List Waiter) : Obj × List (Waiter × Nat) × List Waiter :=
  if o.ty = tySem then
    let r := semWalk o.value l
    ({ o with value := r.1 }, r.2.1, r.2.2)
  else
    let res := if o.ty = tyBarrier then o.lo + gts % 2 ^ 32 * 2 ^ 32 else o.present
    (o, (l.filter fun w => o.holds w.cond w.operand).map (fun w => (w, res)), l.filter fun w => !o.holds w.cond w.operand)

/-! ### The hub -/

def Dev.obj (d : Dev) (i : Nat) : Obj := tget (fun _ => {}) d.sob.objs i
/-- A write of an object also drops the write-backs pending on its two words (R36): the store's words are numbered from
5 · 2^37, two to an object. -/
def Dev.objPut (d : Dev) (i : Nat) (o : Obj) : Dev :=
  (({ d with sob.objs := tset (fun _ => {}) d.sob.objs i o }).dropWb (5 * 2 ^ 37 + 2 * i)).dropWb (5 * 2 ^ 37 + 2 * i + 1)

/-- Object index, group and generation of a handle (R168). -/
def hIndex (h : Nat) : Nat := h % 65536
def hGen (h : Nat) : Nat := h / 65536 % 256
def hGroup (h : Nat) : Nat := h / 2 ^ 24 % 256

/-- A handle is valid (R168). -/
def Dev.validH (d : Dev) (h : Nat) : Bool :=
  let o := d.obj (hIndex h)
  o.ty ≠ 0 && o.group = hGroup h && o.gen = hGen h

/-- The waiters of object `i`, in parking order. -/
def Dev.waitersOf (d : Dev) (i : Nat) : List Waiter := d.sob.waiters.filter fun w => hIndex w.handle = i

/-- The member index a source acts as in group `g` (R172): an accelerator, the internal port (8), the host port (9). -/
def Dev.memberOf (d : Dev) (src g : Nat) : Option Nat :=
  if src < 8 then (List.range 8).find? fun m => d.memberAcc g m = some src
  else if src = 8 then some 8
  else if d.is F.GRP_CTRL_HOST_OK g then some 8
  else none

/-- The payload of OP_RSP, NOTIFY and OP_ERR (R175). -/
def syncPay (res st tag op h : Nat) : Nat := h % 2 ^ 32 + op * 2 ^ 32 + tag * 2 ^ 40 + st * 2 ^ 48 + res % 2 ^ 64 * 2 ^ 64

/-- Send a completion or notice: `ty` 1 OP_RSP, 2 NOTIFY, 3 OP_ERR. The host port's fills SOB_HOP_RESULT and _STATUS; an
accelerator that is not MATCH gets only UNPAIRED (R163). -/
def Dev.syncSend (d : Dev) (src ty res st tag op h : Nat) : Dev :=
  let d := if ty = 3 then d.inc F.SOB_OPERR_COUNT else d
  if src < 8 then
    if d.paired src ∨ st = stUnpaired then d.sendFlit src vcSync ty (syncPay res st tag op h) else d
  else if src = 8 then d.emit (.msg "sync" ty (le 16 (syncPay res st tag op h)))
  else (((d.wr64 F.SOB_HOP_RESULT_LO 0 res).wr F.SOB_HOP_STATUS_STATUS 0 st).wr F.SOB_HOP_STATUS_DONE 0 1)

/-- A waiter's NOTIFY. -/
def Dev.notify (d : Dev) (w : Waiter) (st res : Nat) : Dev := d.syncSend w.src 2 res st w.tag w.op w.handle

/-- Complete every waiter that `p` picks with one status; each RESULT is given by `res`. -/
def Dev.endWaiters (d : Dev) (p : Waiter → Bool) (st : Nat) (res : Waiter → Nat) : Dev :=
  (d.sob.waiters.filter p).foldl (fun d w => d.notify w st (res w)) { d with sob.waiters := d.sob.waiters.filter fun w => !p w }

/-- The bound TIMEOUT encodes, ns (R184). -/
def syncBound (t : Nat) : Nat := t % 2 ^ 14 * [10, 1000, 1000000, 100000000].getD (t / 2 ^ 14 % 4) 10

/-- The object is found poisoned (R194). -/
def Dev.objPoisoned (d : Dev) (i : Nat) : Dev :=
  let d := (d.wr F.SOB_ERR_POISON 0 1).ffr causeObjPoison i 0
  d.endWaiters (fun w => hIndex w.handle = i) stPoisoned fun _ => 0

/-- An object leaves an operation: the store, the waiters it serves (R182), the snapshot's SYNC source (R494). Answers the
object after the walk. -/
def Dev.objCommit (d : Dev) (h : Nat) (o o' : Obj) (serve : Bool) : Obj × Dev :=
  let i := hIndex h
  let mine := d.waitersOf i
  let r := if serve then o'.walk d.gts mine else (o', [], mine)
  let d := d.objPut i r.1
  let d := if serve then { d with sob.waiters := (d.sob.waiters.filter fun w => hIndex w.handle ≠ i) ++ r.2.2 } else d
  let d := r.2.1.foldl (fun d p => d.notify p.1 stWoken p.2) d
  let d := if o.value < 2 ^ 63 ∧ 2 ^ 63 ≤ o'.value ∧ d.rdw (F.SNAP_TRIG_HANDLE_HANDLE.addr 0) = h then d.snapFire snapSync else d
  (r.1, d)

/-- SOB_OPS counts an operation that took effect. -/
def Dev.opsCount (d : Dev) : Dev := d.wr64 F.SOB_OPS_LO 0 (d.rd64 F.SOB_OPS_LO + 1)

/-- Checks 6 to 10 and the effect, at the object (R177, R179 to R184). `m`: the member index of the source. -/
def Dev.syncRmw (d : Dev) (src m op cond : Nat) (w : Bool) (x timeout tag h : Nat) : Dev :=
  let i := hIndex h
  let err := fun (d : Dev) (st : Nat) => d.syncSend src 3 0 st tag op h
  if ¬ d.validH h then err d stStale
  else
    let o := d.obj i
    if o.poison ≠ 0 then err ((d.objPut i { o with poison := 3 }).objPoisoned i) stPoisoned
    else
      let hasW : Bool := !(d.waitersOf i).isEmpty
      let c := o.check op cond w x hasW
      if c ≠ 0 then err d c
      else
        let e := o.apply op cond w x m hasW
        let parks : Bool := e.wait.isSome && syncBound timeout ≠ 0
        if parks && (16384 ≤ d.sob.waiters.length || 2048 ≤ (d.sob.waiters.filter fun y => y.src = src).length ||
            64 ≤ (d.waitersOf i).length) then
          err (d.wr F.SOB_ERR_TABLE_FULL 0 1) stTableFull
        else
          let d := d.opsCount
          let serve : Bool := op ≠ opWait && (e.o.ty = tySem && (op = opAdd || op = opFetchAdd || op = opSet) ||
            e.o.value ≠ o.value || e.o.word1 ≠ o.word1)
          let r := d.objCommit h o e.o serve
          let d := r.2
          let d := if o.trk ∧ op = opArrive ∧ o.ty = tyBarrier then
              let d := d.arbArrive o.group m
              if e.release then d.arbRelease o.group h else d
            else d
          match e.wait with
          | some y =>
            if parks then
              let wt : Waiter :=
                { src := src, tag := tag, handle := h, op := op, cond := cond, operand := y, deadline := d.gts + syncBound timeout }
              let d := { d with sob.waiters := d.sob.waiters ++ [wt] }
              let d := d.wr F.SOB_WAITERS_HIGH 0 (max (d.rd F.SOB_WAITERS_HIGH) d.sob.waiters.length)
              d.syncSend src 1 (if op = opWait then r.1.present else e.res) stParked tag op h
            else (d.inc F.SOB_TIMEOUTS_COUNT).syncSend src 1 r.1.present stTimeout tag op h
          | none =>
            let res := if o.ty = tySem ∧ (op = opAdd ∨ op = opSet) then r.1.value else e.res
            d.syncSend src 1 res e.st tag op h

/-- An OP_REQ reaches the hub: checks 1 to 5 of R177, then the object. -/
def Dev.syncReq (d : Dev) (src op cond : Nat) (w : Bool) (x timeout tag h : Nat) : Dev :=
  let err := fun (d : Dev) (st : Nat) => d.syncSend src 3 0 st tag op h
  if src < 8 ∧ ¬ d.paired src then err d stUnpaired
  else if ¬ d.is F.SOB_CTRL_EN then err d stDisabled
  else if src < 8 ∧ 24 ≤ d.rd F.SOB_SRC_OUTSTANDING src then err (d.wr F.SOB_ERR_OUTSTANDING 0 1) stOutstanding
  else if 7 ≤ op then err d stBadOp
  else
    match if d.rd F.GRP_CTRL_STATE (hGroup h) = 1 ∨ d.rd F.GRP_CTRL_STATE (hGroup h) = 2 then d.memberOf src (hGroup h) else none with
    | none => err d stNotMember
    | some m => d.syncRmw src m op cond w x timeout tag h

/-- The next generation (R169). -/
def nextGen (g : Nat) : Nat := g % 255 + 1

/-- Free object `i`: its waiters end with FREED (R169, R183). -/
def Dev.objFree (d : Dev) (i : Nat) : Dev :=
  let o := d.obj i
  let d := d.objPut i { group := o.group, gen := nextGen o.gen }
  let d := { d with sob.freed := d.sob.freed ++ [i] }
  d.endWaiters (fun w => hIndex w.handle = i) stFreed fun _ => 0

/-- SCH may allocate in the bank of index `i` (R377). -/
def Dev.bankOk (d : Dev) (i : Nat) : Bool := !bitOf d.sob.avoid (i % 16)

/-- The free index freed longest ago, and its generation: those never allocated since the store was cleared come first, in
rising order. -/
def Dev.objPick (d : Dev) : Option (Nat × Nat × Dev) :=
  match (List.range 16).find? fun k => d.sob.fresh + k < 65536 && d.bankOk (d.sob.fresh + k) with
  | some k =>
    let i := d.sob.fresh + k
    some (i, d.rd F.SOB_GEN_BASE_GEN_BASE, { d with sob.fresh := i + 1 })
  | none =>
    match d.sob.freed.find? d.bankOk with
    | some i => some (i, (d.obj i).gen, { d with sob.freed := d.sob.freed.erase i })
    | none => none

/-- Allocate one object: its handle. -/
def Dev.objAlloc (d : Dev) (g ty : Nat) (trk : Bool) (word1 value : Nat) : Option (Nat × Dev) :=
  d.objPick.map fun (r : Nat × Nat × Dev) =>
    (g * 2 ^ 24 + r.2.1 * 65536 + r.1, r.2.2.objPut r.1 { group := g, gen := r.2.1, trk := trk, ty := ty, word1 := word1, value := value })

/-- Allocate `n` objects: their handles, or none. -/
def Dev.objAllocs (g ty : Nat) (trk : Bool) (word1 value : Nat) : Nat → Dev → Option (List Nat × Dev)
  | 0, d => some ([], d)
  | n + 1, d =>
    match d.objAlloc g ty trk word1 value with
    | none => none
    | some (h, d) =>
      match Dev.objAllocs g ty trk word1 value n d with
      | none => none
      | some (hs, d) => some (h :: hs, d)

/-- The allocated objects of group `g`. -/
def Dev.objsOf (d : Dev) (g : Nat) : List Nat := (d.sob.objs.filter fun p => p.2.ty ≠ 0 && p.2.group = g).map (·.1)

/-- The fields of an OBJ_ALLOC suit its type (R458). -/
def objSuits (ty : Nat) (trk : Bool) (word1 value : Nat) : Bool :=
  (!trk || ty = tyBarrier) &&
  (if ty = tyCounter ∨ ty = tyEvent then word1 = 0
   else if ty = tyBarrier then word1 / 65536 = 0 && word1 ≠ 0 && value < 2 ^ 32
   else if ty = tySem then word1 ≠ 0 && value ≤ word1
   else if ty = tyTicket then word1 = 0 && (value + 2 ^ 32 - value / 2 ^ 32) % 2 ^ 32 < 2 ^ 31
   else false)

/-- The sync store, the waiter table and the group table are cleared (R170). -/
def Dev.sobClear (d : Dev) : Dev :=
  ({ d with sob := {} }).resetRegs 0xC01000 0xC02000

/-- Bytes of object `i` as the window shows them (R173, R199). -/
def Dev.objBytes (d : Dev) (i : Nat) : List Byte :=
  let o := d.obj i
  let w : Bool := !(d.waitersOf i).isEmpty
  le 4 (o.group * 2 ^ 24 + o.gen * 65536 + o.trk.toNat * 2048 + o.ovf.toNat * 1024 + w.toNat * 512 + o.ty) ++ le 4 o.word1 ++
    le 8 o.value

end Sys2Proof.Machine
end

