-- ==== Sys2Proof/Machine/Sync.lean ====
section
/-! DEFINITION. Sync objects (spec/05): the meanings of its commands. -/

namespace Sys2Proof.Machine

/-- The payload of an OP_REQ (R174). -/
def SyncReqPay (op : Nat) (q : SyncReq) : Payload :=
  BitVec.ofNat 128 (q.handle.toNat + op * 2 ^ 32 + q.cond.toNat * 2 ^ 36 + q.w.toNat * 2 ^ 38 + q.ord.toNat * 2 ^ 39 +
    q.tag.toNat * 2 ^ 40 + q.timeout.toNat * 2 ^ 48 + q.operand.toNat * 2 ^ 64)

/-- The hub takes an OP_REQ from its source, frees the receive buffer it stood in, and carries it out. -/
def Dev.syncOp (d : Dev) (src op : Nat) (q : SyncReq) : Dev :=
  let d := if src < 8 then d.takeRx src vcSync 0 (SyncReqPay op q) else d
  d.syncReq src op q.cond.toNat q.w q.operand.toNat q.timeout.toNat q.tag.toNat q.handle.toNat

def execOpArrive (src : Fin 9) (q : SyncReq) (s : State) : Res := s.run (·.syncOp src opArrive q)
def execOpWait (src : Fin 9) (q : SyncReq) (s : State) : Res := s.run (·.syncOp src opWait q)
def execOpAdd (src : Fin 9) (q : SyncReq) (s : State) : Res := s.run (·.syncOp src opAdd q)
def execOpFetchAdd (src : Fin 9) (q : SyncReq) (s : State) : Res := s.run (·.syncOp src opFetchAdd q)
def execOpCas (src : Fin 9) (q : SyncReq) (s : State) : Res := s.run (·.syncOp src opCas q)
def execOpSet (src : Fin 9) (q : SyncReq) (s : State) : Res := s.run (·.syncOp src opSet q)
def execOpReset (src : Fin 9) (q : SyncReq) (s : State) : Res := s.run (·.syncOp src opReset q)

/-- Reserved codes 7 to 15. -/
def execOpReserved (src : Fin 9) (op : Fin 9) (q : SyncReq) (s : State) : Res := s.run (·.syncOp src (7 + op) q)

/-- Waiters whose deadline is over are removed with TIMEOUT (R184, R185). -/
def Dev.waitTimeouts (d : Dev) : Dev :=
  let due := fun (w : Waiter) => decide (w.deadline < d.gts + 1)
  let n := (d.sob.waiters.filter due).length
  (d.inc F.SOB_TIMEOUTS_COUNT 0 n).endWaiters due stTimeout fun w => (d.obj (hIndex w.handle)).present

def execSyncWaitTimeout (s : State) : Res := s.run (·.waitTimeouts)

/-- One operation of the host port (R200): member 8, W 0, TIMEOUT 0. -/
def Dev.hopGo (d : Dev) (cmd : Nat) : Dev :=
  let d' := d.wrw (F.SOB_HOP_CMD_OP.addr 0) (cmd &&& 0xBF)
  if cmd < 2 ^ 31 then d'
  else if d.is F.SOB_HOP_STATUS_BUSY then d.wr F.SOB_ERR_HOP_BUSY 0 1
  else
    let h := d'.rdw (F.SOB_HOP_HANDLE_HANDLE.addr 0)
    d'.syncReq 9 (cmd % 16) (cmd / 16 % 4) false (d'.rd64 F.SOB_HOP_OPERAND_LO) 0 0 h

def execSobHopGo (cmd : Word) (s : State) : Res := s.run (·.hopGo cmd.toNat)

/-- A read of the store window (R199). -/
def Dev.winRead (d : Dev) (off : Nat) (w : Width) : Dev :=
  let n := widthBytes w
  let i := off / 16
  if n < 4 ∨ off % n ≠ 0 then d.emit (.data 0 false)
  else
    let o := d.obj i
    let bs := d.objBytes i
    let d := if off % 16 = 0 then { d with sob.winLatch := some (i, leVal (bs.drop 4)) } else d
    let held := match d.sob.winLatch with
      | some (j, v) => if j = i then le 4 (leVal (bs.take 4)) ++ le 12 v else bs
      | none => bs
    d.emit (.data (BitVec.ofNat 64 (leVal ((held.drop (off % 16)).take n))) (bitOf o.poison (off % 16 / 8)))

def execSyncWindowRead (off : BitVec 20) (w : Width) (s : State) : Res := s.run (·.winRead off.toNat w)

def execSyncWindowWrite (off : BitVec 20) (v : DWord) (s : State) : Res :=
  let _ := off
  let _ := v
  s.run fun d => d.wr F.SOB_ERR_WIN_WRITE 0 1

/-- A write of any value sets HIGH to the present PARKED count. -/
def execSobWaitersWrite (s : State) : Res := s.run fun d => d.wr F.SOB_WAITERS_HIGH 0 d.sob.waiters.length

/-- SCH enables or disables the sync service; from any other agent the field is read-only. -/
def execSobEnWrite (ag : Agent) (on : Bool) (s : State) : Res :=
  s.run fun d => if ag = .sch then (d.wr F.SOB_CTRL_EN 0 on.toNat).readyTry else d

end Sys2Proof.Machine
end

