-- ==== Sys2Proof/Machine/BoardOps.lean ====
section
/-! DEFINITION. Shared operations of the Board (spec/06): contexts and their working area, instances, trains, aborts, the
reduction itself. -/

namespace Sys2Proof.Machine

abbrev causeInstAbort : Cause := (2, 1, none)

/-! Collective types, operations, abort reasons (R203, R204, R230). -/
abbrev ctAllReduce : Nat := 0
abbrev ctReduce : Nat := 1
abbrev ctBroadcast : Nat := 2
abbrev ctBarrier : Nat := 3
abbrev ctScatter : Nat := 4
abbrev rsMemberAbort : Nat := 0x01
abbrev rsTimeout : Nat := 0x02
abbrev rsCastled : Nat := 0x03
abbrev rsOverlap : Nat := 0x04
abbrev rsBadDesc : Nat := 0x05
abbrev rsPoison : Nat := 0x06
abbrev rsDeleted : Nat := 0x07
abbrev rsUnpaired : Nat := 0x10
abbrev rsDisabled : Nat := 0x11
abbrev rsNoContext : Nat := 0x12
abbrev rsNotMember : Nat := 0x13
abbrev rsNotContributor : Nat := 0x14
abbrev rsStaleInst : Nat := 0x15
abbrev rsEarly : Nat := 0x16

/-! ### Images and the working area (R207, R208) -/

/-- Bytes of the wire image of `n` elements of format `f`, before padding. -/
def imageBytes (f n : Nat) : Nat :=
  let e := elemBytes f n
  if fmtMX f then (e + 15) / 16 * 16 + (n + 31) / 32 else e

/-- Wire size: padded to 16 bytes. -/
def wireBytes (f n : Nat) : Nat := (imageBytes f n + 15) / 16 * 16

/-- The wire image of element codes and, for MX, scale codes. -/
def imageOf (f n : Nat) (elems scales : List Nat) : List Byte :=
  let e := packElems (fmtBits f) (elemBytes f n) elems
  let e := if fmtMX f then fitBytes ((e.length + 15) / 16 * 16) e ++ scales.map (BitVec.ofNat 8) else e
  fitBytes (wireBytes f n) e

/-- A context as its registers define it (R202). -/
structure CtxDef where
  group : Nat
  root : Nat
  trk : Bool
  op : Nat
  ty : Nat
  mxvIn : Bool
  nctl : Nat
  fmtOut : Nat
  fmtIn : Nat
  n : Nat
  recv : Nat
  contrib : Nat
  timeout : Nat
  deriving DecidableEq, Repr

/-- Read a context's definition. -/
def Dev.ctxDef (d : Dev) (c : Nat) : CtxDef :=
  { group := d.rd F.BRD_CTX_CFG_GROUP c, root := d.rd F.BRD_CTX_CFG_ROOT c, trk := d.is F.BRD_CTX_CFG_TRK c
    op := d.rd F.BRD_CTX_CFG_OP c, ty := d.rd F.BRD_CTX_CFG_TYPE c, mxvIn := d.is F.BRD_CTX_FMT_MXV_IN c
    nctl := d.rd F.BRD_CTX_FMT_NCTL c, fmtOut := d.rd F.BRD_CTX_FMT_FMT_OUT c, fmtIn := d.rd F.BRD_CTX_FMT_FMT_IN c
    n := d.rd F.BRD_CTX_LEN_N c, recv := d.rd F.BRD_CTX_MEMBERS_RECV c, contrib := d.rd F.BRD_CTX_MEMBERS_CONTRIB c
    timeout := d.rd F.BRD_CTX_TIMEOUT_TIMEOUT c }

/-- Contribution and result wire sizes. -/
def CtxDef.cw (x : CtxDef) : Nat := wireBytes x.fmtIn x.n
def CtxDef.rw (x : CtxDef) : Nat := if x.ty = ctScatter then wireBytes x.fmtOut (9 * x.n / 8) else wireBytes x.fmtOut x.n

/-- Stored result bytes (R208). -/
def CtxDef.stored (x : CtxDef) : Nat :=
  if x.ty = ctBroadcast then 0 else if x.ty = ctScatter then x.rw * popcount 9 x.recv else x.rw

/-- Bytes of one instance buffer. -/
def CtxDef.half (x : CtxDef) : Nat := popcount 9 x.contrib * x.cw + x.stored

/-- Footprint in 256-byte units (R208). -/
def CtxDef.foot (x : CtxDef) : Nat := (2 * x.half + 255) / 256

/-- Commons offset of the instance buffer of INST `i` of context `c`: the two buffers follow each other, each holding the
contributors' images in member order, then the stored results (the model's layout: the log). -/
def Dev.bufBase (d : Dev) (c i : Nat) : Nat := 0x200000 + 256 * d.rd F.BRD_CTX_AREA_BASE c + i % 2 * (d.ctxDef c).half

/-- Commons offset of member `m`'s image. -/
def Dev.memBase (d : Dev) (c i m : Nat) : Nat := d.bufBase c i + popcount m (d.ctxDef c).contrib * (d.ctxDef c).cw

/-- Commons offset of the result stored for member `m`. -/
def Dev.resBase (d : Dev) (c i m : Nat) : Nat :=
  let x := d.ctxDef c
  d.bufBase c i + popcount 9 x.contrib * x.cw + (if x.ty = ctScatter then popcount m x.recv * x.rw else 0)

/-! ### Instances (R213) -/

def Dev.bctx (d : Dev) (c : Nat) : BCtx := tget (fun _ => {}) d.brd.ctxs c
def Dev.bctxPut (d : Dev) (c : Nat) (x : BCtx) : Dev := { d with brd.ctxs := tset (fun _ => {}) d.brd.ctxs c x }

/-- The context exists (a context being deleted takes no more trains). -/
def Dev.ctxValid (d : Dev) (c : Nat) : Bool := d.is F.BRD_CTX_CFG_VALID c && !(d.bctx c).deleting

/-- The number of the current instance. -/
def Dev.ctxInst (d : Dev) (c : Nat) : Nat := d.rd F.BRD_CTX_STATE_INST c

/-- Where INST `i` stands: 0 current, 1 next, 2 and above early, 32768 and above stale (serial order over 16 bits). -/
def Dev.instPos (d : Dev) (c i : Nat) : Nat := (i + 65536 - d.ctxInst c) % 65536

/-- The buffer of INST `i` (current or next). -/
def Dev.binst (d : Dev) (c i : Nat) : BInst := if d.instPos c i = 0 then (d.bctx c).cur else (d.bctx c).next
def Dev.binstPut (d : Dev) (c i : Nat) (x : BInst) : Dev :=
  if d.instPos c i = 0 then d.bctxPut c { d.bctx c with cur := x } else d.bctxPut c { d.bctx c with next := x }

/-- The context's registers return to their reset values. -/
def Dev.ctxFree (d : Dev) (c : Nat) : Dev :=
  let foot := d.rd F.BRD_CTX_AREA_FOOT c
  let d := (d.wr F.BRD_AREA_USED 0 (d.rd F.BRD_AREA_USED - foot)).resetRegs (F.BRD_CTX_CFG_VALID.addr c) (F.BRD_CTX_CFG_VALID.addr c + 0x20)
  d.bctxPut c {}

/-- Finished instances at the front give way: the next one becomes current. -/
def Dev.instAdvance : Nat → Dev → Nat → Dev
  | 0, d, _ => d
  | k + 1, d, c =>
    let x := d.bctx c
    if x.cur.finished then
      Dev.instAdvance k ((d.bctxPut c { x with cur := x.next, next := {} }).incW F.BRD_CTX_STATE_INST c) c
    else if x.deleting ∧ x.cur.openAt.isNone ∧ x.next.openAt.isNone then d.ctxFree c
    else d

/-- INST `i` is finished (R213). -/
def Dev.instFinish (d : Dev) (c i : Nat) : Dev :=
  (d.binstPut c i { finished := true }).instAdvance 3 c

/-- Report an event to member 8 (R224, R225, R232). -/
def Dev.istatus (d : Dev) (c i ev st : Nat) : Dev :=
  let d := ((d.wr F.BRD_ISTATUS_CTX 0 c).wr F.BRD_ISTATUS_INST 0 i).wr F.BRD_ISTATUS_EVENT 0 ev
  let d := d.wr F.BRD_ISTATUS_STATUS 0 st
  if ev = 1 then (d.note 2 "brd-result" (c * 65536 + i)).note 1 "brd-result" (c * 65536 + i) else d

/-- An ABORT flit (R230). -/
def abortPay (c missing reason m i : Nat) : Nat := i + m * 2 ^ 16 + reason * 2 ^ 32 + missing * 2 ^ 40 + c * 2 ^ 51

/-- Send an ABORT to an accelerator; one that is not MATCH gets only UNPAIRED (R163). -/
def Dev.sendAbort (d : Dev) (a c missing reason m i : Nat) : Dev :=
  if d.paired a ∨ reason = rsUnpaired then d.sendFlit a vcRed 4 (abortPay c missing reason m i) else d

/-- An instance is aborted (R232). `m`: the member that asked, or 0xF. -/
def Dev.instAbort (d : Dev) (c i reason m : Nat) : Dev :=
  let x := d.ctxDef c
  let b := d.binst c i
  let missing := maskOf 9 fun k => bitOf x.contrib k && !bitOf b.done k
  let d := { d with brd.trains := d.brd.trains.map fun (p : Nat × Option Train) =>
    (p.1, p.2.map fun (t : Train) => if t.ctx = c ∧ t.inst = i then { t with refused := true } else t) }
  let d := (List.range 8).foldl (fun d k =>
    if bitOf x.contrib k || bitOf x.recv k then
      match d.memberAcc x.group k with
      | some a => d.sendAbort a c missing reason m i
      | none => d
    else d) d
  let d := d.istatus c i 2 reason
  let d := ((d.inc F.BRD_ABORTS_COUNT).wr F.BRD_ERR_INSTANCE_ABORT 0 1).ffr causeInstAbort (c * 65536 + i) reason
  let d := if reason = rsPoison then d.wr F.BRD_ERR_POISON 0 1 else d
  let d := d.instFinish c i
  if x.trk then d.arbRelease x.group (2 ^ 32 + c) else d

/-- The opening of an instance (R213). -/
def BInst.opened (b : BInst) (gts : Nat) : BInst := { b with openAt := some (b.openAt.getD gts) }

/-- Member `m`'s image of INST `i` is complete: reported to the arbiter; with the last one the instance is complete (R213,
R237). -/
def Dev.memberDone (d : Dev) (c i m : Nat) : Dev :=
  let x := d.ctxDef c
  let b := d.binst c i
  let b := { b with done := putBit b.done m true }
  let d := d.binstPut c i b
  let d := if x.trk then d.arbArrive x.group m else d
  if (List.range 9).all (fun k => !bitOf x.contrib k || bitOf b.done k) ∧ b.complete.isNone then
    let d := d.binstPut c i { b with complete := some d.gts }
    let d := d.wr64 F.BRD_DONE_LO 0 (d.rd64 F.BRD_DONE_LO + 1)
    if x.trk then d.arbRelease x.group (2 ^ 32 + c) else d
  else d

/-- Open instances that are not complete. -/
def Dev.openInsts (d : Dev) (c : Nat) : List Nat :=
  let x := d.bctx c
  let i := d.ctxInst c
  (if x.cur.openAt.isSome ∧ x.cur.complete.isNone then [i] else []) ++
    (if x.next.openAt.isSome ∧ x.next.complete.isNone then [(i + 1) % 65536] else [])

/-- Abort every open instance of a context that is not complete and that `p` picks. -/
def Dev.abortOpen (d : Dev) (c reason : Nat) (p : BInst → Bool) : Dev :=
  (d.openInsts c).reverse.foldl (fun d i => if p (d.binst c i) then d.instAbort c i reason 0xF else d) d

/-- Delete a context (R202). -/
def Dev.ctxDelete (d : Dev) (c : Nat) : Dev :=
  let d := d.abortOpen c rsDeleted fun _ => true
  (d.bctxPut c { d.bctx c with deleting := true }).instAdvance 3 c

/-- The contexts that exist. -/
def Dev.ctxsOf (d : Dev) (g : Nat) : List Nat :=
  (List.range 256).filter fun c => d.is F.BRD_CTX_CFG_VALID c && d.rd F.BRD_CTX_CFG_GROUP c = g

/-! ### Creating a context (R203 to R208) -/

/-- The definition is valid (R203 to R206), but for the group's own state. -/
def CtxDef.valid (x : CtxDef) : Bool :=
  let nc := popcount 9 x.contrib
  let nr := popcount 9 x.recv
  let shape : Bool :=
    if x.ty = ctReduce then 2 ≤ nc && x.root ≤ 8 && x.recv = 2 ^ x.root
    else if x.ty = ctBroadcast then x.root ≤ 8 && x.contrib = 2 ^ x.root && 1 ≤ nr && nr ≤ 8 && !bitOf x.recv x.root && x.op = 0
    else if x.ty = ctScatter then 2 ≤ nc && x.contrib < 256 && x.recv = x.contrib
    else 2 ≤ nc && x.recv = x.contrib
  let ops : Bool := x.op ≤ 4 && (x.op ≤ 2 || (fmtInt x.fmtIn && fmtInt x.fmtOut))
  let size : Bool :=
    if x.ty = ctBarrier then !fmtMX x.fmtIn && !fmtMX x.fmtOut && x.cw ≤ 16 && x.rw ≤ 16
    else if x.ty = ctBroadcast then x.fmtOut = x.fmtIn && (bitOf x.nctl 3 = x.mxvIn) && x.cw ≤ 65536
    else if x.ty = ctScatter then
      12 ≤ x.fmtIn && x.fmtIn ≤ 14 && 12 ≤ x.fmtOut && x.fmtOut ≤ 13 && x.n % 8 = 0 && x.cw ≤ 4096 && x.rw ≤ 65536
    else x.cw ≤ 65536 && x.rw ≤ 65536
  x.ty ≤ 4 && shape && ops && size && x.fmtIn < 16 && x.fmtOut < 16 && 1 ≤ x.n && x.n ≤ 131072 && x.contrib < 512 && x.recv < 512 &&
    nctlOk x.fmtOut x.nctl && x.nctl % 4 ≠ 2 && (!x.mxvIn || x.fmtIn = 8 || x.fmtIn = 9) && 1000 ≤ syncBound x.timeout

/-- The lowest place of the working area that holds `foot` units beside the contexts that exist. -/
def Dev.areaFit (d : Dev) (foot : Nat) : Option Nat :=
  let used := (List.range 256).filterMap fun c =>
    if d.is F.BRD_CTX_CFG_VALID c then some (d.rd F.BRD_CTX_AREA_BASE c, d.rd F.BRD_CTX_AREA_FOOT c) else none
  let used := used ++ ([2, 3].filter (bitOf d.ecc.comAvoid)).map fun b => ((b - 2) * 4096, 4096)
  let free := fun (b : Nat) => used.all fun p => b + foot ≤ p.1 || p.1 + p.2 ≤ b
  ((0 :: used.map fun p => p.1 + p.2).filter fun b => b + foot ≤ 8192 && free b).foldl
    (fun (m : Option Nat) b => match m with | none => some b | some x => some (min x b)) none

/-- SCH creates a context (R206): the context; none with `true` for BAD_PARAM, with `false` for RESOURCE. -/
def Dev.ctxCreate (d : Dev) (x : CtxDef) : (Option Nat × Bool) × Dev :=
  let mapped := (List.range 8).all fun m => !(bitOf x.contrib m || bitOf x.recv m) || (d.memberAcc x.group m).isSome
  if ¬ d.grpActive x.group ∨ ¬ x.valid ∨ ¬ mapped then ((none, true), d)
  else
    match (List.range 256).find? (fun c => !d.is F.BRD_CTX_CFG_VALID c), d.areaFit x.foot with
    | some c, some base =>
      let d := (((d.wr F.BRD_CTX_CFG_VALID c 1).wr F.BRD_CTX_CFG_GROUP c x.group).wr F.BRD_CTX_CFG_ROOT c x.root).wr F.BRD_CTX_CFG_TRK c x.trk.toNat
      let d := ((d.wr F.BRD_CTX_CFG_OP c x.op).wr F.BRD_CTX_CFG_TYPE c x.ty).wr F.BRD_CTX_FMT_MXV_IN c x.mxvIn.toNat
      let d := ((d.wr F.BRD_CTX_FMT_NCTL c x.nctl).wr F.BRD_CTX_FMT_FMT_OUT c x.fmtOut).wr F.BRD_CTX_FMT_FMT_IN c x.fmtIn
      let d := ((d.wr F.BRD_CTX_LEN_N c x.n).wr F.BRD_CTX_MEMBERS_RECV c x.recv).wr F.BRD_CTX_MEMBERS_CONTRIB c x.contrib
      let d := ((d.wr F.BRD_CTX_TIMEOUT_TIMEOUT c x.timeout).wr F.BRD_CTX_AREA_FOOT c x.foot).wr F.BRD_CTX_AREA_BASE c base
      ((some c, false), d.wr F.BRD_AREA_USED 0 (d.rd F.BRD_AREA_USED + x.foot))
    | _, _ => ((none, false), d)

/-! ### Reduction (R215 to R220) -/

/-- An accumulator value: exact in its floating-point format, or an integer. -/
inductive Acc where
  | f (v : Val)
  | z (i : Int)
  deriving DecidableEq, Repr

/-- The accumulator format of floating-point contributions (R82). -/
def accFmt (fmtIn : Nat) : FFmt := if fmtIn = 0 then ffB64 else ffFP32

/-- Bits of the integer accumulator (R82). -/
def accBits (fmtIn : Nat) : Nat := if fmtIn = 12 then 64 else 32

/-- Element `i` of a contribution image, widened to the accumulator (R82, R217). -/
def CtxDef.elem (x : CtxDef) (img : List Byte) (i : Nat) : Acc × Flags :=
  let w := fmtBits x.fmtIn
  if fmtInt x.fmtIn then (.z (signed w (elemAt w img i)), 0)
  else if fmtMX x.fmtIn then
    let e := elemBytes x.fmtIn x.n
    let sc := ((img.drop ((e + 15) / 16 * 16 + i / 32)).headD 0).toNat
    let v := mxVal x.fmtIn x.mxvIn sc (elemAt w img i)
    let r := toF32 v
    (.f (f32 r.1), r.2)
  else (.f (fmtVal x.fmtIn false (elemAt w img i)), 0)

/-- combine of R215, on present values. -/
def CtxDef.comb (x : CtxDef) (a b : Acc) : Acc × Flags :=
  match a, b with
  | .f u, .f v =>
    if x.op = 1 then (.f (valMax u v), 0)
    else if x.op = 2 then (.f (valMin u v), 0)
    else let r := accAdd (accFmt x.fmtIn) u v; (.f r.1, r.2)
  | .z i, .z j =>
    let w := accBits x.fmtIn
    if x.op = 1 then (.z (max i j), 0)
    else if x.op = 2 then (.z (min i j), 0)
    else if x.op = 3 then (.z (signed w (wrapInt w i &&& wrapInt w j)), 0)
    else if x.op = 4 then (.z (signed w (wrapInt w i ||| wrapInt w j)), 0)
    else (.z (i + j), 0)
  | a, _ => (a, 0)

/-- combine with absent operands. -/
def CtxDef.comb? (x : CtxDef) (a b : Option (Acc × Flags)) : Option (Acc × Flags) :=
  match a, b with
  | some p, some q => let r := x.comb p.1 q.1; some (r.1, p.2 ||| q.2 ||| r.2)
  | some p, none => some p
  | none, q => q

/-- The fixed tree (R215) over the nine members' values. -/
def CtxDef.tree (x : CtxDef) (v : Nat → Option (Acc × Flags)) : Option (Acc × Flags) :=
  let l1 := fun i => x.comb? (v (2 * i)) (v (2 * i + 1))
  let l2 := fun i => x.comb? (l1 (2 * i)) (l1 (2 * i + 1))
  x.comb? (x.comb? (l2 0) (l2 1)) (v 8)

/-- An accumulator value as an exact value, and as an exact integer where it is one. -/
def Acc.val (a : Acc) : Val := match a with | .f v => v | .z i => .ofInt i
def Acc.int (a : Acc) : Option Int := match a with | .f _ => none | .z i => some i

/-- Split a list into pieces of `k`. -/
def chunks (k : Nat) : Nat → List α → List (List α)
  | 0, _ => []
  | f + 1, l => if l.isEmpty then [] else l.take k :: chunks k f (l.drop k)

/-- Convert accumulated values to the output image (R218): bytes and flags. -/
def CtxDef.convert (x : CtxDef) (l : List Acc) : List Byte × Flags :=
  let r := nctlRnd x.nctl
  let n := l.length
  if fmtMX x.fmtOut then
    let bs := (chunks 32 (n / 32 + 1) l).map fun b =>
      mxQuant x.fmtOut (bitOf x.nctl 3) r [] (b.map Acc.val)
    (imageOf x.fmtOut n (bs.flatMap fun b => b.2.1) (bs.map (·.1)), bs.foldl (fun a b => a ||| b.2.2) 0)
  else
    let cs := l.map fun a => convElem x.fmtOut r a.val a.int
    (imageOf x.fmtOut n (cs.map (·.1)) [], cs.foldl (fun a c => a ||| c.2) 0)

/-- The reduced image of ALL_REDUCE, REDUCE and BARRIER_VALUE: bytes and flags. -/
def CtxDef.reduce (x : CtxDef) (img : Nat → List Byte) : List Byte × Flags :=
  let vs := (List.range x.n).map fun i =>
    (x.tree fun m => if bitOf x.contrib m then some (x.elem (img m) i) else none).getD (.z 0, 0)
  let r := x.convert (vs.map (·.1))
  (r.1, vs.foldl (fun a v => a ||| v.2) r.2)

/-- The image SCATTER_COUNTS gives member `j` (R220). -/
def CtxDef.scatter (x : CtxDef) (img : Nat → List Byte) (j : Nat) : List Byte × Flags :=
  let e := x.n / 8
  let at' := fun (m k : Nat) => if bitOf x.contrib m then some (x.elem (img m) (j * e + k)) else none
  let segs := (List.range 8).flatMap fun m => (List.range e).map fun k => ((at' m k).getD (.z 0, 0)).1
  let sums := (List.range e).map fun k => (({ x with op := 0 }).tree fun m => if m < 8 then at' m k else none).getD (.z 0, 0)
  x.convert (segs ++ sums.map (·.1))

/-- The flits of one result train (R209, R210): header and data, on the link of `role`. -/
def resultTrain (c i m gts flags off tag role : Nat) (data : List (List Byte)) : List Flit :=
  let hdr : Nat := i + m * 2 ^ 16 + off * 2 ^ 20 + data.length * 2 ^ 32 + c * 2 ^ 51 + flags * 2 ^ 59 + gts * 2 ^ 64
  { vc := vcRed, ty := 2, pay := BitVec.ofNat 128 hdr, role := role, tag := tag } ::
    data.mapIdx fun k b =>
      { vc := vcRed, ty := if k + 1 = data.length then 3 else 2, pay := BitVec.ofNat 128 (leVal b), role := role, tag := tag }

/-- Send a result image to member `m`'s accelerator as one or two trains (R211). -/
def Dev.sendResult (d : Dev) (a c i m gts flags : Nat) (img : List Byte) : Dev :=
  let tag := c * 65536 + i + 1
  let fl := chunks 16 (img.length / 16 + 1) img
  let two : Bool := decide (2048 ≤ img.length) && d.holder a 1 < 3 && d.holder a 0 < 3
  let k := if two then (img.length + 31) / 32 else fl.length
  let role := if d.holder a 0 < 3 then 0 else 1
  let t1 := resultTrain c i m gts flags 0 tag role (fl.take k)
  let t2 := if two then resultTrain c i m gts flags k tag 1 (fl.drop k) else []
  (t1 ++ t2).foldl (fun d f => if d.paired a then d.send a f else d) d

/-- Reduce a complete instance and send its results (R218 to R224). -/
def Dev.instReduce (d : Dev) (c i : Nat) : Dev :=
  let x := d.ctxDef c
  let b := d.binst c i
  let ms := bitsSet 9 x.contrib
  if ms.any fun m => d.poisonIn .commons (d.memBase c i m) x.cw then
    d.instAbort c i rsPoison 0xF
  else
    let img : Nat → List Byte := fun m => d.ldn .commons (d.memBase c i m) x.cw
    let all : List Byte × Flags := if x.ty = ctBroadcast then (img x.root, 0) else if x.ty = ctScatter then ([], 0) else x.reduce img
    let per : Nat → List Byte × Flags := fun m => if x.ty = ctScatter then x.scatter img m else all
    let rs := bitsSet 9 x.recv
    let flags := rs.foldl (fun f m => f ||| (per m).2) all.2
    let d := d.binstPut c i { b with reduced := true }
    let d := (d.wr F.BRD_CTX_FLAGS_LAST c flags).wr F.BRD_CTX_FLAGS_ACC c (d.rd F.BRD_CTX_FLAGS_ACC c ||| flags)
    let d := if x.ty = ctBroadcast then d else rs.foldl (fun d m => d.stn .commons (d.resBase c i m) (per m).1) d
    rs.foldl (fun d m =>
      if m = 8 then d.istatus c i 1 0
      else match d.memberAcc x.group m with
        | some a => d.sendResult a c i m (b.complete.getD d.gts) flags (per m).1
        | none => d) d

/-- Whether a flit of instance `tag` waits for its acknowledgement somewhere at accelerator `a`. -/
def Dev.tagOut (d : Dev) (a tag : Nat) : Bool :=
  let x := d.acc a
  x.txq.any (fun f => f.tag = tag) || x.failed.any (fun q => q.frozen.any fun y => y.f.tag = tag) ||
    (accLinks a).any fun n => (d.lk n).replay.any fun y => y.f.tag = tag

/-- Drop what waits to be sent of the result trains that `p` picks to accelerator `a`; what is already on a link no longer
holds its instance (R235, R236). -/
def Dev.dropResults (d : Dev) (a : Nat) (p : Nat → Bool) : Dev :=
  let x := d.acc a
  let wipe := fun (y : Sent) => if p y.f.tag then { y with f := { y.f with tag := 0 } } else y
  let d := d.accPut a { x with
    txq := x.txq.filter fun f => !(f.tag ≠ 0 && p f.tag)
    failed := x.failed.map fun (q : Failed) => { q with frozen := q.frozen.map wipe } }
  (accLinks a).foldl (fun d n => d.lkPut n { d.lk n with replay := (d.lk n).replay.map wipe }) d

/-! ### Trains (R209, R212, R214) -/

/-- The link whose train a RED flit on link `n` belongs to. -/
def Dev.trainLink (d : Dev) (n : Nat) : Nat :=
  match tget (fun _ => none) d.brd.redir n with
  | some k => if (tget (fun _ => none) d.brd.trains k).isSome then k else n
  | none => n

def Dev.train (d : Dev) (n : Nat) : Option Train := tget (fun _ => none) d.brd.trains n
/-- A train that closes ends the redirection to it (R212). -/
def Dev.trainPut (d : Dev) (n : Nat) (t : Option Train) : Dev :=
  { d with
    brd.trains := tset (fun _ => none) d.brd.trains n t
    brd.redir := if t.isSome then d.brd.redir else d.brd.redir.filter fun p => p.2 ≠ some n }

/-- An open train ends short (R214). -/
def Dev.trainShort (d : Dev) (n : Nat) (fault : Dev → Train → Dev) : Dev :=
  match d.train n with
  | some t => if t.refused then d.trainPut n none else (fault d t).trainPut n none
  | none => d

/-- Units `off` to `off + n − 1` as a mask. -/
def unitMask (off n : Nat) : Nat := (2 ^ n - 1) * 2 ^ off

/-- A train is refused (R214, scope train): ABORT to the sender alone; its data flits are discarded. -/
def Dev.refuse (d : Dev) (n : Nat) (t : Train) (reason : Nat) : Dev :=
  let d := (d.wr F.BRD_ERR_TRAIN_REFUSED 0 1).inc F.BRD_TRAIN_DROPS_REFUSED
  (d.sendAbort (n / 3) t.ctx 0 reason t.member t.inst).trainPut n (some { t with refused := true })

/-- An instance-scope failure of a train; a complete instance stays, and the sender alone is told. -/
def Dev.trainFault (d : Dev) (n : Nat) (t : Train) (reason : Nat) : Dev :=
  if (d.binst t.ctx t.inst).complete.isSome then d.refuse n t reason
  else (d.trainPut n (some { t with refused := true })).instAbort t.ctx t.inst reason 0xF

/-- Checks 6 and 7 of R214: the reason, or 0. -/
def Dev.instCheck (d : Dev) (c i : Nat) : Nat :=
  let p := d.instPos c i
  if 32768 ≤ p then rsStaleInst
  else if 2 ≤ p then rsEarly
  else if (d.binst c i).finished then rsStaleInst else 0

/-- A train header (R210, R214). -/
def Dev.contribHeader (d : Dev) (n : Nat) (p : Payload) : Dev :=
  let a := n / 3
  -- a header inside an open train ends it short
  let r := d.trainLink n
  let d := d.trainShort r fun d t => d.trainFault r t rsBadDesc
  let k := n
  let d := d.trainShort k fun d t => d.trainFault k t rsBadDesc
  let t : Train := { ctx := pbits p 51 8, inst := pbits p 0 16, member := pbits p 16 4, off := pbits p 20 12, nfl := pbits p 32 13 }
  let x := d.ctxDef t.ctx
  if ¬ d.paired a then d.refuse k t rsUnpaired
  else if ¬ d.is F.BRD_CTRL_EN then d.refuse k t rsDisabled
  else if ¬ d.ctxValid t.ctx then d.refuse k t rsNoContext
  else if d.memberOf a x.group ≠ some t.member then d.refuse k t rsNotMember
  else if ¬ bitOf x.contrib t.member then d.refuse k t rsNotContributor
  else
    let c := d.instCheck t.ctx t.inst
    if c ≠ 0 then d.refuse k t c
    else if t.nfl = 0 ∨ x.cw / 16 < t.off + t.nfl then d.trainFault k t rsBadDesc
    else
      let b := d.binst t.ctx t.inst
      let had := tget (fun _ => 0) b.claimed t.member
      if had &&& unitMask t.off t.nfl ≠ 0 then d.trainFault k t rsOverlap
      else
        let b := { b.opened d.gts with claimed := tset (fun _ => 0) b.claimed t.member (had ||| unitMask t.off t.nfl) }
        (d.binstPut t.ctx t.inst b).trainPut k (some t)

/-- A data flit; `last`: TYPE CONTRIB_LAST. -/
def Dev.contribData (d : Dev) (n : Nat) (p : Payload) (last : Bool) : Dev :=
  let k := d.trainLink n
  match d.train k with
  | none => (d.wr F.BRD_ERR_ORPHAN 0 1).inc F.BRD_TRAIN_DROPS_ORPHANS
  | some t =>
    if t.refused then (if last then d.trainPut k none else d)
    else if (t.got + 1 = t.nfl) ≠ last then
      let d := d.trainFault k t rsBadDesc
      if last then d.trainPut k none else d
    else
      let d := d.stn .commons (d.memBase t.ctx t.inst t.member + 16 * (t.off + t.got)) (le 16 p.toNat)
      if last then
        let b := d.binst t.ctx t.inst
        let r := tget (fun _ => 0) b.recv t.member + t.nfl
        let d := (d.binstPut t.ctx t.inst { b with recv := tset (fun _ => 0) b.recv t.member r }).trainPut k none
        if r = (d.ctxDef t.ctx).cw / 16 then d.memberDone t.ctx t.inst t.member else d
      else d.trainPut k (some { t with got := t.got + 1 })

end Sys2Proof.Machine
end

