-- ==== Sys2Proof/Machine/Board.lean ====
section
/-! DEFINITION. The Board (spec/06): the meanings of its commands. -/

namespace Sys2Proof.Machine

def execContribHeader (n : Fin 24) (p : Payload) (s : State) : Res :=
  s.run fun d => (d.takeRx (n / 3) vcRed 0 p).contribHeader n p

def execContrib (n : Fin 24) (p : Payload) (s : State) : Res :=
  s.run fun d => (d.takeRx (n / 3) vcRed 0 p).contribData n p false

def execContribLast (n : Fin 24) (p : Payload) (s : State) : Res :=
  s.run fun d => (d.takeRx (n / 3) vcRed 1 p).contribData n p true

/-- The first complete instance of a context that is not reduced, in instance order, is reduced. -/
def Dev.reduceNext (d : Dev) (c : Nat) : Dev :=
  let x := d.bctx c
  let i := d.ctxInst c
  if x.cur.complete.isSome ∧ ¬ x.cur.reduced then d.instReduce c i
  else if x.cur.reduced ∧ x.next.complete.isSome ∧ ¬ x.next.reduced then d.instReduce c ((i + 1) % 65536)
  else d

def execInstanceReduction (c : Byte) (s : State) : Res := s.run (·.reduceNext c.toNat)

/-- The current instance finishes once no flit of its result trains waits for an acknowledgement (R213). -/
def Dev.finishCurrent (d : Dev) (c : Nat) : Dev :=
  let i := d.ctxInst c
  if (d.bctx c).cur.reduced ∧ ¬ accs8.any (fun a => d.tagOut a (c * 65536 + i + 1)) then d.instFinish c i else d

def execInstanceFinish (c : Byte) (s : State) : Res := s.run (·.finishCurrent c.toNat)

/-- An ABORT from an accelerator (R233). -/
def Dev.accAbort (d : Dev) (a : Nat) (p : Payload) : Dev :=
  let d := d.takeRx a vcRed 4 p
  let c := pbits p 51 8
  let i := pbits p 0 16
  let m := pbits p 16 4
  let x := d.ctxDef c
  if ¬ d.ctxValid c ∨ d.instCheck c i ≠ 0 ∨ (d.binst c i).complete.isSome ∨ d.memberOf a x.group ≠ some m ∨
      ¬ (bitOf x.contrib m ∨ bitOf x.recv m) then
    d.wr F.BRD_ERR_ABORT_IGNORED 0 1
  else d.instAbort c i rsMemberAbort m

def execAbort (a : Fin 8) (p : Payload) (s : State) : Res := s.run (·.accAbort a p)

/-- Instances of a context not complete by their deadline are aborted (R231). -/
def execInstanceTimeout (c : Byte) (s : State) : Res :=
  s.run fun d => d.abortOpen c.toNat rsTimeout fun b =>
    match b.openAt with
    | some t => decide (t + syncBound (d.ctxDef c.toNat).timeout < d.gts + 1)
    | none => false

/-- Member 8's whole contribution (R225); only tray firmware can write the register. -/
def Dev.iContrib (d : Dev) (v : Nat) : Dev :=
  let c := v / 65536 % 256
  let i := v % 65536
  let d := d.wrw (F.BRD_ICONTRIB_CTX.addr 0) (v % 2 ^ 24)
  let r := if ¬ d.is F.BRD_CTRL_EN then rsDisabled
    else if ¬ d.ctxValid c then rsNoContext
    else if ¬ bitOf (d.ctxDef c).contrib 8 then rsNotContributor
    else d.instCheck c i
  if r ≠ 0 then d.istatus c i 3 r
  else if bitOf (d.binst c i).done 8 then d
  else (d.binstPut c i ((d.binst c i).opened d.gts)).memberDone c i 8

def execBrdIcontrib (ag : Agent) (v : Word) (s : State) : Res :=
  s.run fun d => if ag = .host then d else d.iContrib v.toNat

/-- SCH enables or disables the Board; disabling aborts what is not complete (R238). -/
def execBrdEnWrite (ag : Agent) (on : Bool) (s : State) : Res :=
  s.run fun d =>
    if ag ≠ .sch then d
    else
      let d := d.wr F.BRD_CTRL_EN 0 on.toNat
      if on then d.readyTry else (List.range 256).foldl (fun d c => d.abortOpen c rsDeleted fun _ => true) d

end Sys2Proof.Machine
end

