-- ==== Sys2Proof/Machine/MbxOps.lean ====
section
/-! DEFINITION. Shared operations of the mailbox (spec/13): packets, the checks every request goes through, replies, accepted
requests and their completions. -/

namespace Sys2Proof.Machine

/-! ### Status codes (R445) -/
abbrev msOk : Nat := 0x00
abbrev msAccepted : Nat := 0x01
abbrev msNotReady : Nat := 0x02
abbrev msBadVersion : Nat := 0x03
abbrev msBadOpcode : Nat := 0x04
abbrev msBadParam : Nat := 0x05
abbrev msResource : Nat := 0x06
abbrev msBusy : Nat := 0x07
abbrev msDeferred : Nat := 0x08
abbrev msDenied : Nat := 0x09
abbrev msLocked : Nat := 0x0A
abbrev msTimeout : Nat := 0x0B
abbrev msIntegrity : Nat := 0x0C

/-- Firmware cores by number: 0 SEC, 1 PMC, 2 SCH, 3 to 10 the CCCs. -/
abbrev coreSec : Nat := 0
abbrev corePmc : Nat := 1
abbrev coreSch : Nat := 2

/-- Transport of a channel (R439): 0 W0, 1 MCTP-PCIe, 2 MCTP-SMBus. -/
def transport (ch : Nat) : Nat := if ch < 4 then 0 else ch - 3

/-- A packet (R441): header and payload, with the CRC over both when asked. -/
def mbxPacket (major minor op tag status len flags detail gts zero : Nat) (crc : Bool) (pay : List Byte) : List Byte :=
  let h := le 1 major ++ le 1 minor ++ le 2 op ++ le 2 tag ++ le 2 status ++ le 2 len ++ le 2 flags ++ le 4 detail ++ le 8 gts ++ le 4 zero
  h ++ le 4 (if crc then crc32c (h ++ zeros 4 ++ pay) else 0) ++ pay

end Sys2Proof.Machine

namespace Sys2Proof

/-- A request's bytes before its CRC field. -/
def MbxReq.head (q : MbxReq) (op : Nat) : List Byte :=
  Machine.le 1 q.major.toNat ++ Machine.le 1 q.minor.toNat ++ Machine.le 2 op ++ Machine.le 2 q.tag.toNat ++ Machine.le 2 q.status.toNat ++ Machine.le 2 q.len.toNat ++
    Machine.le 2 q.flags.toNat ++ Machine.le 4 q.detail.toNat ++ Machine.le 8 q.gts.toNat ++ Machine.le 4 q.zero.toNat

/-- A request's bytes. -/
def MbxReq.bytes (q : MbxReq) (op : Nat) : List Byte := q.head op ++ Machine.le 4 q.crc.toNat ++ q.pay

/-- CRC_PRESENT of a request. -/
def MbxReq.hasCrc (q : MbxReq) : Bool := Machine.bitOf q.flags.toNat 3

/-- The minor version of the reply (R449); that of another major's refusal is 1 (R448). -/
def MbxReq.minorOut (q : MbxReq) : Nat := if q.major = 3 ∧ q.minor = 0 then 0 else 1

end Sys2Proof

namespace Sys2Proof.Machine

/-- A payload field: `n` bytes at `off`. -/
def pf (p : List Byte) (off n : Nat) : Nat := leVal ((p.drop off).take n)

/-- Bytes [off, off + n) of a payload. -/
def pb (p : List Byte) (off n : Nat) : List Byte := (p.drop off).take n

/-- The answer of an opcode: a status, DETAIL and payload; `held`: the reply comes later. -/
structure Rep where
  st : Nat
  detail : Nat := 0
  pay : List Byte := []
  held : Bool := false
  deriving DecidableEq, Repr

/-- OK with a payload. -/
def Rep.ok (pay : List Byte := []) : Rep := { st := msOk, pay := pay }

/-- BAD_PARAM naming the field at payload offset `off` (R445). -/
def Rep.bad (off : Nat) : Rep := { st := msBadParam, detail := 32 + off }

/-- A status without payload. -/
def Rep.of (st : Nat) : Rep := { st := st }

/-- The first field that breaks its rule, in field order. -/
def firstBad : List (Bool × Nat) → Option Nat
  | [] => none
  | (b, off) :: l => if b then some off else firstBad l

/-- The reply leaves: a W0 channel's response buffer and DONE, with vector 0; or the transport's message (R440, R441); channel 9
stands for a W0 request whose channel a PCIe reset took away (R466). -/
def Dev.reply (d : Dev) (ch op tag minor : Nat) (crc : Bool) (r : Rep) : Dev :=
  let flags := 1 + if crc then 8 else 0
  let pkt := mbxPacket 3 minor op tag r.st r.pay.length flags r.detail d.gts 0 crc r.pay
  if ch < 4 then
    (((d.stn (.rsp ch) 0 pkt).wr F.MBX_CH_STATUS_STATE ch 2).wr F.MBX_CH_STATUS_DONE ch 1).vector 0
  else if 6 ≤ ch then d
  else d.emit (.reply ch pkt)

/-- The reply to a held request leaves. -/
def Dev.replyHeld (d : Dev) (id : Nat) (r : Rep) : Dev :=
  match d.mbx.held.find? fun h => h.id = id with
  | some h => ({ d with mbx.held := d.mbx.held.filter fun h => h.id ≠ id }).reply h.ch h.op h.tag h.minor h.crc r
  | none => d

/-- Hold a request: its reply comes later. Answers its number. -/
def Dev.hold (d : Dev) (q : MbxReq) (op : Nat) : Nat × Dev :=
  let h : Held := { id := d.mbx.nextId, ch := q.ch, op := op, tag := q.tag.toNat, minor := q.minorOut, crc := q.hasCrc, at' := d.gts }
  (h.id, { d with mbx.held := d.mbx.held ++ [h], mbx.nextId := h.id + 1 })

/-- Whether one more request can be accepted (R444). -/
def Dev.canAccept (d : Dev) (q : MbxReq) : Bool :=
  d.mbx.outst.length < 16 && !(d.mbx.outst.any fun o => o.xport = transport q.ch && o.tag = q.tag.toNat)

/-- Accept a request (R444). Answers its number. -/
def Dev.accept (d : Dev) (q : MbxReq) (op : Nat) : Nat × Dev :=
  let o : Outst := { id := d.mbx.nextId, xport := transport q.ch, op := op, tag := q.tag.toNat, minor := q.minorOut, crc := q.hasCrc }
  (o.id, { d with mbx.outst := d.mbx.outst ++ [o], mbx.nextId := o.id + 1 })

/-- Commit a completion packet; the request is no longer outstanding. -/
def Dev.complCommit (d : Dev) (id : Nat) (pkt : List Byte) : Dev :=
  { d.cqCommit 4 pkt with mbx.outst := d.mbx.outst.filter fun o => o.id ≠ id }

/-- The completion of an accepted request (R444): into capture queue 4, or it waits for room there. -/
def Dev.complete (d : Dev) (id st : Nat) (pay : List Byte := []) : Dev :=
  match d.mbx.outst.find? fun o => o.id = id with
  | none => d
  | some o =>
    let pkt := mbxPacket 3 o.minor o.op o.tag st pay.length (3 + if o.crc then 8 else 0) 0 d.gts 0 o.crc pay
    if d.obs.waitingCompl.isEmpty && d.is F.CQ_CFG_EN 4 && d.cqFits 4 pkt.length then d.complCommit id pkt
    else { d with obs.waitingCompl := d.obs.waitingCompl ++ [(id, pkt)] }

/-- An opcode: its code, whether it needs the lease, the core that carries it out, its payload lengths, the check of its
fields (the payload offset of the first offending one), and what it does. -/
structure MbxOp where
  op : Nat
  lease : Bool
  core : Nat
  len : Nat → Bool
  check : Dev → List Byte → Option Nat := fun _ _ => none
  body : Dev → MbxReq → Rep × Dev

/-- The endpoint's link is up: the SYS domain runs, outside Endgame and a cold reset's power-down (R436). -/
def Dev.linkUp (d : Dev) : Bool := d.sysOn && !d.flt.endgame && !d.seq.coldDown

/-- The core that serves group 0x00xx: SEC once SCH has failed (R387, R450). -/
def Dev.mbxServer (d : Dev) : Nat := if d.rd F.MBX_STATUS_SERVER = 2 then coreSec else coreSch

/-- Checks 1 to 7 of R443, with the core's part. -/
def Dev.mbxCheck (d : Dev) (o : MbxOp) (served : Bool) (q : MbxReq) : Option Rep :=
  if q.major ≠ 3 then some { st := msBadVersion, detail := 0x00010303, pay := [3, 3, 1, 0] }
  else if q.hasCrc && crc32c (q.head o.op ++ zeros 4 ++ q.pay) ≠ q.crc.toNat then some (.of msIntegrity)
  else if q.status ≠ 0 then some { st := msBadParam, detail := 0x06 }
  else if 4096 < q.len.toNat ∨ q.len.toNat ≠ q.pay.length then some { st := msBadParam, detail := 0x08 }
  else if q.flags &&& 0xFFF7 ≠ 0 then some { st := msBadParam, detail := 0x0A }
  else if q.detail ≠ 0 then some { st := msBadParam, detail := 0x0C }
  else if q.gts ≠ 0 then some { st := msBadParam, detail := 0x10 }
  else if q.zero ≠ 0 then some { st := msBadParam, detail := 0x18 }
  else if ¬ (if o.op / 256 = 0 then d.coreUp d.mbxServer = true else d.coreUp coreSch = true ∧ d.is F.MBX_STATUS_READY = true) then
    some (.of msNotReady)
  else if ¬ served then some (.of msBadOpcode)
  else if o.lease && !(d.rd F.MBX_STATUS_LEASE = 1 && d.rd F.MBX_STATUS_LEASE_XPORT = transport q.ch) then some (.of msDenied)
  else if ¬ o.len q.pay.length then some { st := msBadParam, detail := 0x08 }
  else match o.check d q.pay with
    | some off => some (.bad off)
    | none => if o.core = coreSec ∧ o.op / 256 ≠ 0 ∧ ¬ d.coreUp coreSec = true then some (.of msNotReady) else none

/-- A request is taken, checked and carried out (R439, R440, R443). -/
def Dev.mbxRun (d : Dev) (o : MbxOp) (served : Bool) (q : MbxReq) : Dev :=
  match d.mbxCheck o served q with
  | some r => d.reply q.ch o.op q.tag.toNat q.minorOut q.hasCrc r
  | none =>
    let core := if o.op / 256 = 0 then d.mbxServer else o.core
    if ¬ d.coreUp core then (d.hold q o.op).2
    else
      let r := o.body d q
      if r.1.held then r.2 else r.2.reply q.ch o.op q.tag.toNat q.minorOut q.hasCrc r.1

/-- A request arrives: on a W0 channel host software writes the request buffer and the doorbell (R440). -/
def Dev.mbxArrive (d : Dev) (o : MbxOp) (served : Bool) (q : MbxReq) : Dev :=
  if !d.linkUp then d
  else if q.ch.val < 4 then
    let st := d.rd F.MBX_CH_STATUS_STATE q.ch
    if st = 0 then
      let d := d.stn (.req q.ch) 0 ((q.bytes o.op).take 4128)
      ((d.wr F.MBX_CH_STATUS_TAG q.ch q.tag.toNat).wr F.MBX_CH_STATUS_STATE q.ch 1).mbxRun o served q
    else (if st = 1 then d.wr F.MBX_ERR_LATE_WRITE 0 1 else d.stn (.req q.ch) 0 ((q.bytes o.op).take 4128)).wr F.MBX_ERR_DOORBELL 0 1
  else if 4 ≤ (d.mbx.held.filter fun (h : Held) => h.ch = q.ch.val).length then
    d.reply q.ch o.op q.tag.toNat q.minorOut q.hasCrc (.of msBusy)
  else d.mbxRun o served q

/-- The meaning of a mailbox opcode's row. -/
def MbxOp.run (o : MbxOp) (q : MbxReq) (s : State) : Res := s.run fun d => d.mbxArrive o true q

/-- A reply body for a request that is accepted: BUSY where it cannot be, otherwise what `f` does with its number. -/
def Dev.accepting (d : Dev) (q : MbxReq) (op : Nat) (f : Dev → Nat → Dev) : Rep × Dev :=
  if d.canAccept q then
    let a := d.accept q op
    (.of msAccepted, f a.2 a.1)
  else (.of msBusy, d)

end Sys2Proof.Machine
end

