-- ==== Sys2Proof/Machine/Vreljan.lean ====
section
/-! DEFINITION. The Vreljan links (spec/04): training, the link layer, failure and takeover, time synchronisation, pairing,
sideband-only service. -/

namespace Sys2Proof.Machine

/-- Update a link's record. -/
def Dev.lkMod (d : Dev) (n : Nat) (f : Link → Link) : Dev := d.lkPut n (f (d.lk n))
def Dev.accMod (d : Dev) (a : Nat) (f : AccVl → AccVl) : Dev := d.accPut a (f (d.acc a))

/-! ### Training (R144 to R147, R157, R160, R162) -/

/-- A link may leave DISABLED: the conditions of the training table's first row, outside sideband-only mode and Endgame. -/
def Dev.canRun (d : Dev) (n : Nat) : Bool :=
  let a := n / 3
  d.is F.VL_CTRL_EN && d.is F.LNK_CTRL_EN n && d.present a && !d.rstAsserted a && !d.is F.VL_ACC_CTRL_FORCE_SIDEBAND a &&
    !d.flt.endgame

/-- A link goes to state `st` (DETECT or DISABLED) with nothing of its last training left but its having been trained. -/
def Dev.linkReset (d : Dev) (n st : Nat) : Dev := (d.lkPut n { trained := (d.lk n).trained }).lkGo n st

/-- A link goes to DETECT, or to DISABLED where it may not run. -/
def Dev.linkTrain (d : Dev) (n : Nat) : Dev := d.linkReset n (if d.canRun n then lsDetect else lsDisabled)

/-- Links in DISABLED that may run, and did not end DETECT with NO_ENDPOINT, go to DETECT. -/
def Dev.kick (d : Dev) (a : Nat) : Dev :=
  (accLinks a).foldl (fun d n =>
    if d.lst n = lsDisabled ∧ d.canRun n ∧ ¬ (d.lk n).noEp then d.linkTrain n else d) d

/-- DETECT is run again on the triple (R165). -/
def Dev.rerun (d : Dev) (a : Nat) : Dev :=
  ((accLinks a).foldl (fun d n => d.lkMod n fun x => { x with noEp := false }) d).kick a

/-- What waits for an accelerator that no link serves is dropped: flits to send, frozen buffers, open trains, the P-state
change in flight. -/
def Dev.accDrop (d : Dev) (a : Nat) : Dev :=
  let d := (d.dropResults a fun _ => true).accMod a fun x =>
    { x with txq := [], failed := [], wake := none, pairWait := none, tsAcked := none, tsSent := 0 }
  let d := (accLinks a).foldl (fun d n => d.trainPut n none) d
  (d.pwPut a { d.pw a with change := none }).showChange a

/-- The three links of an accelerator are held in DISABLED (R147, R165); no failure is counted. -/
def Dev.linksDown (d : Dev) (a : Nat) : Dev :=
  ((accLinks a).foldl (fun d n => d.linkReset n lsDisabled) d).accDrop a

/-- RST_OUT#_a asserted or PRSNT#_a deasserted: the links are held and the mode becomes HELD (R147, R562). -/
def Dev.accHold (d : Dev) (a : Nat) : Dev := (d.linksDown a).modeUpdate a

/-- RST_OUT#_a deasserted: DETECT runs on the triple (R165). -/
def Dev.accRelease (d : Dev) (a : Nat) : Dev := (d.rerun a).modeUpdate a

/-- No link is left to hold the primary role (R157): LOST, reported to SCH and PMC. -/
def Dev.accLost (d : Dev) (a : Nat) : Dev :=
  let d := (d.accDrop a).accMod a fun x => { x with lost := true }
  (((d.note 2 "acc-lost" a).note 1 "acc-lost" a)).modeUpdate a

/-- LOST where no link is ACTIVE and none is being woken; otherwise the mode follows R562. -/
def Dev.lostOrMode (d : Dev) (a : Nat) : Dev :=
  if !d.anyActive a && (d.acc a).wake.isNone then d.accLost a else d.modeUpdate a

/-- The reserve fails while waking (R157): it goes to DETECT; the accelerator is LOST where no link survives. -/
def Dev.wakeFail (d : Dev) (n : Nat) : Dev :=
  let a := n / 3
  ((d.linkTrain n).accMod a fun x => { x with wake := none }).lostOrMode a

/-- A training attempt fails (R144): DETECT again, or FAULT after the third in a row. -/
def Dev.attemptFail (d : Dev) (n : Nat) : Dev :=
  let k := d.rd F.LNK_STATE_ATTEMPTS n + 1
  let d := (d.linkTrain n).wr F.LNK_STATE_ATTEMPTS n k
  if k < 3 then d
  else ((d.linkReset n lsFault).wr F.LNK_ERR_TRAIN_FAIL n 1).ffr causeLinkFault n 0

/-- PAIR_REQ: TRAY_ID in three parts (R161, R162). `k`: requests repeated so far. -/
def Dev.pairReq (d : Dev) (a k : Nat) : Dev :=
  let t := Config.trayId.toNat
  let d := d.accMod a fun x => { x with pairWait := some (d.gts, k) }
  [0, 1, 2].foldl (fun d i => d.sendFlit a vcMgmt (8 + i) (t / 2 ^ (128 * i) % 2 ^ 128)) d

/-- EPOCH (R160): RESTART is set when GTS was set to 0 since the endpoint's copy was last synchronised. -/
def Dev.epoch (d : Dev) (a : Nat) : Dev := d.sendFlit a vcMgmt 4 (d.acc a).restart.toNat

/-- The link that holds the primary role has been trained to ACTIVE: EPOCH, then pairing (R160, R162); CHECK_ASSERT again
while CHECK is held for want of the CHK oscillator (R382). -/
def Dev.primaryUp (d : Dev) (a : Nat) : Dev :=
  let d := d.modeUpdate a
  let d := d.epoch a
  let d := (d.wr F.VL_ACC_STATUS_PAIR a 0).pairReq a 0
  let d := if d.pwr.chkHold then d.sendCheck a else d
  ((d.startPending a (d.cur a)).showChange a).pumpAll a

/-- The record of a failed link whose resend is not done, by role. -/
def Dev.failedOf (d : Dev) (a r : Nat) : Option Failed := (d.acc a).failed.find? fun x => x.role = r && !x.done

/-- The RXV and RXSEQ fields. -/
def rxFields (q : Option Nat) : List Nat := [q.isSome.toNat, q.getD 0]

/-- Agreement on PARAM (R143, R145, R146): sequence numbers 0, credits as advertised, the FEC mode. -/
def Dev.paramAgree (d : Dev) (n : Nat) (p : Payload) : Dev :=
  let x := d.lk n
  let mon : Bool := pbits p 8 2 = 1 && d.rd F.LNK_CFG_FEC n = 1
  let d := if x.trained ∧ d.lst n = lsParam then d.inc F.LNK_CNT2_RETRAINS n else d
  let d := d.lkPut n { trained := true, since := d.gts, cred := [pbits p 16 8, pbits p 24 8, pbits p 32 16, pbits p 48 8] }
  let d := ((d.wr F.LNK_STATE_FEC_CORRECT n (!mon).toNat).wr F.LNK_STATE_ATTEMPTS n 0).wrw (F.LNK_SEQ_TX_NEXT.addr n) 0
  let d := (d.wr F.LNK_PCS_LAT_PEER n (pbits p 56 16 + pbits p 72 16)).wr F.LNK_PCS_LAT_LOCAL n (Config.pcsTx.toNat + Config.pcsRx.toNat)
  d.accMod (n / 3) fun y => { y with failed := y.failed.filter fun q => !(q.done && q.pos = n % 3) }

/-- Where training takes a link (R144, R157): its role, the primary role of an accelerator without a link, the reserve. -/
def Dev.trained (d : Dev) (n : Nat) : Dev :=
  let a := n / 3
  let p := n % 3
  if d.lst n = lsWake then
    match (d.acc a).wake with
    | some (q, r) =>
      if q ≠ p then d.lkGo n lsStandby
      else
        let rx := match d.failedOf a r with | some x => x.rxLast | none => none
        (d.lkGo n lsActive).lct n 4 ([2, p, r] ++ rxFields rx)
    | none => d.lkGo n lsStandby
  else if d.holder a 0 = p then (d.lkGo n lsActive).primaryUp a
  else if d.holder a 1 = p then (((d.lkGo n lsActive).modeUpdate a).epoch a).pumpAll a
  else if d.holder a 0 = 3 ∧ ¬ d.anyActive a ∧ (d.acc a).wake.isNone then
    let d := if d.holder a 2 = p then d.setRole a 2 3 else d
    (((d.setRole a 0 p).accMod a fun x => { x with failed := [] }).lkGo n lsActive).primaryUp a
  else
    let d := if d.holder a 2 = 3 then d.setRole a 2 p else d
    d.lkGo n lsStandby

/-- A PARAM flit. -/
def Dev.param (d : Dev) (n : Nat) (p : Payload) : Dev :=
  if d.lst n ≠ lsParam ∧ d.lst n ≠ lsWake then d
  else
    let v := pbits p 0 8
    let ok : Bool := decide (0x10 ≤ v ∧ v ≤ 0x1F) &&
      decide (8 ≤ pbits p 16 8 ∧ 64 ≤ pbits p 24 8 ∧ 128 ≤ pbits p 32 16 ∧ 16 ≤ pbits p 48 8)
    if ok then (d.paramAgree n p).trained n
    else if d.lst n = lsWake then d.wakeFail n else d.attemptFail n

def execParam (n : Fin 24) (p : Payload) (s : State) : Res := s.run (·.param n p)

/-- DETECT ends: the peer's beacon, or no termination. -/
def Dev.detectEnd (d : Dev) (n : Nat) (beacon : Bool) : Dev :=
  if d.lst n ≠ lsDetect then d
  else if beacon then d.lkGo n lsEq
  else
    let a := n / 3
    let d := (d.linkReset n lsDisabled).lkMod n fun x => { x with noEp := true }
    let d := d.wr F.LNK_ERR_NO_ENDPOINT n 1
    let d := if (accLinks a).all fun k => (d.lk k).noEp then d.accMod a fun x => { x with sideband := true } else d
    d.modeUpdate a

def execDetectEnd (n : Fin 24) (beacon : Bool) (s : State) : Res := s.run (·.detectEnd n beacon)

def execEqComplete (n : Fin 24) (s : State) : Res :=
  s.run fun d => if d.lst n = lsEq then d.lkGo n lsAlign else d

/-- The PARAM flit this end sends (R143): version 0x13, the FEC mode of LNK_CFG, the credits of R146, the PCS latencies. -/
def Dev.paramSend (d : Dev) (n : Nat) : Dev :=
  d.lct n 5 [0x13, if d.rd F.LNK_CFG_FEC n = 1 then 1 else 0, 16, 128, 256, 32, Config.pcsTx.toNat, Config.pcsRx.toNat]

def execFrameLock (n : Fin 24) (s : State) : Res :=
  s.run fun d =>
    if d.lst n = lsAlign then (d.lkGo n lsParam).paramSend n
    else if d.lst n = lsWake then d.paramSend n else d

/-- The bound of a training state, ns. -/
def trainBound (st : Nat) : Option Nat :=
  if st = lsDetect then some 100000 else if st = lsEq then some 1000000
  else if st = lsAlign ∨ st = lsParam then some 10000 else if st = lsWake then some 12000 else none

def Dev.trainTimeout (d : Dev) (n : Nat) : Dev :=
  match trainBound (d.lst n) with
  | some b =>
    if d.gts < (d.lk n).since + b then d
    else if d.lst n = lsWake then d.wakeFail n else d.attemptFail n
  | none => d

def execTrainingStateTimeout (n : Fin 24) (s : State) : Res := s.run (·.trainTimeout n)

def execStandbyRefresh (n : Fin 24) (relocked : Bool) (s : State) : Res :=
  s.run fun d =>
    if d.lst n = lsStandby ∧ (d.lk n).since + 1000000 ≤ d.gts then
      if relocked then d.lkGo n lsStandby else d.linkTrain n
    else d

/-! ### Link failure and takeover (R154 to R157) -/

/-- The role an ACTIVE link holds: 0 primary, 1 secondary, 3 none. -/
def Dev.roleOf (d : Dev) (n : Nat) : Nat := if d.holder (n / 3) 0 = n % 3 then 0 else if d.holder (n / 3) 1 = n % 3 then 1 else 3

/-- The last data flit accepted on a link (RXSEQ). -/
def Dev.rxLastOf (d : Dev) (n : Nat) : Option Nat := if (d.lk n).rxAny then some (d.rd F.LNK_SEQ_RX_ACCEPTED n) else none

/-- Step 1 of R155: the link is fenced, its replay buffer frozen, its role vacated; step 7: it trains again. -/
def Dev.fence (d : Dev) (n r : Nat) : Dev :=
  let x := d.lk n
  let rec' : Failed := { pos := n % 3, role := r, frozen := x.replay, rxLast := d.rxLastOf n, sentAt := d.gts, midTrain := x.txOpen }
  let d := (d.inc F.LNK_CNT2_FAILURES n).accMod (n / 3) fun y =>
    { y with failed := (y.failed.filter fun (q : Failed) => q.pos ≠ n % 3) ++ [rec'], tsSent := 0, tsAcked := none }
  let d := if r < 3 then (d.setRole (n / 3) r 3).wr F.LNK_STATE_ROLE n 3 else d
  d.linkTrain n

/-- Step 4 of R155: a STANDBY reserve is woken for role `r`; one being woken for the secondary role takes the primary when
that fails too (R157). -/
def Dev.wakeReserve (d : Dev) (a r : Nat) : Dev :=
  let q := d.holder a 2
  match (d.acc a).wake with
  | none =>
    if q < 3 ∧ d.lst (3 * a + q) = lsStandby ∧ d.is F.VL_CTRL_EN ∧ r < 3 then
      (d.lkGo (3 * a + q) lsWake).accMod a fun y => { y with wake := some (q, r) }
    else d
  | some w => if w.2 = 1 ∧ r = 0 ∧ ¬ d.anyActive a then d.accMod a fun y => { y with wake := some (w.1, 0) } else d

/-- An ACTIVE link is declared failed (R154, R155): fenced, ROLE FAILED on a survivor, the reserve woken; LOST where no link
is left. -/
def Dev.linkFail (d : Dev) (n : Nat) (err : Option Fld) : Dev :=
  if d.lst n ≠ lsActive then d
  else
    let a := n / 3
    let r := d.roleOf n
    let rx := d.rxLastOf n
    let d := (match err with | some f => d.wr f n 1 | none => d).fence n r
    let d := match (accLinks a).find? fun k => d.lst k = lsActive with
      | some k => d.lct k 4 ([0, n % 3, r] ++ rxFields rx)
      | none => d
    (d.wakeReserve a r).lostOrMode a

/-- The frozen flits after the peer's RXSEQ. -/
def afterSeq (l : List Sent) (q : Option Nat) : List Sent :=
  match q with
  | none => l
  | some q => if l.any fun y => y.seq = q then (l.dropWhile fun y => y.seq ≠ q).drop 1 else l

/-- The rest of the train that was open on a failed link: its waiting RESULT flits up to the last one. -/
def restOf (r : Nat) : List Flit → List Flit × List Flit
  | [] => ([], [])
  | f :: l =>
    if f.vc = vcRed ∧ f.role = r ∧ (f.ty = 2 ∨ f.ty = 3) then
      if f.ty = 3 then ([f], l) else let p := restOf r l; (f :: p.1, p.2)
    else let p := restOf r l; (p.1, f :: p.2)

/-- The peer's RXSEQ for the failed link at position `p` is known (R155 step 3, R212): its flits after RXSEQ go first, then
the rest of its open train; RED flits that come on link `n` continue the train that was open there. -/
def Dev.resend (d : Dev) (n p : Nat) (rxseq : Option Nat) : Dev :=
  let a := n / 3
  let k := 3 * a + p
  let d := if k ≠ n ∧ (d.train k).isSome then { d with brd.redir := tset (fun _ => none) d.brd.redir n (some k) } else d
  match (d.acc a).failed.find? fun x => x.pos = p && !x.done with
  | none => d
  | some x =>
    let d := d.accMod a fun y =>
      let cut := if x.midTrain then restOf x.role y.txq else ([], y.txq)
      { y with
        txq := (afterSeq x.frozen rxseq).map (·.f) ++ cut.1 ++ cut.2
        failed := y.failed.map fun (z : Failed) => if z.pos = p then { z with done := true } else z }
    d.pumpAll a

/-- ROLE FAILED from the peer, on link `n`, about position `p`. -/
def Dev.roleFailed (d : Dev) (n p r : Nat) (rxseq : Option Nat) : Dev :=
  let k := 3 * (n / 3) + p
  if d.lst n ≠ lsActive ∨ k = n then d
  else
    let d := d.linkFail k none
    let rx := match (d.acc (n / 3)).failed.find? fun x => x.pos = p with | some x => x.rxLast | none => none
    (d.lct n 4 ([1, p, r] ++ rxFields rx)).resend n p rxseq

def execRoleFailed (n : Fin 24) (pos : Fin 3) (role : Fin 4) (rxseq : Option (BitVec 7)) (s : State) : Res :=
  s.run (·.roleFailed n pos role (rxseq.map (·.toNat)))

def execRoleFailedAck (n : Fin 24) (pos : Fin 3) (rxseq : Option (BitVec 7)) (s : State) : Res :=
  s.run fun d => if d.lst n = lsActive ∧ n.val % 3 ≠ pos then d.resend n pos (rxseq.map (·.toNat)) else d

/-- ROLE ASSUME from the peer on the reserve that is taking role `r`. -/
def Dev.roleAssume (d : Dev) (n r : Nat) (rxseq : Option Nat) : Dev :=
  let a := n / 3
  if d.lst n ≠ lsActive ∨ (d.acc a).wake ≠ some (n % 3, r) then d
  else
    match d.failedOf a r with
    | some x => (d.lct n 4 ([3, n % 3, r] ++ rxFields x.rxLast)).resend n x.pos rxseq
    | none => d.lct n 4 ([3, n % 3, r] ++ rxFields none)

def execRoleAssume (n : Fin 24) (role : Fin 4) (rxseq : Option (BitVec 7)) (s : State) : Res :=
  s.run (·.roleAssume n role (rxseq.map (·.toNat)))

/-- ROLE ASSUME_ACK: step 5 is done, the role moves (step 6). -/
def Dev.roleAssumeAck (d : Dev) (n r : Nat) (rxseq : Option Nat) : Dev :=
  let a := n / 3
  let p := n % 3
  if d.lst n ≠ lsActive ∨ (d.acc a).wake ≠ some (p, r) then d
  else
    let d := (if d.holder a 2 = p then d.setRole a 2 3 else d).setRole a r p
    let d := (d.accMod a fun x => { x with wake := none }).inc F.VL_STATUS_TAKEOVERS
    let d := match d.failedOf a r with | some x => d.resend n x.pos rxseq | none => d
    let d := if r = 0 ∧ (d.acc a).pairWait.isSome then d.pairReq a 0 else d
    (d.modeUpdate a).pumpAll a

def execRoleAssumeAck (n : Fin 24) (role : Fin 4) (rxseq : Option (BitVec 7)) (s : State) : Res :=
  s.run (·.roleAssumeAck n role (rxseq.map (·.toNat)))

/-- ROLE FAILED is sent again 200 ns after the last, on a surviving link. -/
def Dev.roleResend (d : Dev) (a : Nat) : Dev :=
  match (accLinks a).find? fun k => d.lst k = lsActive with
  | none => d
  | some k =>
    let due := fun (x : Failed) => !x.done && decide (x.sentAt + 200 ≤ d.gts)
    let d' := ((d.acc a).failed.filter due).foldl (fun d x => d.lct k 4 ([0, x.pos, x.role] ++ rxFields x.rxLast)) d
    d'.accMod a fun y => { y with failed := y.failed.map fun (x : Failed) => if due x then { x with sentAt := d.gts } else x }

def execRoleResendTimeout (a : Fin 8) (s : State) : Res := s.run (·.roleResend a)

/-- A write of VL_ACC_ROLE (R157, R166): only SCH, and only one vacant primary or secondary role given to a STANDBY link. -/
def Dev.accRoleWrite (d : Dev) (a : Nat) (ag : Agent) (v : Nat) : Dev :=
  let now := fun r => d.holder a r
  let new := fun r => bitsOf v (2 * r) 2
  let give := fun r => now r = 3 && new r < 3 && d.lst (3 * a + new r) = lsStandby && new (1 - r) = now (1 - r) &&
    (new 2 = now 2 || (new 2 = 3 && now 2 = new r))
  match [0, 1].find? give with
  | some r =>
    if ag = .sch ∧ d.is F.VL_CTRL_EN ∧ (d.acc a).wake.isNone then
      (d.lkGo (3 * a + new r) lsWake).accMod a fun x => { x with wake := some (new r, r) }
    else d
  | none => d

def execVlAccRoleWrite (a : Fin 8) (ag : Agent) (v : BitVec 6) (s : State) : Res := s.run (·.accRoleWrite a ag v.toNat)

def execForceFail (n : Fin 24) (s : State) : Res := s.run (·.linkFail n none)

def execRetrain (n : Fin 24) (s : State) : Res :=
  s.run fun d =>
    if d.lst n = lsFault then (d.wr F.LNK_STATE_ATTEMPTS n 0).linkTrain n
    else d.linkFail n none

/-- LNK_CTRL_n.EN (R166). -/
def Dev.linkEn (d : Dev) (n : Nat) (on : Bool) : Dev :=
  let d := d.wr F.LNK_CTRL_EN n on.toNat
  if on then (d.lkMod n fun x => { x with noEp := false }).kick (n / 3)
  else if d.lst n = lsActive then d.linkFail n none
  else if d.lst n = lsWake then d.wakeFail n
  else (d.linkReset n lsDisabled).modeUpdate (n / 3)

def execLinkEnWrite (n : Fin 24) (on : Bool) (s : State) : Res := s.run (·.linkEn n.val on)

/-- VL_CTRL.EN (R166). -/
def Dev.vlEn (d : Dev) (on : Bool) : Dev :=
  let d := d.wr F.VL_CTRL_EN 0 on.toNat
  if on then d.forAcc fun d a => (d.rerun a).modeUpdate a
  else
    let links := List.range 24
    let d := links.foldl (fun d n => d.linkFail n none) d
    let d := links.foldl (fun d n => if d.lst n = lsDisabled then d else d.linkReset n lsDisabled) d
    d.forAcc fun d a => if (d.acc a).wake.isSome then d.accLost a else d.modeUpdate a

def execVlEnWrite (on : Bool) (s : State) : Res := s.run (·.vlEn on)

def execLossOfSignal (n : Fin 24) (s : State) : Res := s.run (·.linkFail n (some F.LNK_ERR_LOS))

/-! ### The link layer (R134 to R151) -/

/-- A frame with an error its mode does not correct is the next of a run; at the eighth, frame lock is lost (R136): the
ACTIVE link fails (R154), a waking reserve goes to DETECT (R157). -/
def Dev.lockCount (d : Dev) (n : Nat) (bad : Bool) : Dev :=
  let k := if bad then (d.lk n).badFrames + 1 else 0
  let d := d.lkMod n fun x => { x with badFrames := k }
  if k < 8 then d
  else if d.lst n = lsWake then d.wakeFail n
  else d.linkFail n (some F.LNK_ERR_LOCK_LOST)

/-- A PCS frame with `e` symbol errors (R135, R136). -/
def Dev.frame (d : Dev) (n e : Nat) : Dev :=
  if d.lst n ≠ lsActive ∧ d.lst n ≠ lsWake then d
  else
    let cor := d.is F.LNK_STATE_FEC_CORRECT n
    let d := if 2 < e then d.inc F.LNK_CNT1_FEC_UNCORR n else d
    let d := if e ≤ 2 ∨ ¬ cor then d.inc F.LNK_CNT1_FEC_SYM n e else d
    d.lockCount n (if cor then decide (2 < e) else decide (0 < e))

def execPcsFrameReceive (n : Fin 24) (symErrs : Fin 69) (s : State) : Res := s.run (·.frame n symErrs)

/-- An ACKSEQ (R148): everything up to it leaves the replay buffer. -/
def Dev.doAck (d : Dev) (n seq : Nat) : Dev :=
  let x := d.lk n
  if x.replay.any fun y => y.seq = seq then
    let gone := x.replay.takeWhile (fun y => y.seq ≠ seq) ++ (x.replay.filter fun y => y.seq = seq)
    let d := (d.lkPut n { x with replay := (x.replay.dropWhile fun y => y.seq ≠ seq).drop 1 }).wr F.LNK_SEQ_TX_ACKED n seq
    let d := match gone.find? fun y => y.f.vc = vcMgmt && y.f.ty = 0 with
      | some y => d.accMod (n / 3) fun z => { z with tsAcked := some y.times }
      | none => d
    d.pumpAll (n / 3)
  else d

/-- An optional ACKSEQ on an ACTIVE link. -/
def Dev.ackOpt (d : Dev) (n : Nat) (ack : Option (BitVec 7)) : Dev :=
  match ack with | some q => d.doAck n q.toNat | none => d

/-- Send NAK with the expected sequence number. -/
def Dev.sendNak (d : Dev) (n : Nat) : Dev :=
  ((d.lkMod n fun x => { x with nakAt := some d.gts }).inc F.LNK_CNT2_NAKS_SENT n).lct n 2 [(d.lk n).rxNext]

/-- A TYPE the table gives for direction A→S (R141). -/
def typeKnown (vc ty : Nat) : Bool :=
  if vc = vcPwr then ty = 1 || ty = 3 else if vc = vcSync then ty = 0
  else if vc = vcRed then ty = 0 || ty = 1 || ty = 4 else ty = 2 || ty = 0x0C || ty = 0x10

/-- A data flit (R138, R139, R142, R148, R151). -/
def Dev.dataFlit (d : Dev) (n : Nat) (f : BitVec 160) : Dev :=
  let x := d.lk n
  let h := f.toNat % 65536
  if d.lst n ≠ lsActive ∨ x.nakAt.isSome then d
  else if ¬ flitCrcOk f then (d.inc F.LNK_CNT0_CRC_ERR n).sendNak n
  else if bitOf h 15 then d
  else
    let vc := bitsOf h 13 2
    let ty := bitsOf h 8 5
    if rxAdv vc ≤ (x.rx.filter fun (y : Flit) => y.vc = vc).length + x.ret.getD vc 0 then d.linkFail n (some F.LNK_ERR_CREDIT_VIOL)
    else
      let d := (d.wr F.LNK_SEQ_RX_ACCEPTED n x.rxNext).lkMod n fun y => { y with rxNext := (y.rxNext + 1) % 128, rxAny := true }
      let d := if typeKnown vc ty then
          d.lkMod n fun y => { y with rx := y.rx ++ [{ vc := vc, ty := ty, pay := BitVec.ofNat 128 (f.toNat / 65536) }] }
        else ((d.wr F.LNK_ERR_BAD_TYPE n 1).ffr causeBadType n (vc * 32 + ty)).freeRx n vc
      if bitOf h 7 then d.doAck n (h % 128) else d

def execDataFlitReceive (n : Fin 24) (f : BitVec 160) (s : State) : Res := s.run (·.dataFlit n f)

def execIdle (n : Fin 24) (ack : Option (BitVec 7)) (s : State) : Res :=
  s.run fun d => if d.lst n = lsActive then d.ackOpt n ack else d

/-- A STATUS returns credits: 16 bits for each VC (R140, R151). -/
def Dev.status (d : Dev) (n : Nat) (ack : Option (BitVec 7)) (c : Nat) : Dev :=
  if d.lst n ≠ lsActive then d
  else
    let d := d.lkMod n fun x => { x with cred := x.cred.mapIdx fun i k => k + bitsOf c (16 * i) 16 }
    (d.ackOpt n ack).pumpAll (n / 3)

def execStatus (n : Fin 24) (ack : Option (BitVec 7)) (credits : DWord) (s : State) : Res := s.run (·.status n ack credits.toNat)

/-- The start of the replay window GTS stands in. -/
def rateWin (gts : Nat) : Nat := gts / 100000

/-- The flits of a replay buffer from sequence number `q` on. -/
def replayFrom (q : Nat) (l : List Sent) : List Sent := l.dropWhile fun y => y.seq ≠ q

/-- A replay buffer after a resend from `q` at `now`: every flit's age counts from the NAK, those resent were sent once more. -/
def resent (now q : Nat) (l : List Sent) : List Sent :=
  (l.takeWhile fun y => y.seq ≠ q).map (fun y => { y with at' := now }) ++
    (replayFrom q l).map fun y => { y with times := y.times + 1, at' := now }

/-- A NAK for `q` (R148, R154): REPLAY_MARK and the flits from `q` on; a stale or premature one is discarded. -/
def Dev.nak (d : Dev) (n q : Nat) : Dev :=
  if d.lst n ≠ lsActive then d
  else if ¬ (d.lk n).replay.any fun y => y.seq = q then d.wr F.LNK_ERR_BAD_NAK n 1
  else
    let x := d.lk n
    let same := if x.sameSeq.1 = q ∧ 0 < x.sameSeq.2 then x.sameSeq.2 + 1 else 1
    let w := rateWin d.gts
    let d := (d.inc F.LNK_CNT0_REPLAYS n).lkPut n { x with
      sameSeq := (q, same), rate := (w, if x.rate.1 = w then x.rate.2 + 1 else 1) }
    if max 2 (d.rd F.VL_FAIL_CFG_SAME_SEQ_LIMIT) ≤ same then d.linkFail n (some F.LNK_ERR_SAME_SEQ)
    else
      let d := d.lct n 3 [q]
      let d := (replayFrom q (d.lk n).replay).foldl (fun (d : Dev) (y : Sent) => d.emit (.flit n y.f.vc y.f.ty y.f.pay)) d
      d.lkMod n fun x => { x with replay := resent d.gts q x.replay }

def execNak (n : Fin 24) (seq : BitVec 7) (s : State) : Res := s.run (·.nak n seq.toNat)

def execReplayMark (n : Fin 24) (seq : BitVec 7) (s : State) : Res :=
  s.run fun d =>
    if d.lst n = lsActive ∧ (d.lk n).nakAt.isSome ∧ (d.lk n).rxNext = seq.toNat then d.lkMod n fun x => { x with nakAt := none } else d

def execNakResendTimeout (n : Fin 24) (s : State) : Res :=
  s.run fun d =>
    match (d.lk n).nakAt with
    | some t => if d.lst n = lsActive ∧ t + 200 ≤ d.gts then d.sendNak n else d
    | none => d

def execAckTimeout (n : Fin 24) (s : State) : Res :=
  s.run fun d =>
    match (d.lk n).replay.head? with
    | some y => if y.at' + 250 * max 2 (d.rd F.VL_FAIL_CFG_ACK_TIMEOUT) ≤ d.gts then d.linkFail n (some F.LNK_ERR_ACK_TIMEOUT) else d
    | none => d

/-- The end of a 100 µs replay window: the window before the one GTS stands in. -/
def Dev.rateEnd (d : Dev) (n : Nat) : Dev :=
  let x := d.lk n
  if x.rate.1 < rateWin d.gts then
    let lim := d.rd F.VL_FAIL_CFG_RATE_LIMIT
    let d := d.lkMod n fun y => { y with rate := (rateWin d.gts, 0) }
    if lim ≠ 0 ∧ lim < x.rate.2 then d.linkFail n (some F.LNK_ERR_RATE) else d
  else d

def execReplayRateWindowEnd (n : Fin 24) (s : State) : Res := s.run (·.rateEnd n)

def execReservedLct (n : Fin 24) (lct : Bool) (s : State) : Res :=
  s.run fun d =>
    if d.lst n = lsActive then (d.wr F.LNK_ERR_BAD_TYPE n 1).ffr causeBadType n (256 + 6 + lct.toNat) else d

/-! ### Time synchronisation (R158 to R160) -/

/-- TSYNC to an accelerator with an ACTIVE primary, when its period is over. -/
def Dev.tsync (d : Dev) (a : Nat) : Dev :=
  if (d.roleLink a 0).isSome ∧ (d.acc a).t1 + 10000 * max 1 (d.rd F.VL_CTRL_TSYNC_PERIOD) ≤ d.gts then
    (d.accMod a fun x => { x with t1 := d.gts, tsAcked := none, tsSent := 0 }).sendFlit a vcMgmt 0 0
  else d

def execTsyncExchange (a : Fin 8) (s : State) : Res := s.run (·.tsync a)

/-- A stamp payload (R158): ns count, fraction 0 (GTS counts whole nanoseconds), count. -/
def stampPay (ns count : Nat) : Nat := ns % 2 ^ 64 + min 15 count * 2 ^ 68

def Dev.tsyncFollow (d : Dev) (a : Nat) : Dev :=
  match (d.acc a).tsAcked with
  | some c => (d.accMod a fun x => { x with tsAcked := none, tsSent := c }).sendFlit a vcMgmt 1 (stampPay (d.acc a).t1 c)
  | none => d

def execTsyncFollow (a : Fin 8) (s : State) : Res := s.run (·.tsyncFollow a)

/-- The owner takes the oldest received flit of a VC and TYPE that `p` picks. -/
def Dev.takeRxBy (d : Dev) (a vc ty : Nat) (p : Payload → Bool) : Dev :=
  match (accLinks a).findSome? fun n => ((d.lk n).rx.find? fun y => y.vc = vc && y.ty = ty && p y.pay).map fun y => y.pay with
  | some q => d.takeRx a vc ty q
  | none => d

/-- TSYNC_DREQ: t4 and the receive count go back; an exchange with nothing sent twice is mirrored (R159). -/
def Dev.tsyncDreq (d : Dev) (a times : Nat) (offset : Int) (path : Nat) (locked : Bool) : Dev :=
  let d := (d.takeRxBy a vcMgmt 2 fun _ => true).sendFlit a vcMgmt 3 (stampPay d.gts times)
  if times ≠ 1 ∨ (d.acc a).tsSent ≠ 1 then d
  else
    let d := d.accMod a fun x => { x with tsSent := 0, restart := false }
    let d := (d.wr F.VL_ACC_TSYNC_OFFSET a (wrapInt 16 (max (-32767) (min 32767 offset)))).wr F.VL_ACC_TSYNC_PATH a path
    d.wr F.VL_ACC_STATUS_TSYNC_LOCKED a locked.toNat

def execTsyncDreq (a : Fin 8) (times : BitVec 4) (offset : Int) (path : BitVec 16) (locked : Bool) (s : State) : Res :=
  s.run (·.tsyncDreq a times.toNat offset path.toNat locked)

/-! ### Pairing (R161 to R164) -/

/-- TLM_CTRL (R288). -/
def Dev.tlmCtrl (d : Dev) (a : Nat) (en : Bool) : Dev :=
  d.sendFlit a vcMgmt 0x11 (en.toNat + 256 * min 9 (max 1 (d.rd F.ORO_FRAME_CFG_TLM_WINDOW)))

/-- PAIR_RSP. A new match is told to send telemetry (R288). -/
def Dev.pairRsp (d : Dev) (a v : Nat) : Dev :=
  let d := d.takeRxBy a vcMgmt 0x0C fun p => pbits p 0 2 = v
  if v = 3 ∨ ¬ d.anyActive a then d
  else
    let d := (d.accMod a fun x => { x with pairWait := none }).wr F.VL_ACC_STATUS_PAIR a (v + 1)
    if v = 1 then
      if d.is F.VL_ACC_CTRL_BIND_OK a then
        (d.accMod a fun x => { x with pairWait := some (d.gts, 0) }).sendFlit a vcMgmt 0x0D 0
      else d
    else if v = 2 then (d.wr F.VL_ACC_STATUS_BINDING_CHANGED a 1).event 3 a 0
    else if v = 0 ∧ d.is F.ORO_CTRL_TLM_EN then d.tlmCtrl a true
    else d

def execPairRsp (a : Fin 8) (v : BitVec 2) (s : State) : Res := s.run (·.pairRsp a v.toNat)

/-- No PAIR_RSP for 1 ms: asked again up to 3 times, then PENDING and a first-failure record. -/
def Dev.pairTimeout (d : Dev) (a : Nat) : Dev :=
  match (d.acc a).pairWait with
  | some (t, k) =>
    if d.gts < t + 1000000 then d
    else if k < 3 then d.pairReq a (k + 1)
    else ((d.accMod a fun x => { x with pairWait := none }).wr F.VL_ACC_STATUS_PAIR a 0).ffr causePairTimeout a 0
  | none => d

def execPairRspTimeout (a : Fin 8) (s : State) : Res := s.run (·.pairTimeout a)

/-- Host software authorises binding (or withdraws it): the exchange runs again where the state is NEW or PENDING. -/
def Dev.bindOk (d : Dev) (a : Nat) (on : Bool) : Dev :=
  let d := d.wr F.VL_ACC_CTRL_BIND_OK a on.toNat
  let s := d.rd F.VL_ACC_STATUS_PAIR a
  if on ∧ (s = 0 ∨ s = 2) ∧ (d.roleLink a 0).isSome then d.pairReq a 0 else d

def execBindOkWrite (a : Fin 8) (on : Bool) (s : State) : Res := s.run (·.bindOk a on)

/-! ### Sideband-only service and presence (R165, R562) -/

def Dev.forceSideband (d : Dev) (a : Nat) (on : Bool) : Dev :=
  if d.is F.VL_ACC_CTRL_FORCE_SIDEBAND a = on then d
  else
    let d := d.wr F.VL_ACC_CTRL_FORCE_SIDEBAND a on.toNat
    (if on then d.linksDown a else d.rerun a).modeUpdate a

def execForceSideband (a : Fin 8) (on : Bool) (s : State) : Res := s.run (·.forceSideband a on)

/-- An edge of PRSNT#_a: the set of accelerators that have budgets changes with it (R244). -/
def Dev.prsnt (d : Dev) (a : Nat) (on : Bool) : Dev :=
  if (d.acc a).present = on then d
  else
    let d := d.accMod a fun x => { x with present := on }
    let d : Dev := { d with seq.prsntAt := tset (fun _ => 0) d.seq.prsntAt a d.aont }
    if on then d.accRelease a
    else
      let d := ((d.wr F.PWC_ACC_BUDGET_ACTIVE_W a 0).wr F.PWC_ACC_BUDGET_STAGED_W a 0).accHold a
      if d.rd F.PWC_TRAY_CAP_CAP_W = 0 then d.feasUpdate.emergUpdate else d.propose fun k => d.ownProposal k

def execPrsntEdge (a : Fin 8) (asserted : Bool) (s : State) : Res := s.run (·.prsnt a asserted)

end Sys2Proof.Machine
end

