-- ==== Sys2Proof/Machine/TileOps.lean ====
section
/-! DEFINITION. Shared operations of the inference array (spec/03): tiles and slots, vectors in tile SRAM, stochastic draws,
DMA addresses, clearing and retiring, invocations. -/

namespace Sys2Proof.Machine

abbrev causeTrain3 : Cause := (3, 0, none)
abbrev causeAbort : Cause := (3, 1, none)
abbrev causeReserveBist : Cause := (3, 2, none)
abbrev causeTileFault : Cause := (3, 3, none)
abbrev causeRowRepair : Cause := (3, 4, some 3)

/-! States of TILE_STATE and SLOT_STATE (R130). -/
abbrev tsOff : Nat := 0
abbrev tsClearing : Nat := 1
abbrev tsIdle : Nat := 2
abbrev tsLoading : Nat := 3
abbrev tsLoaded : Nat := 4
abbrev tsRunning : Nat := 5
abbrev tsFenced : Nat := 6
abbrev tsFailed : Nat := 7
abbrev tsBist : Nat := 8
abbrev ssFree : Nat := 0
abbrev ssBuilding : Nat := 1
abbrev ssReady : Nat := 2
abbrev ssRunning : Nat := 3
abbrev ssRebuilding : Nat := 4
abbrev ssRetiring : Nat := 5
abbrev ssFailed : Nat := 6

/-- Bytes of a tile's SRAM, and of its program region (R98). -/
abbrev sramBytes : Nat := 1572864
abbrev progBytes : Nat := 1507328

/-- The array runs: the SYS domain is on, and Endgame has not stopped it (R392). -/
def Dev.arrOn (d : Dev) : Bool := d.sysOn && !d.flt.endgame

def Dev.tl (d : Dev) (t : Nat) : Tile := tget (fun _ => {}) d.arr.tiles t
def Dev.tlPut (d : Dev) (t : Nat) (x : Tile) : Dev := { d with arr.tiles := tset (fun _ => {}) d.arr.tiles t x }
def Dev.tlMod (d : Dev) (t : Nat) (f : Tile → Tile) : Dev := d.tlPut t (f (d.tl t))
def Dev.sl (d : Dev) (n : Nat) : Slot := tget (fun _ => {}) d.arr.slots n
def Dev.slPut (d : Dev) (n : Nat) (x : Slot) : Dev := { d with arr.slots := tset (fun _ => {}) d.arr.slots n x }
def Dev.slMod (d : Dev) (n : Nat) (f : Slot → Slot) : Dev := d.slPut n (f (d.sl n))

/-- State of a tile and of a slot. -/
def Dev.tst (d : Dev) (t : Nat) : Nat := d.rd F.TILE_STATE_STATE t
def Dev.sst (d : Dev) (n : Nat) : Nat := d.rd F.SLOT_STATE_STATE n

/-- The tile belongs to slot `n`. -/
def Dev.inSlot (d : Dev) (t n : Nat) : Bool := d.is F.TILE_STATE_SLOT_VALID t && d.rd F.TILE_STATE_SLOT t = n

/-- The tiles of slot `n`, rising. -/
def Dev.slotTiles (d : Dev) (n : Nat) : List Nat := (List.range 72).filter fun t => d.inSlot t n

/-- The slot a tile belongs to. -/
def Dev.slotOf (d : Dev) (t : Nat) : Option Nat := if d.is F.TILE_STATE_SLOT_VALID t then some (d.rd F.TILE_STATE_SLOT t) else none

/-- Logical tile `l` of slot `n`. -/
def Dev.logical (d : Dev) (n l : Nat) : Option Nat := (d.slotTiles n).find? fun t => d.rd F.TILE_STATE_LOGICAL t = l

/-- The reserve of cluster `c` is available. -/
def Dev.reserveOk (d : Dev) (c : Nat) : Bool := d.bit F.ARR_STATUS_RESERVE_AVAIL 0 c

/-- A tile in service that can join a slot. -/
def Dev.tileFree (d : Dev) (t : Nat) : Bool := d.tst t = tsIdle && !d.is F.TILE_STATE_SLOT_VALID t

/-! ### Stochastic draws (R70, R71) -/

/-- A lane's state as loaded from a seed. -/
def laneSeed (seed l : Nat) : Nat :=
  let v := (seed ^^^ (l * 0x9E3779B9 % 2 ^ 32)) % 2 ^ 32
  if v = 0 then 1 else v

/-- One step of the Galois generator x^32 + x^22 + x^2 + x + 1: the bit shifted out, and the next state. -/
def lfsrStep (v : Nat) : Nat × Nat := (v % 2, if v % 2 = 1 then (v / 2) ^^^ 0x80200003 else v / 2)

/-- Sixteen steps: the draw (first bit out lowest) and the next state. -/
def lfsrDraw : Nat → Nat → Nat × Nat
  | 0, v => (0, v)
  | n + 1, v =>
    let s := lfsrStep v
    let r := lfsrDraw n s.2
    (s.1 + 2 * r.1, r.2)

/-- Keys of the lanes: vector lanes 0 to 63, matrix output lanes from 65536. -/
def laneKey (matrix : Bool) (e : Nat) : Nat := if matrix then 65536 + Config.matLane e else e % 64

/-- A draw from a lane. -/
def Tile.draw (x : Tile) (key : Nat) : Nat × Tile :=
  let dflt := fun k => laneSeed x.seed (k % 65536)
  let r := lfsrDraw 16 (tget dflt x.lanes key)
  (r.1, { x with lanes := tset dflt x.lanes key r.2 })

/-- The draws of `n` conversions in element order; none unless NCTL selects SR. -/
def Tile.draws (x : Tile) (sr matrix : Bool) (n : Nat) : List Nat × Tile :=
  if !sr then ([], x)
  else
    let r := (List.range n).foldl (fun (p : List Nat × Tile) e =>
      let q := p.2.draw (laneKey matrix e)
      (q.1 :: p.1, q.2)) ([], x)
    (r.1.reverse, r.2)

/-- All lanes of a tile are seeded (R71). -/
def Dev.reseed (d : Dev) (t v : Nat) : Dev :=
  (d.wr F.TILE_SR_SEED_SEED t v).tlMod t fun x => { x with seed := v % 2 ^ 32, lanes := [] }

/-! ### Vectors in tile SRAM -/

/-- The byte at a tile-local address; outside the SRAM it is a free value. -/
def Dev.tByte (d : Dev) (t : Nat) (a : Int) : Byte :=
  if 0 ≤ a ∧ a < sramBytes then d.ldb (.tile t) a.toNat else Config.freeByte d.freeCtr a.toNat

/-- `n` bytes at a tile-local address. -/
def Dev.tBytes (d : Dev) (t : Nat) (a : Int) (n : Nat) : List Byte := (List.range n).map fun (k : Nat) => d.tByte t (a + k)

/-- Element `i` of the array at `a`, elements of `w` bits (R63). -/
def Dev.tElem (d : Dev) (t w : Nat) (a : Int) (i : Nat) : Nat :=
  bitsOf (leVal (d.tBytes t (a + (w * i / 8 : Nat)) ((w * i % 8 + w + 7) / 8))) (w * i % 8) w

/-- A vector operand: tile-local address of its elements, of its scale array, format, MX variant. -/
structure Opnd where
  a : Nat
  sc : Nat
  f : Nat
  mxv : Bool
  deriving DecidableEq, Repr

/-- The exact value of element `i` of an operand (R54, R62, R66). -/
def Dev.tVal (d : Dev) (t : Nat) (o : Opnd) (i : Nat) : Val :=
  let c := d.tElem t (fmtBits o.f) o.a i
  if fmtMX o.f then mxVal o.f o.mxv (d.tByte t (o.sc + i / 32 : Nat)).toNat c else fmtVal o.f o.mxv c

/-- The integer of element `i` of an integer operand. -/
def Dev.tInt (d : Dev) (t : Nat) (o : Opnd) (i : Nat) : Int := signed (fmtBits o.f) (d.tElem t (fmtBits o.f) o.a i)

/-- Whether element `i` of an operand lies in a poisoned word, its scale included. -/
def Dev.tPoisE (d : Dev) (t : Nat) (o : Opnd) (i : Nat) : Bool :=
  let w := fmtBits o.f
  let at' := o.a + w * i / 8
  (at' < sramBytes && d.poisonIn (.tile t) at' ((w * i % 8 + w + 7) / 8)) ||
    (fmtMX o.f && o.sc + i / 32 < sramBytes && d.poisoned (.tile t) (o.sc + i / 32))

/-- Write bytes at a tile-local address, as far as the SRAM reaches. -/
def Dev.tPut (d : Dev) (t a : Nat) (l : List Byte) (p : Bool) : Dev := d.stn (.tile t) a (l.take (sramBytes - a)) p

/-- Numeric flags raised by the tile's engines (R74, R130). -/
def Dev.tFlags (d : Dev) (t : Nat) (f : Flags) : Dev :=
  (d.tlMod t fun x => { x with fl := x.fl ||| f }).wr F.TILE_FLAGS_ACC t (d.rd F.TILE_FLAGS_ACC t ||| f)

/-- An engine consumed poisoned data (R101). -/
def Dev.tPoison (d : Dev) (t : Nat) (p : Bool) : Dev :=
  if p then (d.tlMod t fun x => { x with pois := true }).wr F.TILE_ERR_UE_DATA t 1 else d

/-- A value to be stored, with its integer where it is one. -/
abbrev SVal := Val × Option Int

/-- Code of a vector for a non-MX format: the codes and the flags. -/
def storeCodes (f : Nat) (r : Rnd) (vs : List SVal) (draws : List Nat) : List Nat × Flags :=
  let cs := (vs.zip (draws ++ List.replicate vs.length 0)).map fun (p : SVal × Nat) => convElem f { r with draw := p.2 } p.1.1 p.1.2
  (cs.map (·.1), cs.foldl (fun a c => a ||| c.2) 0)

/-- Split a list into pieces of 32. -/
def blocks32 : Nat → List α → List (List α)
  | 0, _ => []
  | k + 1, l => if l.isEmpty then [] else l.take 32 :: blocks32 k (l.drop 32)

/-- The bytes of a stored vector: element array, scale array, flags (R63, R67, R75, R77). -/
def storeBytes (f nctl : Nat) (vs : List SVal) (draws : List Nat) : List Byte × List Byte × Flags :=
  let r := nctlRnd nctl
  if fmtMX f then
    let bl := blocks32 (vs.length + 1) vs
    let qs := bl.mapIdx fun i b => mxQuant f (bitOf nctl 3) r ((draws.drop (32 * i)).take 32) (b.map (·.1))
    let w := fmtBits f
    (((qs.map fun q => packElems w (4 * w) q.2.1).flatten), qs.map (fun q => BitVec.ofNat 8 q.1), qs.foldl (fun a q => a ||| q.2.2) 0)
  else
    let c := storeCodes f r vs draws
    (packElems (fmtBits f) (elemBytes f vs.length) c.1, [], c.2)

/-- The words element `i` of a stored vector lies in are poisoned; in an MX format those of its whole block and its scale. -/
def Dev.poisonElem (d : Dev) (t : Nat) (o : Opnd) (i : Nat) : Dev :=
  let w := fmtBits o.f
  if fmtMX o.f then
    let d := (List.range (w / 2 + 1)).foldl (fun d k => d.setPoison (.tile t) (min (o.a + 4 * w * (i / 32) + 8 * k) (o.a + 4 * w * (i / 32) + 4 * w - 1)) true) d
    d.setPoison (.tile t) (o.sc + i / 32) true
  else (d.setPoison (.tile t) (o.a + w * i / 8) true).setPoison (.tile t) (o.a + (w * i + w - 1) / 8) true

/-- Store a vector under NCTL: conversion, flags, poison of the elements `p` names (R75, R77, R87, R101). -/
def Dev.tStore (d : Dev) (t : Nat) (o : Opnd) (nctl : Nat) (matrix : Bool) (vs : List SVal) (p : Nat → Bool) : Dev :=
  let g := (d.tl t).draws (nctl % 4 = 2) matrix vs.length
  let b := storeBytes o.f nctl vs g.1
  let d := (((d.tlPut t g.2).tPut t o.a b.1 false).tPut t o.sc b.2.1 false).tFlags t b.2.2
  let bad := (List.range vs.length).filter fun i => p i && o.a + (fmtBits o.f * i + fmtBits o.f - 1) / 8 < sramBytes
  (bad.foldl (fun d i => d.poisonElem t o i) d).tPoison t ((List.range vs.length).any p)

/-! ### DMA (R98, R99) -/

/-- The place a DMA address names for a tile of slot `n`: a memory and an offset, where [a, a + len) is allowed. -/
def Dev.dmaPlace (d : Dev) (t n a len : Nat) : Option (Space × Nat) :=
  if a + len ≤ sramBytes then some (.tile t, a)
  else if 0x80000000 ≤ a ∧ a + len ≤ 0x80000000 + 64 * 0x200000 then
    let l := (a - 0x80000000) / 0x200000
    let o := (a - 0x80000000) % 0x200000
    match d.logical n l with
    | some u => if o + len ≤ sramBytes then some (.tile u, o) else none
    | none => none
  else if 0x100000000 ≤ a ∧ a + len ≤ 0x102000000 then
    let o := a - 0x100000000
    let w := (d.sl n).com
    if w.1 ≤ o ∧ o + len ≤ w.1 + w.2 then some (.commons, o) else none
  else if 0x400000000 ≤ a ∧ a + len ≤ 0x800000000 then
    let o := a - 0x400000000
    if (d.sl n).hwin.any fun w => w.1 ≤ o && o + len ≤ w.1 + w.2 then some (.hbm, o) else none
  else none

/-- Copy `len` bytes with the poison of the words they come from (R37). -/
def Dev.copyBytes (d : Dev) (sm : Space) (sa : Nat) (dm : Space) (da len : Nat) : Dev :=
  let bad := (List.range ((da + len + 7) / 8 - da / 8)).filter fun i =>
    let w := da / 8 * 8 + 8 * i
    let lo := max w da
    let hi := min (w + 8) (da + len)
    d.poisonIn sm (sa + (lo - da)) (hi - lo)
  let d := d.stn dm da (d.ldn sm sa len)
  bad.foldl (fun d i => d.setPoison dm (da / 8 * 8 + 8 * i) true) d

/-! ### Clearing and retiring (R116, R117, R129) -/

/-- A tile leaves its slot: SRAM zero, accumulators, generators and flags reset (R116). -/
def Dev.tileClear (d : Dev) (t : Nat) : Dev :=
  let d := (d.clearSpace (.tile t)).tlPut t { hb := (d.tl t).hb, rowCe := (d.tl t).rowCe }
  ((d.wr F.TILE_SR_SEED_SEED t 0).wrw (F.TILE_FLAGS_LAST.addr t) 0).wr F.TILE_TAG_TAG t 0

/-- The tile belongs to no slot and stands in state `st`. -/
def Dev.tileLeave (d : Dev) (t st : Nat) : Dev := (d.tileClear t).wrw (F.TILE_STATE_STATE.addr t) st

/-- Show the sum of bandwidth reservations (R109). -/
def bwUnit : Nat := 8000 * 98000 * 998000 * 9998000
def Dev.bwShow (d : Dev) : Dev :=
  d.wr F.ARR_STREAM_BW_RESERVED 0 (10 * ((d.arr.slots.map fun p => p.2.bw).foldl (· + ·) 0) / bwUnit)

/-- A TRAIN load that found no room is requested again (R312). -/
def Dev.trainRetry (d : Dev) : Dev :=
  match d.oro.trainReq with
  | some q =>
    let d' : Dev := { d with oro.trainReq := none, arr.loads := d.arr.loads ++ [q] }
    d'.wr F.ARR_LOADER_QUEUED 0 (min 4 d'.arr.loads.length)
  | none => d

/-- The slot is freed: its tiles cleared, its regions returned, its registers reset. -/
def Dev.slotFree (d : Dev) (n : Nat) : Dev :=
  let d := (d.slotTiles n).foldl (fun d t =>
    if d.tst t = tsFailed ∨ d.tst t = tsFenced then d.wrw (F.TILE_STATE_STATE.addr t) (d.tst t) else d.tileLeave t tsIdle) d
  (((d.slPut n {}).resetRegs (F.SLOT_CTRL_RETIRE.addr n) (F.SLOT_CTRL_RETIRE.addr n + 0x40))).bwShow.trainRetry

/-- RETIRE (R117, R127): at once, unless an invocation runs. -/
def Dev.slotRetire (d : Dev) (n : Nat) : Dev :=
  if d.sst n = ssRunning then d.wr F.SLOT_STATE_STATE n ssRetiring
  else if d.sst n = ssFree ∨ d.sst n = ssRetiring then d
  else d.slotFree n

/-! ### Invocations (R110, R118) -/

/-- Class bound, ns; watchdog, ns (the latency class table). -/
def lcBound (lc : Nat) : Option Nat := [some 10000, some 100000, some 1000000, some 10000000].getD lc none
def lcWatchdog (lc : Nat) : Nat := [40000, 400000, 4000000, 40000000].getD lc 1000000000

/-- A tile becomes RUNNING. Where its program starts, no rule states: a free value. -/
def Dev.tileRun (d : Dev) (t : Nat) : Dev :=
  let r := d.free
  (r.2.wr F.TILE_STATE_STATE t tsRunning).tlMod t fun x => { x with pc := r.1, ended := false, fl := 0, pois := false, runAt := d.gts }

/-- An invocation starts on every tile of the slot. -/
def Dev.invStart (d : Dev) (n trig : Nat) (explicit : Bool) : Dev :=
  let d := (d.slMod n fun x => { x with trig := trig, explicit := explicit, again := false }).wr F.SLOT_STATE_STATE n ssRunning
  (d.slotTiles n).foldl (fun d t => d.tileRun t) d

/-- A tile stops running: LAST takes its flags, BUSY its cycles. -/
def Dev.tileStop (d : Dev) (t : Nat) : Dev :=
  if d.tst t = tsRunning then
    let x := d.tl t
    ((d.wr F.TILE_FLAGS_LAST t x.fl).wr64 F.TILE_BUSY_LO t (d.rd64 F.TILE_BUSY_LO t + (d.gts - x.runAt))).wr F.TILE_STATE_STATE t tsLoaded
  else d

/-- Every tile of the slot stops. -/
def Dev.tilesStop (d : Dev) (n : Nat) : Dev := (d.slotTiles n).foldl (fun d t => d.tileStop t) d

/-- Every CCC the slot needs is up (R389). -/
def Dev.slotUp (d : Dev) (n : Nat) : Bool := (d.slotTiles n).all fun t => d.coreUp (3 + t / 9)

/-- The slot's invocation has ended: a RETIRING slot retires; a pending trigger starts (R117, R118, R128). -/
def Dev.invEnd (d : Dev) (n : Nat) : Dev :=
  if d.sst n = ssRetiring then d.slotFree n
  else if (d.sl n).pend ∧ d.slotUp n = true then (d.slMod n fun x => { x with pend := false }).invStart n (d.sl n).pendAt true
  else d.wr F.SLOT_STATE_STATE n ssReady

/-- An explicit trigger (R118). -/
def Dev.trigger (d : Dev) (n : Nat) : Dev :=
  let x := d.sl n
  if d.sst n = ssReady ∧ d.slotUp n = true then d.invStart n d.gts true
  else if d.sst n = ssReady ∨ d.sst n = ssRunning ∨ d.sst n = ssRebuilding then
    if d.sst n = ssRunning ∧ x.trig = d.gts ∧ ¬ x.explicit then d.slMod n fun x => { x with explicit := true }
    else if x.pend then d.inc F.SLOT_COUNTS_DROPPED n
    else d.slMod n fun x => { x with pend := true, pendAt := d.gts }
  else d

end Sys2Proof.Machine
end

