-- ==== Sys2Proof/Machine/LoaderOps.lean ====
section
/-! DEFINITION. The loader (spec/03): packages and their checks, candidates and their fit, placement, the load sequence. -/

namespace Sys2Proof.Machine

/-! ### Packages (R103 to R107) -/

/-- A candidate set of a package: the native set (index 0) or a fallback set. -/
structure PkgSet where
  idx : Nat
  fmt : Nat
  tiles : Nat
  lc : Nat
  streamLc : Nat
  sram : Nat
  streamSram : Nat
  wcycles : Nat
  streamWcycles : Nat
  streamHbm : Nat
  tag : Nat
  deriving DecidableEq, Repr

/-- A section table entry (R106). -/
structure Sec where
  ty : Nat
  ltile : Nat
  set : Nat
  dest : Nat
  off : Nat
  size : Nat
  crc : Nat
  deriving DecidableEq, Repr

/-- A package as the loader reads it. -/
structure Pkg where
  modelId : List Byte
  version : Nat
  span : Nat
  hbmBytes : Nat
  seedMode : Nat
  seed : Nat
  commons : Nat
  stateBytes : Nat
  period : Nat
  sets : List PkgSet
  ins : List IoEnt
  outs : List IoEnt
  secs : List Sec
  digest : Nat
  deriving DecidableEq, Repr

/-- The I/O table entry at `p`. -/
def ioAt (b : List Byte) (p : Nat) : IoEnt :=
  { name := pf b p 2, fmt := pf b (p + 2) 1, nctl := pf b (p + 3) 1, elements := pf b (p + 4) 4, off := pf b (p + 8) 4 }

/-- The section table entry at `p`. -/
def secAt (b : List Byte) (p : Nat) : Sec :=
  { ty := pf b p 2, ltile := pf b (p + 2) 1, set := pf b (p + 3) 1, dest := pf b (p + 4) 4, off := pf b (p + 8) 4,
    size := pf b (p + 12) 4, crc := pf b (p + 16) 4 }

/-- Read a package's structures; their checks are `pkgOk`. -/
def pkgRead (b : List Byte) : Pkg :=
  let mo := pf b 8 4
  let so := pf b 0x10 4
  let nf := min (pf b (mo + 0x3A) 1) 4
  let ni := pf b (mo + 0x4C) 1
  let no := pf b (mo + 0x4D) 1
  let io := mo + 0x80 + 32 * nf
  let native : PkgSet :=
    { idx := 0, fmt := pf b (mo + 0x54) 1, tiles := pf b (mo + 0x14) 1, lc := pf b (mo + 0x16) 1, streamLc := pf b (mo + 0x17) 1,
      sram := pf b (mo + 0x18) 4, streamSram := pf b (mo + 0x1C) 4, wcycles := pf b (mo + 0x30) 4,
      streamWcycles := pf b (mo + 0x34) 4, streamHbm := pf b (mo + 0x28) 8, tag := pf b (mo + 0x50) 4 }
  let fb := (List.range nf).map fun i =>
    let p := mo + 0x80 + 32 * i
    ({ idx := i + 1, fmt := pf b p 1, tiles := pf b (p + 1) 1, lc := pf b (p + 2) 1, streamLc := pf b (p + 3) 1,
       sram := pf b (p + 4) 4, streamSram := pf b (p + 8) 4, wcycles := pf b (p + 12) 4, streamWcycles := pf b (p + 16) 4,
       streamHbm := pf b (p + 20) 8, tag := pf b (p + 28) 2 } : PkgSet)
  { modelId := pb b mo 16, version := pf b (mo + 0x10) 4, span := pf b (mo + 0x15) 1, hbmBytes := pf b (mo + 0x20) 8,
    seedMode := pf b (mo + 0x3B) 1, seed := pf b (mo + 0x3C) 4, commons := pf b (mo + 0x40) 4, stateBytes := pf b (mo + 0x44) 4,
    period := pf b (mo + 0x48) 4, sets := native :: fb,
    ins := (List.range ni).map fun i => ioAt b (io + 16 * i), outs := (List.range no).map fun i => ioAt b (io + 16 * (ni + i)),
    secs := (List.range (pf b 0x14 2)).map fun i => secAt b (so + 24 * i),
    digest := (Config.sha384 (b.take (b.length - 48))).toNat }

/-- Whether all of `n` bytes at `off` are zero. -/
def zeroed (b : List Byte) (off n : Nat) : Bool := pf b off n = 0

/-- The header is in range (R103, R107). -/
def pkgHdrOk (b : List Byte) : Bool :=
  let mo := pf b 8 4
  let body := b.length - 48
  112 ≤ b.length && b.length ≤ 0x10000000 && pf b 0 4 = 0x4B505946 && pf b 4 1 = 1 && pf b 5 1 ≤ 2 && pf b 6 2 = 64 &&
    pf b 12 4 = 128 + 32 * pf b (mo + 0x3A) 1 + 16 * (pf b (mo + 0x4C) 1 + pf b (mo + 0x4D) 1) &&
    1 ≤ pf b 0x14 2 && pf b 0x14 2 ≤ 1024 && zeroed b 0x16 2 && pf b 0x18 8 = b.length && zeroed b 0x30 16 &&
    mo + pf b 12 4 ≤ body && pf b 0x10 4 + 24 * pf b 0x14 2 ≤ body && pb b 0x20 16 = pb b mo 16

/-- A set's fields are in range (R104, R105). -/
def PkgSet.ok (x : PkgSet) (span : Nat) : Bool :=
  x.fmt < 16 && 1 ≤ x.tiles && x.tiles ≤ (if span = 0 then 8 else 64) && x.lc ≤ 4 && (x.streamLc ≤ 4 || x.streamLc = 0xFF) &&
    x.sram ≤ progBytes && x.streamSram ≤ progBytes

/-- The manifest is in range (R104 to R107). -/
def pkgManOk (b : List Byte) (p : Pkg) : Bool :=
  let mo := pf b 8 4
  let nf := pf b (mo + 0x3A) 1
  let io := 0x80 + 32 * nf
  p.span ≤ 1 && nf ≤ 4 && p.seedMode ≤ 1 && p.commons ≤ 0x400000 && p.stateBytes ≤ 65536 && 1 ≤ p.ins.length && p.ins.length ≤ 16 &&
    1 ≤ p.outs.length && p.outs.length ≤ 16 && pf b (mo + 0x4E) 2 = io && zeroed b (mo + 0x55) 43 &&
    p.sets.all (fun s => s.ok p.span) && ((List.range nf).all fun i => zeroed b (mo + 0x80 + 32 * i + 0x1E) 2) &&
    ((List.range (p.ins.length + p.outs.length)).all fun i => zeroed b (mo + io + 16 * i + 12) 4) &&
    (p.ins ++ p.outs).all (fun e => e.fmt < 16 && e.off ≤ p.commons) && p.outs.all (fun e => nctlOk e.fmt e.nctl) &&
    ((List.range (p.sets.length - 1)).all fun i =>
      match (p.sets.drop i).head?, (p.sets.drop (i + 1)).head? with
      | some x, some y => fmtBits y.fmt < fmtBits x.fmt
      | _, _ => true)

/-- The sections are in range (R106, R107). -/
def pkgSecOk (b : List Byte) (p : Pkg) : Bool :=
  let body := b.length - 48
  let so := pf b 0x10 4
  ((List.range p.secs.length).all fun i => zeroed b (so + 24 * i + 20) 4) &&
    p.secs.all fun s =>
      1 ≤ s.ty && s.ty ≤ 4 && (s.ltile < 64 || s.ltile = 0xFF) && s.set < p.sets.length && s.off + s.size ≤ body &&
        (match (p.sets.drop s.set).head? with
         | some x => s.dest + s.size ≤ min progBytes x.sram
         | none => false)

/-- Step 1 of the load sequence: 0, or the status the package is refused with (R107). -/
def pkgCheck (b : List Byte) : Nat :=
  let p := pkgRead b
  if ¬ (pkgHdrOk b && pkgManOk b p && pkgSecOk b p) then msBadParam
  else if pf b (b.length - 48) 48 ≠ p.digest then msIntegrity
  else if p.secs.any fun s => crc32c (pb b s.off s.size) ≠ s.crc then msIntegrity
  else 0

/-- The tag of a package: the first four bytes of its digest (R130). -/
def Pkg.tag (p : Pkg) : Nat := p.digest % 2 ^ 32

/-! ### Fit (R108 to R113) -/

/-- A candidate: a set, resident or streamed. -/
structure Cand where
  set : PkgSet
  streamed : Bool
  deriving DecidableEq, Repr

/-- The candidates in the order of R111. -/
def Pkg.cands (p : Pkg) : List Cand :=
  (p.sets.map fun s => { set := s, streamed := false }) ++ p.sets.map fun s => { set := s, streamed := true }

def Cand.lc (c : Cand) : Nat := if c.streamed then c.set.streamLc else c.set.lc
def Cand.sram (c : Cand) : Nat := if c.streamed then c.set.streamSram else c.set.sram

/-- The sections a candidate places: its own set's, and those of the native set that are no weights. -/
def Pkg.secsOf (p : Pkg) (k : Nat) : List Sec :=
  (p.secs.filter fun s => s.set = 0 && k ≠ 0 && s.ty ≠ 2) ++ p.secs.filter fun s => s.set = k

/-- Bytes of a set's weight window when streamed. -/
def Pkg.weightBytes (p : Pkg) (k : Nat) : Nat := (p.secs.filter fun s => s.set = k && s.ty = 2).foldl (fun m s => max m (s.dest + s.size)) 0

/-- Bandwidth a streamed candidate reserves, in units of `bwUnit` (R109). -/
def Cand.bw (c : Cand) : Nat :=
  if c.streamed then (match lcBound c.lc with | some b => c.set.streamHbm * (bwUnit / (b - 2000)) | none => 0) else 0

/-- The candidate meets its class (R108, R111). -/
def Cand.classOk (c : Cand) (maxLc : Nat) : Bool :=
  c.lc ≤ maxLc && c.lc ≤ 4 && !(c.streamed && c.lc = 4) &&
    (match lcBound c.lc with
     | some b => (if c.streamed then c.set.streamWcycles else c.set.wcycles) + 2000 ≤ b
     | none => true)

/-- HBM bytes a candidate needs (R111). -/
def Pkg.hbmNeed (p : Pkg) (c : Cand) : Nat :=
  p.hbmBytes + c.set.tiles * (c.sram + p.stateBytes) + if c.streamed then p.weightBytes c.set.idx else 0

/-- The lowest place of `n` bytes in [lo, hi) beside the regions in use (the model's choice: the log). -/
def poolFit (lo hi n : Nat) (used : List (Nat × Nat)) : Option Nat :=
  let ok := fun b => b + n ≤ hi && used.all fun (u : Nat × Nat) => b + n ≤ u.1 || u.1 + u.2 ≤ b
  ((lo :: used.map fun u => u.1 + u.2).filter fun b => lo ≤ b && ok b).foldl
    (fun (m : Option Nat) b => match m with | none => some b | some x => some (min x b)) none

/-- The replay buffer: the top of the model pool (R300). -/
def Dev.replayBase (d : Dev) : Nat := 0x400000000 - d.oro.replayMib * 0x100000

/-- Regions of the model pool and of the commons pool in use. -/
def Dev.hbmUsed (d : Dev) : List (Nat × Nat) := (d.arr.slots.map fun p => p.2.hbm).filter fun r => r.2 ≠ 0
def Dev.comUsed (d : Dev) : List (Nat × Nat) :=
  ((d.arr.slots.map fun p => p.2.com).filter fun r => r.2 ≠ 0) ++ (bitsSet 32 d.ecc.comAvoid).map fun b => (b * 0x100000, 0x100000)

/-- Free tiles of cluster `c`, rising. -/
def Dev.freeIn (d : Dev) (c : Nat) : List Nat := ((List.range 9).map fun k => 9 * c + k).filter d.tileFree

/-- Clusters by rising number of free tiles, the lowest index first on a tie. -/
def Dev.clustersByFree (d : Dev) : List Nat :=
  (List.range 73).flatMap fun k => (List.range 8).filter fun c => (d.freeIn c).length = k

/-- The tiles R113 gives `n` tiles' placement. -/
def Dev.chooseTiles (d : Dev) (span n : Nat) : Option (List Nat) :=
  if span = 0 then
    ((d.clustersByFree.find? fun c => n ≤ (d.freeIn c).length)).map fun c => (d.freeIn c).take n
  else
    let all := (d.clustersByFree.flatMap d.freeIn).take n
    if all.length = n then some ((List.range 72).filter fun t => all.contains t) else none

/-- Where a candidate fits: tiles, HBM and commons bases (R111). -/
structure Fit where
  c : Cand
  tiles : List Nat
  hbm : Nat
  com : Nat
  deriving DecidableEq, Repr

def Dev.fitCand (d : Dev) (p : Pkg) (maxLc : Nat) (c : Cand) : Option Fit :=
  if ¬ (c.classOk maxLc && c.sram ≤ progBytes &&
      10 * ((d.arr.slots.map fun q => q.2.bw).foldl (· + ·) c.bw) ≤ 4096 * bwUnit) then none
  else
    match d.chooseTiles p.span c.set.tiles, poolFit 0x80000000 d.replayBase (p.hbmNeed c) d.hbmUsed,
        poolFit 0x400000 0x2000000 p.commons d.comUsed with
    | some ts, some h, some m => some { c := c, tiles := ts, hbm := h, com := m }
    | _, _, _ => none

/-- The first candidate that fits. -/
def Dev.fit (d : Dev) (p : Pkg) (maxLc : Nat) : Option Fit := p.cands.findSome? (d.fitCand p maxLc)

/-! ### The load sequence -/

/-- The sections of a candidate for logical tile `l` that go into its image. -/
def Fit.imageSecs (f : Fit) (p : Pkg) (l : Nat) : List Sec :=
  (p.secsOf f.c.set.idx).filter fun s => (s.ltile = l || s.ltile = 0xFF) && !(f.c.streamed && s.ty = 2)

/-- Steps 3 and 4 for one tile: its image in the model pool, the tile cleared and loaded, its seed (R116). -/
def Dev.placeTile (d : Dev) (n : Nat) (p : Pkg) (b : List Byte) (f : Fit) (img l t : Nat) : Dev :=
  let base := img + l * (f.c.sram + p.stateBytes)
  let d := d.clearRange .hbm base (f.c.sram + p.stateBytes)
  let d := (f.imageSecs p l).foldl (fun d s => d.stn .hbm (base + s.dest) (pb b s.off s.size)) d
  let d := (d.tileClear t).copyBytes .hbm base (.tile t) 0 f.c.sram
  let d := d.wrw (F.TILE_STATE_STATE.addr t) (l * 65536 + 8192 + n * 256 + tsLoaded)
  let d := d.wr F.TILE_TAG_TAG t p.tag
  if p.seedMode = 1 then d.reseed t p.seed else d

/-- R115: exactly TILE_COUNT tiles report the slot, each LOADED with the slot's tag. -/
def Dev.commitOk (d : Dev) (n : Nat) : Bool :=
  d.sst n = ssBuilding && (d.slotTiles n).length = d.rd F.SLOT_STATE_TILE_COUNT n &&
    (d.slotTiles n).all fun t => d.tst t = tsLoaded && d.rd F.TILE_TAG_TAG t = d.rd F.SLOT_TAG_TAG n

/-- A write of SLOT_CTRL.COMMIT (R115, R117). -/
def Dev.slotCommit (d : Dev) (n : Nat) : Dev :=
  if d.commitOk n then
    let d := d.wr F.SLOT_STATE_STATE n ssReady
    if d.is F.SLOT_CTRL_PRED_VALID n then d.slotRetire (d.rd F.SLOT_CTRL_PRED n) else d
  else d.wr F.SLOT_STATE_COMMIT_REJECT n 1

/-- Place a package (steps 2 to 5): the slot's registers and regions, its tiles, the commit. -/
def Dev.place (d : Dev) (n : Nat) (q : LoadReq) (p : Pkg) (f : Fit) : Dev :=
  let k := f.c.set.idx
  let wb := if f.c.streamed then p.weightBytes k else 0
  let work := f.hbm + wb
  let img := work + p.hbmBytes
  let wins := (if f.c.streamed then [(f.hbm, wb)] else []) ++ (if p.hbmBytes = 0 then [] else [(work, p.hbmBytes)]) ++
    (if q.role = 3 then [(d.replayBase, d.oro.replayMib * 0x100000)] else [])
  let noRes := f.tiles.any fun t => !d.reserveOk (t / 9)
  let d := (d.clearRange .hbm f.hbm (p.hbmNeed f.c)).clearRange .commons f.com p.commons
  let d := d.slPut n
    { pkg := q.pkg, maxLc := q.maxLc, owner := q.owner, com := (f.com, p.commons), hbm := (f.hbm, p.hbmNeed f.c), hwin := wins,
      img := img, sram := f.c.sram, st := p.stateBytes, bw := f.c.bw, ins := p.ins, outs := p.outs }
  let d := d.wrw (F.SLOT_STATE_STATE.addr n)
    (f.c.set.tiles * 2 ^ 24 + f.c.lc * 2 ^ 20 + k * 65536 + f.c.streamed.toNat * 32768 + noRes.toNat * 16384 + ssBuilding)
  let d := ((d.wr F.SLOT_TAG_TAG n p.tag).wr F.SLOT_PERIOD_PERIOD_NS n p.period).bwShow
  let d := if f.c.streamed then
      ((p.secs.filter fun s => s.set = k && s.ty = 2)).foldl (fun d s => d.stn .hbm (f.hbm + s.dest) (pb q.pkg s.off s.size)) d
    else d
  let d := (f.tiles.mapIdx fun l t => (l, t)).foldl (fun d lt => d.placeTile n p q.pkg f img lt.1 lt.2) d
  d.slotCommit n

/-- A load's outcome: its status, and the slot where it is OK. -/
structure Loaded where
  st : Nat
  slot : Nat := 0
  deriving DecidableEq, Repr

/-- Load a package (R111 to R114): nothing changes unless it is placed. -/
def Dev.load (d : Dev) (q : LoadReq) : Loaded × Dev :=
  let c := pkgCheck q.pkg
  if c ≠ 0 then ({ st := c }, d)
  else
    let p := pkgRead q.pkg
    match (List.range 32).find? (fun n => d.sst n = ssFree), d.fit p q.maxLc with
    | some n, some f => ({ st := msOk, slot := n }, d.place n q p f)
    | _, _ => ({ st := msResource }, d)

/-- The completion payload of PKG_LOAD (R457). -/
def Dev.loadPay (d : Dev) (n : Nat) : List Byte :=
  le 1 n ++ le 1 (d.rd F.SLOT_STATE_SET n) ++ le 1 (d.rd F.SLOT_STATE_STREAMED n) ++ le 1 (d.rd F.SLOT_STATE_LC n) ++
    le 1 (d.rd F.SLOT_STATE_NO_RESERVE n) ++ zeros 3

/-- ARR_LOADER.QUEUED. -/
def Dev.loadsShow (d : Dev) : Dev := d.wr F.ARR_LOADER_QUEUED 0 (min 4 d.arr.loads.length)

end Sys2Proof.Machine
end

