-- ==== Sys2Proof/Machine/OroOps.lean ====
section
/-! DEFINITION. Shared operations of Orotha (spec/08): slot roles, policy outputs, the solver, the gate's measurements, policy
failure, loads in an Orotha role. -/

namespace Sys2Proof.Machine

abbrev causeRollback : Cause := (4, 5, none)

/-! ### Roles and state (R311, R317) -/

/-- Roles: 1 ACTIVE, 2 SHADOW, 3 TRAIN, 4 RETAINED. -/
abbrev rlActive : Nat := 1
abbrev rlShadow : Nat := 2
abbrev rlTrain : Nat := 3
abbrev rlRetained : Nat := 4

def roleSlotF (r : Nat) : Fld :=
  if r = rlActive then F.ORO_STATUS_ACTIVE_SLOT else if r = rlShadow then F.ORO_STATUS_SHADOW_SLOT
  else if r = rlTrain then F.ORO_STATUS_TRAIN_SLOT else F.ORO_STATUS_RETAINED_SLOT
def roleValidF (r : Nat) : Fld :=
  if r = rlActive then F.ORO_STATUS_ACTIVE_VALID else if r = rlShadow then F.ORO_STATUS_SHADOW_VALID
  else if r = rlTrain then F.ORO_STATUS_TRAIN_VALID else F.ORO_STATUS_RETAINED_VALID

/-- The slot in a role. -/
def Dev.roleSlot (d : Dev) (r : Nat) : Option Nat := if d.is (roleValidF r) then some (d.rd (roleSlotF r)) else none

/-- Put a slot into a role, or none. -/
def Dev.roleSet (d : Dev) (r : Nat) (n : Option Nat) : Dev :=
  (d.wr (roleValidF r) 0 n.isSome.toNat).wr (roleSlotF r) 0 (n.getD 0)

/-- The role of slot `n`. -/
def Dev.roleOfSlot (d : Dev) (n : Nat) : Option Nat :=
  [rlActive, rlShadow, rlTrain, rlRetained].find? fun r => d.roleSlot r = some n

/-- ORO_STATUS.STATE: OFF, STARTING, ACTIVE or FALLBACK (R311). -/
def Dev.oroState (d : Dev) : Dev :=
  let st := if !d.is F.PWC_CTRL_ORO_EN then 0
    else if d.oro.fallback then 3 else if d.is F.ORO_STATUS_ACTIVE_VALID then 2 else 1
  d.wr F.ORO_STATUS_STATE 0 st

/-- ORO_EN changes (R245, R311): cleared, host software's budgets or the default division are proposed. -/
def Dev.oroEn (d : Dev) (on : Bool) : Dev :=
  if d.is F.PWC_CTRL_ORO_EN = on then d
  else
    let d := (d.wr F.PWC_CTRL_ORO_EN 0 on.toNat)
    let d := { d with oro.fallback := false }
    if on then d.oroState
    else (if d.rd F.PWC_TRAY_CAP_CAP_W = 0 then d else d.propose d.ownProposal).oroState

/-- Retire the slot in a role. -/
def Dev.roleRetire (d : Dev) (r : Nat) : Dev :=
  match d.roleSlot r with
  | some n => (d.roleSet r none).slotRetire n
  | none => d

/-- The evaluation window starts again (R307, R313). -/
def Dev.windowRestart (d : Dev) : Dev := { d with oro.segs := [], oro.winAt := d.gts }

/-- An event of Orotha (R463): 0 promotion, 1 rollback, 2 fallback. -/
def Dev.oroEvent (d : Dev) (k : Nat) : Dev := d.event 6 k (d.rdw (F.ORO_STATUS_STATE.addr 0))

/-- The timer of a policy slot (R294): every millisecond at TRIG_OFFSET. -/
def Dev.policyTimer (d : Dev) (n : Nat) : Dev :=
  ((d.wr F.SLOT_PERIOD_PERIOD_NS n 1000000).wr64 F.SLOT_START_LO n d.trigOffset).wr F.SLOT_CTRL_TIMER_EN n 1

/-! ### The allocator solver (R296 to R298), in binary64 -/

/-- Round to binary64. -/
def b64 (v : Val) : Val := ffB64.decode (ffB64.conv rne v).1
def b64Add (x y : Val) : Val := b64 (x.add y).1
def b64Sub (x y : Val) : Val := b64 (x.add y.neg).1
def b64Mul (x y : Val) : Val := b64 (x.mul y).1
def b64Div (x y : Val) : Val := b64 (x.div y).1
def vNat (n : Nat) : Val := .fin false n 0
/-- x ≤ y. -/
def Val.le (x y : Val) : Bool := x.lt y || x.eqv y
/-- floor of a non-negative value. -/
def Val.floorNat (v : Val) : Nat := match v with | .fin false m e => if 0 ≤ e then m * pow2 e else m / pow2 (-e) | _ => 0

/-- One accelerator in the solver. -/
structure WF where
  a : Nat
  b : Val
  cap : Val
  w : Val
  deriving DecidableEq, Repr

/-- waterfill of R297: every round closes an accelerator or ends. -/
def waterfill : Nat → Val → List WF → List WF
  | 0, _, l => l
  | k + 1, r, l =>
    let isOpen := fun (x : WF) => x.b.lt x.cap && !x.b.eqv x.cap
    if !((vNat 0).lt r && !(vNat 0).eqv r) || !l.any isOpen then l
    else
      let lam := b64Div r ((l.filter isOpen).foldl (fun s x => b64Add s x.w) (vNat 0))
      let sat := fun (x : WF) => isOpen x && (b64Sub x.cap x.b).le (b64Mul lam x.w)
      if !l.any sat then l.map fun (x : WF) => if isOpen x then { x with b := b64Add x.b (b64Mul lam x.w) } else x
      else
        let r := (l.filter sat).foldl (fun r x => b64Sub r (b64Sub x.cap x.b)) r
        waterfill k r (l.map fun (x : WF) => if sat x then { x with b := x.cap } else x)

/-- An accelerator's goal and weight (R296). -/
structure Goal where
  a : Nat
  f : Nat
  c : Nat
  g : Val
  w : Val
  deriving DecidableEq, Repr

def Val.clamp (v lo hi : Val) : Val := if v.lt lo then lo else if hi.lt v then hi else v

/-- The records of the last 64 frames before tick `m` with TLM_VALID for accelerator `a`. -/
def Dev.tlmCount (d : Dev) (m a : Nat) : Nat :=
  ((List.range 64).filter fun i =>
    let k := 100 * m - 64 + i
    bitOf (d.ldb .commons (0x80000 + 288 * (k % 128) + 32 + 32 * a + 0x18)).toNat 0).length

def Dev.goal (d : Dev) (p : Pred) (a : Nat) : Goal :=
  let f := d.floorW a
  let c := match (d.pw a).maxW with | some m => min m (d.power a 0) | none => d.power a 0
  let unk : Bool := d.tlmCount p.m a < 48 || d.mode a = modeSideband || d.mode a = modeLost
  if unk then { a := a, f := f, c := c, g := (vNat (d.budget a)).clamp (vNat f) (vNat c), w := vNat 1 }
  else
    { a := a, f := f, c := c, g := (f32 (p.demandHi.getD a 0)).clamp (vNat f) (vNat c)
      w := (f32 (p.weight.getD a 0)).clamp (.fin false 1 (-4)) (vNat 16) }

/-- The solver (R297): the budgets, or none where the floors do not fit. -/
def Dev.solve (d : Dev) (p : Pred) : Option (List (Nat × Nat)) :=
  let gs := d.budgeted.map (d.goal p)
  let fsum := (gs.map (·.f)).foldl (· + ·) 0
  if d.available < fsum then none
  else
    let r := vNat (d.available - fsum)
    let need := gs.foldl (fun s x => b64Add s (b64Sub x.g (vNat x.f))) (vNat 0)
    let out :=
      if need.le r then waterfill 9 (b64Sub r need) (gs.map fun x => { a := x.a, b := x.g, cap := vNat x.c, w := x.w })
      else waterfill 9 r (gs.map fun x => { a := x.a, b := vNat x.f, cap := x.g, w := x.w })
    some (out.map fun x => (x.a, x.b.floorNat))

/-- A budget of a solved set. -/
def setOf (l : List (Nat × Nat)) (a : Nat) : Nat := ((l.find? fun p => p.1 = a).map (·.2)).getD 0

/-- PMC submits a solved set when it passes the deadband or the cap has changed (R298). -/
def Dev.submit (d : Dev) (l : List (Nat × Nat)) : Dev :=
  let dead := d.rd F.ORO_SOLVE_CFG_DEADBAND_W
  let cap := d.rd F.PWC_TRAY_CAP_CAP_W
  let far := l.any fun p =>
    let s := d.rd F.PWC_ACC_BUDGET_STAGED_W p.1
    let b := if s ≠ 0 then s else d.budget p.1
    decide (dead ≤ (if b ≤ p.2 then p.2 - b else b - p.2))
  if d.is F.PWC_CTRL_ORO_EN ∧ (far = true ∨ d.oro.subCap ≠ some cap) then
    { d.propose (setOf l) with oro.subCap := some cap }
  else d

/-! ### Policy outputs (R293, R295) -/

/-- The codes of an output named `name` in a commit's data. -/
def outCodes (ios : List IoEnt) (outs : List (List Byte)) (name w n : Nat) : List Nat :=
  match (ios.zip outs).find? fun p => p.1.name = name with
  | some p => (List.range n).map fun i => elemAt w p.2 i
  | none => []

/-- Whether a policy's commit is valid (R295). -/
def Dev.predValid (d : Dev) (p : Pred) (status flags : Nat) : Bool :=
  let ok := fun (v : Val) => v.isFin
  !bitOf status 0 && !bitOf status 1 && !bitOf flags 4 && p.phase.length = 8 && p.demand.length = 8 && p.demandHi.length = 8 &&
    p.weight.length = 8 && p.phase.all (fun c => c < 8) &&
    (accs8.all fun a =>
      let x := f32 (p.demand.getD a 0)
      let y := f32 (p.demandHi.getD a 0)
      !d.present a || (ok x && ok y && (vNat 0).le x && x.le y && y.le (vNat (2 * d.power a 0)))) &&
    p.weight.all fun c => ok (f32 c) && (vNat 0).le (f32 c)

/-- The tick an invocation belongs to. -/
def tickOf (trig : Nat) : Nat := trig / 1000000

/-- A policy slot's commit as R295 and R305 see it. -/
def Dev.predOf (d : Dev) (n : Nat) (status flags : Nat) (outs : List (List Byte)) : Pred :=
  let x := d.sl n
  let p : Pred :=
    { m := tickOf x.trig, valid := false, excused := bitOf status 2 || bitOf status 3 || x.again
      phase := outCodes x.outs outs 0x0101 8 8, demand := outCodes x.outs outs 0x0102 32 8,
      demandHi := outCodes x.outs outs 0x0103 32 8, weight := outCodes x.outs outs 0x0104 32 8 }
  { p with valid := d.predValid p status flags }

/-! ### Failure of the ACTIVE policy (R310) -/

/-- The retained policy takes over. -/
def Dev.policyBack (d : Dev) (r : Nat) : Dev :=
  let d := ((d.roleRetire rlActive).roleSet rlRetained none).roleSet rlActive (some r)
  let d := ({ d with oro.retUntil := none }).wr F.ORO_STATUS_ROLLED_BACK 0 1
  ((d.windowRestart.oroState).ffr causeRollback 1 0).oroEvent 1

/-- Orotha enters FALLBACK: the static budgets of R245 are submitted while ORO_EN is set (R310, R312). -/
def Dev.fallbackEnter (d : Dev) : Dev :=
  let d := { d with oro.fallback := true }
  let d := if d.is F.PWC_CTRL_ORO_EN ∧ d.rd F.PWC_TRAY_CAP_CAP_W ≠ 0 then d.propose d.ownProposal else d
  ((d.windowRestart.oroState).ffr causeRollback 2 0).oroEvent 2

/-- No policy is retained. -/
def Dev.policyNone (d : Dev) : Dev := (d.roleRetire rlActive).fallbackEnter

/-- A slot retired by SLOT_CTRL.RETIRE leaves its Orotha role; without an ACTIVE policy Orotha is in FALLBACK. -/
def Dev.roleLeave (d : Dev) (n : Nat) : Dev :=
  match d.roleOfSlot n with
  | some r => if r = rlActive then (d.roleSet r none).fallbackEnter else d.roleSet r none
  | none => d

/-- The failure is counted; what the policy had answered is dropped. -/
def Dev.policyMark (d : Dev) : Dev :=
  { d.inc F.ORO_COUNTS_ROLLBACKS with oro.invalid := 0, oro.act := none, oro.promote := false }

/-- What takes the failed policy's place. -/
def Dev.policyNext (d : Dev) : Dev :=
  match d.roleSlot rlRetained with
  | some r => d.policyBack r
  | none => d.policyNone

/-- The ACTIVE policy has failed. -/
def Dev.policyFail (d : Dev) : Dev := d.policyMark.policyNext

/-- The ACTIVE invocation was invalid and not excused. -/
def Dev.activeInvalid (d : Dev) : Dev :=
  let d := { d.inc F.ORO_COUNTS_ACTIVE_INVALID with oro.invalid := d.oro.invalid + 1 }
  if max 1 (d.rd F.ORO_SOLVE_CFG_INVALID_LIMIT) ≤ d.oro.invalid then d.policyFail else d

/-- A shadow violation (R306): the clean clock starts again. -/
def Dev.shadowViolation (d : Dev) : Dev := { d.inc F.ORO_COUNTS_SHADOW_VIOL with oro.cleanAt := d.gts }

/-- An invocation of slot `n` was aborted with ILLEGAL, ADDR or WDOG. -/
def Dev.oroAbort (d : Dev) (n : Nat) : Dev :=
  match d.roleOfSlot n with
  | some 1 => (d.inc F.ORO_COUNTS_ACTIVE_INVALID).policyFail
  | some 2 => { d.shadowViolation with oro.sha := none }
  | _ => d

/-- ACTIVE committed (R295, R297, R298, R310, R316): valid, the solver runs and submits. -/
def Dev.activeCommit (d : Dev) (p : Pred) : Dev :=
  let d := { d with oro.act := some p }
  if p.valid then
    let d := { d with oro.invalid := 0 }
    match d.solve p with
    | some l => d.submit l
    | none => d
  else if p.excused then d
  else d.activeInvalid

/-- SHADOW committed (R306): the solver runs with nothing submitted. -/
def Dev.shadowCommit (d : Dev) (p : Pred) : Dev :=
  let d := { d with oro.sha := some p }
  if p.valid then
    match d.solve p with
    | some l => if d.budgetOk (setOf l) then d else d.shadowViolation
    | none => d
  else if p.excused then d
  else d.shadowViolation

/-- TRAIN committed CANDIDATE (R302, R303): a serial that differs from the last one calls for a derived package. -/
def Dev.trainCommit (d : Dev) (n : Nat) (outs : List (List Byte)) : Dev :=
  match outCodes (d.sl n).outs outs 0x0201 32 4 with
  | [serial, tag, bytes, crc] =>
    if d.oro.serial = some serial then d else { d with oro.serial := some serial, oro.cand := some (tag, bytes, crc) }
  | _ => d

/-- The commit of slot `n` reaches Orotha. -/
def Dev.oroCommit (d : Dev) (n status flags : Nat) (outs : List (List Byte)) : Dev :=
  match d.roleOfSlot n with
  | some 1 => d.activeCommit (d.predOf n status flags outs)
  | some 2 => d.shadowCommit (d.predOf n status flags outs)
  | some 3 => d.trainCommit n outs
  | _ => d

/-! ### Loads in an Orotha role (R293, R302, R312, R313, R315) -/

/-- The I/O table of a policy (R293). -/
def ioIs (e : IoEnt) (name fmt elements : Nat) : Bool := e.name = name && e.fmt = fmt && e.elements = elements

def Pkg.policyOk (p : Pkg) : Bool :=
  p.ins.length = 1 && p.ins.all (fun e => ioIs e 1 14 18432) && p.outs.length = 4 &&
    ([(0x0101, 14), (0x0102, 0), (0x0103, 0), (0x0104, 0)].all fun q => p.outs.any fun e => ioIs e q.1 q.2 8) &&
    (p.period = 0 || p.period = 1000000) && p.cands.any fun c => c.classOk 1

/-- A training package (R302), its base policy resident as ACTIVE. -/
def Dev.trainOk (d : Dev) (p : Pkg) (q : LoadReq) : Bool :=
  p.sets.all (fun s => s.lc = 4 && s.tiles ≤ 16) && 10000000 ≤ p.period && p.outs.length = 1 &&
    p.outs.all (fun e => ioIs e 0x0201 12 4) &&
    (match d.roleSlot rlActive with
     | some n => (pkgRead (d.sl n).pkg).modelId = q.baseId
     | none => false)

/-- A package suits the role it is loaded in. -/
def Dev.roleOk (d : Dev) (q : LoadReq) : Bool :=
  let p := pkgRead q.pkg
  if q.role = 0 ∨ q.replaces.isSome = true then true else if q.role = rlTrain then d.trainOk p q else p.policyOk

/-- Roles of lower priority than `r`, the lowest first (R312). -/
def lowerRoles (r : Nat) : List Nat :=
  if r = rlActive then [rlTrain, rlShadow, rlRetained] else if r = rlRetained then [rlTrain, rlShadow]
  else if r = rlShadow then [rlTrain] else []

/-- A load with the retirements R312 and R315 allow: slots of lower priority one at a time, and last the policy an operator's
ACTIVE load replaces. `again`: a slot being retired still runs, and the load is requested again. -/
def Dev.loadRoles (d : Dev) (q : LoadReq) (p : Pkg) : List Nat → Bool × Loaded × Dev
  | [] =>
    let r := d.load q
    (false, r)
  | r :: rs =>
    if (d.fit p q.maxLc).isSome then (false, d.load q)
    else
      match d.roleSlot r with
      | none => Dev.loadRoles d q p rs
      | some n =>
        let d := d.roleRetire r
        if d.sst n = ssFree then Dev.loadRoles d q p rs else (true, { st := msResource }, d)

/-- A slot takes an Orotha role after its load (R309, R311, R315). -/
def Dev.roleTake (d : Dev) (q : LoadReq) (n : Nat) : Dev :=
  let d := d.slMod n fun x => { x with owner := 3 }
  if q.role = rlActive then
    let d := (d.policyTimer n).roleRetire rlRetained
    let d := match d.roleSlot rlActive with | some o => d.roleSet rlRetained (some o) | none => d
    let d := (d.roleSet rlActive (some n)).windowRestart
    ({ d with
       oro.invalid := 0, oro.act := none, oro.fallback := false, oro.started := true, oro.promote := false
       oro.retUntil := if d.is F.ORO_STATUS_RETAINED_VALID then some (d.gts + 1000000000 * d.rd F.ORO_SOLVE_CFG_ROLLBACK_S) else none }).oroState
  else if q.role = rlShadow then
    let d := ((d.policyTimer n).roleRetire rlShadow).roleSet rlShadow (some n)
    let d := (d.windowRestart.wrw (F.ORO_CLEAN_HELDOUT_SEG.addr 0) 0).wr F.ORO_STATUS_DEFER 0 0
    { d with oro.loadDefer := false, oro.sha := none, oro.cleanAt := d.gts, oro.shadowAt := d.gts, oro.opShadow := !q.derived, oro.promote := false }
  else
    let d := (d.roleRetire rlTrain).roleSet rlTrain (some n)
    let d := d.wr F.SLOT_CTRL_TIMER_EN n 1
    { d with oro.trainBase := q.baseId, oro.serial := none, oro.cand := none }

/-- Two slots hold the same weight set with the same streaming choice (R313). -/
def Dev.sameFit (d : Dev) (o n : Nat) : Bool :=
  d.rd F.SLOT_STATE_SET o = d.rd F.SLOT_STATE_SET n && d.rd F.SLOT_STATE_STREAMED o = d.rd F.SLOT_STATE_STREAMED n

/-- The load of the training package of slot `o`, requested again (R312). -/
def Dev.trainAgain (d : Dev) (o : Nat) : LoadReq :=
  { entry := none, pkg := (d.sl o).pkg, role := rlTrain, maxLc := (d.sl o).maxLc, baseId := d.oro.trainBase, denied := false,
    owner := (d.sl o).owner, id := none, replaces := none, derived := false }

/-- The role a load is for: the role of the slot it places again, or the role it names. -/
def Dev.loadRole (d : Dev) (q : LoadReq) : Nat :=
  match q.replaces with
  | some o => (d.roleOfSlot o).getD 0
  | none => q.role

/-- A slot placed again after a loss of tiles (R127, R313): the new slot takes the old one's role; the old one is FAILED. -/
def Dev.replaced (d : Dev) (o : Nat) (n : Option Nat) : Dev :=
  let r := d.roleOfSlot o
  let d := match r, n with
    | some r, some n => if r = rlActive ∧ ¬ d.sameFit o n = true then (d.roleSet r (some n)).windowRestart else d.roleSet r (some n)
    | some r, none =>
      if r = rlActive then (d.roleSet r none).fallbackEnter
      else if r = rlTrain then { d.roleSet r none with oro.trainReq := some (d.trainAgain o) }
      else d.roleSet r none
    | none, _ => d
  let d := match n with
    | some n =>
      let d := d.slMod n fun x => { x with owner := (d.sl o).owner, seq := (d.sl o).seq }
      ((d.wr F.SLOT_CTRL_TIMER_EN n (d.rd F.SLOT_CTRL_TIMER_EN o)).wr F.SLOT_PERIOD_PERIOD_NS n (d.rd F.SLOT_PERIOD_PERIOD_NS o)).wr64
        F.SLOT_START_LO n (d.rd64 F.SLOT_START_LO o)
    | none => d
  (d.wr F.SLOT_STATE_STATE o ssFailed).event 7 o (((d.slotTiles o).head?.getD 0) / 9)

/-- The completion of a load request: its staging entry is freed. -/
def Dev.loadDone (d : Dev) (q : LoadReq) (r : Loaded) : Dev :=
  let d := match q.entry with
    | some e => { d with arr.staging := tset (fun _ => none) d.arr.staging e none }
    | none => d
  match q.id with
  | some i => d.complete i r.st (if r.st = msOk then d.loadPay r.slot else [])
  | none => d

/-- An ACTIVE load that could not be placed after its predecessor was retired leaves no policy; a TRAIN load that could not be placed
waits. -/
def Dev.loadMissed (d : Dev) (q : LoadReq) (ok : Bool) : Dev :=
  let d := if q.role = rlActive ∧ !ok ∧ !d.is F.ORO_STATUS_ACTIVE_VALID then d.fallbackEnter else d
  if q.role = rlTrain ∧ !ok then { d with oro.trainReq := some { q with id := none, entry := none } } else d

/-- What follows a load's outcome: the replacement's hand-over, or the role it takes and the reply. -/
def Dev.loadEnd (d : Dev) (q : LoadReq) (r : Loaded) : Dev :=
  let ok : Bool := r.st = msOk
  match q.replaces with
  | some o => d.replaced o (if ok then some r.slot else none)
  | none => ((if ok ∧ q.role ≠ 0 then d.roleTake q r.slot else d).loadMissed q ok).loadDone q r

/-- One load request, whole (R111, R127, R312 to R315). -/
def Dev.loadRun (d : Dev) (q : LoadReq) : Dev :=
  if q.denied then d.loadDone q { st := msDenied }
  else if (match q.replaces with | some o => decide (d.sst o ≠ ssRebuilding) | none => false) then d
  else
    let c := pkgCheck q.pkg
    if c ≠ 0 then d.loadDone q { st := c }
    else if ¬ d.roleOk q then d.loadDone q { st := msBadParam }
    else
      let p := pkgRead q.pkg
      let q := { q with role := d.loadRole q }
      let lows := lowerRoles q.role ++ if q.role = rlActive ∧ q.replaces.isNone then [rlActive] else []
      let r := d.loadRoles q p lows
      if r.1 then { r.2.2 with arr.loads := q :: r.2.2.arr.loads }.loadsShow else r.2.2.loadEnd q r.2.1

/-! ### The gate's measurements (R305, R307) -/

/-- 100 times the error of a prediction for one accelerator, in 2^-149 W: |100 × demand − sum|. -/
def err100 (demand : Val) (sum : Nat) : Nat :=
  match demand with
  | .fin s m e => (units s (100 * m) e (-149) - (sum * 2 ^ 149 : Nat)).natAbs
  | _ => 0

/-- Error sums join the segment of tick `m`, when both predictors count there. -/
def Dev.horizonEnd (d : Dev) : Dev :=
  let h := d.oro.hor
  let prev := d.oro.last
  let d := { d with oro.last := h }
  let j := (h.m * 1000000 + d.trigOffset) / 1000000000
  match d.oro.act, d.oro.sha with
  | act, some s =>
    let aOk : Bool := match act with | some a => a.m = h.m && a.valid && !a.excused | none => d.rd F.ORO_STATUS_STATE ≠ 2
    if h.n = 100 ∧ prev.n = 100 ∧ prev.m + 1 = h.m ∧ ¬ h.emerg = true ∧ d.segHeld j = true ∧ s.m = h.m ∧ s.valid = true ∧ s.excused = false ∧ aOk = true ∧
        d.oro.winAt ≤ j * 1000000000 then
      let as := accs8.filter fun a => !bitOf h.bad a
      let sum := fun (l : List (Nat × Nat)) a => tget (fun _ => 0) l a
      let e := fun (f : Nat → Val) => (as.map fun a => err100 (f a) (sum h.sums a)).foldl (· + ·) 0
      let es := e fun a => f32 (s.demand.getD a 0)
      let ea := match act with | some p => e fun a => f32 (p.demand.getD a 0) | none => 0
      let eb := (as.map fun a => 2 ^ 149 * ((sum h.sums a : Int) - (sum prev.sums a : Int)).natAbs).foldl (· + ·) 0
      let x := (d.oro.segs.find? fun (q : SegErr) => q.j = j).getD { j := j }
      { d with oro.segs := (d.oro.segs.filter fun (q : SegErr) => q.j ≠ j) ++ [{ j := j, a := x.a + ea, s := x.s + es, b := x.b + eb }] }
    else d
  | _, none => d

/-- A frame record joins its horizon. -/
def Dev.horizonAdd (d : Dev) (k : Nat) (rec : List Byte) : Dev :=
  let m := k / 100
  let h := if d.oro.hor.m = m ∧ k % 100 ≠ 0 then d.oro.hor else { m := m }
  let h : Horizon :=
    { h with
      n := h.n + 1
      sums := accs8.foldl (fun l a => tset (fun _ => 0) l a (tget (fun _ => 0) l a + pf rec (32 + 32 * a + 0x10) 2)) h.sums
      bad := h.bad ||| maskOf 8 fun a => pf rec (32 + 32 * a + 0x18) 1 / 32 ≠ 0
      emerg := h.emerg || pf rec 0x10 1 ≠ 0 }
  let d := { d with oro.hor := h }
  if k % 100 = 99 then d.horizonEnd else d

end Sys2Proof.Machine
end

