-- ==== Sys2Proof/Machine/TileExec.lean ====
section
/-! DEFINITION. Tile instructions (R87 to R99): issue and its checks, the matrix, vector, tree and DMA engines. -/

namespace Sys2Proof.Machine

/-! ### Issue (R87, R88) -/

/-- TILE_ERR bits of an aborting error (R128), by kind: 0 ILLEGAL, 1 ADDR, 2 WDOG. -/
def abortErr (kind : Nat) : Fld := if kind = 0 then F.TILE_ERR_ILLEGAL else if kind = 1 then F.TILE_ERR_ADDR else F.TILE_ERR_WDOG

/-- The invocation of slot `n` is aborted (R110, R128): nothing is committed; the slot is READY again and a pending trigger
starts. -/
def Dev.invAbort (d : Dev) (n t kind : Nat) : Dev :=
  ((((d.wr (abortErr kind) t 1).tilesStop n).ffr causeAbort t kind).oroAbort n).invEnd n

/-- The tile's sequencer can issue: RUNNING, and its program not ended. -/
def Dev.canIssue (d : Dev) (t : Nat) : Bool := d.arrOn && d.tst t = tsRunning && !(d.tl t).ended

/-- The next instruction in order. -/
def Dev.pcNext (d : Dev) (t : Nat) : Dev :=
  { d.tlMod t fun x => { x with pc := x.pc + 16 } with freeCtr := d.freeCtr + 1 }

/-- The instruction aborts its invocation. -/
def Dev.tileAbort (d : Dev) (t kind : Nat) : Dev :=
  match d.slotOf t with
  | some n => d.invAbort n t kind
  | none => d

end Sys2Proof.Machine

namespace Sys2Proof

/-- The operands of an instruction. -/
def TileOp.a (o : TileOp) : Machine.Opnd := { a := o.srcA.toNat, sc := o.sa.toNat, f := o.fa, mxv := o.va }
def TileOp.b (o : TileOp) : Machine.Opnd := { a := o.srcB.toNat, sc := o.sb.toNat, f := o.fb, mxv := o.vb }
def TileOp.c (o : TileOp) : Machine.Opnd := { a := o.srcC.toNat, sc := o.sc.toNat, f := o.fa, mxv := o.vc }
def TileOp.d (o : TileOp) : Machine.Opnd := { a := o.dst.toNat, sc := o.sd.toNat, f := o.fd, mxv := Machine.bitOf o.nctl.toNat 3 }

end Sys2Proof

namespace Sys2Proof.Machine

/-- Issue an instruction whose engine accepts it when `ok`: illegal otherwise; `f` is its effect before the sequencer moves
on (R87, R88). -/
def Dev.issueAt (d : Dev) (o : TileOp) (ok : Bool) (f : Dev → Dev) : Dev :=
  if !d.canIssue o.t then d
  else if !(ok && nctlOk o.fd o.nctl.toNat) then d.tileAbort o.t 0
  else f d

/-- Issue an instruction and move on. -/
def issue (o : TileOp) (ok : Bool) (f : Dev → Dev) (s : State) : Res :=
  s.run fun d => d.issueAt o ok fun d => (f d).pcNext o.t

def execNop (o : TileOp) (s : State) : Res := issue o true (fun d => d) s
def execWait (o : TileOp) (s : State) : Res := issue o true (fun d => d) s
def execYield (o : TileOp) (s : State) : Res := issue o true (fun d => d) s

def execBranch (o : TileOp) (taken : Bool) (target : Word) (s : State) : Res :=
  s.run fun d => d.issueAt o true fun d => if taken then d.tlMod o.t fun x => { x with pc := target.toNat } else d.pcNext o.t

def execLoop (o : TileOp) (again : Bool) (target : Word) (s : State) : Res :=
  s.run fun d => d.issueAt o true fun d => if again then d.tlMod o.t fun x => { x with pc := target.toNat } else d.pcNext o.t

/-- SETSHAPE: M and N from 1 to 32, K from 1 to 65,536. -/
def execSetshape (o : TileOp) (m n : Fin 32) (k : Fin 65536) (s : State) : Res :=
  issue o true (fun d => d.tlMod o.t fun x => { x with m := m + 1, n := n + 1, k := k + 1 }) s

def execEndProgram (o : TileOp) (s : State) : Res :=
  s.run fun d => d.issueAt o true fun d => d.tlMod o.t fun x => { x with ended := true }

/-- A reserved OPC is illegal, whatever else the word holds (R88). -/
def execReservedOpc (o : TileOp) (_opc : Byte) (s : State) : Res := issue o false (fun d => d) s

/-! ### Matrix engine (R80, R89 to R92) -/

/-- Operand pairs the engine accepts (R89): 0 FP32, 1 groups of floating point, 2 MX blocks, 3 integers. -/
def mmaClass (fa fb : Nat) : Option Nat :=
  let both := fun lo hi => decide (lo ≤ fa ∧ fa ≤ hi ∧ lo ≤ fb ∧ fb ≤ hi)
  if fa = 0 ∧ fb = 0 then some 0
  else if (fa = 1 ∧ fb = 1) ∨ (fa = 2 ∧ fb = 2) ∨ both 3 7 = true then some 1
  else if both 8 10 = true ∨ (fa = 11 ∧ fb = 11) then some 2
  else if both 14 15 = true then some 3
  else none

/-- An accumulator's word and the flags raised on the way to it. -/
abbrev AccF := Nat × Flags

/-- Exact sum of the products of a group. -/
def groupSum (a b : Nat → Val) : List Nat → Val × Flags
  | [] => (.fin false 0 0, 0)
  | k :: ks =>
    let p := (a k).mul (b k)
    ks.foldl (fun (s : Val × Flags) k =>
      let p := (a k).mul (b k)
      let r := s.1.add p.1
      (r.1, s.2 ||| p.2 ||| r.2)) p

/-- One group into an FP32 accumulator; `nanScale`: an MX scale of the group is NaN (R80). -/
def accGroup (a b : Nat → Val) (nanScale : Nat → Bool) (ks : List Nat) (acc : AccF) : AccF :=
  let g := groupSum a b ks
  let r := f32Op ((f32 acc.1).add g.1)
  (r.1, acc.2 ||| g.2 ||| r.2 ||| if ks.any nanScale then fINV else 0)

/-- One group into an INT32 accumulator, saturating (R80). -/
def accInt (a b : Nat → Int) (ks : List Nat) (acc : AccF) : AccF :=
  let r := intOfInt 32 true (signed 32 acc.1 + (ks.map fun k => a k * b k).foldl (· + ·) 0)
  (r.1, acc.2 ||| r.2)

/-- The groups of 32 of K indexes. -/
def groups (k : Nat) : List (List Nat) :=
  (List.range ((k + 31) / 32)).map fun g => (List.range (min 32 (k - 32 * g))).map fun i => 32 * g + i

/-- One output element (R91). -/
def Dev.mmaElem (d : Dev) (o : TileOp) (cls i j acc : Nat) : AccF :=
  let k := (d.tl o.t).k
  let a := fun x => d.tVal o.t o.a (i * k + x)
  let b := fun x => d.tVal o.t o.b (j * k + x)
  if cls = 0 then
    (List.range k).foldl (fun (acc : AccF) x =>
      let p := (a x).mul (b x)
      let s := p.1.add (f32 acc.1)
      let r := f32Op s
      (r.1, acc.2 ||| p.2 ||| r.2)) (acc, 0)
  else if cls = 3 then
    (groups k).foldl (fun acc ks => accInt (fun x => d.tInt o.t o.a (i * k + x)) (fun x => d.tInt o.t o.b (j * k + x)) ks acc) (acc, 0)
  else
    let ns := fun x => decide (cls = 2) &&
      (d.tByte o.t (o.a.sc + (i * k + x) / 32 : Nat) = 0xFF || d.tByte o.t (o.b.sc + (j * k + x) / 32 : Nat) = 0xFF)
    (groups k).foldl (fun acc ks => accGroup a b ns ks acc) (acc, 0)

/-- Key of accumulator (row, column) of a bank. -/
def accKey (bank i j : Nat) : Nat := bank * 1024 + i * 32 + j

/-- The matrix product into a bank (R91): poison and flags with it. -/
def Dev.mma (d : Dev) (o : TileOp) (bank cls : Nat) : Dev :=
  let x := d.tl o.t
  let keep := bitOf o.mode.toNat 0
  let pa := fun i => (List.range x.k).any fun q => d.tPoisE o.t o.a (i * x.k + q)
  let pb := fun j => (List.range x.k).any fun q => d.tPoisE o.t o.b (j * x.k + q)
  let cells := (List.range x.m).flatMap fun i => (List.range x.n).map fun j => (i, j)
  let r := cells.foldl (fun (r : Tile × Flags × Bool) ij =>
    let key := accKey bank ij.1 ij.2
    let v := d.mmaElem o cls ij.1 ij.2 (if keep then (tget (fun _ => (0 : Word)) x.acc key).toNat else 0)
    let p := pa ij.1 || pb ij.2 || (keep && tget (fun _ => false) x.accPois key)
    ({ r.1 with acc := tset (fun _ => 0) r.1.acc key (BitVec.ofNat 32 v.1), accPois := tset (fun _ => false) r.1.accPois key p },
      r.2.1 ||| v.2, r.2.2 || p)) (x, 0, false)
  ((d.tlPut o.t { r.1 with accInt := putBit r.1.accInt bank (cls = 3) }).tFlags o.t r.2.1).tPoison o.t r.2.2

def execMma (o : TileOp) (bank : Fin 4) (s : State) : Res :=
  let cls := mmaClass o.fa o.fb
  let kOk := (s.dev.tl o.t).k % 32 = 0 || !(cls = some 2)
  issue o (cls.isSome && kOk) (fun d => d.mma o bank (cls.getD 0)) s

/-- STACC: the whole bank, row by row (R92). -/
def execStacc (o : TileOp) (bank : Fin 4) (s : State) : Res :=
  issue o true (fun d =>
    let x := d.tl o.t
    let vs : List SVal := (List.range 1024).map fun e =>
      let w := (tget (fun _ => (0 : Word)) x.acc (bank * 1024 + e)).toNat
      if bitOf x.accInt bank then (Val.ofInt (signed 32 w), some (signed 32 w)) else (f32 w, none)
    d.tStore o.t o.d o.nctl.toNat true vs fun e => tget (fun _ => false) x.accPois (bank * 1024 + e)) s

def execClracc (o : TileOp) (bank : Fin 4) (s : State) : Res :=
  issue o true (fun d => d.tlMod o.t fun x =>
    { x with
      acc := x.acc.filter fun p => p.1 / 1024 ≠ bank.val
      accPois := x.accPois.filter fun p => p.1 / 1024 ≠ bank.val
      accInt := putBit x.accInt bank false }) s

/-! ### Vector unit (R81, R93 to R95) -/

/-- A vector operation: element results with their flags, stored under NCTL. `p`: elements computed from poisoned data. -/
def Dev.vecStore (d : Dev) (o : TileOp) (n : Nat) (r : Nat → SVal × Flags) (p : Nat → Bool) : Dev :=
  let rs := (List.range n).map r
  let d := d.tFlags o.t (rs.foldl (fun a x => a ||| x.2) 0)
  d.tStore o.t o.d o.nctl.toNat false (rs.map (·.1)) p

/-- A floating-point operand as loaded: converted to FP32 (R81). -/
def Dev.load32 (d : Dev) (t : Nat) (o : Opnd) (i : Nat) : Val × Flags :=
  let r := toF32 (d.tVal t o i)
  (f32 r.1, r.2)

/-- An FP32 result as a stored value. -/
def sval32 (p : Nat × Flags) (g : Flags) : SVal × Flags := ((f32 p.1, none), p.2 ||| g)

/-- How many sources an operation reads. -/
def vecSrcs : VecOp → Nat
  | .abs | .neg => 1
  | .fma | .select => 3
  | _ => 2

/-- One element of the arithmetic group. -/
def vecElem (op : VecOp) (a b c : Val) (cc : Nat) : Nat × Flags :=
  let cmp := fun (h : Bool) => ((if h then Config.cmpTrue else Config.cmpFalse).toNat, (0 : Flags))
  match op with
  | .add => f32Op (a.add b)
  | .sub => f32Op (a.add b.neg)
  | .mul => f32Op (a.mul b)
  | .fma =>
    let p := a.mul b
    let q := f32Op (p.1.add c)
    (q.1, q.2 ||| p.2)
  | .min => toF32 (valMin a b)
  | .max => toF32 (valMax a b)
  | .abs => toF32 a.abs
  | .neg => toF32 a.neg
  | .lt => cmp (a.lt b && !a.eqv b)
  | .le => cmp (a.lt b || a.eqv b)
  | .eq => cmp (a.eqv b)
  | .select => toF32 (if Config.selectsA (BitVec.ofNat 32 cc) then a else b)

def execVectorArithmetic (o : TileOp) (op : VecOp) (n : Fin 65536) (s : State) : Res :=
  let k := vecSrcs op
  issue o (!fmtInt o.fa && (k < 2 || !fmtInt o.fb)) (fun d =>
    d.vecStore o (n + 1) (fun i =>
      let a := d.load32 o.t o.a i
      let b := if 2 ≤ k then d.load32 o.t o.b i else (.nan, 0)
      let c := if 3 ≤ k then d.load32 o.t o.c i else (.nan, 0)
      sval32 (vecElem op a.1 b.1 c.1 (toF32 c.1).1) (a.2 ||| b.2 ||| c.2))
      fun i => d.tPoisE o.t o.a i || (2 ≤ k && d.tPoisE o.t o.b i) || (3 ≤ k && d.tPoisE o.t o.c i)) s

def execVectorDivSqrt (o : TileOp) (sqrt : Bool) (n : Fin 65536) (s : State) : Res :=
  issue o (!fmtInt o.fa && (sqrt || !fmtInt o.fb)) (fun d =>
    d.vecStore o (n + 1) (fun i =>
      let a := d.load32 o.t o.a i
      if sqrt then sval32 (f32Op a.1.sqrt) a.2
      else
        let b := d.load32 o.t o.b i
        sval32 (f32Op (a.1.div b.1)) (a.2 ||| b.2))
      fun i => d.tPoisE o.t o.a i || (!sqrt && d.tPoisE o.t o.b i)) s

/-- The number of a transcendental operation. -/
def transNo : TransOp → Nat
  | .exp => 0 | .log => 1 | .tanh => 2 | .sigmoid => 3 | .rsqrt => 4 | .sin => 5 | .cos => 6

/-- The result of a transcendental operation, the same bits for the same input (R93); a NaN propagates. -/
def transElem (op : TransOp) (a : Val) : Nat × Flags :=
  match a with
  | .nan => toF32 .nan
  | _ =>
    let c := BitVec.ofNat 32 (toF32 a).1
    ((Config.transc (transNo op) c).toNat, (Config.transcFlags (transNo op) c).toNat)

def execVectorTranscendental (o : TileOp) (op : TransOp) (n : Fin 65536) (s : State) : Res :=
  issue o (!fmtInt o.fa) (fun d =>
    d.vecStore o (n + 1) (fun i =>
      let a := d.load32 o.t o.a i
      sval32 (transElem op a.1) a.2) (d.tPoisE o.t o.a)) s

/-- One element of the integer group (R94); `fr` is what a shift by 32 or more gives, which no rule states. -/
def intElem (op : IntOp) (a b : Int) (fr : Nat) : Int × Flags :=
  let nar := fun (sat : Bool) (i : Int) =>
    let r := intOfInt 32 sat i
    (signed 32 r.1, r.2)
  let ua := wrapInt 32 a
  let ub := wrapInt 32 b
  let sh := fun (v : Nat) => (signed 32 (if 0 ≤ b ∧ b < 32 then v else fr), (0 : Flags))
  match op with
  | .add => nar false (a + b)
  | .sub => nar false (a - b)
  | .mul => nar false (a * b)
  | .adds => nar true (a + b)
  | .subs => nar true (a - b)
  | .muls => nar true (a * b)
  | .div => if b = 0 then (0, fINV) else nar false (a.tdiv b)
  | .shl => sh (ua * 2 ^ b.toNat)
  | .shr => sh (ua / 2 ^ b.toNat)
  | .sar => sh (wrapInt 32 (a / (2 ^ b.toNat : Nat)))
  | .and => (signed 32 (ua &&& ub), 0)
  | .or => (signed 32 (ua ||| ub), 0)
  | .xor => (signed 32 (ua ^^^ ub), 0)

def execVectorInteger (o : TileOp) (op : IntOp) (n : Fin 65536) (s : State) : Res :=
  issue o (fmtInt o.fa && fmtInt o.fb) (fun d =>
    let d' := d.vecStore o (n + 1) (fun i =>
      let r := intElem op (d.tInt o.t o.a i) (d.tInt o.t o.b i) ((Config.freeWord (d.freeCtr + i)).toNat % 2 ^ 32)
      ((Val.ofInt r.1, some r.1), r.2)) fun i => d.tPoisE o.t o.a i || d.tPoisE o.t o.b i
    { d' with freeCtr := d.freeCtr + n + 1 }) s

/-- An element as a conversion's source: exact, and its integer where it is one (R75, R79). -/
def Dev.tSrc (d : Dev) (t : Nat) (o : Opnd) (i : Nat) : SVal :=
  if fmtInt o.f then (Val.ofInt (d.tInt t o i), some (d.tInt t o i)) else (d.tVal t o i, none)

def execVectorConvert (o : TileOp) (n : Fin 65536) (s : State) : Res :=
  issue o true (fun d => d.vecStore o (n + 1) (fun i => (d.tSrc o.t o.a i, 0)) (d.tPoisE o.t o.a)) s

/-- A value with flags under one rounded FP32 addition, and an INT32 addition that wraps. -/
def redAdd (x y : Val × Flags) : Val × Flags :=
  let r := f32Op (x.1.add y.1)
  (f32 r.1, x.2 ||| y.2 ||| r.2)
def redAddI (x y : Int × Flags) : Int × Flags :=
  let r := intOfInt 32 false (x.1 + y.1)
  (signed 32 r.1, x.2 ||| y.2 ||| r.2)

/-- The pairwise tree over partial sums (R95): neighbours first. -/
def pairTree {α : Type} (f : α → α → α) : Nat → List α → List α
  | 0, l => l
  | k + 1, l => pairTree f k ((List.range (l.length / 2)).filterMap fun i =>
      match (l.drop (2 * i)) with
      | x :: y :: _ => some (f x y)
      | _ => none)

/-- REDUCE SUM: lane sums from +0 in increasing element order, then the tree (R95). -/
def redSum {α : Type} (f : α → α → α) (z : α) (v : Nat → α) (n : Nat) : α :=
  ((pairTree f 6 ((List.range 64).map fun l =>
    (List.range ((n + 63 - l) / 64)).foldl (fun s q => f s (v (64 * q + l))) z)).head?).getD z

def Dev.reduceVal (d : Dev) (o : TileOp) (op : RedOp) (n : Nat) : SVal × Flags :=
  if fmtInt o.fa then
    let v := fun i => d.tInt o.t o.a i
    match op with
    | .sum =>
      let r := redSum redAddI (0, 0) (fun i => (v i, 0)) n
      ((Val.ofInt r.1, some r.1), r.2)
    | .max =>
      let r := (List.range n).foldl (fun m i => max m (v i)) (v 0)
      ((Val.ofInt r, some r), 0)
    | .min =>
      let r := (List.range n).foldl (fun m i => min m (v i)) (v 0)
      ((Val.ofInt r, some r), 0)
  else
    let v := fun i => d.load32 o.t o.a i
    match op with
    | .sum =>
      let r := redSum redAdd (.fin false 0 0, 0) v n
      ((r.1, none), r.2)
    | .max =>
      let r := (List.range n).foldl (fun (m : Val × Flags) i => (valMax m.1 (v i).1, m.2 ||| (v i).2)) (v 0)
      ((r.1, none), r.2)
    | .min =>
      let r := (List.range n).foldl (fun (m : Val × Flags) i => (valMin m.1 (v i).1, m.2 ||| (v i).2)) (v 0)
      ((r.1, none), r.2)

def execReduce (o : TileOp) (op : RedOp) (n : Fin 65536) (s : State) : Res :=
  issue o true (fun d => d.vecStore o 1 (fun _ => d.reduceVal o op (n + 1)) fun _ => (List.range (n + 1)).any (d.tPoisE o.t o.a)) s

/-- The element a gather loads; one before the SRAM is a free value. -/
def Dev.gatherVal (d : Dev) (o : TileOp) (e : Nat) : SVal :=
  let i := d.tInt o.t o.b e
  if 0 ≤ i then d.tSrc o.t o.a i.toNat
  else
    let c := (Config.freeWord (d.freeCtr + e)).toNat
    if fmtInt o.fa then (Val.ofInt (signed (fmtBits o.fa) c), some (signed (fmtBits o.fa) c)) else (fmtVal o.fa o.va c, none)

def execGather (o : TileOp) (n : Fin 65536) (s : State) : Res :=
  issue o (fmtInt o.fb) (fun d =>
    let d' := d.vecStore o (n + 1) (fun e => (d.gatherVal o e, 0)) fun e =>
      d.tPoisE o.t o.b e || (0 ≤ d.tInt o.t o.b e && d.tPoisE o.t o.a (d.tInt o.t o.b e).toNat)
    { d' with freeCtr := d.freeCtr + n + 1 }) s

/-- Store one element code at index `i` of the destination, as far as the SRAM reaches. -/
def Dev.tPutElem (d : Dev) (t : Nat) (o : Opnd) (i : Int) (c : Nat) (p : Bool) : Dev :=
  let w := fmtBits o.f
  let bit : Int := (w : Int) * i
  let a : Int := (o.a : Int) + bit / 8
  let lo := (bit % 8).toNat
  let n := (lo + w + 7) / 8
  if 0 ≤ a ∧ a + (n : Int) ≤ (sramBytes : Int) then
    let d := d.tPut t a.toNat (le n (putBits (leVal (d.tBytes t a n)) lo w c)) false
    if p then (d.setPoison (.tile t) a.toNat true).setPoison (.tile t) (a.toNat + n - 1) true else d
  else d

def execScatter (o : TileOp) (n : Fin 65536) (s : State) : Res :=
  issue o (fmtInt o.fb && !fmtMX o.fd) (fun d =>
    let g := (d.tl o.t).draws (o.nctl.toNat % 4 = 2) false (n + 1)
    let vs := (List.range (n + 1)).map fun e => d.tSrc o.t o.a e
    let cs := storeCodes o.fd (nctlRnd o.nctl.toNat) vs g.1
    let bad := fun e => d.tPoisE o.t o.a e || d.tPoisE o.t o.b e
    let d0 := (d.tlPut o.t g.2).tFlags o.t cs.2
    ((List.range (n + 1)).foldl (fun d' e => d'.tPutElem o.t o.d (d.tInt o.t o.b e) (cs.1.getD e 0) (bad e)) d0).tPoison o.t
      ((List.range (n + 1)).any bad)) s

/-! ### Tree engine (R96, R97) -/

/-- Walk a tree from node `i`: the leaf-table index reached within the depth, and whether a word read is poisoned. -/
def Dev.treeWalk (d : Dev) (t nodes feats : Nat) : Nat → Nat → Option Nat × Bool
  | 0, _ => (none, false)
  | k + 1, i =>
    let w := leVal (d.tBytes t (nodes + 8 * i : Nat) 8)
    let p := nodes + 8 * i < sramBytes && d.poisonIn (.tile t) (nodes + 8 * i) 8
    let next := bitsOf w 0 20
    if bitOf w 21 then (some next, p)
    else
      let fa := feats + 4 * bitsOf w 22 10
      let x := f32 (leVal (d.tBytes t fa 4))
      let th := f32 (w / 2 ^ 32)
      let left := match x with | .nan => bitOf w 20 | _ => x.lt th && !x.eqv th
      let r := Dev.treeWalk d t nodes feats k (if left then next else next + 1)
      (r.1, r.2 || p || (fa < sramBytes && d.poisonIn (.tile t) fa 4))

/-- Output `q` of the ensemble on the features at `feats`: base score plus the leaves of its trees in order. -/
def Dev.treeOut (d : Dev) (t : Nat) (e : Ensemble) (feats q : Nat) : (Val × Flags) × Bool :=
  (e.trees.filter fun r => r.2 = q).foldl (fun (s : (Val × Flags) × Bool) r =>
    let w := d.treeWalk t e.nodes feats 17 r.1
    let leaf := match w.1 with
      | some l => (f32 (leVal (d.tBytes t (e.leaves + 4 * l : Nat) 4)), e.leaves + 4 * l < sramBytes && d.poisonIn (.tile t) (e.leaves + 4 * l) 4)
      | none => (f32 ((Config.freeWord (d.freeCtr + r.1)).toNat % 2 ^ 32), false)
    (redAdd s.1 (leaf.1, 0), s.2 || w.2 || leaf.2)) ((f32 e.base, 0), false)

/-- Outputs an ensemble gives: up to its highest output index. -/
def Ensemble.outs (e : Ensemble) : Nat := e.trees.foldl (fun m r => max m (r.2 + 1)) 0

def execTreebatch (o : TileOp) (v : BitVec 16) (nf : Fin 1025) (s : State) : Res :=
  issue o (o.fa = 0) (fun d =>
    match (d.tl o.t).ens with
    | none => d
    | some e =>
      let no := e.outs
      let r := (List.range (v.toNat * no)).map fun i => d.treeOut o.t e (o.srcA.toNat + 4 * nf.val * (i / no)) (i % no)
      let d' := d.vecStore o (v.toNat * no) (fun i => match (r.drop i).head? with | some x => ((x.1.1, none), x.1.2) | none => ((.nan, none), 0))
        fun i => match (r.drop i).head? with | some x => x.2 | none => false
      { d' with freeCtr := d.freeCtr + 2 ^ 20 }) s

def execTreecfg (o : TileOp) (cfg : TreeCfg) (s : State) : Res :=
  issue o true (fun d => d.tlMod o.t fun x =>
    { x with ens := some { nodes := cfg.nodes.toNat, leaves := cfg.leaves.toNat, base := cfg.base.toNat,
                           trees := cfg.trees.map fun r => (r.1.toNat, r.2.val) } }) s

/-! ### DMA engine (R98, R99, R101) -/

/-- Move one row, both places being allowed. -/
def Dev.dmaMove (d : Dev) (t n da sa len : Nat) : Dev :=
  match d.dmaPlace t n sa len, d.dmaPlace t n da len with
  | some (sm, so), some (dm, o) => (d.copyBytes sm so dm o len).tPoison t (len ≠ 0 && d.poisonIn sm so len)
  | _, _ => d

/-- A DMA copy of `rows` rows: every row inside the windows, or none is moved and the invocation ends with ADDR (R99). -/
def Dev.dmaRows (d : Dev) (o : TileOp) (da sa len rows dstr sstr : Nat) : Dev :=
  match d.slotOf o.t with
  | none => d
  | some n =>
    if (List.range rows).all fun r => (d.dmaPlace o.t n (sa + r * sstr) len).isSome && (d.dmaPlace o.t n (da + r * dstr) len).isSome then
      ((List.range rows).foldl (fun d r => d.dmaMove o.t n (da + r * dstr) (sa + r * sstr) len) d).pcNext o.t
    else d.tileAbort o.t 1

def execCopy (o : TileOp) (da sa : BitVec 35) (len : Word) (s : State) : Res :=
  s.run fun d => d.issueAt o true fun d => d.dmaRows o da.toNat sa.toNat len.toNat 1 0 0

def execCopy2d (o : TileOp) (da sa : BitVec 35) (len : Word) (rows : BitVec 16) (dstr sstr : Word) (s : State) : Res :=
  s.run fun d => d.issueAt o true fun d => d.dmaRows o da.toNat sa.toNat len.toNat rows.toNat dstr.toNat sstr.toNat

/-- SIGNAL to a logical tile of the slot; one the slot does not have is an address outside it (R99). -/
def execSignal (o : TileOp) (l : Fin 64) (s : State) : Res :=
  s.run fun d => d.issueAt o true fun d =>
    match (d.slotOf o.t).bind fun n => d.logical n l with
    | some u => (d.tlMod u fun x => { x with sig := x.sig + 1 }).pcNext o.t
    | none => d.tileAbort o.t 1

/-- WAITSIG: goes on once a signal is there, and takes it. -/
def execWaitsig (o : TileOp) (s : State) : Res :=
  s.run fun d => d.issueAt o true fun d =>
    if (d.tl o.t).sig = 0 then d else (d.tlMod o.t fun x => { x with sig := x.sig - 1 }).pcNext o.t

end Sys2Proof.Machine
end

