-- ==== Sys2Proof/Machine/Slots.lean ====
section
/-! DEFINITION. Slots and control cores (spec/03): loads, triggers, commits, watchdogs, supervision, self-tests, row repair,
reserve-tile takeover, the host's view of a tile. -/

namespace Sys2Proof.Machine

/-! ### Host view of a tile (R71, R102) -/

/-- The tile-local address an aperture access names, when the aperture shows it and the access is aligned (R102). -/
def Dev.aperture (d : Dev) (t : Nat) (off : Nat) (w : Width) : Option Nat :=
  if d.is F.TILE_CTRL_APERTURE_EN t ∧ d.rd F.TILE_APERTURE_PAGE_PAGE t < 48 ∧ off % widthBytes w = 0 then
    some (d.rd F.TILE_APERTURE_PAGE_PAGE t * 32768 + off)
  else none

def execTileApertureWrite (t : Fin 72) (off : BitVec 15) (w : Width) (v : DWord) (s : State) : Res :=
  s.run fun d =>
    if ¬ d.arrOn then d
    else match d.aperture t off.toNat w with
      | none => d
      | some a =>
        if d.tst t = tsLoading ∨ d.tst t = tsLoaded ∨ d.tst t = tsRunning then d.wr F.TILE_ERR_APERTURE t 1
        else d.stn (.tile t) a (le (widthBytes w) v.toNat)

def execTileApertureRead (t : Fin 72) (off : BitVec 15) (w : Width) (s : State) : Res :=
  s.run fun d =>
    if ¬ d.arrOn then d
    else match d.aperture t off.toNat w with
      | none => d.emit (.data 0 false)
      | some a =>
        let p := d.poisoned (.tile t) a
        let d := d.emit (.data (BitVec.ofNat 64 (d.ld (.tile t) a (widthBytes w))) p)
        if p then d.wr F.TILE_ERR_APERTURE t 1 else d

def execTileSrSeedWrite (t : Fin 72) (seed : Word) (s : State) : Res :=
  s.run fun d => if d.arrOn ∧ d.tst t ≠ tsRunning then d.reseed t seed.toNat else d

/-! ### Loads (R111 to R117) -/

/-- The oldest waiting load request is carried out. -/
def Dev.loadNext (d : Dev) : Dev :=
  match d.arr.loads with
  | [] => d
  | q :: rest =>
    let d' : Dev := { d with arr.loads := rest }
    (d'.loadsShow.loadRun q).loadsShow

def execLoaderLoad (s : State) : Res := s.run fun d => if d.arrOn ∧ d.coreUp corePmc = true then d.loadNext else d

def execSlotCommit (n : Fin 32) (s : State) : Res := s.run fun d => if d.arrOn then d.slotCommit n else d

def execSlotCtrlRetire (n : Fin 32) (s : State) : Res := s.run fun d => if d.arrOn then (d.roleLeave n).slotRetire n else d

/-! ### Triggers (R118) -/

def execSlotInvoke (n : Fin 32) (s : State) : Res := s.run fun d => if d.arrOn then d.trigger n else d

/-- The instant of the latest tick at or before now. -/
def Dev.lastTick (d : Dev) (n : Nat) : Option Nat :=
  let p := d.rd F.SLOT_PERIOD_PERIOD_NS n
  let st := d.rd64 F.SLOT_START_LO n
  if d.is F.SLOT_CTRL_TIMER_EN n ∧ p ≠ 0 ∧ st ≤ d.gts then some (st + (d.gts - st) / p * p) else none

/-- A timer tick not yet taken: an invocation starts, or the tick is an overrun (R118, R389). -/
def Dev.timerTick (d : Dev) (n : Nat) : Dev :=
  match d.lastTick n with
  | none => d
  | some t =>
    let x := d.sl n
    if x.tick = some t then d
    else
      let d := d.slMod n fun x => { x with tick := some t }
      if d.sst n = ssReady ∧ d.slotUp n = true then d.invStart n t false
      else if d.sst n = ssReady ∨ d.sst n = ssRunning ∨ d.sst n = ssRebuilding then
        if d.sst n = ssRunning ∧ x.trig = t ∧ x.explicit then d else d.inc F.SLOT_COUNTS_OVERRUN n
      else d

def execSlotTimerTick (n : Fin 32) (s : State) : Res := s.run fun d => if d.arrOn then d.timerTick n else d

/-! ### Commit and watchdog (R110, R119, R120, R128) -/

/-- Bytes of an output's data: its elements, and its scales in an MX format. -/
def IoEnt.bytes (e : IoEnt) : Nat := elemBytes e.fmt e.elements + if fmtMX e.fmt then (e.elements + 31) / 32 else 0

/-- The commit header of an output (R118). -/
def Dev.commitHeader (d : Dev) (n seq status flags : Nat) : List Byte :=
  le 8 seq ++ le 8 (d.sl n).trig ++ le 8 d.gts ++ le 2 status ++ le 1 (d.rd F.SLOT_STATE_SET n) ++ le 1 flags ++ zeros 4

/-- One output's buffer written, its header after its data. The buffer of invocation s is buffer s mod 2. -/
def Dev.commitOut (d : Dev) (n seq status flags : Nat) (e : IoEnt) (data : List Byte) : Dev :=
  let at' := (d.sl n).com.1 + e.off + seq % 2 * (e.bytes + 32)
  (d.stn .commons (at' + 32) (fitBytes e.bytes data) (bitOf status 1)).stn .commons at' (d.commitHeader n seq status flags)

/-- Every tile's persistent state goes to its checkpoint (R120). -/
def Dev.checkpoint (d : Dev) (n : Nat) : Dev :=
  let x := d.sl n
  (d.slotTiles n).foldl (fun d t =>
    d.copyBytes (.tile t) 0x170000 .hbm (x.img + d.rd F.TILE_STATE_LOGICAL t * (x.sram + x.st) + x.sram) x.st) d

/-- The slot's invocation runs (R117: one being retired finishes first). -/
def Dev.slotBusy (d : Dev) (n : Nat) : Bool := d.sst n = ssRunning || d.sst n = ssRetiring

/-- Commit the running invocation (R110, R119, R120, R126). -/
def Dev.invCommit (d : Dev) (n : Nat) (outs : List (List Byte)) : Dev :=
  let x := d.sl n
  let ts := d.slotTiles n
  let late := match lcBound (d.rd F.SLOT_STATE_LC n) with | some b => decide (x.trig + b < d.gts) | none => false
  let status := maskOf 4 fun k => match k with
    | 0 => late
    | 1 => ts.any fun t => (d.tl t).pois
    | 2 => x.reseeded
    | _ => false
  let flags := ts.foldl (fun f t => f ||| (d.tl t).fl) 0
  let seq := x.seq + 1
  let d := ((x.outs.zip (outs ++ List.replicate x.outs.length [])).foldl (fun d p => d.commitOut n seq status flags p.1 p.2) d)
  let d := ((d.slMod n fun x => { x with seq := seq }).wr F.SLOT_SEQ_SEQ n seq).checkpoint n
  let d := if late then d.inc F.SLOT_COUNTS_LATE n else d
  ((d.tilesStop n).oroCommit n status flags outs).invEnd n

/-- A completed invocation commits: its tiles have all ended. -/
def execInvocationCommit (n : Fin 32) (outs : List (List Byte)) (s : State) : Res :=
  s.run fun d =>
    if d.arrOn ∧ d.slotBusy n = true ∧ d.slotUp n = true ∧ (d.slotTiles n).all (fun t => (d.tl t).ended) = true then d.invCommit n outs
    else d

/-- An invocation still running at its watchdog is aborted (R110). -/
def execInvocationWatchdog (n : Fin 32) (s : State) : Res :=
  s.run fun d =>
    if d.arrOn ∧ d.slotBusy n = true ∧ d.slotUp n = true ∧ (d.sl n).trig + lcWatchdog (d.rd F.SLOT_STATE_LC n) ≤ d.gts then
      ((d.slotTiles n).foldl (fun d t => d.wr F.TILE_ERR_WDOG t 1) d).invAbort n (((d.slotTiles n).head?).getD 0) 2
    else d

/-! ### Reserve-tile takeover (R124 to R127) -/

/-- TILES_ACTIVE falls by `k` in both registers (R85). -/
def Dev.tilesLost (d : Dev) (k : Nat) : Dev :=
  (d.wr F.GLB_CONFIG_TILES_ACTIVE 0 (d.rd F.GLB_CONFIG_TILES_ACTIVE - k)).wr F.ARR_STATUS_TILES_ACTIVE 0 (d.rd F.ARR_STATUS_TILES_ACTIVE - k)

/-- A reserve that fails its self-test (R122). -/
def Dev.reserveFail (d : Dev) (c : Nat) : Dev :=
  let t := 9 * c + 8
  ((d.wrBit F.ARR_STATUS_RESERVE_AVAIL 0 c false).wrw (F.TILE_STATE_STATE.addr t) tsFailed).wr F.TILE_ERR_BIST_FAIL t 1 |>.ffr causeReserveBist c 0

/-- The failed tile leaves its slot, is marked FAILED and powered down. -/
def Dev.tileDead (d : Dev) (t : Nat) : Dev := d.tileLeave t tsFailed

/-- NO_RESERVE of the slots with a tile in cluster `c`. -/
def Dev.noReserve (d : Dev) (c : Nat) : Dev :=
  (List.range 32).foldl (fun d n => if (d.slotTiles n).any (fun t => t / 9 = c) then d.wr F.SLOT_STATE_NO_RESERVE n 1 else d) d

/-- Persistent state of every tile of the slot returns to the checkpoint of the last commit (R125). -/
def Dev.restore (d : Dev) (n : Nat) : Dev :=
  let x := d.sl n
  (d.slotTiles n).foldl (fun d t =>
    d.copyBytes .hbm (x.img + d.rd F.TILE_STATE_LOGICAL t * (x.sram + x.st) + x.sram) (.tile t) 0x170000 x.st) d

/-- The slot returns to READY after a loss; its aborted invocation runs again with the inputs of its trigger, or a pending
trigger starts (R124 step 6, R125). -/
def Dev.slotResume (d : Dev) (n : Nat) (again : Bool) : Dev :=
  let x := d.sl n
  let d := d.wr F.SLOT_STATE_STATE n ssReady
  if again then ((d.restore n).invStart n x.trig x.explicit).slMod n fun x => { x with again := true }
  else if x.pend then (d.slMod n fun x => { x with pend := false }).invStart n x.pendAt true
  else d

/-- Steps 3 to 5: the reserve of cluster `c` takes the place of tile `t` (R124, R126). -/
def Dev.reserveTake (d : Dev) (c t : Nat) : Dev :=
  let r := 9 * c + 8
  let word := d.rdw (F.TILE_STATE_STATE.addr t)
  let seed := d.rd F.TILE_SR_SEED_SEED t
  let tag := d.rd F.TILE_TAG_TAG t
  let so := d.slotOf t
  let l := d.rd F.TILE_STATE_LOGICAL t
  let d := ((d.wrBit F.ARR_STATUS_RESERVE_AVAIL 0 c false).tileClear r).tileDead t
  let d := match so with
    | none => d.wrw (F.TILE_STATE_STATE.addr r) tsIdle
    | some n =>
      let x := d.sl n
      let base := x.img + l * (x.sram + x.st)
      let d := ((d.copyBytes .hbm base (.tile r) 0 x.sram).copyBytes .hbm (base + x.sram) (.tile r) 0x170000 x.st)
      ((d.wrw (F.TILE_STATE_STATE.addr r) (putBits word 0 4 tsLoaded)).wr F.TILE_TAG_TAG r tag).slMod n fun x => { x with reseeded := true }
  let d := (d.reseed r seed).inc F.ARR_TAKEOVER_COUNT
  ((d.wr F.ARR_TAKEOVER_LAST_RESERVE 0 r).noReserve c).trainRetry

/-- The slot waits to be placed again (R127). -/
def Dev.replacing (d : Dev) (n : Nat) : Bool := d.arr.loads.any fun q => q.replaces = some n

/-- A tile fault (R124, R127): the invocation of the tile's slot is aborted; the reserve takes over, when it is there and
passes its self-test; otherwise the slot is placed again. -/
def Dev.tileFail (d : Dev) (t : Nat) (pass : Bool) : Dev :=
  let c := t / 9
  let so := d.slotOf t
  let retiring := match so with | some n => decide (d.sst n = ssRetiring) | none => false
  let running := match so with | some n => decide (d.sst n = ssRunning) | none => false
  let waits := match so with | some n => decide (d.sst n = ssFailed) || d.replacing n | none => false
  let d := match so with
    | some n => if running then (d.tilesStop n).wr F.SLOT_STATE_STATE n ssRebuilding else if retiring then d.tilesStop n else d
    | none => d
  let d := (if d.reserveOk c ∧ !pass then d.reserveFail c else d).wr F.ARR_TAKEOVER_LAST_FAILED 0 t
  if d.reserveOk c then
    let d := d.reserveTake c t
    match so with
    | some n =>
      let again := running || (d.sl n).rerun
      if retiring then d.slotFree n
      else if d.sst n = ssBuilding ∨ waits then d
      else if d.slotUp n then (d.slMod n fun x => { x with rerun := false }).slotResume n again
      else d.slMod n fun x => { x with rerun := again }
    | none => d
  else
    let d := (d.tileDead t).tilesLost 1
    match so with
    | some n =>
      if retiring then d.slotFree n
      else if waits then d
      else
        let x := d.sl n
        let q : LoadReq :=
          { entry := none, pkg := x.pkg, role := 0, maxLc := x.maxLc, baseId := [], denied := false, owner := x.owner, id := none,
            replaces := some n, derived := false }
        let d' : Dev := { d with arr.loads := d.arr.loads ++ [q] }
        ((d'.wr F.SLOT_STATE_STATE n ssRebuilding).loadsShow).event 7 n c
    | none => d

/-- A tile that can fault: in service and not already fenced or failed. -/
def Dev.tileServes (d : Dev) (t : Nat) : Bool := d.tst t ≠ tsOff && d.tst t ≠ tsFailed && d.tst t ≠ tsFenced && d.tst t ≠ tsBist

/-- A tile fault is reported: a first-failure record; the CCC, once it is up, runs the takeover (R124, R389). -/
def Dev.tileFault (d : Dev) (t : Nat) (kind : Nat) (pass : Bool) : Dev :=
  if ¬ (d.arrOn ∧ d.tileServes t = true) then d
  else
    let d := d.ffr causeTileFault t kind
    if d.coreUp (3 + t / 9) then d.tileFail t pass
    else { d with arr.faults := d.arr.faults ++ [(t, pass)] }

def execTileFault (t : Fin 72) (kind : TileFaultKind) (pass : Bool) (s : State) : Res :=
  s.run fun d =>
    match kind with
    | .fatal => (if d.arrOn ∧ d.tileServes t = true then d.wr F.TILE_ERR_UE_FATAL t 1 else d).tileFault t 0 pass
    | .dma => d.tileFault t 1 pass
    | .parity => d.tileFault t 2 pass

def execInjectFatal (t : Fin 72) (pass : Bool) (s : State) : Res :=
  s.run fun d => (if d.arrOn ∧ d.tileServes t = true then d.wr F.TILE_ERR_UE_FATAL t 1 else d).tileFault t 0 pass

/-! ### Supervision (R121 to R123, R561) -/

def execTileHeartbeatAdvance (t : Fin 72) (s : State) : Res :=
  s.run fun d => if d.arrOn ∧ d.tst t = tsRunning then d.tlMod t fun x => { x with hb := x.hb + 1 } else d

/-- A check of one tile: whether it is a heartbeat fault, and what the next check compares with (R121). -/
def Dev.hbCheck (d : Dev) (t : Nat) : Bool × Dev :=
  let x := d.tl t
  if d.tst t = tsRunning then
    if x.hbSeen = some x.hb then (true, d.tlMod t fun x => { x with hbSeen := none })
    else (false, d.tlMod t fun x => { x with hbSeen := some x.hb })
  else (false, d.tlMod t fun x => { x with hbSeen := none })

/-- CCC_c checks its cluster. Tiles that fail in one check fault in rising index (R127). -/
def execCccHeartbeatCheck (c : Fin 8) (pass : Bool) (s : State) : Res :=
  s.run fun d =>
    if ¬ (d.arrOn ∧ d.coreUp (3 + c) = true) then d
    else
      let r := (List.range 9).foldl (fun (r : List Nat × Dev) k =>
        let q := r.2.hbCheck (9 * c + k)
        (if q.1 then r.1 ++ [9 * c.val + k] else r.1, q.2)) ([], d)
      r.1.foldl (fun d t => (d.wr F.TILE_ERR_HEARTBEAT t 1).tileFault t 3 pass) r.2

/-- 24 h in ns. -/
abbrev dayNs : Nat := 86400000000000

def execReserveSelfTest (c : Fin 8) (pass : Bool) (s : State) : Res :=
  s.run fun d =>
    if d.arrOn ∧ d.coreUp (3 + c) = true ∧ d.reserveOk c = true ∧ tget (fun _ => 0) d.arr.bistAt c.val + dayNs ≤ d.aont then
      let d' : Dev := { d with arr.bistAt := tset (fun _ => 0) d.arr.bistAt c.val d.aont }
      if pass then d' else d'.reserveFail c
    else d

/-- A row with 16 corrected errors within 24 h is remapped while the tile is idle or between invocations (R123). -/
def execTileRowRemap (t : Fin 72) (row : BitVec 20) (s : State) : Res :=
  s.run fun d =>
    let x := d.tl t
    let hits := (tget (fun _ => []) x.rowCe row.toNat).filter fun a => d.aont < a + dayNs
    let idle : Bool := d.tst t = tsIdle || (d.tst t = tsLoaded && match d.slotOf t with | some n => decide (d.sst n = ssReady) | none => true)
    if d.arrOn ∧ d.coreUp (3 + t / 9) = true ∧ idle = true ∧ 16 ≤ hits.length ∧ d.rd F.TILE_REPAIR_ROWS_USED t < 32 then
      ((d.tlMod t fun x => { x with rowCe := tset (fun _ => []) x.rowCe row.toNat [] }).incW F.TILE_REPAIR_ROWS_USED t).ffr causeRowRepair t row.toNat
    else d

/-- At the boot after a cold reset each CCC tests its tiles: `good` names those that pass (R561). A working tile that fails is
a tile fault of no slot; the reserve is judged under R122. -/
def execBootTileSelfTest (c : Fin 8) (good : BitVec 9) (s : State) : Res :=
  s.run fun d =>
    if ¬ (d.arrOn ∧ d.coreUp (3 + c) = true) then d
    else
      let d := if d.reserveOk c ∧ !bitOf good.toNat 8 then d.reserveFail c else d
      (List.range 8).foldl (fun d k =>
        let t := 9 * c.val + k
        if bitOf good.toNat k ∨ (d.slotOf t).isSome ∨ ¬ d.tileServes t = true then d else d.tileFault t 4 true) d

end Sys2Proof.Machine
end

