-- ==== Sys2Proof/Machine/Orotha.lean ====
section
/-! DEFINITION. Orotha (spec/08): telemetry frames, policy inputs, the replay buffer, candidates, the gate, promotion and
rollback. -/

namespace Sys2Proof.Machine

/-! ### Telemetry frames (R288 to R291) -/

/-- ORO_CTRL.TLM_EN changes: every paired accelerator is told. -/
def Dev.tlmEn (d : Dev) (on : Bool) : Dev :=
  if ¬ d.sysOn ∨ d.is F.ORO_CTRL_TLM_EN = on then d
  else (d.wr F.ORO_CTRL_TLM_EN 0 on.toNat).forAcc fun d a => if d.paired a then d.tlmCtrl a on else d

def execTlmEnWrite (on : Bool) (s : State) : Res := s.run (·.tlmEn on)

/-- The frame a TLM flit that takes effect now is accepted for, if any (R290): ended, its window not past, its number equal. -/
def Dev.tlmFrame (d : Dev) (fr : Nat) : Option Nat :=
  let k := frameOf d.gts
  [k, k - 1].find? fun j => j % 2 ^ 32 = fr && d.gts ≤ (j + 1) * 10000 + d.tlmWindow

/-- Accepted flits that no frame awaits any more are dropped. -/
def Dev.tlmPurge (d : Dev) : Dev :=
  let lo := if d.is F.ORO_CTRL_TLM_EN then min d.pwr.frame d.oro.nextRec else d.pwr.frame
  { d with oro.tlm := d.oro.tlm.filter fun p => lo ≤ p.1 / 8 }

/-- The telemetry of frame `k` from accelerator `a`. -/
def Dev.tlmOf (d : Dev) (k a : Nat) : Option Payload := tget (fun _ => none) d.oro.tlm (8 * k + a)

def execTlm (a : Fin 8) (p : Payload) (s : State) : Res :=
  s.run fun d =>
    if ¬ d.sysOn then d
    else
      let d := d.takeRx a vcMgmt 0x10 p
      match d.tlmFrame (pbits p 96 32) with
      | some k =>
        if (d.tlmOf k a).isSome then d.inc F.ORO_TLM_MISS_COUNT
        else { d.tlmPurge with oro.tlm := tset (fun _ => none) d.tlmPurge.oro.tlm (8 * k + a.val) (some p) }
      | none => d.inc F.ORO_TLM_MISS_COUNT

/-- Bytes replaced at an offset. -/
def patch (l : List Byte) (off : Nat) (b : List Byte) : List Byte := l.take off ++ b ++ l.drop (off + b.length)

/-- A frame's record with its accepted telemetry (R291). -/
def Dev.recordOf (d : Dev) (k : Nat) (rc : List Byte) : List Byte :=
  accs8.foldl (fun r a =>
    match d.tlmOf k a with
    | some p => patch (patch r (32 + 32 * a) (le 16 p.toNat)) (32 + 32 * a + 0x18) (le 1 (pf r (32 + 32 * a + 0x18) 1 ||| 1))
    | none => r) rc

/-- Blocks the replay buffer holds (R300). -/
abbrev blockBytes : Nat := 47232
def Dev.replayBlocks (d : Dev) : Nat := d.oro.replayMib * 0x100000 / blockBytes

/-- A record joins the replay block being written (R300). -/
def Dev.blockAdd (d : Dev) (k : Nat) (rc : List Byte) : Dev :=
  match d.oro.blk with
  | some (i, first, n) =>
    if first ≤ k ∧ k < first + 164 then
      let d := d.stn .hbm (d.replayBase + i * blockBytes + 288 * (k - first)) rc
      if k = first + 163 then { d with oro.blk := none, oro.blkNext := (i + 1) % max 1 d.replayBlocks }
      else { d with oro.blk := some (i, first, n + 1) }
    else d
  | none => d

/-- The oldest frame whose acceptance window is closed is recorded (R290, R291). -/
def Dev.recordWrite (d : Dev) : Dev :=
  let d := d.frameRoll
  match d.oro.closed with
  | [] => d
  | (k, rc) :: rest =>
    if d.gts < (k + 1) * 10000 + d.tlmWindow then d
    else
      let rc := d.recordOf k rc
      let miss := (accs8.filter fun a => d.paired a && (d.tlmOf k a).isNone).length
      let d := d.inc F.ORO_TLM_MISS_COUNT 0 miss
      let d' : Dev := { d with oro.closed := rest, oro.nextRec := k + 1 }
      (((d'.stn .commons (0x80000 + 288 * (k % 128)) rc).blockAdd k rc).horizonAdd k rc).tlmPurge

def execFrameRecordWrite (s : State) : Res := s.run fun d => if d.sysOn then d.recordWrite else d

/-! ### Policy inputs and the replay buffer (R294, R300) -/

/-- The 64 records before tick `m` go into the FRAMES input of the slot in role `r`. -/
def Dev.inputCopy (d : Dev) (m r : Nat) : Dev :=
  match d.roleSlot r with
  | none => d
  | some n =>
    match (d.sl n).ins with
    | e :: _ =>
      (List.range 64).foldl (fun d i =>
        d.copyBytes .commons (0x80000 + 288 * ((100 * m - 64 + i) % 128)) .commons ((d.sl n).com.1 + e.off + 288 * i) 288) d
    | [] => d

def execPolicyInputCopy (s : State) : Res :=
  s.run fun d =>
    let m := d.gts / 1000000
    if d.sysOn ∧ d.oro.copied ≤ m ∧ 1 ≤ m ∧ 100 * m ≤ d.pwr.frameNow ∧ d.oro.closed.all (fun p => decide (100 * m ≤ p.1)) = true then
      { [rlActive, rlShadow, rlRetained].foldl (fun d r => d.inputCopy m r) d with oro.copied := m + 1 }
    else d

/-- SAMPLE_MS boundary: a replay block starts unless a frame of it lies in a held-out segment. -/
def execReplayBlockStart (s : State) : Res :=
  s.run fun d =>
    let p := 1000000 * max 2 (d.rd F.ORO_FRAME_CFG_SAMPLE_MS)
    let b := d.gts / p
    if ¬ (d.sysOn ∧ d.is F.ORO_CTRL_TLM_EN = true ∧ d.oro.blkBoundary ≤ b * p) then d
    else
      let first := b * p / 10000
      let held := d.segHeld (segOf first) || d.segHeld (segOf (first + 163))
      { d with
        oro.blkBoundary := b * p + 1
        oro.blk := if held then none else some (d.oro.blkNext, first, 0) }

/-! ### Derived packages (R303, R304) -/

/-- The weights of the native set replaced section by section, each section's CRC with them. -/
def replaceWeights (b : List Byte) (so : Nat) (w : List Byte) : List (Nat × Sec) → List Byte
  | [] => b
  | (i, x) :: rest =>
    let data := w.take x.size
    replaceWeights (patch (patch b x.off data) (so + 24 * i + 16) (le 4 (crc32c data))) so (w.drop x.size) rest

/-- The derived package of base `b` with weights `w`. -/
def derivedPkg (b : List Byte) (w : List Byte) : List Byte :=
  let p := pkgRead b
  let ws := (p.secs.mapIdx fun i x => (i, x)).filter fun q => q.2.set = 0 && q.2.ty = 2
  let body := (replaceWeights b (pf b 0x10 4) w ws).take (b.length - 48)
  body ++ le 48 (Config.sha384 body).toNat

/-- The candidate's package, when it can be built: its base is the ACTIVE policy, its tag names the native set, its weights are
whole (R303). -/
def Dev.derive (d : Dev) (c : Nat × Nat × Nat) : Option (List Byte) :=
  match d.roleSlot rlActive, d.roleSlot rlTrain with
  | some a, some t =>
    let b := (d.sl a).pkg
    let p := pkgRead b
    let total := ((p.secs.filter fun x => x.set = 0 && x.ty = 2).map (·.size)).foldl (· + ·) 0
    match (d.sl t).hwin, p.sets with
    | w :: _, nat :: _ =>
      let data := d.ldn .hbm w.1 c.2.1
      if p.modelId = d.oro.trainBase ∧ nat.tag = c.1 ∧ c.2.1 = total ∧ c.2.1 ≤ w.2 ∧ crc32c data = c.2.2 then some (derivedPkg b data)
      else none
    | _, _ => none
  | _, _ => none

/-- The native set fits, resident. -/
def Dev.fitNative (d : Dev) (p : Pkg) : Bool :=
  match d.fit p 1 with
  | some f => f.c.set.idx = 0 && !f.c.streamed
  | none => false

/-- The array as it would be without the slot in role `r`. -/
def Dev.without (d : Dev) (r : Nat) : Dev :=
  match d.roleSlot r with
  | some n => d.slotFree n
  | none => d

/-- The load of a derived package. -/
def derivedReq (b : List Byte) : LoadReq :=
  { entry := none, pkg := b, role := rlShadow, maxLc := 1, baseId := [], denied := false, owner := 3, id := none, replaces := none, derived := true }

/-- PMC loads the candidate as SHADOW, or defers it (R304, R312). -/
def Dev.shadowLoad (d : Dev) (b : List Byte) : Dev :=
  let p := pkgRead b
  let go := fun (d : Dev) => ({ d with oro.cand := none }).loadRun (derivedReq b)
  let w1 := d.without rlShadow
  let w2 := w1.without rlTrain
  if d.fitNative p then go d
  else if w1.fitNative p then
    let d := d.roleRetire rlShadow
    if d.fitNative p then go d else d
  else if (d.fit p 1).isSome ∨ (w1.fit p 1).isSome ∨ (w2.fit p 1).isSome ∧ ¬ w2.fitNative p = true then
    ({ d with oro.loadDefer := true }).wr F.ORO_STATUS_DEFER 0 1
  else
    let d := (d.roleRetire rlShadow).roleRetire rlTrain
    if d.fitNative p then go d else if w2.fitNative p then d else { d with oro.cand := none }

def execShadowLoad (s : State) : Res :=
  s.run fun d =>
    if ¬ (d.sysOn ∧ d.coreUp corePmc = true) then d
    else match d.oro.cand with
      | none => d
      | some c =>
        if d.is F.ORO_STATUS_SHADOW_VALID ∧ d.oro.opShadow = true then d
        else match d.derive c with
          | none => { d with oro.cand := none }
          | some b => d.shadowLoad b

/-! ### The gate (R305 to R308) -/

/-- Gate parameters, clamped (R317). -/
def Dev.gainPct (d : Dev) : Nat := min 50 (max 5 (d.rd F.ORO_GATE_CFG_GAIN_PCT))
def Dev.evalSeg (d : Dev) : Nat := max 10 (d.rd F.ORO_GATE_CFG_EVAL_SEG)
def Dev.cleanS (d : Dev) : Nat := max 600 (d.rd F.ORO_GATE_CFG_CLEAN_S)

/-- Seconds since the SHADOW commit or its last violation. -/
def Dev.shadowClean (d : Dev) : Nat := min 65535 ((d.gts - d.oro.cleanAt) / 1000000000)

/-- An error sum in whole W. -/
def errW (e : Nat) : Nat := min (2 ^ 32 - 1) (e / (100 * 2 ^ 149))

/-- The slot in role `r` has no takeover pending in its clusters. -/
def Dev.roleSteady (d : Dev) (r : Nat) : Bool :=
  match d.roleSlot r with
  | some n => d.sst n ≠ ssRebuilding && !((d.slotTiles n).any fun t => d.arr.faults.any fun f => f.1 / 9 = t / 9)
  | none => true

/-- The gate at the end of held-out segment `j` (R307, R308). -/
def Dev.gateEval (d : Dev) (j : Nat) : Dev :=
  let d := if d.oro.shadowAt ≤ j * 1000000000 then d.inc F.ORO_CLEAN_HELDOUT_SEG else d
  let have' := d.oro.segs.any fun (q : SegErr) => q.j = j
  let segs := (if have' ∨ j * 1000000000 < d.oro.winAt then d.oro.segs else d.oro.segs ++ [{ j := j }])
  let segs := segs.drop (segs.length - d.evalSeg)
  let sum := fun (f : SegErr → Nat) => (segs.map f).foldl (· + ·) 0
  let ea := sum SegErr.a
  let es := sum SegErr.s
  let eb := sum SegErr.b
  let c1 : Bool := segs.length = d.evalSeg
  let c2 : Bool := 100 * es ≤ (100 - d.gainPct) * (if d.rd F.ORO_STATUS_STATE = 2 then ea else eb)
  let c3 : Bool := d.cleanS ≤ d.shadowClean
  let d' : Dev := { d with oro.segs := segs }
  let d := ((d'.wr F.ORO_ERR_ACTIVE_SUM 0 (errW ea)).wr F.ORO_ERR_SHADOW_SUM 0 (errW es)).wr F.ORO_ERR_BASE_SUM 0 (errW eb)
  let d := (d.wr F.ORO_STATUS_GATE_ERR_MET 0 c2.toNat).wr F.ORO_STATUS_GATE_CLEAN_MET 0 c3.toNat
  let may : Bool := d.rd F.PWC_EMERG_STATE = 0 && d.rd F.MBX_STATUS_LEASE = 1 && !d.is F.ORO_CTRL_PROMOTE_HOLD && d.roleSteady rlActive &&
    d.roleSteady rlShadow
  let met := c1 && c2 && c3
  let d := d.wr F.ORO_STATUS_DEFER 0 (d.oro.loadDefer || (met && !may)).toNat
  if met && may then
    let off := d.trigOffset
    let m := if d.gts < off then 0 else (d.gts - off) / 1000000 + 1
    ({ d with oro.promote := true, oro.promoteAt := m * 1000000 + off }).note corePmc "PROMOTION_DECIDED" j
  else d

/-- The last held-out segment that has ended. -/
def Dev.lastHeld (d : Dev) : Option Nat :=
  let n := d.gts / 1000000000
  if n = 0 then none else some ((n - 1) / d.holdoutDiv * d.holdoutDiv)

def execGateEvaluation (s : State) : Res :=
  s.run fun d =>
    match d.lastHeld with
    | none => d
    | some j =>
      if ¬ (d.sysOn ∧ d.coreUp corePmc = true ∧ d.oro.gateSeg ≤ j) then d
      else
        let d' : Dev := { d with oro.gateSeg := j + 1 }
        if d'.is F.ORO_STATUS_SHADOW_VALID ∧ ¬ d'.oro.promote = true then d'.gateEval j else d'

/-! ### Promotion and rollback (R309, R310) -/

/-- SHADOW becomes ACTIVE, the old ACTIVE RETAINED. -/
def Dev.promotionSwitch (d : Dev) : Dev :=
  match d.roleSlot rlShadow with
  | none => { d with oro.promote := false }
  | some n =>
    let d := (d.roleRetire rlRetained).roleSet rlRetained (d.roleSlot rlActive)
    let d := ((d.roleSet rlShadow none).roleSet rlActive (some n)).windowRestart
    let keep := d.is F.ORO_STATUS_RETAINED_VALID
    let d' : Dev := { d with
      oro.promote := false
      oro.act := d.oro.sha
      oro.sha := none
      oro.invalid := 0
      oro.fallback := false
      oro.started := true
      oro.opShadow := false
      oro.retUntil := if keep then some (d.gts + 1000000000 * d.rd F.ORO_SOLVE_CFG_ROLLBACK_S) else none }
    ((d'.inc F.ORO_COUNTS_PROMOTIONS).oroState).oroEvent 0

def execPromotionSwitch (s : State) : Res :=
  s.run fun d =>
    if d.sysOn ∧ d.coreUp corePmc = true ∧ d.oro.promote = true ∧ d.oro.promoteAt ≤ d.gts then d.promotionSwitch else d

def execRollbackTimerExpiry (s : State) : Res :=
  s.run fun d =>
    match d.oro.retUntil with
    | some t =>
      if d.sysOn ∧ d.coreUp corePmc = true ∧ t ≤ d.gts then ({ d with oro.retUntil := none }).roleRetire rlRetained else d
    | none => d

/-- ORO_CTRL.ROLLBACK: a promotion still to be switched is abandoned; otherwise the ACTIVE policy has failed (R310, R316). -/
def Dev.rollback (d : Dev) : Dev :=
  if d.oro.promote then { d with oro.promote := false }
  else if d.is F.ORO_STATUS_ACTIVE_VALID then d.policyFail
  else d

def execOroCtrlRollback (s : State) : Res := s.run fun d => if d.sysOn then d.rollback else d

end Sys2Proof.Machine
end

