-- ==== Sys2Proof/Machine/SeqOps.lean ====
section
/-! DEFINITION. Shared operations of the sequencer (spec/09): rails, domains, shutdown sets, rail failures, reset outputs, the
hot-swap controller. -/

namespace Sys2Proof.Machine

abbrev causeRail : Cause := (5, 0, none)
abbrev causeHsw : Cause := (5, 1, none)

/-! States of a rail (R331), of a domain, of the hot-swap controller (R342). -/
abbrev rlOff : Nat := 0
abbrev rlWait : Nat := 1
abbrev rlRamp : Nat := 2
abbrev rlQual : Nat := 3
abbrev rlOn : Nat := 4
abbrev rlDrain : Nat := 5
abbrev rlFall : Nat := 6
abbrev rlFailed : Nat := 7
abbrev dmOff : Nat := 0
abbrev dmRising : Nat := 1
abbrev dmOn : Nat := 2
abbrev dmFalling : Nat := 3
abbrev hsOff : Nat := 0
abbrev hsStart : Nat := 1
abbrev hsOn : Nat := 2
abbrev hsLimit : Nat := 3
abbrev hsCool : Nat := 4
abbrev hsLatched : Nat := 5

/-- Causes of a rail failure (SEQ_LAST_FAIL.CAUSE). -/
abbrev rfRamp : Nat := 1
abbrev rfQual : Nat := 2
abbrev rfChatter : Nat := 3
abbrev rfPgLost : Nat := 4
abbrev rfOv : Nat := 5
abbrev rfFall : Nat := 6

def rails96 : List Nat := List.range 96
def domains16 : List Nat := List.range 16

def Dev.rlT (d : Dev) (n : Nat) : Rail := tget (fun _ => {}) d.seq.rails n
def Dev.rlTMod (d : Dev) (n : Nat) (f : Rail → Rail) : Dev := { d with seq.rails := tset (fun _ => {}) d.seq.rails n (f (d.rlT n)) }

/-- State of a rail; whether the graph uses it; its domain; its parents' codes. -/
def Dev.rail (d : Dev) (n : Nat) : Nat := d.rd F.SEQ_RAIL_STATUS_STATE n
def Dev.railUsed (d : Dev) (n : Nat) : Bool := d.is F.SEQ_RAIL_PG_USED n
def Dev.railDom (d : Dev) (n : Nat) : Nat := d.rd F.SEQ_RAIL_PG_DOMAIN n
def Dev.railPars (d : Dev) (n : Nat) : List Nat :=
  [d.rd F.SEQ_RAIL_PAR_P0 n, d.rd F.SEQ_RAIL_PAR_P1 n, d.rd F.SEQ_RAIL_PAR_P2 n, d.rd F.SEQ_RAIL_PAR_P3 n].filter (· ≠ 0x7F)

/-- The rail is ON; a rail the graph does not use counts as never ON. -/
def Dev.railOn (d : Dev) (n : Nat) : Bool := d.railUsed n && d.rail n = rlOn

/-- Timing of a rail, ns (R342). -/
def Dev.tRise (d : Dev) (n : Nat) : Nat := 1000000 * max 1 (d.rd F.SEQ_RAIL_TIME_T_RISE n)
def Dev.tFall (d : Dev) (n : Nat) : Nat := 1000000 * d.rd F.SEQ_RAIL_TIME_T_FALL n
def Dev.tQual (d : Dev) (n : Nat) : Nat := 100000 * min 500 (max 1 (d.rd F.SEQ_RAIL_PG_QUAL n))
def Dev.delayOn (d : Dev) (n : Nat) : Nat := 10000 * d.rd F.SEQ_RAIL_TIME_DELAY_ON n
def Dev.delayOff (d : Dev) (n : Nat) : Nat := 10000 * d.rd F.SEQ_RAIL_TIME_DELAY_OFF n

/-- State of a domain. -/
def Dev.dom (d : Dev) (k : Nat) : Nat := bitsOf (d.rdw (F.SEQ_DOM_STATE_STATE.addr 0)) (2 * k) 2
def Dev.domGo (d : Dev) (k st : Nat) : Dev := d.wrw (F.SEQ_DOM_STATE_STATE.addr 0) (putBits (d.rdw (F.SEQ_DOM_STATE_STATE.addr 0)) (2 * k) 2 st)
def Dev.domReq (d : Dev) (k : Nat) : Bool := d.bit F.SEQ_DOM_REQ_REQ 0 k
def Dev.domRails (d : Dev) (k : Nat) : List Nat := rails96.filter fun n => d.railUsed n && d.railDom n = k

/-- State of the hot-swap controller. -/
def Dev.hsw (d : Dev) : Nat := d.rd F.SEQ_HSW_STATUS_STATE
def Dev.hswGo (d : Dev) (st : Nat) : Dev := { d.wr F.SEQ_HSW_STATUS_STATE 0 st with seq.hswAt := d.aont }
/-- The hot-swap FET feeds the tray. -/
def Dev.fetOn (d : Dev) : Bool := d.hsw = hsOn || d.hsw = hsLimit

/-! ### Core power -/

/-- The core power domain is lost: everything outside the AON island stops until it is restarted under R46 (R321). -/
def Dev.coreLost (d : Dev) : Dev := 
  { d with sysOn := false, boot.coreLost := true, boot.asleep := false
           flt.cores := d.flt.cores.map fun (p : Nat × Core) => (p.1, { p.2 with up := false, released := false }) }

/-- A rail enters a state. Core power goes with RAIL[1]. -/
def Dev.railGo (d : Dev) (n st : Nat) : Dev :=
  let d := (d.wr F.SEQ_RAIL_STATUS_STATE n st).rlTMod n fun x => { x with since := d.aont }
  if n = 1 ∧ (st = rlOff ∨ st = rlFall ∨ st = rlFailed) ∧ (d.sysOn || d.boot.asleep) = true then d.coreLost else d

/-- RAIL_EN_n driven. -/
def Dev.railEn (d : Dev) (n : Nat) (on : Bool) : Dev := d.pin "RAIL_EN" n on

/-! ### Reset outputs (R339) -/

/-- RST_OUT#_k is asserted; links of ACC_k are held (R147). -/
def Dev.rstAssert (d : Dev) (k : Nat) : Dev :=
  if d.bit F.SEQ_RST_STATUS_ASSERTED 0 k then d
  else
    let d := ((d.wrBit F.SEQ_RST_STATUS_ASSERTED 0 k true).pin "RST_OUT#" k false)
    let d : Dev := { d with seq.rstAt := tset (fun _ => 0) d.seq.rstAt k d.aont }
    if k < 8 then d.accHold k else d

/-- STRETCH of an output, ns; LEAD, ns. -/
def Dev.stretch (d : Dev) (k : Nat) : Nat := 1000000 * min 1000 (max 1 (d.rd F.SEQ_RST_CFG_STRETCH k))
def Dev.lead (d : Dev) (k : Nat) : Nat := 1000 * d.rd F.SEQ_RST_CFG_LEAD k
def Dev.rstGate (d : Dev) (k : Nat) : Nat := d.rd F.SEQ_RST_CFG_GATE k

/-- The output may be deasserted now: its gate rail has been ON for STRETCH and no hold applies. -/
def Dev.rstReady (d : Dev) (k : Nat) : Bool :=
  d.is F.SEQ_RST_CFG_USED k && d.railOn (d.rstGate k) && (d.rlT (d.rstGate k)).since + d.stretch k ≤ d.aont &&
    !d.bit F.SEQ_RST_HOLD_HOLD 0 k && !d.flt.endgame

/-- RST_OUT#_k is deasserted where it may be; DETECT runs on ACC_k's links (R165). -/
def Dev.rstRelease (d : Dev) (k : Nat) : Dev :=
  if d.bit F.SEQ_RST_STATUS_ASSERTED 0 k ∧ d.rstReady k = true then
    let d := ((d.wrBit F.SEQ_RST_STATUS_ASSERTED 0 k false).pin "RST_OUT#" k true)
    if k < 8 then d.accRelease k else d
  else d

/-- Outputs gated on a rail of the set are asserted. -/
def Dev.rstGates (d : Dev) (set : List Nat) : Dev :=
  (List.range 16).foldl (fun d k => if d.is F.SEQ_RST_CFG_USED k ∧ set.contains (d.rstGate k) = true then d.rstAssert k else d) d

/-! ### Shutdown sets (R335, R337) -/

/-- A set of rails with its descendants. -/
def Dev.descend (d : Dev) : Nat → List Nat → List Nat
  | 0, l => l
  | k + 1, l =>
    let m := rails96.filter fun n => l.contains n || (d.railUsed n && (d.railPars n).any l.contains)
    if m.length = l.length then l else d.descend k m

/-- Step 3 of R335: the enable goes low; with power-good bad, or unchecked, the rail is OFF at once. -/
def Dev.railFall (d : Dev) (n : Nat) : Dev :=
  let d := (d.railEn n false).railGo n rlFall
  if d.tFall n = 0 ∨ ¬ d.is F.SEQ_RAIL_STATUS_PG n then d.railGo n rlOff else d

/-- Step 1 of R335 for a shutdown set. -/
def Dev.shutdown (d : Dev) (set : List Nat) : Dev :=
  let d := d.rstGates set
  set.foldl (fun d n =>
    let st := d.rail n
    if st = rlWait then d.railGo n rlOff
    else if st = rlRamp ∨ st = rlQual then d.railFall n
    else if st = rlOn then d.railGo n rlDrain
    else d) d

/-- A domain is powered down: its rails and their descendants. -/
def Dev.domDown (d : Dev) (ks : List Nat) : Dev :=
  let ks := ks.filter fun k => d.dom k = dmRising || d.dom k = dmOn
  let d' := ks.foldl (fun d k => d.domGo k dmFalling) d
  d'.shutdown (d'.descend 96 (ks.flatMap d.domRails))

/-! ### Rail failure (R333, R336, R337) -/

/-- Its bit in SEQ_ERR. -/
def railErr (cause : Nat) : Fld :=
  [F.SEQ_ERR_RAMP_TIMEOUT, F.SEQ_ERR_QUAL_TIMEOUT, F.SEQ_ERR_CHATTER, F.SEQ_ERR_PG_LOST, F.SEQ_ERR_OV, F.SEQ_ERR_FALL_TIMEOUT].getD
    (cause - 1) F.SEQ_ERR_RAMP_TIMEOUT

/-- A rail fails: recorded, disabled; outside a power-down its descendants are shut down with their reset outputs. -/
def Dev.railFail (d : Dev) (n cause : Nat) : Dev :=
  let st := d.rail n
  let d := d.wr (railErr cause) 0 1
  let d := d.wrw (F.SEQ_LAST_FAIL_CAUSE.addr 0)
    (cause * 2 ^ 28 + d.railDom n * 2 ^ 24 + d.rd F.SEQ_RAIL_STATUS_CHATTER n * 2 ^ 20 + st * 2 ^ 16 + n)
  let d := ((d.wr F.SEQ_RAIL_STATUS_CAUSE n cause).wr F.SEQ_RAIL_STATUS_FAILED n 1).ffr causeRail n cause
  let d := d.event 4 n cause
  let d := (d.railEn n false).railGo n rlFailed
  let d := d.wrBit F.SEQ_DOM_FLAGS_DEGRADED 0 (d.railDom n) true
  let outside : Bool := st = rlRamp || st = rlQual || st = rlOn
  if outside then
    let all := d.descend 96 [n]
    let d := (d.rstGates [n]).shutdown (all.filter (· ≠ n))
    if n < 3 then
      { d with seq.selfFails := d.seq.selfFails + 1
               seq.selfRetry := if d.seq.selfFails = 0 then some (d.aont + 1000000000) else d.seq.selfRetry }
    else d
  else d

/-! ### Domains (R328, R334) -/

/-- The accelerator's PRSNT# has been asserted for 100 ms. -/
def Dev.prsntOk (d : Dev) (a : Nat) : Bool := d.present a && tget (fun _ => 0) d.seq.prsntAt a + 100000000 ≤ d.aont

/-- A hold of R328 applies to domain `k`. -/
def Dev.domHeld (d : Dev) (k : Nat) : Bool :=
  if k = 0 then !d.fetOn
  else
    !d.is F.SEQ_CTRL_GRAPH_VALID || !d.fetOn || (d.is F.PWC_MATE_STATUS_ACTIVE && d.is F.SEQ_DOM_CFG_MATE k) ||
      (2 ≤ k && (d.seq.uvHold || bitOf d.seq.uvBlock k)) ||
      (d.is F.SEQ_DOM_CFG_ACC_VALID k && !d.prsntOk (d.rd F.SEQ_DOM_CFG_ACC k)) ||
      (2 ≤ k && d.dom 1 ≠ dmOn && (d.domRails k).any fun n => (d.railPars n).any fun p => p < 96 && d.railDom p = 1)

/-- FAILED rails and every rail with a FAILED ancestor. -/
def Dev.lostRails (d : Dev) : List Nat := d.descend 96 (rails96.filter fun n => d.rail n = rlFailed)

/-- Start a power-up where the request stands and no hold applies; a rail below a FAILED one stays OFF (R334). -/
def Dev.domTry (d : Dev) (k : Nat) : Dev :=
  if d.domReq k ∧ d.dom k = dmOff ∧ d.domHeld k = false ∧ ¬ d.seq.coldDown = true ∧ (k = 0 → d.seq.selfFails ≤ 1) then
    let rs := d.domRails k
    let lost := d.lostRails
    let d := (d.domGo k dmRising).wrBit F.SEQ_DOM_FLAGS_DEGRADED 0 k (rs.any fun n => d.rail n = rlFailed)
    rs.foldl (fun d n => if d.rail n = rlOff ∧ lost.contains n = false then d.railGo n rlWait else d) d
  else d

/-- A power-up or power-down whose rails have all arrived is complete (R334 step 4, R335 step 5). -/
def Dev.domEnd (d : Dev) (k : Nat) : Dev :=
  let rs := d.domRails k
  if d.dom k = dmRising then
    let lost := d.lostRails
    if rs.all fun n => d.rail n = rlOn || lost.contains n then
      (d.domGo k dmOn).wrBit F.SEQ_DOM_FLAGS_DEGRADED 0 k (rs.any fun n => d.rail n ≠ rlOn)
    else d
  else if d.dom k = dmFalling then
    if rs.all fun n => d.rail n = rlOff || d.rail n = rlFailed then d.domGo k dmOff else d
  else d

/-- One pass over the domains. -/
def Dev.seqPass (d : Dev) : Dev := domains16.foldl (fun d k => (d.domEnd k).domTry k) d

/-! ### What a cold reset clears (R42, R43) -/

/-- Registers a cold reset keeps or takes again: RC_ACTIVE, the hot-swap controller's LATCHED state and restart count, the
strap samples (R242, R322, R546). -/
def Dev.coldRegs (d old : Dev) : Dev :=
  let d := d.wr F.GLB_CLK_STATUS_RC_ACTIVE 0 (old.rd F.GLB_CLK_STATUS_RC_ACTIVE)
  let d := d.wr F.SEQ_HSW_STATUS_ATTEMPTS 0 (old.rd F.SEQ_HSW_STATUS_ATTEMPTS)
  let d := if old.hsw = hsLatched then d.wr F.SEQ_HSW_STATUS_STATE 0 hsLatched else d
  let d := d.wr F.SEQ_HSW_CFG_ILIM_START 0 ([5, 10, 20, 40].getD d.boot.hswsel 5)
  let d := d.wr F.SEQ_HSW_SOA_SOA_E 0 ([50, 100, 200, 400].getD d.boot.hswsel 50)
  d.wr F.PWC_TRAY_CAP_CAP_W 0 (d.rd (if d.boot.capsel % 2 = 1 then F.PWC_CAP_DEFAULT_ENTRY_HI else F.PWC_CAP_DEFAULT_ENTRY_LO) (d.boot.capsel / 2))

/-- The machine with nothing left but what survives every reset: flash and fuses, the levels of input pins, the oscillators,
the strap samples, the model's own record of outputs. -/
def Dev.bare (d : Dev) : Dev :=
  let e : Dev := {}
  { e with
    mem := d.mem.filter fun c => c.1 / 2 ^ 40 = 2
    out := d.out
    freeCtr := d.freeCtr
    vl.accs := (List.range 8).foldl (fun l a => tset (fun _ => ({} : AccVl)) l a { present := (d.acc a).present }) []
    pwr.vrIn := d.pwr.vrIn
    pwr.ocIn := d.pwr.ocIn
    pwr.ttIn := d.pwr.ttIn
    pwr.coolFail := d.pwr.coolFail
    tw.accAlert := d.tw.accAlert
    tw.segAlert := d.tw.segAlert
    seq.vinUp := d.seq.vinUp
    seq.xtal := d.seq.xtal
    obs.ffrS.archives := d.obs.ffrS.archives
    obs.ffrS.archSeq := d.obs.ffrS.archSeq
    boot.ownerHash := d.boot.ownerHash
    boot.revoke := d.boot.revoke
    boot.svn := d.boot.svn
    boot.modelKeys := d.boot.modelKeys
    boot.dbgTok := d.boot.dbgTok
    boot.capsel := d.boot.capsel
    boot.hswsel := d.boot.hswsel
    boot.goldStrap := d.boot.goldStrap
    boot.mfgTest := d.boot.mfgTest
    boot.fellUv := d.boot.fellUv }

/-- Protection outputs go to their reset levels: CHECK# and MATE# high, every reset output asserted. -/
def Dev.protectPins (d : Dev) : Dev :=
  let d := d.forAcc fun d a => if d.inCheck a then d.pin "CHECK#" a true else d
  let d := if d.is F.PWC_MATE_STATUS_ACTIVE then d.forAcc fun d a => d.pin "MATE#" a true else d
  (List.range 16).foldl Dev.rstAssert d

/-- Triggers whose level is active latch again. -/
def Dev.relatch (d : Dev) : Dev := ((List.range 32).foldl (fun d t => if d.trigIn t then d.trigLatch t else d) d).checkSettle

/-- A cold reset's clearing: everything but what R42 keeps. -/
def Dev.coldClear (d : Dev) : Dev :=
  let d := d.protectPins
  let e := d.bare
  let e : Dev := { e with
    seq.restarts := (d.seq.restarts.filter fun t => d.aont ≤ t).map fun t => t - d.aont
    boot.forceG := d.boot.forceG
    flt.endBoot := d.is F.GLB_RESET_CAUSE_ENDGAME_EXIT }
  ((e.wrw (F.GLB_RESET_CAUSE_POR.addr 0) (d.rdw (F.GLB_RESET_CAUSE_POR.addr 0))).coldRegs d).relatch

/-- A cold reset's power-down has ended: every rail is off, everything is reset, and the FET is turned off (R43). -/
def Dev.coldEnd (d : Dev) : Dev :=
  if d.seq.coldDown ∧ d.seq.coldOff.isNone ∧ rails96.all (fun n => d.rail n = rlOff || d.rail n = rlFailed) then
    let e := d.coldClear
    { e with seq.coldDown := true, seq.coldOff := some e.aont }
  else d

/-- A cold reset powers the self rails down last. -/
def Dev.coldSelf (d : Dev) : Dev :=
  if d.seq.coldDown ∧ d.dom 0 ≠ dmFalling ∧ d.dom 0 ≠ dmOff ∧
      rails96.all (fun n => n < 3 || d.rail n = rlOff || d.rail n = rlFailed) then d.domDown [0]
  else d

/-- The sequencer settles after an event: domains, holds, the display of holds. -/
def Dev.seqSettle (d : Dev) : Dev :=
  let d := ((((d.seqPass).seqPass).seqPass).coldSelf.seqPass).coldEnd
  let d := d.wr F.SEQ_DOM_FLAGS_HELD 0 (maskOf 16 fun k => d.domReq k && d.dom k = dmOff && d.domHeld k)
  (d.wr F.SEQ_STATUS_MATE_HOLD 0 (d.is F.PWC_MATE_STATUS_ACTIVE && domains16.any fun k => d.is F.SEQ_DOM_CFG_MATE k).toNat).wr
    F.SEQ_STATUS_UV_HOLD 0 d.seq.uvHold.toNat

/-- A cold reset's power-down starts with every rail but the self rails (R43, R335). -/
def Dev.coldDownStart (d : Dev) : Dev :=
  ({ d with seq.coldDown := true, seq.coldOff := none }).domDown ((List.range 15).map (· + 1)) |>.seqSettle

/-! ### Hot-swap (R319 to R322) -/

/-- START is entered. -/
def Dev.hswStart (d : Dev) : Dev :=
  let d' : Dev := if d.seq.restartDue then { d with seq.restartDue := false, seq.restarts := (d.aont + 60000000000) :: d.seq.restarts } else d
  d'.hswGo hsStart

/-- Restarts of the last 60 s, and their display. -/
def Dev.attempts (d : Dev) : Nat := (d.seq.restarts.filter fun t => d.aont ≤ t).length

/-- Every enable is dropped and every reset output asserted at once (R321, R563). -/
def Dev.dropAll (d : Dev) : Dev :=
  let d := (List.range 16).foldl Dev.rstAssert d
  let d := rails96.foldl (fun d n => if d.rail n = rlFailed ∨ d.rail n = rlOff then d else (d.railEn n false).railGo n rlOff) d
  domains16.foldl (fun d k => d.domGo k dmOff) d

/-- A hot-swap fault with its cause code (R321). -/
def Dev.hswFault (d : Dev) (cause : Nat) : Dev :=
  let d := (d.wr F.SEQ_ERR_HSW_FAULT 0 1).wr F.SEQ_HSW_STATUS_LAST_CAUSE 0 cause
  let d := if cause = 1 then (d.wr F.SEQ_ERR_BUS_OV 0 1).wr F.SEQ_BUS_STATUS_OV 0 1 else d
  let d := d.ffr causeHsw cause 0
  if d.hsw = hsLatched then d.emergUpdate
  else
    let d := d.dropAll
    let d := if d.rd F.SEQ_HSW_SOA_RETRY ≤ d.attempts then d.hswGo hsLatched else d.hswGo hsCool
    (d.wr F.SEQ_HSW_STATUS_ATTEMPTS 0 (min 15 d.attempts)).seqSettle.emergUpdate

end Sys2Proof.Machine
end

