-- ==== Sys2Proof/Machine/CoolOps.lean ====
section
/-! DEFINITION. Shared operations of the cooling block (spec/10): drive sources, the speed loop, fan judgements, reserves,
supplies, the mode. -/

namespace Sys2Proof.Machine

abbrev causeFan : Cause := (6, 0, none)
abbrev causeAge : Cause := (6, 1, none)
abbrev causePump : Cause := (6, 2, none)
abbrev causeFlow : Cause := (6, 3, none)
abbrev causeLeak : Cause := (6, 4, none)
abbrev causeLeakOpen : Cause := (6, 5, none)
abbrev causeRsvTest : Cause := (6, 6, none)

/-! States of a fan (R370) and of a pump; modes. -/
abbrev fnOff : Nat := 0
abbrev fnKick : Nat := 1
abbrev fnGap : Nat := 2
abbrev fnRun : Nat := 3
abbrev fnOpen : Nat := 4
abbrev fnFailed : Nat := 5
abbrev fnIdle : Nat := 6
abbrev fnTest : Nat := 7
abbrev fnComm : Nat := 8
abbrev cmStart : Nat := 0
abbrev cmRun : Nat := 1
abbrev cmTest : Nat := 2
abbrev cmRecovery : Nat := 3

def fans18 : List Nat := List.range 18
def fans16 : List Nat := List.range 16
def pumps4 : List Nat := List.range 4

def Dev.fan (d : Dev) (n : Nat) : Fan := tget (fun _ => {}) d.cool.fans n
def Dev.fanMod (d : Dev) (n : Nat) (f : Fan → Fan) : Dev := { d with cool.fans := tset (fun _ => {}) d.cool.fans n (f (d.fan n)) }
def Dev.pump' (d : Dev) (p : Nat) : Pump := tget (fun _ => {}) d.cool.pumps p
def Dev.pumpMod (d : Dev) (p : Nat) (f : Pump → Pump) : Dev := { d with cool.pumps := tset (fun _ => {}) d.cool.pumps p (f (d.pump' p)) }
def Dev.cloop (d : Dev) (l : Nat) : CLoop := tget (fun _ => {}) d.cool.loops l
def Dev.cloopMod (d : Dev) (l : Nat) (f : CLoop → CLoop) : Dev := { d with cool.loops := tset (fun _ => {}) d.cool.loops l (f (d.cloop l)) }

/-- State of a fan; whether it is used; the table is in force; its supply is on. -/
def Dev.fst (d : Dev) (n : Nat) : Nat := d.rd F.FAN_STATUS_STATE n
def Dev.fanUsed (d : Dev) (n : Nat) : Bool := d.is F.FAN_CFG_USED n
def Dev.tableOk (d : Dev) : Bool := d.is F.COOL_STATUS_TABLE_VALID
def Dev.fanSupply (d : Dev) (n : Nat) : Bool := d.rd F.FAN_CFG_SUPPLY n < 96 && d.railOn (d.rd F.FAN_CFG_SUPPLY n)
def Dev.pumpSupply (d : Dev) (p : Nat) : Bool := d.rd F.PUMP_CFG_SUPPLY p < 96 && d.railOn (d.rd F.PUMP_CFG_SUPPLY p)

/-- A fan enters a state. -/
def Dev.fanGo (d : Dev) (n st : Nat) : Dev := (d.wr F.FAN_STATUS_STATE n st).fanMod n fun x => { x with since := d.aont }

/-! ### Timing and limits (R370) -/

def Dev.fWin (d : Dev) : Nat := 1000000 * min 200 (max 10 (d.rd F.COOL_TACH_CFG_WIN))
/-- PERIOD, ns: below 100 ms, or not above WIN, the smallest valid value. -/
def Dev.fPeriod (d : Dev) : Nat :=
  let p := 10000000 * d.rd F.COOL_TACH_CFG_PERIOD
  let least := max 100000000 ((d.fWin / 10000000 + 1) * 10000000)
  if p < 100000000 ∨ p ≤ d.fWin then least else p
def Dev.fSettle (d : Dev) : Nat := min (1000000 * d.rd F.COOL_TACH_CFG_SETTLE) (d.fWin / 2)
def Dev.ppr (d : Dev) (n : Nat) : Nat := d.rd F.FAN_CFG_PPR n + 1
def Dev.lowPct (d : Dev) : Nat := min 90 (max 10 (d.rd F.COOL_FAN_FAULT_LOW_PCT))
def Dev.faultN (d : Dev) : Nat := max 2 (d.rd F.COOL_FAN_FAULT_FAULT)
def Dev.kickNs (d : Dev) : Nat := 100000000 * min 20 (d.rd F.COOL_KICK_KICK)
def Dev.gapNs (d : Dev) : Nat := 100000000 * max 1 (d.rd F.COOL_KICK_GAP)

/-- Speed of an edge interval in ns, rpm (R346). -/
def rpmOf (ppr t : Nat) : Nat := if t = 0 then 0 else min 65535 (60000000000 / (ppr * t))

/-- The fan a reserve serves. -/
def Dev.serves (d : Dev) (r : Nat) : Option Nat :=
  if 16 ≤ r ∧ d.is F.FAN_STATUS_COVERED r then some (d.rd F.FAN_STATUS_COVER_FAN r) else none

/-- A fan's target, clamped; 0 where the fan is to stop (R347, R356, R357). -/
def Dev.fanTarget (d : Dev) (n : Nat) : Nat :=
  let clamp := fun (v : Nat) => min (d.rd F.FAN_LIMIT_MAX_RPM n) (max (d.rd F.FAN_LIMIT_MIN_RPM n) v)
  if d.fst n = fnTest then clamp (d.rd F.FAN_REF_REF_RPM n)
  else if d.fst n = fnComm then d.rd F.FAN_REF_REF_RPM n
  else
    let t := d.rd F.FAN_TARGET_TARGET_RPM n
    if t = 0 then (if d.is F.FAN_CFG_STOP_OK n then 0 else d.rd F.FAN_LIMIT_MIN_RPM n) else clamp t

/-! ### Drive sources (R344, R354, R366, R368) -/

/-- A FAILED working fan no reserve serves. -/
def Dev.uncovered (d : Dev) (n : Nat) : Bool := n < 16 && d.fanUsed n && d.fst n = fnFailed && !d.is F.FAN_STATUS_COVERED n

/-- A used input of zone `z` counts as HOT. -/
def Dev.zoneHot (d : Dev) (z : Nat) : Bool := (List.range 32).any fun i => d.is F.TD_CFG_USED i && d.rd F.TD_CFG_ZONE i = z && d.is F.TD_STATUS_HOT i

/-- Zone `z` has an override. -/
def Dev.zoneOvr (d : Dev) (z : Nat) : Bool :=
  d.tableOk && (d.zoneHot z || fans16.any fun n => d.uncovered n && d.rd F.FAN_CFG_ZONE n = z)

/-- A full-drive source applies to a fan (R368). -/
def Dev.fanFull (d : Dev) (n : Nat) : Bool :=
  if !d.tableOk then true
  else if !d.fanUsed n || d.fst n = fnFailed then false
  else
    let x := d.fan n
    let latch := d.flt.endgame || d.is F.COOL_STATUS_FULL_LATCH
    if d.fst n = fnIdle then latch
    else
      let zone := match d.serves n with | some m => d.rd F.FAN_CFG_ZONE m | none => d.rd F.FAN_CFG_ZONE n
      let served : Bool := n < 16 || (d.serves n).isSome
      latch || d.fst n = fnKick || x.win.isSome || (served && (d.zoneOvr zone || d.fst n = fnOpen)) || (d.fst n = fnComm && !x.commLoop)

/-- A loop override: another used pump of the loop is FAILED. -/
def Dev.pumpOvr (d : Dev) (p : Nat) : Bool :=
  pumps4.any fun q => q ≠ p && d.is F.PUMP_CFG_USED q && d.is F.PUMP_STATUS_FAILED q && d.rd F.PUMP_CFG_LOOP q = d.rd F.PUMP_CFG_LOOP p

/-- A full-drive source applies to a pump. -/
def Dev.pumpFull (d : Dev) (p : Nat) : Bool :=
  !d.tableOk || (d.is F.PUMP_CFG_USED p && (d.flt.endgame || d.is F.COOL_STATUS_FULL_LATCH || d.is F.PUMP_STATUS_FAILED p || d.pumpOvr p))

/-- The display of the block, and THERMAL with it (R366, R370). -/
def Dev.coolShow (d : Dev) : Dev :=
  let d := fans18.foldl (fun d n => d.wr F.FAN_STATUS_FULL n (d.fanFull n).toNat) d
  let d := pumps4.foldl (fun d p => d.wr F.PUMP_STATUS_FULL p (d.pumpFull p).toNat) d
  let d := d.wr F.COOL_STATUS_ZONE_OVR 0 (maskOf 8 d.zoneOvr)
  let d := d.wr F.COOL_STATUS_THERMAL 0 (d.tableOk && (List.range 8).any d.zoneHot).toNat
  let d := d.wr F.COOL_STATUS_FANS_FAILED 0 ((fans18.filter fun n => d.is F.FAN_STATUS_FAILED n).length)
  let d := d.wr F.COOL_STATUS_PUMPS_FAILED 0 (maskOf 4 fun p => d.is F.PUMP_STATUS_FAILED p)
  (d.wr F.COOL_STATUS_LOOP_FAULT 0 (maskOf 4 fun l => d.is F.LOOP_CFG_FAULT l)).emergUpdate

/-! ### Reserves (R353 to R355) -/

/-- A fan starts to kick, as its first kick when `fresh` (R348). -/
def Dev.fanKick (d : Dev) (n : Nat) (fresh : Bool) : Dev :=
  let d := if fresh then d.wr F.FAN_STATUS_KICKS n 0 else d
  (d.fanGo n fnKick).fanMod n fun x => { x with win := none, lastEdge := none, kickI := [], low := 0, good := 0, bad := 0, near := 0 }

/-- A reserve can take a fan. -/
def Dev.rsvFree (d : Dev) (r : Nat) : Bool := d.fanUsed r && (d.fst r = fnIdle || d.fst r = fnTest || (d.fst r = fnKick && (d.fan r).testing)) && !d.is F.FAN_STATUS_COVERED r

def Dev.coverMask (d : Dev) (r : Nat) : Nat := d.rd (if r = 16 then F.COOL_RSV_COVER_COVER_16 else F.COOL_RSV_COVER_COVER_17)

/-- Reserve `r` takes fan `n`. -/
def Dev.rsvTake (d : Dev) (r n : Nat) : Dev :=
  let d := ((d.wr F.FAN_STATUS_COVERED n 1).wr F.FAN_STATUS_COVER_FAN n r).wr F.FAN_STATUS_COVERED r 1
  let d := (d.wr F.FAN_STATUS_COVER_FAN r n).wr F.FAN_TARGET_TARGET_RPM r (d.rd F.FAN_TARGET_TARGET_RPM n)
  let d := d.fanMod r fun x => { x with testing := false }
  if d.fst r = fnTest then (d.fanGo r fnRun).fanMod r fun x => { x with low := 0 }
  else if d.fst r = fnKick then d
  else if d.fanSupply r then d.fanKick r true else d.fanGo r fnOff

/-- Failed fans look for reserves, the lowest index and FAN_16 first; one left uncovered is reported (R353, R354). -/
def Dev.cover (d : Dev) : Dev :=
  fans16.foldl (fun d n =>
    if d.uncovered n then
      match [16, 17].find? fun r => d.rsvFree r && bitOf (d.coverMask r) n with
      | some r => d.rsvTake r n
      | none => d.wr F.COOL_ERR_RSV_EXHAUSTED 0 1
    else d) d

/-- A reserve no longer serves its fan. -/
def Dev.unserve (d : Dev) (r : Nat) : Dev :=
  match d.serves r with
  | some n =>
    (((d.wr F.FAN_STATUS_COVERED n 0).wr F.FAN_STATUS_COVER_FAN n 0).wr F.FAN_STATUS_COVERED r 0).wr F.FAN_STATUS_COVER_FAN r 0
  | none => d

/-- A fan is FAILED (R350, R352 to R356). -/
def Dev.fanFail (d : Dev) (n cause : Nat) : Dev :=
  let test : Bool := d.fst n = fnTest || (d.fan n).testing
  let d := ((d.fanGo n fnFailed).wr F.FAN_STATUS_FAILED n 1).wr F.FAN_STATUS_CAUSE n cause
  let d := (d.fanMod n fun x => { x with win := none, testing := false }).wr F.COOL_ERR_FAN_FAULT 0 1
  let d := if test then d.wr F.COOL_ERR_RSV_TEST_FAIL 0 1 else d
  let d := (d.ffr causeFan n cause).event 5 0 n
  (if 16 ≤ n then d.unserve n else d).cover

/-- A fan is OPENLOOP. -/
def Dev.fanOpen (d : Dev) (n : Nat) : Dev :=
  let d := ((d.fanGo n fnOpen).wr F.COOL_ERR_TACH_LOST 0 1).ffr causeFan n 4
  d.fanMod n fun x => { x with low := 0, good := 0, bad := 0 }

/-- A current's class against I_NOM: 1 OPEN, 2 STALL, 3 NO_REF, 0 otherwise (R350). -/
def Dev.judgeI (d : Dev) (n : Nat) : Nat :=
  let nom := d.rd F.FAN_CURRENT_I_NOM n
  let i := d.rd F.FAN_CURRENT_I_LAST n
  if nom = 0 then 3
  else if i * 100 < d.rd F.COOL_FAN_FAULT_OPEN_PCT * nom then 1
  else if max 110 (d.rd F.COOL_FAN_FAULT_STALL_PCT) * nom < i * 100 then 2
  else 0

/-- The judgement of R350; in a reserve's self-test every fault leaves it FAILED (R356). -/
def Dev.fanJudge (d : Dev) (n : Nat) : Dev :=
  let c := d.judgeI n
  if c ≠ 0 ∨ d.fst n = fnTest ∨ (d.fan n).testing = true then d.fanFail n c else d.fanOpen n

/-! ### Measurements (R346, R347, R349, R351, R357, R358) -/

/-- The speed loop's step. -/
def loopStep (target speed gain minDuty dty : Nat) : Nat :=
  let step := (((target : Int) - speed) * gain * 4).tdiv target
  (min 1024 (max (4 * minDuty : Int) ((dty : Int) + step))).toNat

/-- `v` lies within ±2 % of `ref`. -/
def near2 (v ref : Nat) : Bool := (if v ≤ ref then ref - v else v - ref) * 50 ≤ ref

/-- The speed loop of a fan. -/
def Dev.fanLoop (d : Dev) (n rpm : Nat) : Dev :=
  let t := d.fanTarget n
  if t = 0 then d
  else d.wr F.FAN_STATUS_DUTY n (loopStep t rpm (d.rd F.COOL_TACH_CFG_GAIN) (d.rd F.FAN_CFG_MIN_DUTY n) (d.rd F.FAN_STATUS_DUTY n))

/-- Ageing (R358). -/
def Dev.fanAge (d : Dev) (n rpm : Nat) : Dev :=
  let t := d.fanTarget n
  let ref := d.rd F.FAN_REF_REF_RPM n
  let k := if near2 t ref && near2 rpm t then (d.fan n).near + 1 else 0
  let d := d.fanMod n fun x => { x with near := k }
  let rd := d.rd F.FAN_REF_REF_DUTY n
  if rd = 0 then d.wr F.FAN_SPEED_AGE n 0
  else if 10 ≤ k then
    let age := min 65535 (256 * d.rd F.FAN_STATUS_DUTY n / rd)
    let warn := d.rd F.COOL_RSV_AGE_WARN
    let old := d.rd F.FAN_SPEED_AGE n
    let d := d.wr F.FAN_SPEED_AGE n age
    if old < warn ∧ warn ≤ age then (d.wr F.COOL_ERR_AGE_WARN 0 1).ffr causeAge n age else d
  else d

/-- A reserve whose fan runs again is released, or takes another (R355). -/
def Dev.rsvRelease (d : Dev) (r : Nat) : Dev :=
  match d.serves r with
  | some n =>
    if d.fst n = fnRun then
      let d := d.unserve r
      let c := fans16.find? fun m => d.uncovered m && bitOf (d.coverMask r) m
      match c with
      | some m =>
        let d := ((d.wr F.FAN_STATUS_COVERED m 1).wr F.FAN_STATUS_COVER_FAN m r).wr F.FAN_STATUS_COVERED r 1
        (d.wr F.FAN_STATUS_COVER_FAN r m).wr F.FAN_TARGET_TARGET_RPM r (d.rd F.FAN_TARGET_TARGET_RPM m)
      | none => d.fanGo r fnIdle
    else d
  | none => d

/-- Low-speed faults of a fan in RUN or in a test (R349): measurements of its first 2 s in RUN are not counted. -/
def Dev.fanLow (d : Dev) (n rpm : Nat) : Dev :=
  let t := d.fanTarget n
  let x := d.fan n
  if t = 0 ∨ d.aont < x.since + 2000000000 then d
  else
    let k := if rpm * 100 < t * d.lowPct then x.low + 1 else 0
    let d := d.fanMod n fun x => { x with low := k }
    if d.faultN ≤ k then d.fanJudge n else d

/-- TACH_LOST clears when no fan is left in OPENLOOP. -/
def Dev.tachClear (d : Dev) : Dev := if fans18.any fun n => d.fst n = fnOpen then d else d.wr F.COOL_ERR_TACH_LOST 0 0

/-- A fan enters RUN with full duty. -/
def Dev.fanRun (d : Dev) (n : Nat) : Dev :=
  ((d.fanGo n fnRun).wr F.FAN_STATUS_DUTY n 1024).fanMod n fun x => { x with low := 0, near := 0 }

/-- A measurement of a fan in OPENLOOP (R351). -/
def Dev.fanOpenMeas (d : Dev) (n rpm : Nat) : Dev :=
  let x := d.fan n
  let good := if d.fanTarget n * d.lowPct ≤ rpm * 100 then x.good + 1 else 0
  let c := d.judgeI n
  let bad := if c = 1 ∨ c = 2 then x.bad + 1 else 0
  let d := d.fanMod n fun x => { x with good := good, bad := bad }
  if d.faultN ≤ bad then d.fanFail n c
  else if 2 ≤ good then (d.fanRun n).tachClear
  else d

/-- The request that asked for commissioning is completed (R456). -/
def Dev.commDone (d : Dev) (n st : Nat) : Dev :=
  match (d.fan n).commId with
  | some i =>
    (d.fanMod n fun x => { x with commId := none }).complete i st
      (if st = msOk then le 2 (d.rd F.FAN_CURRENT_I_NOM n) ++ le 2 (d.rd F.FAN_REF_REF_DUTY n) else [])
  | none => d

/-- Where a commissioned fan goes: a reserve that serves no fan is IDLE again (R353), any other fan runs. -/
def Dev.commNext (d : Dev) (n : Nat) : Nat := if 16 ≤ n ∧ (d.serves n).isNone then fnIdle else fnRun

/-- A measurement in commissioning (R357): ten near REF_RPM in a row give REF_DUTY. -/
def Dev.fanCommMeas (d : Dev) (n rpm : Nat) : Dev :=
  if !(d.fan n).commLoop then d
  else
    let d := d.fanLoop n rpm
    let k := if near2 rpm (d.rd F.FAN_REF_REF_RPM n) then (d.fan n).near + 1 else 0
    let d := d.fanMod n fun x => { x with near := k }
    if 10 ≤ k then
      (((d.wr F.FAN_REF_REF_DUTY n (d.rd F.FAN_STATUS_DUTY n)).fanGo n (d.commNext n)).fanMod n fun x =>
        { x with commLoop := false, low := 0, near := 0 }).commDone n msOk
    else d

/-- A window ends with a speed (R346 to R351). -/
def Dev.fanMeasure (d : Dev) (n rpm : Nat) : Dev :=
  match (d.fan n).win with
  | none => d
  | some w =>
    let d := if w.iN = 0 then d else d.wr F.FAN_CURRENT_I_LAST n (min 65535 (w.iSum / w.iN))
    let d := (d.wr F.FAN_SPEED_RPM n rpm).fanMod n fun x => { x with win := none }
    let st := d.fst n
    let d :=
      if st = fnRun then
        if d.fanTarget n = 0 then d.fanGo n fnOff
        else (((d.fanLoop n rpm).fanAge n rpm).fanLow n rpm)
      else if st = fnTest then (d.fanLoop n rpm).fanLow n rpm
      else if st = fnOpen then d.fanOpenMeas n rpm
      else if st = fnComm then d.fanCommMeas n rpm
      else d
    if 16 ≤ n ∧ d.fst n ≠ fnFailed then d.rsvRelease n else d

/-! ### Supplies (R348, R359, R361, R369) -/

/-- Commissioning of a fan does not complete: the old values are kept. -/
def Dev.commFail (d : Dev) (n : Nat) : Dev :=
  let d := (d.wr F.COOL_ERR_COMMISSION_FAIL 0 1).wr F.FAN_CURRENT_I_NOM n (d.fan n).commOld
  ((d.fanGo n (d.commNext n)).fanMod n fun x => { x with commLoop := false, low := 0, near := 0, win := none }).commDone n msIntegrity

/-- A fan follows its supply rail and its target. -/
def Dev.fanFollow (d : Dev) (n : Nat) : Dev :=
  let st := d.fst n
  if !d.fanUsed n || st = fnFailed then d
  else if !d.fanSupply n then
    if st = fnOff ∨ st = fnIdle then d
    else
      let d := if st = fnComm then d.commFail n else d
      let idle : Bool := 16 ≤ n && (d.serves n).isNone
      (d.fanGo n (if idle then fnIdle else fnOff)).fanMod n fun x =>
        { x with win := none, low := 0, good := 0, bad := 0, near := 0, kickI := [], lastEdge := none, testing := false }
  else if st = fnOff ∧ (n < 16 ∨ (d.serves n).isSome = true) ∧ d.fanTarget n ≠ 0 then d.fanKick n true
  else d

/-- A pump follows its supply rail. -/
def Dev.pumpFollow (d : Dev) (p : Nat) : Dev :=
  if !d.is F.PUMP_CFG_USED p || d.is F.PUMP_STATUS_FAILED p then d
  else
    let st := d.rd F.PUMP_STATUS_STATE p
    if d.pumpSupply p ∧ st = 0 then
      (d.wr F.PUMP_STATUS_STATE p 1).pumpMod p fun x => { x with low := 0, graceAt := d.aont }
    else if ¬ d.pumpSupply p = true ∧ st = 1 then (d.wr F.PUMP_STATUS_STATE p 0).pumpMod p fun x => { x with low := 0 }
    else d

/-- A loop's grace time starts when the supply of a pump that names it is first ON; without such a pump, at once. -/
def Dev.loopFollow (d : Dev) (l : Nat) : Dev :=
  if (d.cloop l).grace.isSome then d
  else
    let ps := pumps4.filter fun p => d.is F.PUMP_CFG_USED p && d.rd F.PUMP_CFG_LOOP p = l
    if ps.isEmpty || ps.any d.pumpSupply then d.cloopMod l fun x => { x with grace := some d.aont } else d

/-- The block follows the rails. -/
def Dev.coolFollow (d : Dev) : Dev :=
  if !d.tableOk then d
  else (((List.range 4).foldl Dev.loopFollow (pumps4.foldl Dev.pumpFollow (fans18.foldl Dev.fanFollow d))).cover).coolShow

/-- MODE is set; commissioning ends when the mode leaves TEST (R357, R367). -/
def Dev.modeGo (d : Dev) (m : Nat) : Dev :=
  let d := { d.wr F.COOL_CTRL_MODE 0 m with cool.modeAt := d.aont }
  if m = cmTest then d else fans18.foldl (fun d n => if d.fst n = fnComm then d.commFail n else d) d

/-- MODE is written by PMC or SEC (R367). -/
def Dev.modeWrite (d : Dev) (m : Nat) : Dev :=
  let d := { d.modeGo m with cool.wdogIn := false }
  (if m = cmRun then d.wr F.COOL_STATUS_FULL_LATCH 0 0 else d).coolShow

/-- PMC's watchdog expires (R367). -/
def Dev.coolWdog (d : Dev) : Dev :=
  let m := d.rd F.COOL_CTRL_MODE
  if m = cmRun then (d.wr F.COOL_STATUS_FULL_LATCH 0 1).coolShow
  else if m = cmTest ∨ m = cmRecovery then { d with cool.wdogIn := true }
  else d

end Sys2Proof.Machine
end

