-- ==== Sys2Proof/Machine/FaultOps.lean ====
section
/-! DEFINITION. Shared operations of the fault machinery (spec/11): cores and their failures, CCC restarts, Endgame. -/

namespace Sys2Proof.Machine

abbrev causeCoreWdog : Cause := (7, 2, none)
abbrev causeCoreFailed : Cause := (7, 3, none)
abbrev causeEndgame : Cause := (7, 4, none)
abbrev causeChk : Cause := (0, 1, none)
abbrev causeConv : Cause := (0, 2, none)
abbrev causeSoftRepair : Cause := (0, 3, some 3)

/-- Core `k`. -/
def Dev.core' (d : Dev) (k : Nat) : Core := tget (fun _ => {}) d.flt.cores k
def Dev.coreMod (d : Dev) (k : Nat) (f : Core → Core) : Dev := { d with flt.cores := tset (fun _ => {}) d.flt.cores k (f (d.core' k)) }

/-- Number of a CCC among the cores. -/
def isCcc (k : Nat) : Bool := 3 ≤ k && k ≤ 10

/-- A core is released from reset: it starts, and its watchdog waits for the first kick (R385); `up` is set once its firmware
serves. -/
def Dev.coreRelease (d : Dev) (k : Nat) : Dev :=
  if (d.core' k).failed then d
  else d.coreMod k fun x => { x with up := false, released := true, relAt := d.aont, kickAt := none, period := 0 }

/-! ### Endgame (R391, R392) -/

/-- Endgame takes over with its cause. -/
def Dev.endgameEnter (d : Dev) (cause : Nat) : Dev :=
  if d.flt.endgame then d
  else
    let d : Dev := { d with
      flt.endgame := true
      flt.endAt := d.aont
      flt.endCause := cause
      flt.endAuto := !d.flt.endBoot
      boot.due := 0
      flt.cores := d.flt.cores.map fun (p : Nat × Core) => (p.1, { p.2 with up := false, released := false }) }
    let d := d.checkUpdate
    let d := (List.range 16).foldl Dev.rstAssert d
    let d : Dev := { accs8.foldl Dev.linksDown d with tw.segs := [], tw.avs := [] }
    (d.coolShow.ffr causeEndgame cause 0).emergUpdate

/-! ### Core failures (R387 to R389) -/

/-- Slots with a tile in cluster `c`. -/
def Dev.clusterSlots (d : Dev) (c : Nat) : List Nat := (List.range 32).filter fun n => (d.slotTiles n).any fun t => t / 9 = c

/-- Step 1 of R389: running invocations of the cluster's slots are aborted. A slot being retired retires (R127). -/
def Dev.cccDown (d : Dev) (c : Nat) : Dev :=
  (d.clusterSlots c).foldl (fun d n =>
    if d.sst n = ssRunning then ((d.tilesStop n).slMod n fun x => { x with rerun := true }).wr F.SLOT_STATE_STATE n ssRebuilding
    else if d.sst n = ssRetiring then (d.tilesStop n).slotFree n
    else if d.sst n = ssReady then d.wr F.SLOT_STATE_STATE n ssRebuilding
    else d) d

/-- Step 4 of R389: aborted invocations run again, slots are READY, pending triggers start; tile faults raised meanwhile are
acted on. -/
def Dev.cccBack (d : Dev) (c : Nat) : Dev :=
  let mine := d.arr.faults.filter fun f => f.1 / 9 = c
  let d : Dev := { d with arr.faults := d.arr.faults.filter fun f => f.1 / 9 ≠ c }
  let waiting := fun (d : Dev) (n : Nat) => d.sst n = ssRebuilding && !d.replacing n
  let d := mine.foldl (fun d f => if d.tileServes f.1 then d.tileFail f.1 f.2 else d) d
  (d.clusterSlots c).foldl (fun d n =>
    if waiting d n && d.slotUp n then
      let again := (d.sl n).rerun
      (d.slMod n fun x => { x with rerun := false }).slotResume n again
    else d) d

/-- A CCC fails for good: its cluster's tiles are fenced, its slots placed again (R85, R389). -/
def Dev.cccLost (d : Dev) (c : Nat) : Dev :=
  let slots := (d.clusterSlots c).filter fun n => d.sst n = ssRebuilding && !d.replacing n
  let served := ((List.range 9).map fun k => 9 * c + k).filter d.tileServes
  let d := slots.foldl (fun d n =>
    let x := d.sl n
    let q : LoadReq :=
      { entry := none, pkg := x.pkg, role := 0, maxLc := x.maxLc, baseId := [], denied := false, owner := x.owner, id := none,
        replaces := some n, derived := false }
    { d with arr.loads := d.arr.loads ++ [q] }) d
  let d := served.foldl (fun d t => d.tileLeave t tsFenced) d
  let d : Dev := { d with arr.faults := d.arr.faults.filter fun f => f.1 / 9 ≠ c }
  ((d.tilesLost served.length).wrBit F.ARR_STATUS_RESERVE_AVAIL 0 c false).noReserve c |>.loadsShow

/-- What PMC's watchdog expiry does to loads and cooling (R367, R388). -/
def Dev.pmcDown (d : Dev) : Dev :=
  let ids := d.arr.loads.filterMap fun q => q.id
  let entries := d.arr.loads.filterMap fun q => q.entry
  let d : Dev := { d with
    arr.loads := d.arr.loads.filter fun q => q.replaces.isSome
    arr.staging := d.arr.staging.filter fun p => !entries.contains p.1 }
  (ids.foldl (fun d i => d.complete i msNotReady) d).loadsShow.coolWdog

/-- What SCH's watchdog expiry does (R388): SUSPENDED groups are ACTIVE again, requests dispatched are answered NOT_READY. -/
def Dev.schDown (d : Dev) : Dev :=
  let d := (List.range 256).foldl (fun d g => if d.rd F.GRP_CTRL_STATE g = 2 then d.wr F.GRP_CTRL_STATE g 1 else d) d
  let d := d.wr F.SOB_STATUS_CASTLING 0 0
  let d := (if d.is F.MBX_STATUS_READY then (d.wr F.MBX_STATUS_READY 0 0).vector 3 else d).wr F.MBX_STATUS_SERVER 0 0
  let hs := d.mbx.held
  if hs.isEmpty then d
  else (hs.foldl (fun d h => d.replyHeld h.id { st := msNotReady, detail := 1 }) d).wr F.MBX_ERR_INTERRUPTED 0 1

end Sys2Proof.Machine
end

