-- ==== Sys2Proof/Machine/Cooling.lean ====
section
/-! DEFINITION. Cooling, leaks and coolant flow (spec/10): the meanings of its commands. -/

namespace Sys2Proof.Machine

/-! ### The cooling table (R343) -/

/-- Every USED fan meets its checks. -/
def Dev.fanOk (d : Dev) (n : Nat) : Bool :=
  !d.fanUsed n ||
    (30 ≤ d.rd F.FAN_CFG_FREQ_HZ n && d.rd F.FAN_CFG_FREQ_HZ n ≤ 1000 && d.rd F.FAN_LIMIT_MIN_RPM n < d.rd F.FAN_LIMIT_MAX_RPM n &&
      60000000000 ≤ d.rd F.FAN_LIMIT_MIN_RPM n * d.ppr n * (d.fWin - d.fSettle))

/-- Every USED loop meets its checks. -/
def Dev.loopOk (d : Dev) (l : Nat) : Bool :=
  !d.is F.LOOP_CFG_EN l ||
    (1 ≤ d.rd F.LOOP_FLOW_CFG_K l && d.rd F.LOOP_FLOW_CFG_FAULT l < d.rd F.LOOP_FLOW_CFG_WARN l &&
      d.rd F.LOOP_PRESS_CFG_P_LOW_MV l < d.rd F.LOOP_PRESS_CFG_P_HIGH_MV l)

/-- The loaded table passes the checks of R343. -/
def Dev.coolTableOk (d : Dev) : Bool :=
  fans18.all d.fanOk && [16, 17].all (fun r => fans16.all fun n => !bitOf (d.coverMask r) n || d.fanUsed n) &&
    (List.range 4).all d.loopOk &&
    (List.range 16).all fun z => !d.is F.LEAK_CFG_USED z || d.rd F.LEAK_CFG_WET_KOHM z < d.rd F.LEAK_CFG_OPEN_KOHM z

/-- The table takes effect: reserves are IDLE, the block follows the rails. -/
def Dev.coolCommit (d : Dev) : Dev :=
  if d.coolTableOk then
    let d := d.wr F.COOL_STATUS_TABLE_VALID 0 1
    let d := [16, 17].foldl (fun d r => if d.fanUsed r ∧ d.fst r = fnOff then d.fanGo r fnIdle else d) d
    d.coolFollow.readyTry
  else d.wr F.COOL_ERR_TABLE_REJECT 0 1

/-- COMMIT is accepted from SEC only. -/
def execCoolCommit (by_ : Agent) (s : State) : Res := s.run fun d => if by_ = .sec then d.coolCommit else d

/-! ### Fans (R345 to R358) -/

/-- A fan whose windows open: in RUN, OPENLOOP, a test or commissioning. -/
def Dev.fanTurns (d : Dev) (n : Nat) : Bool :=
  d.tableOk && d.fanUsed n && (d.fst n = fnRun || d.fst n = fnOpen || d.fst n = fnTest || d.fst n = fnComm)

/-- At a PERIOD boundary the window opens, and the drive is held on (R346). -/
def execFanWindowStart (n : Fin 18) (s : State) : Res :=
  s.run fun d =>
    let k := d.aont / d.fPeriod
    if d.fanTurns n ∧ (d.fan n).nextK ≤ k then
      (d.fanMod n fun x => { x with nextK := k + 1, win := some { start := k * d.fPeriod } }).coolShow
    else d

/-- An edge in KICK: two in a row that give MIN_RPM / 2 are the response (R348). -/
def Dev.kickEdge (d : Dev) (n : Nat) : Dev :=
  match (d.fan n).lastEdge with
  | some t =>
    if t < d.aont ∧ d.rd F.FAN_LIMIT_MIN_RPM n ≤ 2 * rpmOf (d.ppr n) (d.aont - t) then
      let test := (d.fan n).testing
      let d := d.fanMod n fun x => { x with testing := false, lastEdge := none, kickI := [] }
      if test then ((d.fanGo n fnTest).wr F.FAN_STATUS_DUTY n 1024).fanMod n fun x => { x with low := 0 }
      else d.fanRun n
    else d.fanMod n fun x => { x with lastEdge := some d.aont }
  | none => d.fanMod n fun x => { x with lastEdge := some d.aont }

/-- An edge in a window: the second after SETTLE ends it with a speed (R346). -/
def Dev.winEdge (d : Dev) (n : Nat) : Dev :=
  match (d.fan n).win with
  | some w =>
    if d.aont < w.start + d.fSettle ∨ w.start + d.fWin < d.aont then d
    else match w.edge with
      | none => d.fanMod n fun x => { x with win := some { w with edge := some d.aont } }
      | some e => if e < d.aont then d.fanMeasure n (rpmOf (d.ppr n) (d.aont - e)) else d
  | none => d

def execTachEdge (n : Fin 18) (s : State) : Res :=
  s.run fun d => if !d.tableOk then d else (if d.fst n = fnKick then d.kickEdge n else d.winEdge n).coolShow

/-- A window without a second edge ends at WIN and measures 0 rpm (R346). -/
def execFanWindowEnd (n : Fin 18) (s : State) : Res :=
  s.run fun d =>
    match (d.fan n).win with
    | some w => if w.start + d.fWin ≤ d.aont then (d.fanMeasure n 0).coolShow else d
    | none => d

/-- A serving reserve follows its fan's target (R353). -/
def Dev.setTarget (d : Dev) (n v : Nat) : Dev :=
  if (d.serves n).isSome then d
  else
    let d := d.wr F.FAN_TARGET_TARGET_RPM n v
    let d := if n < 16 ∧ d.is F.FAN_STATUS_COVERED n then d.wr F.FAN_TARGET_TARGET_RPM (d.rd F.FAN_STATUS_COVER_FAN n) v else d
    d.coolFollow

def execFanTargetWrite (n : Fin 18) (rpm : BitVec 16) (s : State) : Res := s.run (·.setTarget n rpm.toNat)

/-- No response within KICK: GAP, or after the third kick a judgement on the last 100 ms (R348, R350). -/
def Dev.kickExpiry (d : Dev) (n : Nat) : Dev :=
  let x := d.fan n
  if ¬ (d.fst n = fnKick ∧ x.since + d.kickNs ≤ d.aont) then d
  else
    let k := d.rd F.FAN_STATUS_KICKS n + 1
    let d := d.wr F.FAN_STATUS_KICKS n (min 3 k)
    if k < 3 then d.fanGo n fnGap
    else
      let l := x.kickI.filter fun p => d.aont < p.1 + 100000000
      let d := if l.isEmpty then d else d.wr F.FAN_CURRENT_I_LAST n (min 65535 ((l.map (·.2)).foldl (· + ·) 0 / l.length))
      d.fanJudge n

def execKickExpiry (n : Fin 18) (s : State) : Res := s.run fun d => (d.kickExpiry n).coolShow

def execKickGapEnd (n : Fin 18) (s : State) : Res :=
  s.run fun d => if d.fst n = fnGap ∧ (d.fan n).since + d.gapNs ≤ d.aont then (d.fanKick n false).coolShow else d

/-- FAN_STATUS.FAILED is written with 1 (R352, R354). -/
def Dev.fanClear (d : Dev) (n : Nat) : Dev :=
  if d.fst n ≠ fnFailed then d
  else
    let d := (d.wr F.FAN_STATUS_FAILED n 0).wr F.FAN_STATUS_CAUSE n 0
    if 16 ≤ n then (d.fanGo n fnIdle).coolShow else (d.fanGo n fnOff).coolFollow

def execFanFailedClear (n : Fin 18) (s : State) : Res := s.run (·.fanClear n)

/-- TEST_H in ns. -/
def Dev.testNs (d : Dev) : Nat := 3600000000000 * d.rd F.COOL_RSV_TEST_H

/-- A reserve's self-test falls due (R356). -/
def execReserveFanTest (r : Fin 2) (s : State) : Res :=
  s.run fun d =>
    let n := 16 + r.val
    let h := d.testNs
    let k := if h = 0 then 0 else d.aont / h
    if h = 0 ∨ k = 0 ∨ k ≤ (d.fan n).testK then d
    else
      let d := d.fanMod n fun x => { x with testK := k }
      if d.tableOk = true ∧ d.fanUsed n = true ∧ d.rd F.COOL_CTRL_MODE = cmRun ∧ d.fst n = fnIdle ∧ d.fanSupply n = true then ((d.fanMod n fun x => { x with testing := true }).fanKick n true).coolShow else d

def execReserveTestEnd (r : Fin 2) (s : State) : Res :=
  s.run fun d =>
    let n := 16 + r.val
    if d.fst n = fnTest ∧ (d.fan n).since + 1000000000 * max 1 (d.rd F.COOL_RSV_TEST_S) ≤ d.aont then
      ((d.fanGo n fnIdle).fanMod n fun x => { x with win := none, low := 0 }).coolShow
    else d

/-- A fan can be commissioned. -/
def Dev.commOk (d : Dev) (n : Nat) : Bool :=
  n < 18 && d.tableOk && d.fanUsed n && d.rd F.COOL_CTRL_MODE = cmTest && d.fst n ≠ fnFailed && d.fst n ≠ fnComm && d.fanSupply n

/-- Commissioning starts. -/
def Dev.commStart (d : Dev) (n : Nat) (id : Option Nat) : Dev :=
  ((d.fanGo n fnComm).fanMod n fun x =>
    { x with commLoop := false, commSum := 0, commN := 0, commOld := d.rd F.FAN_CURRENT_I_NOM n, near := 0, win := none, commId := id }).coolShow

/-- COMMISSION, from PMC in TEST (R357). -/
def execFanCommission (by_ : Agent) (n : Fin 18) (s : State) : Res :=
  s.run fun d => if by_ = .pmc ∧ d.commOk n.val = true then d.commStart n.val none else d

/-- After 10 s of full drive I_NOM is the mean of the last second, and the speed loop starts. -/
def execCommissionINomMeasured (n : Fin 18) (s : State) : Res :=
  s.run fun d =>
    let x := d.fan n
    if d.fst n = fnComm ∧ !x.commLoop ∧ x.since + 10000000000 ≤ d.aont then
      let d := if x.commN = 0 then d else d.wr F.FAN_CURRENT_I_NOM n (min 65535 (x.commSum / x.commN))
      ((d.wr F.FAN_STATUS_DUTY n 1024).fanMod n fun x => { x with commLoop := true }).coolShow
    else d

def execCommissionTimeout (n : Fin 18) (s : State) : Res :=
  s.run fun d => if d.fst n = fnComm ∧ (d.fan n).since + 60000000000 ≤ d.aont then (d.commFail n).coolShow else d

/-! ### Pumps (R359) -/

/-- A pump becomes FAILED. -/
def Dev.pumpFail (d : Dev) (p : Nat) : Dev :=
  (((d.wr F.PUMP_STATUS_FAILED p 1).wr F.PUMP_STATUS_STATE p 2).wr F.COOL_ERR_PUMP_FAULT 0 1).ffr causePump p 0 |>.event 5 1 p

/-- The end of a PERIOD: `t` ns is the last complete edge interval in it, 0 where there is none. -/
def Dev.pumpMeasure (d : Dev) (p t : Nat) : Dev :=
  let k := d.aont / d.fPeriod
  if ¬ (d.tableOk = true ∧ d.is F.PUMP_CFG_USED p = true ∧ (d.pump' p).nextK < k) then d
  else
    let d := d.pumpMod p fun x => { x with nextK := k }
    let rpm := rpmOf (d.rd F.PUMP_CFG_PPR p + 1) t
    let d := d.wr F.PUMP_STATUS_RPM p rpm
    let floor := 4 * d.rd F.PUMP_CFG_MIN_DUTY p
    let tgt := min (d.rd F.PUMP_TARGET_MAX_RPM p) (d.rd F.PUMP_TARGET_TARGET_RPM p)
    if d.rd F.PUMP_STATUS_STATE p ≠ 1 then d.coolShow
    else if tgt = 0 then ((d.wr F.PUMP_STATUS_DUTY p floor).pumpMod p fun x => { x with low := 0 }).coolShow
    else
      let dty := d.rd F.PUMP_STATUS_DUTY p
      let d := d.wr F.PUMP_STATUS_DUTY p (loopStep tgt rpm (d.rd F.COOL_TACH_CFG_GAIN) (d.rd F.PUMP_CFG_MIN_DUTY p) dty)
      let x := d.pump' p
      let grace : Bool := d.aont < x.graceAt + 1000000000 * d.rd F.COOL_FLOW_CFG_GRACE_S
      let low := if grace then 0 else if rpm * 100 < tgt * d.lowPct then x.low + 1 else 0
      let d := d.pumpMod p fun x => { x with low := low }
      (if max 2 (d.rd F.COOL_FLOW_CFG_PUMP_FAULT) ≤ low then d.pumpFail p else d).coolShow

def execPumpMeasurement (p : Fin 4) (t : Word) (s : State) : Res := s.run (·.pumpMeasure p t.toNat)

def execPumpTargetWrite (p : Fin 4) (rpm : BitVec 16) (s : State) : Res :=
  s.run fun d =>
    let d' := if d.rd F.PUMP_TARGET_TARGET_RPM p = 0 ∧ rpm.toNat ≠ 0 then d.pumpMod p fun x => { x with graceAt := d.aont, low := 0 } else d
    let d' := d'.wr F.PUMP_TARGET_TARGET_RPM p rpm.toNat
    if rpm.toNat = 0 ∧ d.tableOk = true ∧ d.rd F.PUMP_STATUS_STATE p = 1 then d'.wr F.PUMP_STATUS_DUTY p (4 * d.rd F.PUMP_CFG_MIN_DUTY p) else d'

/-- PUMP_STATUS.FAILED is written with 1. -/
def Dev.pumpClear (d : Dev) (p : Nat) : Dev :=
  if d.is F.PUMP_STATUS_FAILED p then
    (((d.wr F.PUMP_STATUS_FAILED p 0).wr F.PUMP_STATUS_STATE p (d.pumpSupply p).toNat).pumpMod p fun x => { x with low := 0 }).coolShow
  else d

def execPumpFailedClear (p : Fin 4) (s : State) : Res := s.run (·.pumpClear p.val)

/-! ### Coolant loops (R360 to R362) -/

def Dev.fwinNs (d : Dev) : Nat := 10000000 * max 5 (d.rd F.COOL_FLOW_CFG_FWIN)

/-- The present window of a loop changes. -/
def Dev.loopWin (d : Dev) (l : Nat) (f : LoopWin → LoopWin) : Dev :=
  let k := d.aont / d.fwinNs
  d.cloopMod l fun x => { x with wins := tset (fun _ => {}) x.wins k (f (tget (fun _ => {}) x.wins k)) }

def execFlowEdge (l : Fin 4) (s : State) : Res :=
  s.run fun d => if d.tableOk ∧ d.is F.LOOP_CFG_EN l then d.loopWin l fun w => { w with edges := w.edges + 1 } else d

/-- Window `k` of a loop is evaluated (R361). -/
def Dev.loopEval (d : Dev) (l k : Nat) : Dev :=
  let w : LoopWin := tget (fun _ => {}) (d.cloop l).wins k
  let flow := w.edges * 600000 / (d.rd F.LOOP_FLOW_CFG_K l * (d.fwinNs / 1000000))
  let press := w.pSum / w.pN
  let d := d.wr F.LOOP_STATUS_FLOW l (min 65535 flow)
  let d := if w.pN = 0 then d else d.wr F.LOOP_STATUS_PRESS_MV l (min 65535 press)
  let fail : Bool := flow < 5 * d.rd F.LOOP_FLOW_CFG_FAULT l || (w.pN ≠ 0 && press < d.rd F.LOOP_PRESS_CFG_P_LOW_MV l)
  let warn : Bool := flow < 5 * d.rd F.LOOP_FLOW_CFG_WARN l
  let high : Bool := w.pN ≠ 0 && d.rd F.LOOP_PRESS_CFG_P_HIGH_MV l < press
  let fails := if fail then (d.cloop l).fails + 1 else 0
  let d := d.cloopMod l fun x => { x with fails := fails, lastFail := fail }
  let d := (d.wr F.LOOP_CFG_WARN l warn.toNat).wr F.LOOP_CFG_PRESS_HIGH l high.toNat
  let d := if warn then d.wr F.COOL_ERR_FLOW_WARN 0 1 else d
  let d := if high then d.wr F.COOL_ERR_PRESS_HIGH 0 1 else d
  if fail ∧ max 1 (d.rd F.COOL_FLOW_CFG_FLOW_N) ≤ fails ∧ ¬ d.is F.LOOP_CFG_FAULT l then
    ((((d.wr F.LOOP_CFG_FAULT l 1).wr F.COOL_ERR_FLOW_FAULT 0 1).ffr causeFlow l flow).event 5 2 l).mateTrigger
  else d

def execFlowWindowEvaluation (l : Fin 4) (s : State) : Res :=
  s.run fun d =>
    let f := d.fwinNs
    let k := (d.aont - 1000) / f - 1
    if ¬ (d.tableOk = true ∧ d.is F.LOOP_CFG_EN l = true ∧ f + 1000 ≤ d.aont ∧ (d.cloop l).nextK ≤ k) then d
    else
      let graced : Bool := match (d.cloop l).grace with
        | some g => g + 1000000000 * d.rd F.COOL_FLOW_CFG_GRACE_S < (k + 1) * f
        | none => false
      let d := d.wr F.LOOP_CFG_GRACE l ((d.cloop l).grace.isSome && !graced).toNat
      let d := if graced then d.loopEval l k else d
      (d.cloopMod l fun x => { x with nextK := k + 1, wins := x.wins.filter fun p => k < p.1 }).coolShow

/-- LOOP_CFG.FAULT is written with 1 (R362). -/
def Dev.loopClear (d : Dev) (l : Nat) : Dev := if (d.cloop l).lastFail then d else (d.wr F.LOOP_CFG_FAULT l 0).mateShow.coolShow

def execLoopFaultClear (l : Fin 4) (s : State) : Res := s.run (·.loopClear l.val)

/-! ### Leaks (R363, R364) -/

/-- Class of a resistance, by the codes of LEAK_STATUS.STATE: 0 DRY, 1 WET, 2 OPEN, 3 SHORT. -/
def Dev.leakClass (d : Dev) (z r : Nat) : Nat :=
  if r < 1 then 3 else if r < d.rd F.LEAK_CFG_WET_KOHM z then 1 else if r ≤ d.rd F.LEAK_CFG_OPEN_KOHM z then 0 else 2

/-- A zone's report. -/
def Dev.leakOne (d : Dev) (z r : Nat) : Dev :=
  if ¬ (d.tableOk = true ∧ d.is F.LEAK_CFG_USED z = true) then d
  else
    let c := d.leakClass z r
    let x : LeakZ := tget (fun _ => {}) d.cool.leaks z
    let run := if x.cls = c then x.run + 1 else 1
    let d : Dev := { d with cool.leaks := tset (fun _ => {}) d.cool.leaks z { cls := c, run := run } }
    let d := d.wr F.LEAK_STATUS_R_KOHM z r
    if run ≠ max 1 (d.rd F.LEAK_CFG_LEAK_N z) then d
    else
      let d := d.wr F.LEAK_STATUS_STATE z c
      if c = 1 ∨ c = 3 then ((((d.wr F.LEAK_STATUS_LATCHED z 1).wr F.COOL_ERR_LEAK 0 1).ffr causeLeak z c).event 5 3 z).mateTrigger
      else if c = 2 then (d.wr F.COOL_ERR_LEAK_OPEN 0 1).ffr causeLeakOpen z 0
      else d

/-- The sixteen ropes' report. -/
def execLeakReport (r : List (BitVec 12)) (s : State) : Res :=
  s.run fun d => (r.take 16).zipIdx.foldl (fun d p => d.leakOne p.2 p.1.toNat) d

/-- LEAK_STATUS.LATCHED is written with 1 (R364). -/
def Dev.leakClear (d : Dev) (z : Nat) : Dev := if d.rd F.LEAK_STATUS_STATE z = 0 then (d.wr F.LEAK_STATUS_LATCHED z 0).mateShow else d

def execLeakLatchClear (z : Fin 16) (s : State) : Res := s.run (·.leakClear z.val)

/-! ### Temperature inputs (R365, R366) -/

/-- A conversion of TD_i: two in a row above HOT, or below HOT − HYST, change its state; a fault counts as HOT. -/
def Dev.tdConv (d : Dev) (i temp : Nat) (fault : Bool) : Dev :=
  if ¬ (d.tableOk = true ∧ d.is F.TD_CFG_USED i = true) then d
  else
    let x : Td := tget (fun _ => {}) d.cool.tds i
    let t := signed 16 temp
    let hot : Int := 64 * (d.rd F.TD_CFG_HOT i : Nat)
    let low : Int := hot - 64 * (d.rd F.TD_CFG_HYST i : Nat)
    let above := if !fault && decide (hot < t) then x.above + 1 else 0
    let below := if !fault && decide (t < low) then x.below + 1 else 0
    let y : Td := if fault then { x with above := 0, below := 0 }
      else { hot := if x.hot then !decide (2 ≤ below) else decide (2 ≤ above), above := above, below := below }
    let d : Dev := { d with cool.tds := tset (fun _ => {}) d.cool.tds i y }
    let d := (d.wr F.TD_STATUS_TEMP i temp).wr F.TD_STATUS_FAULT i fault.toNat
    let d := if fault then d.wr F.COOL_ERR_TD_FAULT 0 1 else d
    (d.wr F.TD_STATUS_HOT i (y.hot || fault).toNat).coolShow

def execTdConversion (i : Fin 32) (temp : BitVec 16) (fault : Bool) (s : State) : Res := s.run (·.tdConv i temp.toNat fault)

/-! ### The mode (R367) -/

def execCoolModeWrite (by_ : Agent) (m : Fin 4) (s : State) : Res :=
  s.run fun d => if by_ = .pmc ∨ by_ = .sec then d.modeWrite m else d

/-- TEST and RECOVERY end after MODE_MAX. -/
def execCoolModeTimeout (s : State) : Res :=
  s.run fun d =>
    let m := d.rd F.COOL_CTRL_MODE
    if (m = cmTest ∨ m = cmRecovery) ∧ d.cool.modeAt + 1000000000 * max 1 (d.rd F.COOL_CTRL_MODE_MAX) ≤ d.aont then
      let late := d.cool.wdogIn
      let d := { d.modeGo cmRun with cool.wdogIn := false }
      (if late then d.wr F.COOL_STATUS_FULL_LATCH 0 1 else d).coolShow
    else d

end Sys2Proof.Machine
end

