-- ==== Sys2Proof/Machine/Sequencer.lean ====
section
/-! DEFINITION. Supplies, sequencing and resets (spec/09): the meanings of the sequencer's commands, and the clearing of
MATE, which the sequencer follows. -/

namespace Sys2Proof.Machine

/-- The SYS domain starts: GTS is loaded from AONT, then SEC is released (R33). `due`: the boot ROM is to make. -/
def Dev.sysStart (d : Dev) (due : Nat) : Dev :=
  ({ d with sysOn := true, gts := d.aont, boot.due := due, boot.dueAt := d.aont, boot.coreLost := false, pwr.frameNow := frameOf d.aont }).coreRelease 0

/-- Core power is present: the self rails are ON. -/
def Dev.corePower (d : Dev) : Bool := d.rail 0 = rlOn && d.rail 1 = rlOn && d.rail 2 = rlOn

/-- Domain 0 is ON for the first time since a cold reset: core power-on reset is released (R324 step 7). -/
def Dev.sysTry (d : Dev) : Dev :=
  if d.corePower && !d.sysOn && !d.boot.coreLost && !d.boot.asleep && d.boot.due = 0 && !d.flt.endgame && !d.seq.coldDown then d.sysStart 1
  else d

/-- Every event of the sequencer ends here: it settles, the cooling block follows the rails, the SYS domain starts with domain 0,
and a second failure of a self rail leaves domain 0 OFF and hands over to Endgame (R326, R391). -/
def Dev.seqEnd (d : Dev) : Dev :=
  let d := d.seqSettle.coolFollow.sysTry
  if 2 ≤ d.seq.selfFails ∧ ¬ d.flt.endgame = true then ((d.domDown [0]).seqSettle.coolFollow).endgameEnter 3 else d

/-! ### MATE (R267, R269) -/

/-- After the MATE delay the MATE-governed domains power down. -/
def execMatePowerdownStart (s : State) : Res :=
  s.run fun d =>
    match d.pwr.mateDown with
    | some t =>
      if t ≤ d.aont then (({ d with pwr.mateDown := none }).domDown (domains16.filter fun k => d.is F.SEQ_DOM_CFG_MATE k)).seqEnd
      else d
    | none => d

/-- A write of PWC_MATE_CLEAR: KEY 0x5A96 and CLEAR; held MATE domains power up again. -/
def execMateClear (v : Word) (s : State) : Res :=
  s.run fun d => if v.toNat / 65536 = 0x5A96 ∧ v.toNat % 2 = 1 then d.mateClear.2.seqEnd else d

/-! ### The start of the AON island (R324) -/

/-- VIN rises through 38 V. -/
def execBringupOn (s : State) : Res :=
  s.run fun d => if d.seq.vinUp then d else { d with seq.vinUp := true, seq.xtal := 0, seq.xtalAt := d.aont }

/-- The crystal is stable. -/
def execCrystalStable (s : State) : Res :=
  s.run fun d => if d.seq.vinUp ∧ d.seq.xtal = 0 then { d with seq.xtal := 1 } else d

/-- The crystal is not stable within 10 ms. -/
def execCrystalStartTimeout (s : State) : Res :=
  s.run fun d =>
    if d.seq.vinUp ∧ d.seq.xtal = 0 ∧ d.seq.xtalAt + 10000000 ≤ d.aont then
      { d.wr F.GLB_CLK_STATUS_RC_ACTIVE 0 1 with seq.xtal := 2 }
    else d

/-! ### The hot-swap controller (R318 to R322) -/

/-- Start permission: VIN at START or above for 1 ms, with no overvoltage. -/
def Dev.startOk (d : Dev) : Bool :=
  d.seq.vinUp && d.seq.xtal ≠ 0 && !d.is F.SEQ_BUS_STATUS_OV &&
    (match d.pwr.startSince with | some t => t + 1000000 ≤ d.aont | none => false)

/-- START is entered from OFF with start permission. -/
def Dev.startTry (d : Dev) : Dev := if d.hsw = hsOff ∧ d.seq.coldDown = false ∧ d.startOk = true then d.hswStart else d

def execStartPermitted (s : State) : Res := s.run (·.startTry)

/-- T_MAX, ns. -/
def Dev.tMax (d : Dev) : Nat := 1000000 * max 10 (d.rd F.SEQ_HSW_CFG_T_MAX)

/-- A hot-swap fault is seen; T_MAX expires only in START. -/
def execHotswapFault (cause : HswCause) (s : State) : Res :=
  s.run fun d =>
    match cause with
    | .ov => (d.hswFault 1).seqEnd
    | .fastTrip => (d.hswFault 2).seqEnd
    | .tMax => if d.hsw = hsStart ∧ d.seq.hswAt + d.tMax ≤ d.aont then (d.hswFault 4).seqEnd else d

/-- START ends in ON. -/
def execHswOn (s : State) : Res := s.run fun d => if d.hsw = hsStart then (d.hswGo hsOn).seqEnd else d

/-- Current above ILIM_RUN. -/
def execHswLimitEntry (s : State) : Res :=
  s.run fun d => if d.hsw = hsOn then (d.wr F.SEQ_HSW_STATUS_STATE 0 hsLimit).emergUpdate else d

/-- Current below ILIM_RUN for 100 µs. -/
def execHswLimitExit (s : State) : Res :=
  s.run fun d => if d.hsw = hsLimit then (d.wr F.SEQ_HSW_STATUS_STATE 0 hsOn).emergUpdate else d

/-- FET current in mA from the shunt voltage in nV (R322). -/
def Dev.fetMa (d : Dev) (vs : Nat) : Nat := vs / min 5000 (max 50 (d.rd F.SEQ_HSW_SHUNT_MICRO_OHM))

/-- SOA_E, pJ. -/
def Dev.soaLimit (d : Dev) : Nat := d.rd F.SEQ_HSW_SOA_SOA_E * 10 ^ 11

/-- E, with its display as a percentage of SOA_E. -/
def Dev.soaSet (d : Dev) (e : Nat) : Dev :=
  { d.wr F.SEQ_HSW_STATUS_E_PCT 0 (if d.soaLimit = 0 then 255 else min 255 (e * 100 / d.soaLimit)) with seq.soaE := e }

/-- One microsecond of the SOA integrator (R320): VDS in mV, the shunt voltage in nV. -/
def Dev.soaTick (d : Dev) (vds vs : Nat) : Dev :=
  let gate : Bool := d.hsw = hsStart || d.fetOn
  if 1000 < vds ∧ gate = true then
    let d' : Dev := { d.soaSet (d.seq.soaE + vds * d.fetMa vs) with seq.decayUs := 0 }
    if d'.soaLimit ≤ d'.seq.soaE then (d'.hswFault 3).seqEnd else d'
  else if 100000 ≤ d.seq.decayUs + 1 then { d.soaSet (d.seq.soaE / 2) with seq.decayUs := 0 }
  else { d with seq.decayUs := d.seq.decayUs + 1 }

def execSoaIntegrate (vds : BitVec 17) (vs : BitVec 27) (s : State) : Res := s.run (·.soaTick vds.toNat vs.toNat)

/-- COOL ends: the controller waits for start permission, and the next START is a restart. -/
def execHswCoolEnd (s : State) : Res :=
  s.run fun d =>
    if d.hsw = hsCool ∧ d.seq.hswAt + 100000000 * max 1 (d.rd F.SEQ_HSW_SOA_COOL) ≤ d.aont then
      { d.hswGo hsOff with seq.restartDue := true }
    else d

/-! ### Undervoltage (R323) -/

/-- VBUS below UV_FAULT for 10 µs. -/
def execUvFault (s : State) : Res :=
  s.run fun d =>
    match d.pwr.uvfSince with
    | some t =>
      if t + 10000 ≤ d.aont then
        let d : Dev := { (d.wr F.SEQ_BUS_STATUS_UV_FAULT 0 1).wr F.SEQ_ERR_BUS_UV 0 1 with seq.uvHold := true }
        (d.domDown ((List.range 14).map (· + 2))).seqEnd.emergUpdate
      else d
    | none => d

/-- VIN above UV_FAULT + 1 V for 100 ms: a requested domain without AUTO_RESTORE stays OFF. -/
def execUvRestore (s : State) : Res :=
  s.run fun d =>
    match d.seq.uvAbove with
    | some t =>
      if d.seq.uvHold ∧ t + 100000000 ≤ d.aont then
        let block := maskOf 16 fun k => bitOf d.seq.uvBlock k || (2 ≤ k && d.domReq k && !d.is F.SEQ_DOM_CFG_AUTO_RESTORE k)
        ({ d with seq.uvHold := false, seq.uvBlock := block }).seqEnd
      else d
    | none => d

/-! ### The graph (R329) -/

/-- Rails of the graph left after taking away, `k` times, those whose rail parents are all gone. -/
def Dev.peel (d : Dev) : Nat → List Nat → List Nat
  | 0, l => l
  | k + 1, l => d.peel k (l.filter fun n => (d.railPars n).any l.contains)

/-- One USED rail meets its checks. -/
def Dev.railOk (d : Dev) (n : Nat) : Bool :=
  let ps := d.railPars n
  !ps.isEmpty && ps.all (fun p => p = 0x7E || (p < 96 && d.railUsed p)) &&
    ps.all (fun p => p = 0x7E || d.railDom p = d.railDom n || d.railDom p ≤ 1) && (n < 3 || 1 ≤ d.railDom n) &&
    (!d.is F.SEQ_RAIL_PG_SRC n || d.rd F.SEQ_RAIL_THR_UV_MV n < d.rd F.SEQ_RAIL_THR_OV_MV n)

/-- The loaded graph passes every check. -/
def Dev.graphOk (d : Dev) : Bool :=
  let used := rails96.filter d.railUsed
  used.all d.railOk && (d.peel 96 used).isEmpty &&
    [0, 1].all (fun k => !d.is F.SEQ_DOM_CFG_MATE k && !d.is F.SEQ_DOM_CFG_ACC_VALID k) &&
    (List.range 16).all (fun k => !d.is F.SEQ_RST_CFG_USED k || (d.rstGate k < 96 && d.railUsed (d.rstGate k))) &&
    domains16.all fun k => k = 0 || d.dom k = dmOff

/-- COMMIT by SEC: the graph is in force, and the BOOT_ON domains are requested; or it is refused. -/
def Dev.seqCommit (d : Dev) : Dev :=
  if d.graphOk then
    ((domains16.foldl (fun d k => if d.is F.SEQ_DOM_CFG_BOOT_ON k then d.wrBit F.SEQ_DOM_REQ_REQ 0 k true else d)
      (d.wr F.SEQ_CTRL_GRAPH_VALID 0 1))).seqEnd.readyTry
  else d.wr F.SEQ_ERR_GRAPH_REJECT 0 1

def execSeqCommit (by_ : Agent) (s : State) : Res := s.run fun d => if by_ = .sec then d.seqCommit else d

/-! ### Domains (R328, R334, R335) -/

/-- Whether a request is accepted (R328). -/
def Dev.domReqOk (d : Dev) (k : Nat) (on : Bool) : Bool :=
  on || (k ≠ 0 && !(k = 1 && domains16.any fun j => 2 ≤ j && d.domReq j))

/-- A domain request reaches the sequencer. -/
def Dev.domRequest (d : Dev) (k : Nat) (on : Bool) : Dev :=
  if d.domReqOk k on then
    let d := d.wrBit F.SEQ_DOM_REQ_REQ 0 k on
    if on then d.seqEnd else (({ d with seq.uvBlock := putBit d.seq.uvBlock k false }).domDown [k]).seqEnd
  else d

def execDomainRequest (dom : Fin 16) (on : Bool) (s : State) : Res := s.run (·.domRequest dom.val on)

/-! ### Rails (R332 to R337) -/

/-- A parent is ON: the hot-swap FET, or a rail. -/
def Dev.parOn (d : Dev) (p : Nat) : Bool := if p = 0x7E then d.fetOn else p < 96 && d.railOn p

/-- When a parent became ON. -/
def Dev.parSince (d : Dev) (p : Nat) : Nat := if p = 0x7E then d.seq.hswAt else (d.rlT p).since

/-- A rail is enabled: its chatter count clears, and power-good seen already is the first good. -/
def Dev.railEnable (d : Dev) (n : Nat) : Dev :=
  let d := (((d.railEn n true).railGo n rlRamp).wr F.SEQ_RAIL_STATUS_CHATTER n 0).rlTMod n fun x =>
    { x with enAt := d.aont, adcRun := 0, goodAt := d.aont }
  if d.is F.SEQ_RAIL_STATUS_PG n then d.railGo n rlQual else d

/-- DELAY_ON has run since every parent is ON. -/
def execDelayOnExpiry (n : Fin 96) (s : State) : Res :=
  s.run fun d =>
    let ps := d.railPars n.val
    if d.rail n.val = rlWait ∧ d.fetOn = true ∧ ps.all d.parOn = true ∧
        ps.foldl (fun m p => max m (d.parSince p)) (d.rlT n.val).since + d.delayOn n.val ≤ d.aont then
      (d.railEnable n.val).seqEnd
    else d

/-- The deglitched power-good level of a rail changes (R332, R333, R335); a rail outside the graph ignores its source. -/
def Dev.pgChange (d : Dev) (n : Nat) (good : Bool) : Dev :=
  if !d.railUsed n || d.is F.SEQ_RAIL_STATUS_PG n = good then d
  else
    let st := d.rail n
    let d := (d.wr F.SEQ_RAIL_STATUS_PG n good.toNat).rlTMod n fun x => { x with adcRun := 0 }
    if good then
      if st = rlRamp then (d.railGo n rlQual).rlTMod n fun x => { x with goodAt := d.aont } else d
    else if st = rlQual then
      let d := d.inc F.SEQ_RAIL_STATUS_CHATTER n
      if 8 ≤ d.rd F.SEQ_RAIL_STATUS_CHATTER n then d.railFail n rfChatter else d.railGo n rlRamp
    else if st = rlOn ∨ st = rlDrain then d.railFail n rfPgLost
    else if st = rlFall then d.railGo n rlOff
    else d

def execPowerGoodChange (n : Fin 96) (good : Bool) (s : State) : Res := s.run fun d => (d.pgChange n.val good).seqEnd

/-- Power-good has been good for t_qual, by the deadline of R332. -/
def Dev.qualified (d : Dev) (n : Nat) : Bool :=
  let x := d.rlT n
  d.rail n = rlQual && x.goodAt + d.tQual n ≤ d.aont && x.goodAt ≤ x.enAt + d.tRise n

def execQualComplete (n : Fin 96) (s : State) : Res :=
  s.run fun d => if d.qualified n.val then (d.railGo n.val rlOn).seqEnd else d

/-- No good by E + T_RISE; the deadline no longer applies after a return to RAMP. -/
def execRampTimeout (n : Fin 96) (s : State) : Res :=
  s.run fun d =>
    if d.rail n.val = rlRamp ∧ d.rd F.SEQ_RAIL_STATUS_CHATTER n.val = 0 ∧ (d.rlT n.val).enAt + d.tRise n.val ≤ d.aont then
      (d.railFail n.val rfRamp).seqEnd
    else d

/-- Not ON by E + T_RISE + t_qual; qualification in the same cycle goes first (R185). -/
def execQualTimeout (n : Fin 96) (s : State) : Res :=
  s.run fun d =>
    if (d.rail n.val = rlRamp ∨ d.rail n.val = rlQual) ∧ (d.rlT n.val).enAt + d.tRise n.val + d.tQual n.val ≤ d.aont then
      (if d.qualified n.val then d.railGo n.val rlOn else d.railFail n.val rfQual).seqEnd
    else d

/-- When a draining rail may be disabled: its children are off, every LEAD has run, then DELAY_OFF. -/
def Dev.drained (d : Dev) (n : Nat) : Bool :=
  let kids := rails96.filter fun m => d.railUsed m && (d.railPars m).contains n
  let resets := (List.range 16).filter fun k => d.is F.SEQ_RST_CFG_USED k && d.rstGate k = n
  let t := kids.foldl (fun t m => max t (d.rlT m).since) (d.rlT n).since
  let t := resets.foldl (fun t k => max t (tget (fun _ => 0) d.seq.rstAt k + d.lead k)) t
  d.rail n = rlDrain && kids.all (fun m => d.rail m = rlOff || d.rail m = rlFailed) && t + d.delayOff n ≤ d.aont

def execDrainComplete (n : Fin 96) (s : State) : Res :=
  s.run fun d => if d.drained n.val then (d.railFall n.val).seqEnd else d

/-- T_FALL runs out with power-good still good. -/
def execFallTimeout (n : Fin 96) (s : State) : Res :=
  s.run fun d =>
    if d.rail n.val = rlFall ∧ d.is F.SEQ_RAIL_STATUS_PG n.val = true ∧ (d.rlT n.val).since + d.tFall n.val ≤ d.aont then
      (d.railFail n.val rfFall).seqEnd
    else d

/-- A FAILED rail is cleared: it is OFF. -/
def Dev.railClear (d : Dev) (n : Nat) : Dev :=
  if d.rail n = rlFailed then ((d.wr F.SEQ_RAIL_STATUS_FAILED n 0).wr F.SEQ_RAIL_STATUS_CAUSE n 0).railGo n rlOff else d

def execRailFailedClear (n : Fin 96) (s : State) : Res := s.run fun d => (d.railClear n.val).seqEnd

/-! ### Presence (R328) -/

/-- PRSNT#_a has been deasserted for 100 µs: its domains power down, their requests stay. -/
def execPrsntRemoved (a : Fin 8) (s : State) : Res :=
  s.run fun d =>
    if d.present a.val = false ∧ tget (fun _ => 0) d.seq.prsntAt a.val + 100000 ≤ d.aont then
      (d.domDown (domains16.filter fun k => d.is F.SEQ_DOM_CFG_ACC_VALID k && d.rd F.SEQ_DOM_CFG_ACC k = a.val)).seqEnd
    else d

/-- PRSNT#_a has been asserted for 100 ms: held domains power up. -/
def execPrsntQualified (a : Fin 8) (s : State) : Res := s.run fun d => if d.prsntOk a.val then d.seqEnd else d

/-! ### Reset outputs (R339) -/

def execResetStretchDone (k : Fin 16) (s : State) : Res := s.run (·.rstRelease k.val)

/-- A write of SEQ_RST_HOLD: held outputs are asserted; a released one is deasserted once its stretch has run. -/
def Dev.rstHold (d : Dev) (hold : Nat) : Dev :=
  (List.range 16).foldl (fun d k => if bitOf hold k then d.rstAssert k else d.rstRelease k) (d.wr F.SEQ_RST_HOLD_HOLD 0 hold)

def execRstHoldWrite (hold : BitVec 16) (s : State) : Res := s.run (·.rstHold hold.toNat)

/-! ### Domain 0 tried again; the end of a cold reset (R326, R43) -/

/-- One second after a self rail failed: domain 0 is tried again once. -/
def execSelfRailRetry (s : State) : Res :=
  s.run fun d =>
    match d.seq.selfRetry with
    | some t =>
      if t ≤ d.aont ∧ [0, 1, 2].all (fun n => d.rail n = rlOff || d.rail n = rlFailed || d.rail n = rlOn) = true then
        let d' : Dev := { [0, 1, 2].foldl Dev.railClear d with seq.selfRetry := none }
        (d'.domGo 0 dmOff).seqEnd
      else d
    | none => d

/-- 100 ms after a cold reset turned the FET off, START begins again. -/
def execColdRestartDelay (s : State) : Res :=
  s.run fun d =>
    match d.seq.coldOff with
    | some t =>
      if t + 100000000 ≤ d.aont then ({ d with seq.coldDown := false, seq.coldOff := none }).startTry else d
    | none => d

end Sys2Proof.Machine
end

