-- ==== Sys2Proof/Machine/Faults.lean ====
section
/-! DEFINITION. Sensor, memory and oscillator faults (spec/11), and the slow converters (spec/14): the meanings of their
commands. -/

namespace Sys2Proof.Machine

/-! ### HBM soft repair (R378, R379) -/

/-- PMC requests the repair of an HBM row; without repair resources left (`room`) the row stays as it is. -/
def execHbmSoftRepair (row : Word) (room : Bool) (s : State) : Res :=
  s.run fun d =>
    if d.coreUp corePmc ∧ room = true then
      ({ d with flt.hbmRows := row.toNat :: d.flt.hbmRows.filter (· ≠ row.toNat) }).ffr causeSoftRepair row.toNat 0
    else d

/-! ### The slow converters (R381, R498 to R500) -/

/-- Consecutive scans in which converter `k` (4: the spare) was suspect. -/
def Dev.suspectRun (d : Dev) (k : Nat) : Nat := tget (fun _ => 0) d.flt.convSuspect k

/-- Count a scan of converter `k`. -/
def Dev.suspectSet (d : Dev) (k : Nat) (bad : Bool) : Dev :=
  { d with flt.convSuspect := tset (fun _ => 0) d.flt.convSuspect k (if bad then d.suspectRun k + 1 else 0) }

/-- Converter `k` fails: the spare takes its channels, if it is free. -/
def Dev.convFail (d : Dev) (k : Nat) : Dev :=
  let d := (d.wrBit F.TLM_STATUS_CONV_FAILED 0 k true).ffr causeConv k 0
  if d.is F.TLM_STATUS_SPARE_ACTIVE ∨ d.is F.TLM_STATUS_SPARE_FAILED then d
  else (d.wr F.TLM_STATUS_SPARE_ACTIVE 0 1).wr F.TLM_STATUS_SPARE_FOR 0 k

/-- A scan's reference readings: those of the four converters, and the spare's. -/
def Dev.adcScan (d : Dev) (refs : List Nat) (spare : Nat) : Dev :=
  let dist : Nat → Nat → Nat := fun a b => if a ≤ b then b - a else a - b
  let d := d.wr F.TLM_REF_SPARE_REF 0 spare
  if d.is F.TLM_STATUS_SPARE_FAILED then d.wr F.TLM_STATUS_SUSPECT 0 0
  else
    let trim := d.rd F.TLM_REF_REF_TRIM
    let d := d.suspectSet 4 (trim < 200 * dist spare trim)
    let working := (List.range 4).filter fun k => !d.bit F.TLM_STATUS_CONV_FAILED 0 k
    let sus := working.filter fun k => 65536 < 200 * dist (refs.getD k 0) spare
    let d := (List.range 4).foldl (fun d k => d.suspectSet k (sus.contains k)) d
    let d := d.wr F.TLM_STATUS_SUSPECT 0 (maskOf 4 sus.contains)
    if 2 ≤ d.suspectRun 4 then (d.wr F.TLM_STATUS_SPARE_FAILED 0 1).ffr causeConv 4 0
    else (sus.filter fun k => 2 ≤ d.suspectRun k).foldl Dev.convFail d

def execAdcScan (r0 r1 r2 r3 spare : BitVec 16) (s : State) : Res :=
  s.run (·.adcScan [r0.toNat, r1.toNat, r2.toNat, r3.toNat] spare.toNat)

/-- A sample of channel `ch` is stale: its converter is suspect, or failed with no spare in its place (the spare converts
no slot 0 for it), or the transfer before was lost (R19). -/
def Dev.chBad (d : Dev) (ch : Nat) : Bool :=
  let k := ch / 32
  let spared : Bool := d.is F.TLM_STATUS_SPARE_ACTIVE && d.rd F.TLM_STATUS_SPARE_FOR = k && !d.is F.TLM_STATUS_SPARE_FAILED && ch % 32 ≠ 0
  d.bit F.TLM_STATUS_SUSPECT 0 k || (d.bit F.TLM_STATUS_CONV_FAILED 0 k && !spared) || tget (fun _ => false) d.flt.chStale ch

/-- A sample at the power-good compare of a rail (R330, R333). -/
def Dev.railSample (d : Dev) (n mv : Nat) : Dev :=
  let st := d.rail n
  if d.rd F.SEQ_RAIL_THR_OV_MV n < mv ∧ rlRamp ≤ st ∧ st ≤ rlDrain then (d.railFail n rfOv)
  else
    let good : Bool := d.rd F.SEQ_RAIL_THR_UV_MV n ≤ mv && mv ≤ d.rd F.SEQ_RAIL_THR_OV_MV n
    if good = d.is F.SEQ_RAIL_STATUS_PG n then d.rlTMod n fun x => { x with adcRun := 0 }
    else
      let d := d.rlTMod n fun x => { x with adcRun := x.adcRun + 1 }
      if max 1 (d.rd F.SEQ_RAIL_PG_DEGLITCH n) ≤ (d.rlT n).adcRun then d.pgChange n good else d

/-- A sample of a fan's current, taken at `t` (R346, R348, R357). -/
def Dev.fanCurrent (d : Dev) (n t ma : Nat) : Dev :=
  d.fanMod n fun x =>
    let x : Fan := match x.win with
      | some w =>
        if w.start + d.fSettle ≤ t ∧ t < w.start + d.fWin then { x with win := some { w with iSum := w.iSum + ma, iN := w.iN + 1 } }
        else x
      | none => x
    let x : Fan := if d.fst n = fnKick ∧ x.since ≤ t then { x with kickI := (t, ma) :: x.kickI } else x
    if d.fst n = fnComm ∧ x.commLoop = false ∧ x.since + 9000000000 ≤ t ∧ t < x.since + 10000000000 then
      { x with commSum := x.commSum + ma, commN := x.commN + 1 }
    else x

/-- A sample of a loop's pressure, taken at `t` (R360). -/
def Dev.loopPress (d : Dev) (l t mv : Nat) : Dev :=
  let k := t / d.fwinNs
  d.cloopMod l fun x =>
    let w : LoopWin := tget (fun _ => {}) x.wins k
    { x with wins := tset (fun _ => {}) x.wins k { w with pSum := w.pSum + mv, pN := w.pN + 1 } }

/-- A channel's sample reaches the main die and the AON island, 720 ns after its sampling instant (R498). A stale sample is
skipped wherever samples are observations. -/
def Dev.adcSample (d : Dev) (ch code : Nat) : Dev :=
  let bad := d.chBad ch
  let d : Dev := { d with flt.chStale := tset (fun _ => false) d.flt.chStale ch false }
  let d := if d.sysOn then d.wr F.TLM_CH_STALE ch bad.toNat else d
  if bad then d
  else
    let mv := code * 2500 / 65536
    let t := d.aont - 720
    let d := if d.sysOn then (d.wr F.TLM_CH_MV ch mv).wr F.TLM_CH_CODE ch code else d
    let d :=
      if 110 ≤ ch ∧ d.tableOk = true then d.fanCurrent (ch - 110) t (mv * d.rd F.TLM_FAN_SCALE_MA_PER_V / 1000) else d
    let d := (List.range 4).foldl (fun (d : Dev) (l : Nat) =>
      if d.tableOk && d.is F.LOOP_CFG_EN l && d.rd F.LOOP_CFG_ADC_CH l = ch then d.loopPress l t mv else d) d
    let rs := rails96.filter fun n => d.railUsed n && d.is F.SEQ_RAIL_PG_SRC n && d.rd F.SEQ_RAIL_PG_ADC_CH n = ch
    if rs.isEmpty then d else (rs.foldl (fun d n => d.railSample n mv) d).seqEnd

def execAdcSample (ch : Fin 128) (code : BitVec 16) (s : State) : Res := s.run (·.adcSample ch.val code.toNat)

/-! ### The CHK oscillator (R382) -/

/-- CHK_OK clears: CHECK on every accelerator until cold reset, announced with CAUSE bit [6]. -/
def Dev.chkFail (d : Dev) : Dev :=
  if d.is F.GLB_CLK_STATUS_CHK_OK then
    let d : Dev := { d.wr F.GLB_CLK_STATUS_CHK_OK 0 0 with pwr.chkHold := true }
    ((d.checkUpdate.forAcc Dev.sendCheck).ffr causeChk 0 0).emergUpdate
  else d

def execChkOscFailure (s : State) : Res := s.run (·.chkFail)

end Sys2Proof.Machine
end

