-- ==== Sys2Proof/Machine/Views.lean ====
section
/-! DEFINITION. Registers that show state held elsewhere: a register word as a reader sees it (the field tables of R16, R130,
R166, R199, R238, R287, R317, R342, R467, R504, R507). -/

namespace Sys2Proof.Machine

/-- The counters of a chess clock, in mJ (R283 to R285): 10^10 units each. -/
def mJ (i : Int) : Nat := (i / 10000000000).toNat
def sumInt (l : List Int) : Int := l.foldl (· + ·) 0
def Dev.clock (d : Dev) (c : Nat) : Clock := tget (fun _ => {}) d.pwr.clocks c
def Clock.workMj (x : Clock) : Nat := mJ (sumInt x.work)
def Clock.fillMj (x : Clock) : Nat := mJ (sumInt x.filler)
def Clock.overMj (x : Clock) : Nat := mJ x.ovh
/-- Accelerators with bound pairs. -/
def Clock.accMask (x : Clock) : Nat := maskOf 8 fun a => x.pairs.any fun p => p.1 = a

/-- RUNNING cycles of a tile so far, at 1 GHz (TILE_BUSY). -/
def Dev.tileBusy (d : Dev) (t : Nat) : Nat :=
  d.rd64 F.TILE_BUSY_LO t + if d.tst t = tsRunning then d.gts - (d.tl t).runAt else 0

/-- Rails in a state, 32 from rail 32 j. -/
def Dev.railMask (d : Dev) (j st : Nat) : Nat := maskOf 32 fun i => d.rail (32 * j + i) = st

/-- Rails in a state. -/
def Dev.railCount (d : Dev) (st : Nat) : Nat := (rails96.filter fun n => d.rail n = st).length

/-- SEQ_STATUS.PHASE. -/
def Dev.seqPhase (d : Dev) : Nat :=
  if d.hsw = hsCool then 4 else if d.hsw = hsLatched then 5 else if d.hsw = hsStart then 1 else if d.hsw = hsOff then 0
  else if d.dom 0 = dmOn then 3 else 2

/-- BRD_CTX_STATE.STATE. -/
def Dev.ctxState (d : Dev) (c : Nat) : Nat :=
  let b := (d.bctx c).cur
  if ¬ d.is F.BRD_CTX_CFG_VALID c then 0
  else if b.openAt.isNone then 1
  else if b.complete.isNone then 2
  else if ¬ b.reduced then 3
  else 4

/-- Instances open. -/
def Dev.instsOpen (d : Dev) : Nat :=
  ((List.range 256).map fun c => (d.bctx c).cur.openAt.isSome.toNat + (d.bctx c).next.openAt.isSome.toNat).foldl (· + ·) 0

/-- Waiters a test picks. -/
def Dev.parked (d : Dev) (p : Waiter → Bool) : Nat := (d.sob.waiters.filter p).length

/-- GLB_CLK_STATUS (R23): the PLLs of the core power domain lock while it runs, the HBM's and the PCIe PHY's outside Endgame, the
AON PLL while the tray bus is up (the model's: the log). -/
def Dev.viewClk (d : Dev) (w : Nat) : Nat :=
  putBits w 0 5 (maskOf 5 fun k => if k = 4 then d.seq.vinUp else if k < 2 then d.sysOn else d.sysOn && !d.flt.endgame)

/-- A block-0 register (GLB). TJ_MAX is a measurement no command brings: its value is open. -/
def Dev.viewGlb (d : Dev) (a w : Nat) : Nat :=
  if a = 0x20 then d.viewClk w
  else if a = 0x70 then putBits w 0 16 (Config.tjMax d.aont).toNat
  else if a = 0x30 then d.gts % 2 ^ 32
  else if a = 0x34 then d.gts / 2 ^ 32 % 2 ^ 32
  else w

/-- A PWC register. -/
def Dev.viewPwc (d : Dev) (a w : Nat) : Nat :=
  let x := d.clock (d.rd F.PWC_CLK_SEL_CTX)
  let half := fun (v k : Nat) => if k = 0 then v % 2 ^ 32 else v / 2 ^ 32 % 2 ^ 32
  let k := a / 4 % 2
  if a = 0x200008 then putBits w 16 16 d.clearMs
  else if a = 0x200104 then x.st * 2 ^ 30 + x.accMask
  else if 0x200108 ≤ a ∧ a < 0x200110 then half x.workMj k
  else if 0x200110 ≤ a ∧ a < 0x200118 then half x.fillMj k
  else if 0x200118 ≤ a ∧ a < 0x200120 then half x.overMj k
  else if 0x200120 ≤ a ∧ a < 0x200128 then half x.tokens k
  else if 0x200128 ≤ a ∧ a < 0x200130 then half (mJ d.pwr.unbound) k
  else if 0x220000 ≤ a ∧ a < 0x221000 ∧ a % 16 = 4 then
    match (d.gr ((a - 0x220000) / 16)).stagedAt with
    | some t => putBits w 16 15 (min 0x7FFF ((d.gts - t) / 1000))
    | none => w
  else if a = 0x230014 then putBits w 16 16 (if d.is F.ORO_STATUS_SHADOW_VALID then d.shadowClean else 0)
  else w

/-- A SEQ register. -/
def Dev.viewSeq (d : Dev) (a w : Nat) : Nat :=
  if a = 0x300004 then putBits (putBits (putBits w 28 4 d.seqPhase) 16 7 (d.railCount rlFailed)) 0 7 (d.railCount rlOn)
  else if a = 0x300018 then putBits w 24 4 (min 15 d.attempts)
  else if 0x300080 ≤ a ∧ a < 0x30008C then d.railMask ((a - 0x300080) / 4) rlFailed
  else if 0x300090 ≤ a ∧ a < 0x30009C then d.railMask ((a - 0x300090) / 4) rlOn
  else if a = 0x300144 then
    putBits w 16 16 (maskOf 16 fun k => d.bit F.SEQ_RST_STATUS_ASSERTED 0 k && d.is F.SEQ_RST_CFG_USED k && d.railOn (d.rstGate k) &&
      d.aont < (d.rlT (d.rstGate k)).since + d.stretch k)
  else w

/-- A VL, SOB or group register. -/
def Dev.viewSob (d : Dev) (a w : Nat) : Nat :=
  let links := fun (st : Nat) => ((List.range 24).filter fun n => d.lst n = st).length
  let groups := fun (st : Nat) => ((List.range 256).filter fun g => d.rd F.GRP_CTRL_STATE g = st).length
  if a = 0xA00008 then links lsActive * 2 ^ 24 + links lsStandby * 2 ^ 16 + links lsFault * 2 ^ 8 + w % 256
  else if a = 0xC00004 then putBits w 0 17 ((d.sob.objs.filter fun p => p.2.ty ≠ 0).length)
  else if a = 0xC00008 then groups 2 * 2 ^ 16 + groups 1
  else if a = 0xC0000C then putBits w 0 16 d.sob.waiters.length
  else if 0xC00100 ≤ a ∧ a < 0xC00128 then putBits w 16 12 (d.parked fun x => x.src = (a - 0xC00100) / 4)
  else if 0xC01000 ≤ a ∧ a < 0xC02000 ∧ a % 16 = 8 then
    let g := (a - 0xC01000) / 16
    (d.parked fun x => (d.obj (hIndex x.handle)).group = g) * 2 ^ 17 + (d.objsOf g).length
  else w

/-- A Board register. -/
def Dev.viewBrd (d : Dev) (a w : Nat) : Nat :=
  if a = 0x2000004 then d.instsOpen * 2 ^ 16 + ((List.range 256).filter fun c => d.is F.BRD_CTX_CFG_VALID c).length
  else if 0x2010000 ≤ a ∧ a < 0x2012000 ∧ a % 32 = 20 then
    let c := (a - 0x2010000) / 32
    putBits w 0 16 ((d.bctx c).cur.done % 512 * 128 + (d.bctx c).next.openAt.isSome.toNat * 64 + d.ctxState c)
  else w

/-- A register of the observation blocks or of TW. -/
def Dev.viewObs (d : Dev) (a w : Nat) : Nat :=
  if a = 0x600000 then putBits w 16 16 (maskOf 16 fun q => !(d.cqGet q).vis.isEmpty)
  else if 0x601000 ≤ a ∧ a < 0x602000 ∧ a % 256 = 4 then
    let c := d.cqGet ((a - 0x601000) / 256)
    c.vis.length * 2 ^ 16 + c.used
  else if 0x800000 ≤ a ∧ a < 0x800100 ∧ (a % 64 = 16 ∨ a % 64 = 20) then
    let k := (a - 0x800000) / 64
    let r := d.rd64 F.CRC_VALUE_LO k ^^^ crcXor (d.rd F.CRC_CFG_ALG k)
    if a % 64 = 16 then r % 2 ^ 32 else r / 2 ^ 32
  else if a = 0x900000 then putBits w 31 1 (d.flt.endgame && d.sysOn).toNat
  else w

/-- A register word as a reader sees it. -/
def Dev.view (d : Dev) (a : Nat) : Nat :=
  let w := d.rdw a
  if a < 0x100000 then d.viewGlb a w
  else if a = 0x100008 then
    if d.rd F.MBX_STATUS_LEASE = 1 then min 65535 ((d.mbx.leaseAt + 500000000 - d.gts) / 1000000) else 0
  else if a < 0x200000 then w
  else if a < 0x300000 then d.viewPwc a w
  else if a < 0x400000 then d.viewSeq a w
  else if a < 0x600000 then w
  else if a < 0xA00000 then d.viewObs a w
  else if a < 0x2000000 then d.viewSob a w
  else if a < 0x4000000 then d.viewBrd a w
  else if a < 0x4480000 then
    if a % 0x10000 = 0x20 then d.tileBusy ((a - 0x4000000) / 0x10000) % 2 ^ 32
    else if a % 0x10000 = 0x24 then d.tileBusy ((a - 0x4000000) / 0x10000) / 2 ^ 32 % 2 ^ 32
    else w
  else if a = 0x4480000 then
    putBits w 16 8 ((List.range 32).filter fun n => d.sst n = ssReady || d.sst n = ssRunning).length
  else w

/-- The bytes of consecutive registers as a reader sees them. -/
def Dev.viewBytes (d : Dev) (a n : Nat) : List Byte := (List.range n).flatMap fun i => le 4 (d.view (a + 4 * i))

end Sys2Proof.Machine
end

