-- ==== Sys2Proof/Machine/Ledger.lean ====
section
/-! DEFINITION. The ledger (spec/07, R283 to R286): a frame's energy attributed, and the clock requests that take effect at
frame boundaries. Energies in 10^-13 J. -/

namespace Sys2Proof.Machine

def Dev.clockPut (d : Dev) (c : Nat) (x : Clock) : Dev := { d with pwr.clocks := tset (fun _ => {}) d.pwr.clocks c x }

/-- Add to an entry of a list of energies. -/
def addAt (l : List Int) (a : Nat) (v : Int) : List Int := l.mapIdx fun i x => if i = a then x + v else x

/-- The OPEN contexts, rising. -/
def Dev.openClocks (d : Dev) : List (Nat × Clock) := d.pwr.clocks.filter fun (p : Nat × Clock) => p.2.st = 1

/-- The OPEN context a pair is bound to. -/
def Dev.clockOf (d : Dev) (a q : Nat) : Option Nat := (d.openClocks.find? fun (p : Nat × Clock) => p.2.pairs.contains (a, q)).map (·.1)

/-- The activity weights of an accelerator's queues in frame `k` (R289): queue 0 takes all where none arrived or all are 0. -/
def Dev.qWeights (d : Dev) (k a : Nat) : List Nat :=
  match d.tlmOf k a with
  | some p =>
    let w := (List.range 8).map fun q => pbits p (4 * q) 4
    if w.foldl (· + ·) 0 = 0 then [1, 0, 0, 0, 0, 0, 0, 0] else w
  | none => [1, 0, 0, 0, 0, 0, 0, 0]

/-- Divide an energy by weights; what division leaves over goes to the first part. -/
def divideBy (e : Int) (w : List Nat) : List Int :=
  let s : Nat := w.foldl (fun (a b : Nat) => a + b) 0
  let parts := w.map fun (x : Nat) => e * (x : Int) / (s : Int)
  addAt parts 0 (e - sumInt parts)

/-- One pair's energy goes to its context, or is unbound. -/
def Dev.ledgerPair (d : Dev) (a q : Nat) (work filler : Int) : Dev :=
  match d.clockOf a q with
  | some c =>
    let x := d.clock c
    d.clockPut c { x with work := addAt x.work a work, filler := addAt x.filler a filler }
  | none => { d with pwr.unbound := d.pwr.unbound + work + filler }

/-- WORK + FILLER of a context so far. -/
def Clock.energy (x : Clock) : Int := sumInt x.work + sumInt x.filler

/-- Steps 1 to 4 of R284 for an ended frame. -/
def Dev.ledgerFrame (d : Dev) (f : FrameDone) : Dev :=
  let before := fun (c : Nat) => (d.clock c).energy
  let d' := (f.accs.mapIdx fun a e => (a, e)).foldl (fun (d : Dev) (p : Nat × Int × Int) =>
    let w := d.qWeights f.k p.1
    ((divideBy p.2.1 w).zip (divideBy p.2.2 w)).mapIdx (fun q e => (q, e)) |>.foldl
      (fun (d : Dev) (x : Nat × Int × Int) => d.ledgerPair p.1 x.1 x.2.1 x.2.2) d) d
  let es := d'.openClocks.map fun (p : Nat × Clock) => (p.1, p.2.energy - before p.1)
  let total := sumInt (es.map (·.2))
  let d' : Dev :=
    if total ≤ 0 then { d' with pwr.unbound := d'.pwr.unbound + f.ovh }
    else
      let parts := es.map fun (p : Nat × Int) => f.ovh * p.2 / total
      (es.zip (addAt parts 0 (f.ovh - sumInt parts))).foldl (fun (d : Dev) (p : (Nat × Int) × Int) =>
        d.clockPut p.1.1 { d.clock p.1.1 with ovh := (d.clock p.1.1).ovh + p.2 }) d'
  let d' := if f.sub then d'.openClocks.foldl (fun (d : Dev) (p : Nat × Clock) => d.clockPut p.1 { p.2 with badCal := true }) d' else d'
  { d' with pwr.frame := f.k + 1 }

/-- The pairs a QMASK names: byte a, bit q. -/
def pairsOf (mask : Nat) : List (Nat × Nat) := accs8.flatMap fun a => ((List.range 8).filter fun q => bitOf mask (8 * a + q)).map fun q => (a, q)

/-- A clock request takes effect at boundary `b`: the reply's body and the device. -/
def Dev.clkApply (d : Dev) (b : Nat) (o : ClkOp) : Rep × Dev :=
  match o with
  | .open job =>
    (match (List.range 4096).find? fun c => (d.clock c).st = 0 with
     | none => (.of msResource, d)
     | some c => (.ok (le 2 c ++ zeros 2),
         d.clockPut c { st := 1, jobId := job, startGts := b, emerg := decide (d.rd F.PWC_EMERG_STATE ≠ 0) }))
  | .bind c mask =>
    let x := d.clock c
    if x.st ≠ 1 then (.bad 0, d)
    else if (pairsOf mask).any fun p => (d.clockOf p.1 p.2).isSome then (.of msResource, d)
    else (.ok, d.clockPut c { x with pairs := x.pairs ++ pairsOf mask })
  | .unbind c mask =>
    let x := d.clock c
    if x.st ≠ 1 then (.bad 0, d) else (.ok, d.clockPut c { x with pairs := x.pairs.filter fun p => !(pairsOf mask).contains p })
  | .close c =>
    let x := d.clock c
    if x.st ≠ 1 then (.bad 0, d) else (.ok (le 8 b), d.clockPut c { x with st := 2, endGts := b })
  | .free c => if (d.clock c).st ≠ 2 then (.bad 0, d) else (.ok, d.clockPut c {})

/-- The boundary a request taken at `t` takes effect at. -/
def boundaryOf (t : Nat) : Nat := (frameOf t + 1) * 10000

/-- Clock requests whose boundary is at or before `b` take effect in order; each reply leaves. -/
def Dev.clkFlush (d : Dev) (b : Nat) : Dev :=
  let at' := fun (id : Nat) => (d.mbx.held.find? fun h => h.id = id).map fun h => boundaryOf h.at'
  let due := d.pwr.clkOps.filterMap fun p => (at' p.1).map fun t => (t, p)
  let d' : Dev := { d with pwr.clkOps := (due.filter fun x => b < x.1).map (·.2) }
  (due.filter fun x => x.1 ≤ b).foldl (fun d x =>
    let r := d.clkApply x.1 x.2.2
    r.2.replyHeld x.2.1 r.1) d'

/-- The oldest frame not yet attributed, once its telemetry can no longer arrive. -/
def Dev.ledgerEnd (d : Dev) : Dev :=
  let d := d.frameRoll
  match d.pwr.done with
  | [] => d
  | f :: rest =>
    if (f.k + 1) * 10000 + (if d.is F.ORO_CTRL_TLM_EN then d.tlmWindow else 0) ≤ d.gts then
      (({ d with pwr.done := rest }).ledgerFrame f |>.clkFlush ((f.k + 1) * 10000)).tlmPurge
    else d

def execLedgerFrameEnd (s : State) : Res := s.run fun d => if d.sysOn then d.ledgerEnd else d

/-! ### Readings and statements (R285, R286) -/

/-- Tokens per MWh of a context. -/
def Clock.tokensPerMwh (x : Clock) : Nat :=
  let e := x.workMj + x.fillMj + x.overMj
  if e = 0 then 0 else x.tokens * 3600000000000 / e

/-- The 256-byte body of a signed statement. -/
def Dev.statement (d : Dev) (c : Nat) (nonce : List Byte) : List Byte :=
  let x := d.clock c
  let flags := maskOf 3 fun k => match k with
    | 0 => x.st = 1
    | 1 => !x.badCal
    | _ => x.emerg
  [0x47, 0x4D, 0x45, 0x53] ++ le 2 0x0100 ++ le 2 flags ++ le 8 (d.rd64 F.BOOT_COUNT_LO % 2 ^ 32 * 2 ^ 32 + d.boot.stmtCount % 2 ^ 32) ++ le 48 Config.trayId.toNat ++ fitBytes 16 x.jobId ++
    le 2 c ++ le 1 x.accMask ++ zeros 5 ++ le 8 x.startGts ++ le 8 (if x.st = 1 then d.gts else x.endGts) ++ le 8 x.workMj ++
    le 8 x.fillMj ++ le 8 x.overMj ++ le 8 x.tokens ++ le 8 x.tokensPerMwh ++
    (accs8.flatMap fun a => le 8 (mJ (x.work.getD a 0 + x.filler.getD a 0))) ++ nonce ++ le 8 (d.rd64 F.BOOT_COUNT_LO) ++ zeros 8

/-- Numbers of the device's own keys: 1 signs energy statements, 2 is the alias key of SPDM. -/
abbrev keyEnergy : Nat := 1
abbrev keyAlias : Nat := 2

/-- A key pair the ROM derived from CDI_1 at boot (R401): it changes with the running bundle. -/
def Dev.derivedKey (d : Dev) (label : Nat) : Nat :=
  match d.boot.run with
  | some r => label + 4 * (Config.cdi1 r.cdi).toNat
  | none => label

/-- A message and its 96-byte signature, r then s. -/
def signed384 (key : Nat) (m : List Byte) : List Byte := m ++ le 96 (Config.ecdsaSign key (Config.sha384 m)).toNat

end Sys2Proof.Machine
end

