-- ==== Sys2Proof/Machine/MbxPower.lean ====
section
/-! DEFINITION. Mailbox group 0x01xx, power and caps (spec/13 R454): the meanings of its opcodes. -/

namespace Sys2Proof.Machine

/-- The n bytes at `off` are zero in no valid request otherwise: the offset, when they are not. -/
def rsv (p : List Byte) (off n : Nat) : Bool × Nat := (pf p off n ≠ 0, off)

/-- A Boolean field holds 0 or 1 (DEDUCED: the log). -/
def flag (p : List Byte) (off : Nat) : Bool × Nat := (1 < pf p off 1, off)

/-! ### Caps and budgets (R242 to R246, R274) -/

/-- SET_TRAY_CAP. A NORMAL cap needs PMC (R387). -/
def opSetTrayCap : MbxOp :=
  { op := 0x0100, lease := false, core := coreSch, len := fun n => n = 4
    check := fun _ p => firstBad [(pf p 0 2 = 0, 0), flag p 2, rsv p 3 1]
    body := fun d q =>
      let w := pf q.pay 0 2
      let em : Bool := pf q.pay 2 1 = 1
      if !(em && w < d.rd F.PWC_TRAY_CAP_CAP_W) && !d.coreUp corePmc then (.of msNotReady, d)
      else
        let r := d.setCap w em
        (.ok (le 2 (r.2.rd F.PWC_TRAY_CAP_CAP_W) ++ le 2 (r.2.rd F.PWC_TRAY_CAP_AVAILABLE_W) ++ le 1 r.1.toNat ++
          le 1 (r.2.rd F.PWC_STATUS_INFEASIBLE) ++ zeros 2), r.2) }

def execSetTrayCap (q : MbxReq) (s : State) : Res := opSetTrayCap.run q s

/-- One accelerator's part of GET_POWER's reply. -/
def Dev.powerOf (d : Dev) (a : Nat) : List Byte :=
  let flags := maskOf 4 fun k => match k with
    | 0 => d.inCheck a
    | 1 => d.is F.PWC_ACC_PSTATE_DROOP a
    | 2 => d.bit F.PWC_STATUS_LIMITING 0 a
    | _ => d.is F.PWC_ACC_PSTATE_DVFS_FAULT a
  le 2 (d.budget a) ++ le 2 (d.rd F.PWC_ACC_BUDGET_STAGED_W a) ++ le 1 (d.cur a) ++ le 1 flags ++ le 2 (d.rd F.PWC_ACC_POWER_WIN_W a)

def opGetPower : MbxOp :=
  { op := 0x0101, lease := false, core := coreSch, len := fun n => n = 0
    body := fun d _ =>
      (.ok (le 2 (d.rd F.PWC_TRAY_CAP_CAP_W) ++ le 2 (d.rd F.PWC_TRAY_CAP_AVAILABLE_W) ++ d.viewBytes (F.PWC_EMERG_STATE.addr 0) 1 ++
        accs8.flatMap d.powerOf), d) }

def execGetPower (q : MbxReq) (s : State) : Res := opGetPower.run q s

/-- Budgets of a SET_STATIC_BUDGETS payload. -/
def budgetOf (p : List Byte) (a : Nat) : Nat := pf p (2 * a) 2

/-- The first accelerator whose budget fails R244: one below its floor, or the one at which the sum passes the available
power. -/
def Dev.budgetBad (d : Dev) (b : Nat → Nat) : Option Nat :=
  d.budgeted.find? fun a => b a < d.floorW a || d.available < ((d.budgeted.filter (· ≤ a)).map b).foldl (· + ·) 0

/-- SET_STATIC_BUDGETS: budgets are PMC's (R387). -/
def opSetStaticBudgets : MbxOp :=
  { op := 0x0102, lease := true, core := coreSch, len := fun n => n = 16
    check := fun d p => (d.budgetBad (budgetOf p)).map fun a => 2 * a
    body := fun d q =>
      if !d.coreUp corePmc then (.of msNotReady, d)
      else
        let d := d.forAcc fun d a => d.pwPut a { d.pw a with static := some (budgetOf q.pay a) }
        (.ok, if d.is F.PWC_CTRL_ORO_EN then d else d.propose d.ownProposal) }

def execSetStaticBudgets (q : MbxReq) (s : State) : Res := opSetStaticBudgets.run q s

/-- SET_ACC_MAX: the ceiling of the solver's goals (R296); 0 means POWER(0). -/
def opSetAccMax : MbxOp :=
  { op := 0x0103, lease := true, core := coreSch, len := fun n => n = 16
    body := fun d q =>
      if !d.coreUp corePmc then (.of msNotReady, d)
      else
        (.ok, d.forAcc fun d a =>
          let w := pf q.pay (2 * a) 2
          d.pwPut a { d.pw a with maxW := if w = 0 then none else some w }) }

def execSetAccMax (q : MbxReq) (s : State) : Res := opSetAccMax.run q s

/-! ### CHECK, MATE, shaping -/

def opSetCheckForce : MbxOp :=
  { op := 0x0104, lease := false, core := coreSch, len := fun n => n = 4
    check := fun _ p => firstBad [rsv p 1 3]
    body := fun d q =>
      let d := (d.wr F.PWC_CHECK_FORCE_FORCE 0 (pf q.pay 0 1)).checkSettle
      (.ok (d.viewBytes (F.PWC_STATUS_CHECK_ACC.addr 0) 1), d) }

def execSetCheckForce (q : MbxReq) (s : State) : Res := opSetCheckForce.run q s

def opClearCheckLatch : MbxOp :=
  { op := 0x0105, lease := false, core := coreSch, len := fun n => n = 4
    body := fun d q =>
      let d := d.latchClear (pf q.pay 0 4)
      (.ok (d.viewBytes 0x200068 1), d) }

def execClearCheckLatch (q : MbxReq) (s : State) : Res := opClearCheckLatch.run q s

def opClearMate : MbxOp :=
  { op := 0x0106, lease := false, core := coreSch, len := fun n => n = 0
    body := fun d _ =>
      let r := d.mateClear
      if r.1 then
        let d := r.2.seqEnd
        (.ok (d.viewBytes (F.PWC_MATE_STATUS_ACTIVE.addr 0) 1), d)
      else (.of msBusy, r.2) }

def execClearMate (q : MbxReq) (s : State) : Res := opClearMate.run q s

def opSetShaping : MbxOp :=
  { op := 0x0107, lease := true, core := coreSch, len := fun n => n = 4
    check := fun _ p => firstBad [flag p 0, flag p 1, (pf p 2 1 < 5 || 200 < pf p 2 1, 2), rsv p 3 1]
    body := fun d q =>
      (.ok, ((d.wr F.PWC_CTRL_SHAPE_EN 0 (pf q.pay 0 1)).wr F.PWC_CTRL_ARB_EN 0 (pf q.pay 1 1)).wr F.PWC_SLEW_CFG_SLEW 0 (pf q.pay 2 1)) }

def execSetShaping (q : MbxReq) (s : State) : Res := opSetShaping.run q s

/-! ### Chess clocks (R283 to R286) -/

/-- A clock request waits for the next frame boundary; its reply is sent once that has passed. -/
def Dev.clkHold (d : Dev) (q : MbxReq) (op : Nat) (o : ClkOp) : Rep × Dev :=
  let r := d.hold q op
  ({ st := msOk, held := true }, { r.2 with pwr.clkOps := r.2.pwr.clkOps ++ [(r.1, o)] })

/-- CTX(2), 0(2). -/
def ctxField (p : List Byte) : List (Bool × Nat) := [(4095 < pf p 0 2, 0), rsv p 2 2]

def opClockOpen : MbxOp :=
  { op := 0x0110, lease := true, core := coreSch, len := fun n => n = 16
    body := fun d q => d.clkHold q 0x0110 (.open (pb q.pay 0 16)) }
def opClockBind : MbxOp :=
  { op := 0x0111, lease := true, core := coreSch, len := fun n => n = 12, check := fun _ p => firstBad (ctxField p)
    body := fun d q => d.clkHold q 0x0111 (.bind (pf q.pay 0 2) (pf q.pay 4 8)) }
def opClockUnbind : MbxOp :=
  { op := 0x0112, lease := true, core := coreSch, len := fun n => n = 12, check := fun _ p => firstBad (ctxField p)
    body := fun d q => d.clkHold q 0x0112 (.unbind (pf q.pay 0 2) (pf q.pay 4 8)) }
def opClockClose : MbxOp :=
  { op := 0x0113, lease := true, core := coreSch, len := fun n => n = 4, check := fun _ p => firstBad (ctxField p)
    body := fun d q => d.clkHold q 0x0113 (.close (pf q.pay 0 2)) }
def opClockFree : MbxOp :=
  { op := 0x0114, lease := true, core := coreSch, len := fun n => n = 4, check := fun _ p => firstBad (ctxField p)
    body := fun d q => d.clkHold q 0x0114 (.free (pf q.pay 0 2)) }

def execClockOpen (q : MbxReq) (s : State) : Res := opClockOpen.run q s
def execClockBind (q : MbxReq) (s : State) : Res := opClockBind.run q s
def execClockUnbind (q : MbxReq) (s : State) : Res := opClockUnbind.run q s
def execClockClose (q : MbxReq) (s : State) : Res := opClockClose.run q s
def execClockFree (q : MbxReq) (s : State) : Res := opClockFree.run q s

def opClockRead : MbxOp :=
  { op := 0x0115, lease := false, core := coreSch, len := fun n => n = 4, check := fun _ p => firstBad (ctxField p)
    body := fun d q =>
      let x := d.clock (pf q.pay 0 2)
      (.ok (le 1 x.st ++ le 1 x.accMask ++ zeros 6 ++ le 8 x.startGts ++ le 8 x.workMj ++ le 8 x.fillMj ++ le 8 x.overMj ++ le 8 x.tokens ++
        le 8 x.tokensPerMwh), d) }

def execClockRead (q : MbxReq) (s : State) : Res := opClockRead.run q s

def opAddTokens : MbxOp :=
  { op := 0x0116, lease := false, core := coreSch, len := fun n => n = 16
    check := fun d p => firstBad [(4095 < pf p 0 2 || (d.clock (pf p 0 2)).st = 0, 0), rsv p 2 6]
    body := fun d q =>
      let c := pf q.pay 0 2
      let n := ((d.clock c).tokens + pf q.pay 8 8) % 2 ^ 64
      (.ok (le 8 n), d.clockPut c { d.clock c with tokens := n }) }

def execAddTokens (q : MbxReq) (s : State) : Res := opAddTokens.run q s

/-- SIGN_STATEMENT: SEC signs the body of R286. -/
def opSignStatement : MbxOp :=
  { op := 0x0117, lease := false, core := coreSec, len := fun n => n = 40
    check := fun d p => firstBad [(4095 < pf p 0 2 || (d.clock (pf p 0 2)).st = 0, 0), rsv p 2 6]
    body := fun d q =>
      let d := { d with boot.stmtCount := d.boot.stmtCount + 1 }
      (.ok (signed384 (d.derivedKey keyEnergy) (d.statement (pf q.pay 0 2) (pb q.pay 8 32))), d) }

def execSignStatement (q : MbxReq) (s : State) : Res := opSignStatement.run q s

end Sys2Proof.Machine
end

