-- ==== Sys2Proof/Machine/MbxTray.lean ====
section
/-! DEFINITION. Mailbox groups 0x02xx, sequencing, and 0x03xx, cooling (spec/13 R455, R456): the meanings of their opcodes. -/

namespace Sys2Proof.Machine

/-! ### Sequencing (R455) -/

/-- DOMAIN_SET: OFF bits 2 to 15 go first, then ON, then OFF bit 1. The lease is needed when ON ≠ 0. -/
def opDomainSet (on : Nat) : MbxOp :=
  { op := 0x0200, lease := on ≠ 0, core := corePmc, len := fun n => n = 4
    check := fun d p => firstBad [(!d.is F.SEQ_CTRL_GRAPH_VALID, 0), (pf p 0 2 &&& pf p 2 2 ≠ 0 || bitOf (pf p 2 2) 0, 2)]
    body := fun d q =>
      let off := pf q.pay 2 2
      let after := maskOf 16 fun k => bitOf on k || (d.domReq k && !bitOf off k)
      if bitOf off 1 && 4 ≤ after then (.of msBusy, d)
      else
        let d := ((List.range 16).filter fun k => 2 ≤ k && bitOf off k).foldl (fun d k => d.domRequest k false) d
        let d := ((List.range 16).filter (bitOf on)).foldl (fun d k => d.domRequest k true) d
        let d := if bitOf off 1 then d.domRequest 1 false else d
        (.ok (le 2 (d.rd F.SEQ_DOM_REQ_REQ) ++ zeros 2), d) }

def execDomainSet (q : MbxReq) (s : State) : Res := (opDomainSet (pf q.pay 0 2)).run q s

def opGetSeq : MbxOp :=
  { op := 0x0201, lease := false, core := coreSch, len := fun n => n = 0
    body := fun d _ =>
      (.ok (d.viewBytes (F.SEQ_STATUS_PHASE.addr 0) 1 ++ d.viewBytes (F.SEQ_DOM_REQ_REQ.addr 0) 1 ++
        d.viewBytes (F.SEQ_DOM_STATE_STATE.addr 0) 1 ++ d.viewBytes (F.SEQ_DOM_FLAGS_HELD.addr 0) 1 ++
        d.viewBytes (F.SEQ_ON_RAILS.addr 0) 3 ++ d.viewBytes (F.SEQ_FAILED_RAILS.addr 0) 3 ++
        d.viewBytes (F.SEQ_HSW_STATUS_STATE.addr 0) 1 ++ d.viewBytes (F.SEQ_BUS_STATUS_VBUS.addr 0) 1 ++
        d.viewBytes (F.SEQ_LAST_FAIL_CAUSE.addr 0) 1), d) }

def execGetSeq (q : MbxReq) (s : State) : Res := opGetSeq.run q s

def opRailClear : MbxOp :=
  { op := 0x0202, lease := false, core := coreSch, len := fun n => n = 4
    check := fun d p => firstBad [(96 ≤ pf p 0 1 || d.rail (pf p 0 1) ≠ rlFailed, 0), rsv p 1 3]
    body := fun d q =>
      let n := pf q.pay 0 1
      let d := (d.railClear n).seqEnd
      (.ok (d.viewBytes (F.SEQ_RAIL_STATUS_STATE.addr n) 1), d) }

def execRailClear (q : MbxReq) (s : State) : Res := opRailClear.run q s

def opResetHold : MbxOp :=
  { op := 0x0203, lease := true, core := coreSch, len := fun n => n = 4
    check := fun _ p => firstBad [(pf p 0 2 &&& pf p 2 2 ≠ 0, 2)]
    body := fun d q =>
      let d := d.rstHold ((d.rd F.SEQ_RST_HOLD_HOLD ||| pf q.pay 0 2) &&& (0xFFFF - pf q.pay 2 2))
      (.ok (le 2 (d.rd F.SEQ_RST_HOLD_HOLD) ++ zeros 2), d) }

def execResetHold (q : MbxReq) (s : State) : Res := opResetHold.run q s

/-! ### Cooling (R456) -/

def opGetCooling : MbxOp :=
  { op := 0x0300, lease := false, core := coreSch, len := fun n => n = 0
    body := fun d _ =>
      (.ok (d.viewBytes (F.COOL_STATUS_TABLE_VALID.addr 0) 1 ++ d.viewBytes (F.COOL_ERR_TD_FAULT.addr 0) 1 ++
        (fans18.flatMap fun n =>
          le 2 (d.rd F.FAN_SPEED_RPM n) ++ le 2 (d.rd F.FAN_TARGET_TARGET_RPM n) ++ le 2 (d.rd F.FAN_SPEED_AGE n) ++ le 1 (d.fst n) ++
            le 1 (d.rd F.FAN_STATUS_CAUSE n)) ++
        (pumps4.flatMap fun p => le 2 (d.rd F.PUMP_STATUS_RPM p) ++ le 1 (d.rd F.PUMP_STATUS_STATE p) ++ zeros 1) ++
        ((List.range 4).flatMap fun l => le 2 (d.rd F.LOOP_STATUS_FLOW l) ++ le 2 (d.rd F.LOOP_STATUS_PRESS_MV l)) ++
        ((List.range 16).flatMap fun z => le 1 (d.rd F.LEAK_STATUS_STATE z))), d) }

def execGetCooling (q : MbxReq) (s : State) : Res := opGetCooling.run q s

/-- SET_ZONE_FLOOR: the floor PMC's temperature loop keeps to. -/
def opSetZoneFloor : MbxOp :=
  { op := 0x0301, lease := false, core := corePmc, len := fun n => n = 8
    check := fun _ p => firstBad ((List.range 8).map fun z => (100 < pf p z 1, z))
    body := fun d q =>
      (.ok, { d with mbx.zoneFloor := (List.range 8).foldl (fun l z => tset (fun _ => 0) l z (pf q.pay z 1)) d.mbx.zoneFloor }) }

def execSetZoneFloor (q : MbxReq) (s : State) : Res := opSetZoneFloor.run q s

def opSetCoolMode : MbxOp :=
  { op := 0x0302, lease := true, core := corePmc, len := fun n => n = 4
    check := fun _ p => firstBad [(pf p 0 1 = 0 || 3 < pf p 0 1, 0), rsv p 1 3]
    body := fun d q => (.ok, d.modeWrite (pf q.pay 0 1)) }

def execSetCoolMode (q : MbxReq) (s : State) : Res := opSetCoolMode.run q s

/-- COMMISSION_FAN: REF_RPM is set and commissioning starts; a fan that cannot be commissioned is BAD_PARAM. -/
def opCommissionFan : MbxOp :=
  { op := 0x0303, lease := true, core := corePmc, len := fun n => n = 4
    check := fun d p => firstBad [(!d.commOk (pf p 0 1), 0), rsv p 1 1]
    body := fun d q => d.accepting q 0x0303 fun d id =>
      (d.wr F.FAN_REF_REF_RPM (pf q.pay 0 1) (pf q.pay 2 2)).commStart (pf q.pay 0 1) (some id) }

def execCommissionFan (q : MbxReq) (s : State) : Res := opCommissionFan.run q s

/-- The clear bit of the named element is written; the answer is whether its fault stays. -/
def Dev.coolClear (d : Dev) (kind i : Nat) : Bool × Dev :=
  if kind = 0 then let d := d.fanClear i; (d.is F.FAN_STATUS_FAILED i, d)
  else if kind = 1 then let d := d.pumpClear i; (d.is F.PUMP_STATUS_FAILED i, d)
  else if kind = 2 then let d := d.loopClear i; (d.is F.LOOP_CFG_FAULT i, d)
  else let d := d.leakClear i; (d.is F.LEAK_STATUS_LATCHED i, d)

def opClearCoolFault : MbxOp :=
  { op := 0x0304, lease := false, core := coreSch, len := fun n => n = 4
    check := fun _ p => firstBad [(3 < pf p 0 1, 0), ([18, 4, 4, 16].getD (pf p 0 1) 0 ≤ pf p 1 1, 1), rsv p 2 2]
    body := fun d q =>
      let r := d.coolClear (pf q.pay 0 1) (pf q.pay 1 1)
      (.ok (le 1 r.1.toNat ++ zeros 3), r.2) }

def execClearCoolFault (q : MbxReq) (s : State) : Res := opClearCoolFault.run q s

end Sys2Proof.Machine
end

