-- ==== Sys2Proof/Machine/RegOps.lean ====
section
/-! DEFINITION. Register access (spec/01 R7 to R14, R49), memory protection (R34 to R39, R375 to R377), clocks: the meanings of
their commands. -/

namespace Sys2Proof.Machine

/-! ### Register writes (R7 to R11) -/

/-- The sender can reach registers: host software over the endpoint's link, a core while its firmware runs. -/
def Dev.sends (d : Dev) (x : Agent) : Bool :=
  match x with
  | .host => d.linkUp
  | .sec => d.sysOn && d.coreUp 0
  | .pmc => d.sysOn && d.coreUp 1
  | .sch => d.sysOn && d.coreUp 2
  | .ccc k => d.sysOn && d.coreUp (3 + k)

/-- One field of a register written: the register's new word. A field another row carries is left alone; a field that is
read-only in W0 is written by firmware through its own port. -/
def FieldDef.put (f : FieldDef) (firmware locked : Bool) (old v new : Nat) : Nat :=
  let x := bitsOf v f.lo f.len
  let o := bitsOf old f.lo f.len
  if f.own then new
  else match f.acc with
    | .rw | .rws => putBits new f.lo f.len x
    | .ro => if f.port && firmware then putBits new f.lo f.len x else new
    | .wo => new
    | .w1c => putBits new f.lo f.len (o - (o &&& x))
    | .w1s => putBits new f.lo f.len (o ||| x)
    | .rwl => if locked then new else putBits new f.lo f.len x

/-- Registers whose write a rule discards though their fields are writable: P-state tables while PTAB_VALID is set (R287), the
self rails' fixed configuration (R326), the settings of queues host software does not assign (R470). -/
def Dev.regFixed (d : Dev) (firmware : Bool) (a : Nat) : Bool :=
  (0x201100 ≤ a && a < 0x202100 && d.ptabOk ((a - 0x201100) / 0x200)) ||
    (0x301000 ≤ a && a < 0x301060 && a % 32 < 16) ||
    (!firmware && 0x601000 ≤ a && a < 0x602000 && a % 256 = 0 && [0, 1, 2, 4, 5, 6, 7].contains ((a - 0x601000) / 256))

/-- What follows a register's write: values other rules derive from it at once. -/
def Dev.regAfter (d : Dev) (a : Nat) : Dev :=
  if a = F.PWC_OVERHEAD_RESERVE_W.addr 0 then d.showAvail.feasUpdate.emergUpdate
  else if 0x601000 ≤ a ∧ a < 0x602000 ∧ a % 256 = 8 then d.cqWatch ((a - 0x601000) / 256)
  else if 0x901000 ≤ a ∧ a < 0x901300 ∧ a % 64 = 0 then d.segShow ((a - 0x901000) / 64)
  else if 0x200064 ≤ a ∧ a < 0x200080 then d.checkSettle
  else d

/-- A 32-bit write of register `a` (R7, R9, R10). -/
def Dev.regWrite (d : Dev) (firmware : Bool) (a v : Nat) : Dev :=
  match regDefAt a with
  | none => d
  | some r =>
    if d.regFixed firmware a then d
    else
      let old := d.rdw a
      let new := r.fields.foldl (fun n f => f.put firmware d.locked old v n) old
      let lockHit : Bool := d.locked && r.fields.any fun f => f.acc = .rwl && !f.own
      let d := if lockHit then d.ffr causeLocked a v else d
      let oro : Bool := a = F.PWC_CTRL_ORO_EN.addr 0
      let d := if oro then d.oroEn (bitOf new F.PWC_CTRL_ORO_EN.lo) else d
      (d.wrw a new).regAfter a

/-- A word of the MSI-X table (R437): a vector unmasked while it is pending fires. -/
def Dev.msixWrite (d : Dev) (o v : Nat) : Dev :=
  let d : Dev := { d with obs.msix := tset msixReset d.obs.msix o (BitVec.ofNat 32 v) }
  let k := o / 16
  if bitOf d.obs.pba k && !d.msixMasked k then { d with obs.pba := putBit d.obs.pba k false }.emit (.msix k) else d

/-- The request buffer that holds W0 address `a` (R440, spec/13): channel and offset. -/
def reqBuffer (a : Nat) : Option (Nat × Nat) :=
  let o := a - 0x110000
  if 0x110000 ≤ a ∧ a < 0x120000 ∧ o % 0x4000 < 4128 then some (o / 0x4000, o % 0x4000) else none

abbrev causeNarrow : Cause := (0, 4, none)
abbrev causeKey : Cause := (0, 5, none)
abbrev causeXtal : Cause := (0, 6, none)
abbrev causeSpare : Cause := (0, 7, some 3)
abbrev causeBankRow : Cause := (0, 8, some 3)
abbrev causeCorePower : Cause := (0, 9, some 2)

/-- A write that reaches W0: register space takes aligned 32-bit and 64-bit writes only (R11); the request buffers take every
aligned width (R440). -/
def Dev.w0Write (d : Dev) (x : Agent) (a : Nat) (w : Width) (v : Nat) : Dev :=
  let n := widthBytes w
  if !d.sends x ∨ a % n ≠ 0 then d
  else match reqBuffer a with
    | some (c, o) =>
      if d.rd F.MBX_CH_STATUS_STATE c = 1 then d.wr F.MBX_ERR_LATE_WRITE 0 1 else d.stn (.req c) o (le n v)
    | none =>
      if n < 4 then d.ffr causeNarrow a v
      else
        let one := fun (d : Dev) (a v : Nat) =>
          if 0x100800 ≤ a ∧ a < 0x100900 then d.msixWrite (a - 0x100800) v else d.regWrite (x ≠ .host) a v
        if n = 4 then one d a v else one (one d a (v % 2 ^ 32)) (a + 4) (v / 2 ^ 32)

def execRegisterWrite (by_ : Agent) (a : BitVec 28) (w : Width) (v : DWord) (s : State) : Res :=
  s.run (·.w0Write by_ a.toNat w v.toNat)

/-- Fields a write of any value clears. -/
def counterFields : List (Nat × Nat × Nat × List Fld) := [
  (0x50, 4, 1, [F.GLB_ECC_CE_COUNT_COUNT]), (0x54, 4, 1, [F.GLB_ECC_UE_COUNT_COUNT]), (0x100014, 4, 1, [F.MBX_EVT_MISSED_COUNT]),
  (0x220004, 16, 256, [F.ARB_GRP_STATE_EARLY, F.ARB_GRP_STATE_FORCED]),
  (0x230024, 4, 1, [F.ORO_COUNTS_PROMOTIONS, F.ORO_COUNTS_ROLLBACKS, F.ORO_COUNTS_SHADOW_VIOL, F.ORO_COUNTS_ACTIVE_INVALID]),
  (0x230028, 4, 1, [F.ORO_TLM_MISS_COUNT]), (0x60100c, 256, 16, [F.CQ_COUNTS_DROPPED, F.CQ_COUNTS_FLUSHES]),
  (0x901008, 64, 12, [F.TW_SEG_COUNTS_NACK, F.TW_SEG_COUNTS_LOST, F.TW_SEG_COUNTS_TIMEOUT, F.TW_SEG_COUNTS_PEC]),
  (0x90100c, 64, 12, [F.TW_SEG_ALERT_COUNT]),
  (0x902004, 16, 8, [F.TW_AVS_COUNTS_CRC_ERR, F.TW_AVS_COUNTS_BUSY, F.TW_AVS_COUNTS_RESENDS, F.TW_AVS_COUNTS_FAILURES]),
  (F.LNK_CNT0_CRC_ERR.base, F.LNK_CNT0_CRC_ERR.stride, 24, [F.LNK_CNT0_CRC_ERR, F.LNK_CNT0_REPLAYS]),
  (F.LNK_CNT1_FEC_SYM.base, F.LNK_CNT1_FEC_SYM.stride, 24, [F.LNK_CNT1_FEC_SYM, F.LNK_CNT1_FEC_UNCORR]),
  (F.LNK_CNT2_RETRAINS.base, F.LNK_CNT2_RETRAINS.stride, 24, [F.LNK_CNT2_RETRAINS, F.LNK_CNT2_FAILURES, F.LNK_CNT2_NAKS_SENT]),
  (0xc00028, 4, 1, [F.SOB_TIMEOUTS_COUNT]), (0xc0002c, 4, 1, [F.SOB_OPERR_COUNT]), (0x2000018, 4, 1, [F.BRD_ABORTS_COUNT]),
  (0x200001c, 4, 1, [F.BRD_TRAIN_DROPS_ORPHANS, F.BRD_TRAIN_DROPS_REFUSED]),
  (0x448101c, 64, 32, [F.SLOT_COUNTS_LATE, F.SLOT_COUNTS_DROPPED, F.SLOT_COUNTS_OVERRUN])]

/-- A write of any value to a counter register sets its counters to 0 (R49 and the field tables). -/
def Dev.counterClear (d : Dev) (a : Nat) : Dev :=
  counterFields.foldl (fun d r =>
    if r.1 ≤ a ∧ (a - r.1) % r.2.1 = 0 ∧ (a - r.1) / r.2.1 < r.2.2.1 then
      r.2.2.2.foldl (fun d f => d.wr f ((a - r.1) / r.2.1) 0) d
    else d) d

def execCounterClearWrite (by_ : Agent) (a : BitVec 28) (s : State) : Res :=
  s.run fun d => if d.sends by_ then d.counterClear a.toNat else d

/-- SEC alone sets WRITE_LOCK. -/
def execSetWriteLock (by_ : Agent) (s : State) : Res :=
  s.run fun d => if by_ = .sec ∧ d.sends by_ = true then d.wr F.GLB_WRITE_LOCK_LOCKED 0 1 else d

/-! ### 64-bit counters and fields (R12 to R14) -/

/-- The low words of the 64-bit counters. -/
def isCounter64 (a : Nat) : Bool :=
  [0x30, 0x130, 0x200108, 0x200110, 0x200118, 0x200120, 0x200128, 0xc00020, 0x2000010, 0x8000010].contains a ||
    (0x4000000 ≤ a && a < 0x4480000 && a % 0x10000 = 0x20)

/-- A read of the low word delivers it and latches the high word of the same sample. -/
def execCounterLowRead (by_ : Agent) (a : BitVec 28) (s : State) : Res :=
  s.run fun d =>
    if d.sends by_ = true ∧ isCounter64 a.toNat = true then
      let hi : Word := BitVec.ofNat 32 (d.view (a.toNat + 4))
      ({ d with latch := tset (fun _ => 0) d.latch a.toNat hi }).emit (.data (BitVec.ofNat 64 (d.view a.toNat)) false)
    else d

/-- The low words of the writable 64-bit fields. -/
def isWide (a : Nat) : Bool :=
  a = F.SOB_HOP_OPERAND_LO.addr 0 || (List.range 4).any (fun k => a = F.CRC_VALUE_LO.addr k) ||
    (List.range 32).any fun n => a = F.SLOT_START_LO.addr n

def execWideFieldLowWrite (by_ : Agent) (a : BitVec 28) (v : Word) (s : State) : Res :=
  s.run fun d =>
    if d.sends by_ = true ∧ isWide a.toNat = true then { d with wlow := tset (fun _ => 0) d.wlow a.toNat v } else d

/-- A 64-bit value as the wide field at `lo` takes it: bits of CRC_VALUE above the algorithm's width are ignored (R492). -/
def Dev.wideFit (d : Dev) (lo v : Nat) : Nat :=
  match (List.range 4).find? fun k => lo = F.CRC_VALUE_LO.addr k with
  | some k => v % 2 ^ crcWidth (d.rd F.CRC_CFG_ALG k)
  | none => v

/-- The high write loads both words: the low one as held. -/
def execWideFieldHighWrite (by_ : Agent) (a : BitVec 28) (v : Word) (s : State) : Res :=
  s.run fun d =>
    let lo := a.toNat - 4
    if d.sends by_ = true ∧ 4 ≤ a.toNat ∧ isWide lo = true then
      let x := d.wideFit lo ((tget (fun _ => 0) d.wlow lo).toNat + 2 ^ 32 * v.toNat)
      (d.wrw lo x).wrw a.toNat (x / 2 ^ 32)
    else d

/-! ### Clocks and the HV bridge (R19, R23) -/

/-- A sample crosses the HV bridge: channels 0 to 127 of the converters, 128 to 137 fast. A failed CRC discards it; the
channel's next sample is stale. -/
def execHvBridgeTransfer (ch : Fin 138) (crcOk : Bool) (s : State) : Res :=
  s.run fun d =>
    if crcOk then d
    else
      let d' : Dev := { d with flt.chStale := tset (fun _ => false) d.flt.chStale ch.val true }
      d'.inc F.GLB_DIE_STATUS_BRIDGE_CRC_ERR

/-- The crystal shows no edge for 4 RC cycles. -/
def execCrystalLoss (s : State) : Res :=
  s.run fun d =>
    if d.seq.vinUp ∧ d.seq.xtal = 1 then
      (({ d with seq.xtal := 2 }).wr F.GLB_CLK_STATUS_RC_ACTIVE 0 1).ffr causeXtal 0 0
    else d

/-! ### Code words (R34 to R39) -/

/-- Where a code word lies: its key among pending write-backs, and the byte memory and address, if it is in one. -/
def eccPlace (m : EccMem) (w : Nat) : Nat × Option (Space × Nat) :=
  let key := fun (p : Space × Nat) => ((p.1.base + p.2) / 8, some p)
  match m with
  | .tile => key (.tile (w / 196608 % 72), w % 196608 * 8)
  | .commons => key (.commons, w % 2 ^ 22 * 8)
  | .hbm => key (.hbm, w * 8)
  | .core =>
    let w := w % 425984
    key (if w < 32768 then (.core 0, w * 8) else if w < 163840 then (.core 1, (w - 32768) * 8)
      else if w < 294912 then (.core 2, (w - 163840) * 8) else (.core (3 + (w - 294912) / 16384), (w - 294912) % 16384 * 8))
  | .sync => (5 * 2 ^ 37 + w % 131072, none)
  | .ffr => (6 * 2 ^ 37 + w % 32768, none)
  | .replay => (7 * 2 ^ 37 + w, none)

/-- GLB_ECC_LAST.MEM. -/
def eccCode : EccMem → Nat
  | .tile => 1
  | .commons => 2
  | .sync => 3
  | .hbm => 4
  | .core => 5
  | .ffr => 6
  | .replay => 7

/-- The bank of a word of the sync store (R167) or of the commons; their rows. -/
def eccBank (m : EccMem) (w : Nat) : Nat := if m = .sync then w / 2 % 16 else w / 131072 % 32
def dayAgo (d : Dev) (l : List Nat) : List Nat := l.filter fun t => d.gts < t + 86400000000000

/-- A bank of the sync store or the commons fails: the spare takes its place, or firmware allocates nothing more in it
(R376, R377). -/
def Dev.bankFail (d : Dev) (m : EccMem) (b : Nat) : Dev :=
  match tget (fun _ => none) d.ecc.spared (eccCode m) with
  | none =>
    let d' : Dev := { d with
      ecc.spared := tset (fun _ => none) d.ecc.spared (eccCode m) (some b)
      ecc.banks := tset (fun _ => {}) d.ecc.banks (64 * (eccCode m) + b) {} }
    d'.ffr causeSpare (eccCode m) b
  | some _ =>
    if m = .sync then { d with sob.avoid := putBit d.sob.avoid b true } else { d with ecc.comAvoid := putBit d.ecc.comAvoid b true }

/-- The memory controller counts an error of a bank: row repair (R123), then sparing (R375). -/
def Dev.bankError (d : Dev) (m : EccMem) (w : Nat) (ue : Bool) : Dev :=
  if m ≠ .sync ∧ m ≠ .commons then d
  else
    let b := eccBank m w
    let k := 64 * (eccCode m) + b
    let x := tget (fun _ => {}) d.ecc.banks k
    let row := Config.sramRow w
    let put := fun (x : Bank) => ({ d with ecc.banks := tset (fun _ => {}) d.ecc.banks k x } : Dev)
    if ue then
      let old := x.ue.filter fun p => d.gts < p.2 + 3600000000000
      let d := put { x with ue := (row, d.gts) :: old }
      if old.any fun p => p.1 ≠ row then d.bankFail m b else d
    else
      let ce := d.gts :: dayAgo d x.ce
      let hits := d.gts :: dayAgo d (tget (fun _ => []) x.rowCe row)
      let d := put { x with ce := ce, rowCe := tset (fun _ => []) x.rowCe row hits }
      if 1024 < ce.length then d.bankFail m b
      else if hits.length < 16 then d
      else if x.rowsUsed < 4 then
        let y := tget (fun _ => {}) d.ecc.banks k
        let d' : Dev := { d with
          ecc.banks := tset (fun _ => {}) d.ecc.banks k { y with rowCe := tset (fun _ => []) y.rowCe row [], rowsUsed := y.rowsUsed + 1 } }
        d'.ffr causeBankRow k row
      else d.bankFail m b

/-- What the owner of a memory records of an error. -/
def Dev.eccOwner (d : Dev) (m : EccMem) (w : Nat) (ue : Bool) : Dev :=
  match m with
  | .tile =>
    let t := w / 196608 % 72
    let row := Config.sramRow (w % 196608)
    if ue then (d.inc F.TILE_ECC_UE_COUNT t).wr F.TILE_ERR_UE_DATA t 1
    else
      ((d.inc F.TILE_ECC_CE_COUNT t).wr F.TILE_ERR_CE t 1).tlMod t fun x =>
        { x with rowCe := tset (fun _ => []) x.rowCe row ((d.aont :: tget (fun _ => []) x.rowCe row).filter fun a => d.aont < a + dayNs) }
  | .sync =>
    if ue then d.objPoisoned (w % 131072 / 2) else d.wr F.SOB_ERR_CE 0 1
  | _ => d

/-- Whether a stored word is poisoned, and its data. -/
def Dev.eccStored (d : Dev) (m : EccMem) (w : Nat) : Bool × Nat :=
  match (eccPlace m w).2 with
  | some p => (d.poisoned p.1 p.2, d.ld p.1 p.2 8)
  | none => match m with
    | .sync =>
      let o := d.obj (w % 131072 / 2)
      (bitOf o.poison (w % 2), leVal (((d.objBytes (w % 131072 / 2)).drop (8 * (w % 2))).take 8))
    | _ =>
      let key := (eccPlace m w).1
      (tget (fun _ => false) d.poison key,
        match tget (fun _ => none) d.ecc.raw key with
        | some v => v
        | none =>
          if m = .ffr then leVal ((d.ffrImage.drop (8 * (w % 32768))).take 8) else (Config.replayWord d.freeCtr w).toNat)

/-- The raw data of a word of a memory at place `p`, of a synchronisation object's second word, or of a recorder or replay word. -/
def Dev.eccPut (d : Dev) (p : Option (Space × Nat)) (m : EccMem) (w raw : Nat) : Dev :=
  match p with
  | some p => { d with mem := memPuts d.mem (p.1.base + p.2) (le 8 raw) }
  | none =>
    if m = .sync ∧ w % 2 = 1 then
      let i := w % 131072 / 2
      { d with sob.objs := tset (fun _ => {}) d.sob.objs i { d.obj i with value := raw } }
    else if m = .sync then d
    else { d with ecc.raw := tset (fun _ => none) d.ecc.raw (eccPlace m w).1 (some raw) }

/-- The data of an uncorrectable word as it now stands in the array. -/
def Dev.eccRaw (d : Dev) (m : EccMem) (w raw : Nat) : Dev := d.eccPut (eccPlace m w).2 m w raw

/-- A write-back is queued behind the read that found the error. -/
def Dev.wbQueue (d : Dev) (key : Nat) (poison : Bool) : Dev :=
  { d with wbPend := tset (fun _ => false) d.wbPend key true, wb := tset (fun _ => false) d.wb key poison }

/-- A read of a replay buffer draws a fresh free value: how flits lie in its words is open. -/
def Dev.eccDrawn (d : Dev) (m : EccMem) : Dev := if m = .replay then { d with freeCtr := d.freeCtr + 1 } else d

/-- The memory controller decodes a code word it has read (R35): what is delivered, and the machine. -/
def Dev.eccRead (d : Dev) (m : EccMem) (w : Nat) (r : EccResult) : (Nat × Bool) × Dev :=
  let key := (eccPlace m w).1
  let st := d.eccStored m w
  let d := d.eccDrawn m
  match r with
  | .clean => ((st.2, st.1), d)
  | .corrected =>
    if st.1 then ((st.2, true), d)
    else
      let d := ((d.inc F.GLB_ECC_CE_COUNT_COUNT).wbQueue key false).eccOwner m w false
      ((st.2, false), d.bankError m w false)
  | .uncorr raw =>
    let d := d.inc F.GLB_ECC_UE_COUNT_COUNT
    let d := (d.wr F.GLB_ECC_LAST_MEM 0 (eccCode m)).wr F.GLB_ECC_LAST_SEQ 0 (d.rd F.GLB_ECC_UE_COUNT_COUNT)
    let d := d.wr F.GLB_ECC_LAST_WORD_WORD 0 w
    let d := ((d.eccRaw m w raw.toNat).eccOwner m w true).wbQueue key true
    ((raw.toNat, true), d.bankError m w true)

/-- A memory is read: the FFR's lies in the AON island, every other in a domain that core power feeds. -/
def Dev.eccOn (d : Dev) (m : EccMem) : Bool := m = .ffr || d.sysOn

def execCodeWordRead (m : EccMem) (w : BitVec 31) (r : EccResult) (s : State) : Res :=
  s.run fun d =>
    if d.eccOn m then
      let x := d.eccRead m w.toNat r
      x.2.emit (.data (BitVec.ofNat 64 x.1.1) x.1.2)
    else d

/-- A correction or poison write-back takes place, if no other write has reached the word (R36). -/
def Dev.eccWriteback (d : Dev) (m : EccMem) (w : Nat) : Dev :=
  let p := eccPlace m w
  if tget (fun _ => false) d.wbPend p.1 then
    let poison : Bool := tget (fun _ => false) d.wb p.1
    let d := d.dropWb p.1
    if !poison then d
    else match p.2 with
      | some q => d.setPoison q.1 q.2 true
      | none =>
        if m = .sync then
          let i := w % 131072 / 2
          d.objPut i { d.obj i with poison := putBit (d.obj i).poison (w % 2) true }
        else { d with poison := tset (fun _ => false) d.poison p.1 true }
  else d

def execEccWriteback (m : EccMem) (w : BitVec 31) (s : State) : Res :=
  s.run fun d => if d.eccOn m then d.eccWriteback m w.toNat else d

/-- Patrol scrub reads a word and writes it back (R39). -/
def execPatrolScrub (m : EccMem) (w : BitVec 31) (r : EccResult) (s : State) : Res :=
  s.run fun d => if d.eccOn m then (d.eccRead m w.toNat r).2.eccWriteback m w.toNat else d

def execScrubPeriodMissed (hbm : Bool) (s : State) : Res :=
  s.run fun d => d.wr (if hbm then F.GLB_SCRUB_STATUS_HBM_LATE else F.GLB_SCRUB_STATUS_SRAM_LATE) 0 1

end Sys2Proof.Machine
end

