-- ==== Sys2Proof/Machine/ResetOps.lean ====
section
/-! DEFINITION. Shared operations of resets (spec/01 R42 to R50): what each scope clears, the start of the SYS domain, requests and
their causes. -/

namespace Sys2Proof.Machine

/-! ### Registers through a warm reset (R7, R42) -/

/-- The bits of register `a` whose access type is RWS. -/
def rwsMask (a : Nat) : Word :=
  match regDefAt a with
  | some r => r.fields.foldl (fun (m : Word) f => if f.acc = .rws then m ||| BitVec.ofNat 32 ((2 ^ f.len - 1) * 2 ^ f.lo) else m) 0
  | none => 0

/-- Registers of [lo, hi) return to their reset words, RWS fields kept; those `keep` names are left alone. -/
def Dev.warmRegs (d : Dev) (lo hi : Nat) (keep : Nat → Bool) : Dev :=
  { d with
    regs := (d.regs.map fun (p : Nat × Word) =>
      if lo ≤ p.1 && p.1 < hi && !keep p.1 then (p.1, (p.2 &&& rwsMask p.1) ||| (regReset p.1 &&& ~~~ rwsMask p.1)) else p).filter
        fun p => p.2 ≠ regReset p.1 }

/-! ### What a warm reset clears, block by block -/

/-- Every core is in reset: what it held in private SRAM is lost with it; failed marks and expiries stay (R386). -/
def Dev.coresReset (d : Dev) : Dev :=
  let d := (List.range 11).foldl (fun d k =>
    (d.coreMod k fun x => { ({} : Core) with expiries := x.expiries, failed := x.failed }).clearSpace (.core k)) d
  d

/-- The mailbox: requests, accepted requests and their completions, the lease, nonces, endpoint IDs; the MSI-X table belongs to
the endpoint and stays (DEDUCED: the log). -/
def Dev.mbxReset (d : Dev) : Dev :=
  let d : Dev := { d with
    mbx := { nextId := d.mbx.nextId }
    obs.waitingCompl := []
    obs.archIds := []
    obs.missedFree := 0
    boot.sess := none
    boot.served := none
    boot.wdogSeen := false }
  ((List.range 4).foldl (fun d c => (d.clearSpace (.req c)).clearSpace (.rsp c)) d).warmRegs 0x100000 0x200000 fun _ => false

/-- A held activation is dropped; LAST_STATUS records it with a code no rule names (R419). -/
def Dev.actDrop (d : Dev) : Dev :=
  match d.boot.heldAct with
  | none => d
  | some _ =>
    let f := d.free
    ({ f.2 with boot.heldAct := none }).wr F.UPD_STATUS_LAST_STATUS 0 (f.1 % 256)

/-- The hub: pacing groups cease to pace first (R273); objects, waiters and groups go; SOB_GEN_BASE advances (R170). -/
def Dev.hubReset (d : Dev) : Dev :=
  let d := ((List.range 256).filter d.paces).foldl Dev.unpace d
  let g := nextGen (d.rd F.SOB_GEN_BASE_GEN_BASE)
  let avoid := d.sob.avoid
  let d := d.sobClear.warmRegs 0xC00000 0x1000000 fun _ => false
  let d := ({ d with sob.avoid := avoid, pwr.groups := [], brd := {} }).wr F.SOB_GEN_BASE_GEN_BASE 0 g
  let d := d.clearSpace .commons
  d.warmRegs 0x2000000 0x4000000 fun _ => false

/-- Vreljan: link state is reset; what waited for an accelerator is dropped (R147). -/
def Dev.vlReset (d : Dev) : Dev :=
  let d := d.forAcc fun d a => (d.pwPut a { d.pw a with change := none }).showChange a
  let d : Dev := { d with
    vl.links := d.vl.links.filterMap fun (p : Nat × Link) => if p.2.trained then some (p.1, { ({} : Link) with trained := true }) else none
    vl.accs := d.vl.accs.filterMap fun (p : Nat × AccVl) =>
      let x : AccVl := { present := p.2.present, restart := p.2.restart }
      if x = {} then none else some (p.1, x) }
  let d := d.warmRegs 0xA00000 0xC00000 fun _ => false
  d.forAcc fun d a => d.wr F.VL_ACC_STATUS_MODE a (d.modeOf a)

/-- Tiles and slots (R129, R561): contents are lost; FAILED marks, reserve assignments and the counts stay. -/
def Dev.tilesReset (d : Dev) : Dev :=
  let st := (List.range 72).map fun t => (t, d.tst t)
  let d : Dev := { d with arr := { bistAt := d.arr.bistAt } }
  let d := (List.range 72).foldl (fun d t => d.clearSpace (.tile t)) d
  let d := d.warmRegs 0x4000000 0x8000000 fun a =>
    a = F.ARR_STATUS_RESERVE_AVAIL.addr 0 || (a < 0x4480000 && a % 0x10000 = 0x2C)
  st.foldl (fun d p =>
    d.wrw (F.TILE_STATE_STATE.addr p.1)
      (putBits 0 F.TILE_STATE_STATE.lo F.TILE_STATE_STATE.len (if p.2 = tsOff ∨ p.2 = tsFailed ∨ p.2 = tsFenced then p.2 else tsIdle))) d

/-- Capture queues, log settings and trace points; the log's ring and SEQ stay in HBM (R464). -/
def Dev.queuesReset (d : Dev) : Dev :=
  ({ d with obs.cq := [], obs.cqRr := 0, obs.logLevel := 3, obs.logMask := 0x7FF, obs.logCopy := false, obs.traceEn := [] }).warmRegs 0x600000 0x700000 fun _ => false

/-- The two-wire controllers (R520, R526): SMB_0 completes what is queued with ABORTED and keeps running; SMB_1 to SMB_11 and the
AVSBus controllers reset; a segment out of service stays so. -/
def Dev.twReset (d : Dev) : Dev :=
  let d := d.segFail 0 7
  let low := (List.range 12).filter fun n => n ≠ 0 && !bitOf d.tw.segPwr n
  let d := low.foldl (fun d n => d.segPower n true) d
  let d : Dev := { d with
    tw.avs := []
    tw.segs := d.tw.segs.filterMap fun (p : Nat × Seg) =>
      if p.1 = 0 then some p else if p.2.mode = .outOfService then some (p.1, { ({} : Seg) with mode := .outOfService }) else none }
  let d := d.warmRegs 0x900000 0xA00000 fun a => a = 0x90000C || (0x901000 ≤ a && a < 0x901040)
  (List.range 12).foldl Dev.segShow d

/-- Orotha starts again: no role is held, the replay buffer is empty (R316). Measurements of PWC stay. -/
def Dev.oroReset (d : Dev) : Dev :=
  let o := d.oro
  let d := [rlActive, rlShadow, rlTrain, rlRetained].foldl (fun d r => d.roleSet r none) d
  ({ d with oro := { frm := o.frm, nextRec := o.nextRec, closed := o.closed, replayMib := o.replayMib } }).oroState

/-- Everything a warm reset resets (R42). -/
def Dev.warmClear (d : Dev) : Dev :=
  let d := if d.is F.MBX_STATUS_READY then (d.wr F.MBX_STATUS_READY 0 0).vector 3 else d
  let d := (d.hubReset).vlReset.tilesReset.queuesReset.twReset.oroReset
  let d := ({ d with pwr.clkOps := [] }).actDrop.mbxReset.coresReset
  if d.is F.SNAP_STATUS_CAPTURING then
    ({ d with obs.snap.want := false, obs.snap.captured := [] }).wr F.SNAP_STATUS_CAPTURING 0 0
  else d

/-! ### Causes and the reset in progress (R44, R49) -/

/-- A reset is in progress: the power-down of a cold reset, or ROM has not yet booted after one. -/
def Dev.resetting (d : Dev) : Bool := d.seq.coldDown || d.boot.due ≠ 0

/-- The cause bits a reset of cold or warm scope loads: those requested, and RC_SWITCH with RC_ACTIVE set. -/
def Dev.causesLoad (d : Dev) (own : Nat) : Dev :=
  let m := d.boot.causes ||| own ||| (if d.is F.GLB_CLK_STATUS_RC_ACTIVE then 4 else 0)
  { d.wrw (F.GLB_RESET_CAUSE_POR.addr 0) m with boot.causes := 0, boot.coldReq := false, boot.warmReq := false, boot.deferred := false }

/-- Causes of GLB_RESET_CAUSE. -/
abbrev rcHostCold : Nat := 8
abbrev rcHostWarm : Nat := 16
abbrev rcHostCore : Nat := 32
abbrev rcSecWarm : Nat := 64
abbrev rcEndgameExit : Nat := 128
abbrev rcCorePwr : Nat := 256

/-- An additional cause of the reset in progress (R44). -/
def Dev.causeAdd (d : Dev) (m : Nat) : Dev := d.wrw (F.GLB_RESET_CAUSE_POR.addr 0) (d.rdw (F.GLB_RESET_CAUSE_POR.addr 0) ||| m)

/-- A power-down sequence is in progress (R44). -/
def Dev.poweringDown (d : Dev) : Bool := domains16.any fun k => d.dom k = dmFalling

/-- A cold reset is requested: absorbed by one in progress, deferred behind a power-down (R44). -/
def Dev.coldRequest (d : Dev) (m : Nat) : Dev :=
  if d.seq.coldDown || d.boot.due = 1 then d.causeAdd m
  else
    let d : Dev := { d with boot.causes := d.boot.causes ||| m }
    if d.poweringDown then { d with boot.deferred := true } else { d with boot.coldReq := true }

/-- A warm reset is requested: absorbed by a reset in progress (R44). -/
def Dev.warmRequest (d : Dev) (m : Nat) : Dev :=
  if d.resetting then d.causeAdd m
  else { d with boot.warmReq := true, boot.causes := d.boot.causes ||| m }

/-! ### Core power lost and restored (R46) -/

/-- PWC's registers that lie in the AON island: CHECK and MATE. -/
def pwcAon (a : Nat) : Bool := (0x200060 ≤ a && a < 0x200080) || (0x200080 ≤ a && a < 0x20008C)

/-- Everything outside the AON island starts from its cold-reset state. -/
def Dev.corePowerClear (d : Dev) : Dev :=
  let e : Dev := {}
  let check := fun (a : Nat) => (d.pw a).limCheck
  let cap := d.rd (if d.boot.capsel % 2 = 1 then F.PWC_CAP_DEFAULT_ENTRY_HI else F.PWC_CAP_DEFAULT_ENTRY_LO) (d.boot.capsel / 2)
  let shown := d.rd F.PWC_STATUS_CHECK_ACC
  let mate := d.rd F.PWC_STATUS_MATE
  let d' : Dev := { d with
    regs := d.regs.filter fun (p : Nat × Word) =>
      let a := p.1
      !(0x100000 ≤ a && a < 0x200000) && !(0x200000 ≤ a && a < 0x300000 && !pwcAon a) && !(0x500000 ≤ a && a < 0x700000) &&
        !(0x800000 ≤ a && a < 0x900000) &&
        !(0x900000 ≤ a && a < 0xA00000 && a ≠ 0x90000C && !(0x901000 ≤ a && a < 0x901040)) && !(0xA00000 ≤ a && a < 0x8000000) &&
        a ≠ F.GLB_WRITE_LOCK_LOCKED.addr 0 && a ≠ F.GLB_CONFIG_TILES_ACTIVE.addr 0
    mem := d.mem.filter fun c => c.1 / 2 ^ 40 = 2 || c.1 / 2 ^ 40 = 3 || c.1 / 2 ^ 40 = 4
    poison := d.poison.filter fun c => c.1 / 2 ^ 37 = 6
    wb := d.wb.filter fun c => c.1 / 2 ^ 37 = 6
    wbPend := d.wbPend.filter fun c => c.1 / 2 ^ 37 = 6
    ecc := { raw := d.ecc.raw.filter fun c => c.1 / 2 ^ 37 = 6 }
    arr := {}
    sob := {}
    brd := {}
    oro := {}
    mbx := { nextId := d.mbx.nextId }
    vl.links := []
    vl.accs := d.vl.accs.filterMap fun (p : Nat × AccVl) =>
      let x : AccVl := { present := p.2.present, restart := false }
      if x = {} then none else some (p.1, x)
    pwr := { e.pwr with
      vrIn := d.pwr.vrIn, ocIn := d.pwr.ocIn, ttIn := d.pwr.ttIn, inactSince := d.pwr.inactSince, coolFail := d.pwr.coolFail
      mateDown := d.pwr.mateDown, chkHold := d.pwr.chkHold, clearSince := d.pwr.clearSince, uvSince := d.pwr.uvSince
      uvfSince := d.pwr.uvfSince, startSince := d.pwr.startSince
      accs := accs8.foldl (fun l a => tset (fun _ => ({} : AccPwr)) l a { limCheck := check a }) [] }
    obs.cq := []
    obs.cqRr := 0
    obs.msix := []
    obs.pba := 0
    obs.logSeq := 0
    obs.logLevel := 3
    obs.logMask := 0x7FF
    obs.logCopy := false
    obs.logHead := 0
    obs.logRecs := []
    obs.traceEn := []
    obs.waitingCompl := []
    obs.archIds := []
    obs.missedFree := 0
    jtag := {}
    boot.sess := none
    boot.heldAct := none
    boot.served := none
    boot.wdogSeen := false
    flt.convSuspect := []
    flt.hbmRows := []
    tw.avs := []
    tw.segs := d.tw.segs.filter fun (p : Nat × Seg) => p.1 = 0 || p.2.mode = .outOfService }
  let d' := (d'.wr F.PWC_TRAY_CAP_CAP_W 0 cap).wr F.PWC_STATUS_CHECK_ACC 0 shown
  let d' := (d'.wr F.PWC_STATUS_MATE 0 mate).forAcc fun d a => d.wr F.PWC_ACC_PSTATE_CHECK a (bitOf shown a).toNat
  let d' := d'.forAcc fun d a => d.wr F.VL_ACC_STATUS_MODE a (d.modeOf a)
  (((List.range 12).foldl Dev.segShow d').coresReset).emergUpdate

/-- Core power is back (R46): the restart, with GLB_RESET_CAUSE.CORE_PWR and a FATAL record; in Endgame the cores stay in reset. -/
def Dev.corePowerRestart (d : Dev) : Dev :=
  let d := ((d.corePowerClear).causesLoad rcCorePwr).ffr causeCorePower 0 0
  if d.flt.endgame then { d with sysOn := true, gts := d.aont, boot.coreLost := false, pwr.frameNow := frameOf d.aont }
  else d.sysStart 3

end Sys2Proof.Machine
end

