-- ==== Sys2Proof/Machine/BootOps.lean ====
section
/-! DEFINITION. Shared operations of boot (spec/12): the flash and its journal, bundles and their checks, the loading of a
bundle, the boot registers. -/

namespace Sys2Proof.Machine

/-! ### The boot flash (R398) -/

/-- Slots A, B and G. -/
abbrev slA : Nat := 0
abbrev slB : Nat := 1
abbrev slG : Nat := 2

def slotBase (s : Nat) : Nat := [0x100000, 0x1100000, 0x3000000].getD s 0x3000000

/-- The longest bundle, and the offset of a slot's tag record (R398). -/
abbrev bundleMax : Nat := 16773120
abbrev slotSize : Nat := 0x1000000

def Dev.slotLd (d : Dev) (s off n : Nat) : List Byte := d.ldn .flash (slotBase s + off) n

/-- Programming clears bits of erased bytes; it sets none. -/
def Dev.flashProg (d : Dev) (a : Nat) (bs : List Byte) : Dev :=
  d.stn .flash a (List.zipWith (fun (x y : Byte) => x &&& y) (d.ldn .flash a bs.length) bs)

/-! ### The journal (R409, R410) -/

abbrev jsEmpty : Nat := 0
abbrev jsErasing : Nat := 1
abbrev jsWriting : Nat := 2
abbrev jsStaged : Nat := 3
abbrev jsValid : Nat := 4
abbrev jsTrial : Nat := 5
abbrev jsConfirmed : Nat := 6
abbrev jsInvalid : Nat := 7

abbrev rsTag : Nat := 1
abbrev rsCompat : Nat := 2
abbrev rsDigest : Nat := 3
abbrev rsKeyRevoked : Nat := 4
abbrev rsTrialExhausted : Nat := 5
abbrev rsConfirmTimeout : Nat := 6
abbrev rsCoreFailed : Nat := 7
abbrev rsSuperseded : Nat := 8
abbrev rsHostReject : Nat := 9
abbrev rsSvn : Nat := 10

/-- A journal record. -/
structure JRec where
  seq : Nat := 0
  slot : Nat := 0xFF
  state : Nat := 0
  tries : Nat := 0
  reason : Nat := 0
  inst : Nat := 0
  svn : Nat := 0
  tmax : Nat := 0
  key : Nat := 0
  ver : Nat := 0
  build : List Byte := zeros 16
  boot : Nat := 0
  deriving DecidableEq, Repr

/-- Its 64 bytes. -/
def JRec.bytes (r : JRec) : List Byte :=
  let b := [0x53, 0x4C, 0x4A, 0x31] ++ le 4 r.seq ++ le 1 r.slot ++ le 1 r.state ++ le 1 r.tries ++ le 1 r.reason ++ le 4 r.inst ++
    le 2 r.svn ++ le 1 r.tmax ++ le 1 r.key ++ le 4 r.ver ++ fitBytes 16 r.build ++ le 8 r.boot ++ zeros 12
  b ++ le 4 (crc32c b)

/-- The record at position `i` of J0 (0 to 1023) and J1 (1024 to 2047), when its MAGIC and CRC match. -/
def Dev.jAt (d : Dev) (i : Nat) : Option JRec :=
  if d.ldb .flash (64 * i) ≠ 0x53 then none
  else
    let b := d.ldn .flash (64 * i) 64
    if pf b 0 4 = 0x314A4C53 ∧ crc32c (b.take 60) = pf b 60 4 then
      some { seq := pf b 4 4, slot := pf b 8 1, state := pf b 9 1, tries := pf b 10 1, reason := pf b 11 1, inst := pf b 12 4,
             svn := pf b 16 2, tmax := pf b 18 1, key := pf b 19 1, ver := pf b 20 4, build := pb b 24 16, boot := pf b 40 8 }
    else none

def Dev.jRecs (d : Dev) : List JRec := (List.range 2048).filterMap d.jAt

/-- A slot's record with the highest REC_SEQ; EMPTY without one. -/
def Dev.jCur (d : Dev) (s : Nat) : JRec :=
  (d.jRecs.filter fun (r : JRec) => r.slot = s).foldl (fun (m r : JRec) => if m.seq ≤ r.seq then r else m) { slot := s }

def Dev.jMax (d : Dev) : Nat := d.jRecs.foldl (fun (m : Nat) (r : JRec) => max m r.seq) 0

/-- BOOT_COUNT. -/
def Dev.bootCount (d : Dev) : Nat := d.jRecs.foldl (fun (m : Nat) (r : JRec) => max m r.boot) 0

/-- The active block: the one that holds the newest record. -/
def Dev.jBlock (d : Dev) : Nat :=
  let top := d.jMax
  if (List.range 1024).any fun i => (d.jAt (1024 + i)).any fun r => r.seq = top then 1 else 0

/-- The first erased position of a block. -/
def Dev.jFree (d : Dev) (b : Nat) : Option Nat :=
  ((List.range 1024).map fun i => 1024 * b + i).find? fun i => (d.ldn .flash (64 * i) 64).all fun (x : Byte) => x = 0xFF

/-- Append at the first erased position of a block. -/
def Dev.jPut (d : Dev) (b : Nat) (r : JRec) : Dev :=
  match d.jFree b with
  | some i => d.flashProg (64 * i) ({ r with seq := d.jMax + 1 } : JRec).bytes
  | none => d

/-- Append a record; a full block is compacted into the other one first (R410). -/
def Dev.jAppend (d : Dev) (r : JRec) : Dev :=
  let b := d.jBlock
  match d.jFree b with
  | some _ => d.jPut b r
  | none =>
    let keep := [slA, slB, slG].filterMap fun s =>
      let c := d.jCur s
      if c.seq = 0 then none else some c
    let boot : JRec := { boot := d.bootCount }
    let d := d.clearRange .flash (0x10000 * (1 - b)) 0x10000
    ((keep ++ [boot]).foldl (fun d x => d.jPut (1 - b) x) d).jPut (1 - b) r

/-! ### Bundles (R403 to R408) -/

/-- An image of a manifest. -/
structure Image where
  ty : Nat
  index : Nat
  off : Nat
  size : Nat
  digest : Nat
  deriving DecidableEq, Repr

/-- Images of a manifest. -/
def images (man : List Byte) : List Image :=
  (List.range (min 16 (pf man 5 1))).map fun i =>
    let p := 32 + 64 * i
    { ty := pf man p 1, index := pf man (p + 1) 1, off := pf man (p + 4) 4, size := pf man (p + 8) 4, digest := pf man (p + 16) 48 }

/-- Size limit of an image type (R405). -/
def imageLimit (ty : Nat) : Nat := [0, 0x28000, 0x100000, 0x100000, 0x20000, 0x4000, 0x1000, 0x800000, 0x10000].getD ty 0

/-- A bundle as read from a slot: header, manifest, tag record. A manifest is at most 1,056 bytes (R404). -/
def Dev.slotHead (d : Dev) (s : Nat) : List Byte := d.slotLd s 0 128
def Dev.slotMan (d : Dev) (s : Nat) : List Byte :=
  let h := d.slotHead s
  d.slotLd s (min bundleMax (pf h 0x20 4)) (min 1056 (pf h 0x24 4))
def Dev.slotTag (d : Dev) (s : Nat) : List Byte := d.slotLd s 0xFFF000 72

def headSvn (h : List Byte) : Nat := pf h 12 2
def headVersion (h : List Byte) : Nat := pf h 8 4
def headBuild (h : List Byte) : List Byte := pb h 16 16
def headTotal (h : List Byte) : Nat := pf h 0x28 8
def headConfirm (h : List Byte) : Nat := pf h 0x30 2
def headTrialMax (h : List Byte) : Nat := pf h 0x32 1
def headGolden (h : List Byte) : Bool := bitOf (pf h 14 2) 0
def headAuto (h : List Byte) : Bool := bitOf (pf h 14 2) 1

/-- Header fields in range (R403, R407). -/
def headOk (h : List Byte) : Bool :=
  pf h 0 4 = 0x42585250 && pf h 4 1 = 1 && pf h 5 1 = 0 && pf h 6 2 = 128 && headSvn h ≤ 64 && pf h 14 2 < 4 &&
    headTotal h ≤ bundleMax && 60 ≤ headConfirm h && headConfirm h ≤ 3600 && 1 ≤ headTrialMax h && headTrialMax h ≤ 7 && zeroed h 0x33 77

/-- The manifest fits the device (R404, R405, R407). -/
def manOk (h m : List Byte) (grade : Nat) : Bool :=
  let l := images m
  let n := pf m 5 1
  let count := fun (t : Nat) => (l.filter fun x => x.ty = t).length
  6 ≤ n && n ≤ 16 && pf h 0x24 4 = 32 + 64 * n && pf h 0x20 4 + pf h 0x24 4 ≤ headTotal h &&
    pf m 0 2 = 0x0960 && pf m 2 1 ≤ 0xB0 && 0xB0 ≤ pf m 3 1 && bitOf (pf m 4 1) grade && zeroed m 6 26 &&
    ((List.range n).all fun i => zeroed m (32 + 64 * i + 2) 2 && zeroed m (32 + 64 * i + 12) 4) &&
    (l.all fun x => 1 ≤ x.ty && x.ty ≤ 8 && x.size ≤ imageLimit x.ty && x.off + x.size ≤ headTotal h &&
      (if x.ty = 7 then x.index ≤ 3 else x.index = 0)) &&
    ([1, 2, 3, 4, 5, 6].all fun t => count t = 1) && count 7 ≤ 4 && count 8 ≤ 1 &&
    ((List.range 4).all fun k => (l.filter fun x => x.ty = 7 && x.index = k).length ≤ 1) &&
    ((List.range n).all fun i => (List.range i).all fun j =>
      match l[i]?, l[j]? with
      | some x, some y => x.off + x.size ≤ y.off || y.off + y.size ≤ x.off
      | _, _ => true)

/-- R407 but for the SVN. -/
def Dev.compatible (d : Dev) (h m : List Byte) : Bool := headOk h && manOk h m (d.rd F.GLB_ID_TGRADE)

/-- The tag record is genuine and of this slot (R408). -/
def tagOk (s : Nat) (tag h m : List Byte) : Bool :=
  pf tag 0 4 = 0x31474154 && pf tag 8 1 = s && pf tag 24 48 = (Config.slotMac (tag.take 24 ++ h ++ m)).toNat

/-- INSTALL_SEQ of a slot's tag record; 0 when none. -/
def Dev.tagSeq (d : Dev) (s : Nat) : Nat := let t := d.slotTag s; if pf t 0 4 = 0x31474154 then pf t 4 4 else 0

/-- A new INSTALL_SEQ (R410). -/
def Dev.newInstall (d : Dev) : Nat :=
  1 + [slA, slB, slG].foldl (fun m s => max m (d.tagSeq s)) (d.jRecs.foldl (fun (m : Nat) (r : JRec) => max m r.inst) 0)

/-- The bytes of an image in a slot; whether they have its digest. -/
def Dev.imageLd (d : Dev) (s : Nat) (x : Image) : List Byte := d.slotLd s x.off x.size
def Dev.imageOk (d : Dev) (s : Nat) (x : Image) : Bool := (Config.sha384 (d.imageLd s x)).toNat = x.digest

/-- The image of a type. -/
def manImage (man : List Byte) (ty : Nat) : Option Image := (images man).find? fun x => x.ty = ty

/-- Load-and-verify of a candidate (R411): 0, or the reason of the first check that fails. -/
def Dev.verify (d : Dev) (s : Nat) : Nat :=
  let tag := d.slotTag s
  if pf tag 0 4 ≠ 0x31474154 then rsTag
  else
    let h := d.slotHead s
    let m := d.slotMan s
    if ¬ tagOk s tag h m then rsTag
    else if bitOf d.boot.revoke (pf tag 9 1) then rsKeyRevoked
    else if ¬ d.compatible h m then rsCompat
    else if headSvn h < d.boot.svn then rsSvn
    else if ((images m).filter fun x => x.ty ≠ 7).all fun x => d.imageOk s x then 0
    else rsDigest

/-! ### Boot registers (R433) -/

def ownerHash (d : Dev) (k : Nat) : Option (BitVec 384) := if k = 0 then some Config.ownerHash0 else tget (fun _ => none) d.boot.ownerHash k

def Dev.trustShow (d : Dev) : Dev :=
  ((d.wr F.TRUST_STATUS_OWNER_FUSED 0 (maskOf 4 fun k => (ownerHash d k).isSome)).wr F.TRUST_STATUS_OWNER_REVOKED 0 d.boot.revoke).wr
    F.TRUST_STATUS_MODEL_KEYS 0 (popcount 4 d.boot.modelOk)

/-- The journal and the counts as the registers show them. -/
def Dev.bootShow (d : Dev) : Dev :=
  let d := [slA, slB, slG].foldl (fun (d : Dev) (s : Nat) =>
    let r := d.jCur s
    let d := ((d.wr F.BOOT_SLOT_STATE_STATE s r.state).wr F.BOOT_SLOT_STATE_REASON s r.reason).wr F.BOOT_SLOT_STATE_TRIES s r.tries
    let d := ((d.wr F.BOOT_SLOT_STATE_TRIAL_MAX s r.tmax).wr F.BOOT_SLOT_STATE_KEY_INDEX s r.key).wr F.BOOT_SLOT_STATE_SVN s r.svn
    d.wr F.BOOT_SLOT_SEQ_INSTALL_SEQ s (d.tagSeq s)) d
  let c := d.bootCount
  ((d.wr64 F.BOOT_COUNT_LO 0 c).wr F.BOOT_SVN_FUSED_SVN 0 d.boot.svn).trustShow

/-- The running bundle is on trial. -/
def Dev.onTrial (d : Dev) : Bool := d.is F.BOOT_STATUS_TRIAL

/-- The slot that booted. -/
def Dev.bootedSlot (d : Dev) : Nat := d.rd F.BOOT_STATUS_SLOT

/-- UPD_STATUS but LAST_STATUS (R433). PROGRESS of an erase is a free value. -/
def Dev.updShow (d : Dev) : Dev :=
  let staged := [slA, slB].find? fun s => (d.jCur s).state = jsStaged
  let going := [slA, slB].find? fun s => (d.jCur s).state = jsValid
  let set := fun (d : Dev) (st tgt pct : Nat) => ((d.wr F.UPD_STATUS_STATE 0 st).wr F.UPD_STATUS_TARGET 0 tgt).wr F.UPD_STATUS_PROGRESS 0 pct
  match d.boot.sess, d.boot.heldAct with
  | some x, _ =>
    if x.id.isSome then let f := d.free; set f.2 1 x.target (f.1 % 101)
    else
      let h := d.slotHead x.target
      let total := if pf h 0 4 = 0x42585250 then min bundleMax (headTotal h) else bundleMax
      set d 2 x.target (min 100 (100 * x.wrote / max 1 total))
  | none, some s => set d 5 s 0
  | none, none =>
    if d.onTrial then set d 7 d.bootedSlot 0
    else match going, staged with
      | some s, _ => set d 6 s 0
      | none, some s => set d 4 s 0
      | none, none => set d 0 0 0

/-- Record a slot's new state; the registers follow. -/
def Dev.jState (d : Dev) (s : Nat) (f : JRec → JRec) : Dev :=
  let r := f (d.jCur s)
  (d.jAppend { r with slot := s, boot := d.bootCount }).bootShow

/-- A slot's state and reason change. -/
def Dev.jMark (d : Dev) (s st reason : Nat) : Dev := d.jState s fun (r : JRec) => { r with state := st, reason := reason }

/-- INVALID is never recorded for slot G. -/
def Dev.jReject (d : Dev) (s reason : Nat) : Dev := if s = slG then d else d.jMark s jsInvalid reason

/-- The fused SVN rises to `v` (R421). -/
def Dev.svnRaise (d : Dev) (v : Nat) : Dev :=
  let d : Dev := { d with boot.svn := max d.boot.svn v }
  d.wr F.BOOT_SVN_FUSED_SVN 0 d.boot.svn

/-! ### Keys at boot (R400, R430) -/

/-- Model-signing keys in force: enrolled, not revoked, their signer not revoked. -/
def Dev.modelCheck (d : Dev) : Dev :=
  { d with boot.modelOk := maskOf 4 fun k =>
      match tget (fun _ => none) d.boot.modelKeys k with
      | some x => !x.revoked && !bitOf d.boot.revoke x.signer
      | none => false }

/-! ### Repairs reapplied at a boot (R379) -/

/-- The archived records of a cause, as their two arguments, without repeats. -/
def Dev.archived (d : Dev) (c : Cause) : List (Nat × Nat) :=
  let code := 16 * c.1 + (Config.ffrCode c.1 c.2.1).toNat
  ((d.obs.ffrS.archives.flatMap fun (a : FfrArchive) => a.recs).filter fun (r : FfrRec) => r.e.code = code).foldl
    (fun (l : List (Nat × Nat)) (r : FfrRec) =>
      let p := (pf r.e.payload 0 4, pf r.e.payload 4 4)
      if l.contains p then l else l ++ [p]) []

def Dev.repairsReapply (d : Dev) : Dev :=
  let d : Dev := { d with
    flt.hbmRows := (d.archived causeSoftRepair).foldl (fun l p => if l.contains p.1 then l else p.1 :: l) d.flt.hbmRows
    ecc.spared := (d.archived causeSpare).foldl (fun l p => tset (fun _ => none) l p.1 (some p.2)) d.ecc.spared }
  let d := (d.archived causeBankRow).foldl (fun (d : Dev) (p : Nat × Nat) =>
    let x := tget (fun _ => {}) d.ecc.banks p.1
    { d with ecc.banks := tset (fun _ => {}) d.ecc.banks p.1 { x with rowsUsed := min 4 (x.rowsUsed + 1) } }) d
  (d.archived causeRowRepair).foldl (fun (d : Dev) (p : Nat × Nat) => if p.1 < 72 then d.incW F.TILE_REPAIR_ROWS_USED p.1 else d) d

/-! ### Loading a bundle (R412, R414) -/

/-- One register setting of a CONFIG image: what follows such a write happens. -/
def Dev.configWord (d : Dev) (a v : Nat) : Dev :=
  let d :=
    if a = aCheckEn then d.checkEn v
    else if a = F.ORO_CTRL_TLM_EN.addr 0 then d.tlmEn (bitOf v 0)
    else if a = F.VL_CTRL_EN.addr 0 then (if d.is F.VL_CTRL_EN = bitOf v 0 then d else d.vlEn (bitOf v 0))
    else match accs8.find? fun x => F.PWC_ACC_CFG_PTAB_VALID.addr x = a, (List.range 24).find? fun n => F.LNK_CTRL_EN.addr n = a with
      | some x, _ => d.ptabValid x (bitOf v 0)
      | none, some n => if d.is F.LNK_CTRL_EN n = bitOf v 0 then d else d.linkEn n (bitOf v 0)
      | none, none => d
  d.regWrite true a v

/-- SEC applies the CONFIG image, then sets WRITE_LOCK where it says so. -/
def Dev.configApply (d : Dev) (img : List Byte) : Dev :=
  let d := (Config.tableWords 8 img).foldl (fun (d : Dev) (p : Nat × Word) => d.configWord p.1 p.2.toNat) d
  if Config.configLocks img then d.wr F.GLB_WRITE_LOCK_LOCKED 0 1 else d

/-- The words of a table that lie in its block are loaded. -/
def Dev.tableLoad (d : Dev) (ty lo hi : Nat) (img : List Byte) : Dev :=
  ((Config.tableWords ty img).filter fun (p : Nat × Word) => lo ≤ p.1 && p.1 < hi).foldl
    (fun (d : Dev) (p : Nat × Word) => d.regWrite true p.1 p.2.toNat) d

/-- The 48 bytes of an image's digest; zeros without the image. -/
def digestBytes (man : List Byte) (ty : Nat) : List Byte := match manImage man ty with | some x => le 48 x.digest | none => zeros 48

/-- The cooling and rail tables: committed at a cold boot, otherwise only compared with those in force (R414). -/
def Dev.tablesBoot (d : Dev) (s : Nat) (m : List Byte) (commit : Bool) : Dev :=
  let rail := digestBytes m 5
  let cool := digestBytes m 6
  if commit then
    let img := fun (t : Nat) => match manImage m t with | some x => d.imageLd s x | none => []
    let r := img 5
    let c := img 6
    let d := (d.tableLoad 6 0x400000 0x500000 c).coolCommit
    let d := (d.tableLoad 5 0x300000 0x400000 r).seqCommit
    { d with boot.railDig := rail, boot.coolDig := cool }
  else
    (d.wr F.BOOT_STATUS_RAIL_PENDING 0 (decide (rail ≠ d.boot.railDig)).toNat).wr F.BOOT_STATUS_COOL_PENDING 0 (decide (cool ≠ d.boot.coolDig)).toNat

/-- The firmware images go into the cores' SRAM; CCC_FW also into SEC's cache in the commons. -/
def Dev.coreImage (d : Dev) (k : Nat) (img : List Byte) : Dev := (d.clearSpace (.core k)).stn (.core k) 0 img
def Dev.imagesLoad (d : Dev) (s : Nat) (m : List Byte) : Dev :=
  let img := fun (t : Nat) => match manImage m t with | some x => d.imageLd s x | none => []
  let sec := img 1
  let pmc := img 2
  let sch := img 3
  let ccc := img 4
  let d := (((d.coreImage 0 sec).coreImage 1 pmc).coreImage 2 sch).stn .commons 0 ccc
  (List.range 8).foldl (fun d c => d.coreImage (3 + c) ccc) d

/-- PACKAGE images go to their staging entries, are checked there, and are offered to the loader (R412): a policy as ACTIVE, a
training package as TRAIN of that policy, any other as GENERAL. -/
def Dev.packagesLoad (d : Dev) (s : Nat) (m : List Byte) : Dev :=
  let ps := (images m).filter fun x => x.ty = 7
  let base := (ps.find? fun x => (pkgRead (d.imageLd s x)).policyOk).map fun x => (pkgRead (d.imageLd s x)).modelId
  (ps.foldl (fun (d : Dev) (x : Image) =>
    let b := d.imageLd s x
    let d := d.stn .hbm (x.index * 0x10000000) b
    if (Config.sha384 b).toNat ≠ x.digest then d
    else
      let p := pkgRead b
      let train := p.outs.any fun o => o.name = 0x0201
      let role := if train then rlTrain else if p.policyOk then rlActive else 0
      let q : LoadReq :=
        { entry := some x.index, pkg := b, role := role, maxLc := 4, baseId := if train then base.getD [] else [], denied := false,
          owner := 2, id := none, replaces := none, derived := false }
      { d with
        arr.staging := tset (fun _ => none) d.arr.staging x.index (some { total := x.size, loading := true })
        arr.loads := d.arr.loads ++ [q] }) d).loadsShow

/-- CONFIG_STATE (R401): the booted slot, FORCED, the bundle's SVN, the fused SVN, the debug state, zeros. -/
def Dev.configState (d : Dev) (s : Nat) (forced : Bool) (h : List Byte) : List Byte :=
  le 1 s ++ le 1 forced.toNat ++ le 2 (headSvn h) ++ le 2 d.boot.svn ++ le 1 d.boot.debugOpen.toNat ++ zeros 9

end Sys2Proof.Machine
end

