-- ==== Sys2Proof/Machine/CoreOps.lean ====
section
/-! DEFINITION. Shared operations on the firmware cores (spec/11 R385 to R389, spec/12 R413, R420): resets of core scope, restarts,
failures, first kicks, the end of a trial. -/

namespace Sys2Proof.Machine

/-! ### The end of a trial by fallback (R420) -/

/-- The trial slot is marked INVALID, and SEC requests the warm reset that boots the other candidate. -/
def Dev.fallback (d : Dev) (reason : Nat) : Dev :=
  let d := (d.jMark d.bootedSlot jsInvalid reason).wr F.BOOT_STATUS_TRIAL 0 0
  ((d.event 8 1 reason).updShow).warmRequest rcSecWarm

/-- A core other than SEC has failed while a trial runs, and SEC is there to end it. -/
def Dev.trialCheck (d : Dev) : Dev :=
  if d.onTrial && d.coreUp 0 && d.boot.trialFail then d.fallback rsCoreFailed else d

/-! ### Core resets (R42, R387, R388) -/

/-- SEC is down: the update session is lost (R432), and an activation it held is dropped (R419). -/
def Dev.secDown (d : Dev) : Dev :=
  let d := if d.boot.heldAct.isSome then d.actDrop.updShow else d
  match d.boot.sess with
  | some x =>
    let d' : Dev := { d with boot.sess := none }
    let d' := match x.id with | some i => d'.complete i msNotReady | none => d'
    if d'.boot.wpHigh then ({ d' with boot.wpHigh := false }).pin "FLASH_WP#" 0 false else d'
  | none => d

/-- A reset of core scope: the core stops, its private SRAM is lost, its two-wire descriptors end, what depends on it follows. -/
def Dev.coreStop (d : Dev) (k : Nat) : Dev :=
  let d := d.coreMod k fun x => { x with up := false, released := false, kickAt := none, period := 0, waitSec := false }
  let d := (d.clearSpace (.core k)).twCoreAbort k
  if k = 0 then d.secDown else if k = 1 then d.pmcDown else if k = 2 then d.schDown else d.cccDown (k - 3)

/-- A core is marked failed until the next cold reset (R386): its first-failure record, and what that means for the block. -/
def Dev.coreFail1 (d : Dev) (k : Nat) : Dev :=
  let d := d.coreMod k fun x => { x with up := false, released := false, waitSec := false, failed := true }
  let d := ({ d with boot.trialFail := d.boot.trialFail || (k ≠ 0 && d.onTrial) }).ffr causeCoreFailed k 0
  if isCcc k then d.cccLost (k - 3)
  else if k = 2 then d.wr F.MBX_STATUS_SERVER 0 (if d.coreUp 0 then 2 else 0)
  else if k = 0 then (if d.rd F.MBX_STATUS_SERVER = 2 then d.wr F.MBX_STATUS_SERVER 0 0 else d)
  else d

/-- SEC has failed: a core that waits for it to be restarted, and PMC and SCH when it has not released them, fail too. -/
def Dev.secLost (d : Dev) : Dev :=
  (List.range 10).foldl (fun (d : Dev) (j : Nat) =>
    let x := d.core' (j + 1)
    if !x.failed && (x.waitSec || (j < 2 && !x.released)) then d.coreFail1 (j + 1) else d) d

/-- A core fails; with SEC, PMC and SCH all failed, Endgame takes over (R391); a trial ends (R420). -/
def Dev.coreFail (d : Dev) (k : Nat) : Dev :=
  let d := d.coreFail1 k
  let d := if k = 0 then d.secLost else d
  if (d.core' 0).failed && (d.core' 1).failed && (d.core' 2).failed then d.endgameEnter 1 else d.trialCheck

/-! ### Restarts (R385, R386, R389, R413) -/

/-- The image a core is restarted from, when it checks: SEC's from the booted slot, whose tag and BUILD_ID are those of the
running bundle; PMC's and SCH's from the booted slot under the manifest SEC holds; a CCC's from the commons cache. -/
def Dev.restartImage (d : Dev) (k : Nat) : Option (List Byte) :=
  match d.boot.run with
  | none => none
  | some r =>
    let man := if k = 0 then d.slotMan r.slot else r.man
    let head := d.slotHead r.slot
    match manImage man (if isCcc k then 4 else k + 1) with
    | none => none
    | some x =>
      let b := if isCcc k then d.ldn .commons 0 x.size else d.imageLd r.slot x
      let own : Bool := k ≠ 0 || (tagOk r.slot (d.slotTag r.slot) head man && headBuild head = headBuild r.head)
      if own && (Config.sha384 b).toNat = x.digest then some b else none

/-- A core is loaded and released again; a failed check leaves it failed. A CCC is released 3.9 ms after its reset. -/
def Dev.coreRestart (d : Dev) (k : Nat) : Dev :=
  match d.restartImage k with
  | none => d.coreFail k
  | some b =>
    let d := (d.coreImage k b).coreRelease k
    if isCcc k then d.coreMod k fun x => { x with relAt := d.aont + 3900000 } else d

/-- After its reset a core starts again: ROM restarts SEC, from the beginning while a boot is still to be made; SEC restarts
every other core, once it runs itself. -/
def Dev.coreAgain (d : Dev) (k : Nat) : Dev :=
  if k = 0 then (if d.boot.due ≠ 0 then d.coreRelease 0 else d.coreRestart 0)
  else if (d.core' 0).failed then d.coreFail k
  else if d.coreUp 0 then d.coreRestart k
  else d.coreMod k fun x => { x with waitSec := true }

/-! ### First kicks (R385, R388, R450) -/

/-- The watchdog's period, ns: fixed for SEC; a value outside the range of R385 leaves one within it open. -/
def Dev.kickPeriod (d : Dev) (k p : Nat) : Nat × Dev :=
  if k = 0 then (100000000, d)
  else
    let lo := if isCcc k then 100000 else 1000000
    let hi := if isCcc k then 10000000 else 100000000
    if lo ≤ p ∧ p ≤ hi then (p, d)
    else let f := d.free; (lo + f.1 % (hi - lo + 1), f.2)

/-- Status service begins in this boot: its duration is shown. -/
def Dev.serveTime (d : Dev) : Dev :=
  if d.boot.served.isSome then d else d.wr F.BOOT_TIME_TIME_US 0 (min 0xFFFFFFFF ((d.aont - d.boot.dueAt) / 1000))

/-- SEC runs: cores that waited for it are restarted; it serves group 0x00xx where SCH has failed; a trial it could not end
meanwhile ends. -/
def Dev.secRuns (d : Dev) : Dev :=
  let d := (List.range 10).foldl (fun (d : Dev) (j : Nat) =>
    if (d.core' (j + 1)).waitSec then (d.coreMod (j + 1) fun x => { x with waitSec := false }).coreRestart (j + 1) else d) d
  let d := if (d.core' 2).failed then (d.serveTime).wr F.MBX_STATUS_SERVER 0 2 else d
  d.trialCheck

/-- SCH runs: service begins; while the lease is HELD, its 500 ms count from here. -/
def Dev.schRuns (d : Dev) : Dev :=
  let d := (d.serveTime).wr F.MBX_STATUS_SERVER 0 1
  let d : Dev := { d with
    boot.served := some (d.boot.served.getD d.aont)
    mbx.leaseAt := if d.rd F.MBX_STATUS_LEASE = 1 then d.gts else d.mbx.leaseAt
    mbx.warned := false }
  d.readyTry

/-- A core's first kick since its release. -/
def Dev.coreRuns (d : Dev) (k : Nat) : Dev :=
  let d := d.coreMod k fun x => { x with up := true }
  if k = 0 then d.secRuns else if k = 1 then d.readyTry else if k = 2 then d.schRuns else d.cccBack (k - 3)

/-- A kick. While ROM is still to boot, SEC's kicks are ROM's. -/
def Dev.coreKick (d : Dev) (k p : Nat) : Dev :=
  let x := d.core' k
  if !x.released || x.failed then d
  else if x.kickAt.isSome then d.coreMod k fun x => { x with kickAt := some d.aont }
  else
    let t := d.kickPeriod k p
    let d := t.2.coreMod k fun x => { x with kickAt := some d.aont, period := t.1 }
    if k = 0 ∧ d.boot.due ≠ 0 then d else d.coreRuns k

/-- When the watchdog expires unless kicked before: after the period, or when the first kick is due. -/
def Dev.wdogDue (d : Dev) (k : Nat) : Nat :=
  let x := d.core' k
  match x.kickAt with
  | some t => t + x.period
  | none => x.relAt + if isCcc k then 1000000 else 250000000

/-- A watchdog expires, or a first kick does not arrive (R386). -/
def Dev.coreExpire (d : Dev) (k : Nat) : Dev :=
  let recent := d.aont :: ((d.core' k).expiries.filter fun t => d.aont < t + 60000000000)
  let d := d.coreMod k fun x => { x with expiries := recent }
  let d := (d.wrBit F.GLB_RESET_CAUSE_CORE_WDOG 0 k true).ffr causeCoreWdog k 0
  let d : Dev := { d with boot.wdogSeen := d.boot.wdogSeen || d.boot.served.isSome }
  let d := d.coreStop k
  if 3 ≤ recent.length then d.coreFail k else d.coreAgain k

end Sys2Proof.Machine
end

