-- ==== Sys2Proof/Machine/Boot.lean ====
section
/-! DEFINITION. Resets (spec/01 R42 to R50), core watchdogs (spec/11 R385 to R389) and the boot ROM (spec/12 R411 to R415): the
meanings of their commands. -/

namespace Sys2Proof.Machine

/-! ### Power-on and bring-up (R42, R49, R324, R546, R563) -/

/-- The machine after a power-on reset whose cause register is `cause`. -/
def Dev.powerOn (d : Dev) (cause : Nat) : Dev :=
  let e := (d.protectPins).bare
  let e : Dev := { e with seq.xtal := 0, out := (d.protectPins).out }
  (((e.wrw (F.GLB_RESET_CAUSE_POR.addr 0) cause).coldRegs {}).pin "FLASH_WP#" 0 false).relatch

/-- The bring-up regulator's power-good rises: everything is reset and the straps are sampled (true: the ball is low). -/
def execPowerOnReset (capsel : BitVec 3) (hswsel : BitVec 2) (goldenLow mfgLow : Bool) (s : State) : Res :=
  s.run fun d =>
    if ¬ d.seq.vinUp then d
    else
      let d' : Dev := { d with
        boot.capsel := capsel.toNat, boot.hswsel := hswsel.toNat, boot.goldStrap := goldenLow, boot.mfgTest := mfgLow }
      { d'.powerOn (1 + if d.boot.fellUv then 2 else 0) with boot.fellUv := false }

/-- VIN falls through the bring-up-off threshold. -/
def execBringupOff (s : State) : Res :=
  s.run fun d =>
    if ¬ d.seq.vinUp then d
    else { d.dropAll.powerOn 3 with seq.vinUp := false, boot.fellUv := true }

/-! ### Cold and warm resets (R42 to R44) -/

/-- A cold reset begins: its causes are loaded, those of a warm reset it absorbs among them (R44); everything but the AON island
stops, the rails go down in order. -/
def Dev.coldStart (d : Dev) : Dev :=
  let absorbed := if d.boot.due = 2 then d.rdw (F.GLB_RESET_CAUSE_POR.addr 0) &&& (rcHostWarm + rcHostCore + rcSecWarm) else 0
  let d := (d.causesLoad absorbed).warmClear
  ({ d with boot.due := 0 }).coldDownStart

def execColdReset (s : State) : Res :=
  s.run fun d =>
    if ¬ d.boot.coldReq ∨ d.seq.coldDown then d
    else if d.poweringDown then { d with boot.coldReq := false, boot.deferred := true }
    else d.coldStart

/-- The power-down that a cold request waited for has completed. -/
def execDeferredColdReset (s : State) : Res :=
  s.run fun d => if d.boot.deferred ∧ d.poweringDown = false ∧ d.seq.coldDown = false then d.coldStart else d

/-- With SEC failed nothing starts again: PMC and SCH fail unreleased (R386, R391). -/
def Dev.secCheck (d : Dev) : Dev :=
  if (d.core' 0).failed then
    let d := ({ d with boot.due := 0 }).secLost
    if (d.core' 1).failed && (d.core' 2).failed then d.endgameEnter 1 else d
  else d

/-- A warm reset. -/
def Dev.warmStart (d : Dev) : Dev :=
  let d := (d.warmClear).causesLoad 0
  (({ d with boot.due := 2, boot.dueAt := d.aont }).coreRelease 0).secCheck

def execWarmReset (s : State) : Res :=
  s.run fun d =>
    if d.boot.warmReq ∧ d.boot.coldReq = false ∧ d.boot.deferred = false ∧ d.sysOn ∧ d.flt.endgame = false ∧ d.seq.coldDown = false then
      d.warmStart
    else d

/-! ### PCIe reset (R45, R466) -/

/-- The endpoint and the host side of the mailbox: W0 channels are IDLE, replies to requests taken on them are discarded. -/
def Dev.pcieReset (d : Dev) : Dev :=
  let d' : Dev := { d with
    obs.msix := []
    obs.pba := 0
    mbx.held := d.mbx.held.map fun (h : Held) => if h.ch < 4 then { h with ch := 9 } else h }
  (List.range 4).foldl (fun (d : Dev) (c : Nat) =>
    ((d.wrw (F.MBX_CH_STATUS_STATE.addr c) 0).clearSpace (.req c)).clearSpace (.rsp c)) d'

def execPcieReset (s : State) : Res := s.run fun d => if d.sysOn then d.pcieReset else d

/-! ### Reset requests (R44, R49, R50) -/

/-- A write of GLB_RESET_CTRL. -/
def Dev.resetCtrl (d : Dev) (v : Nat) : Dev :=
  if v / 65536 ≠ 0x5A96 then d.ffr causeKey (F.GLB_RESET_CTRL_KEY.addr 0) v
  else
    let d := if bitOf v 2 then d.wrw (F.GLB_RESET_CAUSE_POR.addr 0) 0 else d
    if bitOf v 1 then d.coldRequest rcHostCold else if bitOf v 0 then d.warmRequest rcHostWarm else d

def execColdReq (by_ : Agent) (v : Word) (s : State) : Res := s.run fun d => if d.sends by_ then d.resetCtrl v.toNat else d
def execWarmReq (by_ : Agent) (v : Word) (s : State) : Res := s.run fun d => if d.sends by_ then d.resetCtrl v.toNat else d
def execClearCause (by_ : Agent) (v : Word) (s : State) : Res := s.run fun d => if d.sends by_ then d.resetCtrl v.toNat else d

/-- A core named in GLB_CORE_RESET is reset and starts again; while a reset is in progress the request is absorbed (R44). -/
def Dev.hostCoreReset (d : Dev) (k : Nat) : Dev :=
  let x := d.core' k
  if d.resetting then d.causeAdd rcHostCore
  else if x.failed || !x.released then d else ((d.wr F.GLB_RESET_CAUSE_HOST_CORE 0 1).coreStop k).coreAgain k

/-- A write of GLB_CORE_RESET. -/
def execCoreResetReq (by_ : Agent) (v : Word) (s : State) : Res :=
  s.run fun d =>
    if ¬ d.sends by_ then d
    else if v.toNat / 65536 ≠ 0x5A96 then d.ffr causeKey (F.GLB_CORE_RESET_KEY.addr 0) v.toNat
    else ((List.range 10).filter fun j => bitOf v.toNat (j + 1)).foldl (fun d j => d.hostCoreReset (j + 1)) d

/-- SEC requests a warm reset. -/
def execSecWarmRequest (s : State) : Res :=
  s.run fun d => if d.sysOn ∧ d.coreUp 0 = true then d.warmRequest rcSecWarm else d

/-- Domain 0 is ON again after core power was lost (R46). -/
def execCorePowerRestart (s : State) : Res :=
  s.run fun d => if d.boot.coreLost ∧ d.corePower = true ∧ d.seq.coldDown = false then d.corePowerRestart.secCheck else d

/-! ### Watchdogs (R385, R386) -/

def execWatchdogKick (k : Fin 11) (period : Word) (s : State) : Res :=
  s.run fun d => if d.sysOn then d.coreKick k.val period.toNat else d

def execWatchdogExpiry (k : Fin 11) (s : State) : Res :=
  s.run fun d =>
    let x := d.core' k.val
    if d.sysOn ∧ x.released ∧ x.failed = false ∧ d.wdogDue k.val ≤ d.aont then d.coreExpire k.val else d

/-! ### The boot ROM (R411 to R415) -/

/-- The candidates in order. -/
def Dev.candidates (d : Dev) (forced : Bool) : List Nat :=
  let can := [slA, slB].filter fun s => [jsValid, jsTrial, jsConfirmed].contains (d.jCur s).state
  let can := match can with
    | [a, b] => if (d.jCur a).inst < (d.jCur b).inst then [b, a] else [a, b]
    | l => l
  if forced then slG :: can else can ++ [slG]

/-- A verified candidate is booted: registers, images, tables, CONFIG; SEC runs and releases the other cores. -/
def Dev.bootFrom (d : Dev) (s : Nat) (forced fb : Bool) : Dev :=
  let h := d.slotHead s
  let m := d.slotMan s
  let cold : Bool := d.boot.due ≠ 2
  let st := if s = slG then jsEmpty else (d.jCur s).state
  let cdi := le 48 Config.romHash.toNat ++ le 48 (Config.sha384 (h ++ m)).toNat ++ digestBytes m 1 ++ d.configState s forced h
  let d : Dev := { d with boot.trialFail := false, boot.run := some { slot := s, head := h, man := m, tag := d.slotTag s, cdi := cdi } }
  let d := (d.wrw (F.BOOT_STATUS_PATH.addr 0) 0).wr F.BOOT_STATUS_PATH 0 (if cold then 1 else 2)
  let d := ((d.wr F.BOOT_STATUS_SLOT 0 s).wr F.BOOT_STATUS_FORCED 0 forced.toNat).wr F.BOOT_STATUS_TRIAL 0 (decide (st = jsTrial)).toNat
  let d := (d.wr F.BOOT_STATUS_FALLBACK 0 fb.toNat).wr F.BOOT_STATUS_DEBUG 0 d.boot.debugOpen.toNat
  let d := (d.wr F.BOOT_VERSION_BUNDLE_VERSION 0 (headVersion h)).wr F.BOOT_SVN_BUNDLE_SVN 0 (headSvn h)
  let d := (d.imagesLoad s m).tablesBoot s m (d.boot.due = 1)
  let d := match manImage m 8 with | some x => d.configApply (d.imageLd s x) | none => d
  let d := if st = jsConfirmed then
      let d := d.svnRaise (headSvn h)
      [slA, slB].foldl (fun (d : Dev) (t : Nat) =>
        let r := d.jCur t
        if t ≠ s ∧ r.state = jsConfirmed ∧ r.inst < (d.jCur s).inst then d.jMark t jsInvalid rsSuperseded else d) d
    else d
  let d := (d.packagesLoad s m).coreMod 0 fun x => { x with up := true, kickAt := some d.aont, period := 100000000 }
  let d : Dev := { (List.range 10).foldl (fun (d : Dev) (j : Nat) => d.coreRelease (j + 1)) d with boot.due := 0 }
  ((d.modelCheck).bootShow.updShow).secRuns

/-- Try candidates in order; without one, Endgame (R391). -/
def Dev.bootTry (forced : Bool) : List Nat → Bool → Dev → Dev
  | [], _, d => (({ d with boot.due := 0 }).bootShow).endgameEnter 2
  | s :: rest, fb, d =>
    let r := d.jCur s
    let trial : Bool := s ≠ slG && (r.state = jsValid || r.state = jsTrial)
    if trial && r.tmax < r.tries + 1 then Dev.bootTry forced rest true (d.jReject s rsTrialExhausted)
    else
      let d := if trial then d.jState s fun (r : JRec) => { r with state := jsTrial, tries := r.tries + 1, reason := 0 } else d
      let why := d.verify s
      if why = 0 then d.bootFrom s forced fb else Dev.bootTry forced rest true (d.jReject s why)

/-- ROM boots (`golden`: GOLDEN# is low at its start). -/
def Dev.romBoot (d : Dev) (golden : Bool) : Dev :=
  let cold : Bool := d.boot.due ≠ 2
  let forced : Bool := d.boot.goldStrap || golden || (d.boot.forceG && d.boot.due = 1)
  let d : Dev := { d with boot.forceG := false, boot.retain := {} }
  let d := if cold then
      let d : Dev := { d with boot.debugOpen := !Config.debugLock || d.boot.dbgTok, boot.dbgTok := false }
      (d.jAppend { boot := d.bootCount + 1 }).repairsReapply
    else d
  Dev.bootTry forced (d.candidates forced) false d

def execRomBoot (golden : Bool) (s : State) : Res :=
  s.run fun d =>
    if d.sysOn ∧ d.boot.due ≠ 0 ∧ (d.core' 0).released ∧ d.flt.endgame = false ∧ d.seq.coldDown = false then d.romBoot golden else d

end Sys2Proof.Machine
end

