-- ==== Sys2Proof/Machine/MbxUpdate.lean ====
section
/-! DEFINITION. Firmware update (spec/12 R416 to R422, spec/13 R460): mailbox group 0x07xx and the timed events of an update, a held
activation and a trial. -/

namespace Sys2Proof.Machine

/-- LAST_STATUS of a request SEC has taken up; the other fields follow. -/
def Dev.updLast (d : Dev) (st : Nat) : Dev := (d.updShow).wr F.UPD_STATUS_LAST_STATUS 0 st

/-- The answer of an update request. -/
def Dev.updRep (d : Dev) (r : Rep) : Rep × Dev := (r, d.updLast r.st)

/-- FLASH_WP# (R399). -/
def Dev.wpSet (d : Dev) (high : Bool) : Dev :=
  if d.boot.wpHigh = high then d else ({ d with boot.wpHigh := high }).pin "FLASH_WP#" 0 high

/-- The session ends. -/
def Dev.sessEnd (d : Dev) : Dev := ({ d with boot.sess := none }).wpSet false

/-- The target of an update that is not golden (R417); with neither slot a candidate after a boot from G, slot A. -/
def Dev.updTarget (d : Dev) : Nat :=
  let can := fun (s : Nat) => [jsValid, jsTrial, jsConfirmed].contains (d.jCur s).state
  if d.bootedSlot = slA then slB
  else if d.bootedSlot = slB then slA
  else if !can slA then slA
  else if !can slB then slB
  else if (d.jCur slA).inst ≤ (d.jCur slB).inst then slA else slB

/-- The record of a slot that is erased: nothing of the old bundle but its INSTALL_SEQ, which is not used again. -/
def JRec.erasing (r : JRec) : JRec := { inst := r.inst, state := jsErasing }

/-- UPDATE_BEGIN (R416 step 1, R418, R422). -/
def opUpdateBegin : MbxOp :=
  { op := 0x0700, lease := true, core := coreSec, len := fun n => n = 4
    check := fun _ p => firstBad [flag p 0, rsv p 1 3]
    body := fun d q =>
      let golden : Bool := pf q.pay 0 1 = 1
      if d.boot.sess.isSome || d.onTrial then d.updRep (.of msBusy)
      else if golden && !(d.is F.BOOT_STATUS_FORCED && [slA, slB].any fun s => (d.jCur s).state = jsConfirmed) then
        d.updRep (.of msLocked)
      else if !d.canAccept q then d.updRep (.of msBusy)
      else
        let a := d.accept q 0x0700
        let t := if golden then slG else d.updTarget
        let d := (a.2).jState t JRec.erasing
        let d : Dev := { d with boot.heldAct := none, boot.sess := some { target := t, id := some a.1, at' := d.gts } }
        (if golden then d.wpSet true else d).updRep (.of msAccepted) }

def execUpdateBegin (q : MbxReq) (s : State) : Res := opUpdateBegin.run q s

/-- The erase of the target ends. -/
def Dev.eraseEnd (d : Dev) (ok : Bool) : Dev :=
  match d.boot.sess with
  | none => d
  | some x =>
    match x.id with
    | none => d
    | some i =>
      let pay := le 1 x.target ++ zeros 3
      if ok then
        let d := (d.clearRange .flash (slotBase x.target) slotSize).jMark x.target jsWriting 0
        let d := ({ d with boot.sess := some { x with id := none, at' := d.gts } }).complete i msOk pay
        (if x.closing then d.sessEnd else d).updShow
      else ((d.sessEnd).complete i msIntegrity pay).updShow

def execUpdateEraseComplete (ok : Bool) (s : State) : Res :=
  s.run fun d => if d.sysOn ∧ d.coreUp 0 = true then d.eraseEnd ok else d

/-- UPDATE_DATA (R416 step 3): one chunk programmed and read back. -/
def Dev.updData (d : Dev) (x : Session) (off : Nat) (data : List Byte) : Rep × Dev :=
  let h := d.slotHead x.target
  let top := if pf h 0 4 = 0x42585250 then min bundleMax (headTotal h) else bundleMax
  let d : Dev := { d with boot.sess := some { x with at' := d.gts } }
  if top < off + data.length then d.updRep (.bad 0)
  else
    let d := if x.target = slG then d.wpSet true else d
    let a := slotBase x.target + off
    let d := d.flashProg a data
    if d.ldn .flash a data.length ≠ data then d.updRep (.of msIntegrity)
    else ({ d with boot.sess := some { x with at' := d.gts, wrote := x.wrote + data.length } }).updRep .ok

def opUpdateData : MbxOp :=
  { op := 0x0701, lease := true, core := coreSec, len := fun n => 9 ≤ n && n ≤ 4096
    check := fun _ p => firstBad [rsv p 4 4]
    body := fun d q =>
      match d.boot.sess with
      | none => d.updRep (.bad 0)
      | some x => if x.id.isSome then d.updRep (.of msBusy) else d.updData x (pf q.pay 0 4) (q.pay.drop 8) }

def execUpdateData (q : MbxReq) (s : State) : Res := opUpdateData.run q s

/-- Steps 4 to 7 of R416 for the session's slot: the completion's status. -/
def Dev.install (d : Dev) (t : Nat) : Nat × Dev :=
  let h := d.slotHead t
  let m := d.slotMan t
  let total := headTotal h
  let sig := d.slotLd t (min bundleMax total - 256) 256
  let k := pf sig 4 1
  let key := pb sig 8 97
  let keyOk : Bool := 256 ≤ total && pf sig 0 4 = 0x53585250 && k ≤ 3 && ownerHash d k = some (Config.sha384 key) && !bitOf d.boot.revoke k &&
    Config.ecdsaOk key (Config.sha384 (h ++ m)) (pb sig 0x70 96)
  if !keyOk then (msDenied, d)
  else if !d.compatible h m then (msBadParam, d)
  else if headSvn h < d.boot.svn then (msDenied, d)
  else if !((images m).all fun x => d.imageOk t x) then (msIntegrity, d)
  else
    let n := d.newInstall
    let head24 := [0x54, 0x41, 0x47, 0x31] ++ le 4 n ++ le 1 t ++ le 1 k ++ zeros 6 ++ le 8 total
    let tag := head24 ++ le 48 (Config.slotMac (head24 ++ h ++ m)).toNat
    let d := d.flashProg (slotBase t + 0xFFF000) tag
    if !tagOk t (d.slotTag t) h m then (msIntegrity, d)
    else if t = slG then (msOk, d.bootShow)
    else (msOk, d.jState t fun _ =>
      { state := jsStaged, inst := n, svn := headSvn h, tmax := headTrialMax h, key := k, ver := headVersion h, build := headBuild h })

/-- UPDATE_COMMIT: a golden install needs GOLDEN_OK; a commit that fails leaves the session open. -/
def opUpdateCommit : MbxOp :=
  { op := 0x0702, lease := true, core := coreSec, len := fun n => n = 0
    body := fun d q =>
      match d.boot.sess with
      | none => d.updRep (.bad 0)
      | some x =>
        if x.id.isSome then d.updRep (.of msBusy)
        else if x.target = slG && !headGolden (d.slotHead slG) then d.updRep (.of msLocked)
        else if !d.canAccept q then d.updRep (.of msBusy)
        else
          let a := d.accept q 0x0702
          let d := if x.target = slG then a.2.wpSet true else a.2
          let r := d.install x.target
          let d : Dev := { r.2 with boot.sess := if r.1 = msOk then none else some { x with at' := d.gts } }
          let d := (d.wpSet false).complete a.1 r.1
          (.of msAccepted, d.updLast r.1) }

def execUpdateCommit (q : MbxReq) (s : State) : Res := opUpdateCommit.run q s

/-- UPDATE_CANCEL: the session is abandoned, once its erase has ended; or a held activation is dropped. -/
def opUpdateCancel : MbxOp :=
  { op := 0x0703, lease := true, core := coreSec, len := fun n => n = 0
    body := fun d _ =>
      match d.boot.sess with
      | some x => (if x.id.isSome then ({ d with boot.sess := some { x with closing := true } } : Dev) else d.sessEnd).updRep .ok
      | none => if d.boot.heldAct.isSome then (.ok, d.actDrop.updShow) else d.updRep .ok }

def execUpdateCancel (q : MbxReq) (s : State) : Res := opUpdateCancel.run q s

/-! ### Activation (R419) -/

/-- No emergency state, for at least 1,000 ms. -/
def Dev.emergClear (d : Dev) : Bool := d.rd F.PWC_EMERG_STATE = 0 && 1000 ≤ d.clearMs

/-- VALID is appended and SEC requests the warm reset. -/
def Dev.activate (d : Dev) (t : Nat) : Dev :=
  let d := d.jState t fun (r : JRec) => { r with state := jsValid, reason := 0, tries := 0 }
  ({ d with boot.heldAct := none }).updShow.warmRequest rcSecWarm

def Dev.groupsBusy (d : Dev) : Bool := (List.range 256).any fun g => d.rd F.GRP_CTRL_STATE g ≠ 0

def opUpdateActivate : MbxOp :=
  { op := 0x0704, lease := true, core := coreSec, len := fun n => n = 4
    check := fun d p => firstBad [(1 < pf p 0 1 || (d.jCur (pf p 0 1)).state ≠ jsStaged, 0), flag p 1, rsv p 2 2]
    body := fun d q =>
      let t := pf q.pay 0 1
      if d.groupsBusy && pf q.pay 1 1 = 0 then d.updRep (.of msBusy)
      else if d.emergClear then (.of msAccepted, (d.activate t).wr F.UPD_STATUS_LAST_STATUS 0 msAccepted)
      else ({ d with boot.heldAct := some t }).updRep (.of msDeferred) }

def execUpdateActivate (q : MbxReq) (s : State) : Res := opUpdateActivate.run q s

/-- A held activation goes on. -/
def execActivationRelease (s : State) : Res :=
  s.run fun d =>
    match d.boot.heldAct with
    | some t => if d.sysOn ∧ d.coreUp 0 = true ∧ d.emergClear = true then d.activate t else d
    | none => d

/-! ### The trial (R420, R421) -/

/-- The trial is confirmed. -/
def Dev.confirm (d : Dev) : Dev :=
  let t := d.bootedSlot
  let d := (d.jMark t jsConfirmed 0).jMark (1 - t) jsInvalid rsSuperseded
  let d := (d.wr F.BOOT_STATUS_TRIAL 0 0).svnRaise (d.rd F.BOOT_SVN_BUNDLE_SVN)
  (d.event 8 0 0).updShow

def opUpdateConfirm : MbxOp :=
  { op := 0x0705, lease := true, core := coreSec, len := fun n => n = 0
    body := fun d _ => if d.onTrial then d.confirm.updRep .ok else d.updRep (.bad 0) }

def execUpdateConfirm (q : MbxReq) (s : State) : Res := opUpdateConfirm.run q s

def opUpdateReject : MbxOp :=
  { op := 0x0706, lease := true, core := coreSec, len := fun n => n = 0
    body := fun d _ => if d.onTrial then (d.fallback rsHostReject).updRep .ok else d.updRep (.bad 0) }

def execUpdateReject (q : MbxReq) (s : State) : Res := opUpdateReject.run q s

/-- 60 s of service without a watchdog expiry, with AUTO_CONFIRM. -/
def execAutoConfirm (s : State) : Res :=
  s.run fun d =>
    match d.boot.run, d.boot.served with
    | some r, some t =>
      if d.sysOn ∧ d.coreUp 0 = true ∧ d.onTrial = true ∧ headAuto r.head = true ∧ d.boot.wdogSeen = false ∧ t + 60000000000 ≤ d.aont then
        d.confirm
      else d
    | _, _ => d

/-- CONFIRM_S passes without confirmation; it counts from the beginning of service, or of the boot while service has not begun. -/
def execConfirmTimeout (s : State) : Res :=
  s.run fun d =>
    match d.boot.run with
    | some r =>
      if d.sysOn ∧ d.coreUp 0 = true ∧ d.onTrial = true ∧ d.boot.served.getD d.boot.dueAt + headConfirm r.head * 1000000000 ≤ d.aont then
        d.fallback rsConfirmTimeout
      else d
    | none => d

/-- 60 s without data or commit. -/
def execUpdateSessionTimeout (s : State) : Res :=
  s.run fun d =>
    match d.boot.sess with
    | some x => if d.sysOn ∧ d.coreUp 0 = true ∧ x.id.isNone ∧ x.at' + 60000000000 ≤ d.gts then d.sessEnd.updShow else d
    | none => d

def opUpdateStatus : MbxOp :=
  { op := 0x0707, lease := false, core := coreSch, len := fun n => n = 0
    body := fun d _ =>
      (.ok (d.viewBytes (F.UPD_STATUS_STATE.addr 0) 1 ++ d.viewBytes (F.BOOT_STATUS_PATH.addr 0) 1 ++
        d.viewBytes (F.BOOT_SLOT_STATE_STATE.addr 0) 6), d) }

def execUpdateStatus (q : MbxReq) (s : State) : Res := opUpdateStatus.run q s

end Sys2Proof.Machine
end

