-- ==== Sys2Proof/Machine/MbxTrust.lean ====
section
/-! DEFINITION. Keys (spec/12 R429, R430, R432): mailbox group 0x08xx (spec/13 R461). -/

namespace Sys2Proof.Machine

/-- 32 bytes nobody can foresee. -/
def Dev.fresh32 (d : Dev) : List Byte × Dev :=
  let a := d.free
  let b := a.2.free
  let c := b.2.free
  let e := c.2.free
  (le 8 a.1 ++ le 8 b.1 ++ le 8 c.1 ++ le 8 e.1, e.2)

def opGetNonce : MbxOp :=
  { op := 0x0800, lease := true, core := coreSec, len := fun n => n = 0
    body := fun d q =>
      let r := d.fresh32
      (.ok r.1, { r.2 with mbx.nonces := tset (fun _ => none) r.2.mbx.nonces (transport q.ch) (some (d.gts, r.1)) }) }

def execGetNonce (q : MbxReq) (s : State) : Res := opGetNonce.run q s

/-- Whether a nonce is the newest of its transport, at most 60 s old and not used; it is used now. -/
def Dev.nonceUse (d : Dev) (q : MbxReq) (n : List Byte) : Bool × Dev :=
  match tget (fun _ => none) d.mbx.nonces (transport q.ch) with
  | some x =>
    if x.2 = n then
      (decide (d.gts ≤ x.1 + 60000000000), { d with mbx.nonces := tset (fun _ => none) d.mbx.nonces (transport q.ch) none })
    else (false, d)
  | none => (false, d)

/-- An owner key that may sign: programmed and not revoked. -/
def Dev.ownerKey (d : Dev) (k : Nat) : Option (BitVec 384) := if bitOf d.boot.revoke k then none else ownerHash d k

/-- An owner key's signature over a message. -/
def Dev.ownerSigned (d : Dev) (k : Nat) (m sig : List Byte) : Bool :=
  match d.ownerKey k with
  | some h => Config.ecdsaOkH h (Config.sha384 m) sig
  | none => false

def trayIdBytes : List Byte := le 48 Config.trayId.toNat

/-- TRUST_STATUS as the reply of the key opcodes. -/
def Dev.trustRep (d : Dev) : Rep × Dev := let d := d.trustShow; (.ok (d.viewBytes (F.TRUST_STATUS_MODEL_KEYS.addr 0) 1), d)

def opOwnerKeyAdd : MbxOp :=
  { op := 0x0801, lease := true, core := coreSec, len := fun n => n = 232
    check := fun d p => firstBad [(3 < pf p 0 1 || (ownerHash d (pf p 0 1)).isSome, 0), (3 < pf p 1 1, 1), rsv p 2 2, rsv p 133 3]
    body := fun d q =>
      let k := pf q.pay 0 1
      let nonce := pb q.pay 4 32
      let key := pb q.pay 36 97
      let r := d.nonceUse q nonce
      if r.1 && r.2.ownerSigned (pf q.pay 1 1) (trayIdBytes ++ [0x41, 0x44, 0x44] ++ le 1 k ++ key ++ nonce) (pb q.pay 136 96) then
        ({ r.2 with boot.ownerHash := tset (fun _ => none) r.2.boot.ownerHash k (some (Config.sha384 key)) }).trustRep
      else (.of msDenied, r.2) }

def execOwnerKeyAdd (q : MbxReq) (s : State) : Res := opOwnerKeyAdd.run q s

/-- The key may not be revoked: it would leave none, or it signed slot G, the CONFIRMED slot or the running bundle. -/
def Dev.keyPinned (d : Dev) (k : Nat) : Bool :=
  !((List.range 4).any fun j => j ≠ k && (d.ownerKey j).isSome) ||
    (pf (d.slotTag slG) 0 4 = 0x31474154 && pf (d.slotTag slG) 9 1 = k) ||
    ([slA, slB].any fun s => (d.jCur s).state = jsConfirmed && (d.jCur s).key = k) ||
    (match d.boot.run with | some r => pf r.tag 9 1 = k | none => false)

def opOwnerKeyRevoke : MbxOp :=
  { op := 0x0802, lease := true, core := coreSec, len := fun n => n = 132
    check := fun d p => firstBad [(3 < pf p 0 1 || (ownerHash d (pf p 0 1)).isNone, 0), (3 < pf p 1 1, 1), rsv p 2 2]
    body := fun d q =>
      let k := pf q.pay 0 1
      let j := pf q.pay 1 1
      let nonce := pb q.pay 4 32
      let r := d.nonceUse q nonce
      let m := trayIdBytes ++ [0x52, 0x45, 0x56, 0x4F, 0x4B, 0x45] ++ le 1 k ++ nonce
      if !(r.1 && j ≠ k && r.2.ownerSigned j m (pb q.pay 36 96)) then (.of msDenied, r.2)
      else if r.2.keyPinned k then (.of msLocked, r.2)
      else ({ r.2 with boot.revoke := putBit r.2.boot.revoke k true }).trustRep }

def execOwnerKeyRevoke (q : MbxReq) (s : State) : Res := opOwnerKeyRevoke.run q s

/-- MODEL_KEY_ENROL: a record that is not newer than the one it would replace is BAD_PARAM. -/
def opModelKeyEnrol : MbxOp :=
  { op := 0x0803, lease := true, core := coreSec, len := fun n => n = 252
    check := fun d p =>
      let old := tget (fun _ => none) d.boot.modelKeys (pf p 0 1)
      firstBad [(3 < pf p 0 1, 0), flag p 1, (3 < pf p 2 1, 2), rsv p 3 1,
        (match old with | some x => pf p 4 4 ≤ x.seq | none => false, 4),
        (pf p 8 48 ≠ 0 && pb p 8 48 ≠ trayIdBytes, 8), rsv p 153 3]
    body := fun d q =>
      let k := pf q.pay 0 1
      let gone : Bool := pf q.pay 1 1 = 1
      if !d.ownerSigned (pf q.pay 2 1) (q.pay.take 156) (pb q.pay 156 96) then (.of msDenied, d)
      else
        let x : ModelKey :=
          { seq := pf q.pay 4 4, signer := pf q.pay 2 1, anyDevice := pf q.pay 8 48 = 0, key := pb q.pay 56 97, revoked := gone }
        ({ d with boot.modelKeys := tset (fun _ => none) d.boot.modelKeys k (some x), boot.modelOk := putBit d.boot.modelOk k (!gone) }).trustRep }

def execModelKeyEnrol (q : MbxReq) (s : State) : Res := opModelKeyEnrol.run q s

/-- DEBUG_TOKEN: recorded for the next cold boot. -/
def opDebugToken : MbxOp :=
  { op := 0x0804, lease := true, core := coreSec, len := fun n => n = 156
    check := fun _ p => firstBad [(3 < pf p 0 1, 0), rsv p 1 3]
    body := fun d q =>
      if pb q.pay 4 48 = trayIdBytes && d.bootCount ≤ pf q.pay 52 8 && d.ownerSigned (pf q.pay 0 1) (q.pay.take 60) (pb q.pay 60 96) then
        (.ok, { d with boot.dbgTok := true })
      else (.of msDenied, d) }

def execDebugToken (q : MbxReq) (s : State) : Res := opDebugToken.run q s

/-! ### Model signatures (R314) -/

/-- The operator's signature of a package, checked by SEC before a load in an Orotha role. -/
def Dev.modelSigned (d : Dev) (k digest : Nat) (sig : List Byte) : Bool :=
  bitOf d.boot.modelOk k &&
    (match tget (fun _ => none) d.boot.modelKeys k with
     | some x => !x.revoked && Config.ecdsaOk x.key (BitVec.ofNat 384 digest) sig
     | none => false)

end Sys2Proof.Machine
end

