-- ==== Sys2Proof/Machine/Sleep.lean ====
section
/-! DEFINITION. Deep sleep and fast wake (spec/12 R424, R425, spec/01 R32, R33). -/

namespace Sys2Proof.Machine

/-- Deep sleep is entered: the retention record is written; the core logic stops and keeps the cores' SRAM; the blocks it takes
with it are as after a warm reset; PCIe and the links are off. -/
def Dev.sleepEnter (d : Dev) : Dev :=
  let retain : Retain := match d.boot.run with
    | some r => { valid := true, tag := r.tag, slot := r.slot }
    | none => {}
  let d := if d.is F.MBX_STATUS_READY then (d.wr F.MBX_STATUS_READY 0 0).vector 3 else d
  let d := (d.hubReset).vlReset.tilesReset.queuesReset.twReset.oroReset
  let d := ({ d with pwr.clkOps := [] }).mbxReset
  { d with
    boot.retain := retain
    boot.asleep := true
    sysOn := false
    obs.msix := []
    obs.pba := 0
    flt.cores := d.flt.cores.map fun (p : Nat × Core) =>
      (p.1, { ({} : Core) with expiries := p.2.expiries, failed := p.2.failed }) }

/-- DEEP_SLEEP: domains 2 to 15 OFF, no update, activation or trial, no emergency state. The reply leaves, then deep sleep is
entered. -/
def opDeepSleep : MbxOp :=
  { op := 0x0204, lease := true, core := coreSec, len := fun n => n = 4
    check := fun _ p => firstBad [rsv p 0 4]
    body := fun d q =>
      if !(domains16.all fun k => k < 2 || d.dom k = dmOff) || d.boot.sess.isSome || d.boot.heldAct.isSome || d.onTrial then (.of msBusy, d)
      else if d.rd F.PWC_EMERG_STATE ≠ 0 then (.of msDeferred, d)
      else ({ st := msOk, held := true }, (d.reply q.ch 0x0204 q.tag.toNat q.minorOut q.hasCrc .ok).sleepEnter) }

def execDeepSleep (q : MbxReq) (s : State) : Res := opDeepSleep.run q s

/-- The retention record and what SEC's SRAM retains agree (R425). -/
def Dev.retained (d : Dev) : Bool :=
  match d.boot.run with
  | some r => d.boot.retain.valid && tagOk r.slot d.boot.retain.tag r.head r.man
  | none => false

/-- The fast path: SEC runs from its retained SRAM, applies CONFIG again and releases the other cores. -/
def Dev.fastWake (d : Dev) : Dev :=
  match d.boot.run with
  | none => d
  | some r =>
    let d := ((d.wr F.BOOT_STATUS_PATH 0 3).wr F.BOOT_STATUS_FALLBACK 0 0).coreMod 0 fun x =>
      { x with up := true, released := true, relAt := d.aont, kickAt := some d.aont, period := 100000000 }
    let d := match manImage r.man 8 with | some x => d.configApply (d.imageLd r.slot x) | none => d
    ((List.range 10).foldl (fun (d : Dev) (j : Nat) => d.coreRelease (j + 1)) d).updShow.secRuns

/-- A wake event (`golden`: GOLDEN# is low; `scrubOk`: the retention scrub found no uncorrectable word): GTS is loaded from AONT,
then the fast path, or ROM's warm-boot path. -/
def execWake (golden scrubOk : Bool) (s : State) : Res :=
  s.run fun d =>
    if ¬ (d.boot.asleep ∧ d.corePower = true) then d
    else
      let fast : Bool := d.retained && !golden && scrubOk
      let d : Dev := { d with
        sysOn := true, gts := d.aont, boot.asleep := false, boot.retain := {}, boot.dueAt := d.aont, pwr.frameNow := frameOf d.aont }
      if fast then d.fastWake
      else ({ d with boot.due := 2 }).coreRelease 0 |>.secCheck

end Sys2Proof.Machine
end

