-- ==== Sys2Proof/Machine/Spdm.lean ====
section
/-! DEFINITION. MCTP endpoint control (spec/13 R438) and SPDM attestation (spec/12 R426, R427). Messages are recorded by their
content; the byte encodings are those of the DMTF standards, which the spec does not repeat. -/

namespace Sys2Proof.Machine

/-! ### MCTP control messages -/

/-- The endpoint answers on a transport: 0 PCIe VDM, 1 SMBus. -/
def Dev.mctpUp (d : Dev) (ch : Nat) : Bool := d.linkUp && ch < 2

/-- Set Endpoint ID: the null and broadcast identifiers are refused (PRESUMED: DSP0236). -/
def execSetEndpointId (ch : Fin 2) (eid : Byte) (s : State) : Res :=
  s.run fun d =>
    if ¬ d.mctpUp ch.val then d
    else if eid = 0 ∨ eid = 0xFF then d.emit (.msg "MCTP Set Endpoint ID refused" ch.val [])
    else { d with mbx.eid := tset (fun _ => 0) d.mbx.eid ch.val eid.toNat }.emit (.msg "MCTP Set Endpoint ID" ch.val [eid])

def execGetEndpointId (ch : Fin 2) (s : State) : Res :=
  s.run fun d =>
    if d.mctpUp ch.val then d.emit (.msg "MCTP Get Endpoint ID" ch.val (le 1 (tget (fun _ => 0) d.mbx.eid ch.val))) else d

def execGetEndpointUuid (ch : Fin 2) (s : State) : Res :=
  s.run fun d => if d.mctpUp ch.val then d.emit (.msg "MCTP Get Endpoint UUID" ch.val (le 16 Config.uuid.toNat)) else d

/-- The version served for a message type is a free value. -/
def execGetMctpVersionSupport (ch : Fin 2) (ty : Byte) (s : State) : Res :=
  s.run fun d =>
    if d.mctpUp ch.val then
      let f := d.free
      f.2.emit (.msg "MCTP Get MCTP Version Support" ch.val (ty :: le 4 f.1))
    else d

def execGetMessageTypeSupport (ch : Fin 2) (s : State) : Res :=
  s.run fun d => if d.mctpUp ch.val then d.emit (.msg "MCTP Get Message Type Support" ch.val [0x05, 0x7E]) else d

/-- A message is discarded: its type is not supported (`false`), or it fails reassembly or is too long (`true`). -/
def execMctpMessageDiscard (ch : Fin 2) (failed : Bool) (s : State) : Res :=
  s.run fun d => if d.mctpUp ch.val && failed then d.wr F.MBX_ERR_MCTP_DROP 0 1 else d

/-! ### Measurements (R427) -/

/-- The trailer digest of the package in a role, or zeros. -/
def Dev.roleDigest (d : Dev) (r : Nat) : List Byte :=
  match d.roleSlot r with
  | some n => let b := (d.sl n).pkg; pb b (b.length - 48) 48
  | none => zeros 48

/-- Measurement block `i`. -/
def Dev.measurement (d : Dev) (i : Nat) : Option (List Byte) :=
  match d.boot.run with
  | none => none
  | some r =>
    let sha := fun (b : List Byte) => le 48 (Config.sha384 b).toNat
    if i = 1 then some (le 48 Config.romHash.toNat)
    else if i = 2 then some (sha (r.head ++ r.man))
    else if 3 ≤ i ∧ i ≤ 6 then some (digestBytes r.man (i - 2))
    else if i = 7 then some d.boot.railDig
    else if i = 8 then some d.boot.coolDig
    else if i = 9 then some (digestBytes r.man 8)
    else if i = 10 then some (r.cdi.drop (r.cdi.length - 16))
    else if i = 11 then
      some (sha ((List.range 4).flatMap (fun k => match ownerHash d k with | some h => le 48 h.toNat | none => zeros 48) ++ le 1 d.boot.revoke))
    else if i = 12 then
      some (sha ((List.range 4).flatMap fun k =>
        match tget (fun _ => none) d.boot.modelKeys k with
        | some x => if bitOf d.boot.modelOk k then x.key else []
        | none => []))
    else if i = 16 then some (d.roleDigest rlActive)
    else if i = 17 then some (d.roleDigest rlShadow)
    else if i = 18 then some (d.roleDigest rlRetained)
    else if i = 19 then some (d.roleDigest rlTrain)
    else none

/-- A measurement block: its index and value. -/
def Dev.measureBlock (d : Dev) (i : Nat) : List Byte := match d.measurement i with | some v => le 1 i ++ v | none => []

/-! ### SPDM (R426) -/

/-- SEC answers while it runs. -/
def Dev.spdm (d : Dev) (ch : Nat) (kind : String) (f : Dev → List Byte × Dev) : Dev :=
  if d.mctpUp ch && d.coreUp coreSec then let r := f d; r.2.emit (.msg kind ch r.1) else d

def execSpdmGetVersion (ch : Fin 2) (s : State) : Res := s.run fun d => d.spdm ch "SPDM VERSION 1.3" fun d => ([], d)

def execSpdmGetCapabilities (ch : Fin 2) (s : State) : Res :=
  s.run fun d => d.spdm ch "SPDM CAPABILITIES: certificates, challenge, signed measurements" fun d => ([], d)

/-- The selection from what the requester offers: ECDSA P-384, SHA-384, or nothing. -/
def execSpdmNegotiateAlgorithms (ch : Fin 2) (p384 sha384 : Bool) (s : State) : Res :=
  s.run fun d => d.spdm ch "SPDM ALGORITHMS" fun d => (le 1 p384.toNat ++ le 1 sha384.toNat, d)

def chainDigest : List Byte := le 48 (Config.sha384 Config.certChain).toNat

def execSpdmGetDigests (ch : Fin 2) (s : State) : Res := s.run fun d => d.spdm ch "SPDM DIGESTS slot 0" fun d => (chainDigest, d)

/-- A part of the slot-0 chain; the other slots hold none. -/
def execSpdmGetCertificate (ch : Fin 2) (slot : Byte) (off len : BitVec 16) (s : State) : Res :=
  s.run fun d =>
    if slot = 0 then d.spdm ch "SPDM CERTIFICATE" fun d => (pb Config.certChain off.toNat len.toNat, d)
    else d.spdm ch "SPDM ERROR" fun d => ([], d)

/-- CHALLENGE: the chain's digest, a fresh nonce, and the alias key's signature. -/
def execSpdmChallenge (ch : Fin 2) (nonce : List Byte) (s : State) : Res :=
  s.run fun d => d.spdm ch "SPDM CHALLENGE_AUTH" fun d =>
    let r := d.fresh32
    (signed384 (r.2.derivedKey keyAlias) (fitBytes 32 nonce ++ chainDigest ++ r.1), r.2)

/-- GET_MEASUREMENTS: one block, or all of them (index 0xFF), signed with the alias key. -/
def execSpdmGetMeasurements (ch : Fin 2) (index : Byte) (nonce : List Byte) (s : State) : Res :=
  s.run fun d => d.spdm ch "SPDM MEASUREMENTS" fun d =>
    let blocks := if index = 0xFF then (List.range 20).flatMap d.measureBlock else d.measureBlock index.toNat
    let r := d.fresh32
    (signed384 (r.2.derivedKey keyAlias) (fitBytes 32 nonce ++ blocks ++ r.1), r.2)

def execSpdmUnsupportedRequest (ch : Fin 2) (s : State) : Res :=
  s.run fun d => d.spdm ch "SPDM ERROR UnsupportedRequest" fun d => ([], d)

end Sys2Proof.Machine
end

