-- ==== Sys2Proof/Machine/MbxModel.lean ====
section
/-! DEFINITION. Mailbox group 0x04xx (spec/13 R457): package staging, loads, slots, Orotha's settings. -/

namespace Sys2Proof.Machine

/-! ### Package staging -/

/-- What a staging entry is reserved for, if it is. -/
def Dev.staged (d : Dev) (e : Nat) : Option Staging := tget (fun _ => none) d.arr.staging e

def Dev.stagedPut (d : Dev) (e : Nat) (x : Option Staging) : Dev := { d with arr.staging := tset (fun _ => none) d.arr.staging e x }

/-- The entry's place in HBM (R100). -/
def stageBase (e : Nat) : Nat := e * 0x10000000

/-- PKG_BEGIN: the lowest free entry. -/
def opPkgBegin : MbxOp :=
  { op := 0x0400, lease := true, core := coreSch, len := fun n => n = 8
    check := fun _ p => firstBad [(0x10000000 < pf p 0 8, 0)]
    body := fun d q =>
      match (List.range 4).find? fun e => (d.staged e).isNone with
      | some e => (.ok (le 1 e ++ zeros 3), d.stagedPut e (some { total := pf q.pay 0 8, loading := false }))
      | none => (.of msBusy, d) }

def execPkgBegin (q : MbxReq) (s : State) : Res := opPkgBegin.run q s

/-- The entry a payload names is reserved. -/
def Dev.entryBad (d : Dev) (p : List Byte) : Bool × Nat := (3 < pf p 0 1 || (d.staged (pf p 0 1)).isNone, 0)

def opPkgData : MbxOp :=
  { op := 0x0401, lease := true, core := coreSch, len := fun n => 9 ≤ n && n ≤ 4096
    check := fun d p => firstBad [d.entryBad p, rsv p 1 3]
    body := fun d q =>
      let e := pf q.pay 0 1
      let off := pf q.pay 4 4
      let data := q.pay.drop 8
      match d.staged e with
      | none => (.bad 0, d)
      | some x =>
        if x.loading then (.of msBusy, d)
        else if x.total < off + data.length then (.bad 4, d)
        else (.ok, d.stn .hbm (stageBase e + off) data) }

def execPkgData (q : MbxReq) (s : State) : Res := opPkgData.run q s

/-- The load request of a PKG_LOAD payload: the host owns a GENERAL slot, Orotha the others; a load in an Orotha role must
carry the operator's signature over the trailer digest (R314). -/
def Dev.pkgLoadReq (d : Dev) (p : List Byte) (total id : Nat) : LoadReq :=
  let e := pf p 0 1
  let role := pf p 1 1
  let pkg := d.ldn .hbm (stageBase e) total
  { entry := some e, pkg := pkg, role := role, maxLc := pf p 2 1, baseId := pb p 4 16
    denied := role ≠ 0 && !d.modelSigned (pf p 3 1) (pf pkg (total - 48) 48) (pb p 20 96)
    owner := if role = 0 then 1 else 3, id := some id, replaces := none, derived := false }

/-- PKG_LOAD. SEC verifies a signature, so a load in an Orotha role needs it. -/
def opPkgLoad : MbxOp :=
  { op := 0x0402, lease := true, core := corePmc, len := fun n => n = 116
    check := fun d p => firstBad [d.entryBad p, (3 < pf p 1 1, 1), (4 < pf p 2 1, 2),
      (pf p 1 1 ≠ 0 && 3 < pf p 3 1 && pf p 3 1 ≠ 0xFF, 3), (pf p 1 1 ≠ 3 && pf p 4 16 ≠ 0, 4)]
    body := fun d q =>
      match d.staged (pf q.pay 0 1) with
      | none => (.bad 0, d)
      | some x =>
        if x.loading then (.of msBusy, d)
        else if pf q.pay 1 1 ≠ 0 ∧ ¬ d.coreUp coreSec = true then (.of msNotReady, d)
        else d.accepting q 0x0402 fun d id =>
          let d' : Dev := { d with arr.loads := d.arr.loads ++ [d.pkgLoadReq q.pay x.total id] }
          (d'.stagedPut (pf q.pay 0 1) (some { x with loading := true })).loadsShow }

def execPkgLoad (q : MbxReq) (s : State) : Res := opPkgLoad.run q s

/-! ### Slots -/

def opSlotRetire : MbxOp :=
  { op := 0x0403, lease := false, core := corePmc, len := fun n => n = 4
    check := fun _ p => firstBad [(31 < pf p 0 1, 0), rsv p 1 3]
    body := fun d q =>
      let n := pf q.pay 0 1
      if (d.sl n).owner ≠ 1 then (.of msDenied, d) else (.ok, d.slotRetire n) }

def execSlotRetire (q : MbxReq) (s : State) : Res := opSlotRetire.run q s

/-- SLOT_QUERY: a free slot's MODEL_ID is zeros. -/
def opSlotQuery : MbxOp :=
  { op := 0x0404, lease := false, core := corePmc, len := fun n => n = 4
    check := fun _ p => firstBad [(31 < pf p 0 1, 0), rsv p 1 3]
    body := fun d q =>
      let n := pf q.pay 0 1
      let x := d.sl n
      let reg := fun (f : Fld) => d.viewBytes (f.addr n) 1
      (.ok (reg F.SLOT_STATE_STATE ++ reg F.SLOT_TAG_TAG ++ reg F.SLOT_SEQ_SEQ ++ reg F.SLOT_COUNTS_LATE ++
        (if x.owner = 0 then zeros 16 else fitBytes 16 (pkgRead x.pkg).modelId) ++ le 1 x.owner ++ zeros 3), d) }

def execSlotQuery (q : MbxReq) (s : State) : Res := opSlotQuery.run q s

/-! ### Orotha -/

/-- A new size of the replay buffer clears it (R300, R457): no block is kept, and the TRAIN slot's window moves with it. -/
def Dev.replaySize (d : Dev) (mib : Nat) : Dev :=
  let old := (d.replayBase, d.oro.replayMib * 0x100000)
  let d : Dev := { d.clearRange .hbm old.1 old.2 with oro.replayMib := mib, oro.blk := none, oro.blkNext := 0 }
  let new := (d.replayBase, mib * 0x100000)
  let d := d.clearRange .hbm new.1 new.2
  (List.range 32).foldl (fun d n =>
    if (d.sl n).hwin.contains old then
      d.slPut n { d.sl n with hwin := (d.sl n).hwin.map fun (w : Nat × Nat) => if w = old then new else w }
    else d) d

/-- ORO_SET: a buffer that would reach regions in use is refused with RESOURCE. -/
def opOroSet : MbxOp :=
  { op := 0x0405, lease := true, core := corePmc, len := fun n => n = 8
    check := fun _ p => firstBad [flag p 0, flag p 1, flag p 2, rsv p 3 1, (pf p 4 2 < 256 || 4096 < pf p 4 2, 4), rsv p 6 2]
    body := fun d q =>
      let mib := pf q.pay 4 2
      if mib ≠ d.oro.replayMib ∧ (d.hbmUsed.any fun (r : Nat × Nat) => 0x400000000 - mib * 0x100000 < r.1 + r.2) = true then
        (.of msResource, d)
      else
        let d := if mib = d.oro.replayMib then d else d.replaySize mib
        let d := (d.oroEn (pf q.pay 0 1 = 1)).tlmEn (pf q.pay 1 1 = 1)
        (.ok, d.wr F.ORO_CTRL_PROMOTE_HOLD 0 (pf q.pay 2 1)) }

def execOroSet (q : MbxReq) (s : State) : Res := opOroSet.run q s

def opOroRollback : MbxOp :=
  { op := 0x0406, lease := true, core := corePmc, len := fun n => n = 0
    body := fun d _ => (.ok, d.rollback) }

def execOroRollback (q : MbxReq) (s : State) : Res := opOroRollback.run q s

def opOroQuery : MbxOp :=
  { op := 0x0407, lease := false, core := corePmc, len := fun n => n = 0
    body := fun d _ =>
      (.ok (d.viewBytes (F.ORO_STATUS_STATE.addr 0) 1 ++ d.viewBytes (F.ORO_CLEAN_HELDOUT_SEG.addr 0) 5), d) }

def execOroQuery (q : MbxReq) (s : State) : Res := opOroQuery.run q s

end Sys2Proof.Machine
end

