-- ==== Sys2Proof/Machine/MbxSync.lean ====
section
/-! DEFINITION. Mailbox group 0x05xx (spec/13 R458): sync groups, objects, Board contexts, castling (spec/05 R195 to R198, spec/06
R236), accelerators. -/

namespace Sys2Proof.Machine

/-! ### Groups (R171, R270) -/

/-- The member nibbles of a GRP_MAP value. -/
def mapNib (m k : Nat) : Nat := bitsOf m (4 * k) 4

/-- A map is allowed: each member empty or an accelerator that is MATCH, none twice (R171). -/
def Dev.mapOk (d : Dev) (m : Nat) : Bool :=
  (List.range 8).all fun k =>
    let a := mapNib m k
    a = 15 || a < 8 && d.paired a && (List.range k).all fun j => mapNib m j ≠ a

/-- No accelerator of a list is a member of a pacing group other than `g` (R270). -/
def Dev.paceFree (d : Dev) (g : Nat) (as : List Nat) : Bool :=
  (List.range 256).all fun k => k = g || !d.paces k || (d.members k).all fun p => !as.contains p.2

/-- The accelerators of a map. -/
def mapAccs (m : Nat) : List Nat := ((List.range 8).map (mapNib m)).filter (· < 8)

/-- Sum of the quotas of the groups that exist. -/
def Dev.quotas (d : Dev) : Nat :=
  ((List.range 256).map fun g => if d.rd F.GRP_CTRL_STATE g = 0 then 0 else d.rd F.GRP_CTRL_QUOTA g).foldl (· + ·) 0

/-- A group stops pacing: what is staged for its members is applied (R273), a raised guardband falls back (R257), the interval
in progress ends. -/
def Dev.paceEnd (d : Dev) (g : Nat) : Dev :=
  let ms := d.members g
  let d := d.unpace g
  let x := d.gr g
  let d := d.grPut g { x with opened := none, arrive := [], down := [], rampEnd := none, gbAt := none }
  if x.gbAt.isSome then ms.foldl (fun d p => if d.rd F.PWC_ACC_PSTATE_GB_LEVEL p.2 = 1 then d.setGb p.2 0 else d) d else d

/-- PACE and POLICY of group `g`. -/
def Dev.groupPolicy (d : Dev) (g pace settle : Nat) : Dev :=
  let had := d.paces g
  let d := (d.wr F.ARB_GRP_CFG_POLICY g settle).wr F.ARB_GRP_CFG_PACE g pace
  if had && pace = 0 then d.paceEnd g else d

def opGroupCreate : MbxOp :=
  { op := 0x0500, lease := true, core := coreSch, len := fun n => n = 12
    check := fun d p =>
      let m := pf p 0 4
      firstBad [(!d.mapOk m, 0), (65536 < pf p 4 4 + d.quotas, 4),
        (7 < pf p 8 1 || (bitOf (pf p 8 1) 1 && !d.paceFree 256 (mapAccs m)), 8), rsv p 9 3]
    body := fun d q =>
      match (List.range 256).find? fun g => d.rd F.GRP_CTRL_STATE g = 0 with
      | none => (.of msResource, d)
      | some g =>
        let f := pf q.pay 8 1
        let d := d.grPut g {}
        let d := ((d.wrw (F.GRP_MAP_MEMBER.addr g) (pf q.pay 0 4)).wr F.GRP_CTRL_QUOTA g (pf q.pay 4 4)).wr F.GRP_CTRL_HOST_OK g (f % 2)
        let d := (d.wr F.GRP_CTRL_STATE g 1).groupPolicy g (f / 2 % 2) (f / 4 % 2)
        (.ok (le 1 g ++ zeros 3), d) }

def execGroupCreate (q : MbxReq) (s : State) : Res := opGroupCreate.run q s

/-- The group a payload names exists. -/
def Dev.groupBad (d : Dev) (p : List Byte) : Bool × Nat := (d.rd F.GRP_CTRL_STATE (pf p 0 1) = 0, 0)

/-- Delete a group (R171, R183, R202): its contexts, its objects, its pacing. -/
def Dev.groupDelete (d : Dev) (g : Nat) : Dev :=
  let d := (d.ctxsOf g).foldl Dev.ctxDelete d
  let d := (d.objsOf g).foldl Dev.objFree d
  let d := if d.paces g then d.paceEnd g else d
  let d := (d.grPut g {}).grShow g
  (d.resetRegs (F.GRP_CTRL_STATE.addr g) (F.GRP_CTRL_STATE.addr g + 16)).resetRegs (F.ARB_GRP_CFG_PACE.addr g) (F.ARB_GRP_CFG_PACE.addr g + 4)

def opGroupDelete : MbxOp :=
  { op := 0x0501, lease := false, core := coreSch, len := fun n => n = 4
    check := fun d p => firstBad [d.groupBad p, rsv p 1 3]
    body := fun d q => (.ok, d.groupDelete (pf q.pay 0 1)) }

def execGroupDelete (q : MbxReq) (s : State) : Res := opGroupDelete.run q s

def opGroupPolicy : MbxOp :=
  { op := 0x0502, lease := true, core := coreSch, len := fun n => n = 4
    check := fun d p =>
      let g := pf p 0 1
      firstBad [d.groupBad p, (1 < pf p 1 1 || (pf p 1 1 = 1 && !d.paceFree g ((d.members g).map (·.2))), 1), flag p 2, rsv p 3 1]
    body := fun d q => (.ok, d.groupPolicy (pf q.pay 0 1) (pf q.pay 1 1) (pf q.pay 2 1)) }

def execGroupPolicy (q : MbxReq) (s : State) : Res := opGroupPolicy.run q s

/-! ### Objects (R169) -/

def opObjAlloc : MbxOp :=
  { op := 0x0503, lease := true, core := coreSch, len := fun n => n = 16
    check := fun d p =>
      let b := pf p 1 1
      let ty := b % 16
      let trk := bitOf b 7
      let n := pf p 2 2
      let word1Bad := !objSuits ty trk (pf p 4 4) 0
      firstBad [d.groupBad p, (ty = 0 || 5 < ty || b / 16 % 8 ≠ 0 || (trk && ty ≠ tyBarrier), 1), (n = 0 || 256 < n, 2), (word1Bad, 4),
        (!objSuits ty trk (pf p 4 4) (pf p 8 8), 8)]
    body := fun d q =>
      let p := q.pay
      let g := pf p 0 1
      let n := pf p 2 2
      if d.rd F.GRP_CTRL_QUOTA g < (d.objsOf g).length + n then (.of msResource, d)
      else match Dev.objAllocs g (pf p 1 1 % 16) (bitOf (pf p 1 1) 7) (pf p 4 4) (pf p 8 8) n d with
        | some r => (.ok (r.1.flatMap fun h => le 4 h), r.2)
        | none => (.of msResource, d) }

def execObjAlloc (q : MbxReq) (s : State) : Res := opObjAlloc.run q s

/-- Free the valid handles of a list in turn: how many, and the state after. -/
def Dev.freeAll (d : Dev) (hs : List Nat) : Nat × Dev :=
  hs.foldl (fun (r : Nat × Dev) h => if r.2.validH h then (r.1 + 1, r.2.objFree (hIndex h)) else r) (0, d)

def opObjFree : MbxOp :=
  { op := 0x0504, lease := false, core := coreSch, len := fun n => 8 ≤ n && n ≤ 4004 && n % 4 = 0
    check := fun _ p => firstBad [(pf p 0 2 = 0 || 1000 < pf p 0 2, 0), rsv p 2 2]
    body := fun d q =>
      let n := pf q.pay 0 2
      if q.pay.length ≠ 4 + 4 * n then ({ st := msBadParam, detail := 0x08 }, d)
      else
        let r := d.freeAll ((List.range n).map fun k => pf q.pay (4 + 4 * k) 4)
        (.ok (le 2 r.1 ++ zeros 2), r.2) }

def execObjFree (q : MbxReq) (s : State) : Res := opObjFree.run q s

/-! ### Contexts (R202, R206) -/

/-- The definition a CTX_CREATE payload asks for. -/
def ctxAsked (p : List Byte) : CtxDef :=
  { group := pf p 0 1, ty := pf p 1 1, op := pf p 2 1, fmtIn := pf p 3 1 % 16, mxvIn := bitOf (pf p 3 1) 4, fmtOut := pf p 4 1
    nctl := pf p 5 1, root := pf p 6 1, trk := pf p 7 1 = 1, n := pf p 8 4, contrib := pf p 12 2, recv := pf p 14 2, timeout := pf p 16 2 }

def opCtxCreate : MbxOp :=
  { op := 0x0505, lease := true, core := coreSch, len := fun n => n = 20
    check := fun _ p => firstBad [(31 < pf p 3 1, 3), flag p 7, rsv p 18 2]
    body := fun d q =>
      let r := d.ctxCreate (ctxAsked q.pay)
      match r.1 with
      | (some c, _) => (.ok (le 1 c ++ zeros 3), r.2)
      | (none, true) => (.bad 0, d)
      | (none, false) => (.of msResource, d) }

def execCtxCreate (q : MbxReq) (s : State) : Res := opCtxCreate.run q s

def opCtxDelete : MbxOp :=
  { op := 0x0506, lease := false, core := coreSch, len := fun n => n = 4
    check := fun d p => firstBad [(!d.ctxValid (pf p 0 1), 0), rsv p 1 3]
    body := fun d q => (.ok, d.ctxDelete (pf q.pay 0 1)) }

def execCtxDelete (q : MbxReq) (s : State) : Res := opCtxDelete.run q s

/-! ### Castling (R195 to R198, R236) -/

/-- The groups that contain accelerator `a`. -/
def Dev.groupsOf (d : Dev) (a : Nat) : List Nat :=
  (List.range 256).filter fun g => d.rd F.GRP_CTRL_STATE g ≠ 0 && (d.members g).any fun p => p.2 = a

/-- The member index of accelerator `a` in group `g`, as a list. -/
def Dev.indexIn (d : Dev) (g a : Nat) : List Nat := ((d.members g).filter fun p => p.2 = a).map (·.1)

/-- Step 3 for the Board (R236): open instances that still need the lost member's image end; what waits to be sent to it is
dropped. -/
def Dev.castleBoard (d : Dev) (lost : Nat) (gs : List Nat) : Dev :=
  let d := gs.foldl (fun d g => (d.indexIn g lost).foldl (fun d m =>
    (d.ctxsOf g).foldl (fun d c =>
      d.abortOpen c rsCastled fun b => bitOf (d.rd F.BRD_CTX_MEMBERS_CONTRIB c) m && !bitOf b.done m) d) d) d
  d.dropResults lost fun tag => tag ≠ 0 && gs.contains (d.rd F.BRD_CTX_CFG_GROUP ((tag - 1) / 65536))

/-- Step 5 for the arbiter (R280): member `m` of a pacing group starts its history anew; the replacement takes the index's
budget and its P-state target. Where the sum would pass the available power the two budgets change places (R244). -/
def Dev.castlePower (d : Dev) (g m lost repl : Nat) : Dev :=
  if ¬ d.paces g then d
  else
    let x := d.gr g
    let d := d.grPut g { x with
      hist := x.hist.map fun (p : Nat × Interval) => (p.1, { p.2 with t := tdel p.2.t m, s := tdel p.2.s m })
      arrive := x.arrive.filter (fun p => p.1 ≠ m), down := x.down.filter (· ≠ m) }
    if 8 ≤ repl then d.applyStaged lost
    else
      let b := d.budget lost
      let b' := d.budget repl
      let st := d.rd F.PWC_ACC_BUDGET_STAGED_W lost
      let d := if d.budgetOk fun a => if a = repl then b else d.budget a then d.applyB repl b else (d.applyB repl b).applyB lost b'
      let d := if st = 0 then d else (d.wr F.PWC_ACC_BUDGET_STAGED_W lost 0).wr F.PWC_ACC_BUDGET_STAGED_W repl st
      d.request repl ((d.pw lost).pending.getD (d.cur lost)) true

/-- Castling, whole (R196): `repl` 15 for none. -/
def Dev.castle (d : Dev) (lost repl : Nat) (wake : Bool) : Dev :=
  let gs := d.groupsOf lost
  let d : Dev := { d with sob.waiters := d.sob.waiters.filter fun (w : Waiter) => w.src ≠ lost }
  let d := d.castleBoard lost gs
  let d := gs.foldl (fun d g => (d.indexIn g lost).foldl (fun d m =>
    d.wrw (F.GRP_MAP_MEMBER.addr g) (putBits (d.rdw (F.GRP_MAP_MEMBER.addr g)) (4 * m) 4 repl) |>.castlePower g m lost repl) d) d
  if wake then d.endWaiters (fun w => gs.contains (d.obj (hIndex w.handle)).group) stCastled fun w => (d.obj (hIndex w.handle)).present
  else d

/-- CASTLE: a replacement is LINKED, MATCH and in none of the groups (R195). -/
def opCastle : MbxOp :=
  { op := 0x0507, lease := false, core := coreSch, len := fun n => n = 4
    check := fun d p =>
      let r := pf p 1 1
      firstBad [(7 < pf p 0 1, 0),
        (r ≠ 0xFF && !(r < 8 && d.linked r && d.paired r && (d.groupsOf (pf p 0 1)).all fun g => (d.indexIn g r).isEmpty), 1), flag p 2,
        rsv p 3 1]
    body := fun d q =>
      let lost := pf q.pay 0 1
      let r := pf q.pay 1 1
      let n := (d.groupsOf lost).length
      (.ok (le 1 0 ++ le 1 n ++ zeros 2), d.castle lost (if r = 0xFF then 15 else r) (pf q.pay 2 1 = 1)) }

def execCastle (q : MbxReq) (s : State) : Res := opCastle.run q s

/-! ### Accelerators -/

def opAccConfig : MbxOp :=
  { op := 0x0508, lease := true, core := coreSch, len := fun n => n = 4
    check := fun _ p => firstBad [(7 < pf p 0 1, 0), flag p 1, flag p 2, rsv p 3 1]
    body := fun d q =>
      let a := pf q.pay 0 1
      let d := (d.bindOk a (pf q.pay 1 1 = 1)).forceSideband a (pf q.pay 2 1 = 1)
      (.ok (d.viewBytes (F.VL_ACC_STATUS_MODE.addr a) 1), d) }

def execAccConfig (q : MbxReq) (s : State) : Res := opAccConfig.run q s

def opGetAcc : MbxOp :=
  { op := 0x0509, lease := false, core := coreSch, len := fun n => n = 0
    body := fun d _ =>
      (.ok (accs8.flatMap fun a => d.viewBytes (F.VL_ACC_STATUS_MODE.addr a) 1 ++ d.viewBytes (F.VL_ACC_STATUS_MODE.addr a + 8) 1), d) }

def execGetAcc (q : MbxReq) (s : State) : Res := opGetAcc.run q s

end Sys2Proof.Machine
end

