-- ==== Sys2Proof/Machine/MbxGeneral.lean ====
section
/-! DEFINITION. Mailbox groups 0x00xx, 0x06xx and 0x0Fxx (spec/13 R451 to R453, R459, R462, R464, R465), opcodes that are not served,
and what the mailbox does in its own time (R440, R444, R446, R451). -/

namespace Sys2Proof.Machine

/-! ### Identity and status (R453) -/

def opGetVersion : MbxOp :=
  { op := 0x0000, lease := false, core := coreSch, len := fun n => n = 0
    body := fun d _ => (.ok (le 1 3 ++ le 1 3 ++ le 1 1 ++ zeros 1), d) }

def execGetVersion (q : MbxReq) (s : State) : Res := opGetVersion.run q s

/-- GET_IDENTITY: BUILD_ID and BUNDLE_VERSION read as zero before ROM has read a bundle. -/
def opGetIdentity : MbxOp :=
  { op := 0x0001, lease := false, core := coreSch, len := fun n => n = 0
    body := fun d _ =>
      let b := match d.boot.run with
        | some r => fitBytes 16 (headBuild r.head) ++ le 4 (headVersion r.head)
        | none => zeros 20
      (.ok (le 2 (d.rd F.GLB_ID_DEVICE_ID) ++ le 1 (d.rd F.GLB_ID_STEPPING) ++ le 1 (d.rd F.GLB_ID_TGRADE) ++ le 8 Config.serial.toNat ++
        le 2 Config.vendorId.toNat ++ zeros 2 ++ trayIdBytes ++ b), d) }

def execGetIdentity (q : MbxReq) (s : State) : Res := opGetIdentity.run q s

/-- Cores that have failed, bit k for core k. -/
def Dev.coresFailed (d : Dev) : Nat := maskOf 16 fun k => (tget (fun _ => ({} : Core)) d.flt.cores k).failed

def opGetStatus : MbxOp :=
  { op := 0x0002, lease := false, core := coreSch, len := fun n => n = 0
    body := fun d _ =>
      (.ok (le 1 (d.rd F.MBX_STATUS_READY) ++ le 1 (d.rd F.MBX_STATUS_SERVER) ++ le 1 (d.rd F.MBX_STATUS_LEASE) ++
        le 1 (d.rd F.ORO_STATUS_STATE) ++ d.viewBytes (F.BOOT_STATUS_FORCED.addr 0) 1 ++ d.viewBytes (F.PWC_EMERG_STATE.addr 0) 1 ++
        le 2 d.coresFailed ++ zeros 2), d) }

def execGetStatus (q : MbxReq) (s : State) : Res := opGetStatus.run q s

def opGetResetCause : MbxOp :=
  { op := 0x0004, lease := false, core := coreSch, len := fun n => n = 0
    body := fun d _ => (.ok (d.viewBytes (F.GLB_RESET_CAUSE_POR.addr 0) 1), d) }

def execGetResetCause (q : MbxReq) (s : State) : Res := opGetResetCause.run q s

def opGetTime : MbxOp :=
  { op := 0x0005, lease := false, core := coreSch, len := fun n => n = 0
    body := fun d _ => (.ok (le 8 d.gts), d) }

def execGetTime (q : MbxReq) (s : State) : Res := opGetTime.run q s

/-- The opcodes served in a group (R453 to R462). -/
def servedIn (g : Nat) : List Nat :=
  match g with
  | 0x00 => List.range 8
  | 0x01 => List.range 8 ++ (List.range 8).map (· + 16)
  | 0x02 => List.range 5
  | 0x03 => List.range 5
  | 0x04 => List.range 8
  | 0x05 => List.range 10
  | 0x06 => List.range 4
  | 0x07 => List.range 8
  | 0x08 => List.range 5
  | 0x0F => List.range 3
  | _ => []

def opGetOpcodes : MbxOp :=
  { op := 0x0006, lease := false, core := coreSch, len := fun n => n = 4
    check := fun _ p => firstBad [rsv p 1 3]
    body := fun d q => (.ok (le 32 (maskOf 256 fun n => (servedIn (pf q.pay 0 1)).contains n)), d) }

def execGetOpcodes (q : MbxReq) (s : State) : Res := opGetOpcodes.run q s

/-- A request with an opcode outside the tables; an opcode of the tables has its own command. -/
def execMbxUnknownOpcode (op : BitVec 16) (q : MbxReq) (s : State) : Res :=
  s.run fun d =>
    if (servedIn (op.toNat / 256)).contains (op.toNat % 256) then d
    else d.mbxArrive { op := op.toNat, lease := false, core := coreSch, len := fun _ => true, body := fun d _ => (.of msBadOpcode, d) } false q

/-! ### The lease (R451, R452) -/

/-- The lease state changes: vector 2 (R437). -/
def Dev.leaseSet (d : Dev) (st xport : Nat) : Dev :=
  if d.rd F.MBX_STATUS_LEASE = st then d
  else ((d.wr F.MBX_STATUS_LEASE 0 st).wr F.MBX_STATUS_LEASE_XPORT 0 xport).vector 2

/-- HEARTBEAT takes the lease, or renews it. MISSED: the event packets lost while it was not HELD. -/
def opHeartbeat : MbxOp :=
  { op := 0x0003, lease := false, core := coreSch, len := fun n => n = 8
    check := fun _ p => firstBad [(pf p 0 8 = 0, 0)]
    body := fun d q =>
      let h := pf q.pay 0 8
      let x := transport q.ch
      let held : Bool := d.rd F.MBX_STATUS_LEASE = 1
      if held && !(d.mbx.holder = h && d.rd F.MBX_STATUS_LEASE_XPORT = x) then (.of msLocked, d)
      else
        let missed := if held then 0 else d.obs.missedFree
        let d : Dev := { d with
          mbx.holder := h
          mbx.leaseAt := d.gts
          mbx.warned := false
          obs.missedFree := if held then d.obs.missedFree else 0 }
        let d := d.leaseSet 1 x
        (.ok (le 2 (d.view (F.MBX_STATUS_LEASE.addr 0 + 4)) ++ le 1 (d.rd F.MBX_STATUS_LEASE) ++ zeros 1 ++ le 4 (min missed (2 ^ 32 - 1))), d) }

def execHeartbeat (q : MbxReq) (s : State) : Res := opHeartbeat.run q s

def opReleaseLease : MbxOp :=
  { op := 0x0007, lease := false, core := coreSch, len := fun n => n = 8
    check := fun d p => firstBad [(d.rd F.MBX_STATUS_LEASE ≠ 1 || d.mbx.holder ≠ pf p 0 8, 0)]
    body := fun d _ => (.ok, d.leaseSet 0 0) }

def execReleaseLease (q : MbxReq) (s : State) : Res := opReleaseLease.run q s

/-- The lease is judged only while SCH runs (R388). -/
def Dev.leaseDue (d : Dev) (ns : Nat) : Bool :=
  d.sysOn && d.coreUp coreSch && d.rd F.MBX_STATUS_LEASE = 1 && d.mbx.leaseAt + ns ≤ d.gts

/-- 500 ms without a heartbeat: LAPSED, with event 9. -/
def execLeaseExpiry (s : State) : Res :=
  s.run fun d =>
    if d.leaseDue 500000000 then
      let x := d.rd F.MBX_STATUS_LEASE_XPORT
      (d.leaseSet 2 x).event 9 0 x
    else d

/-- 250 ms without a heartbeat: vector 2, once. -/
def execLeaseWarning (s : State) : Res :=
  s.run fun d => if d.leaseDue 250000000 && !d.mbx.warned then ({ d with mbx.warned := true }).vector 2 else d

/-! ### Channels, completions, timeouts -/

/-- A write of 1 to MBX_CH_STATUS_c.DONE (R440). -/
def execMbxChDone (c : Fin 4) (s : State) : Res :=
  s.run fun d =>
    if d.linkUp ∧ d.rd F.MBX_CH_STATUS_STATE c = 2 then (d.wr F.MBX_CH_STATUS_STATE c 0).wr F.MBX_CH_STATUS_DONE c 0 else d

/-- The oldest waiting completion is written once queue 4 has room (R444). -/
def execCompletionWrite (s : State) : Res :=
  s.run fun d =>
    match d.obs.waitingCompl with
    | [] => d
    | (id, pkt) :: l =>
      if d.is F.CQ_CFG_EN 4 ∧ d.cqFits 4 pkt.length then ({ d with obs.waitingCompl := l }).complCommit id pkt else d

/-- The reply bound of an opcode, ns (R446). -/
def replyBound (op : Nat) : Nat := if op = 0x0117 then 50000000 else 10000000

/-- Requests past their bound are answered TIMEOUT; what they asked for is not carried out. -/
def Dev.replyTimeouts (d : Dev) : Dev :=
  let due := d.mbx.held.filter fun (h : Held) => h.at' + replyBound h.op ≤ d.gts
  let d : Dev := { d with pwr.clkOps := d.pwr.clkOps.filter fun p => !(due.any fun (h : Held) => h.id = p.1) }
  due.foldl (fun d (h : Held) => d.replyHeld h.id (.of msTimeout)) d

def execReplyTimeout (s : State) : Res := s.run fun d => if d.sysOn then d.replyTimeouts else d

/-! ### Telemetry frames (R459, R291) -/

/-- Frame numbers whose records the ring holds, newest first. -/
def Dev.framesKept (d : Dev) : List Nat :=
  ((List.range 128).filter fun i => i < d.oro.nextRec && d.ld .commons (0x80000 + 288 * ((d.oro.nextRec - 1 - i) % 128)) 8 = d.oro.nextRec - 1 - i).map
    fun i => d.oro.nextRec - 1 - i

def opTlmFrames : MbxOp :=
  { op := 0x0600, lease := false, core := coreSch, len := fun n => n = 4
    check := fun _ p => firstBad [(pf p 0 1 = 0 || 14 < pf p 0 1, 0), rsv p 1 3]
    body := fun d q =>
      (.ok ((d.framesKept.take (pf q.pay 0 1)).reverse.flatMap fun k => d.ldn .commons (0x80000 + 288 * (k % 128)) 288), d) }

def execTlmFrames (q : MbxReq) (s : State) : Res := opTlmFrames.run q s

/-! ### Firmware log (R464) and trace points (R465) -/

def logBase : Nat := 0x40000000
def logSize : Nat := 0x4000000

def opLogConfig : MbxOp :=
  { op := 0x0601, lease := false, core := coreSch, len := fun n => n = 4
    check := fun _ p => firstBad [(4 < pf p 0 1, 0), flag p 1]
    body := fun d q =>
      (.ok, { d with obs.logLevel := pf q.pay 0 1, obs.logCopy := pf q.pay 1 1 = 1, obs.logMask := pf q.pay 2 2 }) }

def execLogConfig (q : MbxReq) (s : State) : Res := opLogConfig.run q s

/-- Bytes of the ring from position `p`, which wraps at its end. -/
def Dev.logLd (d : Dev) (p n : Nat) : List Byte :=
  let o := p % logSize
  let k := min n (logSize - o)
  d.ldn .hbm (logBase + o) k ++ d.ldn .hbm logBase (n - k)

def Dev.logStn (d : Dev) (p : Nat) (b : List Byte) : Dev :=
  let o := p % logSize
  (d.stn .hbm (logBase + o) (b.take (logSize - o))).stn .hbm logBase (b.drop (logSize - o))

/-- Firmware of core `core` writes a log record: at most 232 bytes of arguments, padded to a multiple of 8. -/
def Dev.logRecord (d : Dev) (core level code : Nat) (args : List Byte) : Dev :=
  if d.obs.logLevel < level ∨ ¬ bitOf d.obs.logMask core = true then d
  else
    let a := args.take 232
    let n := 24 + (a.length + 7) / 8 * 8
    let b := le 8 d.obs.logSeq ++ le 8 d.gts ++ le 2 n ++ le 1 core ++ le 1 level ++ le 4 code ++ fitBytes (n - 24) a
    let p := d.obs.logHead
    let d := d.logStn p b
    let keep := (d.obs.logRecs ++ [(d.obs.logSeq, p, n)]).filter fun (r : Nat × Nat × Nat) => p + n ≤ r.2.1 + logSize
    let d : Dev := { d with obs.logSeq := d.obs.logSeq + 1, obs.logHead := p + n, obs.logRecs := keep }
    if d.obs.logCopy then (d.cqSend 5 b).2 else d

/-- LEVEL 1 to 4. -/
def execLogRecord (core : Fin 11) (level : Fin 4) (code : Word) (args : List Byte) (s : State) : Res :=
  s.run fun d => if d.sysOn ∧ d.coreUp core then d.logRecord core (level + 1) code.toNat args else d

/-- The records LOG_READ returns: whole ones from the first, up to `n` bytes. -/
def logTake : Nat → List (Nat × Nat × Nat) → List (Nat × Nat × Nat)
  | _, [] => []
  | n, r :: l => if r.2.2 ≤ n then r :: logTake (n - r.2.2) l else []

/-- LOG_READ: NEXT_SEQ is the SEQ after the last record returned; LOST the records between FROM_SEQ and the oldest kept. -/
def opLogRead : MbxOp :=
  { op := 0x0602, lease := false, core := coreSch, len := fun n => n = 16
    check := fun _ p => firstBad [(pf p 8 2 < 24 || 4072 < pf p 8 2, 8), rsv p 10 6]
    body := fun d q =>
      let fr := pf q.pay 0 8
      let oldest := match d.obs.logRecs with | r :: _ => r.1 | [] => d.obs.logSeq
      let start := max fr oldest
      let rs := logTake (pf q.pay 8 2) (d.obs.logRecs.filter fun r => start ≤ r.1)
      let next := match rs.getLast? with | some r => r.1 + 1 | none => start
      (.ok (le 8 next ++ le 4 (min (oldest - fr) (2 ^ 32 - 1)) ++ zeros 4 ++ rs.flatMap fun r => d.logLd r.2.1 r.2.2), d) }

def execLogRead (q : MbxReq) (s : State) : Res := opLogRead.run q s

def opTraceSet : MbxOp :=
  { op := 0x0603, lease := true, core := coreSch, len := fun n => n = 32
    body := fun d q =>
      (.ok, { d with obs.traceEn := ((List.range 256).filter (bitOf (pf q.pay 0 32))).map fun n => (n, true) }) }

def execTraceSet (q : MbxReq) (s : State) : Res := opTraceSet.run q s

/-- Firmware of core `core` passes a trace point: two words into stream queue 0. -/
def Dev.tracePoint (d : Dev) (n core arg : Nat) : Dev :=
  if tget (fun _ => false) d.obs.traceEn n && d.is F.CQ_CFG_EN 0 then
    (d.cqStreamWord 0 true (n * 2 ^ 24 + core * 65536 + d.gts % 65536)).cqStreamWord 0 false arg
  else d

def execTracePoint (n : Byte) (core : Fin 11) (arg : Word) (s : State) : Res :=
  s.run fun d => if d.sysOn ∧ d.coreUp core then d.tracePoint n.toNat core arg.toNat else d

/-! ### Debug (R462, R490) -/

def opEcho : MbxOp :=
  { op := 0x0F00, lease := false, core := coreSch, len := fun _ => true
    body := fun d q => (.ok q.pay, d) }

def execEcho (q : MbxReq) (s : State) : Res := opEcho.run q s

/-- FREEZE: the firmware trigger of the snapshot, and its GTS. -/
def opFreeze : MbxOp :=
  { op := 0x0F01, lease := true, core := coreSch, len := fun n => n = 0
    body := fun d _ => (.ok (le 8 d.aont), d.snapFire snapFirmware) }

def execFreeze (q : MbxReq) (s : State) : Res := opFreeze.run q s

def opFfrArchive : MbxOp :=
  { op := 0x0F02, lease := true, core := coreSec, len := fun n => n = 0
    body := fun d q => d.accepting q 0x0F02 fun d id => { d with obs.archIds := d.obs.archIds ++ [id] } }

def execFfrArchive (q : MbxReq) (s : State) : Res := opFfrArchive.run q s

/-- The header of an archive slot (R490). -/
def archHeader (a : FfrArchive) (fill : Nat) (image : List Byte) : List Byte :=
  let h : List Byte := [0x46, 0x46, 0x52, 0x41] ++ le 8 a.seq ++ le 8 a.bootCount ++ trayIdBytes ++ le 4 fill ++ le 4 a.lost ++ le 4 (crc32c image)
  h ++ le 4 (crc32c h)

/-- SEC archives the recorder image into the oldest of the 15 slots (R490): it is erased, the image written and, once it has read
back, the header; an image that does not read back leaves the slot without a header. -/
def Dev.ffrArchive (d : Dev) (ok : Bool) : Dev :=
  let a : FfrArchive :=
    { slot := d.obs.ffrS.archSeq % 15, seq := d.obs.ffrS.archSeq, bootCount := d.rd64 F.BOOT_COUNT_LO,
      lost := d.rd F.FFR_LOST_COUNT, recs := d.obs.ffrS.recs }
  let image := d.ffrImage
  let base := 0x2100000 + a.slot * 0x41000
  let d := (d.clearRange .flash base 0x41000).stn .flash (base + 0x1000) image
  let d := if ok then d.stn .flash base (archHeader a (d.rd F.FFR_FILL_FILL16) image) else d
  let d : Dev := { d with obs.ffrS.archives := (if ok then [a] else []) ++ d.obs.ffrS.archives.filter (fun x => x.slot ≠ a.slot) }
  let d := if ok then
      (({ d with obs.ffrS.archSeq := d.obs.ffrS.archSeq + 1 }).inc F.FFR_ARCH_ARCHIVES).wr F.FFR_ARCH_FILL16 0 (d.rd F.FFR_FILL_FILL16)
    else d
  d.obs.archIds.foldl (fun d id => d.complete id (if ok then msOk else msIntegrity)) { d with obs.archIds := [] }

def execRecorderArchive (ok : Bool) (s : State) : Res :=
  s.run fun d => if d.sysOn ∧ d.coreUp coreSec = true then d.ffrArchive ok else d

end Sys2Proof.Machine
end

