-- ==== Sys2Proof/Machine/Endgame.lean ====
section
/-! DEFINITION. Endgame's responder on SMB_0 and the ways out (spec/11 R394, R395), the snapshot hub (spec/14 R494 to R497), the
JTAG port (spec/16 R557). -/

namespace Sys2Proof.Machine

/-! ### The responder (R394) -/

/-- A register whose block loses power with domain 0. -/
def Dev.powered4 (d : Dev) (a : Nat) : List Byte := if d.sysOn then d.viewBytes a 1 else [0xFF, 0xFF, 0xFF, 0xFF]

/-- A block read of command code `cmd` (R394, R522): the byte count, the data and the PEC over the whole transfer. -/
def Dev.blockReply (d : Dev) (cmd : Nat) (data : List Byte) : Dev :=
  if d.flt.endgame then
    let body := le 1 data.length ++ data
    d.emit (.msg "SMB_0 0x4E block read" cmd (body ++ le 1 (pec ([0x9C] ++ le 1 cmd ++ [0x9D] ++ body))))
  else d

def execEndgameIdent (s : State) : Res :=
  s.run fun d => d.blockReply 0 (le 2 (d.rd F.GLB_ID_DEVICE_ID) ++ le 1 (d.rd F.GLB_ID_STEPPING) ++ le 1 (d.rd F.GLB_ID_TGRADE) ++
    le 8 Config.serial.toNat)

/-- STATE: the automatic exit counts as used when the cold reset of this boot was an Endgame exit. -/
def execEndgameState (s : State) : Res :=
  s.run fun d =>
    let failed := d.coresFailed % 8
    d.blockReply 1 (le 1 1 ++ le 1 d.flt.endCause ++ le 1 (d.flt.endAuto.toNat + 2 * d.flt.endBoot.toNat) ++ le 1 failed ++
      le 4 (min (2 ^ 32 - 1) ((d.aont - d.flt.endAt) / 1000000)))

def execEndgameResetCause (s : State) : Res := s.run fun d => d.blockReply 2 (d.viewBytes (F.GLB_RESET_CAUSE_POR.addr 0) 1)

def execEndgameRails (s : State) : Res :=
  s.run fun d => d.blockReply 3 (d.viewBytes (F.SEQ_ON_RAILS.addr 0) 3 ++ d.viewBytes (F.SEQ_FAILED_RAILS.addr 0) 3)

def execEndgameSupply (s : State) : Res :=
  s.run fun d => d.blockReply 4 (d.viewBytes (F.SEQ_HSW_STATUS_STATE.addr 0) 1 ++ d.viewBytes (F.SEQ_BUS_STATUS_VBUS.addr 0) 1 ++
    d.viewBytes (F.SEQ_DOM_STATE_STATE.addr 0) 1)

def execEndgameProtect (s : State) : Res :=
  s.run fun d => d.blockReply 5 (d.powered4 (F.PWC_EMERG_STATE.addr 0) ++ d.viewBytes (F.PWC_MATE_STATUS_ACTIVE.addr 0) 1 ++
    d.powered4 (F.PWC_STATUS_MATE.addr 0))

def execEndgameCooling (s : State) : Res := s.run fun d => d.blockReply 6 (d.viewBytes (F.COOL_STATUS_TABLE_VALID.addr 0) 2)

def execEndgameRecorder (s : State) : Res :=
  s.run fun d => d.blockReply 7 (le 4 (d.rd F.FFR_FILL_RECORDS) ++ le 4 (d.rd F.FFR_LOST_COUNT))

/-- A code that is not served, or a write data byte after one that is: NACK. -/
def execEndgameUnknownCommand (cmd : Byte) (s : State) : Res :=
  s.run fun d => if d.flt.endgame then d.emit (.msg "SMB_0 0x4E NACK" cmd.toNat []) else d

/-! ### Leaving Endgame (R395) -/

/-- GOLDEN# held low for 1 s: a cold reset that boots slot G. -/
def execGoldenExit (s : State) : Res :=
  s.run fun d => if d.flt.endgame then ({ d with boot.forceG := true }).coldRequest rcEndgameExit else d

/-- 10 s after entry, once. -/
def execEndgameAutoExit (s : State) : Res :=
  s.run fun d =>
    if d.flt.endgame && d.flt.endAuto && d.flt.endAt + 10000000000 ≤ d.aont then
      let d' : Dev := { d with flt.endAuto := false }
      if d.flt.endBoot || d.is F.PWC_MATE_STATUS_ACTIVE || d.hsw = hsLatched then d' else d'.coldRequest rcEndgameExit
    else d

/-! ### The snapshot hub -/

/-- `n` registers from `a`, `step` bytes apart, as words from image offset `o`, `ostep` bytes apart. -/
def Dev.capRegs (d : Dev) (o ostep a step n : Nat) : List (Nat × Word) :=
  (List.range n).map fun i => (o + ostep * i, BitVec.ofNat 32 (d.view (a + step * i)))

/-- A 64-bit value at image offset `o`. -/
def cap64 (o v : Nat) : List (Nat × Word) := [(o, BitVec.ofNat 32 v), (o + 4, BitVec.ofNat 32 (v / 2 ^ 32))]

/-- Sections of blocks that keep power with the AON island: SEQ and COOL (R496). -/
def Dev.capAon (d : Dev) : List (Nat × Word) :=
  d.capRegs 0x1000 4 (F.SEQ_STATUS_PHASE.addr 0) 4 1 ++ d.capRegs 0x1004 4 (F.SEQ_DOM_STATE_STATE.addr 0) 4 1 ++
    d.capRegs 0x1008 4 (F.SEQ_ON_RAILS.addr 0) 4 3 ++ d.capRegs 0x1014 4 (F.SEQ_FAILED_RAILS.addr 0) 4 3 ++
    d.capRegs 0x1020 4 (F.SEQ_HSW_STATUS_STATE.addr 0) 4 1 ++ d.capRegs 0x1024 4 (F.SEQ_BUS_STATUS_VBUS.addr 0) 4 1 ++
    d.capRegs 0x1040 4 (F.SEQ_RAIL_STATUS_STATE.addr 0) 0x20 96 ++
    d.capRegs 0x1200 4 (F.COOL_STATUS_TABLE_VALID.addr 0) 4 1 ++ d.capRegs 0x1204 4 (F.FAN_STATUS_STATE.addr 0) 0x20 18 ++
    d.capRegs 0x124C 4 (F.FAN_SPEED_RPM.addr 0) 0x20 18 ++ d.capRegs 0x1294 4 (F.PUMP_STATUS_STATE.addr 0) 0x20 4 ++
    d.capRegs 0x12A4 4 (F.LOOP_STATUS_FLOW.addr 0) (F.LOOP_STATUS_FLOW.addr 1 - F.LOOP_STATUS_FLOW.addr 0) 4

/-- Sections of the blocks that need core power, but for the stamps and the program counters. -/
def Dev.capSys (d : Dev) : List (Nat × Word) :=
  ((List.range 8).flatMap fun a => d.capRegs (0x100 + 16 * a) 4 (F.PWC_ACC_BUDGET_STAGED_W.addr a) 4 4) ++
    d.capRegs 0x180 4 (F.PWC_STATUS_MATE.addr 0) 4 1 ++ d.capRegs 0x184 4 (F.PWC_EMERG_STATE.addr 0) 4 1 ++
    d.capRegs 0x188 4 (F.PWC_CHECK_LATCH_OC.addr 0) 4 1 ++ d.capRegs 0x18C 4 (F.PWC_MATE_STATUS_ACTIVE.addr 0) 4 1 ++
    d.capRegs 0x200 16 (F.LNK_STATE_STATE.addr 0) 0x1000 24 ++ d.capRegs 0x204 16 (F.LNK_SEQ_TX_NEXT.addr 0) 0x1000 24 ++
    d.capRegs 0x208 16 (F.LNK_ERR_LOS.addr 0) 0x1000 24 ++
    d.capRegs 0x400 4 (F.SOB_STATUS_OBJECTS.addr 0) 4 1 ++ d.capRegs 0x404 4 (F.SOB_WAITERS_HIGH.addr 0) 4 1 ++
    d.capRegs 0x408 4 (F.SOB_OPS_LO.addr 0) 4 2 ++ d.capRegs 0x410 4 (F.GRP_CTRL_STATE.addr 0) 16 256 ++
    d.capRegs 0x900 4 (F.BRD_STATUS_OPEN.addr 0) 4 1 ++ d.capRegs 0x904 4 (F.BRD_CTX_STATE_STATE.addr 0) 0x20 256 ++
    d.capRegs 0xE00 4 (F.TILE_STATE_STATE.addr 0) 0x10000 72 ++ d.capRegs 0xF20 4 (F.SLOT_STATE_STATE.addr 0) 0x40 32 ++
    d.capRegs 0x1400 4 (F.TLM_CH_CODE.addr 0) 4 128 ++ d.capRegs 0x1600 4 (F.TLM_FAST_CODE.addr 0) 4 10

/-- The instant of a domain's capture cycle: at most `b` ns after t0, not said exactly (R495). -/
def Dev.capAt (d : Dev) (t0 b : Nat) : Nat × Dev := let f := d.free; (t0 + f.1 % (b + 1), f.2)

/-- The stamps: each domain's offset in section 0, its bound, whether it needs core power. -/
def capStamps : List (Nat × Nat × Bool) :=
  [(0x00, 5, false), (0x08, 200, false), (0x10, 80, false), (0x18, 80, false), (0x20, 5, true), (0x28, 6, true), (0x30, 4, true),
    (0x38, 5, true), (0x40, 8, true)]

/-- Every powered domain captures its registers (R495, R496). The cores' program counters are not the model's: free values. -/
def Dev.capture (d : Dev) : Dev :=
  let t0 := d.rd64 F.SNAP_TRIG_GTS_LO
  let on := d.sysOn
  let regs := d.capAon ++ if on then d.capSys else []
  let st := capStamps.foldl (fun (r : List (Nat × Word) × Dev) x =>
    if x.2.2 && !on then r else let f := r.2.capAt t0 x.2.1; (r.1 ++ cap64 x.1 f.1, f.2)) (regs, d)
  let lk := if on then
      (List.range 24).foldl (fun (r : List (Nat × Word) × Dev) n =>
        let f := r.2.capAt t0 5
        (r.1 ++ [(0x20C + 16 * n, BitVec.ofNat 32 f.1)], f.2)) st
    else st
  let pc := if on then
      (List.range 10).foldl (fun (r : List (Nat × Word) × Dev) k =>
        let f := r.2.free
        (r.1 ++ cap64 (0x1700 + 8 * k) (if k < 2 then f.1 else f.1 % 2 ^ 32), f.2)) lk
    else lk
  let d := pc.2
  { d with obs.snap.want := false, obs.snap.captured := pc.1, obs.snap.sections := if on then 0x3FF else 0xC1 }

/-- The trigger register is set: sources fire in this cycle, and the domains capture. -/
def execSnapshotTrigger (sources : BitVec 5) (s : State) : Res :=
  s.run fun d =>
    let d := d.snapFire sources.toNat
    if d.obs.snap.want then d.capture else d

def execSnapTriggerWrite (s : State) : Res := s.run (·.snapFire snapFirmware)

/-- FREEZE# low through its filter. -/
def execFreezePin (s : State) : Res := s.run (·.snapFire snapPin)

/-- A write of SNAP_CTRL.ARM; one made during a capture waits for the copy to end. -/
def Dev.snapArm (d : Dev) : Dev :=
  if d.is F.SNAP_STATUS_CAPTURING then { d with obs.snap.armLater := true }
  else (({ d with obs.snap.armLater := false }).wr F.SNAP_STATUS_ARMED 0 1).wr F.SNAP_STATUS_MISSED 0 0

def execSnapArm (s : State) : Res := s.run (·.snapArm)

/-- The captured words are in the image. -/
def Dev.snapCopied (d : Dev) : Dev :=
  if d.is F.SNAP_STATUS_CAPTURING && !d.obs.snap.want then
    let image := d.obs.snap.captured.foldl (fun (m : List (Nat × Word)) p => tset (fun _ => 0) m p.1 p.2) d.obs.snap.image
    let d' : Dev := { d with obs.snap.image := image, obs.snap.captured := [] }
    let d' := (d'.wr F.SNAP_STATUS_SECTION_VALID 0 d.obs.snap.sections).wr F.SNAP_STATUS_CAPTURING 0 0
    if d'.obs.snap.armLater then d'.snapArm else d'
  else d

def execSnapshotCopyDone (s : State) : Res := s.run (·.snapCopied)

/-! ### JTAG (R557) -/

/-- The port operates while VDD18 and VDD_CORE are ON. -/
def Dev.tapOn (d : Dev) : Bool := d.railOn 1 && d.railOn 2

/-- An instruction is loaded: what the balls carry, whether core debug is open. -/
def Dev.tapIr (d : Dev) (ir : Byte) (drive : Nat) : Dev := { d with jtag.ir := ir, jtag.drive := drive, jtag.dbg := false }

/-- Bits shifted out, the first in bit 0 of the first byte. -/
def bitBytes (l : List Bool) : List Byte :=
  (List.range ((l.length + 7) / 8)).map fun i => BitVec.ofNat 8 (maskOf 8 fun k => l.getD (8 * i + k) false)

def Dev.tdo (d : Dev) (l : List Bool) : Dev := d.emit (.msg "TDO" l.length (bitBytes l))

/-- The one-bit bypass register, which captures 0 (PRESUMED: IEEE 1149.1). -/
def Dev.bypass (d : Dev) (ir : Byte) : Dev := (d.tapIr ir 0).tdo [false]

def execJtagBypass (s : State) : Res := s.run fun d => if d.tapOn then d.bypass 0xFF else d

/-- The device identification code. -/
def idCode : Nat := 1 * 2 ^ 28 + 0x0960 * 2 ^ 12 + Config.jep106.toNat * 2 + 1

def execJtagIdcode (s : State) : Res :=
  s.run fun d => if d.tapOn then (d.tapIr 0x01 0).tdo ((List.range 32).map (bitOf idCode)) else d

/-- The covered balls are sampled and shifted out; the boundary register takes what is shifted in. -/
def execJtagSamplePreload (balls : List Bool) (cells : List Bool) (s : State) : Res :=
  s.run fun d => if d.tapOn then ({ d.tapIr 0x02 0 with jtag.cells := cells }).tdo balls else d

/-- EXTEST drives the covered balls from the boundary register, which also samples them and takes what is shifted in. -/
def execJtagExtest (balls : List Bool) (cells : List Bool) (s : State) : Res :=
  s.run fun d =>
    if ¬ d.tapOn then d
    else if d.boot.mfgTest then ({ d.tapIr 0x00 1 with jtag.cells := cells }).tdo balls
    else d.bypass 0x00

def execJtagClamp (s : State) : Res :=
  s.run fun d => if ¬ d.tapOn then d else if d.boot.mfgTest then (d.tapIr 0x03 2).tdo [false] else d.bypass 0x03

def execJtagHighz (s : State) : Res :=
  s.run fun d => if ¬ d.tapOn then d else if d.boot.mfgTest then (d.tapIr 0x04 3).tdo [false] else d.bypass 0x04

/-- DEBUG: core debug opens only where R400 lets it. -/
def execJtagDebug (s : State) : Res :=
  s.run fun d => if d.tapOn then { d.tapIr 0x20 0 with jtag.dbg := d.boot.debugOpen } else d

end Sys2Proof.Machine
end

