-- ==== Sys2Proof/Machine/Dispatch.lean ====
section
/-! DEFINITION. The dispatch: one arm per command, each one direct call of its meaning. -/

namespace Sys2Proof.Machine

def exec (i : Instr) (s : State) : Host.Outcome State Fault Refusal :=
  match i with
  | .registerWrite by_ a w v => Sys2Proof.Machine.execRegisterWrite by_ a w v s
  | .counterClearWrite by_ a => Sys2Proof.Machine.execCounterClearWrite by_ a s
  | .setWriteLock by_ => Sys2Proof.Machine.execSetWriteLock by_ s
  | .counterLowRead by_ a => Sys2Proof.Machine.execCounterLowRead by_ a s
  | .wideFieldLowWrite by_ a v => Sys2Proof.Machine.execWideFieldLowWrite by_ a v s
  | .wideFieldHighWrite by_ a v => Sys2Proof.Machine.execWideFieldHighWrite by_ a v s
  | .hvBridgeTransfer ch crcOk => Sys2Proof.Machine.execHvBridgeTransfer ch crcOk s
  | .crystalLoss => Sys2Proof.Machine.execCrystalLoss s
  | .codeWordRead m w r => Sys2Proof.Machine.execCodeWordRead m w r s
  | .eccWriteback m w => Sys2Proof.Machine.execEccWriteback m w s
  | .patrolScrub m w r => Sys2Proof.Machine.execPatrolScrub m w r s
  | .scrubPeriodMissed hbm => Sys2Proof.Machine.execScrubPeriodMissed hbm s
  | .powerOnReset capsel hswsel goldenLow mfgLow => Sys2Proof.Machine.execPowerOnReset capsel hswsel goldenLow mfgLow s
  | .coldReset => Sys2Proof.Machine.execColdReset s
  | .warmReset => Sys2Proof.Machine.execWarmReset s
  | .pcieReset => Sys2Proof.Machine.execPcieReset s
  | .coldReq by_ v => Sys2Proof.Machine.execColdReq by_ v s
  | .warmReq by_ v => Sys2Proof.Machine.execWarmReq by_ v s
  | .clearCause by_ v => Sys2Proof.Machine.execClearCause by_ v s
  | .coreResetReq by_ v => Sys2Proof.Machine.execCoreResetReq by_ v s
  | .secWarmRequest => Sys2Proof.Machine.execSecWarmRequest s
  | .deferredColdReset => Sys2Proof.Machine.execDeferredColdReset s
  | .corePowerRestart => Sys2Proof.Machine.execCorePowerRestart s
  | .nop o => Sys2Proof.Machine.execNop o s
  | .wait o => Sys2Proof.Machine.execWait o s
  | .branch o taken target => Sys2Proof.Machine.execBranch o taken target s
  | .loop o again target => Sys2Proof.Machine.execLoop o again target s
  | .setshape o m n k => Sys2Proof.Machine.execSetshape o m n k s
  | .yield o => Sys2Proof.Machine.execYield o s
  | .endProgram o => Sys2Proof.Machine.execEndProgram o s
  | .mma o bank => Sys2Proof.Machine.execMma o bank s
  | .stacc o bank => Sys2Proof.Machine.execStacc o bank s
  | .clracc o bank => Sys2Proof.Machine.execClracc o bank s
  | .vectorArithmetic o op n => Sys2Proof.Machine.execVectorArithmetic o op n s
  | .vectorDivSqrt o sqrt n => Sys2Proof.Machine.execVectorDivSqrt o sqrt n s
  | .vectorTranscendental o op n => Sys2Proof.Machine.execVectorTranscendental o op n s
  | .vectorInteger o op n => Sys2Proof.Machine.execVectorInteger o op n s
  | .vectorConvert o n => Sys2Proof.Machine.execVectorConvert o n s
  | .reduce o op n => Sys2Proof.Machine.execReduce o op n s
  | .gather o n => Sys2Proof.Machine.execGather o n s
  | .scatter o n => Sys2Proof.Machine.execScatter o n s
  | .treebatch o v nf => Sys2Proof.Machine.execTreebatch o v nf s
  | .treecfg o cfg => Sys2Proof.Machine.execTreecfg o cfg s
  | .copy o da sa len => Sys2Proof.Machine.execCopy o da sa len s
  | .copy2d o da sa len rows dstr sstr => Sys2Proof.Machine.execCopy2d o da sa len rows dstr sstr s
  | .signal o l => Sys2Proof.Machine.execSignal o l s
  | .waitsig o => Sys2Proof.Machine.execWaitsig o s
  | .reservedOpc o opc => Sys2Proof.Machine.execReservedOpc o opc s
  | .tileApertureWrite t off w v => Sys2Proof.Machine.execTileApertureWrite t off w v s
  | .tileApertureRead t off w => Sys2Proof.Machine.execTileApertureRead t off w s
  | .loaderLoad => Sys2Proof.Machine.execLoaderLoad s
  | .slotCommit n => Sys2Proof.Machine.execSlotCommit n s
  | .slotCtrlRetire n => Sys2Proof.Machine.execSlotCtrlRetire n s
  | .slotInvoke n => Sys2Proof.Machine.execSlotInvoke n s
  | .slotTimerTick n => Sys2Proof.Machine.execSlotTimerTick n s
  | .invocationCommit n outs => Sys2Proof.Machine.execInvocationCommit n outs s
  | .invocationWatchdog n => Sys2Proof.Machine.execInvocationWatchdog n s
  | .tileHeartbeatAdvance t => Sys2Proof.Machine.execTileHeartbeatAdvance t s
  | .cccHeartbeatCheck c pass => Sys2Proof.Machine.execCccHeartbeatCheck c pass s
  | .reserveSelfTest c pass => Sys2Proof.Machine.execReserveSelfTest c pass s
  | .tileRowRemap t row => Sys2Proof.Machine.execTileRowRemap t row s
  | .tileFault t kind pass => Sys2Proof.Machine.execTileFault t kind pass s
  | .injectFatal t pass => Sys2Proof.Machine.execInjectFatal t pass s
  | .tileSrSeedWrite t seed => Sys2Proof.Machine.execTileSrSeedWrite t seed s
  | .bootTileSelfTest c good => Sys2Proof.Machine.execBootTileSelfTest c good s
  | .vlEnWrite on => Sys2Proof.Machine.execVlEnWrite on s
  | .linkEnWrite n on => Sys2Proof.Machine.execLinkEnWrite n on s
  | .forceFail n => Sys2Proof.Machine.execForceFail n s
  | .retrain n => Sys2Proof.Machine.execRetrain n s
  | .detectEnd n beacon => Sys2Proof.Machine.execDetectEnd n beacon s
  | .eqComplete n => Sys2Proof.Machine.execEqComplete n s
  | .frameLock n => Sys2Proof.Machine.execFrameLock n s
  | .param n p => Sys2Proof.Machine.execParam n p s
  | .trainingStateTimeout n => Sys2Proof.Machine.execTrainingStateTimeout n s
  | .standbyRefresh n relocked => Sys2Proof.Machine.execStandbyRefresh n relocked s
  | .pcsFrameReceive n symErrs => Sys2Proof.Machine.execPcsFrameReceive n symErrs s
  | .lossOfSignal n => Sys2Proof.Machine.execLossOfSignal n s
  | .dataFlitReceive n f => Sys2Proof.Machine.execDataFlitReceive n f s
  | .idle n ack => Sys2Proof.Machine.execIdle n ack s
  | .status n ack credits => Sys2Proof.Machine.execStatus n ack credits s
  | .nak n seq => Sys2Proof.Machine.execNak n seq s
  | .replayMark n seq => Sys2Proof.Machine.execReplayMark n seq s
  | .nakResendTimeout n => Sys2Proof.Machine.execNakResendTimeout n s
  | .ackTimeout n => Sys2Proof.Machine.execAckTimeout n s
  | .replayRateWindowEnd n => Sys2Proof.Machine.execReplayRateWindowEnd n s
  | .roleFailed n pos role rxseq => Sys2Proof.Machine.execRoleFailed n pos role rxseq s
  | .roleFailedAck n pos rxseq => Sys2Proof.Machine.execRoleFailedAck n pos rxseq s
  | .roleAssume n role rxseq => Sys2Proof.Machine.execRoleAssume n role rxseq s
  | .roleAssumeAck n role rxseq => Sys2Proof.Machine.execRoleAssumeAck n role rxseq s
  | .roleResendTimeout a => Sys2Proof.Machine.execRoleResendTimeout a s
  | .vlAccRoleWrite a ag v => Sys2Proof.Machine.execVlAccRoleWrite a ag v s
  | .tsyncExchange a => Sys2Proof.Machine.execTsyncExchange a s
  | .tsyncFollow a => Sys2Proof.Machine.execTsyncFollow a s
  | .tsyncDreq a times offset path locked => Sys2Proof.Machine.execTsyncDreq a times offset path locked s
  | .pairRsp a v => Sys2Proof.Machine.execPairRsp a v s
  | .pairRspTimeout a => Sys2Proof.Machine.execPairRspTimeout a s
  | .bindOkWrite a on => Sys2Proof.Machine.execBindOkWrite a on s
  | .forceSideband a on => Sys2Proof.Machine.execForceSideband a on s
  | .prsntEdge a asserted => Sys2Proof.Machine.execPrsntEdge a asserted s
  | .opArrive src q => Sys2Proof.Machine.execOpArrive src q s
  | .opWait src q => Sys2Proof.Machine.execOpWait src q s
  | .opAdd src q => Sys2Proof.Machine.execOpAdd src q s
  | .opFetchAdd src q => Sys2Proof.Machine.execOpFetchAdd src q s
  | .opCas src q => Sys2Proof.Machine.execOpCas src q s
  | .opSet src q => Sys2Proof.Machine.execOpSet src q s
  | .opReset src q => Sys2Proof.Machine.execOpReset src q s
  | .opReserved src op q => Sys2Proof.Machine.execOpReserved src op q s
  | .syncWaitTimeout => Sys2Proof.Machine.execSyncWaitTimeout s
  | .sobHopGo cmd => Sys2Proof.Machine.execSobHopGo cmd s
  | .syncWindowRead off w => Sys2Proof.Machine.execSyncWindowRead off w s
  | .syncWindowWrite off v => Sys2Proof.Machine.execSyncWindowWrite off v s
  | .sobWaitersWrite => Sys2Proof.Machine.execSobWaitersWrite s
  | .sobEnWrite ag on => Sys2Proof.Machine.execSobEnWrite ag on s
  | .contribHeader n p => Sys2Proof.Machine.execContribHeader n p s
  | .contrib n p => Sys2Proof.Machine.execContrib n p s
  | .contribLast n p => Sys2Proof.Machine.execContribLast n p s
  | .instanceReduction c => Sys2Proof.Machine.execInstanceReduction c s
  | .instanceFinish c => Sys2Proof.Machine.execInstanceFinish c s
  | .abort a p => Sys2Proof.Machine.execAbort a p s
  | .instanceTimeout c => Sys2Proof.Machine.execInstanceTimeout c s
  | .brdIcontrib ag v => Sys2Proof.Machine.execBrdIcontrib ag v s
  | .brdEnWrite ag on => Sys2Proof.Machine.execBrdEnWrite ag on s
  | .fastSample x => Sys2Proof.Machine.execFastSample x s
  | .limiterWindowEnd => Sys2Proof.Machine.execLimiterWindowEnd s
  | .budgetProposal b => Sys2Proof.Machine.execBudgetProposal b s
  | .capForceExpiry g => Sys2Proof.Machine.execCapForceExpiry g s
  | .pstateRequest a p => Sys2Proof.Machine.execPstateRequest a p s
  | .pstateAck a p => Sys2Proof.Machine.execPstateAck a p s
  | .pstateAckTimeout a => Sys2Proof.Machine.execPstateAckTimeout a s
  | .voltageSettleDone a => Sys2Proof.Machine.execVoltageSettleDone a s
  | .fillerAck a p => Sys2Proof.Machine.execFillerAck a p s
  | .ptabValidWrite a on => Sys2Proof.Machine.execPtabValidWrite a on s
  | .dvfsFaultClear a => Sys2Proof.Machine.execDvfsFaultClear a s
  | .droopClearExpiry a => Sys2Proof.Machine.execDroopClearExpiry a s
  | .droopHoldExpiry a => Sys2Proof.Machine.execDroopHoldExpiry a s
  | .checkTrigger t active => Sys2Proof.Machine.execCheckTrigger t active s
  | .checkForceWrite v => Sys2Proof.Machine.execCheckForceWrite v s
  | .checkEnWrite v => Sys2Proof.Machine.execCheckEnWrite v s
  | .checkLatchClear v => Sys2Proof.Machine.execCheckLatchClear v s
  | .checkAutoRelease t => Sys2Proof.Machine.execCheckAutoRelease t s
  | .mateTrigger coolFail => Sys2Proof.Machine.execMateTrigger coolFail s
  | .matePowerdownStart => Sys2Proof.Machine.execMatePowerdownStart s
  | .mateClear v => Sys2Proof.Machine.execMateClear v s
  | .prerampTimer g => Sys2Proof.Machine.execPrerampTimer g s
  | .guardbandLead g => Sys2Proof.Machine.execGuardbandLead g s
  | .guardbandHoldEnd g => Sys2Proof.Machine.execGuardbandHoldEnd g s
  | .sbLimitWrite a r => Sys2Proof.Machine.execSbLimitWrite a r s
  | .sbLimitRefresh a => Sys2Proof.Machine.execSbLimitRefresh a s
  | .sbLimitRetry a r => Sys2Proof.Machine.execSbLimitRetry a r s
  | .ledgerFrameEnd => Sys2Proof.Machine.execLedgerFrameEnd s
  | .tlmEnWrite on => Sys2Proof.Machine.execTlmEnWrite on s
  | .tlm a p => Sys2Proof.Machine.execTlm a p s
  | .frameRecordWrite => Sys2Proof.Machine.execFrameRecordWrite s
  | .policyInputCopy => Sys2Proof.Machine.execPolicyInputCopy s
  | .replayBlockStart => Sys2Proof.Machine.execReplayBlockStart s
  | .shadowLoad => Sys2Proof.Machine.execShadowLoad s
  | .gateEvaluation => Sys2Proof.Machine.execGateEvaluation s
  | .promotionSwitch => Sys2Proof.Machine.execPromotionSwitch s
  | .rollbackTimerExpiry => Sys2Proof.Machine.execRollbackTimerExpiry s
  | .oroCtrlRollback => Sys2Proof.Machine.execOroCtrlRollback s
  | .bringupOn => Sys2Proof.Machine.execBringupOn s
  | .bringupOff => Sys2Proof.Machine.execBringupOff s
  | .crystalStable => Sys2Proof.Machine.execCrystalStable s
  | .startPermitted => Sys2Proof.Machine.execStartPermitted s
  | .hotswapFault cause => Sys2Proof.Machine.execHotswapFault cause s
  | .hswOn => Sys2Proof.Machine.execHswOn s
  | .hswLimitEntry => Sys2Proof.Machine.execHswLimitEntry s
  | .hswLimitExit => Sys2Proof.Machine.execHswLimitExit s
  | .soaIntegrate vds vs => Sys2Proof.Machine.execSoaIntegrate vds vs s
  | .hswCoolEnd => Sys2Proof.Machine.execHswCoolEnd s
  | .uvFault => Sys2Proof.Machine.execUvFault s
  | .uvRestore => Sys2Proof.Machine.execUvRestore s
  | .seqCommit by_ => Sys2Proof.Machine.execSeqCommit by_ s
  | .domainRequest dom on => Sys2Proof.Machine.execDomainRequest dom on s
  | .delayOnExpiry n => Sys2Proof.Machine.execDelayOnExpiry n s
  | .powerGoodChange n good => Sys2Proof.Machine.execPowerGoodChange n good s
  | .qualComplete n => Sys2Proof.Machine.execQualComplete n s
  | .rampTimeout n => Sys2Proof.Machine.execRampTimeout n s
  | .qualTimeout n => Sys2Proof.Machine.execQualTimeout n s
  | .drainComplete n => Sys2Proof.Machine.execDrainComplete n s
  | .fallTimeout n => Sys2Proof.Machine.execFallTimeout n s
  | .railFailedClear n => Sys2Proof.Machine.execRailFailedClear n s
  | .prsntRemoved a => Sys2Proof.Machine.execPrsntRemoved a s
  | .prsntQualified a => Sys2Proof.Machine.execPrsntQualified a s
  | .resetStretchDone k => Sys2Proof.Machine.execResetStretchDone k s
  | .rstHoldWrite hold => Sys2Proof.Machine.execRstHoldWrite hold s
  | .selfRailRetry => Sys2Proof.Machine.execSelfRailRetry s
  | .coldRestartDelay => Sys2Proof.Machine.execColdRestartDelay s
  | .coolCommit by_ => Sys2Proof.Machine.execCoolCommit by_ s
  | .fanWindowStart n => Sys2Proof.Machine.execFanWindowStart n s
  | .tachEdge n => Sys2Proof.Machine.execTachEdge n s
  | .fanWindowEnd n => Sys2Proof.Machine.execFanWindowEnd n s
  | .fanTargetWrite n rpm => Sys2Proof.Machine.execFanTargetWrite n rpm s
  | .kickExpiry n => Sys2Proof.Machine.execKickExpiry n s
  | .kickGapEnd n => Sys2Proof.Machine.execKickGapEnd n s
  | .fanFailedClear n => Sys2Proof.Machine.execFanFailedClear n s
  | .reserveFanTest r => Sys2Proof.Machine.execReserveFanTest r s
  | .reserveTestEnd r => Sys2Proof.Machine.execReserveTestEnd r s
  | .fanCommission by_ n => Sys2Proof.Machine.execFanCommission by_ n s
  | .commissionTimeout n => Sys2Proof.Machine.execCommissionTimeout n s
  | .pumpMeasurement p t => Sys2Proof.Machine.execPumpMeasurement p t s
  | .pumpTargetWrite p rpm => Sys2Proof.Machine.execPumpTargetWrite p rpm s
  | .pumpFailedClear p => Sys2Proof.Machine.execPumpFailedClear p s
  | .flowEdge l => Sys2Proof.Machine.execFlowEdge l s
  | .flowWindowEvaluation l => Sys2Proof.Machine.execFlowWindowEvaluation l s
  | .loopFaultClear l => Sys2Proof.Machine.execLoopFaultClear l s
  | .leakReport r => Sys2Proof.Machine.execLeakReport r s
  | .leakLatchClear z => Sys2Proof.Machine.execLeakLatchClear z s
  | .tdConversion n temp fault => Sys2Proof.Machine.execTdConversion n temp fault s
  | .coolModeWrite by_ m => Sys2Proof.Machine.execCoolModeWrite by_ m s
  | .coolModeTimeout => Sys2Proof.Machine.execCoolModeTimeout s
  | .hbmSoftRepair row room => Sys2Proof.Machine.execHbmSoftRepair row room s
  | .adcScan r0 r1 r2 r3 spare => Sys2Proof.Machine.execAdcScan r0 r1 r2 r3 spare s
  | .adcSample ch code => Sys2Proof.Machine.execAdcSample ch code s
  | .chkOscFailure => Sys2Proof.Machine.execChkOscFailure s
  | .watchdogKick k period => Sys2Proof.Machine.execWatchdogKick k period s
  | .watchdogExpiry k => Sys2Proof.Machine.execWatchdogExpiry k s
  | .endgameIdent => Sys2Proof.Machine.execEndgameIdent s
  | .endgameState => Sys2Proof.Machine.execEndgameState s
  | .endgameResetCause => Sys2Proof.Machine.execEndgameResetCause s
  | .endgameRails => Sys2Proof.Machine.execEndgameRails s
  | .endgameSupply => Sys2Proof.Machine.execEndgameSupply s
  | .endgameProtect => Sys2Proof.Machine.execEndgameProtect s
  | .endgameCooling => Sys2Proof.Machine.execEndgameCooling s
  | .endgameRecorder => Sys2Proof.Machine.execEndgameRecorder s
  | .goldenExit => Sys2Proof.Machine.execGoldenExit s
  | .endgameAutoExit => Sys2Proof.Machine.execEndgameAutoExit s
  | .romBoot golden => Sys2Proof.Machine.execRomBoot golden s
  | .updateEraseComplete ok => Sys2Proof.Machine.execUpdateEraseComplete ok s
  | .updateSessionTimeout => Sys2Proof.Machine.execUpdateSessionTimeout s
  | .activationRelease => Sys2Proof.Machine.execActivationRelease s
  | .autoConfirm => Sys2Proof.Machine.execAutoConfirm s
  | .confirmTimeout => Sys2Proof.Machine.execConfirmTimeout s
  | .wake golden scrubOk => Sys2Proof.Machine.execWake golden scrubOk s
  | .spdmGetVersion ch => Sys2Proof.Machine.execSpdmGetVersion ch s
  | .spdmGetCapabilities ch => Sys2Proof.Machine.execSpdmGetCapabilities ch s
  | .spdmNegotiateAlgorithms ch p384 sha384 => Sys2Proof.Machine.execSpdmNegotiateAlgorithms ch p384 sha384 s
  | .spdmGetDigests ch => Sys2Proof.Machine.execSpdmGetDigests ch s
  | .spdmGetCertificate ch slot off len => Sys2Proof.Machine.execSpdmGetCertificate ch slot off len s
  | .spdmChallenge ch nonce => Sys2Proof.Machine.execSpdmChallenge ch nonce s
  | .spdmGetMeasurements ch index nonce => Sys2Proof.Machine.execSpdmGetMeasurements ch index nonce s
  | .spdmUnsupportedRequest ch => Sys2Proof.Machine.execSpdmUnsupportedRequest ch s
  | .setEndpointId ch eid => Sys2Proof.Machine.execSetEndpointId ch eid s
  | .getEndpointId ch => Sys2Proof.Machine.execGetEndpointId ch s
  | .getEndpointUuid ch => Sys2Proof.Machine.execGetEndpointUuid ch s
  | .getMctpVersionSupport ch ty => Sys2Proof.Machine.execGetMctpVersionSupport ch ty s
  | .getMessageTypeSupport ch => Sys2Proof.Machine.execGetMessageTypeSupport ch s
  | .mbxUnknownOpcode op q => Sys2Proof.Machine.execMbxUnknownOpcode op q s
  | .getVersion q => Sys2Proof.Machine.execGetVersion q s
  | .getIdentity q => Sys2Proof.Machine.execGetIdentity q s
  | .getStatus q => Sys2Proof.Machine.execGetStatus q s
  | .heartbeat q => Sys2Proof.Machine.execHeartbeat q s
  | .getResetCause q => Sys2Proof.Machine.execGetResetCause q s
  | .getTime q => Sys2Proof.Machine.execGetTime q s
  | .getOpcodes q => Sys2Proof.Machine.execGetOpcodes q s
  | .releaseLease q => Sys2Proof.Machine.execReleaseLease q s
  | .setTrayCap q => Sys2Proof.Machine.execSetTrayCap q s
  | .getPower q => Sys2Proof.Machine.execGetPower q s
  | .setStaticBudgets q => Sys2Proof.Machine.execSetStaticBudgets q s
  | .setAccMax q => Sys2Proof.Machine.execSetAccMax q s
  | .setCheckForce q => Sys2Proof.Machine.execSetCheckForce q s
  | .clearCheckLatch q => Sys2Proof.Machine.execClearCheckLatch q s
  | .clearMate q => Sys2Proof.Machine.execClearMate q s
  | .setShaping q => Sys2Proof.Machine.execSetShaping q s
  | .clockOpen q => Sys2Proof.Machine.execClockOpen q s
  | .clockBind q => Sys2Proof.Machine.execClockBind q s
  | .clockUnbind q => Sys2Proof.Machine.execClockUnbind q s
  | .clockClose q => Sys2Proof.Machine.execClockClose q s
  | .clockFree q => Sys2Proof.Machine.execClockFree q s
  | .clockRead q => Sys2Proof.Machine.execClockRead q s
  | .addTokens q => Sys2Proof.Machine.execAddTokens q s
  | .signStatement q => Sys2Proof.Machine.execSignStatement q s
  | .domainSet q => Sys2Proof.Machine.execDomainSet q s
  | .getSeq q => Sys2Proof.Machine.execGetSeq q s
  | .railClear q => Sys2Proof.Machine.execRailClear q s
  | .resetHold q => Sys2Proof.Machine.execResetHold q s
  | .deepSleep q => Sys2Proof.Machine.execDeepSleep q s
  | .getCooling q => Sys2Proof.Machine.execGetCooling q s
  | .setZoneFloor q => Sys2Proof.Machine.execSetZoneFloor q s
  | .setCoolMode q => Sys2Proof.Machine.execSetCoolMode q s
  | .commissionFan q => Sys2Proof.Machine.execCommissionFan q s
  | .clearCoolFault q => Sys2Proof.Machine.execClearCoolFault q s
  | .pkgBegin q => Sys2Proof.Machine.execPkgBegin q s
  | .pkgData q => Sys2Proof.Machine.execPkgData q s
  | .pkgLoad q => Sys2Proof.Machine.execPkgLoad q s
  | .slotRetire q => Sys2Proof.Machine.execSlotRetire q s
  | .slotQuery q => Sys2Proof.Machine.execSlotQuery q s
  | .oroSet q => Sys2Proof.Machine.execOroSet q s
  | .oroRollback q => Sys2Proof.Machine.execOroRollback q s
  | .oroQuery q => Sys2Proof.Machine.execOroQuery q s
  | .groupCreate q => Sys2Proof.Machine.execGroupCreate q s
  | .groupDelete q => Sys2Proof.Machine.execGroupDelete q s
  | .groupPolicy q => Sys2Proof.Machine.execGroupPolicy q s
  | .objAlloc q => Sys2Proof.Machine.execObjAlloc q s
  | .objFree q => Sys2Proof.Machine.execObjFree q s
  | .ctxCreate q => Sys2Proof.Machine.execCtxCreate q s
  | .ctxDelete q => Sys2Proof.Machine.execCtxDelete q s
  | .castle q => Sys2Proof.Machine.execCastle q s
  | .accConfig q => Sys2Proof.Machine.execAccConfig q s
  | .getAcc q => Sys2Proof.Machine.execGetAcc q s
  | .tlmFrames q => Sys2Proof.Machine.execTlmFrames q s
  | .logConfig q => Sys2Proof.Machine.execLogConfig q s
  | .logRead q => Sys2Proof.Machine.execLogRead q s
  | .traceSet q => Sys2Proof.Machine.execTraceSet q s
  | .updateBegin q => Sys2Proof.Machine.execUpdateBegin q s
  | .updateData q => Sys2Proof.Machine.execUpdateData q s
  | .updateCommit q => Sys2Proof.Machine.execUpdateCommit q s
  | .updateCancel q => Sys2Proof.Machine.execUpdateCancel q s
  | .updateActivate q => Sys2Proof.Machine.execUpdateActivate q s
  | .updateConfirm q => Sys2Proof.Machine.execUpdateConfirm q s
  | .updateReject q => Sys2Proof.Machine.execUpdateReject q s
  | .updateStatus q => Sys2Proof.Machine.execUpdateStatus q s
  | .getNonce q => Sys2Proof.Machine.execGetNonce q s
  | .ownerKeyAdd q => Sys2Proof.Machine.execOwnerKeyAdd q s
  | .ownerKeyRevoke q => Sys2Proof.Machine.execOwnerKeyRevoke q s
  | .modelKeyEnrol q => Sys2Proof.Machine.execModelKeyEnrol q s
  | .debugToken q => Sys2Proof.Machine.execDebugToken q s
  | .echo q => Sys2Proof.Machine.execEcho q s
  | .freeze q => Sys2Proof.Machine.execFreeze q s
  | .ffrArchive q => Sys2Proof.Machine.execFfrArchive q s
  | .mbxChDone c => Sys2Proof.Machine.execMbxChDone c s
  | .completionWrite => Sys2Proof.Machine.execCompletionWrite s
  | .replyTimeout => Sys2Proof.Machine.execReplyTimeout s
  | .leaseExpiry => Sys2Proof.Machine.execLeaseExpiry s
  | .leaseWarning => Sys2Proof.Machine.execLeaseWarning s
  | .tracePoint n core arg => Sys2Proof.Machine.execTracePoint n core arg s
  | .logRecord core level code args => Sys2Proof.Machine.execLogRecord core level code args s
  | .cqPktOpen q writer => Sys2Proof.Machine.execCqPktOpen q writer s
  | .cqWrData q writer v => Sys2Proof.Machine.execCqWrData q writer v s
  | .cqPktClose q writer lastBytes => Sys2Proof.Machine.execCqPktClose q writer lastBytes s
  | .cqWrFirst q writer v => Sys2Proof.Machine.execCqWrFirst q writer v s
  | .cqLingerExpiry q => Sys2Proof.Machine.execCqLingerExpiry q s
  | .cqRdTag q => Sys2Proof.Machine.execCqRdTag q s
  | .cqNoticeAck q n => Sys2Proof.Machine.execCqNoticeAck q n s
  | .flush q => Sys2Proof.Machine.execFlush q s
  | .cqMarkSet q => Sys2Proof.Machine.execCqMarkSet q s
  | .rewind q => Sys2Proof.Machine.execRewind q s
  | .traceUnitSend => Sys2Proof.Machine.execTraceUnitSend s
  | .ffrEvent rank cls code payload => Sys2Proof.Machine.execFfrEvent rank cls code payload s
  | .ffrAppend => Sys2Proof.Machine.execFfrAppend s
  | .ffrPause on => Sys2Proof.Machine.execFfrPause on s
  | .ffrPauseExpiry => Sys2Proof.Machine.execFfrPauseExpiry s
  | .ffrClear key => Sys2Proof.Machine.execFfrClear key s
  | .recorderArchive ok => Sys2Proof.Machine.execRecorderArchive ok s
  | .crcAlgWrite k alg => Sys2Proof.Machine.execCrcAlgWrite k alg s
  | .crcInit k => Sys2Proof.Machine.execCrcInit k s
  | .crcValueWrite k v => Sys2Proof.Machine.execCrcValueWrite k v s
  | .crcData k w v => Sys2Proof.Machine.execCrcData k w v s
  | .snapshotTrigger sources => Sys2Proof.Machine.execSnapshotTrigger sources s
  | .snapTriggerWrite => Sys2Proof.Machine.execSnapTriggerWrite s
  | .freezePin => Sys2Proof.Machine.execFreezePin s
  | .snapshotCopyDone => Sys2Proof.Machine.execSnapshotCopyDone s
  | .snapArm => Sys2Proof.Machine.execSnapArm s
  | .quickWrite n t r => Sys2Proof.Machine.execQuickWrite n t r s
  | .quickRead n t r => Sys2Proof.Machine.execQuickRead n t r s
  | .sendByte n t r => Sys2Proof.Machine.execSendByte n t r s
  | .receiveByte n t r => Sys2Proof.Machine.execReceiveByte n t r s
  | .writeByte n t r => Sys2Proof.Machine.execWriteByte n t r s
  | .writeWord n t r => Sys2Proof.Machine.execWriteWord n t r s
  | .readByte n t r => Sys2Proof.Machine.execReadByte n t r s
  | .readWord n t r => Sys2Proof.Machine.execReadWord n t r s
  | .blockWrite n t r => Sys2Proof.Machine.execBlockWrite n t r s
  | .blockRead n t r => Sys2Proof.Machine.execBlockRead n t r s
  | .processCall n t r => Sys2Proof.Machine.execProcessCall n t r s
  | .blockProcessCall n t r => Sys2Proof.Machine.execBlockProcessCall n t r s
  | .reservedDescriptorType n ty t => Sys2Proof.Machine.execReservedDescriptorType n ty t s
  | .clockStretchTimeout n => Sys2Proof.Machine.execClockStretchTimeout n s
  | .arbitrationLost n addressed => Sys2Proof.Machine.execArbitrationLost n addressed s
  | .arbitrationRetry n r => Sys2Proof.Machine.execArbitrationRetry n r s
  | .alertAssert src level => Sys2Proof.Machine.execAlertAssert src level s
  | .araRead n resp => Sys2Proof.Machine.execAraRead n resp s
  | .alertUnmask n => Sys2Proof.Machine.execAlertUnmask n s
  | .stuckBus n sclLow freed => Sys2Proof.Machine.execStuckBus n sclLow freed s
  | .segpwrOffEnd n => Sys2Proof.Machine.execSegpwrOffEnd n s
  | .segpwrOnEnd n linesHigh => Sys2Proof.Machine.execSegpwrOnEnd n linesHigh s
  | .avsWriteCommit a mv => Sys2Proof.Machine.execAvsWriteCommit a mv s
  | .avsReadTelemetry a what => Sys2Proof.Machine.execAvsReadTelemetry a what s
  | .avsReadStatus a => Sys2Proof.Machine.execAvsReadStatus a s
  | .avsWriteStatus a v => Sys2Proof.Machine.execAvsWriteStatus a v s
  | .avsResponse a ack data crcOk => Sys2Proof.Machine.execAvsResponse a ack data crcOk s
  | .avsBusyWaitEnd a => Sys2Proof.Machine.execAvsBusyWaitEnd a s
  | .avsStatusAlert a => Sys2Proof.Machine.execAvsStatusAlert a s
  | .crystalStartTimeout => Sys2Proof.Machine.execCrystalStartTimeout s
  | .commissionINomMeasured n => Sys2Proof.Machine.execCommissionINomMeasured n s
  | .reservedLct n lct => Sys2Proof.Machine.execReservedLct n lct s
  | .mctpMessageDiscard ch failed => Sys2Proof.Machine.execMctpMessageDiscard ch failed s
  | .endgameUnknownCommand cmd => Sys2Proof.Machine.execEndgameUnknownCommand cmd s
  | .jtagBypass => Sys2Proof.Machine.execJtagBypass s
  | .jtagIdcode => Sys2Proof.Machine.execJtagIdcode s
  | .jtagSamplePreload balls cells => Sys2Proof.Machine.execJtagSamplePreload balls cells s
  | .jtagExtest balls cells => Sys2Proof.Machine.execJtagExtest balls cells s
  | .jtagClamp => Sys2Proof.Machine.execJtagClamp s
  | .jtagHighz => Sys2Proof.Machine.execJtagHighz s
  | .jtagDebug => Sys2Proof.Machine.execJtagDebug s

end Sys2Proof.Machine
end

