-- ==== Sys2Proof/Machine/Tick.lean ====
section
/-! DEFINITION. Time (spec/01 R29, R33): what one tick does to the two timestamps. -/

namespace Sys2Proof.Machine

/-- One tick: a SYS cycle, with AONT following GTS, while the SYS domain runs; otherwise an AON cycle of 40 ns. -/
def Dev.tick (d : Dev) : Dev :=
  if d.sysOn then { d with gts := d.gts + 1, aont := d.gts + 1 } else { d with aont := d.aont + 40 }

end Sys2Proof.Machine
end

