-- ==== Sys2Proof/Safety.lean ====
section
/-! DEFINITION. What a sound state is, in the terms the statements use: the two timestamps agree, memory and registers are in their
canonical form. -/

namespace Sys2Proof.Machine

/-- The two timestamps (R30, R33): GTS is never ahead of AONT, and equals it while the SYS domain runs. -/
def Dev.clockOk (d : Dev) : Bool := d.gts ≤ d.aont && (!d.sysOn || d.gts = d.aont)

/-- Registers in their canonical form: each address once, rising, none listed at its reset word. -/
def Dev.regsOk (d : Dev) : Bool := twf regReset d.regs

/-- The invariant every step keeps: the timestamps agree, memory and registers are canonical, so that equal machines are equal
data. -/
structure Dev.Inv (d : Dev) : Prop where
  clock : d.clockOk = true
  mem : Memory.wf d.mem = true
  regs : d.regsOk = true

/-! ### Mailbox requests, as the statements speak of them -/

/-- The device once a request has arrived: on a W0 channel its bytes are in the request buffer and the doorbell is rung (R440). -/
def Dev.arrived (d : Dev) (op : Nat) (q : MbxReq) : Dev :=
  if q.ch.val < 4 then
    ((d.stn (.req q.ch) 0 ((q.bytes op).take 4128)).wr F.MBX_CH_STATUS_TAG q.ch q.tag.toNat).wr F.MBX_CH_STATUS_STATE q.ch 1
  else d

/-- A request that is taken and carried out: the link is up, its channel is free (W0) or its transport holds fewer than four requests,
no check of R443 refuses it, and the core that carries it out runs. -/
def Dev.admits (d : Dev) (o : MbxOp) (q : MbxReq) : Bool :=
  d.linkUp &&
  (if q.ch.val < 4 then d.rd F.MBX_CH_STATUS_STATE q.ch = 0 else (d.mbx.held.filter fun (h : Held) => h.ch = q.ch.val).length < 4) &&
  (d.arrived o.op q).mbxCheck o true q = none &&
  (d.arrived o.op q).coreUp (if o.op / 256 = 0 then (d.arrived o.op q).mbxServer else o.core)

/-- The reply `r` to request `q` leaves. -/
def Dev.answer (d : Dev) (op : Nat) (q : MbxReq) (r : Rep) : Dev := d.reply q.ch op q.tag.toNat q.minorOut q.hasCrc r

/-- An opcode that no table lists (R446). -/
def unknownOp (op : Nat) : MbxOp :=
  { op := op, lease := false, core := coreSch, len := fun _ => true, body := fun d _ => (.of msBadOpcode, d) }

/-! ### Limiter windows, sync operations and trains, as the statements speak of them -/

/-- The device once the hub has taken an OP_REQ: its receive buffer is freed. -/
def Dev.syncTook (d : Dev) (src op : Nat) (q : SyncReq) : Dev := if src < 8 then d.takeRx src vcSync 0 (SyncReqPay op q) else d

/-- The checks of R177 pass for operation `op` (0 to 6) from source `src`, which acts as member `m`. -/
def Dev.syncAllowed (d : Dev) (src m op : Nat) (q : SyncReq) : Bool :=
  let h := q.handle.toNat
  let o := d.obj (hIndex h)
  op < 7 && (8 ≤ src || (d.paired src && d.rd F.SOB_SRC_OUTSTANDING src < 24)) && d.is F.SOB_CTRL_EN &&
    (d.rd F.GRP_CTRL_STATE (hGroup h) = 1 || d.rd F.GRP_CTRL_STATE (hGroup h) = 2) && d.memberOf src (hGroup h) = some m &&
    d.validH h && o.poison = 0 && o.check op q.cond.toNat q.w q.operand.toNat (!(d.waitersOf (hIndex h)).isEmpty) = 0

/-- The object a handle names, and what operation `op` of member `m` does to it. -/
def Dev.syncEff (d : Dev) (m op : Nat) (q : SyncReq) : Eff :=
  (d.obj (hIndex q.handle.toNat)).apply op q.cond.toNat q.w q.operand.toNat m (!(d.waitersOf (hIndex q.handle.toNat)).isEmpty)

/-- Whether an operation that left `o` as `o'` serves the object's waiters (R182). -/
def servesWaiters (op : Nat) (o o' : Obj) : Bool :=
  op ≠ opWait && (o'.ty = tySem && (op = opAdd || op = opFetchAdd || op = opSet) || o'.value ≠ o.value || o'.word1 ≠ o.word1)

/-- The waiter table has room for one more waiter of `src` on the object of handle `h`. -/
def Dev.waiterRoom (d : Dev) (src h : Nat) : Bool :=
  d.sob.waiters.length < 16384 && (d.sob.waiters.filter fun y => y.src = src).length < 2048 && (d.waitersOf (hIndex h)).length < 64

/-- Fast channel `f` at the end of a limiter window whose STALE_MAX is `lim` (R380): two windows in a row with more stale samples
declare it failed, and a failed one is substituted from the next window on. -/
def Dev.fastWindow (lim : Nat) (d : Dev) (f : Nat) : Dev :=
  let x := d.fastCh f
  let w := if lim < x.stale then x.staleWins + 1 else 0
  let d := d.fastPut f { x with stale := 0, staleWins := w }
  let d := if 2 ≤ w then d.fastFail f else d
  d.fastPut f { d.fastCh f with subst := (d.fastCh f).failed }

/-- A CONTRIB header is taken as it stands (R214): no train is open on its link, and no check refuses it. -/
def Dev.headerTaken (d : Dev) (n : Nat) (t : Train) : Bool :=
  let x := d.ctxDef t.ctx
  d.trainLink n = n && (d.train n).isNone && d.paired (n / 3) && d.is F.BRD_CTRL_EN && d.ctxValid t.ctx &&
    d.memberOf (n / 3) x.group = some t.member && bitOf x.contrib t.member && d.instCheck t.ctx t.inst = 0 && t.nfl ≠ 0 &&
    t.off + t.nfl ≤ x.cw / 16 && tget (fun _ => 0) (d.binst t.ctx t.inst).claimed t.member &&& unitMask t.off t.nfl = 0

end Sys2Proof.Machine

namespace Sys2Proof

/-- The operands of a tile instruction; none for any other command. -/
def Instr.tileOp : Instr → Option TileOp
  | .nop o => some o
  | .wait o => some o
  | .branch o _ _ => some o
  | .loop o _ _ => some o
  | .setshape o _ _ _ => some o
  | .yield o => some o
  | .endProgram o => some o
  | .mma o _ => some o
  | .stacc o _ => some o
  | .clracc o _ => some o
  | .vectorArithmetic o _ _ => some o
  | .vectorDivSqrt o _ _ => some o
  | .vectorTranscendental o _ _ => some o
  | .vectorInteger o _ _ => some o
  | .vectorConvert o _ => some o
  | .reduce o _ _ => some o
  | .gather o _ => some o
  | .scatter o _ => some o
  | .treebatch o _ _ => some o
  | .treecfg o _ => some o
  | .copy o _ _ _ => some o
  | .copy2d o _ _ _ _ _ _ => some o
  | .signal o _ => some o
  | .waitsig o => some o
  | .reservedOpc o _ => some o
  | _ => none

/-- The mailbox opcode and the request of a command that is a request with a listed opcode; none for any other command. -/
def Instr.request : Instr → Option (Machine.MbxOp × MbxReq)
  | .getVersion q => some (Machine.opGetVersion, q)
  | .getIdentity q => some (Machine.opGetIdentity, q)
  | .getStatus q => some (Machine.opGetStatus, q)
  | .heartbeat q => some (Machine.opHeartbeat, q)
  | .getResetCause q => some (Machine.opGetResetCause, q)
  | .getTime q => some (Machine.opGetTime, q)
  | .getOpcodes q => some (Machine.opGetOpcodes, q)
  | .releaseLease q => some (Machine.opReleaseLease, q)
  | .setTrayCap q => some (Machine.opSetTrayCap, q)
  | .getPower q => some (Machine.opGetPower, q)
  | .setStaticBudgets q => some (Machine.opSetStaticBudgets, q)
  | .setAccMax q => some (Machine.opSetAccMax, q)
  | .setCheckForce q => some (Machine.opSetCheckForce, q)
  | .clearCheckLatch q => some (Machine.opClearCheckLatch, q)
  | .clearMate q => some (Machine.opClearMate, q)
  | .setShaping q => some (Machine.opSetShaping, q)
  | .clockOpen q => some (Machine.opClockOpen, q)
  | .clockBind q => some (Machine.opClockBind, q)
  | .clockUnbind q => some (Machine.opClockUnbind, q)
  | .clockClose q => some (Machine.opClockClose, q)
  | .clockFree q => some (Machine.opClockFree, q)
  | .clockRead q => some (Machine.opClockRead, q)
  | .addTokens q => some (Machine.opAddTokens, q)
  | .signStatement q => some (Machine.opSignStatement, q)
  | .domainSet q => some (Machine.opDomainSet (Machine.pf q.pay 0 2), q)
  | .getSeq q => some (Machine.opGetSeq, q)
  | .railClear q => some (Machine.opRailClear, q)
  | .resetHold q => some (Machine.opResetHold, q)
  | .getCooling q => some (Machine.opGetCooling, q)
  | .setZoneFloor q => some (Machine.opSetZoneFloor, q)
  | .setCoolMode q => some (Machine.opSetCoolMode, q)
  | .commissionFan q => some (Machine.opCommissionFan, q)
  | .clearCoolFault q => some (Machine.opClearCoolFault, q)
  | .pkgBegin q => some (Machine.opPkgBegin, q)
  | .pkgData q => some (Machine.opPkgData, q)
  | .pkgLoad q => some (Machine.opPkgLoad, q)
  | .slotRetire q => some (Machine.opSlotRetire, q)
  | .slotQuery q => some (Machine.opSlotQuery, q)
  | .oroSet q => some (Machine.opOroSet, q)
  | .oroRollback q => some (Machine.opOroRollback, q)
  | .oroQuery q => some (Machine.opOroQuery, q)
  | .groupCreate q => some (Machine.opGroupCreate, q)
  | .groupDelete q => some (Machine.opGroupDelete, q)
  | .groupPolicy q => some (Machine.opGroupPolicy, q)
  | .objAlloc q => some (Machine.opObjAlloc, q)
  | .objFree q => some (Machine.opObjFree, q)
  | .ctxCreate q => some (Machine.opCtxCreate, q)
  | .ctxDelete q => some (Machine.opCtxDelete, q)
  | .castle q => some (Machine.opCastle, q)
  | .accConfig q => some (Machine.opAccConfig, q)
  | .getAcc q => some (Machine.opGetAcc, q)
  | .tlmFrames q => some (Machine.opTlmFrames, q)
  | .logConfig q => some (Machine.opLogConfig, q)
  | .logRead q => some (Machine.opLogRead, q)
  | .traceSet q => some (Machine.opTraceSet, q)
  | .updateBegin q => some (Machine.opUpdateBegin, q)
  | .updateData q => some (Machine.opUpdateData, q)
  | .updateCommit q => some (Machine.opUpdateCommit, q)
  | .updateCancel q => some (Machine.opUpdateCancel, q)
  | .updateActivate q => some (Machine.opUpdateActivate, q)
  | .updateConfirm q => some (Machine.opUpdateConfirm, q)
  | .updateReject q => some (Machine.opUpdateReject, q)
  | .updateStatus q => some (Machine.opUpdateStatus, q)
  | .getNonce q => some (Machine.opGetNonce, q)
  | .ownerKeyAdd q => some (Machine.opOwnerKeyAdd, q)
  | .ownerKeyRevoke q => some (Machine.opOwnerKeyRevoke, q)
  | .modelKeyEnrol q => some (Machine.opModelKeyEnrol, q)
  | .debugToken q => some (Machine.opDebugToken, q)
  | .echo q => some (Machine.opEcho, q)
  | .freeze q => some (Machine.opFreeze, q)
  | .ffrArchive q => some (Machine.opFfrArchive, q)
  | .deepSleep q => some (Machine.opDeepSleep, q)
  | _ => none

/-- A synchronisation operation: its source, its OP code and the request; none for any other command. -/
def Instr.syncReq : Instr → Option (Fin 9 × Nat × SyncReq)
  | .opArrive src q => some (src, Machine.opArrive, q)
  | .opWait src q => some (src, Machine.opWait, q)
  | .opAdd src q => some (src, Machine.opAdd, q)
  | .opFetchAdd src q => some (src, Machine.opFetchAdd, q)
  | .opCas src q => some (src, Machine.opCas, q)
  | .opSet src q => some (src, Machine.opSet, q)
  | .opReset src q => some (src, Machine.opReset, q)
  | .opReserved src op q => some (src, 7 + op, q)
  | _ => none

/-- The commands that store to no memory. -/
def Instr.storesNothing : Instr → Bool
  | .registerWrite _ _ _ _ | .recorderArchive _ => false
  | .counterClearWrite _ _ | .setWriteLock _ | .counterLowRead _ _ | .wideFieldLowWrite _ _ _
  | .wideFieldHighWrite _ _ _ | .hvBridgeTransfer _ _ | .crystalLoss => true
  | .codeWordRead _ _ _ => false
  | .eccWriteback _ _ => true
  | .patrolScrub _ _ _ => false
  | .scrubPeriodMissed _ => true
  | .powerOnReset _ _ _ _ | .coldReset | .warmReset | .pcieReset => false
  | .coldReq _ _ | .warmReq _ _ | .clearCause _ _ => true
  | .coreResetReq _ _ => false
  | .secWarmRequest => true
  | .deferredColdReset | .corePowerRestart | .nop _ | .wait _ | .branch _ _ _ | .loop _ _ _ | .setshape _ _ _ _
  | .yield _ | .endProgram _ | .mma _ _ | .stacc _ _ | .clracc _ _ | .vectorArithmetic _ _ _ | .vectorDivSqrt _ _ _
  | .vectorTranscendental _ _ _ | .vectorInteger _ _ _ | .vectorConvert _ _ | .reduce _ _ _ | .gather _ _ | .scatter _ _
  | .treebatch _ _ _ | .treecfg _ _ | .copy _ _ _ _ | .copy2d _ _ _ _ _ _ _ | .signal _ _ | .waitsig _
  | .reservedOpc _ _ | .tileApertureWrite _ _ _ _ => false
  | .tileApertureRead _ _ _ => true
  | .loaderLoad | .slotCommit _ | .slotCtrlRetire _ => false
  | .slotInvoke _ | .slotTimerTick _ => true
  | .invocationCommit _ _ | .invocationWatchdog _ => false
  | .tileHeartbeatAdvance _ => true
  | .cccHeartbeatCheck _ _ => false
  | .reserveSelfTest _ _ | .tileRowRemap _ _ => true
  | .tileFault _ _ _ | .injectFatal _ _ => false
  | .tileSrSeedWrite _ _ => true
  | .bootTileSelfTest _ _ => false
  | .vlEnWrite _ | .linkEnWrite _ _ | .forceFail _ | .retrain _ | .detectEnd _ _ | .eqComplete _ | .frameLock _
  | .param _ _ | .trainingStateTimeout _ | .standbyRefresh _ _ | .pcsFrameReceive _ _ | .lossOfSignal _
  | .dataFlitReceive _ _ | .idle _ _ | .status _ _ _ | .nak _ _ | .replayMark _ _ | .nakResendTimeout _ | .ackTimeout _
  | .replayRateWindowEnd _ | .roleFailed _ _ _ _ | .roleFailedAck _ _ _ | .roleAssume _ _ _ | .roleAssumeAck _ _ _
  | .roleResendTimeout _ | .vlAccRoleWrite _ _ _ | .tsyncExchange _ | .tsyncFollow _ | .tsyncDreq _ _ _ _ _
  | .pairRsp _ _ | .pairRspTimeout _ | .bindOkWrite _ _ | .forceSideband _ _ | .prsntEdge _ _ | .opArrive _ _
  | .opWait _ _ | .opAdd _ _ | .opFetchAdd _ _ | .opCas _ _ | .opSet _ _ | .opReset _ _ | .opReserved _ _ _
  | .syncWaitTimeout | .sobHopGo _ | .syncWindowRead _ _ | .syncWindowWrite _ _ | .sobWaitersWrite | .sobEnWrite _ _
  | .contribHeader _ _ => true
  | .contrib _ _ | .contribLast _ _ | .instanceReduction _ => false
  | .instanceFinish _ | .abort _ _ | .instanceTimeout _ | .brdIcontrib _ _ | .brdEnWrite _ _ | .fastSample _
  | .limiterWindowEnd | .budgetProposal _ | .capForceExpiry _ | .pstateRequest _ _ | .pstateAck _ _
  | .pstateAckTimeout _ | .voltageSettleDone _ | .fillerAck _ _ | .ptabValidWrite _ _ | .dvfsFaultClear _
  | .droopClearExpiry _ | .droopHoldExpiry _ | .checkTrigger _ _ | .checkForceWrite _ | .checkEnWrite _
  | .checkLatchClear _ | .checkAutoRelease _ | .mateTrigger _ => true
  | .matePowerdownStart | .mateClear _ => false
  | .prerampTimer _ | .guardbandLead _ | .guardbandHoldEnd _ | .sbLimitWrite _ _ | .sbLimitRefresh _ | .sbLimitRetry _ _
  => true
  | .ledgerFrameEnd => false
  | .tlmEnWrite _ | .tlm _ _ => true
  | .frameRecordWrite | .policyInputCopy => false
  | .replayBlockStart => true
  | .shadowLoad => false
  | .gateEvaluation => true
  | .promotionSwitch | .rollbackTimerExpiry | .oroCtrlRollback => false
  | .bringupOn => true
  | .bringupOff => false
  | .crystalStable | .startPermitted => true
  | .hotswapFault _ | .hswOn => false
  | .hswLimitEntry | .hswLimitExit => true
  | .soaIntegrate _ _ => false
  | .hswCoolEnd => true
  | .uvFault | .uvRestore | .seqCommit _ | .domainRequest _ _ | .delayOnExpiry _ | .powerGoodChange _ _
  | .qualComplete _ | .rampTimeout _ | .qualTimeout _ | .drainComplete _ | .fallTimeout _ | .railFailedClear _
  | .prsntRemoved _ | .prsntQualified _ => false
  | .resetStretchDone _ | .rstHoldWrite _ => true
  | .selfRailRetry => false
  | .coldRestartDelay | .coolCommit _ | .fanWindowStart _ | .tachEdge _ | .fanWindowEnd _ | .fanTargetWrite _ _
  | .kickExpiry _ | .kickGapEnd _ | .fanFailedClear _ | .reserveFanTest _ | .reserveTestEnd _ | .fanCommission _ _
  | .commissionTimeout _ | .pumpMeasurement _ _ | .pumpTargetWrite _ _ | .pumpFailedClear _ | .flowEdge _
  | .flowWindowEvaluation _ | .loopFaultClear _ | .leakReport _ | .leakLatchClear _ | .tdConversion _ _ _
  | .coolModeWrite _ _ | .coolModeTimeout | .hbmSoftRepair _ _ | .adcScan _ _ _ _ _ => true
  | .adcSample _ _ => false
  | .chkOscFailure => true
  | .watchdogKick _ _ | .watchdogExpiry _ => false
  | .endgameIdent | .endgameState | .endgameResetCause | .endgameRails | .endgameSupply | .endgameProtect
  | .endgameCooling | .endgameRecorder | .goldenExit | .endgameAutoExit => true
  | .romBoot _ | .updateEraseComplete _ => false
  | .updateSessionTimeout => true
  | .activationRelease | .autoConfirm | .confirmTimeout | .wake _ _ => false
  | .spdmGetVersion _ | .spdmGetCapabilities _ | .spdmNegotiateAlgorithms _ _ _ | .spdmGetDigests _
  | .spdmGetCertificate _ _ _ _ | .spdmChallenge _ _ | .spdmGetMeasurements _ _ _ | .spdmUnsupportedRequest _
  | .setEndpointId _ _ | .getEndpointId _ | .getEndpointUuid _ | .getMctpVersionSupport _ _ | .getMessageTypeSupport _
  => true
  | .mbxUnknownOpcode _ _ | .getVersion _ | .getIdentity _ | .getStatus _ | .heartbeat _ | .getResetCause _ | .getTime _
  | .getOpcodes _ | .releaseLease _ | .setTrayCap _ | .getPower _ | .setStaticBudgets _ | .setAccMax _
  | .setCheckForce _ | .clearCheckLatch _ | .clearMate _ | .setShaping _ | .clockOpen _ | .clockBind _ | .clockUnbind _
  | .clockClose _ | .clockFree _ | .clockRead _ | .addTokens _ | .signStatement _ | .domainSet _ | .getSeq _
  | .railClear _ | .resetHold _ | .deepSleep _ | .getCooling _ | .setZoneFloor _ | .setCoolMode _ | .commissionFan _
  | .clearCoolFault _ | .pkgBegin _ | .pkgData _ | .pkgLoad _ | .slotRetire _ | .slotQuery _ | .oroSet _
  | .oroRollback _ | .oroQuery _ | .groupCreate _ | .groupDelete _ | .groupPolicy _ | .objAlloc _ | .objFree _
  | .ctxCreate _ | .ctxDelete _ | .castle _ | .accConfig _ | .getAcc _ | .tlmFrames _ | .logConfig _ | .logRead _
  | .traceSet _ | .updateBegin _ | .updateData _ | .updateCommit _ | .updateCancel _ | .updateActivate _
  | .updateConfirm _ | .updateReject _ | .updateStatus _ | .getNonce _ | .ownerKeyAdd _ | .ownerKeyRevoke _
  | .modelKeyEnrol _ | .debugToken _ | .echo _ | .freeze _ | .ffrArchive _ => false
  | .mbxChDone _ | .completionWrite => true
  | .replyTimeout => false
  | .leaseExpiry | .leaseWarning | .tracePoint _ _ _ => true
  | .logRecord _ _ _ _ => false
  | .cqPktOpen _ _ | .cqWrData _ _ _ | .cqPktClose _ _ _ | .cqWrFirst _ _ _ | .cqLingerExpiry _ | .cqRdTag _
  | .cqNoticeAck _ _ | .flush _ | .cqMarkSet _ | .rewind _ | .traceUnitSend | .ffrEvent _ _ _ _ | .ffrAppend
  | .ffrPause _ | .ffrPauseExpiry | .ffrClear _ | .crcAlgWrite _ _ | .crcInit _
  | .crcValueWrite _ _ | .crcData _ _ _ | .snapshotTrigger _ | .snapTriggerWrite | .freezePin | .snapshotCopyDone
  | .snapArm | .quickWrite _ _ _ | .quickRead _ _ _ | .sendByte _ _ _ | .receiveByte _ _ _ | .writeByte _ _ _
  | .writeWord _ _ _ | .readByte _ _ _ | .readWord _ _ _ | .blockWrite _ _ _ | .blockRead _ _ _ | .processCall _ _ _
  | .blockProcessCall _ _ _ | .reservedDescriptorType _ _ _ | .clockStretchTimeout _ | .arbitrationLost _ _
  | .arbitrationRetry _ _ | .alertAssert _ _ | .araRead _ _ | .alertUnmask _ | .stuckBus _ _ _ | .segpwrOffEnd _
  | .segpwrOnEnd _ _ | .avsWriteCommit _ _ | .avsReadTelemetry _ _ | .avsReadStatus _ | .avsWriteStatus _ _
  | .avsResponse _ _ _ _ | .avsBusyWaitEnd _ | .avsStatusAlert _ | .crystalStartTimeout | .commissionINomMeasured _
  | .reservedLct _ _ | .mctpMessageDiscard _ _ | .endgameUnknownCommand _ | .jtagBypass | .jtagIdcode
  | .jtagSamplePreload _ _ | .jtagExtest _ _ | .jtagClamp | .jtagHighz | .jtagDebug => true

end Sys2Proof
end

