-- ==== Sys2Proof/Certificates/Slice0/Obligations.lean ====
section
/-! DEFINITION. The statements for the provers. -/

open Sys2Proof Sys2Proof.Machine

/-- For every command c and every state whose queue begins with c, a step is exec of c on that state with the rest of the queue. -/
def Obligations.StepCarriesOutTheFrontCommand : Prop :=
  ∀ (c : Instr) (rest : List Instr) (s : State), s.pending = c :: rest → step s = exec c { s with pending := rest }

/-- With an empty queue a step lets one tick pass and changes nothing else: while the SYS domain runs GTS rises by 1 ns and AONT
equals it, otherwise AONT rises by 40 ns. That the step of an empty queue is a tick is the model's choice (log entry 1); the
advance is that of the timestamps. -/
def Obligations.EmptyQueueLetsOneTickPass : Prop :=
  ∀ (s : State), s.pending = [] →
    ∃ t, step s = .next t ∧ t.pending = [] ∧
      (s.dev.sysOn = true → t.dev = { s.dev with gts := s.dev.gts + 1, aont := s.dev.gts + 1 }) ∧
      (s.dev.sysOn = false → t.dev = { s.dev with aont := s.dev.aont + 40 })

/-- For every command and every state, exec answers a next state whose queue is the one it was given: the spec gives every row of
the command table an effect, so no row ends in a fault or a refusal. -/
def Obligations.EveryCommandAnswersANextState : Prop :=
  ∀ (c : Instr) (s : State), ∃ t, exec c s = .next t ∧ t.pending = s.pending

/-- State.reset meets the invariant, its queue is empty, GTS and AONT are 0, and every register word is the word of the register
map's reset column (an address with no register holds 0). -/
def Obligations.ResetStateIsSound : Prop :=
  State.reset.dev.Inv ∧ State.reset.pending = [] ∧ State.reset.dev.gts = 0 ∧ State.reset.dev.aont = 0 ∧
    ∀ a, State.reset.dev.rdw a = (regReset a).toNat

/-- From every state in which GTS is not ahead of AONT and equals it while the SYS domain runs, memory is in its canonical form
and the register table is in its canonical form, every step, whatever the command, leads to a state that meets the same three
conditions. -/
def Obligations.StepKeepsTheInvariant : Prop :=
  ∀ (s t : State), s.dev.Inv → step s = .next t → t.dev.Inv

/-- In every step from a state that meets the invariant, GTS does not fall, except to 0 (a reset), and neither does AONT: commands
may load GTS from AONT, which is never behind it. -/
def Obligations.TimestampsGoBackOnlyToZero : Prop :=
  ∀ (s t : State), s.dev.Inv → step s = .next t →
    (s.dev.gts ≤ t.dev.gts ∨ t.dev.gts = 0) ∧ (s.dev.aont ≤ t.dev.aont ∨ t.dev.aont = 0)

/-- For every command outside the list of those that write a byte memory (Instr.storesNothing) and every state that meets the
invariant, each byte of each memory reads after the command as before it. What the other commands store is in their own
statements. -/
def Obligations.CommandsThatStoreNothingKeepMemory : Prop :=
  ∀ (c : Instr) (s t : State) (m : Space) (a : Nat), s.dev.Inv → c.storesNothing = true → exec c s = .next t →
    t.dev.ldb m a = s.dev.ldb m a

/-- After a store of bytes at an address of a memory the bytes read back and every other byte of every memory is as before; a word
the store does not touch keeps its poison flag, a word written whole takes the flag of the data, a word written in part is
poisoned if it was or the data are. -/
def Obligations.MemoryReadsBackWhatWasStored : Prop :=
  ∀ (d : Dev) (m : Space) (a : Nat) (bs : List Byte) (p : Bool),
    (d.stn m a bs p).ldn m a bs.length = bs ∧
    (∀ (n : Space) (b : Nat), n.base + b < m.base + a ∨ m.base + a + bs.length ≤ n.base + b →
      (d.stn m a bs p).ldb n b = d.ldb n b) ∧
    (∀ w, 8 * w + 8 ≤ m.base + a ∨ m.base + a + bs.length ≤ 8 * w →
      tget (fun _ => false) (d.stn m a bs p).poison w = tget (fun _ => false) d.poison w) ∧
    (∀ w, m.base + a ≤ 8 * w → 8 * w + 8 ≤ m.base + a + bs.length → tget (fun _ => false) (d.stn m a bs p).poison w = p) ∧
    (∀ w, m.base + a < 8 * w + 8 → 8 * w < m.base + a + bs.length →
      ¬ (m.base + a ≤ 8 * w ∧ 8 * w + 8 ≤ m.base + a + bs.length) → bs ≠ [] →
      tget (fun _ => false) (d.stn m a bs p).poison w = (p || tget (fun _ => false) d.poison w))

/-- For every writable 64-bit field, a write of its low word changes no register word; the write of its high word that follows, by
whoever may reach registers, loads both words together and changes no other register word. A CRC_VALUE takes the bits within
the width of its algorithm. -/
def Obligations.HighWordWriteLoadsAWideField : Prop :=
  ∀ (s : State) (x y : Agent) (lo hi : BitVec 28) (u v : Word), s.dev.sends x = true → s.dev.sends y = true → isWide lo.toNat = true →
    hi.toNat = lo.toNat + 4 →
    ∃ t r, exec (.wideFieldLowWrite x lo u) s = .next t ∧ exec (.wideFieldHighWrite y hi v) t = .next r ∧
      (∀ a, t.dev.rdw a = s.dev.rdw a) ∧
      ((∀ k, k < 4 → lo.toNat ≠ F.CRC_VALUE_LO.addr k) → r.dev.rdw lo.toNat = u.toNat ∧ r.dev.rdw hi.toNat = v.toNat) ∧
      (∀ k, k < 4 → lo.toNat = F.CRC_VALUE_LO.addr k →
        r.dev.rdw lo.toNat + 2 ^ 32 * r.dev.rdw hi.toNat = (u.toNat + 2 ^ 32 * v.toNat) % 2 ^ crcWidth (s.dev.rd F.CRC_CFG_ALG k)) ∧
      ∀ a, a ≠ lo.toNat → a ≠ hi.toNat → r.dev.rdw a = s.dev.rdw a

/-- An aligned 32-bit write by an agent that can reach registers: at an offset with no register, or of a register another rule
fixes, it is discarded. Otherwise the register takes one new word: a field whose writes another row of the command table
carries keeps its bits; RW and RWS take the written bits, RO and WO keep theirs (a field firmware has a port for takes
firmware's), 1 clears a W1C bit and sets a W1S bit, RWL takes the bits unless the write lock is set, and then the attempt is a
first-failure event. What follows from the new word is the operation the model names (regAfter, oroEn). -/
def Obligations.RegisterWritesFollowTheAccessTypes : Prop :=
  ∀ (s : State) (x : Agent) (a : BitVec 28) (v : DWord), s.dev.sends x = true → a.toNat % 4 = 0 → reqBuffer a.toNat = none →
    ¬ (0x100800 ≤ a.toNat ∧ a.toNat < 0x100900) →
    (regDefAt a.toNat = none → exec (.registerWrite x a .w32 v) s = .next s) ∧
    (∀ r, regDefAt a.toNat = some r → s.dev.regFixed (x ≠ .host) a.toNat = true → exec (.registerWrite x a .w32 v) s = .next s) ∧
    ∀ r, regDefAt a.toNat = some r → s.dev.regFixed (x ≠ .host) a.toNat = false →
      ∃ new : Nat, new < 2 ^ 32 ∧
        (let e := if s.dev.locked = true ∧ (∃ f ∈ r.fields, f.acc = .rwl ∧ f.own = false) then s.dev.ffr causeLocked a.toNat v.toNat else s.dev
         let f := if a.toNat = F.PWC_CTRL_ORO_EN.addr 0 then e.oroEn (bitOf new F.PWC_CTRL_ORO_EN.lo) else e
         exec (.registerWrite x a .w32 v) s = .next { s with dev := (f.wrw a.toNat new).regAfter a.toNat }) ∧
        (∀ f ∈ r.fields,
          let old := bitsOf (s.dev.rdw a.toNat) f.lo f.len
          let val := bitsOf v.toNat f.lo f.len
          bitsOf new f.lo f.len =
            if f.own = true then old
            else match f.acc with
              | .rw | .rws => val
              | .ro => if f.port = true ∧ x ≠ .host then val else old
              | .wo => old
              | .w1c => old - (old &&& val)
              | .w1s => old ||| val
              | .rwl => if s.dev.locked = true then old else val)

/-- Once a store has reached any byte of a word of a byte memory, an object of the sync store has been written, or the recorder
has written over a word of its own, the write-back of that word, a correction or a poison, changes nothing: what the other
write left stands. -/
def Obligations.AnotherWriteDropsTheWriteBack : Prop :=
  (∀ (s : State) (m : EccMem) (w : BitVec 31) (k a q : Nat) (sp : Space) (bs : List Byte) (p : Bool), eccPlace m w.toNat = (k, some (sp, q)) →
    sp.base + a < 8 * k + 8 → 8 * k < sp.base + a + bs.length → bs ≠ [] →
    exec (.eccWriteback m w) { s with dev := s.dev.stn sp a bs p } = .next { s with dev := s.dev.stn sp a bs p }) ∧
  (∀ (s : State) (w : BitVec 31) (o : Obj),
    exec (.eccWriteback .sync w) { s with dev := s.dev.objPut (w.toNat % 131072 / 2) o } =
      .next { s with dev := s.dev.objPut (w.toNat % 131072 / 2) o }) ∧
  ∀ (s : State) (w : BitVec 31) (lo hi : Nat), lo ≤ w.toNat % 32768 → w.toNat % 32768 < hi →
    exec (.eccWriteback .ffr w) { s with dev := s.dev.ffrWrote lo hi } = .next { s with dev := s.dev.ffrWrote lo hi }

/-- For every listed mailbox opcode: a request that arrives on a free channel while the link is up and fails a check of the
mailbox leaves exactly the reply with the status, DETAIL and payload of the first check that fails; nothing else changes. -/
def Obligations.RefusedMailboxRequestsAreOnlyAnswered : Prop :=
  ∀ (c : Instr) (o : MbxOp) (q : MbxReq) (r : Rep) (s : State), c.request = some (o, q) → s.dev.linkUp = true →
    (if q.ch.val < 4 then s.dev.rd F.MBX_CH_STATUS_STATE q.ch = 0
      else (s.dev.mbx.held.filter fun (h : Held) => h.ch = q.ch.val).length < 4) →
    (s.dev.arrived o.op q).mbxCheck o true q = some r →
    exec c s = .next { s with dev := (s.dev.arrived o.op q).answer o.op q r }

/-- For every listed opcode and for an unlisted one, a request whose VER_MAJOR is not 3 leaves exactly a reply whose header
carries VER_MAJOR 3, VER_MINOR 1, STATUS BAD_VERSION and DETAIL 0x00010303 and whose payload is the 4 bytes GET_VERSION
answers: on a W0 channel the packet stands in the response buffer, on the others it is the message sent. -/
def Obligations.AnotherMajorVersionIsAnsweredBadVersion : Prop :=
  (∀ (c : Instr) (o : MbxOp) (q : MbxReq) (s : State), c.request = some (o, q) → s.dev.linkUp = true →
    (if q.ch.val < 4 then s.dev.rd F.MBX_CH_STATUS_STATE q.ch = 0
      else (s.dev.mbx.held.filter fun (h : Held) => h.ch = q.ch.val).length < 4) → q.major ≠ 3 →
    exec c s = .next { s with dev := (s.dev.arrived o.op q).answer o.op q { st := msBadVersion, detail := 0x00010303, pay := [3, 3, 1, 0] } }) ∧
  (∀ (op : BitVec 16) (q : MbxReq) (s : State), (servedIn (op.toNat / 256)).contains (op.toNat % 256) = false → s.dev.linkUp = true →
    (if q.ch.val < 4 then s.dev.rd F.MBX_CH_STATUS_STATE q.ch = 0
      else (s.dev.mbx.held.filter fun (h : Held) => h.ch = q.ch.val).length < 4) → q.major ≠ 3 →
    exec (.mbxUnknownOpcode op q) s =
      .next { s with dev := (s.dev.arrived op.toNat q).answer op.toNat q { st := msBadVersion, detail := 0x00010303, pay := [3, 3, 1, 0] } }) ∧
  (∀ (d : Dev) (op : Nat) (q : MbxReq), q.major ≠ 3 → ∃ pkt : List Byte,
    pkt.take 2 = [3, 1] ∧ pb pkt 6 2 = [0x03, 0] ∧ pb pkt 12 4 = [0x03, 0x03, 0x01, 0] ∧ pkt.drop 32 = [3, 3, 1, 0] ∧
    let e := d.answer op q { st := msBadVersion, detail := 0x00010303, pay := [3, 3, 1, 0] }
    if q.ch.val < 4 then e.ldn (.rsp q.ch) 0 pkt.length = pkt else e.out = .reply q.ch pkt :: d.out) ∧
  ∀ (d : Dev) (q : MbxReq), (opGetVersion.body d q).1.pay = [3, 3, 1, 0]

/-- For each of the seven operations and the reserved codes: the first check that fails (pairing, enable, outstanding limit, code,
membership, handle, operand rules) decides the status; the operation is answered by OP_ERR with it, SOB_ERR.OUTSTANDING is set
for the limit alone, and every object, waiter and other record of the store is as before. -/
def Obligations.RefusedSyncOperationsChangeNoObject : Prop :=
  ∀ (c : Instr) (src : Fin 9) (op : Nat) (q : SyncReq) (s : State) (e : Dev) (o : Obj) (st : Nat), c.syncReq = some (src, op, q) →
    e = s.dev.syncTook src op q → o = e.obj (hIndex q.handle.toNat) → o.poison = 0 →
    st = (if src.val < 8 ∧ e.paired src = false then stUnpaired
      else if e.is F.SOB_CTRL_EN = false then stDisabled
      else if src.val < 8 ∧ 24 ≤ e.rd F.SOB_SRC_OUTSTANDING src then stOutstanding
      else if 7 ≤ op then stBadOp
      else if ¬ (e.rd F.GRP_CTRL_STATE (hGroup q.handle.toNat) = 1 ∨ e.rd F.GRP_CTRL_STATE (hGroup q.handle.toNat) = 2) ∨
        e.memberOf src (hGroup q.handle.toNat) = none then stNotMember
      else if e.validH q.handle.toNat = false then stStale
      else o.check op q.cond.toNat q.w q.operand.toNat (!(e.waitersOf (hIndex q.handle.toNat)).isEmpty)) →
    st ≠ stOk →
    ∃ t, exec c s = .next t ∧ t.dev.sob = s.dev.sob ∧
      t.dev = (if st = stOutstanding then e.wr F.SOB_ERR_OUTSTANDING 0 1 else e).syncSend src 3 0 st q.tag.toNat op q.handle.toNat

/-- The walk of a semaphore with count n over its waiters: those served and those left are the list in its order; n is the count
left plus what the served took; the first waiter left wants more than the count left, so no later one overtakes it; and each
one served is answered with the count right after its own acquire. -/
def Obligations.SemaphoreWalkServesInOrder : Prop :=
  ∀ (n : Nat) (l : List Waiter),
    (semWalk n l).2.1.map Prod.fst ++ (semWalk n l).2.2 = l ∧
    n = (semWalk n l).1 + ((semWalk n l).2.1.map fun w => w.1.operand).sum ∧
    (∀ w, (semWalk n l).2.2.head? = some w → (semWalk n l).1 < w.operand) ∧
    ∀ (k : Nat) (h : k < (semWalk n l).2.1.length),
      ((semWalk n l).2.1[k]).2 + (((semWalk n l).2.1.take (k + 1)).map fun w => w.1.operand).sum = n

/-- Adding to a COUNTER leaves the exact signed sum where it fits 64 bits, and otherwise the nearer bound, with OVF set and status
SAT; ADD answers the new value, FETCH_ADD the old; nothing else of the object changes and the operation never waits. -/
def Obligations.CounterAddsClamp : Prop :=
  ∀ (o : Obj) (op cond m x : Nat) (w b : Bool), o.ty = tyCounter → op = opAdd ∨ op = opFetchAdd →
    let n := signed 64 o.value + signed 64 x
    let e := o.apply op cond w x m b
    (signed 64 e.o.value = if n < -2 ^ 63 then -2 ^ 63 else if 2 ^ 63 ≤ n then 2 ^ 63 - 1 else n) ∧
    e.o.value < 2 ^ 64 ∧
    e.st = (if n < -2 ^ 63 ∨ 2 ^ 63 ≤ n then stSat else stOk) ∧
    (e.o.ovf = if n < -2 ^ 63 ∨ 2 ^ 63 ≤ n then true else o.ovf) ∧
    e.res = (if op = opAdd then e.o.value else o.value) ∧ e.wait = none ∧
    { e.o with value := o.value, ovf := o.ovf } = o

/-- Under the stated conditions on the state and operands, each of REGISTER_WRITE, COUNTER_CLEAR_WRITE, SET_WRITE_LOCK, the 64-bit
read and writes, HV_BRIDGE_TRANSFER, CRYSTAL_LOSS and SCRUB_PERIOD_MISSED answers exactly the next state given: a 32-bit write
stores the word its fields' access types give, a narrow one is discarded with a first-failure event, a read of a 64-bit
counter's low word latches the high word, a wide field is loaded by its high write. -/
def Obligations.RegisterAccessAndClockEvents : Prop :=
  -- a 32-bit write of a register while registers are not locked
  (∀ (s : State) (by_ : Agent) (a : BitVec 28) (w : Width) (v : DWord) (r : RegDef), s.dev.sends by_ = true → w = Width.w32 →
    a.toNat % 4 = 0 → reqBuffer a.toNat = none → ¬ (0x100800 ≤ a.toNat ∧ a.toNat < 0x100900) → regDefAt a.toNat = some r →
    s.dev.regFixed (by_ ≠ .host) a.toNat = false → s.dev.locked = false → a.toNat ≠ F.PWC_CTRL_ORO_EN.addr 0 → exec
    (.registerWrite by_ a w v) s = .next { s with dev := ((s.dev.wrw a.toNat (r.fields.foldl (fun n f => f.put (by_ ≠ .host)
    false (s.dev.rdw a.toNat) v.toNat n) (s.dev.rdw a.toNat))).regAfter a.toNat) }) ∧
  -- a write narrower than 32 bits is discarded and recorded
  (∀ (s : State) (by_ : Agent) (a : BitVec 28) (w : Width) (v : DWord), s.dev.sends by_ = true → widthBytes w < 4 → a.toNat %
    widthBytes w = 0 → reqBuffer a.toNat = none → exec (.registerWrite by_ a w v) s = .next { s with dev := (s.dev.ffr
    causeNarrow a.toNat v.toNat) }) ∧
  -- a write of an idle channel's request buffer stores its bytes
  (∀ (s : State) (by_ : Agent) (a : BitVec 28) (w : Width) (v : DWord) (c o : Nat), s.dev.sends by_ = true → a.toNat %
    widthBytes w = 0 → reqBuffer a.toNat = some (c, o) → s.dev.rd F.MBX_CH_STATUS_STATE c ≠ 1 → exec (.registerWrite by_ a w v)
    s = .next { s with dev := (s.dev.stn (.req c) o (le (widthBytes w) v.toNat)) }) ∧
  -- a write of a busy channel's request buffer is discarded
  (∀ (s : State) (by_ : Agent) (a : BitVec 28) (w : Width) (v : DWord) (c o : Nat), s.dev.sends by_ = true → a.toNat %
    widthBytes w = 0 → reqBuffer a.toNat = some (c, o) → s.dev.rd F.MBX_CH_STATUS_STATE c = 1 → exec (.registerWrite by_ a w v)
    s = .next { s with dev := (s.dev.wr F.MBX_ERR_LATE_WRITE 0 1) }) ∧
  (∀ (s : State) (by_ : Agent) (a : BitVec 28), s.dev.sends by_ = true → exec (.counterClearWrite by_ a) s = .next { s with dev
    := (s.dev.counterClear a.toNat) }) ∧
  (∀ (s : State), s.dev.sends .sec = true → exec (.setWriteLock .sec) s = .next { s with dev := (s.dev.wr
    F.GLB_WRITE_LOCK_LOCKED 0 1) }) ∧
  (∀ (s : State) (by_ : Agent) (a : BitVec 28), s.dev.sends by_ = true → isCounter64 a.toNat = true → exec (.counterLowRead by_
    a) s = .next { s with dev := ({ s.dev with latch := (tset (fun _ => 0) s.dev.latch a.toNat (BitVec.ofNat 32 (s.dev.view
    (a.toNat + 4)))) }.emit (.data (BitVec.ofNat 64 (s.dev.view a.toNat)) false)) }) ∧
  (∀ (s : State) (by_ : Agent) (a : BitVec 28) (v : Word), s.dev.sends by_ = true → isWide a.toNat = true → exec
    (.wideFieldLowWrite by_ a v) s = .next { s with dev := ({ s.dev with wlow := (tset (fun _ => 0) s.dev.wlow a.toNat v) }) }) ∧
  (∀ (s : State) (by_ : Agent) (a : BitVec 28) (v : Word) (x : Nat), s.dev.sends by_ = true → 4 ≤ a.toNat → isWide (a.toNat - 4)
    = true → x = s.dev.wideFit (a.toNat - 4) ((tget (fun _ => 0) s.dev.wlow (a.toNat - 4)).toNat + 2 ^ 32 * v.toNat) → exec
    (.wideFieldHighWrite by_ a v) s = .next { s with dev := ((s.dev.wrw (a.toNat - 4) x).wrw a.toNat (x / 2 ^ 32)) }) ∧
  -- a transfer whose CRC is right changes nothing
  (∀ (s : State) (ch : Fin 138), exec (.hvBridgeTransfer ch true) s = .next { s with dev := (s.dev) }) ∧
  (∀ (s : State) (ch : Fin 138), exec (.hvBridgeTransfer ch false) s = .next { s with dev := ({ s.dev with flt.chStale := (tset
    (fun _ => false) s.dev.flt.chStale ch.val true) }.inc F.GLB_DIE_STATUS_BRIDGE_CRC_ERR) }) ∧
  (∀ (s : State), s.dev.seq.vinUp = true → s.dev.seq.xtal = 1 → exec (.crystalLoss) s = .next { s with dev := (({ s.dev with
    seq.xtal := 2 }.wr F.GLB_CLK_STATUS_RC_ACTIVE 0 1).ffr causeXtal 0 0) }) ∧
  (∀ (s : State), exec (.scrubPeriodMissed true) s = .next { s with dev := (s.dev.wr F.GLB_SCRUB_STATUS_HBM_LATE 0 1) }) ∧
  (∀ (s : State), exec (.scrubPeriodMissed false) s = .next { s with dev := (s.dev.wr F.GLB_SCRUB_STATUS_SRAM_LATE 0 1) })

/-- While the memory's domain runs: a clean word is delivered with its poison flag and nothing else changes; an uncorrectable word
is delivered poisoned; a pending write-back of a byte memory is dropped and sets the word's poison flag where the word was
uncorrectable; a patrol read is followed by its write-back. -/
def Obligations.CodeWordsReadAndWrittenBack : Prop :=
  (∀ (s : State) (m : EccMem) (w : BitVec 31), s.dev.eccOn m = true → exec (.codeWordRead m w .clean) s = .next { s with dev :=
    ((s.dev.eccDrawn m).emit (.data (BitVec.ofNat 64 (s.dev.eccStored m w.toNat).2) (s.dev.eccStored m w.toNat).1)) }) ∧
  -- a corrected word is delivered, counted and written back
  (∀ (s : State) (m : EccMem) (w : BitVec 31) (e : Dev), s.dev.eccOn m = true → (s.dev.eccStored m w.toNat).1 = false → e =
    (((s.dev.eccDrawn m).inc F.GLB_ECC_CE_COUNT_COUNT).wbQueue (eccPlace m w.toNat).1 false).eccOwner m w.toNat false → exec
    (.codeWordRead m w .corrected) s = .next { s with dev := ((e.bankError m w.toNat false).emit (.data (BitVec.ofNat 64
    (s.dev.eccStored m w.toNat).2) false)) }) ∧
  (∀ (s : State) (m : EccMem) (w : BitVec 31), s.dev.eccOn m = true → (s.dev.eccStored m w.toNat).1 = true → exec (.codeWordRead
    m w .corrected) s = .next { s with dev := ((s.dev.eccDrawn m).emit (.data (BitVec.ofNat 64 (s.dev.eccStored m w.toNat).2)
    true)) }) ∧
  -- an uncorrectable word is delivered poisoned, counted, and its poison is written back
  (∀ (s : State) (m : EccMem) (w : BitVec 31) (raw : DWord) (e f g : Dev), s.dev.eccOn m = true → e = (s.dev.eccDrawn m).inc
    F.GLB_ECC_UE_COUNT_COUNT → f = ((e.wr F.GLB_ECC_LAST_MEM 0 (eccCode m)).wr F.GLB_ECC_LAST_SEQ 0 (e.rd
    F.GLB_ECC_UE_COUNT_COUNT)).wr F.GLB_ECC_LAST_WORD_WORD 0 w.toNat → g = ((f.eccRaw m w.toNat raw.toNat).eccOwner m w.toNat
    true).wbQueue (eccPlace m w.toNat).1 true → exec (.codeWordRead m w (.uncorr raw)) s = .next { s with dev := ((g.bankError m
    w.toNat true).emit (.data (BitVec.ofNat 64 raw.toNat) true)) }) ∧
  (∀ (s : State) (m : EccMem) (w : BitVec 31) (p : Space × Nat), s.dev.eccOn m = true → (eccPlace m w.toNat).2 = some p → tget
    (fun _ => false) s.dev.wbPend (eccPlace m w.toNat).1 = true → tget (fun _ => false) s.dev.wb (eccPlace m w.toNat).1 = true →
    exec (.eccWriteback m w) s = .next { s with dev := ((s.dev.dropWb (eccPlace m w.toNat).1).setPoison p.1 p.2 true) }) ∧
  (∀ (s : State) (m : EccMem) (w : BitVec 31), s.dev.eccOn m = true → tget (fun _ => false) s.dev.wbPend (eccPlace m w.toNat).1
    = true → tget (fun _ => false) s.dev.wb (eccPlace m w.toNat).1 = false → exec (.eccWriteback m w) s = .next { s with dev :=
    (s.dev.dropWb (eccPlace m w.toNat).1) }) ∧
  (∀ (s : State) (m : EccMem) (w : BitVec 31) (r : EccResult), s.dev.eccOn m = true → exec (.patrolScrub m w r) s = .next { s
    with dev := ((s.dev.eccRead m w.toNat r).2.eccWriteback m w.toNat) })

/-- The power-good edge samples the straps and resets everything; its fall drops everything. A requested cold reset begins, or is
deferred behind a power-down and begins after it; a warm reset begins when nothing else is pending; a PCIe reset acts while
the system domain runs. A write of GLB_RESET_CTRL with the key clears causes and requests the cold or else the warm reset, one
without the key is recorded; GLB_CORE_RESET resets the cores it names; SEC requests a warm reset; the cores restart when core
power is back. -/
def Obligations.ResetCommands : Prop :=
  (∀ (s : State) (capsel : BitVec 3) (hswsel : BitVec 2) (goldenLow : Bool) (mfgLow : Bool) (e : Dev), s.dev.seq.vinUp = true →
    e =
    { s.dev with boot.capsel := capsel.toNat, boot.hswsel := hswsel.toNat, boot.goldStrap := goldenLow, boot.mfgTest := mfgLow }
    → exec (.powerOnReset capsel hswsel goldenLow mfgLow) s = .next { s with dev := ({ e.powerOn (1 + if s.dev.boot.fellUv then
    2 else 0) with boot.fellUv := false }) }) ∧
  (∀ (s : State), s.dev.seq.vinUp = true → exec (.bringupOff) s = .next { s with dev :=
    ({ s.dev.dropAll.powerOn 3 with seq.vinUp := false, boot.fellUv := true }) }) ∧
  (∀ (s : State), s.dev.boot.coldReq = true → s.dev.seq.coldDown = false → s.dev.poweringDown = true → exec (.coldReset) s =
    .next { s with dev := ({ s.dev with boot.coldReq := false, boot.deferred := true }) }) ∧
  (∀ (s : State), s.dev.boot.coldReq = true → s.dev.seq.coldDown = false → s.dev.poweringDown = false → exec (.coldReset) s =
    .next { s with dev := (s.dev.coldStart) }) ∧
  (∀ (s : State), s.dev.boot.coldReq = false ∨ s.dev.seq.coldDown = true → exec (.coldReset) s = .next { s with dev := (s.dev)
    }) ∧
  (∀ (s : State), s.dev.boot.deferred = true → s.dev.poweringDown = false → s.dev.seq.coldDown = false → exec
    (.deferredColdReset) s = .next { s with dev := (s.dev.coldStart) }) ∧
  (∀ (s : State), s.dev.boot.warmReq = true → s.dev.boot.coldReq = false → s.dev.boot.deferred = false → s.dev.sysOn = true →
    s.dev.flt.endgame = false → s.dev.seq.coldDown = false → exec (.warmReset) s = .next { s with dev := (s.dev.warmStart) }) ∧
  (∀ (s : State) (e : Dev), s.dev.sysOn = true → e =
    { s.dev with obs.msix := [], obs.pba := 0, mbx.held := (s.dev.mbx.held.map (fun (h : Held) => if h.ch < 4 then { h with ch := 9 } else h)) }
    → exec (.pcieReset) s = .next { s with dev := ((List.range 4).foldl (fun (x : Dev) c => ((x.wrw (F.MBX_CH_STATUS_STATE.addr
    c) 0).clearSpace (.req c)).clearSpace (.rsp c)) e) }) ∧
  (∀ (s : State), s.dev.sysOn = false → exec (.pcieReset) s = .next { s with dev := (s.dev) }) ∧
  (∀ (s : State) (by_ : Agent) (v : Word) (e : Dev), s.dev.sends by_ = true → v.toNat / 65536 = 0x5A96 → e = (if bitOf v.toNat 2
    then s.dev.wrw (F.GLB_RESET_CAUSE_POR.addr 0) 0 else s.dev) → exec (.coldReq by_ v) s = .next { s with dev := (if bitOf
    v.toNat 1 then e.coldRequest rcHostCold else if bitOf v.toNat 0 then e.warmRequest rcHostWarm else e) }) ∧
  (∀ (s : State) (by_ : Agent) (v : Word) (e : Dev), s.dev.sends by_ = true → v.toNat / 65536 = 0x5A96 → e = (if bitOf v.toNat 2
    then s.dev.wrw (F.GLB_RESET_CAUSE_POR.addr 0) 0 else s.dev) → exec (.warmReq by_ v) s = .next { s with dev := (if bitOf
    v.toNat 1 then e.coldRequest rcHostCold else if bitOf v.toNat 0 then e.warmRequest rcHostWarm else e) }) ∧
  (∀ (s : State) (by_ : Agent) (v : Word) (e : Dev), s.dev.sends by_ = true → v.toNat / 65536 = 0x5A96 → e = (if bitOf v.toNat 2
    then s.dev.wrw (F.GLB_RESET_CAUSE_POR.addr 0) 0 else s.dev) → exec (.clearCause by_ v) s = .next { s with dev := (if bitOf
    v.toNat 1 then e.coldRequest rcHostCold else if bitOf v.toNat 0 then e.warmRequest rcHostWarm else e) }) ∧
  (∀ (s : State) (by_ : Agent) (v : Word), s.dev.sends by_ = true → v.toNat / 65536 ≠ 0x5A96 → exec (.coldReq by_ v) s = .next {
    s with dev := (s.dev.ffr causeKey (F.GLB_RESET_CTRL_KEY.addr 0) v.toNat) }) ∧
  (∀ (s : State) (by_ : Agent) (v : Word), s.dev.sends by_ = true → v.toNat / 65536 ≠ 0x5A96 → exec (.warmReq by_ v) s = .next {
    s with dev := (s.dev.ffr causeKey (F.GLB_RESET_CTRL_KEY.addr 0) v.toNat) }) ∧
  (∀ (s : State) (by_ : Agent) (v : Word), s.dev.sends by_ = true → v.toNat / 65536 ≠ 0x5A96 → exec (.clearCause by_ v) s =
    .next { s with dev := (s.dev.ffr causeKey (F.GLB_RESET_CTRL_KEY.addr 0) v.toNat) }) ∧
  (∀ (s : State) (by_ : Agent) (v : Word), s.dev.sends by_ = true → v.toNat / 65536 = 0x5A96 → exec (.coreResetReq by_ v) s =
    .next { s with dev := (((List.range 10).filter fun j => bitOf v.toNat (j + 1)).foldl (fun (x : Dev) j => x.hostCoreReset (j
    + 1)) s.dev) }) ∧
  (∀ (s : State) (by_ : Agent) (v : Word), s.dev.sends by_ = true → v.toNat / 65536 ≠ 0x5A96 → exec (.coreResetReq by_ v) s =
    .next { s with dev := (s.dev.ffr causeKey (F.GLB_CORE_RESET_KEY.addr 0) v.toNat) }) ∧
  (∀ (s : State) (by_ : Agent) (v : Word), s.dev.sends by_ = false → exec (.coreResetReq by_ v) s = .next { s with dev :=
    (s.dev) }) ∧
  (∀ (s : State), s.dev.sysOn = true → s.dev.coreUp 0 = true → exec (.secWarmRequest) s = .next { s with dev :=
    (s.dev.warmRequest rcSecWarm) }) ∧
  (∀ (s : State), s.dev.boot.coreLost = true → s.dev.corePower = true → s.dev.seq.coldDown = false → exec (.corePowerRestart) s
    = .next { s with dev := (s.dev.corePowerRestart.secCheck) })

/-- ROM boots once a boot is due; a kick is taken and a watchdog that has run out is judged; an erase ends its UPDATE_BEGIN; an
idle session ends; a held activation goes on; a trial is confirmed after 60 s of clean service or falls back at its bound; a
wake event runs the fast path or ROM; an HBM row is repaired; a converter scan judges the references; a channel sample is
stale or reaches its readers; CHK_OK clears once. -/
def Obligations.BootWatchdogsUpdatesAndFaults : Prop :=
  (∀ (s : State) (golden : Bool), s.dev.sysOn = true → s.dev.boot.due ≠ 0 → (s.dev.core' 0).released = true → s.dev.flt.endgame
    = false → s.dev.seq.coldDown = false → exec (.romBoot golden) s = .next { s with dev := (s.dev.romBoot golden) }) ∧
  (∀ (s : State) (k : Fin 11) (period : Word), s.dev.sysOn = true → exec (.watchdogKick k period) s = .next { s with dev :=
    (s.dev.coreKick k.val period.toNat) }) ∧
  (∀ (s : State) (k : Fin 11) (period : Word), s.dev.sysOn = false → exec (.watchdogKick k period) s = .next { s with dev :=
    (s.dev) }) ∧
  (∀ (s : State) (k : Fin 11), s.dev.sysOn = true → (s.dev.core' k.val).released = true → (s.dev.core' k.val).failed = false →
    s.dev.wdogDue k.val ≤ s.dev.aont → exec (.watchdogExpiry k) s = .next { s with dev := (s.dev.coreExpire k.val) }) ∧
  (∀ (s : State) (k : Fin 11), s.dev.aont < s.dev.wdogDue k.val → exec (.watchdogExpiry k) s = .next { s with dev := (s.dev) }) ∧
  (∀ (s : State) (x : Session) (i : Nat) (e f : Dev), s.dev.sysOn = true → s.dev.coreUp 0 = true → s.dev.boot.sess = some x →
    x.id = some i → e = (s.dev.clearRange .flash (slotBase x.target) slotSize).jMark x.target jsWriting 0 → f = ({ e with
    boot.sess := (some { x with id := none, at' := e.gts }) } : Dev).complete i msOk (le 1 x.target ++ zeros 3) → exec
    (.updateEraseComplete true) s = .next { s with dev := ((if x.closing then f.sessEnd else f).updShow) }) ∧
  (∀ (s : State) (x : Session) (i : Nat), s.dev.sysOn = true → s.dev.coreUp 0 = true → s.dev.boot.sess = some x → x.id = some i
    → exec (.updateEraseComplete false) s = .next { s with dev := ((s.dev.sessEnd.complete i msIntegrity (le 1 x.target ++ zeros
    3)).updShow) }) ∧
  (∀ (s : State) (x : Session), s.dev.sysOn = true → s.dev.coreUp 0 = true → s.dev.boot.sess = some x → x.id = none → x.at' +
    60000000000 ≤ s.dev.gts → exec (.updateSessionTimeout) s = .next { s with dev := (s.dev.sessEnd.updShow) }) ∧
  (∀ (s : State) (t : Nat), s.dev.boot.heldAct = some t → s.dev.sysOn = true → s.dev.coreUp 0 = true → s.dev.emergClear = true →
    exec (.activationRelease) s = .next { s with dev := (s.dev.activate t) }) ∧
  (∀ (s : State) (r : Running) (t : Nat), s.dev.boot.run = some r → s.dev.boot.served = some t → s.dev.sysOn = true →
    s.dev.coreUp 0 = true → s.dev.onTrial = true → headAuto r.head = true → s.dev.boot.wdogSeen = false → t + 60000000000 ≤
    s.dev.aont → exec (.autoConfirm) s = .next { s with dev := (s.dev.confirm) }) ∧
  (∀ (s : State) (r : Running), s.dev.boot.run = some r → s.dev.sysOn = true → s.dev.coreUp 0 = true → s.dev.onTrial = true →
    s.dev.boot.served.getD s.dev.boot.dueAt + headConfirm r.head * 1000000000 ≤ s.dev.aont → exec (.confirmTimeout) s = .next {
    s with dev := (s.dev.fallback rsConfirmTimeout) }) ∧
  -- the fast path
  (∀ (s : State) (golden : Bool) (scrubOk : Bool) (e : Dev), s.dev.boot.asleep = true → s.dev.corePower = true → e =
    { s.dev with sysOn := true, gts := s.dev.aont, boot.asleep := false, boot.retain := ({ }), boot.dueAt := s.dev.aont, pwr.frameNow := (frameOf s.dev.aont) }
    → (s.dev.retained && !golden && scrubOk) = true → exec (.wake golden scrubOk) s = .next { s with dev := (e.fastWake) }) ∧
  (∀ (s : State) (golden : Bool) (scrubOk : Bool) (e f : Dev), s.dev.boot.asleep = true → s.dev.corePower = true → e =
    { s.dev with sysOn := true, gts := s.dev.aont, boot.asleep := false, boot.retain := ({ }), boot.dueAt := s.dev.aont, pwr.frameNow := (frameOf s.dev.aont) }
    → (s.dev.retained && !golden && scrubOk) = false → f = { e with boot.due := 2 } → exec (.wake golden scrubOk) s = .next { s
    with dev := ((f.coreRelease 0).secCheck) }) ∧
  (∀ (s : State) (row : Word) (e : Dev), s.dev.coreUp corePmc = true → e = { s.dev with flt.hbmRows := (row.toNat ::
    s.dev.flt.hbmRows.filter (fun r => r ≠ row.toNat)) } → exec (.hbmSoftRepair row true) s = .next { s with dev := (e.ffr
    causeSoftRepair row.toNat 0) }) ∧
  -- no repair resources are left
  (∀ (s : State) (row : Word), exec (.hbmSoftRepair row false) s = .next { s with dev := (s.dev) }) ∧
  (∀ (s : State) (r0 : BitVec 16) (r1 : BitVec 16) (r2 : BitVec 16) (r3 : BitVec 16) (spare : BitVec 16), s.dev.is
    F.TLM_STATUS_SPARE_FAILED = true → exec (.adcScan r0 r1 r2 r3 spare) s = .next { s with dev := ((s.dev.wr
    F.TLM_REF_SPARE_REF 0 spare.toNat).wr F.TLM_STATUS_SUSPECT 0 0) }) ∧
  (∀ (s : State) (r0 r1 r2 r3 spare : BitVec 16) (e f g h : Dev) (dist : Nat → Nat → Nat) (trim : Nat) (sus : List Nat), e =
    s.dev.wr F.TLM_REF_SPARE_REF 0 spare.toNat → e.is F.TLM_STATUS_SPARE_FAILED = false → dist = (fun (a b : Nat) => if a ≤ b
    then b - a else a - b) → trim = e.rd F.TLM_REF_REF_TRIM → f = e.suspectSet 4 (decide (trim < 200 * dist spare.toNat trim)) →
    sus = (((List.range 4).filter fun k => !f.bit F.TLM_STATUS_CONV_FAILED 0 k).filter (fun k => decide (65536 < 200 * dist
    ([r0.toNat, r1.toNat, r2.toNat, r3.toNat].getD k 0) spare.toNat))) → g = (List.range 4).foldl (fun (x : Dev) k =>
    x.suspectSet k (sus.contains k)) f → h = g.wr F.TLM_STATUS_SUSPECT 0 (maskOf 4 sus.contains) → exec (.adcScan r0 r1 r2 r3
    spare) s = .next { s with dev := (if 2 ≤ h.suspectRun 4 then (h.wr F.TLM_STATUS_SPARE_FAILED 0 1).ffr causeConv 4 0 else
    (sus.filter fun k => 2 ≤ h.suspectRun k).foldl Dev.convFail h) }) ∧
  -- a stale sample reaches no reader
  (∀ (s : State) (ch : Fin 128) (code : BitVec 16) (e : Dev), e = { s.dev with flt.chStale := (tset (fun _ => false)
    s.dev.flt.chStale ch.val false) } → s.dev.chBad ch.val = true → exec (.adcSample ch code) s = .next { s with dev := (if
    s.dev.sysOn then e.wr F.TLM_CH_STALE ch.val 1 else e) }) ∧
  (∀ (s : State) (ch : Fin 128) (code : BitVec 16) (e k f g h : Dev) (m : Nat) (rs : List Nat), s.dev.chBad ch.val = false → e =
    { s.dev with flt.chStale := (tset (fun _ => false) s.dev.flt.chStale ch.val false) } → k = (if e.sysOn then e.wr
    F.TLM_CH_STALE ch.val 0 else e) → m = code.toNat * 2500 / 65536 → f = (if k.sysOn then (k.wr F.TLM_CH_MV ch.val m).wr
    F.TLM_CH_CODE ch.val code.toNat else k) → g = (if 110 ≤ ch.val ∧ f.tableOk = true then f.fanCurrent (ch.val - 110) (k.aont -
    720) (m * f.rd F.TLM_FAN_SCALE_MA_PER_V / 1000) else f) → h = (List.range 4).foldl (fun (x : Dev) (l : Nat) => if x.tableOk
    && x.is F.LOOP_CFG_EN l && x.rd F.LOOP_CFG_ADC_CH l = ch.val then x.loopPress l (k.aont - 720) m else x) g → rs =
    rails96.filter (fun n => h.railUsed n && h.is F.SEQ_RAIL_PG_SRC n && h.rd F.SEQ_RAIL_PG_ADC_CH n = ch.val) → exec
    (.adcSample ch code) s = .next { s with dev := (if rs.isEmpty then h else (rs.foldl (fun (x : Dev) n => x.railSample n m)
    h).seqEnd) }) ∧
  (∀ (s : State) (e : Dev), s.dev.is F.GLB_CLK_STATUS_CHK_OK = true → e = { s.dev.wr F.GLB_CLK_STATUS_CHK_OK 0 0 with
    pwr.chkHold := true } → exec (.chkOscFailure) s = .next { s with dev := (((e.checkUpdate.forAcc Dev.sendCheck).ffr causeChk
    0 0).emergUpdate) }) ∧
  (∀ (s : State), s.dev.is F.GLB_CLK_STATUS_CHK_OK = false → exec (.chkOscFailure) s = .next { s with dev := (s.dev) }) ∧
  (∀ (s : State) (x e : Dev) (f : FrameDone) (rest : List FrameDone), s.dev.sysOn = true → x = s.dev.frameRoll → x.pwr.done = f
    :: rest → (f.k + 1) * 10000 + (if x.is F.ORO_CTRL_TLM_EN then x.tlmWindow else 0) ≤ x.gts → e = { x with pwr.done := rest }
    → exec (.ledgerFrameEnd) s = .next { s with dev := (((e.ledgerFrame f).clkFlush ((f.k + 1) * 10000)).tlmPurge) }) ∧
  (∀ (s : State) (op : BitVec 16) (q : MbxReq) (r : Rep), (servedIn (op.toNat / 256)).contains (op.toNat % 256) = false →
    s.dev.linkUp = true → ((if q.ch.val < 4 then s.dev.rd F.MBX_CH_STATUS_STATE q.ch = 0 else (s.dev.mbx.held.filter fun (h :
    Held) => h.ch = q.ch.val).length < 4)) → (s.dev.arrived op.toNat q).mbxCheck (unknownOp op.toNat) false q = some r → exec
    (.mbxUnknownOpcode op q) s = .next { s with dev := ((s.dev.arrived op.toNat q).answer op.toNat q r) })

/-- While the endpoint answers on a transport (and SEC runs, for SPDM) each request is answered by exactly the message stated:
identifiers set and read back, the null and broadcast ones refused (the refusal is the model's reading of DSP0236), version
and algorithm answers, the certificate chain's bytes and digest, and signed challenge and measurement answers over the nonce,
a fresh nonce and the measured blocks; an unsupported request gets an SPDM error; a discarded message changes nothing but the
drop flag. -/
def Obligations.MctpControlAndAttestation : Prop :=
  (∀ (s : State) (ch : Fin 2) (eid : Byte), s.dev.mctpUp ch.val = true → eid ≠ 0 → eid ≠ 0xFF → exec (.setEndpointId ch eid) s =
    .next { s with dev := ({ s.dev with mbx.eid := (tset (fun _ => 0) s.dev.mbx.eid ch.val eid.toNat) }.emit (.msg
    "MCTP Set Endpoint ID" ch.val [eid])) }) ∧
  -- refused: PRESUMED, the log
  (∀ (s : State) (ch : Fin 2) (eid : Byte), s.dev.mctpUp ch.val = true → eid = 0 ∨ eid = 0xFF → exec (.setEndpointId ch eid) s =
    .next { s with dev := (s.dev.emit (.msg "MCTP Set Endpoint ID refused" ch.val [])) }) ∧
  (∀ (s : State) (ch : Fin 2), s.dev.mctpUp ch.val = true → exec (.getEndpointId ch) s = .next { s with dev := (s.dev.emit (.msg
    "MCTP Get Endpoint ID" ch.val (le 1 (tget (fun _ => 0) s.dev.mbx.eid ch.val)))) }) ∧
  (∀ (s : State) (ch : Fin 2), s.dev.mctpUp ch.val = true → exec (.getEndpointUuid ch) s = .next { s with dev := (s.dev.emit
    (.msg "MCTP Get Endpoint UUID" ch.val (le 16 Config.uuid.toNat))) }) ∧
  -- the version number is a free value
  (∀ (s : State) (ch : Fin 2) (ty : Byte), s.dev.mctpUp ch.val = true → exec (.getMctpVersionSupport ch ty) s = .next { s with
    dev := (s.dev.free.2.emit (.msg "MCTP Get MCTP Version Support" ch.val (ty :: le 4 s.dev.free.1))) }) ∧
  (∀ (s : State) (ch : Fin 2), s.dev.mctpUp ch.val = true → exec (.getMessageTypeSupport ch) s = .next { s with dev :=
    (s.dev.emit (.msg "MCTP Get Message Type Support" ch.val [0x05, 0x7E])) }) ∧
  (∀ (s : State) (ch : Fin 2), s.dev.mctpUp ch.val = true → exec (.mctpMessageDiscard ch true) s = .next { s with dev :=
    (s.dev.wr F.MBX_ERR_MCTP_DROP 0 1) }) ∧
  (∀ (s : State) (ch : Fin 2), exec (.mctpMessageDiscard ch false) s = .next { s with dev := (s.dev) }) ∧
  (∀ (s : State) (ch : Fin 2), s.dev.mctpUp ch.val = true → s.dev.coreUp coreSec = true → exec (.spdmGetVersion ch) s = .next {
    s with dev := (s.dev.emit (.msg "SPDM VERSION 1.3" ch.val ([]))) }) ∧
  (∀ (s : State) (ch : Fin 2), s.dev.mctpUp ch.val = true → s.dev.coreUp coreSec = true → exec (.spdmGetCapabilities ch) s =
    .next { s with dev := (s.dev.emit (.msg "SPDM CAPABILITIES: certificates, challenge, signed measurements" ch.val ([]))) }) ∧
  (∀ (s : State) (ch : Fin 2) (p384 : Bool) (sha384 : Bool), s.dev.mctpUp ch.val = true → s.dev.coreUp coreSec = true → exec
    (.spdmNegotiateAlgorithms ch p384 sha384) s = .next { s with dev := (s.dev.emit (.msg "SPDM ALGORITHMS" ch.val (le 1
    p384.toNat ++ le 1 sha384.toNat))) }) ∧
  (∀ (s : State) (ch : Fin 2), s.dev.mctpUp ch.val = true → s.dev.coreUp coreSec = true → exec (.spdmGetDigests ch) s = .next {
    s with dev := (s.dev.emit (.msg "SPDM DIGESTS slot 0" ch.val (chainDigest))) }) ∧
  (∀ (s : State) (ch : Fin 2) (slot : Byte) (off : BitVec 16) (len : BitVec 16), s.dev.mctpUp ch.val = true → s.dev.coreUp
    coreSec = true → slot = 0 → exec (.spdmGetCertificate ch slot off len) s = .next { s with dev := (s.dev.emit (.msg
    "SPDM CERTIFICATE" ch.val ((Config.certChain.drop off.toNat).take len.toNat))) }) ∧
  (∀ (s : State) (ch : Fin 2) (slot : Byte) (off : BitVec 16) (len : BitVec 16), s.dev.mctpUp ch.val = true → s.dev.coreUp
    coreSec = true → slot ≠ 0 → exec (.spdmGetCertificate ch slot off len) s = .next { s with dev := (s.dev.emit (.msg
    "SPDM ERROR" ch.val [])) }) ∧
  (∀ (s : State) (ch : Fin 2) (nonce : List Byte), s.dev.mctpUp ch.val = true → s.dev.coreUp coreSec = true → exec
    (.spdmChallenge ch nonce) s = .next { s with dev := (s.dev.fresh32.2.emit (.msg "SPDM CHALLENGE_AUTH" ch.val (signed384
    (s.dev.fresh32.2.derivedKey keyAlias) (fitBytes 32 nonce ++ chainDigest ++ s.dev.fresh32.1)))) }) ∧
  (∀ (s : State) (ch : Fin 2) (index : Byte) (nonce : List Byte), s.dev.mctpUp ch.val = true → s.dev.coreUp coreSec = true →
    index ≠ 0xFF → exec (.spdmGetMeasurements ch index nonce) s = .next { s with dev := (s.dev.fresh32.2.emit (.msg
    "SPDM MEASUREMENTS" ch.val (signed384 (s.dev.fresh32.2.derivedKey keyAlias) (fitBytes 32 nonce ++ s.dev.measureBlock
    index.toNat ++ s.dev.fresh32.1)))) }) ∧
  (∀ (s : State) (ch : Fin 2) (index : Byte) (nonce : List Byte), s.dev.mctpUp ch.val = true → s.dev.coreUp coreSec = true →
    index = 0xFF → exec (.spdmGetMeasurements ch index nonce) s = .next { s with dev := (s.dev.fresh32.2.emit (.msg
    "SPDM MEASUREMENTS" ch.val (signed384 (s.dev.fresh32.2.derivedKey keyAlias) (fitBytes 32 nonce ++ (List.range 20).flatMap
    s.dev.measureBlock ++ s.dev.fresh32.1)))) }) ∧
  (∀ (s : State) (ch : Fin 2), s.dev.mctpUp ch.val = true → s.dev.coreUp coreSec = true → exec (.spdmUnsupportedRequest ch) s =
    .next { s with dev := (s.dev.emit (.msg "SPDM ERROR UnsupportedRequest" ch.val ([]))) })

/-- MBX_CH_DONE frees a channel that holds a reply; a completion that waited is committed once queue 4 has room; held requests
past their bound are answered TIMEOUT; a lease unused for half a second expires with event 9, after a quarter it is announced;
log records are written to the ring when level and core are enabled; an enabled trace point puts two words into queue 0; an
archive stores the recorder's image. -/
def Obligations.MailboxServiceEvents : Prop :=
  (∀ (s : State) (c : Fin 4), s.dev.linkUp = true → s.dev.rd F.MBX_CH_STATUS_STATE c = 2 → exec (.mbxChDone c) s = .next { s
    with dev := ((s.dev.wr F.MBX_CH_STATUS_STATE c 0).wr F.MBX_CH_STATUS_DONE c 0) }) ∧
  (∀ (s : State) (id : Nat) (pkt : List Byte) (l : List (Nat × List Byte)), s.dev.obs.waitingCompl = (id, pkt) :: l → s.dev.is
    F.CQ_CFG_EN 4 = true → s.dev.cqFits 4 pkt.length = true → exec (.completionWrite) s = .next { s with dev := ({ s.dev with
    obs.waitingCompl := l }.complCommit id pkt) }) ∧
  (∀ (s : State), s.dev.sysOn = true → exec (.replyTimeout) s = .next { s with dev := ((s.dev.mbx.held.filter fun (h : Held) =>
    h.at' + replyBound h.op ≤ s.dev.gts).foldl (fun e (h : Held) => e.replyHeld h.id (.of msTimeout)) { s.dev with pwr.clkOps :=
    (s.dev.pwr.clkOps.filter fun p => !((s.dev.mbx.held.filter fun (h : Held) => h.at' + replyBound h.op ≤ s.dev.gts).any fun (h
    : Held) => h.id = p.1)) }) }) ∧
  (∀ (s : State), s.dev.leaseDue 500000000 = true → exec (.leaseExpiry) s = .next { s with dev := ((s.dev.leaseSet 2 (s.dev.rd
    F.MBX_STATUS_LEASE_XPORT)).event 9 0 (s.dev.rd F.MBX_STATUS_LEASE_XPORT)) }) ∧
  (∀ (s : State), s.dev.leaseDue 250000000 = true → s.dev.mbx.warned = false → exec (.leaseWarning) s = .next { s with dev := ({
    s.dev with mbx.warned := true }.vector 2) }) ∧
  (∀ (s : State) (n : Byte) (core : Fin 11) (arg : Word), s.dev.sysOn = true → s.dev.coreUp core = true → tget (fun _ => false)
    s.dev.obs.traceEn n.toNat = true → s.dev.is F.CQ_CFG_EN 0 = true → exec (.tracePoint n core arg) s = .next { s with dev :=
    ((s.dev.cqStreamWord 0 true (n.toNat * 2 ^ 24 + core.val * 65536 + s.dev.gts % 65536)).cqStreamWord 0 false arg.toNat) }) ∧
  (∀ (s : State) (core : Fin 11) (level : Fin 4) (code : Word) (args : List Byte) (n : Nat) (b : List Byte) (e f : Dev),
    s.dev.sysOn = true → s.dev.coreUp core.val = true → level.val + 1 ≤ s.dev.obs.logLevel → bitOf s.dev.obs.logMask core.val =
    true → s.dev.obs.logCopy = false → n = 24 + ((args.take 232).length + 7) / 8 * 8 → b = le 8 s.dev.obs.logSeq ++ le 8
    s.dev.gts ++ le 2 n ++ le 1 core.val ++ le 1 (level.val + 1) ++ le 4 code.toNat ++ fitBytes (n - 24) (args.take 232) → e =
    s.dev.logStn s.dev.obs.logHead b → f =
    { e with obs.logSeq := (e.obs.logSeq + 1), obs.logHead := (s.dev.obs.logHead + n), obs.logRecs := ((e.obs.logRecs ++ [(e.obs.logSeq, s.dev.obs.logHead, n)]).filter (fun (r : Nat × Nat × Nat) => s.dev.obs.logHead + n ≤ r.2.1 + logSize)) }
    → exec (.logRecord core level code args) s = .next { s with dev := (f) }) ∧
  (∀ (s : State) (core : Fin 11) (level : Fin 4) (code : Word) (args : List Byte) (n : Nat) (b : List Byte) (e f : Dev),
    s.dev.sysOn = true → s.dev.coreUp core.val = true → level.val + 1 ≤ s.dev.obs.logLevel → bitOf s.dev.obs.logMask core.val =
    true → s.dev.obs.logCopy = true → n = 24 + ((args.take 232).length + 7) / 8 * 8 → b = le 8 s.dev.obs.logSeq ++ le 8
    s.dev.gts ++ le 2 n ++ le 1 core.val ++ le 1 (level.val + 1) ++ le 4 code.toNat ++ fitBytes (n - 24) (args.take 232) → e =
    s.dev.logStn s.dev.obs.logHead b → f =
    { e with obs.logSeq := (e.obs.logSeq + 1), obs.logHead := (s.dev.obs.logHead + n), obs.logRecs := ((e.obs.logRecs ++ [(e.obs.logSeq, s.dev.obs.logHead, n)]).filter (fun (r : Nat × Nat × Nat) => s.dev.obs.logHead + n ≤ r.2.1 + logSize)) }
    → exec (.logRecord core level code args) s = .next { s with dev := ((f.cqSend 5 b).2) }) ∧
  (∀ (s : State) (ok : Bool), s.dev.sysOn = true → s.dev.coreUp coreSec = true → exec (.recorderArchive ok) s = .next { s with
    dev := (s.dev.ffrArchive ok) })

/-- An aperture access that names an address of a tile stores to it unless the tile holds a program, and reads it with its poison;
another stores nothing and reads 0. A seed write acts unless the tile runs. The oldest load request is carried out. COMMIT
makes a complete slot READY, retiring its predecessor, and is refused otherwise; RETIRE frees a slot, after its invocation if
one runs. -/
def Obligations.TileApertureAndLoads : Prop :=
  (∀ (s : State) (t : Fin 72) (off : BitVec 15) (w : Width) (v : DWord) (a : Nat), s.dev.arrOn = true → s.dev.aperture t.val
    off.toNat w = some a → ¬ (s.dev.tst t.val = tsLoading ∨ s.dev.tst t.val = tsLoaded ∨ s.dev.tst t.val = tsRunning) → exec
    (.tileApertureWrite t off w v) s = .next { s with dev := (s.dev.stn (.tile t.val) a (le (widthBytes w) v.toNat)) }) ∧
  (∀ (s : State) (t : Fin 72) (off : BitVec 15) (w : Width) (v : DWord) (a : Nat), s.dev.arrOn = true → s.dev.aperture t.val
    off.toNat w = some a → s.dev.tst t.val = tsLoading ∨ s.dev.tst t.val = tsLoaded ∨ s.dev.tst t.val = tsRunning → exec
    (.tileApertureWrite t off w v) s = .next { s with dev := (s.dev.wr F.TILE_ERR_APERTURE t.val 1) }) ∧
  (∀ (s : State) (t : Fin 72) (off : BitVec 15) (w : Width) (v : DWord), s.dev.arrOn = true → s.dev.aperture t.val off.toNat w =
    none → exec (.tileApertureWrite t off w v) s = .next { s with dev := (s.dev) }) ∧
  (∀ (s : State) (t : Fin 72) (off : BitVec 15) (w : Width) (a : Nat), s.dev.arrOn = true → s.dev.aperture t.val off.toNat w =
    some a → s.dev.poisoned (.tile t.val) a = false → exec (.tileApertureRead t off w) s = .next { s with dev := (s.dev.emit
    (.data (BitVec.ofNat 64 (s.dev.ld (.tile t.val) a (widthBytes w))) false)) }) ∧
  (∀ (s : State) (t : Fin 72) (off : BitVec 15) (w : Width) (a : Nat), s.dev.arrOn = true → s.dev.aperture t.val off.toNat w =
    some a → s.dev.poisoned (.tile t.val) a = true → exec (.tileApertureRead t off w) s = .next { s with dev := ((s.dev.emit
    (.data (BitVec.ofNat 64 (s.dev.ld (.tile t.val) a (widthBytes w))) true)).wr F.TILE_ERR_APERTURE t.val 1) }) ∧
  (∀ (s : State) (t : Fin 72) (off : BitVec 15) (w : Width), s.dev.arrOn = true → s.dev.aperture t.val off.toNat w = none → exec
    (.tileApertureRead t off w) s = .next { s with dev := (s.dev.emit (.data 0 false)) }) ∧
  (∀ (s : State) (t : Fin 72) (seed : Word), s.dev.arrOn = true → s.dev.tst t.val ≠ tsRunning → exec (.tileSrSeedWrite t seed) s
    = .next { s with dev := (s.dev.reseed t.val seed.toNat) }) ∧
  (∀ (s : State) (t : Fin 72) (seed : Word), s.dev.tst t.val = tsRunning → exec (.tileSrSeedWrite t seed) s = .next { s with dev
    := (s.dev) }) ∧
  (∀ (s : State) (q : LoadReq) (rest : List LoadReq) (e : Dev), s.dev.arrOn = true → s.dev.coreUp corePmc = true →
    s.dev.arr.loads = q :: rest → e = { s.dev with arr.loads := rest } → exec (.loaderLoad) s = .next { s with dev :=
    ((e.loadsShow.loadRun q).loadsShow) }) ∧
  (∀ (s : State), s.dev.arr.loads = [] → exec (.loaderLoad) s = .next { s with dev := (s.dev) }) ∧
  (∀ (s : State) (n : Fin 32), s.dev.arrOn = true → s.dev.commitOk n.val = true → s.dev.is F.SLOT_CTRL_PRED_VALID n.val = false
    → exec (.slotCommit n) s = .next { s with dev := (s.dev.wr F.SLOT_STATE_STATE n.val ssReady) }) ∧
  (∀ (s : State) (n : Fin 32) (e : Dev), s.dev.arrOn = true → s.dev.commitOk n.val = true → s.dev.is F.SLOT_CTRL_PRED_VALID
    n.val = true → e = s.dev.wr F.SLOT_STATE_STATE n.val ssReady → exec (.slotCommit n) s = .next { s with dev := (e.slotRetire
    (s.dev.rd F.SLOT_CTRL_PRED n.val)) }) ∧
  (∀ (s : State) (n : Fin 32), s.dev.arrOn = true → s.dev.commitOk n.val = false → exec (.slotCommit n) s = .next { s with dev
    := (s.dev.wr F.SLOT_STATE_COMMIT_REJECT n.val 1) }) ∧
  (∀ (s : State) (n : Fin 32) (e : Dev), s.dev.arrOn = true → e = s.dev.roleLeave n.val → e.sst n.val = ssRunning → exec
    (.slotCtrlRetire n) s = .next { s with dev := (e.wr F.SLOT_STATE_STATE n.val ssRetiring) }) ∧
  (∀ (s : State) (n : Fin 32) (e : Dev), s.dev.arrOn = true → e = s.dev.roleLeave n.val → e.sst n.val ≠ ssRunning → e.sst n.val
    ≠ ssFree → e.sst n.val ≠ ssRetiring → exec (.slotCtrlRetire n) s = .next { s with dev := (e.slotFree n.val) }) ∧
  (∀ (s : State) (n : Fin 32) (e : Dev), s.dev.arrOn = true → e = s.dev.roleLeave n.val → e.sst n.val = ssFree ∨ e.sst n.val =
    ssRetiring → exec (.slotCtrlRetire n) s = .next { s with dev := (e) })

/-- An explicit trigger starts an invocation on a READY slot, is held on a busy one, and is counted as dropped when one is held
already; a timer tick not yet taken starts an invocation or is an overrun. A completed invocation commits its outputs, its
sequence number, its checkpoint and its lateness, and ends; one past its watchdog is aborted with WDOG in every tile. -/
def Obligations.SlotInvocations : Prop :=
  (∀ (s : State) (n : Fin 32), s.dev.arrOn = true → s.dev.sst n.val = ssReady → s.dev.slotUp n.val = true → exec (.slotInvoke n)
    s = .next { s with dev := (s.dev.invStart n.val s.dev.gts true) }) ∧
  (∀ (s : State) (n : Fin 32), s.dev.arrOn = true → s.dev.sst n.val = ssRunning ∨ s.dev.sst n.val = ssRebuilding → ¬ (s.dev.sst
    n.val = ssRunning ∧ (s.dev.sl n.val).trig = s.dev.gts ∧ ¬ (s.dev.sl n.val).explicit = true) → (s.dev.sl n.val).pend = false
    → exec (.slotInvoke n) s = .next { s with dev := (s.dev.slMod n.val fun x => { x with pend := true, pendAt := s.dev.gts })
    }) ∧
  (∀ (s : State) (n : Fin 32), s.dev.arrOn = true → s.dev.sst n.val = ssRunning ∨ s.dev.sst n.val = ssRebuilding → ¬ (s.dev.sst
    n.val = ssRunning ∧ (s.dev.sl n.val).trig = s.dev.gts ∧ ¬ (s.dev.sl n.val).explicit = true) → (s.dev.sl n.val).pend = true →
    exec (.slotInvoke n) s = .next { s with dev := (s.dev.inc F.SLOT_COUNTS_DROPPED n.val) }) ∧
  (∀ (s : State) (n : Fin 32) (t : Nat) (e : Dev), s.dev.arrOn = true → s.dev.lastTick n.val = some t → (s.dev.sl n.val).tick ≠
    some t → e = (s.dev.slMod n.val fun x => { x with tick := (some t) }) → e.sst n.val = ssReady → e.slotUp n.val = true → exec
    (.slotTimerTick n) s = .next { s with dev := (e.invStart n.val t false) }) ∧
  (∀ (s : State) (n : Fin 32) (t : Nat) (e : Dev), s.dev.arrOn = true → s.dev.lastTick n.val = some t → (s.dev.sl n.val).tick ≠
    some t → e = (s.dev.slMod n.val fun x => { x with tick := (some t) }) → e.sst n.val = ssRunning ∨ e.sst n.val = ssRebuilding
    → ¬ (e.sst n.val = ssRunning ∧ (s.dev.sl n.val).trig = t ∧ (s.dev.sl n.val).explicit = true) → exec (.slotTimerTick n) s =
    .next { s with dev := (e.inc F.SLOT_COUNTS_OVERRUN n.val) }) ∧
  -- no tick, or the tick is taken
  (∀ (s : State) (n : Fin 32) (t : Nat), (s.dev.lastTick n.val = none) ∨ (s.dev.lastTick n.val = some t ∧ (s.dev.sl n.val).tick
    = some t) → exec (.slotTimerTick n) s = .next { s with dev := (s.dev) }) ∧
  (∀ (s : State) (n : Fin 32) (outs : List (List Byte)) (x : Slot) (late : Bool) (status flags : Nat) (e f g : Dev), s.dev.arrOn
    = true → s.dev.slotBusy n.val = true → s.dev.slotUp n.val = true → (((s.dev.slotTiles n.val).all fun t => (s.dev.tl
    t).ended) = true) → x = s.dev.sl n.val → late =
    (match lcBound (s.dev.rd F.SLOT_STATE_LC n.val) with | some b => decide (x.trig + b < s.dev.gts) | none => false) → status =
    maskOf 4 (fun k =>
    (match k with | 0 => late | 1 => (s.dev.slotTiles n.val).any (fun t => (s.dev.tl t).pois) | 2 => x.reseeded | _ => false)) →
    flags = (s.dev.slotTiles n.val).foldl (fun f t => f ||| (s.dev.tl t).fl) 0 → e = ((x.outs.zip (outs ++ List.replicate
    x.outs.length [])).foldl (fun (y : Dev) p => y.commitOut n.val (x.seq + 1) status flags p.1 p.2) s.dev) → f = (((e.slMod
    n.val fun y => { y with seq := (x.seq + 1) }).wr F.SLOT_SEQ_SEQ n.val (x.seq + 1)).checkpoint n.val) → g = (if late then
    f.inc F.SLOT_COUNTS_LATE n.val else f) → exec (.invocationCommit n outs) s = .next { s with dev := (((g.tilesStop
    n.val).oroCommit n.val status flags outs).invEnd n.val) }) ∧
  (∀ (s : State) (n : Fin 32) (e : Dev), s.dev.arrOn = true → s.dev.slotBusy n.val = true → s.dev.slotUp n.val = true →
    (s.dev.sl n.val).trig + lcWatchdog (s.dev.rd F.SLOT_STATE_LC n.val) ≤ s.dev.gts → e = (s.dev.slotTiles n.val).foldl (fun (x
    : Dev) t => x.wr F.TILE_ERR_WDOG t 1) s.dev → exec (.invocationWatchdog n) s = .next { s with dev := (e.invAbort n.val
    (((s.dev.slotTiles n.val).head?).getD 0) 2) })

/-- A fault of a tile in service is recorded and its CCC runs the takeover, or keeps it until it is up; an injected fatal error is
one. A heartbeat rises while the tile runs; a CCC's check faults the tiles whose count stands still; a reserve is tested each
24 h and fails if it does not pass; a row with 16 corrected errors within 24 h is remapped on an idle tile; the boot self-test
fails the reserve and the working tiles that do not pass. -/
def Obligations.TileSupervision : Prop :=
  (∀ (s : State) (t : Fin 72) (pass : Bool) (e : Dev), s.dev.arrOn = true → s.dev.tileServes t.val = true → e = (s.dev.wr
    F.TILE_ERR_UE_FATAL t.val 1).ffr causeTileFault t.val 0 → e.coreUp (3 + t.val / 9) = true → exec (.tileFault t .fatal pass)
    s = .next { s with dev := (e.tileFail t.val pass) }) ∧
  (∀ (s : State) (t : Fin 72) (pass : Bool) (e : Dev), s.dev.arrOn = true → s.dev.tileServes t.val = true → e = (s.dev.wr
    F.TILE_ERR_UE_FATAL t.val 1).ffr causeTileFault t.val 0 → e.coreUp (3 + t.val / 9) = false → exec (.tileFault t .fatal pass)
    s = .next { s with dev := ({ e with arr.faults := (e.arr.faults ++ [(t.val, pass)]) }) }) ∧
  (∀ (s : State) (t : Fin 72) (pass : Bool) (e : Dev), s.dev.arrOn = true → s.dev.tileServes t.val = true → e = (s.dev).ffr
    causeTileFault t.val 1 → e.coreUp (3 + t.val / 9) = true → exec (.tileFault t .dma pass) s = .next { s with dev :=
    (e.tileFail t.val pass) }) ∧
  (∀ (s : State) (t : Fin 72) (pass : Bool) (e : Dev), s.dev.arrOn = true → s.dev.tileServes t.val = true → e = (s.dev).ffr
    causeTileFault t.val 1 → e.coreUp (3 + t.val / 9) = false → exec (.tileFault t .dma pass) s = .next { s with dev := ({ e
    with arr.faults := (e.arr.faults ++ [(t.val, pass)]) }) }) ∧
  (∀ (s : State) (t : Fin 72) (pass : Bool) (e : Dev), s.dev.arrOn = true → s.dev.tileServes t.val = true → e = (s.dev).ffr
    causeTileFault t.val 2 → e.coreUp (3 + t.val / 9) = true → exec (.tileFault t .parity pass) s = .next { s with dev :=
    (e.tileFail t.val pass) }) ∧
  (∀ (s : State) (t : Fin 72) (pass : Bool) (e : Dev), s.dev.arrOn = true → s.dev.tileServes t.val = true → e = (s.dev).ffr
    causeTileFault t.val 2 → e.coreUp (3 + t.val / 9) = false → exec (.tileFault t .parity pass) s = .next { s with dev := ({ e
    with arr.faults := (e.arr.faults ++ [(t.val, pass)]) }) }) ∧
  (∀ (s : State) (t : Fin 72) (pass : Bool) (e : Dev), s.dev.arrOn = true → s.dev.tileServes t.val = true → e = (s.dev.wr
    F.TILE_ERR_UE_FATAL t.val 1).ffr causeTileFault t.val 0 → e.coreUp (3 + t.val / 9) = true → exec (.injectFatal t pass) s =
    .next { s with dev := (e.tileFail t.val pass) }) ∧
  (∀ (s : State) (t : Fin 72) (pass : Bool) (e : Dev), s.dev.arrOn = true → s.dev.tileServes t.val = true → e = (s.dev.wr
    F.TILE_ERR_UE_FATAL t.val 1).ffr causeTileFault t.val 0 → e.coreUp (3 + t.val / 9) = false → exec (.injectFatal t pass) s =
    .next { s with dev := ({ e with arr.faults := (e.arr.faults ++ [(t.val, pass)]) }) }) ∧
  (∀ (s : State) (t : Fin 72), s.dev.arrOn = true → s.dev.tst t.val = tsRunning → exec (.tileHeartbeatAdvance t) s = .next { s
    with dev := (s.dev.tlMod t.val fun x => { x with hb := (x.hb + 1) }) }) ∧
  (∀ (s : State) (c : Fin 8) (pass : Bool) (r : List Nat × Dev), s.dev.arrOn = true → s.dev.coreUp (3 + c.val) = true → r =
    (List.range 9).foldl (fun (r : List Nat × Dev) k => (if (r.2.hbCheck (9 * c.val + k)).1 then r.1 ++ [9 * c.val + k] else
    r.1, (r.2.hbCheck (9 * c.val + k)).2)) ([], s.dev) → exec (.cccHeartbeatCheck c pass) s = .next { s with dev := (r.1.foldl
    (fun (x : Dev) t => (x.wr F.TILE_ERR_HEARTBEAT t 1).tileFault t 3 pass) r.2) }) ∧
  (∀ (s : State) (c : Fin 8), s.dev.arrOn = true → s.dev.coreUp (3 + c.val) = true → s.dev.reserveOk c.val = true → tget (fun _
    => 0) s.dev.arr.bistAt c.val + dayNs ≤ s.dev.aont → exec (.reserveSelfTest c true) s = .next { s with dev := ({ s.dev with
    arr.bistAt := (tset (fun _ => 0) s.dev.arr.bistAt c.val s.dev.aont) }) }) ∧
  (∀ (s : State) (c : Fin 8) (e : Dev), s.dev.arrOn = true → s.dev.coreUp (3 + c.val) = true → s.dev.reserveOk c.val = true →
    tget (fun _ => 0) s.dev.arr.bistAt c.val + dayNs ≤ s.dev.aont → e = { s.dev with arr.bistAt := (tset (fun _ => 0)
    s.dev.arr.bistAt c.val s.dev.aont) } → exec (.reserveSelfTest c false) s = .next { s with dev := (e.reserveFail c.val) }) ∧
  (∀ (s : State) (t : Fin 72) (row : BitVec 20), s.dev.arrOn = true → s.dev.coreUp (3 + t.val / 9) = true → s.dev.tst t.val =
    tsIdle → (16 ≤ ((tget (fun _ => []) (s.dev.tl t.val).rowCe row.toNat).filter fun a => s.dev.aont < a + dayNs).length) →
    s.dev.rd F.TILE_REPAIR_ROWS_USED t.val < 32 → exec (.tileRowRemap t row) s = .next { s with dev := (((s.dev.tlMod t.val fun
    x => { x with rowCe := (tset (fun _ => []) x.rowCe row.toNat []) }).incW F.TILE_REPAIR_ROWS_USED t.val).ffr causeRowRepair
    t.val row.toNat) }) ∧
  (∀ (s : State) (t : Fin 72) (row : BitVec 20), (((tget (fun _ => []) (s.dev.tl t.val).rowCe row.toNat).filter fun a =>
    s.dev.aont < a + dayNs).length < 16) → exec (.tileRowRemap t row) s = .next { s with dev := (s.dev) }) ∧
  (∀ (s : State) (c : Fin 8) (good : BitVec 9) (e : Dev), s.dev.arrOn = true → s.dev.coreUp (3 + c.val) = true → e = (if
    s.dev.reserveOk c.val = true ∧ bitOf good.toNat 8 = false then s.dev.reserveFail c.val else s.dev) → exec (.bootTileSelfTest
    c good) s = .next { s with dev := ((List.range 8).foldl (fun (x : Dev) k => if bitOf good.toNat k ∨ (x.slotOf (9 * c.val +
    k)).isSome ∨ ¬ x.tileServes (9 * c.val + k) = true then x else x.tileFault (9 * c.val + k) 4 true) e) })

/-- For every tile instruction: if the tile is not RUNNING or its program has ended, the device is unchanged; if it can issue and
its NCTL is reserved for its destination format, the invocation of the tile's slot is aborted as ILLEGAL. -/
def Obligations.TileInstructionsNotIssuedOrIllegal : Prop :=
  ∀ (i : Instr) (o : TileOp) (s : State), i.tileOp = some o →
    (s.dev.canIssue o.t.val = false → exec i s = .next s) ∧
    (s.dev.canIssue o.t.val = true → nctlOk o.fd.val o.nctl.toNat = false →
      exec i s = .next { s with dev := s.dev.tileAbort o.t.val 0 })

/-- On a tile that can issue, with a legal NCTL: NOP, WAIT and YIELD go on to the next instruction; BRANCH and LOOP go to their
target or to the next instruction; SETSHAPE sets M, N and K; END ends the program; a matrix product with an accepted pair of
formats is accumulated, and another is ILLEGAL; STACC stores a bank; CLRACC clears one; a reserved OPC is ILLEGAL. -/
def Obligations.TileSequencerAndAccumulators : Prop :=
  (∀ (s : State) (o : TileOp), s.dev.canIssue o.t.val = true → nctlOk o.fd.val o.nctl.toNat = true → exec (.nop o) s = .next { s
    with dev := (s.dev.pcNext o.t.val) }) ∧
  (∀ (s : State) (o : TileOp), s.dev.canIssue o.t.val = true → nctlOk o.fd.val o.nctl.toNat = true → exec (.wait o) s = .next {
    s with dev := (s.dev.pcNext o.t.val) }) ∧
  (∀ (s : State) (o : TileOp), s.dev.canIssue o.t.val = true → nctlOk o.fd.val o.nctl.toNat = true → exec (.yield o) s = .next {
    s with dev := (s.dev.pcNext o.t.val) }) ∧
  (∀ (s : State) (o : TileOp) (target : Word), s.dev.canIssue o.t.val = true → nctlOk o.fd.val o.nctl.toNat = true → exec
    (.branch o true target) s = .next { s with dev := (s.dev.tlMod o.t.val fun x => { x with pc := target.toNat }) }) ∧
  (∀ (s : State) (o : TileOp) (target : Word), s.dev.canIssue o.t.val = true → nctlOk o.fd.val o.nctl.toNat = true → exec
    (.branch o false target) s = .next { s with dev := (s.dev.pcNext o.t.val) }) ∧
  (∀ (s : State) (o : TileOp) (target : Word), s.dev.canIssue o.t.val = true → nctlOk o.fd.val o.nctl.toNat = true → exec (.loop
    o true target) s = .next { s with dev := (s.dev.tlMod o.t.val fun x => { x with pc := target.toNat }) }) ∧
  (∀ (s : State) (o : TileOp) (target : Word), s.dev.canIssue o.t.val = true → nctlOk o.fd.val o.nctl.toNat = true → exec (.loop
    o false target) s = .next { s with dev := (s.dev.pcNext o.t.val) }) ∧
  (∀ (s : State) (o : TileOp) (m : Fin 32) (n : Fin 32) (k : Fin 65536), s.dev.canIssue o.t.val = true → nctlOk o.fd.val
    o.nctl.toNat = true → exec (.setshape o m n k) s = .next { s with dev := ((s.dev.tlMod o.t.val fun x =>
    { x with m := (m.val + 1), n := (n.val + 1), k := (k.val + 1) }).pcNext o.t.val) }) ∧
  (∀ (s : State) (o : TileOp), s.dev.canIssue o.t.val = true → nctlOk o.fd.val o.nctl.toNat = true → exec (.endProgram o) s =
    .next { s with dev := (s.dev.tlMod o.t.val fun x => { x with ended := true }) }) ∧
  (∀ (s : State) (o : TileOp) (bank : Fin 4) (c : Nat), s.dev.canIssue o.t.val = true → nctlOk o.fd.val o.nctl.toNat = true →
    mmaClass o.fa.val o.fb.val = some c → (s.dev.tl o.t.val).k % 32 = 0 ∨ c ≠ 2 → exec (.mma o bank) s = .next { s with dev :=
    ((s.dev.mma o bank.val c).pcNext o.t.val) }) ∧
  (∀ (s : State) (o : TileOp) (bank : Fin 4), s.dev.canIssue o.t.val = true → nctlOk o.fd.val o.nctl.toNat = true → mmaClass
    o.fa.val o.fb.val = none ∨ (mmaClass o.fa.val o.fb.val = some 2 ∧ (s.dev.tl o.t.val).k % 32 ≠ 0) → exec (.mma o bank) s =
    .next { s with dev := (s.dev.tileAbort o.t.val 0) }) ∧
  (∀ (s : State) (o : TileOp) (bank : Fin 4) (x : Tile) (vs : List SVal), s.dev.canIssue o.t.val = true → nctlOk o.fd.val
    o.nctl.toNat = true → x = s.dev.tl o.t.val → vs = ((List.range 1024).map fun e => (if bitOf x.accInt bank.val then
    ((Val.ofInt (signed 32 (tget (fun _ => (0 : Word)) x.acc (bank.val * 1024 + e)).toNat), some (signed 32 (tget (fun _ => (0 :
    Word)) x.acc (bank.val * 1024 + e)).toNat)) : SVal) else (f32 (tget (fun _ => (0 : Word)) x.acc (bank.val * 1024 +
    e)).toNat, none))) → exec (.stacc o bank) s = .next { s with dev := ((s.dev.tStore o.t.val o.d o.nctl.toNat true vs fun e =>
    tget (fun _ => false) x.accPois (bank.val * 1024 + e)).pcNext o.t.val) }) ∧
  (∀ (s : State) (o : TileOp) (bank : Fin 4), s.dev.canIssue o.t.val = true → nctlOk o.fd.val o.nctl.toNat = true → exec
    (.clracc o bank) s = .next { s with dev := ((s.dev.tlMod o.t.val fun x =>
    { x with acc := (x.acc.filter (fun p => p.1 / 1024 ≠ bank.val)), accPois := (x.accPois.filter (fun p => p.1 / 1024 ≠ bank.val)), accInt := (putBit x.accInt bank.val false) }).pcNext
    o.t.val) }) ∧
  (∀ (s : State) (o : TileOp) (opc : Byte), s.dev.canIssue o.t.val = true → exec (.reservedOpc o opc) s = .next { s with dev :=
    (s.dev.tileAbort o.t.val 0) })

/-- On a tile that can issue, with a legal NCTL and formats of the kind the group takes, each vector instruction stores the
results of its elements under NCTL with their poison and goes on; formats of the other kind are ILLEGAL. Results the spec
leaves open (a shift by 32 or more, an index before the SRAM) are free values. -/
def Obligations.TileVectorUnit : Prop :=
  (∀ (s : State) (o : TileOp) (op : VecOp) (n : Fin 65536) (a b c : Nat → Val × Flags), s.dev.canIssue o.t.val = true → nctlOk
    o.fd.val o.nctl.toNat = true → (!fmtInt o.fa.val && (vecSrcs op < 2 || !fmtInt o.fb.val)) = true → a = (fun i =>
    s.dev.load32 o.t.val o.a i) → b = (fun i => if 2 ≤ vecSrcs op then s.dev.load32 o.t.val o.b i else (Val.nan, 0)) → c = (fun
    i => if 3 ≤ vecSrcs op then s.dev.load32 o.t.val o.c i else (Val.nan, 0)) → exec (.vectorArithmetic o op n) s = .next { s
    with dev := ((s.dev.vecStore o (n.val + 1) (fun i => sval32 (vecElem op (a i).1 (b i).1 (c i).1 (toF32 (c i).1).1) ((a i).2
    ||| (b i).2 ||| (c i).2)) fun i => s.dev.tPoisE o.t.val o.a i || (2 ≤ vecSrcs op && s.dev.tPoisE o.t.val o.b i) || (3 ≤
    vecSrcs op && s.dev.tPoisE o.t.val o.c i)).pcNext o.t.val) }) ∧
  (∀ (s : State) (o : TileOp) (op : VecOp) (n : Fin 65536), s.dev.canIssue o.t.val = true → (!fmtInt o.fa.val && (vecSrcs op < 2
    || !fmtInt o.fb.val)) = false → exec (.vectorArithmetic o op n) s = .next { s with dev := (s.dev.tileAbort o.t.val 0) }) ∧
  (∀ (s : State) (o : TileOp) (n : Fin 65536), s.dev.canIssue o.t.val = true → nctlOk o.fd.val o.nctl.toNat = true → fmtInt
    o.fa.val = false → exec (.vectorDivSqrt o true n) s = .next { s with dev := ((s.dev.vecStore o (n.val + 1) (fun i => sval32
    (f32Op (s.dev.load32 o.t.val o.a i).1.sqrt) (s.dev.load32 o.t.val o.a i).2) fun i => s.dev.tPoisE o.t.val o.a i).pcNext
    o.t.val) }) ∧
  (∀ (s : State) (o : TileOp) (n : Fin 65536), s.dev.canIssue o.t.val = true → nctlOk o.fd.val o.nctl.toNat = true → fmtInt
    o.fa.val = false → fmtInt o.fb.val = false → exec (.vectorDivSqrt o false n) s = .next { s with dev := ((s.dev.vecStore o
    (n.val + 1) (fun i => sval32 (f32Op ((s.dev.load32 o.t.val o.a i).1.div (s.dev.load32 o.t.val o.b i).1)) ((s.dev.load32
    o.t.val o.a i).2 ||| (s.dev.load32 o.t.val o.b i).2)) fun i => s.dev.tPoisE o.t.val o.a i || s.dev.tPoisE o.t.val o.b
    i).pcNext o.t.val) }) ∧
  (∀ (s : State) (o : TileOp) (sqrt : Bool) (n : Fin 65536), s.dev.canIssue o.t.val = true → (!fmtInt o.fa.val && (sqrt ||
    !fmtInt o.fb.val)) = false → exec (.vectorDivSqrt o sqrt n) s = .next { s with dev := (s.dev.tileAbort o.t.val 0) }) ∧
  (∀ (s : State) (o : TileOp) (op : TransOp) (n : Fin 65536), s.dev.canIssue o.t.val = true → nctlOk o.fd.val o.nctl.toNat =
    true → fmtInt o.fa.val = false → exec (.vectorTranscendental o op n) s = .next { s with dev := ((s.dev.vecStore o (n.val +
    1) (fun i => sval32 (transElem op (s.dev.load32 o.t.val o.a i).1) (s.dev.load32 o.t.val o.a i).2) (s.dev.tPoisE o.t.val
    o.a)).pcNext o.t.val) }) ∧
  (∀ (s : State) (o : TileOp) (op : TransOp) (n : Fin 65536), s.dev.canIssue o.t.val = true → (!fmtInt o.fa.val) = false → exec
    (.vectorTranscendental o op n) s = .next { s with dev := (s.dev.tileAbort o.t.val 0) }) ∧
  (∀ (s : State) (o : TileOp) (op : IntOp) (n : Fin 65536) (e : Dev), s.dev.canIssue o.t.val = true → nctlOk o.fd.val
    o.nctl.toNat = true → (fmtInt o.fa.val && fmtInt o.fb.val) = true → e = ((s.dev.vecStore o (n.val + 1) (fun i => ((Val.ofInt
    (intElem op (s.dev.tInt o.t.val o.a i) (s.dev.tInt o.t.val o.b i) ((Config.freeWord (s.dev.freeCtr + i)).toNat % 2 ^ 32)).1,
    some (intElem op (s.dev.tInt o.t.val o.a i) (s.dev.tInt o.t.val o.b i) ((Config.freeWord (s.dev.freeCtr + i)).toNat % 2 ^
    32)).1), (intElem op (s.dev.tInt o.t.val o.a i) (s.dev.tInt o.t.val o.b i) ((Config.freeWord (s.dev.freeCtr + i)).toNat % 2
    ^ 32)).2)) fun i => s.dev.tPoisE o.t.val o.a i || s.dev.tPoisE o.t.val o.b i)) → exec (.vectorInteger o op n) s = .next { s
    with dev := (({ e with freeCtr := (s.dev.freeCtr + n.val + 1) } : Dev).pcNext o.t.val) }) ∧
  (∀ (s : State) (o : TileOp) (op : IntOp) (n : Fin 65536), s.dev.canIssue o.t.val = true → (fmtInt o.fa.val && fmtInt o.fb.val)
    = false → exec (.vectorInteger o op n) s = .next { s with dev := (s.dev.tileAbort o.t.val 0) }) ∧
  (∀ (s : State) (o : TileOp) (n : Fin 65536), s.dev.canIssue o.t.val = true → nctlOk o.fd.val o.nctl.toNat = true → exec
    (.vectorConvert o n) s = .next { s with dev := ((s.dev.vecStore o (n.val + 1) (fun i => (s.dev.tSrc o.t.val o.a i, 0))
    (s.dev.tPoisE o.t.val o.a)).pcNext o.t.val) }) ∧
  (∀ (s : State) (o : TileOp) (op : RedOp) (n : Fin 65536), s.dev.canIssue o.t.val = true → nctlOk o.fd.val o.nctl.toNat = true
    → exec (.reduce o op n) s = .next { s with dev := ((s.dev.vecStore o 1 (fun _ => s.dev.reduceVal o op (n.val + 1)) fun _ =>
    (List.range (n.val + 1)).any (s.dev.tPoisE o.t.val o.a)).pcNext o.t.val) }) ∧
  (∀ (s : State) (o : TileOp) (n : Fin 65536) (e : Dev), s.dev.canIssue o.t.val = true → nctlOk o.fd.val o.nctl.toNat = true →
    fmtInt o.fb.val = true → e = ((s.dev.vecStore o (n.val + 1) (fun e => (s.dev.gatherVal o e, 0)) fun e => s.dev.tPoisE
    o.t.val o.b e || (0 ≤ s.dev.tInt o.t.val o.b e && s.dev.tPoisE o.t.val o.a (s.dev.tInt o.t.val o.b e).toNat))) → exec
    (.gather o n) s = .next { s with dev := (({ e with freeCtr := (s.dev.freeCtr + n.val + 1) } : Dev).pcNext o.t.val) }) ∧
  (∀ (s : State) (o : TileOp) (n : Fin 65536), s.dev.canIssue o.t.val = true → (fmtInt o.fb.val) = false → exec (.gather o n) s
    = .next { s with dev := (s.dev.tileAbort o.t.val 0) }) ∧
  (∀ (s : State) (o : TileOp) (n : Fin 65536) (g : List Nat × Tile) (cs : List Nat × Flags) (bad : Nat → Bool) (x : Dev),
    s.dev.canIssue o.t.val = true → nctlOk o.fd.val o.nctl.toNat = true → (fmtInt o.fb.val && !fmtMX o.fd.val) = true → g =
    (s.dev.tl o.t.val).draws (decide (o.nctl.toNat % 4 = 2)) false (n.val + 1) → cs = (storeCodes o.fd.val (nctlRnd
    o.nctl.toNat) ((List.range (n.val + 1)).map fun e => s.dev.tSrc o.t.val o.a e) g.1) → bad = (fun e => s.dev.tPoisE o.t.val
    o.a e || s.dev.tPoisE o.t.val o.b e) → x = (s.dev.tlPut o.t.val g.2).tFlags o.t.val cs.2 → exec (.scatter o n) s = .next { s
    with dev := ((((List.range (n.val + 1)).foldl (fun (y : Dev) e => y.tPutElem o.t.val o.d (s.dev.tInt o.t.val o.b e)
    (cs.1.getD e 0) (bad e)) x).tPoison o.t.val ((List.range (n.val + 1)).any bad)).pcNext o.t.val) }) ∧
  (∀ (s : State) (o : TileOp) (n : Fin 65536), s.dev.canIssue o.t.val = true → (fmtInt o.fb.val && !fmtMX o.fd.val) = false →
    exec (.scatter o n) s = .next { s with dev := (s.dev.tileAbort o.t.val 0) })

/-- On a tile that can issue, with a legal NCTL: TREECFG names the ensemble, TREEBATCH stores its outputs for each feature vector
and writes nothing before TREECFG, and is ILLEGAL on another format than FP32; a copy whose every row lies in the slot's
windows moves the rows, and one that does not ends the invocation with ADDR and moves none; SIGNAL raises the count of its
logical tile or ends with ADDR; WAITSIG takes a signal or waits. -/
def Obligations.TileTreeEngineAndTransfers : Prop :=
  (∀ (s : State) (o : TileOp) (cfg : TreeCfg) (e : Ensemble), s.dev.canIssue o.t.val = true → nctlOk o.fd.val o.nctl.toNat =
    true → e =
    ({ nodes := cfg.nodes.toNat, leaves := cfg.leaves.toNat, base := cfg.base.toNat, trees := (cfg.trees.map fun r => (r.1.toNat, r.2.val)) })
    → exec (.treecfg o cfg) s = .next { s with dev := ((s.dev.tlMod o.t.val fun x => { x with ens := (some e) }).pcNext o.t.val)
    }) ∧
  -- before TREECFG
  (∀ (s : State) (o : TileOp) (v : BitVec 16) (nf : Fin 1025), s.dev.canIssue o.t.val = true → nctlOk o.fd.val o.nctl.toNat =
    true → o.fa = 0 → (s.dev.tl o.t.val).ens = none → exec (.treebatch o v nf) s = .next { s with dev := (s.dev.pcNext o.t.val)
    }) ∧
  (∀ (s : State) (o : TileOp) (v : BitVec 16) (nf : Fin 1025) (e : Ensemble) (r : List ((Val × Flags) × Bool)) (y : Dev),
    s.dev.canIssue o.t.val = true → nctlOk o.fd.val o.nctl.toNat = true → o.fa = 0 → (s.dev.tl o.t.val).ens = some e → r =
    (((List.range (v.toNat * e.outs)).map fun i => s.dev.treeOut o.t.val e (o.srcA.toNat + 4 * nf.val * (i / e.outs)) (i %
    e.outs))) → y = ((s.dev.vecStore o (v.toNat * e.outs) (fun i =>
    (match (r.drop i).head? with | some x => ((x.1.1, none), x.1.2) | none => ((.nan, none), 0))) fun i =>
    (match (r.drop i).head? with | some x => x.2 | none => false))) → exec (.treebatch o v nf) s = .next { s with dev := (({ y
    with freeCtr := (s.dev.freeCtr + 2 ^ 20) } : Dev).pcNext o.t.val) }) ∧
  (∀ (s : State) (o : TileOp) (v : BitVec 16) (nf : Fin 1025), s.dev.canIssue o.t.val = true → o.fa ≠ 0 → exec (.treebatch o v
    nf) s = .next { s with dev := (s.dev.tileAbort o.t.val 0) }) ∧
  (∀ (s : State) (o : TileOp) (da sa : BitVec 35) (len : Word) (n : Nat), s.dev.canIssue o.t.val = true → nctlOk o.fd.val
    o.nctl.toNat = true → s.dev.slotOf o.t.val = some n → (s.dev.dmaPlace o.t.val n sa.toNat len.toNat).isSome = true →
    (s.dev.dmaPlace o.t.val n da.toNat len.toNat).isSome = true → exec (.copy o da sa len) s = .next { s with dev :=
    ((s.dev.dmaMove o.t.val n da.toNat sa.toNat len.toNat).pcNext o.t.val) }) ∧
  (∀ (s : State) (o : TileOp) (da sa : BitVec 35) (len : Word) (n : Nat), s.dev.canIssue o.t.val = true → nctlOk o.fd.val
    o.nctl.toNat = true → s.dev.slotOf o.t.val = some n → (s.dev.dmaPlace o.t.val n sa.toNat len.toNat).isSome = false ∨
    (s.dev.dmaPlace o.t.val n da.toNat len.toNat).isSome = false → exec (.copy o da sa len) s = .next { s with dev :=
    (s.dev.tileAbort o.t.val 1) }) ∧
  (∀ (s : State) (o : TileOp) (da sa : BitVec 35) (len : Word) (rows : BitVec 16) (dstr sstr : Word) (n : Nat), s.dev.canIssue
    o.t.val = true → nctlOk o.fd.val o.nctl.toNat = true → s.dev.slotOf o.t.val = some n → (((List.range rows.toNat).all fun r
    => (s.dev.dmaPlace o.t.val n (sa.toNat + r * sstr.toNat) len.toNat).isSome && (s.dev.dmaPlace o.t.val n (da.toNat + r *
    dstr.toNat) len.toNat).isSome) = true) → exec (.copy2d o da sa len rows dstr sstr) s = .next { s with dev := (((List.range
    rows.toNat).foldl (fun (x : Dev) r => x.dmaMove o.t.val n (da.toNat + r * dstr.toNat) (sa.toNat + r * sstr.toNat) len.toNat)
    s.dev).pcNext o.t.val) }) ∧
  -- no row is moved
  (∀ (s : State) (o : TileOp) (da sa : BitVec 35) (len : Word) (rows : BitVec 16) (dstr sstr : Word) (n : Nat), s.dev.canIssue
    o.t.val = true → nctlOk o.fd.val o.nctl.toNat = true → s.dev.slotOf o.t.val = some n → (((List.range rows.toNat).all fun r
    => (s.dev.dmaPlace o.t.val n (sa.toNat + r * sstr.toNat) len.toNat).isSome && (s.dev.dmaPlace o.t.val n (da.toNat + r *
    dstr.toNat) len.toNat).isSome) = false) → exec (.copy2d o da sa len rows dstr sstr) s = .next { s with dev :=
    (s.dev.tileAbort o.t.val 1) }) ∧
  (∀ (s : State) (o : TileOp) (l : Fin 64) (n u : Nat), s.dev.canIssue o.t.val = true → nctlOk o.fd.val o.nctl.toNat = true →
    s.dev.slotOf o.t.val = some n → s.dev.logical n l.val = some u → exec (.signal o l) s = .next { s with dev := ((s.dev.tlMod
    u fun x => { x with sig := (x.sig + 1) }).pcNext o.t.val) }) ∧
  (∀ (s : State) (o : TileOp) (l : Fin 64) (n : Nat), s.dev.canIssue o.t.val = true → nctlOk o.fd.val o.nctl.toNat = true →
    s.dev.slotOf o.t.val = some n → s.dev.logical n l.val = none → exec (.signal o l) s = .next { s with dev := (s.dev.tileAbort
    o.t.val 1) }) ∧
  (∀ (s : State) (o : TileOp), s.dev.canIssue o.t.val = true → nctlOk o.fd.val o.nctl.toNat = true → (s.dev.tl o.t.val).sig ≠ 0
    → exec (.waitsig o) s = .next { s with dev := ((s.dev.tlMod o.t.val fun x => { x with sig := (x.sig - 1) }).pcNext o.t.val)
    }) ∧
  (∀ (s : State) (o : TileOp), s.dev.canIssue o.t.val = true → nctlOk o.fd.val o.nctl.toNat = true → (s.dev.tl o.t.val).sig = 0
    → exec (.waitsig o) s = .next { s with dev := (s.dev) })

/-- Enabling and disabling the ports, each training stage that ends (DETECT with and without a beacon, EQ, ALIGN, PARAM agreed or
refused), the bound of a stage, the refresh of a standby link and RETRAIN take a link to the state the training table gives,
under the stated conditions on the link's state. -/
def Obligations.LinkTrainingCommands : Prop :=
  (∀ (s : State), exec (.vlEnWrite true) s = .next { s with dev := ((s.dev.wr F.VL_CTRL_EN 0 1).forAcc fun x a => (x.rerun
    a).modeUpdate a) }) ∧
  (∀ (s : State) (e f : Dev), e = (List.range 24).foldl (fun (x : Dev) n => x.linkFail n none) (s.dev.wr F.VL_CTRL_EN 0 0) → f =
    (List.range 24).foldl (fun (x : Dev) n => if x.lst n = lsDisabled then x else x.linkReset n lsDisabled) e → exec (.vlEnWrite
    false) s = .next { s with dev := (f.forAcc fun x a => if (x.acc a).wake.isSome then x.accLost a else x.modeUpdate a) }) ∧
  (∀ (s : State) (n : Fin 24), exec (.linkEnWrite n true) s = .next { s with dev := (((s.dev.wr F.LNK_CTRL_EN n 1).lkMod n fun x
    => { x with noEp := false }).kick (n.val / 3)) }) ∧
  (∀ (s : State) (n : Fin 24) (e : Dev), e = s.dev.wr F.LNK_CTRL_EN n 0 → e.lst n = lsActive → exec (.linkEnWrite n false) s =
    .next { s with dev := (e.linkFail n none) }) ∧
  (∀ (s : State) (n : Fin 24) (e : Dev), e = s.dev.wr F.LNK_CTRL_EN n 0 → e.lst n = lsWake → exec (.linkEnWrite n false) s =
    .next { s with dev := (e.wakeFail n) }) ∧
  (∀ (s : State) (n : Fin 24) (e : Dev), e = s.dev.wr F.LNK_CTRL_EN n 0 → e.lst n ≠ lsActive → e.lst n ≠ lsWake → exec
    (.linkEnWrite n false) s = .next { s with dev := ((e.linkReset n lsDisabled).modeUpdate (n.val / 3)) }) ∧
  (∀ (s : State) (n : Fin 24), s.dev.lst n = lsDetect → exec (.detectEnd n true) s = .next { s with dev := (s.dev.lkGo n lsEq)
    }) ∧
  -- no termination: NO_ENDPOINT, sideband-only once all three links said so
  (∀ (s : State) (n : Fin 24) (e : Dev), s.dev.lst n = lsDetect → e = (((s.dev.linkReset n lsDisabled).lkMod n fun x => { x with
    noEp := true }).wr F.LNK_ERR_NO_ENDPOINT n 1) → exec (.detectEnd n false) s = .next { s with dev := ((if (accLinks (n.val /
    3)).all fun k => (e.lk k).noEp then e.accMod (n.val / 3) fun x => { x with sideband := true } else e).modeUpdate (n.val /
    3)) }) ∧
  (∀ (s : State) (n : Fin 24), s.dev.lst n = lsEq → exec (.eqComplete n) s = .next { s with dev := (s.dev.lkGo n lsAlign) }) ∧
  (∀ (s : State) (n : Fin 24), s.dev.lst n = lsAlign → exec (.frameLock n) s = .next { s with dev := ((s.dev.lkGo n
    lsParam).paramSend n) }) ∧
  (∀ (s : State) (n : Fin 24), s.dev.lst n = lsWake → exec (.frameLock n) s = .next { s with dev := (s.dev.paramSend n) }) ∧
  -- a version 1.x peer with enough buffers is agreed on
  (∀ (s : State) (n : Fin 24) (p : Payload), s.dev.lst n = lsParam ∨ s.dev.lst n = lsWake → 0x10 ≤ pbits p 0 8 → pbits p 0 8 ≤
    0x1F → 8 ≤ pbits p 16 8 → 64 ≤ pbits p 24 8 → 128 ≤ pbits p 32 16 → 16 ≤ pbits p 48 8 → exec (.param n p) s = .next { s with
    dev := ((s.dev.paramAgree n p).trained n) }) ∧
  -- another major version fails the attempt
  (∀ (s : State) (n : Fin 24) (p : Payload), s.dev.lst n = lsParam → pbits p 0 8 < 0x10 ∨ 0x1F < pbits p 0 8 → exec (.param n p)
    s = .next { s with dev := (s.dev.attemptFail n) }) ∧
  (∀ (s : State) (n : Fin 24) (b : Nat), trainBound (s.dev.lst n) = some b → (s.dev.lk n).since + b ≤ s.dev.gts → s.dev.lst n ≠
    lsWake → exec (.trainingStateTimeout n) s = .next { s with dev := (s.dev.attemptFail n) }) ∧
  (∀ (s : State) (n : Fin 24), s.dev.lst n = lsWake → (s.dev.lk n).since + 12000 ≤ s.dev.gts → exec (.trainingStateTimeout n) s
    = .next { s with dev := (s.dev.wakeFail n) }) ∧
  (∀ (s : State) (n : Fin 24), s.dev.lst n = lsStandby → (s.dev.lk n).since + 1000000 ≤ s.dev.gts → exec (.standbyRefresh n
    true) s = .next { s with dev := (s.dev.lkGo n lsStandby) }) ∧
  (∀ (s : State) (n : Fin 24), s.dev.lst n = lsStandby → (s.dev.lk n).since + 1000000 ≤ s.dev.gts → exec (.standbyRefresh n
    false) s = .next { s with dev := (s.dev.linkTrain n) }) ∧
  (∀ (s : State) (n : Fin 24), s.dev.lst n = lsFault → exec (.retrain n) s = .next { s with dev := ((s.dev.wr
    F.LNK_STATE_ATTEMPTS n 0).linkTrain n) }) ∧
  (∀ (s : State) (n : Fin 24), s.dev.lst n = lsActive → exec (.retrain n) s = .next { s with dev := (s.dev.linkFail n none) })

/-- A failed ACTIVE link is fenced, its failure told on a surviving link with the last sequence number accepted, a standby reserve
woken, and the accelerator is lost where no link is left; ROLE flits are answered and the frozen flits sent again; ROLE
ASSUME_ACK moves the role and counts the takeover; the failure is told again after 200 ns; SCH alone may give a vacant role to
a standby link. -/
def Obligations.LinkFailureAndTakeover : Prop :=
  (∀ (s : State) (n : Fin 24) (r k : Nat) (e : Dev), s.dev.lst n = lsActive → r = s.dev.roleOf n → e = s.dev.fence n r →
    (accLinks (n.val / 3)).find? (fun i => e.lst i = lsActive) = some k → exec (.forceFail n) s = .next { s with dev := (((e.lct
    k 4 ([0, n.val % 3, r] ++ rxFields (s.dev.rxLastOf n))).wakeReserve (n.val / 3) r).lostOrMode (n.val / 3)) }) ∧
  (∀ (s : State) (n : Fin 24) (r : Nat) (e : Dev), s.dev.lst n = lsActive → r = s.dev.roleOf n → e = s.dev.fence n r → (accLinks
    (n.val / 3)).find? (fun i => e.lst i = lsActive) = none → exec (.forceFail n) s = .next { s with dev := ((e.wakeReserve
    (n.val / 3) r).lostOrMode (n.val / 3)) }) ∧
  (∀ (s : State) (n : Fin 24), s.dev.lst n = lsActive → exec (.lossOfSignal n) s = .next { s with dev := (s.dev.linkFail n (some
    F.LNK_ERR_LOS)) }) ∧
  (∀ (s : State) (n : Fin 24) (pos : Fin 3) (role : Fin 4) (rxseq : Option (BitVec 7)) (k : Nat) (e : Dev) (rx : Option Nat),
    s.dev.lst n = lsActive → k = 3 * (n.val / 3) + pos → k ≠ n → e = s.dev.linkFail k none → rx =
    (match (e.acc (n.val / 3)).failed.find? (fun x => x.pos = pos.val) with | some x => x.rxLast | none => none) → exec
    (.roleFailed n pos role rxseq) s = .next { s with dev := ((e.lct n 4 ([1, pos.val, role.val] ++ rxFields rx)).resend n pos
    (rxseq.map (·.toNat))) }) ∧
  (∀ (s : State) (n : Fin 24) (pos : Fin 3) (rxseq : Option (BitVec 7)), s.dev.lst n = lsActive → n.val % 3 ≠ pos → exec
    (.roleFailedAck n pos rxseq) s = .next { s with dev := (s.dev.resend n pos (rxseq.map (·.toNat))) }) ∧
  (∀ (s : State) (n : Fin 24) (role : Fin 4) (rxseq : Option (BitVec 7)) (x : Failed), s.dev.lst n = lsActive → (s.dev.acc
    (n.val / 3)).wake = some (n.val % 3, role.val) → s.dev.failedOf (n.val / 3) role = some x → exec (.roleAssume n role rxseq)
    s = .next { s with dev := ((s.dev.lct n 4 ([3, n.val % 3, role.val] ++ rxFields x.rxLast)).resend n x.pos (rxseq.map
    (·.toNat))) }) ∧
  (∀ (s : State) (n : Fin 24) (role : Fin 4) (rxseq : Option (BitVec 7)), s.dev.lst n = lsActive → (s.dev.acc (n.val / 3)).wake
    = some (n.val % 3, role.val) → s.dev.failedOf (n.val / 3) role = none → exec (.roleAssume n role rxseq) s = .next { s with
    dev := (s.dev.lct n 4 ([3, n.val % 3, role.val] ++ rxFields none)) }) ∧
  (∀ (s : State) (n : Fin 24) (role : Fin 4) (rxseq : Option (BitVec 7)) (e f : Dev), s.dev.lst n = lsActive → (s.dev.acc (n.val
    / 3)).wake = some (n.val % 3, role.val) → e = (((((if s.dev.holder (n.val / 3) 2 = n.val % 3 then s.dev.setRole (n.val / 3)
    2 3 else s.dev).setRole (n.val / 3) role (n.val % 3)).accMod (n.val / 3) fun x => { x with wake := none }).inc
    F.VL_STATUS_TAKEOVERS)) → f =
    (match e.failedOf (n.val / 3) role with | some x => e.resend n x.pos (rxseq.map (·.toNat)) | none => e) → exec
    (.roleAssumeAck n role rxseq) s = .next { s with dev := (((if role.val = 0 ∧ (f.acc (n.val / 3)).pairWait.isSome then
    f.pairReq (n.val / 3) 0 else f).modeUpdate (n.val / 3)).pumpAll (n.val / 3)) }) ∧
  (∀ (s : State) (a : Fin 8) (k : Nat) (due : List Failed), (accLinks a).find? (fun i => s.dev.lst i = lsActive) = some k → due
    = ((s.dev.acc a).failed.filter fun x => !x.done && decide (x.sentAt + 200 ≤ s.dev.gts)) → exec (.roleResendTimeout a) s =
    .next { s with dev := ((due.foldl (fun e x => e.lct k 4 ([0, x.pos, x.role] ++ rxFields x.rxLast)) s.dev).accMod a fun y =>
    { y with failed := (y.failed.map fun (x : Failed) => if !x.done && decide (x.sentAt + 200 ≤ s.dev.gts) then { x with sentAt
    := s.dev.gts } else x) }) }) ∧
  -- SCH gives the vacant primary role to a standby link
  (∀ (s : State) (a : Fin 8) (v : BitVec 6) (p : Nat), p = bitsOf v.toNat 0 2 → s.dev.holder a 0 = 3 → p < 3 → s.dev.lst (3 * a
    + p) = lsStandby → bitsOf v.toNat 2 2 = s.dev.holder a 1 → bitsOf v.toNat 4 2 = s.dev.holder a 2 → s.dev.is F.VL_CTRL_EN =
    true → (s.dev.acc a).wake.isNone = true → exec (.vlAccRoleWrite a .sch v) s = .next { s with dev := ((s.dev.lkGo (3 * a + p)
    lsWake).accMod a fun x => { x with wake := (some (p, 0)) }) }) ∧
  -- nobody else may
  (∀ (s : State) (a : Fin 8) (ag : Agent) (v : BitVec 6), ag ≠ .sch → exec (.vlAccRoleWrite a ag v) s = .next { s with dev :=
    (s.dev) })

/-- On an ACTIVE link: a frame's symbol errors are counted and eight bad ones in a row fail the link; a data flit with a wrong CRC
is answered by NAK, one without the valid bit does nothing, one past the receive buffers fails the link, any other takes a
buffer (or is a reserved TYPE) and its ACKSEQ is taken; STATUS returns credits; NAK replays from the named flit and a stale
one only sets BAD_NAK; the bounds of acknowledgement, NAK and the replay rate. -/
def Obligations.LinkLayerCommands : Prop :=
  (∀ (s : State) (n : Fin 24) (symErrs : Fin 69), s.dev.lst n = lsActive → s.dev.is F.LNK_STATE_FEC_CORRECT n = true →
    symErrs.val ≤ 2 → exec (.pcsFrameReceive n symErrs) s = .next { s with dev := ((s.dev.inc F.LNK_CNT1_FEC_SYM n
    symErrs).lkMod n fun x => { x with badFrames := 0 }) }) ∧
  (∀ (s : State) (n : Fin 24) (symErrs : Fin 69) (k : Nat), s.dev.lst n = lsActive → s.dev.is F.LNK_STATE_FEC_CORRECT n = true →
    2 < symErrs.val → k = ((s.dev.inc F.LNK_CNT1_FEC_UNCORR n).lk n).badFrames + 1 → k < 8 → exec (.pcsFrameReceive n symErrs) s
    = .next { s with dev := ((s.dev.inc F.LNK_CNT1_FEC_UNCORR n).lkMod n fun x => { x with badFrames := k }) }) ∧
  (∀ (s : State) (n : Fin 24) (symErrs : Fin 69) (k : Nat), s.dev.lst n = lsActive → s.dev.is F.LNK_STATE_FEC_CORRECT n = true →
    2 < symErrs.val → k = ((s.dev.inc F.LNK_CNT1_FEC_UNCORR n).lk n).badFrames + 1 → 8 ≤ k → exec (.pcsFrameReceive n symErrs) s
    = .next { s with dev := (((s.dev.inc F.LNK_CNT1_FEC_UNCORR n).lkMod n fun x => { x with badFrames := k }).linkFail n (some
    F.LNK_ERR_LOCK_LOST)) }) ∧
  -- a wrong CRC
  (∀ (s : State) (n : Fin 24) (f : BitVec 160), s.dev.lst n = lsActive → (s.dev.lk n).nakAt = none → flitCrcOk f = false → exec
    (.dataFlitReceive n f) s = .next { s with dev := ((s.dev.inc F.LNK_CNT0_CRC_ERR n).sendNak n) }) ∧
  (∀ (s : State) (n : Fin 24) (f : BitVec 160) (h : Nat), s.dev.lst n = lsActive → (s.dev.lk n).nakAt = none → flitCrcOk f =
    true → h = f.toNat % 65536 → bitOf h 15 = false → (rxAdv (bitsOf h 13 2) ≤ ((s.dev.lk n).rx.filter fun (y : Flit) => y.vc =
    bitsOf h 13 2).length + (s.dev.lk n).ret.getD (bitsOf h 13 2) 0) → exec (.dataFlitReceive n f) s = .next { s with dev :=
    (s.dev.linkFail n (some F.LNK_ERR_CREDIT_VIOL)) }) ∧
  -- a known TYPE takes a receive buffer
  (∀ (s : State) (n : Fin 24) (f : BitVec 160) (h : Nat) (e : Dev), s.dev.lst n = lsActive → (s.dev.lk n).nakAt = none →
    flitCrcOk f = true → h = f.toNat % 65536 → bitOf h 15 = false → (((s.dev.lk n).rx.filter fun (y : Flit) => y.vc = bitsOf h
    13 2).length + (s.dev.lk n).ret.getD (bitsOf h 13 2) 0 < rxAdv (bitsOf h 13 2)) → typeKnown (bitsOf h 13 2) (bitsOf h 8 5) =
    true → e = (((s.dev.wr F.LNK_SEQ_RX_ACCEPTED n (s.dev.lk n).rxNext).lkMod n fun y =>
    { y with rxNext := ((y.rxNext + 1) % 128), rxAny := true }).lkMod n fun y => { y with rx := (y.rx ++
    [({ vc := (bitsOf h 13 2), ty := (bitsOf h 8 5), pay := (BitVec.ofNat 128 (f.toNat / 65536)) } : Flit)]) }) → exec
    (.dataFlitReceive n f) s = .next { s with dev := (if bitOf h 7 = true then e.doAck n (h % 128) else e) }) ∧
  -- a reserved TYPE is discarded after its credit is returned
  (∀ (s : State) (n : Fin 24) (f : BitVec 160) (h : Nat) (e : Dev), s.dev.lst n = lsActive → (s.dev.lk n).nakAt = none →
    flitCrcOk f = true → h = f.toNat % 65536 → bitOf h 15 = false → (((s.dev.lk n).rx.filter fun (y : Flit) => y.vc = bitsOf h
    13 2).length + (s.dev.lk n).ret.getD (bitsOf h 13 2) 0 < rxAdv (bitsOf h 13 2)) → typeKnown (bitsOf h 13 2) (bitsOf h 8 5) =
    false → e = (((((s.dev.wr F.LNK_SEQ_RX_ACCEPTED n (s.dev.lk n).rxNext).lkMod n fun y =>
    { y with rxNext := ((y.rxNext + 1) % 128), rxAny := true }).wr F.LNK_ERR_BAD_TYPE n 1).ffr causeBadType n (bitsOf h 13 2 *
    32 + bitsOf h 8 5)).freeRx n (bitsOf h 13 2)) → exec (.dataFlitReceive n f) s = .next { s with dev := (if bitOf h 7 = true
    then e.doAck n (h % 128) else e) }) ∧
  (∀ (s : State) (n : Fin 24) (q : BitVec 7), s.dev.lst n = lsActive → exec (.idle n (some q)) s = .next { s with dev :=
    (s.dev.doAck n q.toNat) }) ∧
  (∀ (s : State) (n : Fin 24), exec (.idle n none) s = .next { s with dev := (s.dev) }) ∧
  (∀ (s : State) (n : Fin 24) (ack : Option (BitVec 7)) (credits : DWord) (e : Dev), s.dev.lst n = lsActive → e = (s.dev.lkMod n
    fun x => { x with cred := (x.cred.mapIdx fun i k => k + bitsOf credits.toNat (16 * i) 16) }) → exec (.status n ack credits)
    s = .next { s with dev := ((e.ackOpt n ack).pumpAll (n.val / 3)) }) ∧
  (∀ (s : State) (n : Fin 24) (seq : BitVec 7), s.dev.lst n = lsActive → (((s.dev.lk n).replay.any fun y => y.seq = seq.toNat) =
    false) → exec (.nak n seq) s = .next { s with dev := (s.dev.wr F.LNK_ERR_BAD_NAK n 1) }) ∧
  -- an unacknowledged flit is asked for
  (∀ (s : State) (n : Fin 24) (seq : BitVec 7) (same : Nat) (e f g : Dev), s.dev.lst n = lsActive → (((s.dev.lk n).replay.any
    fun y => y.seq = seq.toNat) = true) → same = (if (s.dev.lk n).sameSeq.1 = seq.toNat ∧ 0 < (s.dev.lk n).sameSeq.2 then
    (s.dev.lk n).sameSeq.2 + 1 else 1) → same < max 2 (e.rd F.VL_FAIL_CFG_SAME_SEQ_LIMIT) → e = (s.dev.inc F.LNK_CNT0_REPLAYS
    n).lkPut n
    { s.dev.lk n with sameSeq := (seq.toNat, same), rate := (rateWin s.dev.gts, if (s.dev.lk n).rate.1 = rateWin s.dev.gts then (s.dev.lk n).rate.2 + 1 else 1) }
    → f = e.lct n 3 [seq.toNat] → g = (replayFrom seq.toNat (f.lk n).replay).foldl (fun (x : Dev) (y : Sent) => x.emit (.flit n
    y.f.vc y.f.ty y.f.pay)) f → exec (.nak n seq) s = .next { s with dev := (g.lkMod n fun x => { x with replay := (resent g.gts
    seq.toNat x.replay) }) }) ∧
  (∀ (s : State) (n : Fin 24) (seq : BitVec 7), s.dev.lst n = lsActive → (s.dev.lk n).nakAt.isSome = true → (s.dev.lk n).rxNext
    = seq.toNat → exec (.replayMark n seq) s = .next { s with dev := (s.dev.lkMod n fun x => { x with nakAt := none }) }) ∧
  (∀ (s : State) (n : Fin 24) (u : Nat), (s.dev.lk n).nakAt = some u → s.dev.lst n = lsActive → u + 200 ≤ s.dev.gts → exec
    (.nakResendTimeout n) s = .next { s with dev := (s.dev.sendNak n) }) ∧
  (∀ (s : State) (n : Fin 24) (y : Sent), (s.dev.lk n).replay.head? = some y → y.at' + 250 * max 2 (s.dev.rd
    F.VL_FAIL_CFG_ACK_TIMEOUT) ≤ s.dev.gts → exec (.ackTimeout n) s = .next { s with dev := (s.dev.linkFail n (some
    F.LNK_ERR_ACK_TIMEOUT)) }) ∧
  (∀ (s : State) (n : Fin 24) (e : Dev), (s.dev.lk n).rate.1 < rateWin s.dev.gts → e = (s.dev.lkMod n fun y => { y with rate :=
    (rateWin s.dev.gts, 0) }) → exec (.replayRateWindowEnd n) s = .next { s with dev := (if s.dev.rd F.VL_FAIL_CFG_RATE_LIMIT ≠
    0 ∧ s.dev.rd F.VL_FAIL_CFG_RATE_LIMIT < (s.dev.lk n).rate.2 then e.linkFail n (some F.LNK_ERR_RATE) else e) }) ∧
  (∀ (s : State) (n : Fin 24) (lct : Bool), s.dev.lst n = lsActive → exec (.reservedLct n lct) s = .next { s with dev :=
    ((s.dev.wr F.LNK_ERR_BAD_TYPE n 1).ffr causeBadType n (262 + lct.toNat)) })

/-- The time exchange is started when its period is over and answered with t4; pairing takes the accelerator's answer, is asked
again up to three times and then stays PENDING; binding is authorised; an accelerator is forced to the sideband or released;
an edge of PRSNT# is taken and the links held or started. -/
def Obligations.TimeSyncPairingAndPresence : Prop :=
  (∀ (s : State) (a : Fin 8), (s.dev.roleLink a 0).isSome = true → (s.dev.acc a).t1 + 10000 * max 1 (s.dev.rd
    F.VL_CTRL_TSYNC_PERIOD) ≤ s.dev.gts → exec (.tsyncExchange a) s = .next { s with dev := ((s.dev.accMod a fun x =>
    { x with t1 := s.dev.gts, tsAcked := none, tsSent := 0 }).sendFlit a vcMgmt 0 0) }) ∧
  (∀ (s : State) (a : Fin 8) (c : Nat), (s.dev.acc a).tsAcked = some c → exec (.tsyncFollow a) s = .next { s with dev :=
    ((s.dev.accMod a fun x => { x with tsAcked := none, tsSent := c }).sendFlit a vcMgmt 1 (stampPay (s.dev.acc a).t1 c)) }) ∧
  (∀ (s : State) (a : Fin 8) (times : BitVec 4) (offset : Int) (path : BitVec 16) (locked : Bool) (e : Dev), e =
    ((s.dev.takeRxBy a vcMgmt 2 fun _ => true).sendFlit a vcMgmt 3 (stampPay s.dev.gts times.toNat)) → times.toNat ≠ 1 ∨ (e.acc
    a).tsSent ≠ 1 → exec (.tsyncDreq a times offset path locked) s = .next { s with dev := (e) }) ∧
  (∀ (s : State) (a : Fin 8) (offset : Int) (path : BitVec 16) (locked : Bool) (e : Dev), e = ((s.dev.takeRxBy a vcMgmt 2 fun _
    => true).sendFlit a vcMgmt 3 (stampPay s.dev.gts 1)) → (e.acc a).tsSent = 1 → exec (.tsyncDreq a 1 offset path locked) s =
    .next { s with dev := ((((e.accMod a fun x => { x with tsSent := 0, restart := false }).wr F.VL_ACC_TSYNC_OFFSET a (wrapInt
    16 (max (-32767) (min 32767 offset)))).wr F.VL_ACC_TSYNC_PATH a path.toNat).wr F.VL_ACC_STATUS_TSYNC_LOCKED a locked.toNat)
    }) ∧
  -- MATCH
  (∀ (s : State) (a : Fin 8) (e f : Dev), e = (s.dev.takeRxBy a vcMgmt 0x0C fun p => pbits p 0 2 = 0) → e.anyActive a = true → f
    = ((e.accMod a fun x => { x with pairWait := none }).wr F.VL_ACC_STATUS_PAIR a 1) → exec (.pairRsp a 0) s = .next { s with
    dev := (if f.is F.ORO_CTRL_TLM_EN = true then f.tlmCtrl a true else f) }) ∧
  -- NEW
  (∀ (s : State) (a : Fin 8) (e f : Dev), e = (s.dev.takeRxBy a vcMgmt 0x0C fun p => pbits p 0 2 = 1) → e.anyActive a = true → f
    = ((e.accMod a fun x => { x with pairWait := none }).wr F.VL_ACC_STATUS_PAIR a 2) → exec (.pairRsp a 1) s = .next { s with
    dev := (if f.is F.VL_ACC_CTRL_BIND_OK a = true then (f.accMod a fun x => { x with pairWait := (some (f.gts, 0)) }).sendFlit
    a vcMgmt 0x0D 0 else f) }) ∧
  -- CHANGED
  (∀ (s : State) (a : Fin 8) (e : Dev), e = (s.dev.takeRxBy a vcMgmt 0x0C fun p => pbits p 0 2 = 2) → e.anyActive a = true →
    exec (.pairRsp a 2) s = .next { s with dev := (((((e.accMod a fun x => { x with pairWait := none }).wr F.VL_ACC_STATUS_PAIR
    a 3).wr F.VL_ACC_STATUS_BINDING_CHANGED a 1).event 3 a 0)) }) ∧
  (∀ (s : State) (a : Fin 8) (u k : Nat), (s.dev.acc a).pairWait = some (u, k) → u + 1000000 ≤ s.dev.gts → k < 3 → exec
    (.pairRspTimeout a) s = .next { s with dev := (s.dev.pairReq a (k + 1)) }) ∧
  (∀ (s : State) (a : Fin 8) (u k : Nat), (s.dev.acc a).pairWait = some (u, k) → u + 1000000 ≤ s.dev.gts → 3 ≤ k → exec
    (.pairRspTimeout a) s = .next { s with dev := (((s.dev.accMod a fun x => { x with pairWait := none }).wr
    F.VL_ACC_STATUS_PAIR a 0).ffr causePairTimeout a 0) }) ∧
  (∀ (s : State) (a : Fin 8) (e : Dev), e = s.dev.wr F.VL_ACC_CTRL_BIND_OK a 1 → exec (.bindOkWrite a true) s = .next { s with
    dev := (if (e.rd F.VL_ACC_STATUS_PAIR a = 0 ∨ e.rd F.VL_ACC_STATUS_PAIR a = 2) ∧ (e.roleLink a 0).isSome then e.pairReq a 0
    else e) }) ∧
  (∀ (s : State) (a : Fin 8), exec (.bindOkWrite a false) s = .next { s with dev := (s.dev.wr F.VL_ACC_CTRL_BIND_OK a 0) }) ∧
  (∀ (s : State) (a : Fin 8), s.dev.is F.VL_ACC_CTRL_FORCE_SIDEBAND a = false → exec (.forceSideband a true) s = .next { s with
    dev := (((s.dev.wr F.VL_ACC_CTRL_FORCE_SIDEBAND a 1).linksDown a).modeUpdate a) }) ∧
  (∀ (s : State) (a : Fin 8), s.dev.is F.VL_ACC_CTRL_FORCE_SIDEBAND a = true → exec (.forceSideband a false) s = .next { s with
    dev := (((s.dev.wr F.VL_ACC_CTRL_FORCE_SIDEBAND a 0).rerun a).modeUpdate a) }) ∧
  (∀ (s : State) (a : Fin 8) (e : Dev), (s.dev.acc a).present = false → e = (s.dev.accMod a fun x => { x with present := true })
    → exec (.prsntEdge a true) s = .next { s with dev := ({ e with seq.prsntAt := (tset (fun _ => 0) e.seq.prsntAt a e.aont)
    }.accRelease a) }) ∧
  (∀ (s : State) (a : Fin 8) (e f : Dev), (s.dev.acc a).present = true → e = (s.dev.accMod a fun x => { x with present := false
    }) → f = (({ e with seq.prsntAt := (tset (fun _ => 0) e.seq.prsntAt a e.aont) }.wr F.PWC_ACC_BUDGET_ACTIVE_W a 0).wr
    F.PWC_ACC_BUDGET_STAGED_W a 0).accHold a → exec (.prsntEdge a false) s = .next { s with dev := (if f.rd F.PWC_TRAY_CAP_CAP_W
    = 0 then f.feasUpdate.emergUpdate else f.propose fun k => f.ownProposal k) })

/-- An operation from a source whose checks pass, on an object whose rule does not make it wait, leaves the object as its type's
row says, serves the waiters the change releases, counts in SOB_OPS and is answered by OP_RSP with its status and RESULT; a
WAIT whose condition does not hold is parked where there is room; a reserved code, a write of the read-only window and a late
waiter are answered as stated; the host port starts its operation. -/
def Obligations.SyncOperations : Prop :=
  (∀ (s : State) (src : Fin 9) (q : SyncReq) (m : Nat) (e : Dev) (o : Obj) (x : Eff) (r : Obj × Dev), e = s.dev.syncTook src
    opArrive q → e.syncAllowed src m opArrive q = true → o = e.obj (hIndex q.handle.toNat) → x = e.syncEff m opArrive q → x.wait
    = none → r = e.opsCount.objCommit q.handle.toNat o x.o (servesWaiters opArrive o x.o) → exec (.opArrive src q) s = .next { s
    with dev := ((if o.trk = true ∧ o.ty = tyBarrier then (if x.release then (r.2.arbArrive o.group m).arbRelease o.group
    q.handle.toNat else r.2.arbArrive o.group m) else r.2).syncSend src 1 (x.res) x.st q.tag.toNat opArrive q.handle.toNat) }) ∧
  (∀ (s : State) (src : Fin 9) (q : SyncReq) (m : Nat) (e : Dev) (o : Obj) (x : Eff) (r : Obj × Dev), e = s.dev.syncTook src
    opWait q → e.syncAllowed src m opWait q = true → o = e.obj (hIndex q.handle.toNat) → x = e.syncEff m opWait q → x.wait =
    none → r = e.opsCount.objCommit q.handle.toNat o x.o (servesWaiters opWait o x.o) → exec (.opWait src q) s = .next { s with
    dev := ((r.2).syncSend src 1 (x.res) x.st q.tag.toNat opWait q.handle.toNat) }) ∧
  (∀ (s : State) (src : Fin 9) (q : SyncReq) (m : Nat) (e : Dev) (o : Obj) (x : Eff) (r : Obj × Dev), e = s.dev.syncTook src
    opAdd q → e.syncAllowed src m opAdd q = true → o = e.obj (hIndex q.handle.toNat) → x = e.syncEff m opAdd q → x.wait = none →
    r = e.opsCount.objCommit q.handle.toNat o x.o (servesWaiters opAdd o x.o) → exec (.opAdd src q) s = .next { s with dev :=
    ((r.2).syncSend src 1 (if o.ty = tySem then r.1.value else x.res) x.st q.tag.toNat opAdd q.handle.toNat) }) ∧
  (∀ (s : State) (src : Fin 9) (q : SyncReq) (m : Nat) (e : Dev) (o : Obj) (x : Eff) (r : Obj × Dev), e = s.dev.syncTook src
    opFetchAdd q → e.syncAllowed src m opFetchAdd q = true → o = e.obj (hIndex q.handle.toNat) → x = e.syncEff m opFetchAdd q →
    x.wait = none → r = e.opsCount.objCommit q.handle.toNat o x.o (servesWaiters opFetchAdd o x.o) → exec (.opFetchAdd src q) s
    = .next { s with dev := ((r.2).syncSend src 1 (x.res) x.st q.tag.toNat opFetchAdd q.handle.toNat) }) ∧
  (∀ (s : State) (src : Fin 9) (q : SyncReq) (m : Nat) (e : Dev) (o : Obj) (x : Eff) (r : Obj × Dev), e = s.dev.syncTook src
    opCas q → e.syncAllowed src m opCas q = true → o = e.obj (hIndex q.handle.toNat) → x = e.syncEff m opCas q → x.wait = none →
    r = e.opsCount.objCommit q.handle.toNat o x.o (servesWaiters opCas o x.o) → exec (.opCas src q) s = .next { s with dev :=
    ((r.2).syncSend src 1 (x.res) x.st q.tag.toNat opCas q.handle.toNat) }) ∧
  (∀ (s : State) (src : Fin 9) (q : SyncReq) (m : Nat) (e : Dev) (o : Obj) (x : Eff) (r : Obj × Dev), e = s.dev.syncTook src
    opSet q → e.syncAllowed src m opSet q = true → o = e.obj (hIndex q.handle.toNat) → x = e.syncEff m opSet q → x.wait = none →
    r = e.opsCount.objCommit q.handle.toNat o x.o (servesWaiters opSet o x.o) → exec (.opSet src q) s = .next { s with dev :=
    ((r.2).syncSend src 1 (if o.ty = tySem then r.1.value else x.res) x.st q.tag.toNat opSet q.handle.toNat) }) ∧
  (∀ (s : State) (src : Fin 9) (q : SyncReq) (m : Nat) (e : Dev) (o : Obj) (x : Eff) (r : Obj × Dev), e = s.dev.syncTook src
    opReset q → e.syncAllowed src m opReset q = true → o = e.obj (hIndex q.handle.toNat) → x = e.syncEff m opReset q → x.wait =
    none → r = e.opsCount.objCommit q.handle.toNat o x.o (servesWaiters opReset o x.o) → exec (.opReset src q) s = .next { s
    with dev := ((r.2).syncSend src 1 (x.res) x.st q.tag.toNat opReset q.handle.toNat) }) ∧
  -- parked
  (∀ (s : State) (src : Fin 9) (q : SyncReq) (m : Nat) (e : Dev) (o : Obj) (x : Eff) (r : Obj × Dev) (y : Nat) (f : Dev), e =
    s.dev.syncTook src opWait q → e.syncAllowed src m opWait q = true → o = e.obj (hIndex q.handle.toNat) → x = e.syncEff m
    opWait q → x.wait = some y → syncBound q.timeout.toNat ≠ 0 → e.waiterRoom src q.handle.toNat = true → r =
    e.opsCount.objCommit q.handle.toNat o x.o false → f = { r.2 with sob.waiters := (r.2.sob.waiters ++
    [{ src := src, tag := q.tag.toNat, handle := q.handle.toNat, op := opWait, cond := q.cond.toNat, operand := y, deadline := (r.2.gts + syncBound q.timeout.toNat) }])
    } → exec (.opWait src q) s = .next { s with dev := ((f.wr F.SOB_WAITERS_HIGH 0 (max (f.rd F.SOB_WAITERS_HIGH)
    f.sob.waiters.length)).syncSend src 1 r.1.present stParked q.tag.toNat opWait q.handle.toNat) }) ∧
  (∀ (s : State) (src : Fin 9) (op : Fin 9) (q : SyncReq) (e : Dev), e = s.dev.syncTook src (7 + op.val) q → (src.val < 8 →
    e.paired src = true) → e.is F.SOB_CTRL_EN = true → e.rd F.SOB_SRC_OUTSTANDING src < 24 → exec (.opReserved src op q) s =
    .next { s with dev := (e.syncSend src 3 0 stBadOp q.tag.toNat (7 + op.val) q.handle.toNat) }) ∧
  (∀ (s : State), exec (.syncWaitTimeout) s = .next { s with dev := ((s.dev.inc F.SOB_TIMEOUTS_COUNT 0 (s.dev.sob.waiters.filter
    fun w => decide (w.deadline < s.dev.gts + 1)).length).endWaiters (fun w => decide (w.deadline < s.dev.gts + 1)) stTimeout
    fun w => (s.dev.obj (hIndex w.handle)).present) }) ∧
  (∀ (s : State) (cmd : Word) (e : Dev), 2 ^ 31 ≤ cmd.toNat → s.dev.is F.SOB_HOP_STATUS_BUSY = false → e = s.dev.wrw
    (F.SOB_HOP_CMD_OP.addr 0) (cmd.toNat &&& 0xBF) → exec (.sobHopGo cmd) s = .next { s with dev := (e.syncReq 9 (cmd.toNat %
    16) (cmd.toNat / 16 % 4) false (e.rd64 F.SOB_HOP_OPERAND_LO) 0 0 (e.rdw (F.SOB_HOP_HANDLE_HANDLE.addr 0))) }) ∧
  (∀ (s : State) (cmd : Word), cmd.toNat < 2 ^ 31 → exec (.sobHopGo cmd) s = .next { s with dev := (s.dev.wrw
    (F.SOB_HOP_CMD_OP.addr 0) (cmd.toNat &&& 0xBF)) }) ∧
  (∀ (s : State) (off : BitVec 20) (w : Width) (e : Dev), 4 ≤ widthBytes w → off.toNat % widthBytes w = 0 → off.toNat % 16 = 0 →
    e = { s.dev with sob.winLatch := (some (off.toNat / 16, leVal ((s.dev.objBytes (off.toNat / 16)).drop 4))) } → exec
    (.syncWindowRead off w) s = .next { s with dev := (e.emit (.data (BitVec.ofNat 64 (leVal ((((le 4 (leVal ((s.dev.objBytes
    (off.toNat / 16)).take 4)) ++ le 12 (leVal ((s.dev.objBytes (off.toNat / 16)).drop 4)))).drop (off.toNat % 16)).take
    (widthBytes w)))) (bitOf (s.dev.obj (off.toNat / 16)).poison (off.toNat % 16 / 8)))) }) ∧
  (∀ (s : State) (off : BitVec 20) (w : Width), widthBytes w < 4 ∨ off.toNat % widthBytes w ≠ 0 → exec (.syncWindowRead off w) s
    = .next { s with dev := (s.dev.emit (.data 0 false)) }) ∧
  (∀ (s : State) (off : BitVec 20) (v : DWord), exec (.syncWindowWrite off v) s = .next { s with dev := (s.dev.wr
    F.SOB_ERR_WIN_WRITE 0 1) }) ∧
  (∀ (s : State), exec (.sobWaitersWrite) s = .next { s with dev := (s.dev.wr F.SOB_WAITERS_HIGH 0 s.dev.sob.waiters.length) }) ∧
  (∀ (s : State) (on : Bool), exec (.sobEnWrite .sch on) s = .next { s with dev := ((s.dev.wr F.SOB_CTRL_EN 0
    on.toNat).readyTry) }) ∧
  (∀ (s : State) (ag : Agent) (on : Bool), ag ≠ .sch → exec (.sobEnWrite ag on) s = .next { s with dev := (s.dev) })

/-- A header that no check refuses opens a train and claims its units; a data flit of an open train is stored at its place in the
member's image, the last one closes the train and completes the member; with no open train it is an orphan; a complete
instance is reduced, a reduced one finishes once nothing waits for an acknowledgement; an accelerator's ABORT and an overdue
instance are aborted; member 8's contribution and the enable act for tray firmware and SCH only. -/
def Obligations.BoardCommands : Prop :=
  (∀ (s : State) (n : Fin 24) (p : Payload) (e : Dev) (u : Train), e = s.dev.takeRx (n.val / 3) vcRed 0 p → u =
    ({ ctx := (pbits p 51 8), inst := (pbits p 0 16), member := (pbits p 16 4), off := (pbits p 20 12), nfl := (pbits p 32 13) }
    : Train) → e.headerTaken n u = true → exec (.contribHeader n p) s = .next { s with dev := ((e.binstPut u.ctx u.inst {
    (e.binst u.ctx u.inst).opened e.gts with claimed := ((tset (fun _ => 0) (e.binst u.ctx u.inst).claimed u.member (tget (fun _
    => 0) (e.binst u.ctx u.inst).claimed u.member ||| unitMask u.off u.nfl))) }).trainPut n (some u)) }) ∧
  (∀ (s : State) (n : Fin 24) (p : Payload) (e f : Dev) (k : Nat) (u : Train), e = s.dev.takeRx (n.val / 3) vcRed 0 p → k =
    e.trainLink n → e.train k = some u → u.refused = false → u.got + 1 ≠ u.nfl → f = e.stn .commons (e.memBase u.ctx u.inst
    u.member + 16 * (u.off + u.got)) (le 16 p.toNat) → exec (.contrib n p) s = .next { s with dev := (f.trainPut k (some { u
    with got := (u.got + 1) })) }) ∧
  -- an orphan
  (∀ (s : State) (n : Fin 24) (p : Payload) (e : Dev), e = s.dev.takeRx (n.val / 3) vcRed 0 p → e.train (e.trainLink n) = none →
    exec (.contrib n p) s = .next { s with dev := ((e.wr F.BRD_ERR_ORPHAN 0 1).inc F.BRD_TRAIN_DROPS_ORPHANS) }) ∧
  (∀ (s : State) (n : Fin 24) (p : Payload) (e f g : Dev) (k r : Nat) (u : Train), e = s.dev.takeRx (n.val / 3) vcRed 1 p → k =
    e.trainLink n → e.train k = some u → u.refused = false → u.got + 1 = u.nfl → f = e.stn .commons (e.memBase u.ctx u.inst
    u.member + 16 * (u.off + u.got)) (le 16 p.toNat) → r = tget (fun _ => 0) (f.binst u.ctx u.inst).recv u.member + u.nfl → g =
    (f.binstPut u.ctx u.inst { f.binst u.ctx u.inst with recv := (tset (fun _ => 0) (f.binst u.ctx u.inst).recv u.member r)
    }).trainPut k none → exec (.contribLast n p) s = .next { s with dev := (if r = (g.ctxDef u.ctx).cw / 16 then g.memberDone
    u.ctx u.inst u.member else g) }) ∧
  (∀ (s : State) (c : Byte), (s.dev.bctx c.toNat).cur.complete.isSome = true → (s.dev.bctx c.toNat).cur.reduced = false → exec
    (.instanceReduction c) s = .next { s with dev := (s.dev.instReduce c.toNat (s.dev.ctxInst c.toNat)) }) ∧
  (∀ (s : State) (c : Byte), (s.dev.bctx c.toNat).cur.reduced = true → (s.dev.bctx c.toNat).next.complete.isSome = true →
    (s.dev.bctx c.toNat).next.reduced = false → exec (.instanceReduction c) s = .next { s with dev := (s.dev.instReduce c.toNat
    ((s.dev.ctxInst c.toNat + 1) % 65536)) }) ∧
  (∀ (s : State) (c : Byte), (s.dev.bctx c.toNat).cur.reduced = true → ((accs8.any fun a => s.dev.tagOut a (c.toNat * 65536 +
    s.dev.ctxInst c.toNat + 1)) = false) → exec (.instanceFinish c) s = .next { s with dev := (s.dev.instFinish c.toNat
    (s.dev.ctxInst c.toNat)) }) ∧
  (∀ (s : State) (a : Fin 8) (p : Payload) (e : Dev) (c i m : Nat), e = s.dev.takeRx a vcRed 4 p → c = pbits p 51 8 → i = pbits
    p 0 16 → m = pbits p 16 4 → e.ctxValid c = true → e.instCheck c i = 0 → (e.binst c i).complete = none → e.memberOf a
    (e.ctxDef c).group = some m → (bitOf (e.ctxDef c).contrib m || bitOf (e.ctxDef c).recv m) = true → exec (.abort a p) s =
    .next { s with dev := (e.instAbort c i rsMemberAbort m) }) ∧
  (∀ (s : State) (c : Byte), exec (.instanceTimeout c) s = .next { s with dev := (s.dev.abortOpen c.toNat rsTimeout fun b =>
    match b.openAt with | some t => decide (t + syncBound (s.dev.ctxDef c.toNat).timeout < s.dev.gts + 1) | none => false) }) ∧
  (∀ (s : State) (ag : Agent) (v : Word) (c i : Nat) (e : Dev), ag ≠ .host → c = v.toNat / 65536 % 256 → i = v.toNat % 65536 → e
    = s.dev.wrw (F.BRD_ICONTRIB_CTX.addr 0) (v.toNat % 2 ^ 24) → e.is F.BRD_CTRL_EN = true → e.ctxValid c = true → bitOf
    (e.ctxDef c).contrib 8 = true → e.instCheck c i = 0 → bitOf (e.binst c i).done 8 = false → exec (.brdIcontrib ag v) s =
    .next { s with dev := ((e.binstPut c i ((e.binst c i).opened e.gts)).memberDone c i 8) }) ∧
  (∀ (s : State) (v : Word), exec (.brdIcontrib .host v) s = .next { s with dev := (s.dev) }) ∧
  (∀ (s : State), exec (.brdEnWrite .sch true) s = .next { s with dev := ((s.dev.wr F.BRD_CTRL_EN 0 1).readyTry) }) ∧
  (∀ (s : State), exec (.brdEnWrite .sch false) s = .next { s with dev := ((List.range 256).foldl (fun (x : Dev) c =>
    x.abortOpen c rsDeleted fun _ => true) (s.dev.wr F.BRD_CTRL_EN 0 0)) }) ∧
  (∀ (s : State) (ag : Agent) (on : Bool), ag ≠ .sch → exec (.brdEnWrite ag on) s = .next { s with dev := (s.dev) })

/-- A fast slot is taken channel by channel (only the bus supervision while the SYS domain is off); a full limiter window resets
the sums after it has acted; a budget set is Orotha's or the static one; CAP_FORCE applies what is staged; P-states are
requested, acknowledged, sent again or abandoned with DVFS_FAULT; settle times and AVSBus answers carry the change on; a
P-state table is taken only when no column increases. -/
def Obligations.PowerSampleAndBudgetCommands : Prop :=
  (∀ (s : State) (x y : FastSlot) (v ib r : Int × Dev), s.dev.sysOn = true → y = ({ x with stale := (x.stale ||| BitVec.ofNat 10
    (maskOf 10 fun k => tget (fun _ => false) s.dev.flt.chStale (128 + k))) }) → v = ((({ s.dev with flt.chStale :=
    (s.dev.flt.chStale.filter fun (p : Nat × Bool) => p.1 < 128) }).frameRoll.fastBus y)) → ib = v.2.fastIn 8 y.ibus.toNat
    (bitOf y.stale.toNat 8) → r = accs8.foldl (fun (p : Int × Dev) a => (p.1 + (p.2.fastAcc y v.1 a).1, (p.2.fastAcc y v.1
    a).2)) ((0 : Int), ib.2) → exec (.fastSample x) s = .next { s with dev := (((r.2.fastTray v.1 ib.1 r.1).fastDroop
    v.1).emergUpdate) }) ∧
  (∀ (s : State) (x y : FastSlot), s.dev.sysOn = false → y = ({ x with stale := (x.stale ||| BitVec.ofNat 10 (maskOf 10 fun k =>
    tget (fun _ => false) s.dev.flt.chStale (128 + k))) }) → exec (.fastSample x) s = .next { s with dev := ((({ s.dev with
    flt.chStale := (s.dev.flt.chStale.filter fun (p : Nat × Bool) => p.1 < 128) }).fastBus y).2.emergUpdate) }) ∧
  (∀ (s : State) (n : Nat) (acts : List Nat) (e f g h : Dev), s.dev.winDone = true → n = s.dev.pwr.winN → e = (s.dev.forAcc fun
    x a => (x.wrBit F.PWC_STATUS_LIMITING 0 a (x.pw a).clamped).show16 F.PWC_ACC_POWER_WIN_W a ((x.pw a).winSum.tdiv (n *
    100000))) → f = (List.range 10).foldl (Dev.fastWindow (e.rd F.PWC_LIM_CFG_STALE_MAX)) e → acts = (if f.budgeted.filter
    f.winOver ≠ [] then f.budgeted.filter f.winOver else if decide ((f.rd F.PWC_TRAY_CAP_CAP_W * n * 1000000 : Nat) <
    f.pwr.busSum) then f.worst.toList else []) → g = ((f.budgeted.filter fun a => !f.winOver a && decide ((f.pw a).winSum * 10 <
    (9 * n * f.budget a * 1000000 : Nat))).foldl (fun (x : Dev) a => if acts.contains a then x else x.pwPut a { x.pw a with
    limCheck := false }) (acts.foldl Dev.limStepAcc f)) → h = (g.forAcc fun x a => x.pwPut a
    { x.pw a with winSum := 0, winStale := 0, clamped := false }) → exec (.limiterWindowEnd) s = .next { s with dev :=
    ({ h with pwr.winN := 0, pwr.busSum := 0 }.checkUpdate.emergUpdate) }) ∧
  (∀ (s : State) (b : List (BitVec 16)), s.dev.is F.PWC_CTRL_ORO_EN = true → exec (.budgetProposal b) s = .next { s with dev :=
    (s.dev.propose fun a => (b.getD a 0).toNat) }) ∧
  (∀ (s : State) (b : List (BitVec 16)), s.dev.is F.PWC_CTRL_ORO_EN = false → exec (.budgetProposal b) s = .next { s with dev :=
    (s.dev.propose s.dev.ownProposal) }) ∧
  (∀ (s : State) (g : BitVec 8) (u : Nat), (s.dev.gr g.toNat).stagedAt = some u → u + s.dev.capForce ≤ s.dev.gts → exec
    (.capForceExpiry g) s = .next { s with dev := ((((s.dev.applyGroup g.toNat).inc F.ARB_GRP_STATE_FORCED
    g.toNat).capSettle).emergUpdate) }) ∧
  (∀ (s : State) (a : Fin 8) (p : BitVec 5) (e : Dev), s.dev.is F.PWC_CTRL_SEQ_EN = true → s.dev.is F.PWC_ACC_PSTATE_DVFS_FAULT
    a = false → s.dev.ptabOk a = true → e = s.dev.pwPut a { s.dev.pw a with pending := (some p.toNat), stepped := false } → exec
    (.pstateRequest a p) s = .next { s with dev := ((e.startPending a (e.cur a)).showChange a) }) ∧
  (∀ (s : State) (a : Fin 8) (p : Payload) (e f : Dev) (c : Change) (u k : Nat), e = s.dev.takeRx a vcPwr 1 p → pbits p 8 8 ≠
    255 → f = e.wr F.PWC_ACC_PSTATE_CURRENT a (pbits p 0 5) → (f.pw a).change = some c → c.phase = .sent u k (pbits p 8 8) →
    exec (.pstateAck a p) s = .next { s with dev := ((if pbits p 18 1 = 1 then (f.changeDone a c).droopEvent a else f.changeDone
    a c).emergUpdate) }) ∧
  (∀ (s : State) (a : Fin 8) (c : Change) (u k q : Nat), (s.dev.pw a).change = some c → c.phase = .sent u k q → u + 1000 * max 5
    (s.dev.rd F.PWC_DVFS_CFG_ACK_TIMEOUT) ≤ s.dev.gts → k < min 7 (s.dev.rd F.PWC_DVFS_CFG_RETRIES) → exec (.pstateAckTimeout a)
    s = .next { s with dev := ((s.dev.pwPut a { s.dev.pw a with change := (some { c with phase := (.sent s.dev.gts (k + 1) q) })
    }).sendFlit a vcPwr 0 (c.target + q * 256)) }) ∧
  (∀ (s : State) (a : Fin 8) (c : Change) (u k q : Nat), (s.dev.pw a).change = some c → c.phase = .sent u k q → u + 1000 * max 5
    (s.dev.rd F.PWC_DVFS_CFG_ACK_TIMEOUT) ≤ s.dev.gts → min 7 (s.dev.rd F.PWC_DVFS_CFG_RETRIES) ≤ k → exec (.pstateAckTimeout a)
    s = .next { s with dev := (s.dev.dvfsFault a) }) ∧
  (∀ (s : State) (a : Fin 8) (c : Change) (u : Nat), (s.dev.pw a).change = some c → c.phase = .settle u → u ≤ s.dev.gts → exec
    (.voltageSettleDone a) s = .next { s with dev := (s.dev.sendPset a c.target true c.lim) }) ∧
  (∀ (s : State) (a : Fin 8) (p : Payload), exec (.fillerAck a p) s = .next { s with dev := (((s.dev.takeRx a vcPwr 3 p).wr
    F.PWC_ACC_FILLER_INTENSITY a (pbits p 16 5)).wr F.PWC_ACC_FILLER_STANDING a (pbits p 21 1)) }) ∧
  (∀ (s : State) (a : Fin 8) (e : Dev), s.dev.locked = false → s.dev.ptabMono a = true → e = (s.dev.wr F.PWC_ACC_CFG_PTAB_VALID
    a 1).wr F.PWC_ACC_CFG_MONO_FAIL a 0 → exec (.ptabValidWrite a true) s = .next { s with dev := (e.wr F.PWC_ACC_PSTATE_CEILING
    a (e.clampP a 0)) }) ∧
  -- a table with a column that increases is refused
  (∀ (s : State) (a : Fin 8), s.dev.locked = false → s.dev.ptabMono a = false → exec (.ptabValidWrite a true) s = .next { s with
    dev := (((s.dev.wr F.PWC_ACC_CFG_PTAB_VALID a 0).wr F.PWC_ACC_CFG_MONO_FAIL a 1).wr F.PWC_ERR_PTAB_INVALID 0 1) }) ∧
  (∀ (s : State) (a : Fin 8) (on : Bool), s.dev.locked = true → exec (.ptabValidWrite a on) s = .next { s with dev := (s.dev.ffr
    causeLocked (F.PWC_ACC_CFG_PTAB_VALID.addr a) 0) }) ∧
  (∀ (s : State) (a : Fin 8), exec (.dvfsFaultClear a) s = .next { s with dev := ((s.dev.wr F.PWC_ACC_PSTATE_DVFS_FAULT a 0).wr
    F.TW_AVS_STATUS_FAILED a 0) }) ∧
  (∀ (s : State) (a : Fin 8) (ack : BitVec 2) (data : BitVec 16) (crcOk : Bool) (mv : Nat), (s.dev.avsAnswer a ack.toNat
    crcOk).1 = .done (.volt mv) → exec (.avsResponse a ack data crcOk) s = .next { s with dev := ((s.dev.avsAnswer a ack.toNat
    crcOk).2.voltDone a mv) }) ∧
  (∀ (s : State) (a : Fin 8) (ack : BitVec 2) (data : BitVec 16) (crcOk : Bool) (mv : Nat), (s.dev.avsAnswer a ack.toNat
    crcOk).1 = .failed (.volt mv) → exec (.avsResponse a ack data crcOk) s = .next { s with dev := ((((s.dev.avsAnswer a
    ack.toNat crcOk).2.wr F.PWC_ERR_AVS_ERR 0 1).wr F.TW_AVS_STATUS_FAILED a 1).dvfsFault a) }) ∧
  (∀ (s : State) (a : Fin 8) (ack : BitVec 2) (data : BitVec 16) (crcOk : Bool) (k : Nat), (s.dev.avsAnswer a ack.toNat crcOk).1
    = .done (.read k) → exec (.avsResponse a ack data crcOk) s = .next { s with dev := ((s.dev.avsAnswer a ack.toNat
    crcOk).2.note 1 "avs-read" (a.val * 2 ^ 20 + k * 2 ^ 16 + data.toNat)) })

/-- The droop timers release in order; the filtered triggers, forced CHECK, enables and latch clears update CHECK, MATE and the
emergency states; a latch with AUTO set clears itself after its hold; the pre-ramp and guardband timers act on the group's
members; the sideband limit is written when due, refreshed each second and written again 10 ms after a failure. -/
def Obligations.DroopCheckShapingAndSideband : Prop :=
  (∀ (s : State) (a : Fin 8) (u : Nat), (s.dev.pw a).droop = .clear u → u ≤ s.dev.gts → exec (.droopClearExpiry a) s = .next { s
    with dev := (s.dev.pwPut a { s.dev.pw a with droop := (.hold (s.dev.gts + 1000 * s.dev.rd F.PWC_DROOP_TIME_HOLD)) }) }) ∧
  (∀ (s : State) (a : Fin 8) (u : Nat) (e f g : Dev), (s.dev.pw a).droop = .hold u → u ≤ s.dev.gts → s.dev.coreUp 1 = true → e =
    ((s.dev.pwPut a { s.dev.pw a with droop := .none }).wr F.PWC_ACC_PSTATE_DROOP a 0) → f = e.wr F.PWC_ACC_PSTATE_GB_LEVEL a
    (e.gbRest a) → g = (f.startPending a (f.cur a)).showChange a → exec (.droopHoldExpiry a) s = .next { s with dev := ((if e.rd
    F.PWC_ACC_PSTATE_GB_LEVEL a = g.rd F.PWC_ACC_PSTATE_GB_LEVEL a then g else g.gbWrite a (e.rd F.PWC_ACC_PSTATE_GB_LEVEL
    a)).emergUpdate) }) ∧
  (∀ (s : State) (tr : Fin 32) (active : Bool), exec (.checkTrigger tr active) s = .next { s with dev := ((s.dev.trigLevel
    tr.val active).checkSettle) }) ∧
  (∀ (s : State) (v : BitVec 8), exec (.checkForceWrite v) s = .next { s with dev := ((s.dev.wr F.PWC_CHECK_FORCE_FORCE 0
    v.toNat).checkSettle) }) ∧
  (∀ (s : State) (v : Word) (e : Dev), s.dev.locked = false → e = s.dev.wrw aCheckEn v.toNat → exec (.checkEnWrite v) s = .next
    { s with dev := (((List.range 32).foldl (fun (x : Dev) k => if bitOf v.toNat (trigBit k) && !bitOf (s.dev.rdw aCheckEn)
    (trigBit k) && x.trigIn k then x.trigLatch k else x) e).checkSettle) }) ∧
  (∀ (s : State) (v : Word), s.dev.locked = true → exec (.checkEnWrite v) s = .next { s with dev := (s.dev.ffr causeLocked
    aCheckEn 0) }) ∧
  (∀ (s : State) (v : Word), exec (.checkLatchClear v) s = .next { s with dev := (((List.range 32).foldl (fun (x : Dev) k => if
    bitOf v.toNat (trigBit k) && !x.trigIn k then x.wrw 0x200068 (putBit (x.rdw 0x200068) (trigBit k) false) else x)
    s.dev).checkSettle) }) ∧
  (∀ (s : State) (tr : Fin 24), tr.val < 16 → s.dev.is F.PWC_CHECK_CFG_AUTO_VRALERT = true → s.dev.trigIn tr.val = false → tget
    (fun _ => 0) s.dev.pwr.inactSince tr.val + 1000 * s.dev.rd F.PWC_CHECK_CFG_AUTO_HOLD ≤ s.dev.aont → exec (.checkAutoRelease
    tr) s = .next { s with dev := (s.dev.latchClear (2 ^ trigBit tr.val)) }) ∧
  (∀ (s : State) (tr : Fin 24), 16 ≤ tr.val → s.dev.is F.PWC_CHECK_CFG_AUTO_OC = true → s.dev.trigIn tr.val = false → tget (fun
    _ => 0) s.dev.pwr.inactSince tr.val + 1000 * s.dev.rd F.PWC_CHECK_CFG_AUTO_HOLD ≤ s.dev.aont → exec (.checkAutoRelease tr) s
    = .next { s with dev := (s.dev.latchClear (2 ^ trigBit tr.val)) }) ∧
  (∀ (s : State) (coolFail : Bool), exec (.mateTrigger coolFail) s = .next { s with dev := ({ s.dev with pwr.coolFail :=
    coolFail }.mateTrigger) }) ∧
  (∀ (s : State) (g : BitVec 8) (k c w q : Nat) (accs : List Nat) (e : Dev), k = g.toNat → s.dev.predict k = some (c, w) →
    s.dev.shapes k = true → (s.dev.gr k).down ≠ [] → (s.dev.gr k).rampEnd = none → accs = (s.dev.gr k).down.filterMap
    (s.dev.memberAcc k) → q = (s.dev.rampOf ((accs.map fun a => s.dev.fillMa a (s.dev.rd F.PWC_SHAPE_CFG_K_ARR - s.dev.rd
    F.PWC_SHAPE_CFG_FLOOR)).foldl (· + ·) 0)) → w ≤ s.dev.gts + 100 * q + 1000 * s.dev.rd F.PWC_SHAPE_CFG_PRE_MARGIN → e =
    accs.foldl (fun x a => x.fillerSet a (s.dev.rd F.PWC_SHAPE_CFG_K_ARR) q none) s.dev → exec (.prerampTimer g) s = .next { s
    with dev := (e.grPut k { e.gr k with rampEnd := (some (e.gts + 100 * q)) }) }) ∧
  (∀ (s : State) (g : BitVec 8) (c w : Nat) (e : Dev), s.dev.predict g.toNat = some (c, w) → s.dev.shapes g.toNat = true → w ≤
    s.dev.gts + 10000 * s.dev.rd F.PWC_GB_CFG_LEAD → e = s.dev.grPut g.toNat { s.dev.gr g.toNat with gbAt := (some s.dev.gts) }
    → exec (.guardbandLead g) s = .next { s with dev := ((e.members g.toNat).foldl (fun (x : Dev) (p : Nat × Nat) => if x.rd
    F.PWC_ACC_PSTATE_GB_LEVEL p.2 = 2 then x else x.setGb p.2 1) e) }) ∧
  (∀ (s : State) (g : BitVec 8) (u : Nat) (e : Dev), (s.dev.gr g.toNat).gbAt = some u → u ≤ (s.dev.gr g.toNat).released →
    (s.dev.gr g.toNat).released + 10000 * s.dev.rd F.PWC_GB_CFG_HOLD ≤ s.dev.gts → e = s.dev.grPut g.toNat { s.dev.gr g.toNat
    with gbAt := none } → exec (.guardbandHoldEnd g) s = .next { s with dev := ((e.members g.toNat).foldl (fun (x : Dev) (p :
    Nat × Nat) => if x.rd F.PWC_ACC_PSTATE_GB_LEVEL p.2 = 1 then x.setGb p.2 0 else x) e) }) ∧
  (∀ (s : State) (a : Fin 8) (r : BusResult) (x : Bool × Dev), s.dev.sbOk a = true → (s.dev.pw a).sbDue = true → (s.dev.segGet
    (s.dev.rd F.PWC_ACC_SB_SEG a)).running = none → x = s.dev.sbSend a r → exec (.sbLimitWrite a r) s = .next { s with dev :=
    (x.2.pwPut a
    { x.2.pw a with sbDue := false, sbLast := s.dev.gts, sbRetry := (if x.1 then none else some (s.dev.gts + 10000000)) }) }) ∧
  (∀ (s : State) (a : Fin 8), s.dev.sbOk a = true → (s.dev.pw a).sbLast + 1000000000 ≤ s.dev.gts → exec (.sbLimitRefresh a) s =
    .next { s with dev := (s.dev.pwPut a { s.dev.pw a with sbDue := true }) }) ∧
  (∀ (s : State) (a : Fin 8) (r : BusResult) (u : Nat) (x : Bool × Dev) (e : Dev), (s.dev.pw a).sbRetry = some u → u ≤ s.dev.gts
    → s.dev.sbOk a = true → (s.dev.segGet (s.dev.rd F.PWC_ACC_SB_SEG a)).running = none → x = s.dev.sbSend a r → e = x.2.pwPut a
    { x.2.pw a with sbRetry := none, sbLast := s.dev.gts } → exec (.sbLimitRetry a r) s = .next { s with dev := (if x.1 then e
    else (e.wr F.PWC_ERR_SB_WRITE 0 1).ffr causeSbWrite a 0) })

/-- TLM_EN is told to the paired accelerators; a telemetry flit is kept for its frame once and otherwise counted as missed; the
oldest frame is recorded once its window is closed; the records before a tick go to the policies' inputs; a replay block
starts at its boundary unless held out; a candidate is loaded as SHADOW or dropped; the gate judges each held-out segment
once; a decided promotion switches; the retained policy is retired at its time; ROLLBACK abandons a promotion or fails the
ACTIVE policy. -/
def Obligations.OrothaCommands : Prop :=
  (∀ (s : State) (on : Bool), s.dev.sysOn = true → s.dev.is F.ORO_CTRL_TLM_EN ≠ on → exec (.tlmEnWrite on) s = .next { s with
    dev := ((s.dev.wr F.ORO_CTRL_TLM_EN 0 on.toNat).forAcc fun x a => if x.paired a then x.tlmCtrl a on else x) }) ∧
  (∀ (s : State) (on : Bool), s.dev.sysOn = false ∨ s.dev.is F.ORO_CTRL_TLM_EN = on → exec (.tlmEnWrite on) s = .next { s with
    dev := (s.dev) }) ∧
  (∀ (s : State) (a : Fin 8) (p : Payload) (x : Dev) (k : Nat), s.dev.sysOn = true → x = s.dev.takeRx a.val vcMgmt 0x10 p →
    x.tlmFrame (pbits p 96 32) = some k → x.tlmOf k a.val = none → exec (.tlm a p) s = .next { s with dev := ({ x.tlmPurge with
    oro.tlm := (tset (fun _ => none) x.tlmPurge.oro.tlm (8 * k + a.val) (some p)) }) }) ∧
  (∀ (s : State) (a : Fin 8) (p : Payload) (x : Dev) (k : Nat), s.dev.sysOn = true → x = s.dev.takeRx a.val vcMgmt 0x10 p →
    x.tlmFrame (pbits p 96 32) = some k → (x.tlmOf k a.val).isSome = true → exec (.tlm a p) s = .next { s with dev := (x.inc
    F.ORO_TLM_MISS_COUNT) }) ∧
  (∀ (s : State) (a : Fin 8) (p : Payload) (x : Dev), s.dev.sysOn = true → x = s.dev.takeRx a.val vcMgmt 0x10 p → x.tlmFrame
    (pbits p 96 32) = none → exec (.tlm a p) s = .next { s with dev := (x.inc F.ORO_TLM_MISS_COUNT) }) ∧
  (∀ (s : State) (x y e : Dev) (k : Nat) (rc : List Byte) (rest : List (Nat × List Byte)), s.dev.sysOn = true → x =
    s.dev.frameRoll → x.oro.closed = (k, rc) :: rest → (k + 1) * 10000 + x.tlmWindow ≤ x.gts → y = (x.inc F.ORO_TLM_MISS_COUNT 0
    (accs8.filter fun a => x.paired a && (x.tlmOf k a).isNone).length) → e =
    { y with oro.closed := rest, oro.nextRec := (k + 1) } → exec (.frameRecordWrite) s = .next { s with dev := ((((e.stn
    .commons (0x80000 + 288 * (k % 128)) (x.recordOf k rc)).blockAdd k (x.recordOf k rc)).horizonAdd k (x.recordOf k
    rc)).tlmPurge) }) ∧
  (∀ (s : State) (m : Nat), m = s.dev.gts / 1000000 → s.dev.sysOn = true → s.dev.oro.copied ≤ m → 1 ≤ m → 100 * m ≤
    s.dev.pwr.frameNow → ((s.dev.oro.closed.all fun p => decide (100 * m ≤ p.1)) = true) → exec (.policyInputCopy) s = .next { s
    with dev := ({ [rlActive, rlShadow, rlRetained].foldl (fun (x : Dev) r => x.inputCopy m r) s.dev with oro.copied := (m + 1)
    }) }) ∧
  (∀ (s : State) (p b first : Nat), p = 1000000 * max 2 (s.dev.rd F.ORO_FRAME_CFG_SAMPLE_MS) → b = s.dev.gts / p → first = b * p
    / 10000 → s.dev.sysOn = true → s.dev.is F.ORO_CTRL_TLM_EN = true → s.dev.oro.blkBoundary ≤ b * p → exec (.replayBlockStart)
    s = .next { s with dev :=
    ({ s.dev with oro.blkBoundary := (b * p + 1), oro.blk := (if s.dev.segHeld (segOf first) || s.dev.segHeld (segOf (first + 163)) then none else some (s.dev.oro.blkNext, first, 0)) })
    }) ∧
  -- a candidate that cannot be built is dropped
  (∀ (s : State) (c : Nat × Nat × Nat), s.dev.sysOn = true → s.dev.coreUp corePmc = true → s.dev.oro.cand = some c → ¬ (s.dev.is
    F.ORO_STATUS_SHADOW_VALID = true ∧ s.dev.oro.opShadow = true) → s.dev.derive c = none → exec (.shadowLoad) s = .next { s
    with dev := ({ s.dev with oro.cand := none }) }) ∧
  (∀ (s : State) (c : Nat × Nat × Nat) (b : List Byte) (e : Dev), s.dev.sysOn = true → s.dev.coreUp corePmc = true →
    s.dev.oro.cand = some c → ¬ (s.dev.is F.ORO_STATUS_SHADOW_VALID = true ∧ s.dev.oro.opShadow = true) → s.dev.derive c = some
    b → s.dev.fitNative (pkgRead b) = true → e = { s.dev with oro.cand := none } → exec (.shadowLoad) s = .next { s with dev :=
    (e.loadRun (derivedReq b)) }) ∧
  (∀ (s : State), s.dev.oro.cand = none → exec (.shadowLoad) s = .next { s with dev := (s.dev) }) ∧
  (∀ (s : State) (j : Nat) (e : Dev), s.dev.lastHeld = some j → s.dev.sysOn = true → s.dev.coreUp corePmc = true →
    s.dev.oro.gateSeg ≤ j → e = { s.dev with oro.gateSeg := (j + 1) } → exec (.gateEvaluation) s = .next { s with dev := (if
    e.is F.ORO_STATUS_SHADOW_VALID ∧ ¬ e.oro.promote = true then e.gateEval j else e) }) ∧
  -- no held-out segment has ended, or it is judged
  (∀ (s : State) (j : Nat), s.dev.lastHeld = none ∨ (s.dev.lastHeld = some j ∧ j < s.dev.oro.gateSeg) → exec (.gateEvaluation) s
    = .next { s with dev := (s.dev) }) ∧
  (∀ (s : State), s.dev.sysOn = true → s.dev.coreUp corePmc = true → s.dev.oro.promote = true → s.dev.oro.promoteAt ≤ s.dev.gts
    → exec (.promotionSwitch) s = .next { s with dev := (s.dev.promotionSwitch) }) ∧
  (∀ (s : State), s.dev.oro.promote = false → exec (.promotionSwitch) s = .next { s with dev := (s.dev) }) ∧
  (∀ (s : State) (t : Nat) (e : Dev), s.dev.oro.retUntil = some t → s.dev.sysOn = true → s.dev.coreUp corePmc = true → t ≤
    s.dev.gts → e = { s.dev with oro.retUntil := none } → exec (.rollbackTimerExpiry) s = .next { s with dev := (e.roleRetire
    rlRetained) }) ∧
  (∀ (s : State), s.dev.oro.retUntil = none → exec (.rollbackTimerExpiry) s = .next { s with dev := (s.dev) }) ∧
  (∀ (s : State), s.dev.sysOn = true → s.dev.oro.promote = true → exec (.oroCtrlRollback) s = .next { s with dev := ({ s.dev
    with oro.promote := false }) }) ∧
  (∀ (s : State), s.dev.sysOn = true → s.dev.oro.promote = false → s.dev.is F.ORO_STATUS_ACTIVE_VALID = true → exec
    (.oroCtrlRollback) s = .next { s with dev := (s.dev.policyFail) }) ∧
  (∀ (s : State), s.dev.oro.promote = false → s.dev.is F.ORO_STATUS_ACTIVE_VALID = false → exec (.oroCtrlRollback) s = .next { s
    with dev := (s.dev) })

/-- Power arrives and starts the crystal step, which ends or times out to the RC oscillator; the hot-swap controller starts when
permitted, turns on, enters and leaves its limit, integrates its SOA energy, faults and cools down; a bus fault drops the
domains and is restored after its time; MATE's delayed power-down, its clear and the cold restart act once their time has
come. -/
def Obligations.BringUpHotSwapAndBus : Prop :=
  (∀ (s : State), s.dev.seq.vinUp = false → exec (.bringupOn) s = .next { s with dev :=
    ({ s.dev with seq.vinUp := true, seq.xtal := 0, seq.xtalAt := s.dev.aont }) }) ∧
  (∀ (s : State), s.dev.seq.vinUp = true → s.dev.seq.xtal = 0 → exec (.crystalStable) s = .next { s with dev := ({ s.dev with
    seq.xtal := 1 }) }) ∧
  (∀ (s : State), s.dev.seq.vinUp = true → s.dev.seq.xtal = 0 → s.dev.seq.xtalAt + 10000000 ≤ s.dev.aont → exec
    (.crystalStartTimeout) s = .next { s with dev := ({ s.dev.wr F.GLB_CLK_STATUS_RC_ACTIVE 0 1 with seq.xtal := 2 }) }) ∧
  (∀ (s : State), s.dev.hsw = hsOff → s.dev.seq.coldDown = false → s.dev.startOk = true → exec (.startPermitted) s = .next { s
    with dev := (s.dev.hswStart) }) ∧
  (∀ (s : State), exec (.hotswapFault .ov) s = .next { s with dev := ((s.dev.hswFault 1).seqEnd) }) ∧
  (∀ (s : State), exec (.hotswapFault .fastTrip) s = .next { s with dev := ((s.dev.hswFault 2).seqEnd) }) ∧
  (∀ (s : State), s.dev.hsw = hsStart → s.dev.seq.hswAt + s.dev.tMax ≤ s.dev.aont → exec (.hotswapFault .tMax) s = .next { s
    with dev := ((s.dev.hswFault 4).seqEnd) }) ∧
  (∀ (s : State), s.dev.hsw = hsStart → exec (.hswOn) s = .next { s with dev := ((s.dev.hswGo hsOn).seqEnd) }) ∧
  (∀ (s : State), s.dev.hsw = hsOn → exec (.hswLimitEntry) s = .next { s with dev := ((s.dev.wr F.SEQ_HSW_STATUS_STATE 0
    hsLimit).emergUpdate) }) ∧
  (∀ (s : State), s.dev.hsw = hsLimit → exec (.hswLimitExit) s = .next { s with dev := ((s.dev.wr F.SEQ_HSW_STATUS_STATE 0
    hsOn).emergUpdate) }) ∧
  (∀ (s : State) (vds : BitVec 17) (vs : BitVec 27) (e : Dev), 1000 < vds.toNat → (s.dev.hsw = hsStart || s.dev.fetOn) = true →
    e = { s.dev.soaSet (s.dev.seq.soaE + vds.toNat * s.dev.fetMa vs.toNat) with seq.decayUs := 0 } → e.seq.soaE < e.soaLimit →
    exec (.soaIntegrate vds vs) s = .next { s with dev := (e) }) ∧
  -- the limit is reached
  (∀ (s : State) (vds : BitVec 17) (vs : BitVec 27) (e : Dev), 1000 < vds.toNat → (s.dev.hsw = hsStart || s.dev.fetOn) = true →
    e = { s.dev.soaSet (s.dev.seq.soaE + vds.toNat * s.dev.fetMa vs.toNat) with seq.decayUs := 0 } → e.soaLimit ≤ e.seq.soaE →
    exec (.soaIntegrate vds vs) s = .next { s with dev := ((e.hswFault 3).seqEnd) }) ∧
  (∀ (s : State) (vds : BitVec 17) (vs : BitVec 27), vds.toNat ≤ 1000 → s.dev.seq.decayUs + 1 < 100000 → exec (.soaIntegrate vds
    vs) s = .next { s with dev := ({ s.dev with seq.decayUs := (s.dev.seq.decayUs + 1) }) }) ∧
  (∀ (s : State), s.dev.hsw = hsCool → s.dev.seq.hswAt + 100000000 * max 1 (s.dev.rd F.SEQ_HSW_SOA_COOL) ≤ s.dev.aont → exec
    (.hswCoolEnd) s = .next { s with dev := ({ s.dev.hswGo hsOff with seq.restartDue := true }) }) ∧
  (∀ (s : State) (u : Nat) (e : Dev), s.dev.pwr.uvfSince = some u → u + 10000 ≤ s.dev.aont → e = { (s.dev.wr
    F.SEQ_BUS_STATUS_UV_FAULT 0 1).wr F.SEQ_ERR_BUS_UV 0 1 with seq.uvHold := true } → exec (.uvFault) s = .next { s with dev :=
    ((e.domDown ((List.range 14).map (· + 2))).seqEnd.emergUpdate) }) ∧
  (∀ (s : State) (u : Nat), s.dev.seq.uvAbove = some u → s.dev.seq.uvHold = true → u + 100000000 ≤ s.dev.aont → exec
    (.uvRestore) s = .next { s with dev :=
    ({ s.dev with seq.uvHold := false, seq.uvBlock := (maskOf 16 fun k => bitOf s.dev.seq.uvBlock k || (2 ≤ k && s.dev.domReq k && !s.dev.is F.SEQ_DOM_CFG_AUTO_RESTORE k)) }.seqEnd)
    }) ∧
  (∀ (s : State) (u : Nat), s.dev.pwr.mateDown = some u → u ≤ s.dev.aont → exec (.matePowerdownStart) s = .next { s with dev :=
    (({ s.dev with pwr.mateDown := none }.domDown (domains16.filter fun k => s.dev.is F.SEQ_DOM_CFG_MATE k)).seqEnd) }) ∧
  (∀ (s : State) (v : Word), v.toNat / 65536 = 0x5A96 → v.toNat % 2 = 1 → exec (.mateClear v) s = .next { s with dev :=
    (s.dev.mateClear.2.seqEnd) }) ∧
  -- without the key nothing happens
  (∀ (s : State) (v : Word), v.toNat / 65536 ≠ 0x5A96 → exec (.mateClear v) s = .next { s with dev := (s.dev) }) ∧
  (∀ (s : State) (u : Nat), s.dev.seq.coldOff = some u → u + 100000000 ≤ s.dev.aont → exec (.coldRestartDelay) s = .next { s
    with dev := ({ s.dev with seq.coldDown := false, seq.coldOff := none }.startTry) })

/-- SEC's commit takes a graph that passes and refuses one that does not; a domain request is taken where it is allowed; a rail is
enabled once its wait is over, follows its power-good, qualifies, drains, falls, fails at its bounds with the cause of the
bound; a failed rail is cleared; presence changes take their domains; reset outputs are held or released once they may; the
self rails are tried again once. -/
def Obligations.DomainsRailsAndResets : Prop :=
  (∀ (s : State), s.dev.graphOk = true → exec (.seqCommit .sec) s = .next { s with dev := ((domains16.foldl (fun (x : Dev) k =>
    if x.is F.SEQ_DOM_CFG_BOOT_ON k then x.wrBit F.SEQ_DOM_REQ_REQ 0 k true else x) (s.dev.wr F.SEQ_CTRL_GRAPH_VALID 0
    1)).seqEnd.readyTry) }) ∧
  (∀ (s : State), s.dev.graphOk = false → exec (.seqCommit .sec) s = .next { s with dev := (s.dev.wr F.SEQ_ERR_GRAPH_REJECT 0 1)
    }) ∧
  (∀ (s : State) (by_ : Agent), by_ ≠ .sec → exec (.seqCommit by_) s = .next { s with dev := (s.dev) }) ∧
  (∀ (s : State) (dom : Fin 16), s.dev.domReqOk dom.val true = true → exec (.domainRequest dom true) s = .next { s with dev :=
    ((s.dev.wrBit F.SEQ_DOM_REQ_REQ 0 dom.val true).seqEnd) }) ∧
  (∀ (s : State) (dom : Fin 16) (e : Dev), s.dev.domReqOk dom.val false = true → e = s.dev.wrBit F.SEQ_DOM_REQ_REQ 0 dom.val
    false → exec (.domainRequest dom false) s = .next { s with dev := (({ e with seq.uvBlock := (putBit e.seq.uvBlock dom.val
    false) }.domDown [dom.val]).seqEnd) }) ∧
  (∀ (s : State) (n : Fin 96), s.dev.rail n.val = rlWait → s.dev.fetOn = true → (s.dev.railPars n.val).all s.dev.parOn = true →
    (s.dev.railPars n.val).foldl (fun m p => max m (s.dev.parSince p)) (s.dev.rlT n.val).since + s.dev.delayOn n.val ≤
    s.dev.aont → exec (.delayOnExpiry n) s = .next { s with dev := ((s.dev.railEnable n.val).seqEnd) }) ∧
  (∀ (s : State) (n : Fin 96) (e f : Dev), s.dev.railUsed n.val = true → s.dev.is F.SEQ_RAIL_STATUS_PG n.val = false →
    s.dev.rail n.val = rlRamp → e = ((s.dev.wr F.SEQ_RAIL_STATUS_PG n.val 1).rlTMod n.val fun x => { x with adcRun := 0 }) → f =
    e.railGo n.val rlQual → exec (.powerGoodChange n true) s = .next { s with dev := ((f.rlTMod n.val fun x => { x with goodAt
    := e.aont }).seqEnd) }) ∧
  -- power-good lost
  (∀ (s : State) (n : Fin 96), s.dev.railUsed n.val = true → s.dev.is F.SEQ_RAIL_STATUS_PG n.val = true → s.dev.rail n.val =
    rlOn ∨ s.dev.rail n.val = rlDrain → exec (.powerGoodChange n false) s = .next { s with dev := ((((s.dev.wr
    F.SEQ_RAIL_STATUS_PG n.val 0).rlTMod n.val fun x => { x with adcRun := 0 }).railFail n.val rfPgLost).seqEnd) }) ∧
  (∀ (s : State) (n : Fin 96), s.dev.qualified n.val = true → exec (.qualComplete n) s = .next { s with dev := ((s.dev.railGo
    n.val rlOn).seqEnd) }) ∧
  (∀ (s : State) (n : Fin 96), s.dev.rail n.val = rlRamp → s.dev.rd F.SEQ_RAIL_STATUS_CHATTER n.val = 0 → (s.dev.rlT n.val).enAt
    + s.dev.tRise n.val ≤ s.dev.aont → exec (.rampTimeout n) s = .next { s with dev := ((s.dev.railFail n.val rfRamp).seqEnd) }) ∧
  (∀ (s : State) (n : Fin 96), s.dev.rail n.val = rlRamp ∨ s.dev.rail n.val = rlQual → (s.dev.rlT n.val).enAt + s.dev.tRise
    n.val + s.dev.tQual n.val ≤ s.dev.aont → exec (.qualTimeout n) s = .next { s with dev := ((if s.dev.qualified n.val then
    s.dev.railGo n.val rlOn else s.dev.railFail n.val rfQual).seqEnd) }) ∧
  (∀ (s : State) (n : Fin 96), s.dev.drained n.val = true → exec (.drainComplete n) s = .next { s with dev := ((s.dev.railFall
    n.val).seqEnd) }) ∧
  (∀ (s : State) (n : Fin 96), s.dev.rail n.val = rlFall → s.dev.is F.SEQ_RAIL_STATUS_PG n.val = true → (s.dev.rlT n.val).since
    + s.dev.tFall n.val ≤ s.dev.aont → exec (.fallTimeout n) s = .next { s with dev := ((s.dev.railFail n.val rfFall).seqEnd) }) ∧
  (∀ (s : State) (n : Fin 96), s.dev.rail n.val = rlFailed → exec (.railFailedClear n) s = .next { s with dev := ((((s.dev.wr
    F.SEQ_RAIL_STATUS_FAILED n.val 0).wr F.SEQ_RAIL_STATUS_CAUSE n.val 0).railGo n.val rlOff).seqEnd) }) ∧
  (∀ (s : State) (a : Fin 8), s.dev.present a.val = false → tget (fun _ => 0) s.dev.seq.prsntAt a.val + 100000 ≤ s.dev.aont →
    exec (.prsntRemoved a) s = .next { s with dev := ((s.dev.domDown (domains16.filter fun k => s.dev.is F.SEQ_DOM_CFG_ACC_VALID
    k && s.dev.rd F.SEQ_DOM_CFG_ACC k = a.val)).seqEnd) }) ∧
  (∀ (s : State) (a : Fin 8), s.dev.prsntOk a.val = true → exec (.prsntQualified a) s = .next { s with dev := (s.dev.seqEnd) }) ∧
  (∀ (s : State) (k : Fin 16) (e : Dev), s.dev.bit F.SEQ_RST_STATUS_ASSERTED 0 k.val = true → s.dev.rstReady k.val = true → e =
    (s.dev.wrBit F.SEQ_RST_STATUS_ASSERTED 0 k.val false).pin "RST_OUT#" k.val true → exec (.resetStretchDone k) s = .next { s
    with dev := (if k.val < 8 then e.accRelease k.val else e) }) ∧
  (∀ (s : State) (hold : BitVec 16), exec (.rstHoldWrite hold) s = .next { s with dev := ((List.range 16).foldl (fun (x : Dev) k
    => if bitOf hold.toNat k then x.rstAssert k else x.rstRelease k) (s.dev.wr F.SEQ_RST_HOLD_HOLD 0 hold.toNat)) }) ∧
  (∀ (s : State) (u : Nat), s.dev.seq.selfRetry = some u → u ≤ s.dev.aont → (([0, 1, 2].all fun n => s.dev.rail n = rlOff ||
    s.dev.rail n = rlFailed || s.dev.rail n = rlOn) = true) → exec (.selfRailRetry) s = .next { s with dev := (({ [0, 1,
    2].foldl Dev.railClear s.dev with seq.selfRetry := none }.domGo 0 dmOff).seqEnd) })

/-- A measurement window opens at its period, ends with the speed from its edges or with none; a kicked fan that turns runs, one
that does not is kicked again or judged; a written target is taken where no cover holds it; a failed fan is cleared; a reserve
is tested on its schedule and its test ends; commissioning starts for PMC in test mode, takes the nominal current, and fails
at its bound. -/
def Obligations.FanCommands : Prop :=
  (∀ (s : State) (n : Fin 18), s.dev.fanTurns n = true → (s.dev.fan n).nextK ≤ s.dev.aont / s.dev.fPeriod → exec
    (.fanWindowStart n) s = .next { s with dev := ((s.dev.fanMod n fun x =>
    { x with nextK := (s.dev.aont / s.dev.fPeriod + 1), win := (some { start := (s.dev.aont / s.dev.fPeriod * s.dev.fPeriod) }) }).coolShow)
    }) ∧
  (∀ (s : State) (n : Fin 18), s.dev.tableOk = true → s.dev.fst n = fnKick → exec (.tachEdge n) s = .next { s with dev :=
    ((s.dev.kickEdge n).coolShow) }) ∧
  -- the second edge of a window gives the speed
  (∀ (s : State) (n : Fin 18) (w : FanWin) (u : Nat), s.dev.tableOk = true → s.dev.fst n ≠ fnKick → (s.dev.fan n).win = some w →
    w.start + s.dev.fSettle ≤ s.dev.aont → s.dev.aont ≤ w.start + s.dev.fWin → w.edge = some u → u < s.dev.aont → exec
    (.tachEdge n) s = .next { s with dev := ((s.dev.fanMeasure n (rpmOf (s.dev.ppr n) (s.dev.aont - u))).coolShow) }) ∧
  (∀ (s : State) (n : Fin 18) (w : FanWin), (s.dev.fan n).win = some w → w.start + s.dev.fWin ≤ s.dev.aont → exec (.fanWindowEnd
    n) s = .next { s with dev := ((s.dev.fanMeasure n 0).coolShow) }) ∧
  (∀ (s : State) (n : Fin 18) (rpm : BitVec 16) (e : Dev), s.dev.serves n = none → e = s.dev.wr F.FAN_TARGET_TARGET_RPM n
    rpm.toNat → exec (.fanTargetWrite n rpm) s = .next { s with dev := ((if n.val < 16 ∧ e.is F.FAN_STATUS_COVERED n then e.wr
    F.FAN_TARGET_TARGET_RPM (e.rd F.FAN_STATUS_COVER_FAN n) rpm.toNat else e).coolFollow) }) ∧
  (∀ (s : State) (n : Fin 18), s.dev.fst n = fnKick → (s.dev.fan n).since + s.dev.kickNs ≤ s.dev.aont → s.dev.rd
    F.FAN_STATUS_KICKS n + 1 < 3 → exec (.kickExpiry n) s = .next { s with dev := (((s.dev.wr F.FAN_STATUS_KICKS n (min 3
    (s.dev.rd F.FAN_STATUS_KICKS n + 1))).fanGo n fnGap).coolShow) }) ∧
  -- the third kick failed
  (∀ (s : State) (n : Fin 18) (e : Dev), s.dev.fst n = fnKick → (s.dev.fan n).since + s.dev.kickNs ≤ s.dev.aont → 3 ≤ s.dev.rd
    F.FAN_STATUS_KICKS n + 1 → e = s.dev.wr F.FAN_STATUS_KICKS n (min 3 (s.dev.rd F.FAN_STATUS_KICKS n + 1)) → (((s.dev.fan
    n).kickI.filter fun p => e.aont < p.1 + 100000000) = []) → exec (.kickExpiry n) s = .next { s with dev := ((e.fanJudge
    n).coolShow) }) ∧
  (∀ (s : State) (n : Fin 18), s.dev.fst n = fnGap → (s.dev.fan n).since + s.dev.gapNs ≤ s.dev.aont → exec (.kickGapEnd n) s =
    .next { s with dev := ((s.dev.fanKick n false).coolShow) }) ∧
  (∀ (s : State) (n : Fin 18), s.dev.fst n = fnFailed → n.val < 16 → exec (.fanFailedClear n) s = .next { s with dev :=
    ((((s.dev.wr F.FAN_STATUS_FAILED n 0).wr F.FAN_STATUS_CAUSE n 0).fanGo n fnOff).coolFollow) }) ∧
  -- a reserve returns to IDLE
  (∀ (s : State) (n : Fin 18), s.dev.fst n = fnFailed → 16 ≤ n.val → exec (.fanFailedClear n) s = .next { s with dev :=
    ((((s.dev.wr F.FAN_STATUS_FAILED n 0).wr F.FAN_STATUS_CAUSE n 0).fanGo n fnIdle).coolShow) }) ∧
  (∀ (s : State) (r : Fin 2) (h m : Nat) (e : Dev), h = s.dev.testNs → m = 16 + r.val → h ≠ 0 → s.dev.aont / h ≠ 0 → (s.dev.fan
    m).testK < s.dev.aont / h → e = (s.dev.fanMod m fun x => { x with testK := (s.dev.aont / h) }) → e.tableOk = true →
    e.fanUsed m = true → e.rd F.COOL_CTRL_MODE = cmRun → e.fst m = fnIdle → e.fanSupply m = true → exec (.reserveFanTest r) s =
    .next { s with dev := (((e.fanMod m fun x => { x with testing := true }).fanKick m true).coolShow) }) ∧
  (∀ (s : State) (r : Fin 2), s.dev.fst (16 + r.val) = fnTest → (s.dev.fan (16 + r.val)).since + 1000000000 * max 1 (s.dev.rd
    F.COOL_RSV_TEST_S) ≤ s.dev.aont → exec (.reserveTestEnd r) s = .next { s with dev := (((s.dev.fanGo (16 + r.val)
    fnIdle).fanMod (16 + r.val) fun x => { x with win := none, low := 0 }).coolShow) }) ∧
  (∀ (s : State) (n : Fin 18), s.dev.commOk n.val = true → exec (.fanCommission .pmc n) s = .next { s with dev :=
    (s.dev.commStart n.val none) }) ∧
  (∀ (s : State) (by_ : Agent) (n : Fin 18), by_ ≠ .pmc → exec (.fanCommission by_ n) s = .next { s with dev := (s.dev) }) ∧
  (∀ (s : State) (n : Fin 18), s.dev.fst n = fnComm → (s.dev.fan n).since + 60000000000 ≤ s.dev.aont → exec (.commissionTimeout
    n) s = .next { s with dev := ((s.dev.commFail n).coolShow) }) ∧
  (∀ (s : State) (n : Fin 18) (e : Dev), s.dev.fst n = fnComm → (s.dev.fan n).commLoop = false → (s.dev.fan n).since +
    10000000000 ≤ s.dev.aont → e = (if (s.dev.fan n).commN = 0 then s.dev else s.dev.wr F.FAN_CURRENT_I_NOM n (min 65535
    ((s.dev.fan n).commSum / (s.dev.fan n).commN))) → exec (.commissionINomMeasured n) s = .next { s with dev := (((e.wr
    F.FAN_STATUS_DUTY n 1024).fanMod n fun x => { x with commLoop := true }).coolShow) })

/-- SEC's commit takes a table that passes and refuses another; a pump is measured each period and its target and fault clear
taken; flow edges are counted and each flow window evaluated once; a loop fault, a leak latch and a diode are shown and
cleared where their cause is gone; the mode is written by PMC or SEC and returns to RUN at its bound. -/
def Obligations.CoolingTableLoopsAndSensors : Prop :=
  (∀ (s : State) (e : Dev), s.dev.coolTableOk = true → e = s.dev.wr F.COOL_STATUS_TABLE_VALID 0 1 → exec (.coolCommit .sec) s =
    .next { s with dev := (([16, 17].foldl (fun (x : Dev) k => if x.fanUsed k ∧ x.fst k = fnOff then x.fanGo k fnIdle else x)
    e).coolFollow.readyTry) }) ∧
  (∀ (s : State), s.dev.coolTableOk = false → exec (.coolCommit .sec) s = .next { s with dev := (s.dev.wr
    F.COOL_ERR_TABLE_REJECT 0 1) }) ∧
  (∀ (s : State) (by_ : Agent), by_ ≠ .sec → exec (.coolCommit by_) s = .next { s with dev := (s.dev) }) ∧
  -- a pump that is off is only measured
  (∀ (s : State) (p : Fin 4) (tm : Word) (k : Nat) (e : Dev), k = s.dev.aont / s.dev.fPeriod → s.dev.tableOk = true → s.dev.is
    F.PUMP_CFG_USED p = true → (s.dev.pump' p).nextK < k → e = ((s.dev.pumpMod p fun x => { x with nextK := k }).wr
    F.PUMP_STATUS_RPM p (rpmOf ((s.dev.pumpMod p fun x => { x with nextK := k }).rd F.PUMP_CFG_PPR p + 1) tm.toNat)) → e.rd
    F.PUMP_STATUS_STATE p ≠ 1 → exec (.pumpMeasurement p tm) s = .next { s with dev := (e.coolShow) }) ∧
  -- with no target the duty stays at its least
  (∀ (s : State) (p : Fin 4) (tm : Word) (k : Nat) (e : Dev), k = s.dev.aont / s.dev.fPeriod → s.dev.tableOk = true → s.dev.is
    F.PUMP_CFG_USED p = true → (s.dev.pump' p).nextK < k → e = ((s.dev.pumpMod p fun x => { x with nextK := k }).wr
    F.PUMP_STATUS_RPM p (rpmOf ((s.dev.pumpMod p fun x => { x with nextK := k }).rd F.PUMP_CFG_PPR p + 1) tm.toNat)) → e.rd
    F.PUMP_STATUS_STATE p = 1 → min (e.rd F.PUMP_TARGET_MAX_RPM p) (e.rd F.PUMP_TARGET_TARGET_RPM p) = 0 → exec
    (.pumpMeasurement p tm) s = .next { s with dev := (((e.wr F.PUMP_STATUS_DUTY p (4 * e.rd F.PUMP_CFG_MIN_DUTY p)).pumpMod p
    fun x => { x with low := 0 }).coolShow) }) ∧
  (∀ (s : State) (p : Fin 4) (rpm : BitVec 16) (e f : Dev), e = ((if s.dev.rd F.PUMP_TARGET_TARGET_RPM p = 0 ∧ rpm.toNat ≠ 0
    then s.dev.pumpMod p fun x => { x with graceAt := s.dev.aont, low := 0 } else s.dev)) → f = e.wr F.PUMP_TARGET_TARGET_RPM p
    rpm.toNat → exec (.pumpTargetWrite p rpm) s = .next { s with dev := (if rpm.toNat = 0 ∧ s.dev.tableOk = true ∧ s.dev.rd
    F.PUMP_STATUS_STATE p = 1 then f.wr F.PUMP_STATUS_DUTY p (4 * s.dev.rd F.PUMP_CFG_MIN_DUTY p) else f) }) ∧
  (∀ (s : State) (p : Fin 4), s.dev.is F.PUMP_STATUS_FAILED p.val = true → exec (.pumpFailedClear p) s = .next { s with dev :=
    ((((s.dev.wr F.PUMP_STATUS_FAILED p.val 0).wr F.PUMP_STATUS_STATE p.val (s.dev.pumpSupply p.val).toNat).pumpMod p.val fun x
    => { x with low := 0 }).coolShow) }) ∧
  (∀ (s : State) (l : Fin 4), s.dev.tableOk = true → s.dev.is F.LOOP_CFG_EN l = true → exec (.flowEdge l) s = .next { s with dev
    := (s.dev.loopWin l fun w => { w with edges := (w.edges + 1) }) }) ∧
  -- before the pump has started no window is judged
  (∀ (s : State) (l : Fin 4) (f k : Nat) (e : Dev), f = s.dev.fwinNs → k = (s.dev.aont - 1000) / f - 1 → s.dev.tableOk = true →
    s.dev.is F.LOOP_CFG_EN l = true → f + 1000 ≤ s.dev.aont → (s.dev.cloop l).nextK ≤ k → (s.dev.cloop l).grace = none → e =
    (s.dev.wr F.LOOP_CFG_GRACE l 0) → exec (.flowWindowEvaluation l) s = .next { s with dev := ((e.cloopMod l fun x =>
    { x with nextK := (k + 1), wins := (x.wins.filter fun p => k < p.1) }).coolShow) }) ∧
  (∀ (s : State) (l : Fin 4) (f k g : Nat) (e : Dev), f = s.dev.fwinNs → k = (s.dev.aont - 1000) / f - 1 → s.dev.tableOk = true
    → s.dev.is F.LOOP_CFG_EN l = true → f + 1000 ≤ s.dev.aont → (s.dev.cloop l).nextK ≤ k → (s.dev.cloop l).grace = some g → g +
    1000000000 * s.dev.rd F.COOL_FLOW_CFG_GRACE_S < (k + 1) * f → e = (s.dev.wr F.LOOP_CFG_GRACE l 0).loopEval l k → exec
    (.flowWindowEvaluation l) s = .next { s with dev := ((e.cloopMod l fun x =>
    { x with nextK := (k + 1), wins := (x.wins.filter fun p => k < p.1) }).coolShow) }) ∧
  (∀ (s : State) (l : Fin 4), (s.dev.cloop l.val).lastFail = false → exec (.loopFaultClear l) s = .next { s with dev :=
    ((s.dev.wr F.LOOP_CFG_FAULT l.val 0).mateShow.coolShow) }) ∧
  (∀ (s : State) (r : List (BitVec 12)), exec (.leakReport r) s = .next { s with dev := ((r.take 16).zipIdx.foldl (fun (x : Dev)
    (p : BitVec 12 × Nat) => x.leakOne p.2 p.1.toNat) s.dev) }) ∧
  (∀ (s : State) (z : Fin 16), s.dev.rd F.LEAK_STATUS_STATE z.val = 0 → exec (.leakLatchClear z) s = .next { s with dev :=
    ((s.dev.wr F.LEAK_STATUS_LATCHED z.val 0).mateShow) }) ∧
  -- a conversion that reports a fault shows HOT
  (∀ (s : State) (i : Fin 32) (temp : BitVec 16) (x : Td) (e : Dev), s.dev.tableOk = true → s.dev.is F.TD_CFG_USED i = true → x
    = tget (fun _ => { }) s.dev.cool.tds i → e = { s.dev with cool.tds := (tset (fun _ => { }) s.dev.cool.tds i
    { x with above := 0, below := 0 }) } → exec (.tdConversion i temp true) s = .next { s with dev := ((((((e.wr
    F.TD_STATUS_TEMP i temp.toNat).wr F.TD_STATUS_FAULT i 1).wr F.COOL_ERR_TD_FAULT 0 1)).wr F.TD_STATUS_HOT i 1).coolShow) }) ∧
  (∀ (s : State) (i : Fin 32) (temp : BitVec 16) (x y : Td) (hi : Int) (ab be : Nat) (e : Dev), s.dev.tableOk = true → s.dev.is
    F.TD_CFG_USED i = true → x = tget (fun _ => { }) s.dev.cool.tds i → hi = (64 * (s.dev.rd F.TD_CFG_HOT i : Nat) : Int) → ab =
    (if hi < signed 16 temp.toNat then x.above + 1 else 0) → be = (if signed 16 temp.toNat < hi - 64 * (s.dev.rd F.TD_CFG_HYST i
    : Nat) then x.below + 1 else 0) → y =
    ({ hot := (if x.hot then !decide (2 ≤ be) else decide (2 ≤ ab)), above := ab, below := be } : Td) → e = { s.dev with
    cool.tds := (tset (fun _ => { }) s.dev.cool.tds i y) } → exec (.tdConversion i temp false) s = .next { s with dev :=
    ((((e.wr F.TD_STATUS_TEMP i temp.toNat).wr F.TD_STATUS_FAULT i 0).wr F.TD_STATUS_HOT i y.hot.toNat).coolShow) }) ∧
  (∀ (s : State) (by_ : Agent) (m : Fin 4) (e : Dev), by_ = .pmc ∨ by_ = .sec → e = { s.dev.modeGo m with cool.wdogIn := false }
    → exec (.coolModeWrite by_ m) s = .next { s with dev := ((if m.val = cmRun then e.wr F.COOL_STATUS_FULL_LATCH 0 0 else
    e).coolShow) }) ∧
  (∀ (s : State) (e : Dev), s.dev.rd F.COOL_CTRL_MODE = cmTest ∨ s.dev.rd F.COOL_CTRL_MODE = cmRecovery → s.dev.cool.modeAt +
    1000000000 * max 1 (s.dev.rd F.COOL_CTRL_MODE_MAX) ≤ s.dev.aont → e = { s.dev.modeGo cmRun with cool.wdogIn := false } →
    exec (.coolModeTimeout) s = .next { s with dev := ((if s.dev.cool.wdogIn then e.wr F.COOL_STATUS_FULL_LATCH 0 1 else
    e).coolShow) })

/-- In Endgame each block read answers one message that holds the byte count, exactly the bytes named and the PEC over the whole
transfer, and changes nothing else; an unserved code is refused; the golden exit and, ten seconds after entry, the automatic
exit request a cold reset, the automatic one at most once and not while MATE is active, the hot-swap controller is latched or
the boot itself began by an exit. -/
def Obligations.EndgameResponderAnswersOnSmb0 : Prop :=
  (∀ (s : State), s.dev.flt.endgame = true → exec (.endgameIdent) s = .next { s with dev := (s.dev.emit (.msg
    "SMB_0 0x4E block read" 0 ((le 1 (le 2 (s.dev.rd F.GLB_ID_DEVICE_ID) ++ le 1 (s.dev.rd F.GLB_ID_STEPPING) ++ le 1 (s.dev.rd
    F.GLB_ID_TGRADE) ++ le 8 Config.serial.toNat).length ++ (le 2 (s.dev.rd F.GLB_ID_DEVICE_ID) ++ le 1 (s.dev.rd
    F.GLB_ID_STEPPING) ++ le 1 (s.dev.rd F.GLB_ID_TGRADE) ++ le 8 Config.serial.toNat)) ++ le 1 (pec ([0x9C] ++ le 1 0 ++ [0x9D]
    ++ (le 1 (le 2 (s.dev.rd F.GLB_ID_DEVICE_ID) ++ le 1 (s.dev.rd F.GLB_ID_STEPPING) ++ le 1 (s.dev.rd F.GLB_ID_TGRADE) ++ le 8
    Config.serial.toNat).length ++ (le 2 (s.dev.rd F.GLB_ID_DEVICE_ID) ++ le 1 (s.dev.rd F.GLB_ID_STEPPING) ++ le 1 (s.dev.rd
    F.GLB_ID_TGRADE) ++ le 8 Config.serial.toNat)))))) ) }) ∧
  (∀ (s : State), s.dev.flt.endgame = true → exec (.endgameState) s = .next { s with dev := (s.dev.emit (.msg
    "SMB_0 0x4E block read" 1 ((le 1 (le 1 1 ++ le 1 s.dev.flt.endCause ++ le 1 (s.dev.flt.endAuto.toNat + 2 *
    s.dev.flt.endBoot.toNat) ++ le 1 (s.dev.coresFailed % 8) ++ le 4 (min (2 ^ 32 - 1) ((s.dev.aont - s.dev.flt.endAt) /
    1000000))).length ++ (le 1 1 ++ le 1 s.dev.flt.endCause ++ le 1 (s.dev.flt.endAuto.toNat + 2 * s.dev.flt.endBoot.toNat) ++
    le 1 (s.dev.coresFailed % 8) ++ le 4 (min (2 ^ 32 - 1) ((s.dev.aont - s.dev.flt.endAt) / 1000000)))) ++ le 1 (pec ([0x9C] ++
    le 1 1 ++ [0x9D] ++ (le 1 (le 1 1 ++ le 1 s.dev.flt.endCause ++ le 1 (s.dev.flt.endAuto.toNat + 2 * s.dev.flt.endBoot.toNat)
    ++ le 1 (s.dev.coresFailed % 8) ++ le 4 (min (2 ^ 32 - 1) ((s.dev.aont - s.dev.flt.endAt) / 1000000))).length ++ (le 1 1 ++
    le 1 s.dev.flt.endCause ++ le 1 (s.dev.flt.endAuto.toNat + 2 * s.dev.flt.endBoot.toNat) ++ le 1 (s.dev.coresFailed % 8) ++
    le 4 (min (2 ^ 32 - 1) ((s.dev.aont - s.dev.flt.endAt) / 1000000)))))))) ) }) ∧
  (∀ (s : State), s.dev.flt.endgame = true → exec (.endgameResetCause) s = .next { s with dev := (s.dev.emit (.msg
    "SMB_0 0x4E block read" 2 ((le 1 (s.dev.viewBytes (F.GLB_RESET_CAUSE_POR.addr 0) 1).length ++ (s.dev.viewBytes
    (F.GLB_RESET_CAUSE_POR.addr 0) 1)) ++ le 1 (pec ([0x9C] ++ le 1 2 ++ [0x9D] ++ (le 1 (s.dev.viewBytes
    (F.GLB_RESET_CAUSE_POR.addr 0) 1).length ++ (s.dev.viewBytes (F.GLB_RESET_CAUSE_POR.addr 0) 1)))))) ) }) ∧
  (∀ (s : State), s.dev.flt.endgame = true → exec (.endgameRails) s = .next { s with dev := (s.dev.emit (.msg
    "SMB_0 0x4E block read" 3 ((le 1 (s.dev.viewBytes (F.SEQ_ON_RAILS.addr 0) 3 ++ s.dev.viewBytes (F.SEQ_FAILED_RAILS.addr 0)
    3).length ++ (s.dev.viewBytes (F.SEQ_ON_RAILS.addr 0) 3 ++ s.dev.viewBytes (F.SEQ_FAILED_RAILS.addr 0) 3)) ++ le 1 (pec
    ([0x9C] ++ le 1 3 ++ [0x9D] ++ (le 1 (s.dev.viewBytes (F.SEQ_ON_RAILS.addr 0) 3 ++ s.dev.viewBytes (F.SEQ_FAILED_RAILS.addr
    0) 3).length ++ (s.dev.viewBytes (F.SEQ_ON_RAILS.addr 0) 3 ++ s.dev.viewBytes (F.SEQ_FAILED_RAILS.addr 0) 3)))))) ) }) ∧
  (∀ (s : State), s.dev.flt.endgame = true → exec (.endgameSupply) s = .next { s with dev := (s.dev.emit (.msg
    "SMB_0 0x4E block read" 4 ((le 1 (s.dev.viewBytes (F.SEQ_HSW_STATUS_STATE.addr 0) 1 ++ s.dev.viewBytes
    (F.SEQ_BUS_STATUS_VBUS.addr 0) 1 ++ s.dev.viewBytes (F.SEQ_DOM_STATE_STATE.addr 0) 1).length ++ (s.dev.viewBytes
    (F.SEQ_HSW_STATUS_STATE.addr 0) 1 ++ s.dev.viewBytes (F.SEQ_BUS_STATUS_VBUS.addr 0) 1 ++ s.dev.viewBytes
    (F.SEQ_DOM_STATE_STATE.addr 0) 1)) ++ le 1 (pec ([0x9C] ++ le 1 4 ++ [0x9D] ++ (le 1 (s.dev.viewBytes
    (F.SEQ_HSW_STATUS_STATE.addr 0) 1 ++ s.dev.viewBytes (F.SEQ_BUS_STATUS_VBUS.addr 0) 1 ++ s.dev.viewBytes
    (F.SEQ_DOM_STATE_STATE.addr 0) 1).length ++ (s.dev.viewBytes (F.SEQ_HSW_STATUS_STATE.addr 0) 1 ++ s.dev.viewBytes
    (F.SEQ_BUS_STATUS_VBUS.addr 0) 1 ++ s.dev.viewBytes (F.SEQ_DOM_STATE_STATE.addr 0) 1)))))) ) }) ∧
  (∀ (s : State), s.dev.flt.endgame = true → exec (.endgameProtect) s = .next { s with dev := (s.dev.emit (.msg
    "SMB_0 0x4E block read" 5 ((le 1 (s.dev.powered4 (F.PWC_EMERG_STATE.addr 0) ++ s.dev.viewBytes
    (F.PWC_MATE_STATUS_ACTIVE.addr 0) 1 ++ s.dev.powered4 (F.PWC_STATUS_MATE.addr 0)).length ++ (s.dev.powered4
    (F.PWC_EMERG_STATE.addr 0) ++ s.dev.viewBytes (F.PWC_MATE_STATUS_ACTIVE.addr 0) 1 ++ s.dev.powered4 (F.PWC_STATUS_MATE.addr
    0))) ++ le 1 (pec ([0x9C] ++ le 1 5 ++ [0x9D] ++ (le 1 (s.dev.powered4 (F.PWC_EMERG_STATE.addr 0) ++ s.dev.viewBytes
    (F.PWC_MATE_STATUS_ACTIVE.addr 0) 1 ++ s.dev.powered4 (F.PWC_STATUS_MATE.addr 0)).length ++ (s.dev.powered4
    (F.PWC_EMERG_STATE.addr 0) ++ s.dev.viewBytes (F.PWC_MATE_STATUS_ACTIVE.addr 0) 1 ++ s.dev.powered4 (F.PWC_STATUS_MATE.addr
    0))))))) ) }) ∧
  (∀ (s : State), s.dev.flt.endgame = true → exec (.endgameCooling) s = .next { s with dev := (s.dev.emit (.msg
    "SMB_0 0x4E block read" 6 ((le 1 (s.dev.viewBytes (F.COOL_STATUS_TABLE_VALID.addr 0) 2).length ++ (s.dev.viewBytes
    (F.COOL_STATUS_TABLE_VALID.addr 0) 2)) ++ le 1 (pec ([0x9C] ++ le 1 6 ++ [0x9D] ++ (le 1 (s.dev.viewBytes
    (F.COOL_STATUS_TABLE_VALID.addr 0) 2).length ++ (s.dev.viewBytes (F.COOL_STATUS_TABLE_VALID.addr 0) 2)))))) ) }) ∧
  (∀ (s : State), s.dev.flt.endgame = true → exec (.endgameRecorder) s = .next { s with dev := (s.dev.emit (.msg
    "SMB_0 0x4E block read" 7 ((le 1 (le 4 (s.dev.rd F.FFR_FILL_RECORDS) ++ le 4 (s.dev.rd F.FFR_LOST_COUNT)).length ++ (le 4
    (s.dev.rd F.FFR_FILL_RECORDS) ++ le 4 (s.dev.rd F.FFR_LOST_COUNT))) ++ le 1 (pec ([0x9C] ++ le 1 7 ++ [0x9D] ++ (le 1 (le 4
    (s.dev.rd F.FFR_FILL_RECORDS) ++ le 4 (s.dev.rd F.FFR_LOST_COUNT)).length ++ (le 4 (s.dev.rd F.FFR_FILL_RECORDS) ++ le 4
    (s.dev.rd F.FFR_LOST_COUNT))))))) ) }) ∧
  (∀ (s : State) (cmd : Byte), s.dev.flt.endgame = true → exec (.endgameUnknownCommand cmd) s = .next { s with dev :=
    (s.dev.emit (.msg "SMB_0 0x4E NACK" cmd.toNat [])) }) ∧
  (∀ (s : State), s.dev.flt.endgame = true → exec (.goldenExit) s = .next { s with dev := ({ s.dev with boot.forceG := true
    }.coldRequest rcEndgameExit) }) ∧
  (∀ (s : State), s.dev.flt.endgame = true → s.dev.flt.endAuto = true → s.dev.flt.endAt + 10000000000 ≤ s.dev.aont →
    s.dev.flt.endBoot = false → s.dev.is F.PWC_MATE_STATUS_ACTIVE = false → s.dev.hsw ≠ hsLatched → exec (.endgameAutoExit) s =
    .next { s with dev := ({ s.dev with flt.endAuto := false }.coldRequest rcEndgameExit) }) ∧
  (∀ (s : State), s.dev.flt.endgame = true → s.dev.flt.endAuto = true → s.dev.flt.endAt + 10000000000 ≤ s.dev.aont →
    s.dev.flt.endBoot = true ∨ s.dev.is F.PWC_MATE_STATUS_ACTIVE = true ∨ s.dev.hsw = hsLatched → exec (.endgameAutoExit) s =
    .next { s with dev := ({ s.dev with flt.endAuto := false }) })

/-- While the port is powered each JTAG instruction is loaded and its register shifted out: BYPASS one zero bit, IDCODE the 32-bit
identification code, SAMPLE/PRELOAD and (with MFG_TEST strapped) EXTEST the balls, CLAMP and HIGHZ one zero bit with the balls
driven or released; without the strap the last three act as BYPASS; DEBUG opens core debug only when the debug state is open. -/
def Obligations.BoundaryScanInstructions : Prop :=
  (∀ (s : State), s.dev.tapOn = true → exec (.jtagBypass) s = .next { s with dev :=
    ({ s.dev with jtag.ir := 0xFF, jtag.drive := 0, jtag.dbg := false }.tdo [false]) }) ∧
  (∀ (s : State), s.dev.tapOn = true → exec (.jtagIdcode) s = .next { s with dev :=
    ({ s.dev with jtag.ir := 0x01, jtag.drive := 0, jtag.dbg := false }.tdo ((List.range 32).map (bitOf idCode))) }) ∧
  (∀ (s : State) (balls : List Bool) (cells : List Bool), s.dev.tapOn = true → exec (.jtagSamplePreload balls cells) s = .next {
    s with dev := ({ s.dev with jtag.ir := 0x02, jtag.drive := 0, jtag.dbg := false, jtag.cells := cells }.tdo balls) }) ∧
  (∀ (s : State) (balls : List Bool) (cells : List Bool), s.dev.tapOn = true → s.dev.boot.mfgTest = true → exec (.jtagExtest
    balls cells) s = .next { s with dev :=
    ({ s.dev with jtag.ir := 0x00, jtag.drive := 1, jtag.dbg := false, jtag.cells := cells }.tdo balls) }) ∧
  (∀ (s : State) (balls : List Bool) (cells : List Bool), s.dev.tapOn = true → s.dev.boot.mfgTest = false → exec (.jtagExtest
    balls cells) s = .next { s with dev := ({ s.dev with jtag.ir := 0x00, jtag.drive := 0, jtag.dbg := false }.tdo [false]) }) ∧
  (∀ (s : State), s.dev.tapOn = true → s.dev.boot.mfgTest = true → exec (.jtagClamp) s = .next { s with dev :=
    ({ s.dev with jtag.ir := 0x03, jtag.drive := 2, jtag.dbg := false }.tdo [false]) }) ∧
  (∀ (s : State), s.dev.tapOn = true → s.dev.boot.mfgTest = false → exec (.jtagClamp) s = .next { s with dev :=
    ({ s.dev with jtag.ir := 0x03, jtag.drive := 0, jtag.dbg := false }.tdo [false]) }) ∧
  (∀ (s : State), s.dev.tapOn = true → s.dev.boot.mfgTest = true → exec (.jtagHighz) s = .next { s with dev :=
    ({ s.dev with jtag.ir := 0x04, jtag.drive := 3, jtag.dbg := false }.tdo [false]) }) ∧
  (∀ (s : State), s.dev.tapOn = true → s.dev.boot.mfgTest = false → exec (.jtagHighz) s = .next { s with dev :=
    ({ s.dev with jtag.ir := 0x04, jtag.drive := 0, jtag.dbg := false }.tdo [false]) }) ∧
  (∀ (s : State), s.dev.tapOn = true → exec (.jtagDebug) s = .next { s with dev :=
    ({ s.dev with jtag.ir := 0x20, jtag.drive := 0, jtag.dbg := s.dev.boot.debugOpen }) })

/-- Arming sets ARMED and clears MISSED unless a capture is in progress, when it waits; an enabled source that fires while armed
records its mask and time, clears ARMED and sets CAPTURING; one that fires while not armed only raises MISSED; a source that
is not enabled does nothing; the trigger cycle captures the powered domains; the copy moves the captured words into the image
and clears CAPTURING. -/
def Obligations.SnapshotTriggersAndCopy : Prop :=
  (∀ (s : State), s.dev.is F.SNAP_STATUS_CAPTURING = false → exec (.snapArm) s = .next { s with dev := (({ s.dev with
    obs.snap.armLater := false }.wr F.SNAP_STATUS_ARMED 0 1).wr F.SNAP_STATUS_MISSED 0 0) }) ∧
  (∀ (s : State), s.dev.is F.SNAP_STATUS_CAPTURING = true → exec (.snapArm) s = .next { s with dev := ({ s.dev with
    obs.snap.armLater := true }) }) ∧
  (∀ (s : State), s.dev.rdw (F.SNAP_SRC_EN_SYNC.addr 0) % 32 &&& snapFirmware ≠ 0 → s.dev.is F.SNAP_STATUS_ARMED = false → exec
    (.snapTriggerWrite) s = .next { s with dev := (s.dev.inc F.SNAP_STATUS_MISSED) }) ∧
  (∀ (s : State) (e : Dev), snapFirmware &&& (s.dev.rdw (F.SNAP_SRC_EN_SYNC.addr 0) % 32) ≠ 0 → s.dev.is F.SNAP_STATUS_ARMED =
    true → e = ((((s.dev.wr F.SNAP_CAUSE_SOURCES 0 (snapFirmware &&& (s.dev.rdw (F.SNAP_SRC_EN_SYNC.addr 0) % 32))).wr64
    F.SNAP_TRIG_GTS_LO 0 s.dev.aont).wr F.SNAP_STATUS_ARMED 0 0).wr F.SNAP_STATUS_CAPTURING 0 1).wr F.SNAP_STATUS_SECTION_VALID
    0 0 → exec (.snapTriggerWrite) s = .next { s with dev := ({ e with obs.snap.want := true }) }) ∧
  (∀ (s : State), s.dev.rdw (F.SNAP_SRC_EN_SYNC.addr 0) % 32 &&& snapPin = 0 → exec (.freezePin) s = .next { s with dev :=
    (s.dev) }) ∧
  (∀ (s : State) (e : Dev), snapPin &&& (s.dev.rdw (F.SNAP_SRC_EN_SYNC.addr 0) % 32) ≠ 0 → s.dev.is F.SNAP_STATUS_ARMED = true →
    e = ((((s.dev.wr F.SNAP_CAUSE_SOURCES 0 (snapPin &&& (s.dev.rdw (F.SNAP_SRC_EN_SYNC.addr 0) % 32))).wr64 F.SNAP_TRIG_GTS_LO
    0 s.dev.aont).wr F.SNAP_STATUS_ARMED 0 0).wr F.SNAP_STATUS_CAPTURING 0 1).wr F.SNAP_STATUS_SECTION_VALID 0 0 → exec
    (.freezePin) s = .next { s with dev := ({ e with obs.snap.want := true }) }) ∧
  (∀ (s : State) (sources : BitVec 5), (s.dev.snapFire sources.toNat).obs.snap.want = true → exec (.snapshotTrigger sources) s =
    .next { s with dev := ((s.dev.snapFire sources.toNat).capture) }) ∧
  (∀ (s : State), s.dev.is F.SNAP_STATUS_CAPTURING = true → s.dev.obs.snap.want = false → s.dev.obs.snap.armLater = false → exec
    (.snapshotCopyDone) s = .next { s with dev :=
    (({ s.dev with obs.snap.image := (s.dev.obs.snap.captured.foldl (fun (m : List (Nat × Word)) (p : Nat × Word) => tset (fun _ => 0) m p.1 p.2) s.dev.obs.snap.image), obs.snap.captured := [] }.wr
    F.SNAP_STATUS_SECTION_VALID 0 s.dev.obs.snap.sections).wr F.SNAP_STATUS_CAPTURING 0 0) })

/-- A request that is taken and passes the checks is answered with the status, DETAIL and payload stated and has exactly the
effect stated on the device as the request left it: the constants and registers GET_VERSION to GET_OPCODES return, the lease
of HEARTBEAT and RELEASE_LEASE, telemetry frames, the log's configuration and records, trace enables, ECHO, FREEZE and the
recorder's archive. -/
def Obligations.MailboxGeneralAndObservationOpcodes : Prop :=
  (∀ (s : State) (q : MbxReq) (e : Dev), s.dev.admits opGetVersion q = true → e = s.dev.arrived 0x0000 q → exec (.getVersion q)
    s = .next { s with dev := ((e).answer 0x0000 q (.ok [3, 3, 1, 0])) }) ∧
  (∀ (s : State) (q : MbxReq) (e : Dev) (r : Running), s.dev.admits opGetIdentity q = true → e = s.dev.arrived 0x0001 q →
    e.boot.run = some r → exec (.getIdentity q) s = .next { s with dev := ((e).answer 0x0001 q (.ok (le 2 (e.rd
    F.GLB_ID_DEVICE_ID) ++ le 1 (e.rd F.GLB_ID_STEPPING) ++ le 1 (e.rd F.GLB_ID_TGRADE) ++ le 8 Config.serial.toNat ++ le 2
    Config.vendorId.toNat ++ zeros 2 ++ trayIdBytes ++ (fitBytes 16 (headBuild r.head) ++ le 4 (headVersion r.head))))) }) ∧
  (∀ (s : State) (q : MbxReq) (e : Dev), s.dev.admits opGetIdentity q = true → e = s.dev.arrived 0x0001 q → e.boot.run = none →
    exec (.getIdentity q) s = .next { s with dev := ((e).answer 0x0001 q (.ok (le 2 (e.rd F.GLB_ID_DEVICE_ID) ++ le 1 (e.rd
    F.GLB_ID_STEPPING) ++ le 1 (e.rd F.GLB_ID_TGRADE) ++ le 8 Config.serial.toNat ++ le 2 Config.vendorId.toNat ++ zeros 2 ++
    trayIdBytes ++ zeros 20))) }) ∧
  (∀ (s : State) (q : MbxReq) (e : Dev), s.dev.admits opGetStatus q = true → e = s.dev.arrived 0x0002 q → exec (.getStatus q) s
    = .next { s with dev := ((e).answer 0x0002 q (.ok (le 1 (e.rd F.MBX_STATUS_READY) ++ le 1 (e.rd F.MBX_STATUS_SERVER) ++ le 1
    (e.rd F.MBX_STATUS_LEASE) ++ le 1 (e.rd F.ORO_STATUS_STATE) ++ e.viewBytes (F.BOOT_STATUS_FORCED.addr 0) 1 ++ e.viewBytes
    (F.PWC_EMERG_STATE.addr 0) 1 ++ le 2 e.coresFailed ++ zeros 2))) }) ∧
  -- no lease is held: the caller takes it
  (∀ (s : State) (q : MbxReq) (e : Dev) (f : Dev), s.dev.admits opHeartbeat q = true → e = s.dev.arrived 0x0003 q → e.rd
    F.MBX_STATUS_LEASE ≠ 1 → f =
    { e with mbx.holder := (pf q.pay 0 8), mbx.leaseAt := e.gts, mbx.warned := false, obs.missedFree := 0 }.leaseSet 1
    (transport q.ch) → exec (.heartbeat q) s = .next { s with dev := ((f).answer 0x0003 q (.ok (le 2 (f.view
    (F.MBX_STATUS_LEASE.addr 0 + 4)) ++ le 1 (f.rd F.MBX_STATUS_LEASE) ++ zeros 1 ++ le 4 (min e.obs.missedFree (2 ^ 32 - 1)))))
    }) ∧
  -- its holder renews it
  (∀ (s : State) (q : MbxReq) (e : Dev) (f : Dev), s.dev.admits opHeartbeat q = true → e = s.dev.arrived 0x0003 q → e.rd
    F.MBX_STATUS_LEASE = 1 → e.mbx.holder = pf q.pay 0 8 → e.rd F.MBX_STATUS_LEASE_XPORT = transport q.ch → f =
    { e with mbx.holder := (pf q.pay 0 8), mbx.leaseAt := e.gts, mbx.warned := false }.leaseSet 1 (transport q.ch) → exec
    (.heartbeat q) s = .next { s with dev := ((f).answer 0x0003 q (.ok (le 2 (f.view (F.MBX_STATUS_LEASE.addr 0 + 4)) ++ le 1
    (f.rd F.MBX_STATUS_LEASE) ++ zeros 1 ++ le 4 0))) }) ∧
  -- another holder is refused
  (∀ (s : State) (q : MbxReq) (e : Dev), s.dev.admits opHeartbeat q = true → e = s.dev.arrived 0x0003 q → e.rd
    F.MBX_STATUS_LEASE = 1 → e.mbx.holder ≠ pf q.pay 0 8 ∨ e.rd F.MBX_STATUS_LEASE_XPORT ≠ transport q.ch → exec (.heartbeat q)
    s = .next { s with dev := ((e).answer 0x0003 q (.of msLocked)) }) ∧
  (∀ (s : State) (q : MbxReq) (e : Dev), s.dev.admits opGetResetCause q = true → e = s.dev.arrived 0x0004 q → exec
    (.getResetCause q) s = .next { s with dev := ((e).answer 0x0004 q (.ok (e.viewBytes (F.GLB_RESET_CAUSE_POR.addr 0) 1))) }) ∧
  (∀ (s : State) (q : MbxReq) (e : Dev), s.dev.admits opGetTime q = true → e = s.dev.arrived 0x0005 q → exec (.getTime q) s =
    .next { s with dev := ((e).answer 0x0005 q (.ok (le 8 e.gts))) }) ∧
  (∀ (s : State) (q : MbxReq) (e : Dev), s.dev.admits opGetOpcodes q = true → e = s.dev.arrived 0x0006 q → exec (.getOpcodes q)
    s = .next { s with dev := ((e).answer 0x0006 q (.ok (le 32 (maskOf 256 fun n => (servedIn (pf q.pay 0 1)).contains n)))) }) ∧
  (∀ (s : State) (q : MbxReq) (e : Dev), s.dev.admits opReleaseLease q = true → e = s.dev.arrived 0x0007 q → exec (.releaseLease
    q) s = .next { s with dev := ((e.leaseSet 0 0).answer 0x0007 q (.ok)) }) ∧
  (∀ (s : State) (q : MbxReq) (e : Dev), s.dev.admits opTlmFrames q = true → e = s.dev.arrived 0x0600 q → exec (.tlmFrames q) s
    = .next { s with dev := ((e).answer 0x0600 q (.ok ((e.framesKept.take (pf q.pay 0 1)).reverse.flatMap fun k => e.ldn
    .commons (0x80000 + 288 * (k % 128)) 288))) }) ∧
  (∀ (s : State) (q : MbxReq) (e : Dev), s.dev.admits opLogConfig q = true → e = s.dev.arrived 0x0601 q → exec (.logConfig q) s
    = .next { s with dev :=
    (({ e with obs.logLevel := (pf q.pay 0 1), obs.logCopy := (pf q.pay 1 1 = 1), obs.logMask := (pf q.pay 2 2) }).answer 0x0601
    q (.ok)) }) ∧
  (∀ (s : State) (q : MbxReq) (e : Dev) (r0 : Nat × Nat × Nat) (l : List (Nat × Nat × Nat)) (o n : Nat) (rs : List (Nat × Nat ×
    Nat)), s.dev.admits opLogRead q = true → e = s.dev.arrived 0x0602 q → e.obs.logRecs = r0 :: l → o = r0.1 → rs = (logTake (pf
    q.pay 8 2) (e.obs.logRecs.filter fun r => max (pf q.pay 0 8) o ≤ r.1)) → n =
    (match rs.getLast? with | some r => r.1 + 1 | none => max (pf q.pay 0 8) o) → exec (.logRead q) s = .next { s with dev :=
    ((e).answer 0x0602 q (.ok (le 8 n ++ le 4 (min (o - pf q.pay 0 8) (2 ^ 32 - 1)) ++ zeros 4 ++ rs.flatMap fun r => e.logLd
    r.2.1 r.2.2))) }) ∧
  (∀ (s : State) (q : MbxReq) (e : Dev), s.dev.admits opLogRead q = true → e = s.dev.arrived 0x0602 q → e.obs.logRecs = [] →
    exec (.logRead q) s = .next { s with dev := ((e).answer 0x0602 q (.ok (le 8 (max (pf q.pay 0 8) e.obs.logSeq) ++ le 4 (min
    (e.obs.logSeq - pf q.pay 0 8) (2 ^ 32 - 1)) ++ zeros 4))) }) ∧
  (∀ (s : State) (q : MbxReq) (e : Dev), s.dev.admits opTraceSet q = true → e = s.dev.arrived 0x0603 q → exec (.traceSet q) s =
    .next { s with dev := (({ e with obs.traceEn := ((((List.range 256).filter (bitOf (pf q.pay 0 32))).map fun n => (n, true)))
    }).answer 0x0603 q (.ok)) }) ∧
  (∀ (s : State) (q : MbxReq) (e : Dev), s.dev.admits opEcho q = true → e = s.dev.arrived 0x0F00 q → exec (.echo q) s = .next {
    s with dev := ((e).answer 0x0F00 q (.ok q.pay)) }) ∧
  (∀ (s : State) (q : MbxReq) (e : Dev), s.dev.admits opFreeze q = true → e = s.dev.arrived 0x0F01 q → exec (.freeze q) s =
    .next { s with dev := ((e.snapFire snapFirmware).answer 0x0F01 q (.ok (le 8 e.aont))) }) ∧
  (∀ (s : State) (q : MbxReq) (e : Dev), s.dev.admits opFfrArchive q = true → e = s.dev.arrived 0x0F02 q → e.canAccept q = true
    → exec (.ffrArchive q) s = .next { s with dev := (({ (e.accept q 0x0F02).2 with obs.archIds := ((e.accept q
    0x0F02).2.obs.archIds ++ [(e.accept q 0x0F02).1]) }).answer 0x0F02 q (.of msAccepted)) }) ∧
  (∀ (s : State) (q : MbxReq) (e : Dev), s.dev.admits opFfrArchive q = true → e = s.dev.arrived 0x0F02 q → e.canAccept q = false
    → exec (.ffrArchive q) s = .next { s with dev := ((e).answer 0x0F02 q (.of msBusy)) })

/-- A request of group 0x01 that is taken and passes the checks is answered as stated and has the stated effect: the tray cap, the
power readings, static budgets and ceilings, forced CHECK, latches, MATE, shaping, and the energy clocks, whose operations are
held for PMC and answered later. -/
def Obligations.MailboxPowerAndClockOpcodes : Prop :=
  (∀ (s : State) (q : MbxReq) (e : Dev) (f : Dev) (b : Bool), s.dev.admits opSetTrayCap q = true → e = s.dev.arrived 0x0100 q →
    e.coreUp corePmc = true → f = (e.setCap (pf q.pay 0 2) (pf q.pay 2 1 = 1)).2 → b = (e.setCap (pf q.pay 0 2) (pf q.pay 2 1 =
    1)).1 → exec (.setTrayCap q) s = .next { s with dev := ((f).answer 0x0100 q (.ok (le 2 (f.rd F.PWC_TRAY_CAP_CAP_W) ++ le 2
    (f.rd F.PWC_TRAY_CAP_AVAILABLE_W) ++ le 1 b.toNat ++ le 1 (f.rd F.PWC_STATUS_INFEASIBLE) ++ zeros 2))) }) ∧
  -- PMC is down: only a lowering EMERGENCY cap is taken
  (∀ (s : State) (q : MbxReq) (e : Dev), s.dev.admits opSetTrayCap q = true → e = s.dev.arrived 0x0100 q → e.coreUp corePmc =
    false → ¬ (pf q.pay 2 1 = 1 ∧ pf q.pay 0 2 < e.rd F.PWC_TRAY_CAP_CAP_W) → exec (.setTrayCap q) s = .next { s with dev :=
    ((e).answer 0x0100 q (.of msNotReady)) }) ∧
  (∀ (s : State) (q : MbxReq) (e : Dev), s.dev.admits opGetPower q = true → e = s.dev.arrived 0x0101 q → exec (.getPower q) s =
    .next { s with dev := ((e).answer 0x0101 q (.ok (le 2 (e.rd F.PWC_TRAY_CAP_CAP_W) ++ le 2 (e.rd F.PWC_TRAY_CAP_AVAILABLE_W)
    ++ e.viewBytes (F.PWC_EMERG_STATE.addr 0) 1 ++ accs8.flatMap e.powerOf))) }) ∧
  (∀ (s : State) (q : MbxReq) (e : Dev) (f : Dev), s.dev.admits opSetStaticBudgets q = true → e = s.dev.arrived 0x0102 q →
    e.coreUp corePmc = true → f = (e.forAcc fun g a => g.pwPut a { g.pw a with static := (some (budgetOf q.pay a)) }) → f.is
    F.PWC_CTRL_ORO_EN = true → exec (.setStaticBudgets q) s = .next { s with dev := ((f).answer 0x0102 q (.ok)) }) ∧
  (∀ (s : State) (q : MbxReq) (e : Dev) (f : Dev), s.dev.admits opSetStaticBudgets q = true → e = s.dev.arrived 0x0102 q →
    e.coreUp corePmc = true → f = (e.forAcc fun g a => g.pwPut a { g.pw a with static := (some (budgetOf q.pay a)) }) → f.is
    F.PWC_CTRL_ORO_EN = false → exec (.setStaticBudgets q) s = .next { s with dev := ((f.propose f.ownProposal).answer 0x0102 q
    (.ok)) }) ∧
  (∀ (s : State) (q : MbxReq) (e : Dev), s.dev.admits opSetAccMax q = true → e = s.dev.arrived 0x0103 q → e.coreUp corePmc =
    true → exec (.setAccMax q) s = .next { s with dev := ((e.forAcc fun g a => g.pwPut a { g.pw a with maxW := ((if pf q.pay (2
    * a) 2 = 0 then none else some (pf q.pay (2 * a) 2))) }).answer 0x0103 q (.ok)) }) ∧
  (∀ (s : State) (q : MbxReq) (e : Dev) (f : Dev), s.dev.admits opSetCheckForce q = true → e = s.dev.arrived 0x0104 q → f =
    (e.wr F.PWC_CHECK_FORCE_FORCE 0 (pf q.pay 0 1)).checkSettle → exec (.setCheckForce q) s = .next { s with dev := ((f).answer
    0x0104 q (.ok (f.viewBytes (F.PWC_STATUS_CHECK_ACC.addr 0) 1))) }) ∧
  (∀ (s : State) (q : MbxReq) (e : Dev) (f : Dev), s.dev.admits opClearCheckLatch q = true → e = s.dev.arrived 0x0105 q → f =
    e.latchClear (pf q.pay 0 4) → exec (.clearCheckLatch q) s = .next { s with dev := ((f).answer 0x0105 q (.ok (f.viewBytes
    0x200068 1))) }) ∧
  (∀ (s : State) (q : MbxReq) (e : Dev) (f : Dev), s.dev.admits opClearMate q = true → e = s.dev.arrived 0x0106 q →
    e.mateClear.1 = true → f = e.mateClear.2.seqEnd → exec (.clearMate q) s = .next { s with dev := ((f).answer 0x0106 q (.ok
    (f.viewBytes (F.PWC_MATE_STATUS_ACTIVE.addr 0) 1))) }) ∧
  (∀ (s : State) (q : MbxReq) (e : Dev), s.dev.admits opClearMate q = true → e = s.dev.arrived 0x0106 q → e.mateClear.1 = false
    → exec (.clearMate q) s = .next { s with dev := ((e.mateClear.2).answer 0x0106 q (.of msBusy)) }) ∧
  (∀ (s : State) (q : MbxReq) (e : Dev), s.dev.admits opSetShaping q = true → e = s.dev.arrived 0x0107 q → exec (.setShaping q)
    s = .next { s with dev := ((((e.wr F.PWC_CTRL_SHAPE_EN 0 (pf q.pay 0 1)).wr F.PWC_CTRL_ARB_EN 0 (pf q.pay 1 1)).wr
    F.PWC_SLEW_CFG_SLEW 0 (pf q.pay 2 1)).answer 0x0107 q (.ok)) }) ∧
  (∀ (s : State) (q : MbxReq) (e : Dev), s.dev.admits opClockOpen q = true → e = s.dev.arrived 0x0110 q → exec (.clockOpen q) s
    = .next { s with dev := ({ (e.hold q 0x0110).2 with pwr.clkOps := (((e.hold q 0x0110).2.pwr.clkOps ++ [((e.hold q 0x0110).1,
    .open (pb q.pay 0 16))])) }) }) ∧
  (∀ (s : State) (q : MbxReq) (e : Dev), s.dev.admits opClockBind q = true → e = s.dev.arrived 0x0111 q → exec (.clockBind q) s
    = .next { s with dev := ({ (e.hold q 0x0111).2 with pwr.clkOps := (((e.hold q 0x0111).2.pwr.clkOps ++ [((e.hold q 0x0111).1,
    .bind (pf q.pay 0 2) (pf q.pay 4 8))])) }) }) ∧
  (∀ (s : State) (q : MbxReq) (e : Dev), s.dev.admits opClockUnbind q = true → e = s.dev.arrived 0x0112 q → exec (.clockUnbind
    q) s = .next { s with dev := ({ (e.hold q 0x0112).2 with pwr.clkOps := (((e.hold q 0x0112).2.pwr.clkOps ++ [((e.hold q
    0x0112).1, .unbind (pf q.pay 0 2) (pf q.pay 4 8))])) }) }) ∧
  (∀ (s : State) (q : MbxReq) (e : Dev), s.dev.admits opClockClose q = true → e = s.dev.arrived 0x0113 q → exec (.clockClose q)
    s = .next { s with dev := ({ (e.hold q 0x0113).2 with pwr.clkOps := (((e.hold q 0x0113).2.pwr.clkOps ++ [((e.hold q
    0x0113).1, .close (pf q.pay 0 2))])) }) }) ∧
  (∀ (s : State) (q : MbxReq) (e : Dev), s.dev.admits opClockFree q = true → e = s.dev.arrived 0x0114 q → exec (.clockFree q) s
    = .next { s with dev := ({ (e.hold q 0x0114).2 with pwr.clkOps := (((e.hold q 0x0114).2.pwr.clkOps ++ [((e.hold q 0x0114).1,
    .free (pf q.pay 0 2))])) }) }) ∧
  (∀ (s : State) (q : MbxReq) (e : Dev) (x : Clock), s.dev.admits opClockRead q = true → e = s.dev.arrived 0x0115 q → x =
    e.clock (pf q.pay 0 2) → exec (.clockRead q) s = .next { s with dev := ((e).answer 0x0115 q (.ok (le 1 x.st ++ le 1
    x.accMask ++ zeros 6 ++ le 8 x.startGts ++ le 8 x.workMj ++ le 8 x.fillMj ++ le 8 x.overMj ++ le 8 x.tokens ++ le 8
    x.tokensPerMwh))) }) ∧
  (∀ (s : State) (q : MbxReq) (e : Dev) (n : Nat), s.dev.admits opAddTokens q = true → e = s.dev.arrived 0x0116 q → n =
    ((e.clock (pf q.pay 0 2)).tokens + pf q.pay 8 8) % 2 ^ 64 → exec (.addTokens q) s = .next { s with dev := ((e.clockPut (pf
    q.pay 0 2) { e.clock (pf q.pay 0 2) with tokens := n }).answer 0x0116 q (.ok (le 8 n))) }) ∧
  (∀ (s : State) (q : MbxReq) (e : Dev) (f : Dev), s.dev.admits opSignStatement q = true → e = s.dev.arrived 0x0117 q → f = { e
    with boot.stmtCount := (e.boot.stmtCount + 1) } → exec (.signStatement q) s = .next { s with dev := ((f).answer 0x0117 q
    (.ok (signed384 (f.derivedKey keyEnergy) (f.statement (pf q.pay 0 2) (pb q.pay 8 32))))) })

/-- A request of group 0x02 or 0x03 that is taken and passes the checks is answered as stated and has the stated effect: domains
requested off then on, the sequencer's and the cooling block's registers returned, a failed rail cleared, reset outputs held,
deep sleep prepared, zone floors, the cooling mode, fan commissioning accepted and a cooling fault cleared. -/
def Obligations.MailboxTrayOpcodes : Prop :=
  -- domain 1 cannot go while others are wanted
  (∀ (s : State) (q : MbxReq) (e : Dev), s.dev.admits ((opDomainSet (pf q.pay 0 2))) q = true → e = s.dev.arrived 0x0200 q →
    bitOf (pf q.pay 2 2) 1 = true → (4 ≤ maskOf 16 fun k => bitOf (pf q.pay 0 2) k || (e.domReq k && !bitOf (pf q.pay 2 2) k)) →
    exec (.domainSet q) s = .next { s with dev := ((e).answer 0x0200 q (.of msBusy)) }) ∧
  (∀ (s : State) (q : MbxReq) (e : Dev) (g : Dev), s.dev.admits ((opDomainSet (pf q.pay 0 2))) q = true → e = s.dev.arrived
    0x0200 q → bitOf (pf q.pay 2 2) 1 = false → g = (((List.range 16).filter (bitOf (pf q.pay 0 2))).foldl (fun x k =>
    x.domRequest k true) (((List.range 16).filter fun k => 2 ≤ k && bitOf (pf q.pay 2 2) k).foldl (fun x k => x.domRequest k
    false) e)) → exec (.domainSet q) s = .next { s with dev := ((g).answer 0x0200 q (.ok (le 2 (g.rd F.SEQ_DOM_REQ_REQ) ++ zeros
    2))) }) ∧
  (∀ (s : State) (q : MbxReq) (e : Dev), s.dev.admits opGetSeq q = true → e = s.dev.arrived 0x0201 q → exec (.getSeq q) s =
    .next { s with dev := ((e).answer 0x0201 q (.ok (e.viewBytes (F.SEQ_STATUS_PHASE.addr 0) 1 ++ e.viewBytes
    (F.SEQ_DOM_REQ_REQ.addr 0) 1 ++ e.viewBytes (F.SEQ_DOM_STATE_STATE.addr 0) 1 ++ e.viewBytes (F.SEQ_DOM_FLAGS_HELD.addr 0) 1
    ++ e.viewBytes (F.SEQ_ON_RAILS.addr 0) 3 ++ e.viewBytes (F.SEQ_FAILED_RAILS.addr 0) 3 ++ e.viewBytes
    (F.SEQ_HSW_STATUS_STATE.addr 0) 1 ++ e.viewBytes (F.SEQ_BUS_STATUS_VBUS.addr 0) 1 ++ e.viewBytes (F.SEQ_LAST_FAIL_CAUSE.addr
    0) 1))) }) ∧
  (∀ (s : State) (q : MbxReq) (e : Dev) (f : Dev), s.dev.admits opRailClear q = true → e = s.dev.arrived 0x0202 q → f =
    (e.railClear (pf q.pay 0 1)).seqEnd → exec (.railClear q) s = .next { s with dev := ((f).answer 0x0202 q (.ok (f.viewBytes
    (F.SEQ_RAIL_STATUS_STATE.addr (pf q.pay 0 1)) 1))) }) ∧
  (∀ (s : State) (q : MbxReq) (e : Dev) (f : Dev), s.dev.admits opResetHold q = true → e = s.dev.arrived 0x0203 q → f =
    e.rstHold ((e.rd F.SEQ_RST_HOLD_HOLD ||| pf q.pay 0 2) &&& (0xFFFF - pf q.pay 2 2)) → exec (.resetHold q) s = .next { s with
    dev := ((f).answer 0x0203 q (.ok (le 2 (f.rd F.SEQ_RST_HOLD_HOLD) ++ zeros 2))) }) ∧
  (∀ (s : State) (q : MbxReq) (e : Dev), s.dev.admits opGetCooling q = true → e = s.dev.arrived 0x0300 q → exec (.getCooling q)
    s = .next { s with dev := ((e).answer 0x0300 q (.ok (e.viewBytes (F.COOL_STATUS_TABLE_VALID.addr 0) 1 ++ e.viewBytes
    (F.COOL_ERR_TD_FAULT.addr 0) 1 ++ (fans18.flatMap fun n => le 2 (e.rd F.FAN_SPEED_RPM n) ++ le 2 (e.rd
    F.FAN_TARGET_TARGET_RPM n) ++ le 2 (e.rd F.FAN_SPEED_AGE n) ++ le 1 (e.fst n) ++ le 1 (e.rd F.FAN_STATUS_CAUSE n)) ++
    (pumps4.flatMap fun p => le 2 (e.rd F.PUMP_STATUS_RPM p) ++ le 1 (e.rd F.PUMP_STATUS_STATE p) ++ zeros 1) ++ ((List.range
    4).flatMap fun l => le 2 (e.rd F.LOOP_STATUS_FLOW l) ++ le 2 (e.rd F.LOOP_STATUS_PRESS_MV l)) ++ ((List.range 16).flatMap
    fun z => le 1 (e.rd F.LEAK_STATUS_STATE z))))) }) ∧
  (∀ (s : State) (q : MbxReq) (e : Dev), s.dev.admits opSetZoneFloor q = true → e = s.dev.arrived 0x0301 q → exec (.setZoneFloor
    q) s = .next { s with dev := (({ e with mbx.zoneFloor := (((List.range 8).foldl (fun l z => tset (fun _ => 0) l z (pf q.pay
    z 1)) e.mbx.zoneFloor)) }).answer 0x0301 q (.ok)) }) ∧
  (∀ (s : State) (q : MbxReq) (e : Dev), s.dev.admits opSetCoolMode q = true → e = s.dev.arrived 0x0302 q → exec (.setCoolMode
    q) s = .next { s with dev := ((e.modeWrite (pf q.pay 0 1)).answer 0x0302 q (.ok)) }) ∧
  (∀ (s : State) (q : MbxReq) (e : Dev), s.dev.admits opCommissionFan q = true → e = s.dev.arrived 0x0303 q → e.canAccept q =
    true → exec (.commissionFan q) s = .next { s with dev := ((((e.accept q 0x0303).2.wr F.FAN_REF_REF_RPM (pf q.pay 0 1) (pf
    q.pay 2 2)).commStart (pf q.pay 0 1) (some (e.accept q 0x0303).1)).answer 0x0303 q (.of msAccepted)) }) ∧
  (∀ (s : State) (q : MbxReq) (e : Dev), s.dev.admits opClearCoolFault q = true → e = s.dev.arrived 0x0304 q → exec
    (.clearCoolFault q) s = .next { s with dev := (((e.coolClear (pf q.pay 0 1) (pf q.pay 1 1)).2).answer 0x0304 q (.ok (le 1
    (e.coolClear (pf q.pay 0 1) (pf q.pay 1 1)).1.toNat ++ zeros 3))) }) ∧
  -- the reply leaves, then deep sleep is entered
  (∀ (s : State) (q : MbxReq) (e : Dev), s.dev.admits opDeepSleep q = true → e = s.dev.arrived 0x0204 q → ((domains16.all fun k
    => k < 2 || e.dom k = dmOff) = true) → e.boot.sess = none → e.boot.heldAct = none → e.onTrial = false → e.rd
    F.PWC_EMERG_STATE = 0 → exec (.deepSleep q) s = .next { s with dev := ((e.answer 0x0204 q .ok).sleepEnter) })

/-- A request of group 0x07 that is taken and passes the checks is answered as stated, with UPD_STATUS recording the status where
a rule says so: a session is begun (its slot erased, its request accepted), fed, committed or cancelled; an activation is
made, held or deferred; a trial is confirmed or rejected; the status registers are returned. A request out of order is
answered BUSY or BAD_PARAM. -/
def Obligations.MailboxUpdateOpcodes : Prop :=
  (∀ (s : State) (q : MbxReq) (e : Dev), s.dev.admits opUpdateBegin q = true → e = s.dev.arrived 0x0700 q → e.boot.sess.isSome =
    true → exec (.updateBegin q) s = .next { s with dev := ((e.updLast msBusy).answer 0x0700 q (.of msBusy)) }) ∧
  (∀ (s : State) (q : MbxReq) (e : Dev) (x : Dev), s.dev.admits opUpdateBegin q = true → e = s.dev.arrived 0x0700 q → pf q.pay 0
    1 = 0 → e.boot.sess = none → e.onTrial = false → e.canAccept q = true → x = (e.accept q 0x0700).2.jState e.updTarget
    JRec.erasing → exec (.updateBegin q) s = .next { s with dev :=
    (({ x with boot.heldAct := none, boot.sess := ((some { target := e.updTarget, id := (some (e.accept q 0x0700).1), at' := x.gts })) }.updLast
    msAccepted).answer 0x0700 q (.of msAccepted)) }) ∧
  (∀ (s : State) (q : MbxReq) (e : Dev), s.dev.admits opUpdateData q = true → e = s.dev.arrived 0x0701 q → e.boot.sess = none →
    exec (.updateData q) s = .next { s with dev := ((e.updLast msBadParam).answer 0x0701 q (.bad 0)) }) ∧
  (∀ (s : State) (q : MbxReq) (e : Dev) (x : Session), s.dev.admits opUpdateData q = true → e = s.dev.arrived 0x0701 q →
    e.boot.sess = some x → x.id.isSome = true → exec (.updateData q) s = .next { s with dev := ((e.updLast msBusy).answer 0x0701
    q (.of msBusy)) }) ∧
  -- the bytes are programmed and read back
  (∀ (s : State) (q : MbxReq) (e : Dev) (x : Session), s.dev.admits opUpdateData q = true → e = s.dev.arrived 0x0701 q →
    e.boot.sess = some x → x.id = none → (e.updData x (pf q.pay 0 4) (q.pay.drop 8)).1.held = false → exec (.updateData q) s =
    .next { s with dev := (((e.updData x (pf q.pay 0 4) (q.pay.drop 8)).2).answer 0x0701 q ((e.updData x (pf q.pay 0 4)
    (q.pay.drop 8)).1)) }) ∧
  (∀ (s : State) (q : MbxReq) (e : Dev), s.dev.admits opUpdateCommit q = true → e = s.dev.arrived 0x0702 q → e.boot.sess = none
    → exec (.updateCommit q) s = .next { s with dev := ((e.updLast msBadParam).answer 0x0702 q (.bad 0)) }) ∧
  (∀ (s : State) (q : MbxReq) (e : Dev) (t : Session) (x : Dev), s.dev.admits opUpdateCommit q = true → e = s.dev.arrived 0x0702
    q → e.boot.sess = some t → t.id = none → t.target ≠ slG → e.canAccept q = true → x = (e.accept q 0x0702).2 → exec
    (.updateCommit q) s = .next { s with dev := ((({ (x.install t.target).2 with boot.sess := (if (x.install t.target).1 = msOk
    then none else some { t with at' := x.gts }) }.wpSet false).complete (e.accept q 0x0702).1 (x.install t.target).1 |>.updLast
    (x.install t.target).1).answer 0x0702 q (.of msAccepted)) }) ∧
  (∀ (s : State) (q : MbxReq) (e : Dev) (x : Session), s.dev.admits opUpdateCancel q = true → e = s.dev.arrived 0x0703 q →
    e.boot.sess = some x → x.id = none → exec (.updateCancel q) s = .next { s with dev := ((e.sessEnd.updLast msOk).answer
    0x0703 q (.ok)) }) ∧
  (∀ (s : State) (q : MbxReq) (e : Dev), s.dev.admits opUpdateCancel q = true → e = s.dev.arrived 0x0703 q → e.boot.sess = none
    → e.boot.heldAct.isSome = true → exec (.updateCancel q) s = .next { s with dev := ((e.actDrop.updShow).answer 0x0703 q
    (.ok)) }) ∧
  (∀ (s : State) (q : MbxReq) (e : Dev), s.dev.admits opUpdateActivate q = true → e = s.dev.arrived 0x0704 q → (pf q.pay 1 1 = 0
    → e.groupsBusy = false) → e.emergClear = true → exec (.updateActivate q) s = .next { s with dev := (((e.activate (pf q.pay 0
    1)).wr F.UPD_STATUS_LAST_STATUS 0 msAccepted).answer 0x0704 q (.of msAccepted)) }) ∧
  (∀ (s : State) (q : MbxReq) (e : Dev), s.dev.admits opUpdateActivate q = true → e = s.dev.arrived 0x0704 q → (pf q.pay 1 1 = 0
    → e.groupsBusy = false) → e.emergClear = false → exec (.updateActivate q) s = .next { s with dev := (({ e with boot.heldAct
    := (some (pf q.pay 0 1)) }.updLast msDeferred).answer 0x0704 q (.of msDeferred)) }) ∧
  (∀ (s : State) (q : MbxReq) (e : Dev), s.dev.admits opUpdateConfirm q = true → e = s.dev.arrived 0x0705 q → e.onTrial = true →
    exec (.updateConfirm q) s = .next { s with dev := ((e.confirm.updLast msOk).answer 0x0705 q (.ok)) }) ∧
  (∀ (s : State) (q : MbxReq) (e : Dev), s.dev.admits opUpdateConfirm q = true → e = s.dev.arrived 0x0705 q → e.onTrial = false
    → exec (.updateConfirm q) s = .next { s with dev := ((e.updLast msBadParam).answer 0x0705 q (.bad 0)) }) ∧
  (∀ (s : State) (q : MbxReq) (e : Dev), s.dev.admits opUpdateReject q = true → e = s.dev.arrived 0x0706 q → e.onTrial = true →
    exec (.updateReject q) s = .next { s with dev := (((e.fallback rsHostReject).updLast msOk).answer 0x0706 q (.ok)) }) ∧
  (∀ (s : State) (q : MbxReq) (e : Dev), s.dev.admits opUpdateReject q = true → e = s.dev.arrived 0x0706 q → e.onTrial = false →
    exec (.updateReject q) s = .next { s with dev := ((e.updLast msBadParam).answer 0x0706 q (.bad 0)) }) ∧
  (∀ (s : State) (q : MbxReq) (e : Dev), s.dev.admits opUpdateStatus q = true → e = s.dev.arrived 0x0707 q → exec (.updateStatus
    q) s = .next { s with dev := ((e).answer 0x0707 q (.ok (e.viewBytes (F.UPD_STATUS_STATE.addr 0) 1 ++ e.viewBytes
    (F.BOOT_STATUS_PATH.addr 0) 1 ++ e.viewBytes (F.BOOT_SLOT_STATE_STATE.addr 0) 6))) })

/-- A request of group 0x08 that is taken and passes the checks: GET_NONCE answers a fresh nonce and remembers it for the caller's
transport; with an unused nonce and a valid owner signature a key hash is added, a key revoked (never the one that pins the
running bundle), a model key enrolled; a debug token opens the token only for this device, this boot count and a valid
signature; otherwise the answer is DENIED and only the nonce is used up. -/
def Obligations.MailboxTrustOpcodes : Prop :=
  (∀ (s : State) (q : MbxReq) (e : Dev), s.dev.admits opGetNonce q = true → e = s.dev.arrived 0x0800 q → exec (.getNonce q) s =
    .next { s with dev := (({ e.fresh32.2 with mbx.nonces := ((tset (fun _ => none) e.fresh32.2.mbx.nonces (transport q.ch)
    (some (e.gts, e.fresh32.1)))) }).answer 0x0800 q (.ok e.fresh32.1)) }) ∧
  -- a nonce that is not the one issued
  (∀ (s : State) (q : MbxReq) (e : Dev) (x : Bool × Dev), s.dev.admits opOwnerKeyAdd q = true → e = s.dev.arrived 0x0801 q → x =
    e.nonceUse q (pb q.pay 4 32) → x.1 = false → exec (.ownerKeyAdd q) s = .next { s with dev := ((x.2).answer 0x0801 q (.of
    msDenied)) }) ∧
  -- the nonce issued: the hash is added exactly where the signature holds
  (∀ (s : State) (q : MbxReq) (e : Dev) (x : Bool × Dev) (g : Bool) (y : Dev), s.dev.admits opOwnerKeyAdd q = true → e =
    s.dev.arrived 0x0801 q → x = e.nonceUse q (pb q.pay 4 32) → x.1 = true → g = x.2.ownerSigned (pf q.pay 1 1) (trayIdBytes ++
    [0x41, 0x44, 0x44] ++ le 1 (pf q.pay 0 1) ++ pb q.pay 36 97 ++ pb q.pay 4 32) (pb q.pay 136 96) → y = { x.2 with
    boot.ownerHash := ((tset (fun _ => none) x.2.boot.ownerHash (pf q.pay 0 1) (some (Config.sha384 (pb q.pay 36 97)))))
    }.trustShow → exec (.ownerKeyAdd q) s = .next { s with dev := ((if g then y else x.2).answer 0x0801 q (if g then .ok
    (y.viewBytes (F.TRUST_STATUS_MODEL_KEYS.addr 0) 1) else .of msDenied)) }) ∧
  (∀ (s : State) (q : MbxReq) (e : Dev) (x : Bool × Dev), s.dev.admits opOwnerKeyRevoke q = true → e = s.dev.arrived 0x0802 q →
    x = e.nonceUse q (pb q.pay 4 32) → x.1 = false → exec (.ownerKeyRevoke q) s = .next { s with dev := ((x.2).answer 0x0802 q
    (.of msDenied)) }) ∧
  (∀ (s : State) (q : MbxReq) (e : Dev) (x : Bool × Dev) (g : Bool) (y : Dev), s.dev.admits opOwnerKeyRevoke q = true → e =
    s.dev.arrived 0x0802 q → x = e.nonceUse q (pb q.pay 4 32) → x.1 = true → pf q.pay 1 1 ≠ pf q.pay 0 1 → g = x.2.ownerSigned
    (pf q.pay 1 1) (trayIdBytes ++ [0x52, 0x45, 0x56, 0x4F, 0x4B, 0x45] ++ le 1 (pf q.pay 0 1) ++ pb q.pay 4 32) (pb q.pay 36
    96) → y = { x.2 with boot.revoke := (putBit x.2.boot.revoke (pf q.pay 0 1) true) }.trustShow → exec (.ownerKeyRevoke q) s =
    .next { s with dev := ((if g ∧ x.2.keyPinned (pf q.pay 0 1) = false then y else x.2).answer 0x0802 q (if g then (if
    x.2.keyPinned (pf q.pay 0 1) then .of msLocked else .ok (y.viewBytes (F.TRUST_STATUS_MODEL_KEYS.addr 0) 1)) else .of
    msDenied)) }) ∧
  (∀ (s : State) (q : MbxReq) (e : Dev) (g : Bool) (y : Dev), s.dev.admits opModelKeyEnrol q = true → e = s.dev.arrived 0x0803 q
    → g = e.ownerSigned (pf q.pay 2 1) (q.pay.take 156) (pb q.pay 156 96) → y =
    { e with boot.modelKeys := ((tset (fun _ => none) e.boot.modelKeys (pf q.pay 0 1) (some { seq := (pf q.pay 4 4), signer := (pf q.pay 2 1), anyDevice := (pf q.pay 8 48 = 0), key := (pb q.pay 56 97), revoked := (pf q.pay 1 1 = 1) }))), boot.modelOk := (putBit e.boot.modelOk (pf q.pay 0 1) !(pf q.pay 1 1 = 1)) }.trustShow
    → exec (.modelKeyEnrol q) s = .next { s with dev := ((if g then y else e).answer 0x0803 q (if g then .ok (y.viewBytes
    (F.TRUST_STATUS_MODEL_KEYS.addr 0) 1) else .of msDenied)) }) ∧
  (∀ (s : State) (q : MbxReq) (e : Dev), s.dev.admits opDebugToken q = true → e = s.dev.arrived 0x0804 q → exec (.debugToken q)
    s = .next { s with dev := ((if (decide (pb q.pay 4 48 = trayIdBytes) && decide (e.bootCount ≤ pf q.pay 52 8) &&
    e.ownerSigned (pf q.pay 0 1) (q.pay.take 60) (pb q.pay 60 96)) = true then { e with boot.dbgTok := true } else e).answer
    0x0804 q (if (decide (pb q.pay 4 48 = trayIdBytes) && decide (e.bootCount ≤ pf q.pay 52 8) && e.ownerSigned (pf q.pay 0 1)
    (q.pay.take 60) (pb q.pay 60 96)) = true then .ok else .of msDenied)) })

/-- A request of group 0x04 that is taken and passes the checks: a staging entry is opened, filled and loaded; a host slot
retired, a slot queried; Orotha's enables and replay buffer set, its policy rolled back, its registers returned. What cannot
be done is answered BUSY, BAD_PARAM, NOT_READY, DENIED or RESOURCE and leaves the device as it was. -/
def Obligations.MailboxModelOpcodes : Prop :=
  (∀ (s : State) (q : MbxReq) (e : Dev) (k : Nat), s.dev.admits opPkgBegin q = true → e = s.dev.arrived 0x0400 q → (List.range
    4).find? (fun i => (e.staged i).isNone) = some k → exec (.pkgBegin q) s = .next { s with dev := ((e.stagedPut k (some
    { total := (pf q.pay 0 8), loading := false })).answer 0x0400 q (.ok (le 1 k ++ zeros 3))) }) ∧
  (∀ (s : State) (q : MbxReq) (e : Dev), s.dev.admits opPkgBegin q = true → e = s.dev.arrived 0x0400 q → (List.range 4).find?
    (fun k => (e.staged k).isNone) = none → exec (.pkgBegin q) s = .next { s with dev := ((e).answer 0x0400 q (.of msBusy)) }) ∧
  (∀ (s : State) (q : MbxReq) (e : Dev) (x : Staging), s.dev.admits opPkgData q = true → e = s.dev.arrived 0x0401 q → e.staged
    (pf q.pay 0 1) = some x → x.loading = false → pf q.pay 4 4 + (q.pay.drop 8).length ≤ x.total → exec (.pkgData q) s = .next {
    s with dev := ((e.stn .hbm (stageBase (pf q.pay 0 1) + pf q.pay 4 4) (q.pay.drop 8)).answer 0x0401 q (.ok)) }) ∧
  -- bytes past the announced size
  (∀ (s : State) (q : MbxReq) (e : Dev) (x : Staging), s.dev.admits opPkgData q = true → e = s.dev.arrived 0x0401 q → e.staged
    (pf q.pay 0 1) = some x → x.loading = false → x.total < pf q.pay 4 4 + (q.pay.drop 8).length → exec (.pkgData q) s = .next {
    s with dev := ((e).answer 0x0401 q (.bad 4)) }) ∧
  (∀ (s : State) (q : MbxReq) (e : Dev) (x : Staging) (y : Nat × Dev), s.dev.admits opPkgLoad q = true → e = s.dev.arrived
    0x0402 q → e.staged (pf q.pay 0 1) = some x → x.loading = false → pf q.pay 1 1 = 0 → e.canAccept q = true → y = e.accept q
    0x0402 → exec (.pkgLoad q) s = .next { s with dev := ((({ y.2 with arr.loads := (y.2.arr.loads ++ [y.2.pkgLoadReq q.pay
    x.total y.1]) }.stagedPut (pf q.pay 0 1) (some { x with loading := true })).loadsShow).answer 0x0402 q (.of msAccepted)) }) ∧
  (∀ (s : State) (q : MbxReq) (e : Dev), s.dev.admits opSlotRetire q = true → e = s.dev.arrived 0x0403 q → (e.sl (pf q.pay 0
    1)).owner = 1 → exec (.slotRetire q) s = .next { s with dev := ((e.slotRetire (pf q.pay 0 1)).answer 0x0403 q (.ok)) }) ∧
  (∀ (s : State) (q : MbxReq) (e : Dev), s.dev.admits opSlotRetire q = true → e = s.dev.arrived 0x0403 q → (e.sl (pf q.pay 0
    1)).owner ≠ 1 → exec (.slotRetire q) s = .next { s with dev := ((e).answer 0x0403 q (.of msDenied)) }) ∧
  (∀ (s : State) (q : MbxReq) (e : Dev) (n : Nat), s.dev.admits opSlotQuery q = true → e = s.dev.arrived 0x0404 q → n = pf q.pay
    0 1 → exec (.slotQuery q) s = .next { s with dev := ((e).answer 0x0404 q (.ok (e.viewBytes (F.SLOT_STATE_STATE.addr n) 1 ++
    e.viewBytes (F.SLOT_TAG_TAG.addr n) 1 ++ e.viewBytes (F.SLOT_SEQ_SEQ.addr n) 1 ++ e.viewBytes (F.SLOT_COUNTS_LATE.addr n) 1
    ++ (if (e.sl n).owner = 0 then zeros 16 else fitBytes 16 (pkgRead (e.sl n).pkg).modelId) ++ le 1 (e.sl n).owner ++ zeros
    3))) }) ∧
  (∀ (s : State) (q : MbxReq) (e : Dev), s.dev.admits opOroSet q = true → e = s.dev.arrived 0x0405 q → pf q.pay 4 2 =
    e.oro.replayMib → exec (.oroSet q) s = .next { s with dev := ((((e.oroEn (pf q.pay 0 1 = 1)).tlmEn (pf q.pay 1 1 = 1)).wr
    F.ORO_CTRL_PROMOTE_HOLD 0 (pf q.pay 2 1)).answer 0x0405 q (.ok)) }) ∧
  (∀ (s : State) (q : MbxReq) (e : Dev), s.dev.admits opOroSet q = true → e = s.dev.arrived 0x0405 q → pf q.pay 4 2 ≠
    e.oro.replayMib → ((e.hbmUsed.any fun (r : Nat × Nat) => 0x400000000 - pf q.pay 4 2 * 0x100000 < r.1 + r.2) = true) → exec
    (.oroSet q) s = .next { s with dev := ((e).answer 0x0405 q (.of msResource)) }) ∧
  (∀ (s : State) (q : MbxReq) (e : Dev), s.dev.admits opOroRollback q = true → e = s.dev.arrived 0x0406 q → exec (.oroRollback
    q) s = .next { s with dev := ((e.rollback).answer 0x0406 q (.ok)) }) ∧
  (∀ (s : State) (q : MbxReq) (e : Dev), s.dev.admits opOroQuery q = true → e = s.dev.arrived 0x0407 q → exec (.oroQuery q) s =
    .next { s with dev := ((e).answer 0x0407 q (.ok (e.viewBytes (F.ORO_STATUS_STATE.addr 0) 1 ++ e.viewBytes
    (F.ORO_CLEAN_HELDOUT_SEG.addr 0) 5))) })

/-- A request of group 0x05 that is taken and passes the checks: a group is created with its map, quota and policy, deleted, its
policy changed; objects are allocated within the quota, freed; a Board context created or deleted; an accelerator castled (the
answer counts the groups it was in, none busy), configured, its registers returned. Where nothing is free the answer is
RESOURCE. -/
def Obligations.MailboxSyncOpcodes : Prop :=
  (∀ (s : State) (q : MbxReq) (e : Dev) (g : Nat), s.dev.admits opGroupCreate q = true → e = s.dev.arrived 0x0500 q →
    (List.range 256).find? (fun i => e.rd F.GRP_CTRL_STATE i = 0) = some g → exec (.groupCreate q) s = .next { s with dev :=
    ((((((((e.grPut g { }).wrw (F.GRP_MAP_MEMBER.addr g) (pf q.pay 0 4)).wr F.GRP_CTRL_QUOTA g (pf q.pay 4 4)).wr
    F.GRP_CTRL_HOST_OK g (pf q.pay 8 1 % 2)).wr F.GRP_CTRL_STATE g 1).groupPolicy g (pf q.pay 8 1 / 2 % 2) (pf q.pay 8 1 / 4 %
    2))).answer 0x0500 q (.ok (le 1 g ++ zeros 3))) }) ∧
  (∀ (s : State) (q : MbxReq) (e : Dev), s.dev.admits opGroupDelete q = true → e = s.dev.arrived 0x0501 q → exec (.groupDelete
    q) s = .next { s with dev := ((e.groupDelete (pf q.pay 0 1)).answer 0x0501 q (.ok)) }) ∧
  (∀ (s : State) (q : MbxReq) (e : Dev), s.dev.admits opGroupPolicy q = true → e = s.dev.arrived 0x0502 q → exec (.groupPolicy
    q) s = .next { s with dev := ((e.groupPolicy (pf q.pay 0 1) (pf q.pay 1 1) (pf q.pay 2 1)).answer 0x0502 q (.ok)) }) ∧
  (∀ (s : State) (q : MbxReq) (e : Dev) (x : List Nat × Dev), s.dev.admits opObjAlloc q = true → e = s.dev.arrived 0x0503 q →
    (e.objsOf (pf q.pay 0 1)).length + pf q.pay 2 2 ≤ e.rd F.GRP_CTRL_QUOTA (pf q.pay 0 1) → (Dev.objAllocs (pf q.pay 0 1) (pf
    q.pay 1 1 % 16) (bitOf (pf q.pay 1 1) 7) (pf q.pay 4 4) (pf q.pay 8 8) (pf q.pay 2 2) e).isSome = true → x = (Dev.objAllocs
    (pf q.pay 0 1) (pf q.pay 1 1 % 16) (bitOf (pf q.pay 1 1) 7) (pf q.pay 4 4) (pf q.pay 8 8) (pf q.pay 2 2) e).getD ([], e) →
    exec (.objAlloc q) s = .next { s with dev := ((x.2).answer 0x0503 q (.ok (x.1.flatMap fun h => le 4 h))) }) ∧
  -- the group's quota is used up
  (∀ (s : State) (q : MbxReq) (e : Dev), s.dev.admits opObjAlloc q = true → e = s.dev.arrived 0x0503 q → e.rd F.GRP_CTRL_QUOTA
    (pf q.pay 0 1) < (e.objsOf (pf q.pay 0 1)).length + pf q.pay 2 2 → exec (.objAlloc q) s = .next { s with dev := ((e).answer
    0x0503 q (.of msResource)) }) ∧
  (∀ (s : State) (q : MbxReq) (e : Dev), s.dev.admits opObjFree q = true → e = s.dev.arrived 0x0504 q → q.pay.length = 4 + 4 *
    pf q.pay 0 2 → exec (.objFree q) s = .next { s with dev := (((e.freeAll ((List.range (pf q.pay 0 2)).map fun k => pf q.pay
    (4 + 4 * k) 4)).2).answer 0x0504 q (.ok (le 2 (e.freeAll ((List.range (pf q.pay 0 2)).map fun k => pf q.pay (4 + 4 * k)
    4)).1 ++ zeros 2))) }) ∧
  (∀ (s : State) (q : MbxReq) (e : Dev) (x : (Option Nat × Bool) × Dev) (c : Nat) (b : Bool), s.dev.admits opCtxCreate q = true
    → e = s.dev.arrived 0x0505 q → x = e.ctxCreate (ctxAsked q.pay) → x.1 = (some c, b) → exec (.ctxCreate q) s = .next { s with
    dev := ((x.2).answer 0x0505 q (.ok (le 1 c ++ zeros 3))) }) ∧
  (∀ (s : State) (q : MbxReq) (e : Dev), s.dev.admits opCtxCreate q = true → e = s.dev.arrived 0x0505 q → (e.ctxCreate (ctxAsked
    q.pay)).1 = (none, false) → exec (.ctxCreate q) s = .next { s with dev := ((e).answer 0x0505 q (.of msResource)) }) ∧
  (∀ (s : State) (q : MbxReq) (e : Dev), s.dev.admits opCtxDelete q = true → e = s.dev.arrived 0x0506 q → exec (.ctxDelete q) s
    = .next { s with dev := ((e.ctxDelete (pf q.pay 0 1)).answer 0x0506 q (.ok)) }) ∧
  (∀ (s : State) (q : MbxReq) (e : Dev), s.dev.admits opCastle q = true → e = s.dev.arrived 0x0507 q → exec (.castle q) s =
    .next { s with dev := ((e.castle (pf q.pay 0 1) (if pf q.pay 1 1 = 0xFF then 15 else pf q.pay 1 1) (pf q.pay 2 1 =
    1)).answer 0x0507 q (.ok (le 1 0 ++ le 1 (e.groupsOf (pf q.pay 0 1)).length ++ zeros 2))) }) ∧
  (∀ (s : State) (q : MbxReq) (e : Dev) (f : Dev), s.dev.admits opAccConfig q = true → e = s.dev.arrived 0x0508 q → f =
    (e.bindOk (pf q.pay 0 1) (pf q.pay 1 1 = 1)).forceSideband (pf q.pay 0 1) (pf q.pay 2 1 = 1) → exec (.accConfig q) s = .next
    { s with dev := ((f).answer 0x0508 q (.ok (f.viewBytes (F.VL_ACC_STATUS_MODE.addr (pf q.pay 0 1)) 1))) }) ∧
  (∀ (s : State) (q : MbxReq) (e : Dev), s.dev.admits opGetAcc q = true → e = s.dev.arrived 0x0509 q → exec (.getAcc q) s =
    .next { s with dev := ((e).answer 0x0509 q (.ok (accs8.flatMap fun a => e.viewBytes (F.VL_ACC_STATUS_MODE.addr a) 1 ++
    e.viewBytes (F.VL_ACC_STATUS_MODE.addr a + 8) 1))) })

/-- With EN set and the owner writing: PKT_OPEN opens a packet if a line is free and drops it otherwise; WR_DATA appends a word to
the open packet, to the line of a stream queue, or sets CQ_ERR where no packet is open; PKT_CLOSE commits the packet, trimmed
by LAST_BYTES, where it fits, and closes a dropped one; WR_FIRST marks an item on a stream queue and sets CQ_ERR on a packet
queue. Another writer sets CQ_ERR; with EN clear nothing happens. -/
def Obligations.CaptureQueueWriters : Prop :=
  -- a writer that is not the owner
  (∀ (s : State) (q : Fin 16) (writer : Fin 16), s.dev.is F.CQ_CFG_EN q.val = true → ¬ (s.dev.rd F.CQ_CFG_OWNER q.val =
    writer.val ∧ writer.val ≠ 0) → exec (.cqPktOpen q writer) s = .next { s with dev := (s.dev.wrBit F.CQ_ERR_WRITER 0 q.val
    true) }) ∧
  (∀ (s : State) (q : Fin 16) (writer : Fin 16), s.dev.is F.CQ_CFG_EN q.val = false → exec (.cqPktOpen q writer) s = .next { s
    with dev := (s.dev) }) ∧
  (∀ (s : State) (q : Fin 16) (writer : Fin 16), s.dev.is F.CQ_CFG_EN q.val = true → s.dev.rd F.CQ_CFG_OWNER q.val = writer.val
    → writer.val ≠ 0 → 4 ≤ q.val → (s.dev.cqGet q.val).pkt = none → (s.dev.cqGet q.val).vis.length < cqLines → exec (.cqPktOpen
    q writer) s = .next { s with dev := ((s.dev.cqPut q.val
    { s.dev.cqGet q.val with pkt := (some []), drop := false, lastWr := s.dev.gts }).cqOverMark q.val ((s.dev.cqGet
    q.val).vis.length + 1)) }) ∧
  -- no line free: the packet is dropped
  (∀ (s : State) (q : Fin 16) (writer : Fin 16), s.dev.is F.CQ_CFG_EN q.val = true → s.dev.rd F.CQ_CFG_OWNER q.val = writer.val
    → writer.val ≠ 0 → 4 ≤ q.val → (s.dev.cqGet q.val).pkt = none → cqLines ≤ (s.dev.cqGet q.val).vis.length → exec (.cqPktOpen
    q writer) s = .next { s with dev := ((s.dev.cqPut q.val
    { s.dev.cqGet q.val with pkt := (some []), drop := false }).cqDropPacket q.val) }) ∧
  -- a stream queue has no packets
  (∀ (s : State) (q : Fin 16) (writer : Fin 16), s.dev.is F.CQ_CFG_EN q.val = true → s.dev.rd F.CQ_CFG_OWNER q.val = writer.val
    → writer.val ≠ 0 → q.val < 4 → exec (.cqPktOpen q writer) s = .next { s with dev := (s.dev.wrBit F.CQ_ERR_WRITER 0 q.val
    true) }) ∧
  -- a writer that is not the owner
  (∀ (s : State) (q : Fin 16) (writer : Fin 16) (v : Word), s.dev.is F.CQ_CFG_EN q.val = true → ¬ (s.dev.rd F.CQ_CFG_OWNER q.val
    = writer.val ∧ writer.val ≠ 0) → exec (.cqWrData q writer v) s = .next { s with dev := (s.dev.wrBit F.CQ_ERR_WRITER 0 q.val
    true) }) ∧
  (∀ (s : State) (q : Fin 16) (writer : Fin 16) (v : Word), s.dev.is F.CQ_CFG_EN q.val = false → exec (.cqWrData q writer v) s =
    .next { s with dev := (s.dev) }) ∧
  (∀ (s : State) (q : Fin 16) (writer : Fin 16) (v : Word), s.dev.is F.CQ_CFG_EN q.val = true → s.dev.rd F.CQ_CFG_OWNER q.val =
    writer.val → writer.val ≠ 0 → 4 ≤ q.val → (s.dev.cqGet q.val).pkt = none → exec (.cqWrData q writer v) s = .next { s with
    dev := (s.dev.wrBit F.CQ_ERR_WRITER 0 q.val true) }) ∧
  -- a dropped packet takes no word
  (∀ (s : State) (q : Fin 16) (writer : Fin 16) (v : Word) (p : List Byte), s.dev.is F.CQ_CFG_EN q.val = true → s.dev.rd
    F.CQ_CFG_OWNER q.val = writer.val → writer.val ≠ 0 → 4 ≤ q.val → (s.dev.cqGet q.val).pkt = some p → (s.dev.cqGet q.val).drop
    = true → exec (.cqWrData q writer v) s = .next { s with dev := (s.dev) }) ∧
  (∀ (s : State) (q : Fin 16) (writer : Fin 16) (v : Word) (p : List Byte), s.dev.is F.CQ_CFG_EN q.val = true → s.dev.rd
    F.CQ_CFG_OWNER q.val = writer.val → writer.val ≠ 0 → 4 ≤ q.val → (s.dev.cqGet q.val).pkt = some p → (s.dev.cqGet q.val).drop
    = false → (4 + (p.length + 4)) ≤ 16384 → (s.dev.cqGet q.val).vis.length + linesOf (4 + (p.length + 4)) ≤ cqLines → exec
    (.cqWrData q writer v) s = .next { s with dev := ((s.dev.cqPut q.val
    { s.dev.cqGet q.val with pkt := (some (p ++ le 4 v.toNat)), lastWr := s.dev.gts }).cqOverMark q.val ((s.dev.cqGet
    q.val).vis.length + linesOf (4 + (p.length + 4)))) }) ∧
  -- a word that does not fit drops the packet
  (∀ (s : State) (q : Fin 16) (writer : Fin 16) (v : Word) (p : List Byte), s.dev.is F.CQ_CFG_EN q.val = true → s.dev.rd
    F.CQ_CFG_OWNER q.val = writer.val → writer.val ≠ 0 → 4 ≤ q.val → (s.dev.cqGet q.val).pkt = some p → (s.dev.cqGet q.val).drop
    = false → 16384 < 4 + (p.length + 4) ∨ cqLines < (s.dev.cqGet q.val).vis.length + linesOf (4 + (p.length + 4)) → exec
    (.cqWrData q writer v) s = .next { s with dev := (s.dev.cqDropPacket q.val) }) ∧
  -- after a flush a stream queue waits for WR_FIRST
  (∀ (s : State) (q : Fin 16) (writer : Fin 16) (v : Word), s.dev.is F.CQ_CFG_EN q.val = true → s.dev.rd F.CQ_CFG_OWNER q.val =
    writer.val → writer.val ≠ 0 → q.val < 4 → (s.dev.cqGet q.val).needFirst = true → exec (.cqWrData q writer v) s = .next { s
    with dev := (s.dev) }) ∧
  (∀ (s : State) (q : Fin 16) (writer : Fin 16) (v : Word) (c : Cq), s.dev.is F.CQ_CFG_EN q.val = true → s.dev.rd F.CQ_CFG_OWNER
    q.val = writer.val → writer.val ≠ 0 → q.val < 4 → (s.dev.cqGet q.val).needFirst = false → c = s.dev.cqGet q.val → c.cur ≠ []
    → c.cur.length < 28 → exec (.cqWrData q writer v) s = .next { s with dev := ((s.dev.cqPut q.val
    { c with needFirst := false, cur := (c.cur ++ le 4 v.toNat), lastWr := s.dev.gts }).cqWatch q.val) }) ∧
  (∀ (s : State) (q : Fin 16) (writer : Fin 16) (v : Word), s.dev.is F.CQ_CFG_EN q.val = true → s.dev.rd F.CQ_CFG_OWNER q.val =
    writer.val → writer.val ≠ 0 → 4 ≤ q.val → exec (.cqWrFirst q writer v) s = .next { s with dev := (s.dev.wrBit
    F.CQ_ERR_WRITER 0 q.val true) }) ∧
  (∀ (s : State) (q : Fin 16) (writer : Fin 16) (v : Word), s.dev.is F.CQ_CFG_EN q.val = true → s.dev.rd F.CQ_CFG_OWNER q.val =
    writer.val → writer.val ≠ 0 → q.val < 4 → exec (.cqWrFirst q writer v) s = .next { s with dev := (s.dev.cqStreamWord q.val
    true v.toNat) }) ∧
  -- a writer that is not the owner
  (∀ (s : State) (q : Fin 16) (writer : Fin 16) (v : Word), s.dev.is F.CQ_CFG_EN q.val = true → ¬ (s.dev.rd F.CQ_CFG_OWNER q.val
    = writer.val ∧ writer.val ≠ 0) → exec (.cqWrFirst q writer v) s = .next { s with dev := (s.dev.wrBit F.CQ_ERR_WRITER 0 q.val
    true) }) ∧
  (∀ (s : State) (q : Fin 16) (writer : Fin 16) (v : Word), s.dev.is F.CQ_CFG_EN q.val = false → exec (.cqWrFirst q writer v) s
    = .next { s with dev := (s.dev) }) ∧
  -- a writer that is not the owner
  (∀ (s : State) (q : Fin 16) (writer : Fin 16) (lastBytes : BitVec 3), s.dev.is F.CQ_CFG_EN q.val = true → ¬ (s.dev.rd
    F.CQ_CFG_OWNER q.val = writer.val ∧ writer.val ≠ 0) → exec (.cqPktClose q writer lastBytes) s = .next { s with dev :=
    (s.dev.wrBit F.CQ_ERR_WRITER 0 q.val true) }) ∧
  (∀ (s : State) (q : Fin 16) (writer : Fin 16) (lastBytes : BitVec 3), s.dev.is F.CQ_CFG_EN q.val = false → exec (.cqPktClose q
    writer lastBytes) s = .next { s with dev := (s.dev) }) ∧
  (∀ (s : State) (q : Fin 16) (writer : Fin 16) (lastBytes : BitVec 3), s.dev.is F.CQ_CFG_EN q.val = true → s.dev.rd
    F.CQ_CFG_OWNER q.val = writer.val → writer.val ≠ 0 → 4 ≤ q.val → (s.dev.cqGet q.val).pkt = none → exec (.cqPktClose q writer
    lastBytes) s = .next { s with dev := (s.dev.wrBit F.CQ_ERR_WRITER 0 q.val true) }) ∧
  -- a dropped packet closes without a commit
  (∀ (s : State) (q : Fin 16) (writer : Fin 16) (lastBytes : BitVec 3) (p : List Byte), s.dev.is F.CQ_CFG_EN q.val = true →
    s.dev.rd F.CQ_CFG_OWNER q.val = writer.val → writer.val ≠ 0 → 4 ≤ q.val → (s.dev.cqGet q.val).pkt = some p → (s.dev.cqGet
    q.val).drop = true → exec (.cqPktClose q writer lastBytes) s = .next { s with dev := (s.dev.cqPut q.val
    { s.dev.cqGet q.val with pkt := none, drop := false }) }) ∧
  (∀ (s : State) (q : Fin 16) (writer : Fin 16) (lastBytes : BitVec 3) (p pay : List Byte), s.dev.is F.CQ_CFG_EN q.val = true →
    s.dev.rd F.CQ_CFG_OWNER q.val = writer.val → writer.val ≠ 0 → 4 ≤ q.val → (s.dev.cqGet q.val).pkt = some p → (s.dev.cqGet
    q.val).drop = false → pay = (if p = [] then [] else p.take (p.length - 4 + (if 1 ≤ lastBytes.toNat ∧ lastBytes.toNat ≤ 4
    then lastBytes.toNat else 4))) → s.dev.cqFits q.val pay.length = true → exec (.cqPktClose q writer lastBytes) s = .next { s
    with dev := (s.dev.cqCommit q.val pay) })

/-- A read of CQ_RD_TAG takes the oldest visible line, shows its tag and words, feeds the bound CRC contexts and keeps the line
while the mark stands; an empty queue answers 0x200. An acknowledgement lowers PENDING; a flush empties the queue; the mark is
set; a rewind returns the lines past the mark or fails; a partial line becomes visible at its linger time; the trace port
sends one line of the queue it serves. -/
def Obligations.CaptureQueueReadersAndTracePort : Prop :=
  (∀ (s : State) (q : Fin 16) (l : CqLine) (vs : List CqLine) (e : Dev), s.dev.cqToPort q.val = false → (s.dev.cqGet q.val).vis
    = l :: vs → s.dev.cqPoisoned q.val l = false → e = (List.range 8).foldl (fun (x : Dev) i => x.wrw (0x601020 + 0x100 * q.val
    + 4 * i) (leVal ((l.bytes.drop (4 * i)).take 4))) (s.dev.wr F.CQ_RD_TAG_TAG q.val l.tag.toNat) → exec (.cqRdTag q) s = .next
    { s with dev := (((e.cqFeed q.val l).cqTake q.val).emit (.data (BitVec.ofNat 64 l.tag.toNat) false)) }) ∧
  -- a poisoned line feeds no CRC context
  (∀ (s : State) (q : Fin 16) (l : CqLine) (vs : List CqLine) (e : Dev), s.dev.cqToPort q.val = false → (s.dev.cqGet q.val).vis
    = l :: vs → s.dev.cqPoisoned q.val l = true → e = (List.range 8).foldl (fun (x : Dev) i => x.wrw (0x601020 + 0x100 * q.val +
    4 * i) (leVal ((l.bytes.drop (4 * i)).take 4))) (s.dev.wr F.CQ_RD_TAG_TAG q.val (l.tag.toNat + 256)) → exec (.cqRdTag q) s =
    .next { s with dev := ((e.cqTake q.val).emit (.data (BitVec.ofNat 64 (l.tag.toNat + 256)) true)) }) ∧
  (∀ (s : State) (q : Fin 16), s.dev.cqToPort q.val = false → (s.dev.cqGet q.val).vis = [] → exec (.cqRdTag q) s = .next { s
    with dev := ((s.dev.wr F.CQ_RD_TAG_TAG q.val 0x200).emit (.data 0x200 false)) }) ∧
  -- a queue that drains to the trace port reads empty
  (∀ (s : State) (q : Fin 16), s.dev.cqToPort q.val = true → exec (.cqRdTag q) s = .next { s with dev := ((s.dev.wr
    F.CQ_RD_TAG_TAG q.val 0x200).emit (.data 0x200 false)) }) ∧
  (∀ (s : State) (q : Fin 16) (n : BitVec 16), exec (.cqNoticeAck q n) s = .next { s with dev := (s.dev.wr F.CQ_NOTICE_PENDING
    q.val (s.dev.rd F.CQ_NOTICE_PENDING q.val - n.toNat)) }) ∧
  (∀ (s : State) (q : Fin 16) (c e : Cq) (x : Dev), c = s.dev.cqGet q.val → e =
    ({ c with past := [], vis := [], cur := [], gap := true, pkt := (c.pkt.map fun _ => []), drop := c.pkt.isSome, needFirst := (cqStream q.val) })
    → x = ((s.dev.cqPut q.val e).wr F.CQ_MARK_VALID q.val 0).wr F.CQ_NOTICE_PENDING q.val 0 → exec (.flush q) s = .next { s with
    dev := ((x.inc F.CQ_COUNTS_FLUSHES q.val).cqWatch q.val) }) ∧
  (∀ (s : State) (q : Fin 16), exec (.cqMarkSet q) s = .next { s with dev := ((s.dev.cqPut q.val { s.dev.cqGet q.val with past
    := [] }).wr F.CQ_MARK_VALID q.val 1) }) ∧
  (∀ (s : State) (q : Fin 16), s.dev.is F.CQ_MARK_VALID q.val = true → exec (.rewind q) s = .next { s with dev := ((s.dev.cqPut
    q.val { s.dev.cqGet q.val with vis := ((s.dev.cqGet q.val).past ++ (s.dev.cqGet q.val).vis), past := [] }).cqWatch q.val) }) ∧
  (∀ (s : State) (q : Fin 16), s.dev.is F.CQ_MARK_VALID q.val = false → exec (.rewind q) s = .next { s with dev := (s.dev.wr
    F.CQ_MARK_REWIND_FAIL q.val 1) }) ∧
  (∀ (s : State) (q : Fin 4) (c : Cq), c = s.dev.cqGet q.val → c.cur ≠ [] → c.lastWr + 100 * max (s.dev.rd F.CQ_CFG_LINGER
    q.val) 1 ≤ s.dev.gts → exec (.cqLingerExpiry q) s = .next { s with dev := ((s.dev.cqPut q.val { c.push c.item c.curGap c.cur
    c.cur.length with cur := [] }).cqWatch q.val) }) ∧
  (∀ (s : State) (q : Nat) (l : CqLine) (vs : List CqLine) (ctl tag : Nat) (e : Dev), s.dev.is F.CQ_TRC_CFG_EN = true →
    s.dev.tracePick = some q → (s.dev.cqGet q).vis = l :: vs → ctl = 128 + q * 32 + (if s.dev.trcHold then 16 else 0) → tag =
    l.tag.toNat + (if s.dev.cqPoisoned q l then 256 else 0) → e = (s.dev.emit (.trace (le 1 ctl ++ le 4 tag ++ l.bytes))) → exec
    (.traceUnitSend) s = .next { s with dev := ({ e.cqTake q with obs.cqRr := ((q + 1) % 4) }) }) ∧
  (∀ (s : State), s.dev.is F.CQ_TRC_CFG_EN = false ∨ s.dev.tracePick = none → exec (.traceUnitSend) s = .next { s with dev :=
    (s.dev) })

/-- The recorder takes an entry with a spare cycle, numbers it and counts it, or counts it as lost when the memory is full; PAUSE
is set with its time, cleared by a write and by itself after 1 ms; CLEAR acts only with the key, archived contents and a quiet
cycle. A CRC context loads its initial value with its algorithm and on INIT, takes a written value within its width, and feeds
and counts the bytes written to it. -/
def Obligations.RecorderAndCheckValues : Prop :=
  (∀ (s : State) (rank : Fin 19) (cls : Fin 4) (code : BitVec 7) (payload : List Byte) (e : FfrEntry), e =
    { cls := cls.val, code := code.toNat, stamp := s.dev.aont, rank := rank.val, payload := (fitBytes (min 1008 ((payload.length + 15) / 16 * 16)) payload) }
    → exec (.ffrEvent rank cls code payload) s = .next { s with dev := (s.dev.ffrEvent e) }) ∧
  (∀ (s : State) (x : Dev), x = s.dev.ffrAbsorb 32 → x.obs.ffrS.queue = [] → exec (.ffrAppend) s = .next { s with dev := (x) }) ∧
  -- four AON cycles apart
  (∀ (s : State) (x : Dev) (e : FfrEntry) (q : List FfrEntry) (t : Nat), x = s.dev.ffrAbsorb 32 → x.obs.ffrS.queue = e :: q →
    x.obs.ffrS.lastAppend = some t → x.aont < t + 160 → exec (.ffrAppend) s = .next { s with dev := (x) }) ∧
  -- full: the entry is lost
  (∀ (s : State) (x y : Dev) (e : FfrEntry) (q : List FfrEntry), x = s.dev.ffrAbsorb 32 → x.obs.ffrS.queue = e :: q →
    x.obs.ffrS.lastAppend = none → y = { x with obs.ffrS.queue := q } → y.is F.FFR_STATUS_FULL = true ∨ (x.rd F.FFR_FILL_FILL16
    + (16 + e.payload.length + 15) / 16) * 16 > 262144 → exec (.ffrAppend) s = .next { s with dev := ((y.wr F.FFR_STATUS_FULL 0
    1).inc F.FFR_LOST_COUNT) }) ∧
  (∀ (s : State) (x y z g : Dev) (e : FfrEntry) (q : List FfrEntry) (n : Nat), x = s.dev.ffrAbsorb 32 → x.obs.ffrS.queue = e ::
    q → x.obs.ffrS.lastAppend = none → y = { x with obs.ffrS.queue := q } → n = x.rd F.FFR_FILL_FILL16 + (16 + e.payload.length
    + 15) / 16 → y.is F.FFR_STATUS_FULL = false → n * 16 ≤ 262144 → z =
    { y.ffrWrote (2 * x.rd F.FFR_FILL_FILL16) (2 * n) with obs.ffrS.recs := ({ e := e, seq := (y.rd F.FFR_STATUS_NEXT_SEQ), rep := 0 } :: y.obs.ffrS.recs), obs.ffrS.lastAppend := (some y.aont), obs.ffrS.lastAct := (some y.aont) }
    → g = (((z.wr F.FFR_FILL_FILL16 0 n).inc F.FFR_FILL_RECORDS).wr F.FFR_STATUS_NEXT_SEQ 0 (y.rd F.FFR_STATUS_NEXT_SEQ + 1)) →
    exec (.ffrAppend) s = .next { s with dev := (g.ffrAbsorb 32) }) ∧
  (∀ (s : State), exec (.ffrPause true) s = .next { s with dev := ({ s.dev.wr F.FFR_CTRL_PAUSE 0 1 with obs.ffrS.pausedAt :=
    s.dev.aont }) }) ∧
  (∀ (s : State) (r : List FfrRec) (e : Dev), r = (s.dev.obs.ffrS.recs.map fun (r : FfrRec) => { r with rep := (satAdd 16 r.rep
    (tget (fun _ => 0) s.dev.obs.ffrS.held r.seq)) }) → e = { s.dev with obs.ffrS.recs := r, obs.ffrS.held := [] } → exec
    (.ffrPause false) s = .next { s with dev := (e.wr F.FFR_CTRL_PAUSE 0 0) }) ∧
  (∀ (s : State), s.dev.is F.FFR_CTRL_PAUSE = true → s.dev.obs.ffrS.pausedAt + 1000000 ≤ s.dev.aont → exec (.ffrPauseExpiry) s =
    .next { s with dev := (s.dev.ffrRelease) }) ∧
  (∀ (s : State) (key : BitVec 16) (e : Dev), key.toNat = 0x5A96 → s.dev.rd F.FFR_ARCH_FILL16 = s.dev.rd F.FFR_FILL_FILL16 →
    ((s.dev.obs.ffrS.lastAct.all fun t => decide (t / 40 ≠ s.dev.aont / 40)) = true) → e =
    { s.dev.ffrWrote 0 32768 with obs.ffrS.recs := [], obs.ffrS.held := [] } → exec (.ffrClear key) s = .next { s with dev :=
    (((((e.wr F.FFR_FILL_FILL16 0 0).wr F.FFR_FILL_RECORDS 0 0).wr F.FFR_STATUS_NEXT_SEQ 0 0).wr F.FFR_STATUS_FULL 0 0).wr
    F.FFR_LOST_COUNT 0 0) }) ∧
  (∀ (s : State) (key : BitVec 16), key.toNat ≠ 0x5A96 ∨ s.dev.rd F.FFR_ARCH_FILL16 ≠ s.dev.rd F.FFR_FILL_FILL16 → exec
    (.ffrClear key) s = .next { s with dev := (s.dev) }) ∧
  (∀ (s : State) (k : Fin 4) (alg : BitVec 3) (e : Dev), e = s.dev.wr F.CRC_CFG_ALG k.val alg.toNat → exec (.crcAlgWrite k alg)
    s = .next { s with dev := ((e.wr64 F.CRC_VALUE_LO k.val (crcInit (e.rd F.CRC_CFG_ALG k.val))).wr F.CRC_COUNT_BYTES k.val 0)
    }) ∧
  (∀ (s : State) (k : Fin 4), exec (.crcInit k) s = .next { s with dev := ((s.dev.wr64 F.CRC_VALUE_LO k.val (crcInit (s.dev.rd
    F.CRC_CFG_ALG k.val))).wr F.CRC_COUNT_BYTES k.val 0) }) ∧
  (∀ (s : State) (k : Fin 4) (v : DWord), exec (.crcValueWrite k v) s = .next { s with dev := (s.dev.wr64 F.CRC_VALUE_LO k.val
    (v.toNat % 2 ^ crcWidth (s.dev.rd F.CRC_CFG_ALG k.val))) }) ∧
  (∀ (s : State) (k : Fin 4) (w : Width) (v : DWord), exec (.crcData k w v) s = .next { s with dev := ((s.dev.wr64
    F.CRC_VALUE_LO k.val (crcFeed (s.dev.rd F.CRC_CFG_ALG k.val) (s.dev.rd64 F.CRC_VALUE_LO k.val) (le (widthBytes w)
    v.toNat))).inc F.CRC_COUNT_BYTES k.val (le (widthBytes w) v.toNat).length) })

/-- A descriptor of each of the twelve types offered to a segment that is in normal service, with room in its queue, a usable
address and no reserved bit, joins the queue, from which the controller takes descriptors in order while it may; a reserved
type or the alert response address completes BAD_DESC, a segment in recovery answers STUCK and a full queue refuses. -/
def Obligations.TwoWireDescriptors : Prop :=
  (∀ (s : State) (n : Fin 12) (t : TwDesc) (r : BusResult), t.addr ≠ 0x0C → t.rsvd = false → (s.dev.segGet n).mode = .normal →
    (s.dev.segGet n).queue.length < 16 → exec (.quickWrite n t r) s = .next { s with dev := ((s.dev.segPut n { s.dev.segGet n
    with queue := ((s.dev.segGet n).queue ++ [{ ty := 0, t := t, r := r, tries := 0 }]) }).segPump 17 n) }) ∧
  (∀ (s : State) (n : Fin 12) (t : TwDesc) (r : BusResult), t.addr ≠ 0x0C → t.rsvd = false → (s.dev.segGet n).mode = .normal →
    (s.dev.segGet n).queue.length < 16 → exec (.quickRead n t r) s = .next { s with dev := ((s.dev.segPut n { s.dev.segGet n
    with queue := ((s.dev.segGet n).queue ++ [{ ty := 1, t := t, r := r, tries := 0 }]) }).segPump 17 n) }) ∧
  (∀ (s : State) (n : Fin 12) (t : TwDesc) (r : BusResult), t.addr ≠ 0x0C → t.rsvd = false → (s.dev.segGet n).mode = .normal →
    (s.dev.segGet n).queue.length < 16 → exec (.sendByte n t r) s = .next { s with dev := ((s.dev.segPut n { s.dev.segGet n with
    queue := ((s.dev.segGet n).queue ++ [{ ty := 2, t := t, r := r, tries := 0 }]) }).segPump 17 n) }) ∧
  (∀ (s : State) (n : Fin 12) (t : TwDesc) (r : BusResult), t.addr ≠ 0x0C → t.rsvd = false → (s.dev.segGet n).mode = .normal →
    (s.dev.segGet n).queue.length < 16 → exec (.receiveByte n t r) s = .next { s with dev := ((s.dev.segPut n { s.dev.segGet n
    with queue := ((s.dev.segGet n).queue ++ [{ ty := 3, t := t, r := r, tries := 0 }]) }).segPump 17 n) }) ∧
  (∀ (s : State) (n : Fin 12) (t : TwDesc) (r : BusResult), t.addr ≠ 0x0C → t.rsvd = false → (s.dev.segGet n).mode = .normal →
    (s.dev.segGet n).queue.length < 16 → exec (.writeByte n t r) s = .next { s with dev := ((s.dev.segPut n { s.dev.segGet n
    with queue := ((s.dev.segGet n).queue ++ [{ ty := 4, t := t, r := r, tries := 0 }]) }).segPump 17 n) }) ∧
  (∀ (s : State) (n : Fin 12) (t : TwDesc) (r : BusResult), t.addr ≠ 0x0C → t.rsvd = false → (s.dev.segGet n).mode = .normal →
    (s.dev.segGet n).queue.length < 16 → exec (.writeWord n t r) s = .next { s with dev := ((s.dev.segPut n { s.dev.segGet n
    with queue := ((s.dev.segGet n).queue ++ [{ ty := 5, t := t, r := r, tries := 0 }]) }).segPump 17 n) }) ∧
  (∀ (s : State) (n : Fin 12) (t : TwDesc) (r : BusResult), t.addr ≠ 0x0C → t.rsvd = false → (s.dev.segGet n).mode = .normal →
    (s.dev.segGet n).queue.length < 16 → exec (.readByte n t r) s = .next { s with dev := ((s.dev.segPut n { s.dev.segGet n with
    queue := ((s.dev.segGet n).queue ++ [{ ty := 6, t := t, r := r, tries := 0 }]) }).segPump 17 n) }) ∧
  (∀ (s : State) (n : Fin 12) (t : TwDesc) (r : BusResult), t.addr ≠ 0x0C → t.rsvd = false → (s.dev.segGet n).mode = .normal →
    (s.dev.segGet n).queue.length < 16 → exec (.readWord n t r) s = .next { s with dev := ((s.dev.segPut n { s.dev.segGet n with
    queue := ((s.dev.segGet n).queue ++ [{ ty := 7, t := t, r := r, tries := 0 }]) }).segPump 17 n) }) ∧
  (∀ (s : State) (n : Fin 12) (t : TwDesc) (r : BusResult), t.addr ≠ 0x0C → t.rsvd = false → (s.dev.segGet n).mode = .normal →
    (s.dev.segGet n).queue.length < 16 → exec (.blockWrite n t r) s = .next { s with dev := ((s.dev.segPut n { s.dev.segGet n
    with queue := ((s.dev.segGet n).queue ++ [{ ty := 8, t := t, r := r, tries := 0 }]) }).segPump 17 n) }) ∧
  (∀ (s : State) (n : Fin 12) (t : TwDesc) (r : BusResult), t.addr ≠ 0x0C → t.rsvd = false → (s.dev.segGet n).mode = .normal →
    (s.dev.segGet n).queue.length < 16 → exec (.blockRead n t r) s = .next { s with dev := ((s.dev.segPut n { s.dev.segGet n
    with queue := ((s.dev.segGet n).queue ++ [{ ty := 9, t := t, r := r, tries := 0 }]) }).segPump 17 n) }) ∧
  (∀ (s : State) (n : Fin 12) (t : TwDesc) (r : BusResult), t.addr ≠ 0x0C → t.rsvd = false → (s.dev.segGet n).mode = .normal →
    (s.dev.segGet n).queue.length < 16 → exec (.processCall n t r) s = .next { s with dev := ((s.dev.segPut n { s.dev.segGet n
    with queue := ((s.dev.segGet n).queue ++ [{ ty := 10, t := t, r := r, tries := 0 }]) }).segPump 17 n) }) ∧
  (∀ (s : State) (n : Fin 12) (t : TwDesc) (r : BusResult), t.addr ≠ 0x0C → t.rsvd = false → (s.dev.segGet n).mode = .normal →
    (s.dev.segGet n).queue.length < 16 → exec (.blockProcessCall n t r) s = .next { s with dev := ((s.dev.segPut n {
    s.dev.segGet n with queue := ((s.dev.segGet n).queue ++ [{ ty := 11, t := t, r := r, tries := 0 }]) }).segPump 17 n) }) ∧
  -- BAD_DESC
  (∀ (s : State) (n : Fin 12) (t : TwDesc) (r : BusResult), t.addr = 0x0C ∨ t.rsvd = true → exec (.readByte n t r) s = .next { s
    with dev := ((s.dev.segDone n ({ ty := 6, t := t, r := r, tries := 0 }) 8 []).segShow n) }) ∧
  -- STUCK
  (∀ (s : State) (n : Fin 12) (t : TwDesc) (r : BusResult), t.addr ≠ 0x0C → t.rsvd = false → (s.dev.segGet n).mode ≠ .normal →
    exec (.readByte n t r) s = .next { s with dev := ((s.dev.segDone n ({ ty := 6, t := t, r := r, tries := 0 }) 6 []).segShow
    n) }) ∧
  -- no room
  (∀ (s : State) (n : Fin 12) (t : TwDesc) (r : BusResult), t.addr ≠ 0x0C → t.rsvd = false → (s.dev.segGet n).mode = .normal →
    16 ≤ (s.dev.segGet n).queue.length → exec (.readByte n t r) s = .next { s with dev := (s.dev.note t.core "FULL" n) }) ∧
  (∀ (s : State) (n : Fin 12) (ty : Fin 4) (t : TwDesc), exec (.reservedDescriptorType n ty t) s = .next { s with dev :=
    ((s.dev.segDone n { ty := (12 + ty.val), t := t, r := .hang, tries := 0 } 8 []).segShow n) })

/-- A clock-stretch time-out and a lost arbitration end the running descriptor with the status stated (on SMB_0 it waits and is
tried again up to ARB_RETRIES times); an alert input is taken, the alert response address read, a stuck alert masked and
unmasked after its time; a stuck bus fails the queue and is cleared, power-cycled or put out of service, and the supply is
restored; AVSBus commands are queued voltage first, sent again when busy, and an alert makes the controller read status. -/
def Obligations.TwoWireBusEventsAndAvs : Prop :=
  (∀ (s : State) (n : Fin 12) (j : TwJob) (e : Dev), (s.dev.segGet n).running = some j → e = s.dev.inc F.TW_SEG_COUNTS_TIMEOUT n
    → exec (.clockStretchTimeout n) s = .next { s with dev := (((e.segPut n
    { e.segGet n with running := none, lost := false }).segDone n j 4 []).segPump 17 n) }) ∧
  (∀ (s : State) (n : Fin 12) (addressed : Bool) (j : TwJob) (e : Dev), (s.dev.segGet n).running = some j → n.val ≠ 0 → e =
    s.dev.inc F.TW_SEG_COUNTS_LOST n → exec (.arbitrationLost n addressed) s = .next { s with dev := (((e.segPut n
    { e.segGet n with running := none, lost := false }).segDone n j 3 []).segPump 17 n) }) ∧
  -- on SMB_0 the descriptor waits
  (∀ (s : State) (addressed : Bool) (j : TwJob) (e : Dev), (s.dev.segGet 0).running = some j → e = (s.dev.inc
    F.TW_SEG_COUNTS_LOST 0).segPut 0 { s.dev.segGet 0 with lost := true } → exec (.arbitrationLost 0 addressed) s = .next { s
    with dev := (if addressed = true then e.emit (.msg "SMB_0 target" 0 []) else e) }) ∧
  (∀ (s : State) (n : Fin 12) (r : BusResult) (j : TwJob), (s.dev.segGet n).running = some j → (s.dev.segGet n).lost = true →
    j.tries < s.dev.rd F.TW_SEG_CFG_ARB_RETRIES n → exec (.arbitrationRetry n r) s = .next { s with dev := (((s.dev.segPut n
    { s.dev.segGet n with running := none, lost := false }).segRun n { j with tries := (j.tries + 1), r := r }).segPump 17 n) }) ∧
  (∀ (s : State) (n : Fin 12) (r : BusResult) (j : TwJob), (s.dev.segGet n).running = some j → (s.dev.segGet n).lost = true →
    s.dev.rd F.TW_SEG_CFG_ARB_RETRIES n ≤ j.tries → exec (.arbitrationRetry n r) s = .next { s with dev := (s.dev.segEnd n 3) }) ∧
  (∀ (s : State) (src : Fin 20) (level : Bool), src.val < 12 → (s.dev.segGet src).mode = .normal → exec (.alertAssert src level)
    s = .next { s with dev := ({ s.dev with tw.segAlert := (putBit s.dev.tw.segAlert src.val level) }.alertEval src) }) ∧
  (∀ (s : State) (src : Fin 20) (level : Bool) (e : Dev) (m : Nat), 12 ≤ src.val → e = { s.dev with tw.accAlert := (putBit
    s.dev.tw.accAlert (src.val - 12) level) } → m = bitsOf (s.dev.rd F.TW_ACC_ALERT_MAP) (4 * (src.val - 12)) 4 → m < 12 →
    (s.dev.segGet m).mode = .normal → exec (.alertAssert src level) s = .next { s with dev := (e.alertEval m) }) ∧
  (∀ (s : State) (n : Fin 12) (b : Byte) (e : Dev), s.dev.segAlerting n = true → (s.dev.segGet n).running = none → (s.dev.segGet
    n).mode = .normal → e = ((s.dev.emit (.twoWire n 6 0x0C 0 [])).inc F.TW_SEG_ALERT_COUNT n |>.wr F.TW_SEG_ALERT_LAST_ADDR n
    (b.toNat / 2)).note 1 "ALERT" (n.val * 128 + b.toNat / 2) → exec (.araRead n (some b)) s = .next { s with dev := (if
    (s.dev.segGet n).araRun + 1 ≥ 16 then e.alertStuck n else e.segPut n { s.dev.segGet n with araRun := ((s.dev.segGet
    n).araRun + 1) }) }) ∧
  (∀ (s : State) (n : Fin 12), s.dev.segAlerting n = true → (s.dev.segGet n).running = none → (s.dev.segGet n).mode = .normal →
    exec (.araRead n none) s = .next { s with dev := ((s.dev.emit (.twoWire n 6 0x0C 0 [])).alertStuck n) }) ∧
  (∀ (s : State) (n : Fin 12), s.dev.is F.TW_SEG_ALERT_MASKED n = true → (s.dev.segGet n).maskTill ≤ s.dev.aont → exec
    (.alertUnmask n) s = .next { s with dev := ((s.dev.wr F.TW_SEG_ALERT_MASKED n 0).alertEval n) }) ∧
  -- SDA alone is low and nine clocks free it
  (∀ (s : State) (n : Fin 12), (s.dev.segGet n).running = none → (s.dev.segGet n).mode = .normal → s.dev.is F.TW_SEG_CFG_EN n =
    true → exec (.stuckBus n false true) s = .next { s with dev := (((s.dev.segFail n 6).inc F.TW_SEG_RECOV_CLEARS n).segShow n)
    }) ∧
  -- SCL is low
  (∀ (s : State) (n : Fin 12) (freed : Bool) (e : Dev), (s.dev.segGet n).running = none → (s.dev.segGet n).mode = .normal →
    s.dev.is F.TW_SEG_CFG_EN n = true → e = s.dev.segFail n 6 → exec (.stuckBus n true freed) s = .next { s with dev := (if e.is
    F.TW_SEG_CFG_SEGPWR n = true then ((((e.inc F.TW_SEG_RECOV_POWERCYCLES n).segPower n false).segPut n { ((e.inc
    F.TW_SEG_RECOV_POWERCYCLES n).segPower n false).segGet n with mode := (.powerOff (((e.inc F.TW_SEG_RECOV_POWERCYCLES
    n).segPower n false).aont + min (max (e.rd F.TW_SEGPWR_CFG_OFF_MS) 10) 5000 * 1000000)) }).segShow n) else e.segOut n) }) ∧
  (∀ (s : State) (n : Fin 12) (u : Nat), (s.dev.segGet n).mode = .powerOff u → u ≤ s.dev.aont → exec (.segpwrOffEnd n) s = .next
    { s with dev := ((s.dev.segPower n true).segPut n { s.dev.segGet n with mode := ((.powerOn (s.dev.aont + min (max (s.dev.rd
    F.TW_SEGPWR_CFG_ON_MS) 1) 5000 * 1000000))) }) }) ∧
  (∀ (s : State) (n : Fin 12) (u : Nat), (s.dev.segGet n).mode = .powerOn u → u + 1000000 ≤ s.dev.aont → exec (.segpwrOnEnd n
    true) s = .next { s with dev := ((s.dev.segPut n { s.dev.segGet n with mode := .normal }).segPump 17 n) }) ∧
  (∀ (s : State) (n : Fin 12) (u : Nat), (s.dev.segGet n).mode = .powerOn u → u + 1000000 ≤ s.dev.aont → exec (.segpwrOnEnd n
    false) s = .next { s with dev := (s.dev.segOut n) }) ∧
  (∀ (s : State) (a : Fin 8) (mv : BitVec 16), exec (.avsWriteCommit a mv) s = .next { s with dev := ((s.dev.avsPut a {
    s.dev.avsGet a with queue := ((s.dev.avsGet a).queue ++ [.volt mv.toNat]) }).avsPump a) }) ∧
  (∀ (s : State) (a : Fin 8) (what : Fin 3), exec (.avsReadTelemetry a what) s = .next { s with dev := ((s.dev.avsPut a {
    s.dev.avsGet a with queue := ((s.dev.avsGet a).queue ++ [.read what]) }).avsPump a) }) ∧
  (∀ (s : State) (a : Fin 8), exec (.avsReadStatus a) s = .next { s with dev := ((s.dev.avsPut a { s.dev.avsGet a with queue :=
    ((s.dev.avsGet a).queue ++ [.status]) }).avsPump a) }) ∧
  (∀ (s : State) (a : Fin 8) (v : BitVec 16), exec (.avsWriteStatus a v) s = .next { s with dev := ((s.dev.avsPut a {
    s.dev.avsGet a with queue := ((s.dev.avsGet a).queue ++ [.wrStatus v.toNat]) }).avsPump a) }) ∧
  (∀ (s : State) (a : Fin 8) (c : AvsCmd) (k u : Nat), (s.dev.avsGet a).cur = some (c, k) → (s.dev.avsGet a).waitTill = some u →
    u ≤ s.dev.gts → exec (.avsBusyWaitEnd a) s = .next { s with dev := (s.dev.avsResend a c k) }) ∧
  (∀ (s : State) (a : Fin 8), (s.dev.avsGet a).cur = none → s.dev.is F.TW_AVS_SEL_EN a = true → exec (.avsStatusAlert a) s =
    .next { s with dev := ((s.dev.wr F.TW_AVS_STATUS_ALERT a 1).avsSend a .status) })
end

