-- ==== Sys2Proof/Laws/Board.lean ====
section
/-! SUPPORT. What the Board does with a train header that no check refuses. -/

namespace Sys2Proof.Machine

/-- The header opens its train: the instance is opened, its units are claimed. -/
theorem Dev.contribHeader_taken (e : Dev) (n : Nat) (p : Payload) (t : Train)
    (ht : t = { ctx := pbits p 51 8, inst := pbits p 0 16, member := pbits p 16 4, off := pbits p 20 12, nfl := pbits p 32 13 })
    (h : e.headerTaken n t = true) :
    e.contribHeader n p =
      (e.binstPut t.ctx t.inst { (e.binst t.ctx t.inst).opened e.gts with
        claimed := tset (fun _ => 0) (e.binst t.ctx t.inst).claimed t.member
          (tget (fun _ => 0) (e.binst t.ctx t.inst).claimed t.member ||| unitMask t.off t.nfl) }).trainPut n (some t) := by
  subst ht
  simp only [Dev.headerTaken, Bool.and_eq_true, decide_eq_true_eq] at h
  obtain ⟨⟨⟨⟨⟨⟨⟨⟨⟨⟨h1, h2⟩, h3⟩, h4⟩, h5⟩, h6⟩, h7⟩, h8⟩, h9⟩, h10⟩, h11⟩ := h
  have hn : e.train n = none := by simpa using h2
  have hs : ∀ f : Dev → Train → Dev, e.trainShort n f = e := by
    intro f
    unfold Dev.trainShort
    rw [hn]
  unfold Dev.contribHeader
  dsimp only
  rw [h1, hs, hs]
  rw [if_neg (by simp [h3]), if_neg (by simp [h4]), if_neg (by simp [h5]), if_neg (by simp [h6]), if_neg (by simp [h7]),
    if_neg (by simp [h8]), if_neg (fun h => h.elim h9 (Nat.not_lt.2 h10)), if_neg (by simp [h11])]

end Sys2Proof.Machine
end

