-- ==== Sys2Proof/Laws/State.lean ====
section
/-! SUPPORT. What each elementary update leaves of the state: one lemma per update and field. -/

namespace Sys2Proof.Machine

/-! ### wrw -/
@[simp] theorem Dev.wrw_mem (d : Dev) (a v : Nat) : (d.wrw a v).mem = d.mem := rfl
@[simp] theorem Dev.wrw_poison (d : Dev) (a v : Nat) : (d.wrw a v).poison = d.poison := rfl
@[simp] theorem Dev.wrw_wb (d : Dev) (a v : Nat) : (d.wrw a v).wb = d.wb := rfl
@[simp] theorem Dev.wrw_wbPend (d : Dev) (a v : Nat) : (d.wrw a v).wbPend = d.wbPend := rfl
@[simp] theorem Dev.wrw_gts (d : Dev) (a v : Nat) : (d.wrw a v).gts = d.gts := rfl
@[simp] theorem Dev.wrw_aont (d : Dev) (a v : Nat) : (d.wrw a v).aont = d.aont := rfl
@[simp] theorem Dev.wrw_sysOn (d : Dev) (a v : Nat) : (d.wrw a v).sysOn = d.sysOn := rfl
@[simp] theorem Dev.wrw_latch (d : Dev) (a v : Nat) : (d.wrw a v).latch = d.latch := rfl
@[simp] theorem Dev.wrw_wlow (d : Dev) (a v : Nat) : (d.wrw a v).wlow = d.wlow := rfl
@[simp] theorem Dev.wrw_out (d : Dev) (a v : Nat) : (d.wrw a v).out = d.out := rfl
@[simp] theorem Dev.wrw_freeCtr (d : Dev) (a v : Nat) : (d.wrw a v).freeCtr = d.freeCtr := rfl
@[simp] theorem Dev.wrw_ecc (d : Dev) (a v : Nat) : (d.wrw a v).ecc = d.ecc := rfl
@[simp] theorem Dev.wrw_arr (d : Dev) (a v : Nat) : (d.wrw a v).arr = d.arr := rfl
@[simp] theorem Dev.wrw_vl (d : Dev) (a v : Nat) : (d.wrw a v).vl = d.vl := rfl
@[simp] theorem Dev.wrw_sob (d : Dev) (a v : Nat) : (d.wrw a v).sob = d.sob := rfl
@[simp] theorem Dev.wrw_brd (d : Dev) (a v : Nat) : (d.wrw a v).brd = d.brd := rfl
@[simp] theorem Dev.wrw_pwr (d : Dev) (a v : Nat) : (d.wrw a v).pwr = d.pwr := rfl
@[simp] theorem Dev.wrw_oro (d : Dev) (a v : Nat) : (d.wrw a v).oro = d.oro := rfl
@[simp] theorem Dev.wrw_seq (d : Dev) (a v : Nat) : (d.wrw a v).seq = d.seq := rfl
@[simp] theorem Dev.wrw_cool (d : Dev) (a v : Nat) : (d.wrw a v).cool = d.cool := rfl
@[simp] theorem Dev.wrw_flt (d : Dev) (a v : Nat) : (d.wrw a v).flt = d.flt := rfl
@[simp] theorem Dev.wrw_boot (d : Dev) (a v : Nat) : (d.wrw a v).boot = d.boot := rfl
@[simp] theorem Dev.wrw_mbx (d : Dev) (a v : Nat) : (d.wrw a v).mbx = d.mbx := rfl
@[simp] theorem Dev.wrw_obs (d : Dev) (a v : Nat) : (d.wrw a v).obs = d.obs := rfl
@[simp] theorem Dev.wrw_tw (d : Dev) (a v : Nat) : (d.wrw a v).tw = d.tw := rfl
@[simp] theorem Dev.wrw_jtag (d : Dev) (a v : Nat) : (d.wrw a v).jtag = d.jtag := rfl

/-! ### wr -/
@[simp] theorem Dev.wr_mem (d : Dev) (f : Fld) (i v : Nat) : (d.wr f i v).mem = d.mem := rfl
@[simp] theorem Dev.wr_poison (d : Dev) (f : Fld) (i v : Nat) : (d.wr f i v).poison = d.poison := rfl
@[simp] theorem Dev.wr_wb (d : Dev) (f : Fld) (i v : Nat) : (d.wr f i v).wb = d.wb := rfl
@[simp] theorem Dev.wr_wbPend (d : Dev) (f : Fld) (i v : Nat) : (d.wr f i v).wbPend = d.wbPend := rfl
@[simp] theorem Dev.wr_gts (d : Dev) (f : Fld) (i v : Nat) : (d.wr f i v).gts = d.gts := rfl
@[simp] theorem Dev.wr_aont (d : Dev) (f : Fld) (i v : Nat) : (d.wr f i v).aont = d.aont := rfl
@[simp] theorem Dev.wr_sysOn (d : Dev) (f : Fld) (i v : Nat) : (d.wr f i v).sysOn = d.sysOn := rfl
@[simp] theorem Dev.wr_latch (d : Dev) (f : Fld) (i v : Nat) : (d.wr f i v).latch = d.latch := rfl
@[simp] theorem Dev.wr_wlow (d : Dev) (f : Fld) (i v : Nat) : (d.wr f i v).wlow = d.wlow := rfl
@[simp] theorem Dev.wr_out (d : Dev) (f : Fld) (i v : Nat) : (d.wr f i v).out = d.out := rfl
@[simp] theorem Dev.wr_freeCtr (d : Dev) (f : Fld) (i v : Nat) : (d.wr f i v).freeCtr = d.freeCtr := rfl
@[simp] theorem Dev.wr_ecc (d : Dev) (f : Fld) (i v : Nat) : (d.wr f i v).ecc = d.ecc := rfl
@[simp] theorem Dev.wr_arr (d : Dev) (f : Fld) (i v : Nat) : (d.wr f i v).arr = d.arr := rfl
@[simp] theorem Dev.wr_vl (d : Dev) (f : Fld) (i v : Nat) : (d.wr f i v).vl = d.vl := rfl
@[simp] theorem Dev.wr_sob (d : Dev) (f : Fld) (i v : Nat) : (d.wr f i v).sob = d.sob := rfl
@[simp] theorem Dev.wr_brd (d : Dev) (f : Fld) (i v : Nat) : (d.wr f i v).brd = d.brd := rfl
@[simp] theorem Dev.wr_pwr (d : Dev) (f : Fld) (i v : Nat) : (d.wr f i v).pwr = d.pwr := rfl
@[simp] theorem Dev.wr_oro (d : Dev) (f : Fld) (i v : Nat) : (d.wr f i v).oro = d.oro := rfl
@[simp] theorem Dev.wr_seq (d : Dev) (f : Fld) (i v : Nat) : (d.wr f i v).seq = d.seq := rfl
@[simp] theorem Dev.wr_cool (d : Dev) (f : Fld) (i v : Nat) : (d.wr f i v).cool = d.cool := rfl
@[simp] theorem Dev.wr_flt (d : Dev) (f : Fld) (i v : Nat) : (d.wr f i v).flt = d.flt := rfl
@[simp] theorem Dev.wr_boot (d : Dev) (f : Fld) (i v : Nat) : (d.wr f i v).boot = d.boot := rfl
@[simp] theorem Dev.wr_mbx (d : Dev) (f : Fld) (i v : Nat) : (d.wr f i v).mbx = d.mbx := rfl
@[simp] theorem Dev.wr_obs (d : Dev) (f : Fld) (i v : Nat) : (d.wr f i v).obs = d.obs := rfl
@[simp] theorem Dev.wr_tw (d : Dev) (f : Fld) (i v : Nat) : (d.wr f i v).tw = d.tw := rfl
@[simp] theorem Dev.wr_jtag (d : Dev) (f : Fld) (i v : Nat) : (d.wr f i v).jtag = d.jtag := rfl

/-! ### wrBit -/
@[simp] theorem Dev.wrBit_mem (d : Dev) (f : Fld) (i k : Nat) (b : Bool) : (d.wrBit f i k b).mem = d.mem := rfl
@[simp] theorem Dev.wrBit_poison (d : Dev) (f : Fld) (i k : Nat) (b : Bool) : (d.wrBit f i k b).poison = d.poison := rfl
@[simp] theorem Dev.wrBit_wb (d : Dev) (f : Fld) (i k : Nat) (b : Bool) : (d.wrBit f i k b).wb = d.wb := rfl
@[simp] theorem Dev.wrBit_wbPend (d : Dev) (f : Fld) (i k : Nat) (b : Bool) : (d.wrBit f i k b).wbPend = d.wbPend := rfl
@[simp] theorem Dev.wrBit_gts (d : Dev) (f : Fld) (i k : Nat) (b : Bool) : (d.wrBit f i k b).gts = d.gts := rfl
@[simp] theorem Dev.wrBit_aont (d : Dev) (f : Fld) (i k : Nat) (b : Bool) : (d.wrBit f i k b).aont = d.aont := rfl
@[simp] theorem Dev.wrBit_sysOn (d : Dev) (f : Fld) (i k : Nat) (b : Bool) : (d.wrBit f i k b).sysOn = d.sysOn := rfl
@[simp] theorem Dev.wrBit_latch (d : Dev) (f : Fld) (i k : Nat) (b : Bool) : (d.wrBit f i k b).latch = d.latch := rfl
@[simp] theorem Dev.wrBit_wlow (d : Dev) (f : Fld) (i k : Nat) (b : Bool) : (d.wrBit f i k b).wlow = d.wlow := rfl
@[simp] theorem Dev.wrBit_out (d : Dev) (f : Fld) (i k : Nat) (b : Bool) : (d.wrBit f i k b).out = d.out := rfl
@[simp] theorem Dev.wrBit_freeCtr (d : Dev) (f : Fld) (i k : Nat) (b : Bool) : (d.wrBit f i k b).freeCtr = d.freeCtr := rfl
@[simp] theorem Dev.wrBit_ecc (d : Dev) (f : Fld) (i k : Nat) (b : Bool) : (d.wrBit f i k b).ecc = d.ecc := rfl
@[simp] theorem Dev.wrBit_arr (d : Dev) (f : Fld) (i k : Nat) (b : Bool) : (d.wrBit f i k b).arr = d.arr := rfl
@[simp] theorem Dev.wrBit_vl (d : Dev) (f : Fld) (i k : Nat) (b : Bool) : (d.wrBit f i k b).vl = d.vl := rfl
@[simp] theorem Dev.wrBit_sob (d : Dev) (f : Fld) (i k : Nat) (b : Bool) : (d.wrBit f i k b).sob = d.sob := rfl
@[simp] theorem Dev.wrBit_brd (d : Dev) (f : Fld) (i k : Nat) (b : Bool) : (d.wrBit f i k b).brd = d.brd := rfl
@[simp] theorem Dev.wrBit_pwr (d : Dev) (f : Fld) (i k : Nat) (b : Bool) : (d.wrBit f i k b).pwr = d.pwr := rfl
@[simp] theorem Dev.wrBit_oro (d : Dev) (f : Fld) (i k : Nat) (b : Bool) : (d.wrBit f i k b).oro = d.oro := rfl
@[simp] theorem Dev.wrBit_seq (d : Dev) (f : Fld) (i k : Nat) (b : Bool) : (d.wrBit f i k b).seq = d.seq := rfl
@[simp] theorem Dev.wrBit_cool (d : Dev) (f : Fld) (i k : Nat) (b : Bool) : (d.wrBit f i k b).cool = d.cool := rfl
@[simp] theorem Dev.wrBit_flt (d : Dev) (f : Fld) (i k : Nat) (b : Bool) : (d.wrBit f i k b).flt = d.flt := rfl
@[simp] theorem Dev.wrBit_boot (d : Dev) (f : Fld) (i k : Nat) (b : Bool) : (d.wrBit f i k b).boot = d.boot := rfl
@[simp] theorem Dev.wrBit_mbx (d : Dev) (f : Fld) (i k : Nat) (b : Bool) : (d.wrBit f i k b).mbx = d.mbx := rfl
@[simp] theorem Dev.wrBit_obs (d : Dev) (f : Fld) (i k : Nat) (b : Bool) : (d.wrBit f i k b).obs = d.obs := rfl
@[simp] theorem Dev.wrBit_tw (d : Dev) (f : Fld) (i k : Nat) (b : Bool) : (d.wrBit f i k b).tw = d.tw := rfl
@[simp] theorem Dev.wrBit_jtag (d : Dev) (f : Fld) (i k : Nat) (b : Bool) : (d.wrBit f i k b).jtag = d.jtag := rfl

/-! ### inc -/
@[simp] theorem Dev.inc_mem (d : Dev) (f : Fld) (i n : Nat) : (d.inc f i n).mem = d.mem := rfl
@[simp] theorem Dev.inc_poison (d : Dev) (f : Fld) (i n : Nat) : (d.inc f i n).poison = d.poison := rfl
@[simp] theorem Dev.inc_wb (d : Dev) (f : Fld) (i n : Nat) : (d.inc f i n).wb = d.wb := rfl
@[simp] theorem Dev.inc_wbPend (d : Dev) (f : Fld) (i n : Nat) : (d.inc f i n).wbPend = d.wbPend := rfl
@[simp] theorem Dev.inc_gts (d : Dev) (f : Fld) (i n : Nat) : (d.inc f i n).gts = d.gts := rfl
@[simp] theorem Dev.inc_aont (d : Dev) (f : Fld) (i n : Nat) : (d.inc f i n).aont = d.aont := rfl
@[simp] theorem Dev.inc_sysOn (d : Dev) (f : Fld) (i n : Nat) : (d.inc f i n).sysOn = d.sysOn := rfl
@[simp] theorem Dev.inc_latch (d : Dev) (f : Fld) (i n : Nat) : (d.inc f i n).latch = d.latch := rfl
@[simp] theorem Dev.inc_wlow (d : Dev) (f : Fld) (i n : Nat) : (d.inc f i n).wlow = d.wlow := rfl
@[simp] theorem Dev.inc_out (d : Dev) (f : Fld) (i n : Nat) : (d.inc f i n).out = d.out := rfl
@[simp] theorem Dev.inc_freeCtr (d : Dev) (f : Fld) (i n : Nat) : (d.inc f i n).freeCtr = d.freeCtr := rfl
@[simp] theorem Dev.inc_ecc (d : Dev) (f : Fld) (i n : Nat) : (d.inc f i n).ecc = d.ecc := rfl
@[simp] theorem Dev.inc_arr (d : Dev) (f : Fld) (i n : Nat) : (d.inc f i n).arr = d.arr := rfl
@[simp] theorem Dev.inc_vl (d : Dev) (f : Fld) (i n : Nat) : (d.inc f i n).vl = d.vl := rfl
@[simp] theorem Dev.inc_sob (d : Dev) (f : Fld) (i n : Nat) : (d.inc f i n).sob = d.sob := rfl
@[simp] theorem Dev.inc_brd (d : Dev) (f : Fld) (i n : Nat) : (d.inc f i n).brd = d.brd := rfl
@[simp] theorem Dev.inc_pwr (d : Dev) (f : Fld) (i n : Nat) : (d.inc f i n).pwr = d.pwr := rfl
@[simp] theorem Dev.inc_oro (d : Dev) (f : Fld) (i n : Nat) : (d.inc f i n).oro = d.oro := rfl
@[simp] theorem Dev.inc_seq (d : Dev) (f : Fld) (i n : Nat) : (d.inc f i n).seq = d.seq := rfl
@[simp] theorem Dev.inc_cool (d : Dev) (f : Fld) (i n : Nat) : (d.inc f i n).cool = d.cool := rfl
@[simp] theorem Dev.inc_flt (d : Dev) (f : Fld) (i n : Nat) : (d.inc f i n).flt = d.flt := rfl
@[simp] theorem Dev.inc_boot (d : Dev) (f : Fld) (i n : Nat) : (d.inc f i n).boot = d.boot := rfl
@[simp] theorem Dev.inc_mbx (d : Dev) (f : Fld) (i n : Nat) : (d.inc f i n).mbx = d.mbx := rfl
@[simp] theorem Dev.inc_obs (d : Dev) (f : Fld) (i n : Nat) : (d.inc f i n).obs = d.obs := rfl
@[simp] theorem Dev.inc_tw (d : Dev) (f : Fld) (i n : Nat) : (d.inc f i n).tw = d.tw := rfl
@[simp] theorem Dev.inc_jtag (d : Dev) (f : Fld) (i n : Nat) : (d.inc f i n).jtag = d.jtag := rfl

/-! ### incW -/
@[simp] theorem Dev.incW_mem (d : Dev) (f : Fld) (i n : Nat) : (d.incW f i n).mem = d.mem := rfl
@[simp] theorem Dev.incW_poison (d : Dev) (f : Fld) (i n : Nat) : (d.incW f i n).poison = d.poison := rfl
@[simp] theorem Dev.incW_wb (d : Dev) (f : Fld) (i n : Nat) : (d.incW f i n).wb = d.wb := rfl
@[simp] theorem Dev.incW_wbPend (d : Dev) (f : Fld) (i n : Nat) : (d.incW f i n).wbPend = d.wbPend := rfl
@[simp] theorem Dev.incW_gts (d : Dev) (f : Fld) (i n : Nat) : (d.incW f i n).gts = d.gts := rfl
@[simp] theorem Dev.incW_aont (d : Dev) (f : Fld) (i n : Nat) : (d.incW f i n).aont = d.aont := rfl
@[simp] theorem Dev.incW_sysOn (d : Dev) (f : Fld) (i n : Nat) : (d.incW f i n).sysOn = d.sysOn := rfl
@[simp] theorem Dev.incW_latch (d : Dev) (f : Fld) (i n : Nat) : (d.incW f i n).latch = d.latch := rfl
@[simp] theorem Dev.incW_wlow (d : Dev) (f : Fld) (i n : Nat) : (d.incW f i n).wlow = d.wlow := rfl
@[simp] theorem Dev.incW_out (d : Dev) (f : Fld) (i n : Nat) : (d.incW f i n).out = d.out := rfl
@[simp] theorem Dev.incW_freeCtr (d : Dev) (f : Fld) (i n : Nat) : (d.incW f i n).freeCtr = d.freeCtr := rfl
@[simp] theorem Dev.incW_ecc (d : Dev) (f : Fld) (i n : Nat) : (d.incW f i n).ecc = d.ecc := rfl
@[simp] theorem Dev.incW_arr (d : Dev) (f : Fld) (i n : Nat) : (d.incW f i n).arr = d.arr := rfl
@[simp] theorem Dev.incW_vl (d : Dev) (f : Fld) (i n : Nat) : (d.incW f i n).vl = d.vl := rfl
@[simp] theorem Dev.incW_sob (d : Dev) (f : Fld) (i n : Nat) : (d.incW f i n).sob = d.sob := rfl
@[simp] theorem Dev.incW_brd (d : Dev) (f : Fld) (i n : Nat) : (d.incW f i n).brd = d.brd := rfl
@[simp] theorem Dev.incW_pwr (d : Dev) (f : Fld) (i n : Nat) : (d.incW f i n).pwr = d.pwr := rfl
@[simp] theorem Dev.incW_oro (d : Dev) (f : Fld) (i n : Nat) : (d.incW f i n).oro = d.oro := rfl
@[simp] theorem Dev.incW_seq (d : Dev) (f : Fld) (i n : Nat) : (d.incW f i n).seq = d.seq := rfl
@[simp] theorem Dev.incW_cool (d : Dev) (f : Fld) (i n : Nat) : (d.incW f i n).cool = d.cool := rfl
@[simp] theorem Dev.incW_flt (d : Dev) (f : Fld) (i n : Nat) : (d.incW f i n).flt = d.flt := rfl
@[simp] theorem Dev.incW_boot (d : Dev) (f : Fld) (i n : Nat) : (d.incW f i n).boot = d.boot := rfl
@[simp] theorem Dev.incW_mbx (d : Dev) (f : Fld) (i n : Nat) : (d.incW f i n).mbx = d.mbx := rfl
@[simp] theorem Dev.incW_obs (d : Dev) (f : Fld) (i n : Nat) : (d.incW f i n).obs = d.obs := rfl
@[simp] theorem Dev.incW_tw (d : Dev) (f : Fld) (i n : Nat) : (d.incW f i n).tw = d.tw := rfl
@[simp] theorem Dev.incW_jtag (d : Dev) (f : Fld) (i n : Nat) : (d.incW f i n).jtag = d.jtag := rfl

/-! ### wr64 -/
@[simp] theorem Dev.wr64_mem (d : Dev) (f : Fld) (i v : Nat) : (d.wr64 f i v).mem = d.mem := rfl
@[simp] theorem Dev.wr64_poison (d : Dev) (f : Fld) (i v : Nat) : (d.wr64 f i v).poison = d.poison := rfl
@[simp] theorem Dev.wr64_wb (d : Dev) (f : Fld) (i v : Nat) : (d.wr64 f i v).wb = d.wb := rfl
@[simp] theorem Dev.wr64_wbPend (d : Dev) (f : Fld) (i v : Nat) : (d.wr64 f i v).wbPend = d.wbPend := rfl
@[simp] theorem Dev.wr64_gts (d : Dev) (f : Fld) (i v : Nat) : (d.wr64 f i v).gts = d.gts := rfl
@[simp] theorem Dev.wr64_aont (d : Dev) (f : Fld) (i v : Nat) : (d.wr64 f i v).aont = d.aont := rfl
@[simp] theorem Dev.wr64_sysOn (d : Dev) (f : Fld) (i v : Nat) : (d.wr64 f i v).sysOn = d.sysOn := rfl
@[simp] theorem Dev.wr64_latch (d : Dev) (f : Fld) (i v : Nat) : (d.wr64 f i v).latch = d.latch := rfl
@[simp] theorem Dev.wr64_wlow (d : Dev) (f : Fld) (i v : Nat) : (d.wr64 f i v).wlow = d.wlow := rfl
@[simp] theorem Dev.wr64_out (d : Dev) (f : Fld) (i v : Nat) : (d.wr64 f i v).out = d.out := rfl
@[simp] theorem Dev.wr64_freeCtr (d : Dev) (f : Fld) (i v : Nat) : (d.wr64 f i v).freeCtr = d.freeCtr := rfl
@[simp] theorem Dev.wr64_ecc (d : Dev) (f : Fld) (i v : Nat) : (d.wr64 f i v).ecc = d.ecc := rfl
@[simp] theorem Dev.wr64_arr (d : Dev) (f : Fld) (i v : Nat) : (d.wr64 f i v).arr = d.arr := rfl
@[simp] theorem Dev.wr64_vl (d : Dev) (f : Fld) (i v : Nat) : (d.wr64 f i v).vl = d.vl := rfl
@[simp] theorem Dev.wr64_sob (d : Dev) (f : Fld) (i v : Nat) : (d.wr64 f i v).sob = d.sob := rfl
@[simp] theorem Dev.wr64_brd (d : Dev) (f : Fld) (i v : Nat) : (d.wr64 f i v).brd = d.brd := rfl
@[simp] theorem Dev.wr64_pwr (d : Dev) (f : Fld) (i v : Nat) : (d.wr64 f i v).pwr = d.pwr := rfl
@[simp] theorem Dev.wr64_oro (d : Dev) (f : Fld) (i v : Nat) : (d.wr64 f i v).oro = d.oro := rfl
@[simp] theorem Dev.wr64_seq (d : Dev) (f : Fld) (i v : Nat) : (d.wr64 f i v).seq = d.seq := rfl
@[simp] theorem Dev.wr64_cool (d : Dev) (f : Fld) (i v : Nat) : (d.wr64 f i v).cool = d.cool := rfl
@[simp] theorem Dev.wr64_flt (d : Dev) (f : Fld) (i v : Nat) : (d.wr64 f i v).flt = d.flt := rfl
@[simp] theorem Dev.wr64_boot (d : Dev) (f : Fld) (i v : Nat) : (d.wr64 f i v).boot = d.boot := rfl
@[simp] theorem Dev.wr64_mbx (d : Dev) (f : Fld) (i v : Nat) : (d.wr64 f i v).mbx = d.mbx := rfl
@[simp] theorem Dev.wr64_obs (d : Dev) (f : Fld) (i v : Nat) : (d.wr64 f i v).obs = d.obs := rfl
@[simp] theorem Dev.wr64_tw (d : Dev) (f : Fld) (i v : Nat) : (d.wr64 f i v).tw = d.tw := rfl
@[simp] theorem Dev.wr64_jtag (d : Dev) (f : Fld) (i v : Nat) : (d.wr64 f i v).jtag = d.jtag := rfl

/-! ### resetRegs -/
@[simp] theorem Dev.resetRegs_mem (d : Dev) (lo hi : Nat) : (d.resetRegs lo hi).mem = d.mem := rfl
@[simp] theorem Dev.resetRegs_poison (d : Dev) (lo hi : Nat) : (d.resetRegs lo hi).poison = d.poison := rfl
@[simp] theorem Dev.resetRegs_wb (d : Dev) (lo hi : Nat) : (d.resetRegs lo hi).wb = d.wb := rfl
@[simp] theorem Dev.resetRegs_wbPend (d : Dev) (lo hi : Nat) : (d.resetRegs lo hi).wbPend = d.wbPend := rfl
@[simp] theorem Dev.resetRegs_gts (d : Dev) (lo hi : Nat) : (d.resetRegs lo hi).gts = d.gts := rfl
@[simp] theorem Dev.resetRegs_aont (d : Dev) (lo hi : Nat) : (d.resetRegs lo hi).aont = d.aont := rfl
@[simp] theorem Dev.resetRegs_sysOn (d : Dev) (lo hi : Nat) : (d.resetRegs lo hi).sysOn = d.sysOn := rfl
@[simp] theorem Dev.resetRegs_latch (d : Dev) (lo hi : Nat) : (d.resetRegs lo hi).latch = d.latch := rfl
@[simp] theorem Dev.resetRegs_wlow (d : Dev) (lo hi : Nat) : (d.resetRegs lo hi).wlow = d.wlow := rfl
@[simp] theorem Dev.resetRegs_out (d : Dev) (lo hi : Nat) : (d.resetRegs lo hi).out = d.out := rfl
@[simp] theorem Dev.resetRegs_freeCtr (d : Dev) (lo hi : Nat) : (d.resetRegs lo hi).freeCtr = d.freeCtr := rfl
@[simp] theorem Dev.resetRegs_ecc (d : Dev) (lo hi : Nat) : (d.resetRegs lo hi).ecc = d.ecc := rfl
@[simp] theorem Dev.resetRegs_arr (d : Dev) (lo hi : Nat) : (d.resetRegs lo hi).arr = d.arr := rfl
@[simp] theorem Dev.resetRegs_vl (d : Dev) (lo hi : Nat) : (d.resetRegs lo hi).vl = d.vl := rfl
@[simp] theorem Dev.resetRegs_sob (d : Dev) (lo hi : Nat) : (d.resetRegs lo hi).sob = d.sob := rfl
@[simp] theorem Dev.resetRegs_brd (d : Dev) (lo hi : Nat) : (d.resetRegs lo hi).brd = d.brd := rfl
@[simp] theorem Dev.resetRegs_pwr (d : Dev) (lo hi : Nat) : (d.resetRegs lo hi).pwr = d.pwr := rfl
@[simp] theorem Dev.resetRegs_oro (d : Dev) (lo hi : Nat) : (d.resetRegs lo hi).oro = d.oro := rfl
@[simp] theorem Dev.resetRegs_seq (d : Dev) (lo hi : Nat) : (d.resetRegs lo hi).seq = d.seq := rfl
@[simp] theorem Dev.resetRegs_cool (d : Dev) (lo hi : Nat) : (d.resetRegs lo hi).cool = d.cool := rfl
@[simp] theorem Dev.resetRegs_flt (d : Dev) (lo hi : Nat) : (d.resetRegs lo hi).flt = d.flt := rfl
@[simp] theorem Dev.resetRegs_boot (d : Dev) (lo hi : Nat) : (d.resetRegs lo hi).boot = d.boot := rfl
@[simp] theorem Dev.resetRegs_mbx (d : Dev) (lo hi : Nat) : (d.resetRegs lo hi).mbx = d.mbx := rfl
@[simp] theorem Dev.resetRegs_obs (d : Dev) (lo hi : Nat) : (d.resetRegs lo hi).obs = d.obs := rfl
@[simp] theorem Dev.resetRegs_tw (d : Dev) (lo hi : Nat) : (d.resetRegs lo hi).tw = d.tw := rfl
@[simp] theorem Dev.resetRegs_jtag (d : Dev) (lo hi : Nat) : (d.resetRegs lo hi).jtag = d.jtag := rfl

/-! ### emit -/
@[simp] theorem Dev.emit_regs (d : Dev) (o : Out) : (d.emit o).regs = d.regs := rfl
@[simp] theorem Dev.emit_mem (d : Dev) (o : Out) : (d.emit o).mem = d.mem := rfl
@[simp] theorem Dev.emit_poison (d : Dev) (o : Out) : (d.emit o).poison = d.poison := rfl
@[simp] theorem Dev.emit_wb (d : Dev) (o : Out) : (d.emit o).wb = d.wb := rfl
@[simp] theorem Dev.emit_wbPend (d : Dev) (o : Out) : (d.emit o).wbPend = d.wbPend := rfl
@[simp] theorem Dev.emit_gts (d : Dev) (o : Out) : (d.emit o).gts = d.gts := rfl
@[simp] theorem Dev.emit_aont (d : Dev) (o : Out) : (d.emit o).aont = d.aont := rfl
@[simp] theorem Dev.emit_sysOn (d : Dev) (o : Out) : (d.emit o).sysOn = d.sysOn := rfl
@[simp] theorem Dev.emit_latch (d : Dev) (o : Out) : (d.emit o).latch = d.latch := rfl
@[simp] theorem Dev.emit_wlow (d : Dev) (o : Out) : (d.emit o).wlow = d.wlow := rfl
@[simp] theorem Dev.emit_freeCtr (d : Dev) (o : Out) : (d.emit o).freeCtr = d.freeCtr := rfl
@[simp] theorem Dev.emit_ecc (d : Dev) (o : Out) : (d.emit o).ecc = d.ecc := rfl
@[simp] theorem Dev.emit_arr (d : Dev) (o : Out) : (d.emit o).arr = d.arr := rfl
@[simp] theorem Dev.emit_vl (d : Dev) (o : Out) : (d.emit o).vl = d.vl := rfl
@[simp] theorem Dev.emit_sob (d : Dev) (o : Out) : (d.emit o).sob = d.sob := rfl
@[simp] theorem Dev.emit_brd (d : Dev) (o : Out) : (d.emit o).brd = d.brd := rfl
@[simp] theorem Dev.emit_pwr (d : Dev) (o : Out) : (d.emit o).pwr = d.pwr := rfl
@[simp] theorem Dev.emit_oro (d : Dev) (o : Out) : (d.emit o).oro = d.oro := rfl
@[simp] theorem Dev.emit_seq (d : Dev) (o : Out) : (d.emit o).seq = d.seq := rfl
@[simp] theorem Dev.emit_cool (d : Dev) (o : Out) : (d.emit o).cool = d.cool := rfl
@[simp] theorem Dev.emit_flt (d : Dev) (o : Out) : (d.emit o).flt = d.flt := rfl
@[simp] theorem Dev.emit_boot (d : Dev) (o : Out) : (d.emit o).boot = d.boot := rfl
@[simp] theorem Dev.emit_mbx (d : Dev) (o : Out) : (d.emit o).mbx = d.mbx := rfl
@[simp] theorem Dev.emit_obs (d : Dev) (o : Out) : (d.emit o).obs = d.obs := rfl
@[simp] theorem Dev.emit_tw (d : Dev) (o : Out) : (d.emit o).tw = d.tw := rfl
@[simp] theorem Dev.emit_jtag (d : Dev) (o : Out) : (d.emit o).jtag = d.jtag := rfl

/-! ### setPoison -/
@[simp] theorem Dev.setPoison_regs (d : Dev) (m : Space) (a : Nat) (p : Bool) : (d.setPoison m a p).regs = d.regs := rfl
@[simp] theorem Dev.setPoison_mem (d : Dev) (m : Space) (a : Nat) (p : Bool) : (d.setPoison m a p).mem = d.mem := rfl
@[simp] theorem Dev.setPoison_wb (d : Dev) (m : Space) (a : Nat) (p : Bool) : (d.setPoison m a p).wb = d.wb := rfl
@[simp] theorem Dev.setPoison_wbPend (d : Dev) (m : Space) (a : Nat) (p : Bool) : (d.setPoison m a p).wbPend = d.wbPend := rfl
@[simp] theorem Dev.setPoison_gts (d : Dev) (m : Space) (a : Nat) (p : Bool) : (d.setPoison m a p).gts = d.gts := rfl
@[simp] theorem Dev.setPoison_aont (d : Dev) (m : Space) (a : Nat) (p : Bool) : (d.setPoison m a p).aont = d.aont := rfl
@[simp] theorem Dev.setPoison_sysOn (d : Dev) (m : Space) (a : Nat) (p : Bool) : (d.setPoison m a p).sysOn = d.sysOn := rfl
@[simp] theorem Dev.setPoison_latch (d : Dev) (m : Space) (a : Nat) (p : Bool) : (d.setPoison m a p).latch = d.latch := rfl
@[simp] theorem Dev.setPoison_wlow (d : Dev) (m : Space) (a : Nat) (p : Bool) : (d.setPoison m a p).wlow = d.wlow := rfl
@[simp] theorem Dev.setPoison_out (d : Dev) (m : Space) (a : Nat) (p : Bool) : (d.setPoison m a p).out = d.out := rfl
@[simp] theorem Dev.setPoison_freeCtr (d : Dev) (m : Space) (a : Nat) (p : Bool) : (d.setPoison m a p).freeCtr = d.freeCtr := rfl
@[simp] theorem Dev.setPoison_ecc (d : Dev) (m : Space) (a : Nat) (p : Bool) : (d.setPoison m a p).ecc = d.ecc := rfl
@[simp] theorem Dev.setPoison_arr (d : Dev) (m : Space) (a : Nat) (p : Bool) : (d.setPoison m a p).arr = d.arr := rfl
@[simp] theorem Dev.setPoison_vl (d : Dev) (m : Space) (a : Nat) (p : Bool) : (d.setPoison m a p).vl = d.vl := rfl
@[simp] theorem Dev.setPoison_sob (d : Dev) (m : Space) (a : Nat) (p : Bool) : (d.setPoison m a p).sob = d.sob := rfl
@[simp] theorem Dev.setPoison_brd (d : Dev) (m : Space) (a : Nat) (p : Bool) : (d.setPoison m a p).brd = d.brd := rfl
@[simp] theorem Dev.setPoison_pwr (d : Dev) (m : Space) (a : Nat) (p : Bool) : (d.setPoison m a p).pwr = d.pwr := rfl
@[simp] theorem Dev.setPoison_oro (d : Dev) (m : Space) (a : Nat) (p : Bool) : (d.setPoison m a p).oro = d.oro := rfl
@[simp] theorem Dev.setPoison_seq (d : Dev) (m : Space) (a : Nat) (p : Bool) : (d.setPoison m a p).seq = d.seq := rfl
@[simp] theorem Dev.setPoison_cool (d : Dev) (m : Space) (a : Nat) (p : Bool) : (d.setPoison m a p).cool = d.cool := rfl
@[simp] theorem Dev.setPoison_flt (d : Dev) (m : Space) (a : Nat) (p : Bool) : (d.setPoison m a p).flt = d.flt := rfl
@[simp] theorem Dev.setPoison_boot (d : Dev) (m : Space) (a : Nat) (p : Bool) : (d.setPoison m a p).boot = d.boot := rfl
@[simp] theorem Dev.setPoison_mbx (d : Dev) (m : Space) (a : Nat) (p : Bool) : (d.setPoison m a p).mbx = d.mbx := rfl
@[simp] theorem Dev.setPoison_obs (d : Dev) (m : Space) (a : Nat) (p : Bool) : (d.setPoison m a p).obs = d.obs := rfl
@[simp] theorem Dev.setPoison_tw (d : Dev) (m : Space) (a : Nat) (p : Bool) : (d.setPoison m a p).tw = d.tw := rfl
@[simp] theorem Dev.setPoison_jtag (d : Dev) (m : Space) (a : Nat) (p : Bool) : (d.setPoison m a p).jtag = d.jtag := rfl

/-! ### clearRange -/
@[simp] theorem Dev.clearRange_regs (d : Dev) (m : Space) (a n : Nat) : (d.clearRange m a n).regs = d.regs := rfl
@[simp] theorem Dev.clearRange_gts (d : Dev) (m : Space) (a n : Nat) : (d.clearRange m a n).gts = d.gts := rfl
@[simp] theorem Dev.clearRange_aont (d : Dev) (m : Space) (a n : Nat) : (d.clearRange m a n).aont = d.aont := rfl
@[simp] theorem Dev.clearRange_sysOn (d : Dev) (m : Space) (a n : Nat) : (d.clearRange m a n).sysOn = d.sysOn := rfl
@[simp] theorem Dev.clearRange_latch (d : Dev) (m : Space) (a n : Nat) : (d.clearRange m a n).latch = d.latch := rfl
@[simp] theorem Dev.clearRange_wlow (d : Dev) (m : Space) (a n : Nat) : (d.clearRange m a n).wlow = d.wlow := rfl
@[simp] theorem Dev.clearRange_out (d : Dev) (m : Space) (a n : Nat) : (d.clearRange m a n).out = d.out := rfl
@[simp] theorem Dev.clearRange_freeCtr (d : Dev) (m : Space) (a n : Nat) : (d.clearRange m a n).freeCtr = d.freeCtr := rfl
@[simp] theorem Dev.clearRange_ecc (d : Dev) (m : Space) (a n : Nat) : (d.clearRange m a n).ecc = d.ecc := rfl
@[simp] theorem Dev.clearRange_arr (d : Dev) (m : Space) (a n : Nat) : (d.clearRange m a n).arr = d.arr := rfl
@[simp] theorem Dev.clearRange_vl (d : Dev) (m : Space) (a n : Nat) : (d.clearRange m a n).vl = d.vl := rfl
@[simp] theorem Dev.clearRange_sob (d : Dev) (m : Space) (a n : Nat) : (d.clearRange m a n).sob = d.sob := rfl
@[simp] theorem Dev.clearRange_brd (d : Dev) (m : Space) (a n : Nat) : (d.clearRange m a n).brd = d.brd := rfl
@[simp] theorem Dev.clearRange_pwr (d : Dev) (m : Space) (a n : Nat) : (d.clearRange m a n).pwr = d.pwr := rfl
@[simp] theorem Dev.clearRange_oro (d : Dev) (m : Space) (a n : Nat) : (d.clearRange m a n).oro = d.oro := rfl
@[simp] theorem Dev.clearRange_seq (d : Dev) (m : Space) (a n : Nat) : (d.clearRange m a n).seq = d.seq := rfl
@[simp] theorem Dev.clearRange_cool (d : Dev) (m : Space) (a n : Nat) : (d.clearRange m a n).cool = d.cool := rfl
@[simp] theorem Dev.clearRange_flt (d : Dev) (m : Space) (a n : Nat) : (d.clearRange m a n).flt = d.flt := rfl
@[simp] theorem Dev.clearRange_boot (d : Dev) (m : Space) (a n : Nat) : (d.clearRange m a n).boot = d.boot := rfl
@[simp] theorem Dev.clearRange_mbx (d : Dev) (m : Space) (a n : Nat) : (d.clearRange m a n).mbx = d.mbx := rfl
@[simp] theorem Dev.clearRange_obs (d : Dev) (m : Space) (a n : Nat) : (d.clearRange m a n).obs = d.obs := rfl
@[simp] theorem Dev.clearRange_tw (d : Dev) (m : Space) (a n : Nat) : (d.clearRange m a n).tw = d.tw := rfl
@[simp] theorem Dev.clearRange_jtag (d : Dev) (m : Space) (a n : Nat) : (d.clearRange m a n).jtag = d.jtag := rfl

/-! ### State.run -/
@[simp] theorem State.run_eq (s : State) (f : Dev → Dev) : s.run f = .next { s with dev := f s.dev } := rfl

end Sys2Proof.Machine
end

