-- ==== Sys2Proof/Laws/Table.lean ====
section
/-! SUPPORT. Laws of the sparse tables: reading after a write, and that the canonical form is kept. -/

namespace Sys2Proof.Machine

variable {α : Type}

theorem tget_tdel_same (d : Nat → α) (l : List (Nat × α)) (k : Nat) : tget d (tdel l k) k = d k := by
  induction l with
  | nil => rfl
  | cons p l ih =>
    obtain ⟨a, v⟩ := p
    by_cases h : k = a
    · simp [tdel, h]; rw [← h]; exact ih
    · simp [tdel, tget, h, ih]

theorem tget_tdel_other (d : Nat → α) (l : List (Nat × α)) (k j : Nat) (h : j ≠ k) : tget d (tdel l k) j = tget d l j := by
  induction l with
  | nil => rfl
  | cons p l ih =>
    obtain ⟨a, v⟩ := p
    by_cases hk : k = a
    · subst hk; simp [tdel, tget, h, ih]
    · simp [tdel, tget, hk, ih]

theorem tget_tins_same (d : Nat → α) (l : List (Nat × α)) (k : Nat) (v : α) (hl : ∀ p ∈ l, p.1 ≠ k) :
    tget d (tins l k v) k = v := by
  induction l with
  | nil => simp [tins, tget]
  | cons p l ih =>
    obtain ⟨a, w⟩ := p
    have ha : k ≠ a := fun h => hl (a, w) (by simp) h.symm
    by_cases hk : k < a
    · simp [tins, tget, hk]
    · simp [tins, tget, hk, ha]; exact ih fun p hp => hl p (by simp [hp])

theorem tget_tins_other (d : Nat → α) (l : List (Nat × α)) (k j : Nat) (v : α) (h : j ≠ k) :
    tget d (tins l k v) j = tget d l j := by
  induction l with
  | nil => simp [tins, tget, h]
  | cons p l ih =>
    obtain ⟨a, w⟩ := p
    by_cases hk : k < a
    · simp [tins, tget, hk, h]
    · simp [tins, tget, hk, ih]

theorem tdel_ne (l : List (Nat × α)) (k : Nat) : ∀ p ∈ tdel l k, p.1 ≠ k := by
  induction l with
  | nil => simp [tdel]
  | cons p l ih =>
    obtain ⟨a, v⟩ := p
    by_cases hk : k = a
    · simp only [tdel, if_pos hk]; exact ih
    · intro q hq
      simp [tdel, hk] at hq
      rcases hq with rfl | hq
      · exact fun h => hk h.symm
      · exact ih q hq

/-- Reading the key just written. -/
@[simp] theorem tget_tset_same [DecidableEq α] (d : Nat → α) (l : List (Nat × α)) (k : Nat) (v : α) :
    tget d (tset d l k v) k = v := by
  unfold tset
  split
  · rename_i h; rw [tget_tdel_same, h]
  · exact tget_tins_same d _ k v (tdel_ne l k)

theorem tdel_tins_same (l : List (Nat × α)) (k : Nat) (v : α) : tdel (tins l k v) k = tdel l k := by
  induction l with
  | nil => simp [tins, tdel]
  | cons p l ih =>
    obtain ⟨a, w⟩ := p
    by_cases h : k < a
    · simp [tins, tdel, h]
    · by_cases e : k = a <;> simp [tins, tdel, h, e, ih]
      subst e; exact ih

theorem tdel_tdel_same (l : List (Nat × α)) (k : Nat) : tdel (tdel l k) k = tdel l k := by
  induction l with
  | nil => rfl
  | cons p l ih =>
    obtain ⟨a, w⟩ := p
    by_cases e : k = a <;> simp [tdel, e, ih]
    subst e; exact ih

/-- The later of two writes of one key stays. -/
theorem tset_tset_same [DecidableEq α] (d : Nat → α) (l : List (Nat × α)) (k : Nat) (v w : α) :
    tset d (tset d l k v) k w = tset d l k w := by
  have h : tdel (tset d l k v) k = tdel l k := by
    unfold tset
    split
    · exact tdel_tdel_same l k
    · rw [tdel_tins_same, tdel_tdel_same]
  unfold tset at h ⊢
  rw [h]

/-- A write leaves every other key alone. -/
theorem tget_tset_other [DecidableEq α] (d : Nat → α) (l : List (Nat × α)) (k j : Nat) (v : α) (h : j ≠ k) :
    tget d (tset d l k v) j = tget d l j := by
  unfold tset
  split
  · exact tget_tdel_other d l k j h
  · rw [tget_tins_other d _ k j v h, tget_tdel_other d l k j h]

/-! ### The canonical form -/

variable [DecidableEq α]

theorem twfFrom_mono (d : Nat → α) {lo lo' : Nat} (h : lo' ≤ lo) (l : List (Nat × α)) (hl : twfFrom d lo l = true) :
    twfFrom d lo' l = true := by
  cases l with
  | nil => rfl
  | cons p l => obtain ⟨a, v⟩ := p; simp [twfFrom] at hl ⊢; exact ⟨⟨by omega, hl.1.2⟩, hl.2⟩

theorem twfFrom_filter (d : Nat → α) (p : Nat × α → Bool) (lo : Nat) (l : List (Nat × α)) (hl : twfFrom d lo l = true) :
    twfFrom d lo (l.filter p) = true := by
  induction l generalizing lo with
  | nil => rfl
  | cons q l ih =>
    obtain ⟨a, v⟩ := q
    simp [twfFrom] at hl
    by_cases hp : p (a, v) = true
    · simp [List.filter, hp, twfFrom, hl.1.1, hl.1.2, ih _ hl.2]
    · simp [List.filter, hp]
      exact twfFrom_mono d (by omega) _ (ih _ hl.2)

theorem twfFrom_tdel (d : Nat → α) (k lo : Nat) (l : List (Nat × α)) (hl : twfFrom d lo l = true) :
    twfFrom d lo (tdel l k) = true := by
  induction l generalizing lo with
  | nil => rfl
  | cons q l ih =>
    obtain ⟨a, v⟩ := q
    simp [twfFrom] at hl
    by_cases hk : k = a
    · simp [tdel, hk]; rw [← hk]
      exact twfFrom_mono d (by omega) _ (ih _ hl.2)
    · simp [tdel, hk, twfFrom, hl.1.1, hl.1.2, ih _ hl.2]

theorem twfFrom_tins (d : Nat → α) (k : Nat) (v : α) (hv : v ≠ d k) (lo : Nat) (hlo : lo ≤ k) (l : List (Nat × α))
    (hl : twfFrom d lo l = true) (hn : ∀ p ∈ l, p.1 ≠ k) : twfFrom d lo (tins l k v) = true := by
  induction l generalizing lo with
  | nil => simp [tins, twfFrom, hlo, hv]
  | cons q l ih =>
    obtain ⟨a, w⟩ := q
    simp [twfFrom] at hl
    have ha : a ≠ k := hn (a, w) (by simp)
    by_cases hk : k < a
    · have : k + 1 ≤ a := by omega
      simp [tins, hk, twfFrom, hlo, hv, hl.1.2, hl.2, this]
    · simp [tins, hk, twfFrom, hl.1.1, hl.1.2]
      exact ih _ (by omega) hl.2 fun p hp => hn p (by simp [hp])

/-- A write keeps the canonical form. -/
theorem twf_tset (d : Nat → α) (l : List (Nat × α)) (k : Nat) (v : α) (hl : twf d l = true) : twf d (tset d l k v) = true := by
  unfold tset
  split
  · exact twfFrom_tdel d k 0 l hl
  · rename_i h
    exact twfFrom_tins d k v h 0 (by omega) _ (twfFrom_tdel d k 0 l hl) (tdel_ne l k)

/-- Dropping entries keeps the canonical form. -/
theorem twf_filter (d : Nat → α) (p : Nat × α → Bool) (l : List (Nat × α)) (hl : twf d l = true) : twf d (l.filter p) = true :=
  twfFrom_filter d p 0 l hl

end Sys2Proof.Machine
end

