-- ==== Sys2Proof/Laws/Regs.lean ====
section
/-! SUPPORT. Laws of the register table: a word read back after a write, fields read back after a field write, and what a field
write leaves alone. -/

namespace Sys2Proof.Machine

theorem Dev.rdw_lt (d : Dev) (a : Nat) : d.rdw a < 2 ^ 32 := (tget regReset d.regs a).isLt

@[simp] theorem Dev.rdw_wrw_same (d : Dev) (a v : Nat) : (d.wrw a v).rdw a = v % 2 ^ 32 := by
  simp [Dev.rdw, Dev.wrw]

theorem Dev.rdw_wrw_other (d : Dev) (a b v : Nat) (h : b ≠ a) : (d.wrw a v).rdw b = d.rdw b := by
  simp [Dev.rdw, Dev.wrw, tget_tset_other _ _ _ _ _ h]

/-- Reading a word after a write, for any two addresses. -/
theorem Dev.rdw_wrw (d : Dev) (a b v : Nat) : (d.wrw a v).rdw b = if b = a then v % 2 ^ 32 else d.rdw b := by
  by_cases h : b = a
  · subst h; simp
  · simp [h, Dev.rdw_wrw_other d a b v h]

@[simp] theorem Dev.rdw_emit (d : Dev) (o : Out) (a : Nat) : (d.emit o).rdw a = d.rdw a := rfl
@[simp] theorem Dev.rd_emit (d : Dev) (o : Out) (f : Fld) (i : Nat) : (d.emit o).rd f i = d.rd f i := rfl
@[simp] theorem Dev.is_emit (d : Dev) (o : Out) (f : Fld) (i : Nat) : (d.emit o).is f i = d.is f i := rfl

/-- A device that agrees on the registers agrees on every field. -/
theorem Dev.rd_congr {d e : Dev} (h : d.regs = e.regs) (f : Fld) (i : Nat) : d.rd f i = e.rd f i := by
  simp [Dev.rd, Dev.rdw, h]

theorem Dev.rd_lt (d : Dev) (f : Fld) (i : Nat) : d.rd f i < 2 ^ f.len := Nat.mod_lt _ (Nat.two_pow_pos _)

/-! ### Bit fields of a word -/

theorem bitsOf_putBits_same (w lo len v : Nat) : bitsOf (putBits w lo len v) lo len = v % 2 ^ len := by
  have h : putBits w lo len v = w % 2 ^ lo + 2 ^ lo * (v % 2 ^ len + 2 ^ len * (w / 2 ^ (lo + len))) := by
    unfold putBits; rw [Nat.pow_add, Nat.mul_add]; ac_rfl
  unfold bitsOf
  rw [h, Nat.add_mul_div_left _ _ (Nat.two_pow_pos lo), Nat.div_eq_of_lt (Nat.mod_lt _ (Nat.two_pow_pos lo)), Nat.zero_add,
    Nat.add_mul_mod_self_left, Nat.mod_mod]

/-- A field below the one written keeps its value. -/
theorem bitsOf_putBits_low (w lo len v lo' len' : Nat) (h : lo' + len' ≤ lo) :
    bitsOf (putBits w lo len v) lo' len' = bitsOf w lo' len' := by
  obtain ⟨k, rfl⟩ := Nat.exists_eq_add_of_le h
  have e : putBits w (lo' + len' + k) len v =
      w % 2 ^ (lo' + len' + k) + 2 ^ (lo' + len') * (2 ^ k * (v % 2 ^ len) + 2 ^ (k + len) * (w / 2 ^ (lo' + len' + k + len))) := by
    unfold putBits; simp only [Nat.pow_add, Nat.mul_add, Nat.mul_comm, Nat.mul_left_comm, Nat.mul_assoc, Nat.add_assoc]
  have m : ∀ x, x / 2 ^ lo' % 2 ^ len' = x % 2 ^ (lo' + len') / 2 ^ lo' := by
    intro x; rw [Nat.pow_add, Nat.mod_mul_right_div_self]
  unfold bitsOf
  rw [m, m w, e, Nat.add_mul_mod_self_left, Nat.mod_mod_of_dvd _ (Nat.pow_dvd_pow 2 (by omega))]

/-- A field above the one written keeps its value. -/
theorem bitsOf_putBits_high (w lo len v lo' len' : Nat) (h : lo + len ≤ lo') :
    bitsOf (putBits w lo len v) lo' len' = bitsOf w lo' len' := by
  obtain ⟨k, rfl⟩ := Nat.exists_eq_add_of_le h
  have b : w % 2 ^ lo + v % 2 ^ len * 2 ^ lo < 2 ^ (lo + len) := by
    have h1 := Nat.mod_lt w (Nat.two_pow_pos lo)
    have h2 : v % 2 ^ len + 1 ≤ 2 ^ len := Nat.mod_lt v (Nat.two_pow_pos len)
    have h3 := Nat.mul_le_mul_right (2 ^ lo) h2
    rw [Nat.pow_add]
    rw [Nat.add_mul, Nat.one_mul] at h3
    rw [Nat.mul_comm (2 ^ lo)]
    omega
  have e : putBits w lo len v / 2 ^ (lo + len) = w / 2 ^ (lo + len) := by
    unfold putBits
    rw [Nat.add_mul_div_right _ _ (Nat.two_pow_pos _), Nat.div_eq_of_lt b, Nat.zero_add]
  unfold bitsOf
  rw [Nat.pow_add, ← Nat.div_div_eq_div_mul, ← Nat.div_div_eq_div_mul, e]

/-! ### Fields of registers -/

theorem putBits_lt (w lo len v : Nat) (hw : w < 2 ^ 32) (h : lo + len ≤ 32) : putBits w lo len v < 2 ^ 32 := by
  have b : w % 2 ^ lo + v % 2 ^ len * 2 ^ lo < 2 ^ (lo + len) := by
    have h1 := Nat.mod_lt w (Nat.two_pow_pos lo)
    have h2 : v % 2 ^ len + 1 ≤ 2 ^ len := Nat.mod_lt v (Nat.two_pow_pos len)
    have h3 := Nat.mul_le_mul_right (2 ^ lo) h2
    rw [Nat.pow_add]
    rw [Nat.add_mul, Nat.one_mul] at h3
    rw [Nat.mul_comm (2 ^ lo)]
    omega
  obtain ⟨k, hk⟩ := Nat.exists_eq_add_of_le h
  have q : w / 2 ^ (lo + len) < 2 ^ k := by
    rw [Nat.div_lt_iff_lt_mul (Nat.two_pow_pos _), ← Nat.pow_add, Nat.add_comm k, ← hk]; exact hw
  have q' : (w / 2 ^ (lo + len) + 1) * 2 ^ (lo + len) ≤ 2 ^ k * 2 ^ (lo + len) := Nat.mul_le_mul_right _ q
  rw [Nat.add_mul, Nat.one_mul, ← Nat.pow_add, Nat.add_comm k, ← hk] at q'
  unfold putBits
  omega

/-- A field reads back what was written, cut to its width. -/
theorem Dev.rd_wr_same (d : Dev) (f : Fld) (i v : Nat) (h : f.lo + f.len ≤ 32) : (d.wr f i v).rd f i = v % 2 ^ f.len := by
  unfold Dev.rd Dev.wr
  rw [Dev.rdw_wrw_same, Nat.mod_eq_of_lt (putBits_lt _ _ _ _ (d.rdw_lt _) h), bitsOf_putBits_same]

/-- A field at another address keeps its value. -/
theorem Dev.rd_wr_addr (d : Dev) (f g : Fld) (i j v : Nat) (h : g.addr j ≠ f.addr i) : (d.wr f i v).rd g j = d.rd g j := by
  unfold Dev.rd Dev.wr
  rw [Dev.rdw_wrw_other _ _ _ _ h]

/-- A flag at another address keeps its value. -/
theorem Dev.is_wr_addr (d : Dev) (f g : Fld) (i j v : Nat) (h : g.addr j ≠ f.addr i) : (d.wr f i v).is g j = d.is g j := by
  unfold Dev.is
  rw [Dev.rd_wr_addr d f g i j v h]

/-- Another field of the same register keeps its value. -/
theorem Dev.rd_wr_field (d : Dev) (f g : Fld) (i j v : Nat) (hf : f.lo + f.len ≤ 32) (h : f.lo + f.len ≤ g.lo ∨ g.lo + g.len ≤ f.lo) :
    (d.wr f i v).rd g j = d.rd g j := by
  by_cases ha : g.addr j = f.addr i
  · unfold Dev.rd Dev.wr
    rw [ha, Dev.rdw_wrw_same, Nat.mod_eq_of_lt (putBits_lt _ _ _ _ (d.rdw_lt _) hf)]
    rcases h with h | h
    · exact bitsOf_putBits_high _ _ _ _ _ _ h
    · exact bitsOf_putBits_low _ _ _ _ _ _ h
  · exact Dev.rd_wr_addr d f g i j v ha

/-- A word other than the field's own keeps its value. -/
theorem Dev.rdw_wr_other (d : Dev) (f : Fld) (i v a : Nat) (h : a ≠ f.addr i) : (d.wr f i v).rdw a = d.rdw a :=
  Dev.rdw_wrw_other _ _ _ _ h

/-- A register write keeps the table canonical. -/
theorem Dev.wrw_regs_wf (d : Dev) (a v : Nat) (h : twf regReset d.regs = true) : twf regReset (d.wrw a v).regs = true :=
  twf_tset _ _ _ _ h

end Sys2Proof.Machine
end

