-- ==== Sys2Proof/Laws/Inv.lean ====
section
/-! SUPPORT. The invariant of the device as one predicate per pair of timestamps, and the laws of the shared operations over it: every
operation keeps memory and registers canonical, and moves a timestamp only to the other timestamp or to zero. -/

namespace Sys2Proof.Machine

/-- The invariant, and where the timestamps can have come from: AONT is `N` or was cleared; GTS is `G`, was loaded from AONT,
or was cleared. `M`: memory is still this one, where one is given. -/
structure Dev.InvAt (N G : Nat) (M : Option (List Host.Cell)) (d : Dev) : Prop where
  clock : d.clockOk = true
  mem : Memory.wf d.mem = true
  regs : d.regsOk = true
  time : d.aont = N ∨ d.aont = 0
  sys : d.gts = G ∨ d.gts = d.aont ∨ d.gts = 0
  keep : ∀ m, M = some m → d.mem = m

theorem Dev.Inv.at {d : Dev} (h : d.Inv) : d.InvAt d.aont d.gts (some d.mem) :=
  ⟨h.clock, h.mem, h.regs, .inl rfl, .inl rfl, fun _ e => Option.some.inj e⟩

/-- Nothing is asked of memory. -/
theorem Dev.InvAt.forget {N G : Nat} {M : Option (List Host.Cell)} {d : Dev} (h : d.InvAt N G M) : d.InvAt N G none :=
  ⟨h.clock, h.mem, h.regs, h.time, h.sys, fun _ e => nomatch e⟩

theorem Dev.InvAt.inv {N G : Nat} {M : Option (List Host.Cell)} {d : Dev} (h : d.InvAt N G M) : d.Inv := ⟨h.clock, h.mem, h.regs⟩

theorem Dev.InvAt.setMem {N G : Nat} {d : Dev} (h : d.InvAt N G none) {m : List Host.Cell} (hm : Memory.wf m = true) :
    Dev.InvAt N G none { d with mem := m } := ⟨h.clock, hm, h.regs, h.time, h.sys, fun _ e => nomatch e⟩

theorem Dev.inv_empty {N G : Nat} : Dev.InvAt N G none {} := ⟨rfl, rfl, rfl, .inr rfl, .inr (.inr rfl), fun _ e => nomatch e⟩

theorem Dev.InvAt.gts_le {N G : Nat} {M : Option (List Host.Cell)} {d : Dev} (h : d.InvAt N G M) : d.gts ≤ d.aont := by
  have := h.clock; simp [Dev.clockOk] at this; exact this.1

/-- The outcome of a command: a next state that keeps the invariant, with the queue as it was. -/
def Res.Keeps (N G : Nat) (M : Option (List Host.Cell)) (q : List Instr) (r : Res) : Prop := ∃ t, r = .next t ∧ t.pending = q ∧ t.dev.InvAt N G M

theorem State.run_keeps {N G : Nat} {M : Option (List Host.Cell)} (s : State) (f : Dev → Dev) (h : (f s.dev).InvAt N G M) : Res.Keeps N G M s.pending (s.run f) :=
  ⟨_, rfl, rfl, h⟩

theorem Dev.seq_inv {N G : Nat} {M : Option (List Host.Cell)} (d : Dev) {p : Prop} (h : d.InvAt N G M) (k : d.InvAt N G M → p) : p := k h

theorem Dev.seqf_inv {N G : Nat} {M : Option (List Host.Cell)} (f : Dev → Dev) {p : Prop} (h : ∀ d, d.InvAt N G M → (f d).InvAt N G M)
    (k : (∀ d, d.InvAt N G M → (f d).InvAt N G M) → p) : p := k h

theorem memPuts_wf (l : List Host.Cell) (k : Nat) (bs : List Byte) (h : Memory.wf l = true) : Memory.wf (memPuts l k bs) = true := by
  induction bs generalizing l k with
  | nil => exact h
  | cons b bs ih => exact ih _ _ (twf_tset _ _ _ _ h)

/-- Rewriting values and dropping what became the default keeps the canonical form. -/
theorem twfFrom_remap {α : Type} [DecidableEq α] (d : Nat → α) (f : Nat × α → Nat × α) (hf : ∀ p, (f p).1 = p.1) (lo : Nat)
    (l : List (Nat × α)) (h : twfFrom d lo l = true) : twfFrom d lo ((l.map f).filter fun p => p.2 ≠ d p.1) = true := by
  induction l generalizing lo with
  | nil => rfl
  | cons p l ih =>
    obtain ⟨a, v⟩ := p
    simp [twfFrom] at h
    have ha : (f (a, v)).1 = a := hf (a, v)
    rw [List.map_cons]
    by_cases hv : (f (a, v)).2 = d a
    · rw [List.filter_cons_of_neg (by simp [ha, hv])]
      exact twfFrom_mono d (by omega) _ (ih _ h.2)
    · rw [List.filter_cons_of_pos (by simp [ha, hv])]
      have e : f (a, v) = (a, (f (a, v)).2) := Prod.ext ha rfl
      rw [e]
      simp only [twfFrom, Bool.and_eq_true]
      exact ⟨⟨by simpa using h.1.1, by simpa using hv⟩, ih _ h.2⟩

theorem twf_remap {α : Type} [DecidableEq α] (d : Nat → α) (f : Nat × α → Nat × α) (hf : ∀ p, (f p).1 = p.1)
    (l : List (Nat × α)) (h : twf d l = true) : twf d ((l.map f).filter fun p => p.2 ≠ d p.1) = true :=
  twfFrom_remap d f hf 0 l h

/-- A fold of a keeping step keeps. -/
theorem List.foldl_inv {N G : Nat} {M : Option (List Host.Cell)} {α : Type} (f : Dev → α → Dev) (l : List α) (d : Dev)
    (hf : ∀ d x, d.InvAt N G M → (f d x).InvAt N G M) (h : d.InvAt N G M) : (l.foldl f d).InvAt N G M := by
  induction l generalizing d with
  | nil => exact h
  | cons x l ih => exact ih _ (hf _ _ h)

/-- A fold that carries a value beside the device. -/
theorem List.foldl_inv2 {N G : Nat} {M : Option (List Host.Cell)} {α β : Type} (f : β × Dev → α → β × Dev) (l : List α) (p : β × Dev)
    (hf : ∀ p x, p.2.InvAt N G M → (f p x).2.InvAt N G M) (h : p.2.InvAt N G M) : (l.foldl f p).2.InvAt N G M := by
  induction l generalizing p with
  | nil => exact h
  | cons x l ih => exact ih _ (hf _ _ h)

/-- An update of anything but registers, memory and the timestamps. -/
theorem Dev.inv_mk {N G : Nat} {M : Option (List Host.Cell)} (d : Dev) (x_poison : List (Nat × Bool)) (x_wb : List (Nat × Bool)) (x_wbPend : List (Nat × Bool)) (x_latch : List (Nat × Word)) (x_wlow : List (Nat × Word)) (x_out : List Out) (x_freeCtr : Nat) (x_ecc : EccSt) (x_arr : ArrSt) (x_vl : VlSt) (x_sob : SobSt) (x_brd : BrdSt) (x_pwr : PwrSt) (x_oro : OroSt) (x_seq : SeqSt) (x_cool : CoolSt) (x_flt : FltSt) (x_boot : BootSt) (x_mbx : MbxSt) (x_obs : ObsSt) (x_tw : TwSt) (x_jtag : JtagSt) :
    Dev.InvAt N G M { regs := d.regs, mem := d.mem, poison := x_poison, wb := x_wb, wbPend := x_wbPend, gts := d.gts, aont := d.aont, sysOn := d.sysOn, latch := x_latch, wlow := x_wlow, out := x_out, freeCtr := x_freeCtr, ecc := x_ecc, arr := x_arr, vl := x_vl, sob := x_sob, brd := x_brd, pwr := x_pwr, oro := x_oro, seq := x_seq, cool := x_cool, flt := x_flt, boot := x_boot, mbx := x_mbx, obs := x_obs, tw := x_tw, jtag := x_jtag } ↔ d.InvAt N G M :=
  ⟨fun h => ⟨h.clock, h.mem, h.regs, h.time, h.sys, h.keep⟩, fun h => ⟨h.clock, h.mem, h.regs, h.time, h.sys, h.keep⟩⟩

/-- The SYS domain starts: GTS is loaded from AONT. -/
theorem Dev.inv_on {N G : Nat} {M : Option (List Host.Cell)} (d : Dev) (x_poison : List (Nat × Bool)) (x_wb : List (Nat × Bool)) (x_wbPend : List (Nat × Bool)) (x_latch : List (Nat × Word)) (x_wlow : List (Nat × Word)) (x_out : List Out) (x_freeCtr : Nat) (x_ecc : EccSt) (x_arr : ArrSt) (x_vl : VlSt) (x_sob : SobSt) (x_brd : BrdSt) (x_pwr : PwrSt) (x_oro : OroSt) (x_seq : SeqSt) (x_cool : CoolSt) (x_flt : FltSt) (x_boot : BootSt) (x_mbx : MbxSt) (x_obs : ObsSt) (x_tw : TwSt) (x_jtag : JtagSt) (h : d.InvAt N G M) :
    Dev.InvAt N G M { regs := d.regs, mem := d.mem, poison := x_poison, wb := x_wb, wbPend := x_wbPend, gts := d.aont, aont := d.aont, sysOn := true, latch := x_latch, wlow := x_wlow, out := x_out, freeCtr := x_freeCtr, ecc := x_ecc, arr := x_arr, vl := x_vl, sob := x_sob, brd := x_brd, pwr := x_pwr, oro := x_oro, seq := x_seq, cool := x_cool, flt := x_flt, boot := x_boot, mbx := x_mbx, obs := x_obs, tw := x_tw, jtag := x_jtag } :=
  ⟨by simp [Dev.clockOk], h.mem, h.regs, h.time, .inr (.inl rfl), h.keep⟩

/-- The SYS domain stops. -/
theorem Dev.inv_off {N G : Nat} {M : Option (List Host.Cell)} (d : Dev) (x_poison : List (Nat × Bool)) (x_wb : List (Nat × Bool)) (x_wbPend : List (Nat × Bool)) (x_latch : List (Nat × Word)) (x_wlow : List (Nat × Word)) (x_out : List Out) (x_freeCtr : Nat) (x_ecc : EccSt) (x_arr : ArrSt) (x_vl : VlSt) (x_sob : SobSt) (x_brd : BrdSt) (x_pwr : PwrSt) (x_oro : OroSt) (x_seq : SeqSt) (x_cool : CoolSt) (x_flt : FltSt) (x_boot : BootSt) (x_mbx : MbxSt) (x_obs : ObsSt) (x_tw : TwSt) (x_jtag : JtagSt) (h : d.InvAt N G M) :
    Dev.InvAt N G M { regs := d.regs, mem := d.mem, poison := x_poison, wb := x_wb, wbPend := x_wbPend, gts := d.gts, aont := d.aont, sysOn := false, latch := x_latch, wlow := x_wlow, out := x_out, freeCtr := x_freeCtr, ecc := x_ecc, arr := x_arr, vl := x_vl, sob := x_sob, brd := x_brd, pwr := x_pwr, oro := x_oro, seq := x_seq, cool := x_cool, flt := x_flt, boot := x_boot, mbx := x_mbx, obs := x_obs, tw := x_tw, jtag := x_jtag } :=
  ⟨by simpa [Dev.clockOk] using h.gts_le, h.mem, h.regs, h.time, h.sys, h.keep⟩

end Sys2Proof.Machine
end

