-- ==== Sys2Proof/Laws/InvOps.lean ====
section
/-! SUPPORT. Every operation of Machine/Ops.lean keeps the invariant. -/

namespace Sys2Proof.Machine

theorem Dev.wrw_inv {N G : Nat} {M : Option (List Host.Cell)} (d : Dev) (a v : Nat) (h_d : d.InvAt N G M) : (d.wrw a v).InvAt N G M :=
  ⟨h_d.clock, h_d.mem, twf_tset _ _ _ _ h_d.regs, h_d.time, h_d.sys, h_d.keep⟩

theorem Dev.wr_inv {N G : Nat} {M : Option (List Host.Cell)} (d : Dev) (f : Fld) (i : Nat) (v : Nat) (h_d : d.InvAt N G M) : (Dev.wr d f i v).InvAt N G M := by
  unfold Dev.wr
  try dsimp only
  repeat' first
    | with_reducible assumption
    | with_reducible apply Dev.wrw_inv
    | simp only [↓Dev.inv_mk]
    | (split <;> (try dsimp only))
    | intro _

theorem Dev.wrBit_inv {N G : Nat} {M : Option (List Host.Cell)} (d : Dev) (f : Fld) (i : Nat) (k : Nat) (b : Bool) (h_d : d.InvAt N G M) : (Dev.wrBit d f i k b).InvAt N G M := by
  unfold Dev.wrBit
  try dsimp only
  repeat' first
    | with_reducible assumption
    | with_reducible apply Dev.wr_inv
    | simp only [↓Dev.inv_mk]
    | (split <;> (try dsimp only))
    | intro _

theorem Dev.inc_inv {N G : Nat} {M : Option (List Host.Cell)} (d : Dev) (f : Fld) (i : Nat) (n : Nat) (h_d : d.InvAt N G M) : (Dev.inc d f i n).InvAt N G M := by
  unfold Dev.inc
  try dsimp only
  repeat' first
    | with_reducible assumption
    | with_reducible apply Dev.wr_inv
    | simp only [↓Dev.inv_mk]
    | (split <;> (try dsimp only))
    | intro _

theorem Dev.incW_inv {N G : Nat} {M : Option (List Host.Cell)} (d : Dev) (f : Fld) (i : Nat) (n : Nat) (h_d : d.InvAt N G M) : (Dev.incW d f i n).InvAt N G M := by
  unfold Dev.incW
  try dsimp only
  repeat' first
    | with_reducible assumption
    | with_reducible apply Dev.wr_inv
    | simp only [↓Dev.inv_mk]
    | (split <;> (try dsimp only))
    | intro _

theorem Dev.wr64_inv {N G : Nat} {M : Option (List Host.Cell)} (d : Dev) (f : Fld) (i : Nat) (v : Nat) (h_d : d.InvAt N G M) : (Dev.wr64 d f i v).InvAt N G M := by
  unfold Dev.wr64
  try dsimp only
  repeat' first
    | with_reducible assumption
    | with_reducible apply Dev.wrw_inv
    | simp only [↓Dev.inv_mk]
    | (split <;> (try dsimp only))
    | intro _

theorem Dev.resetRegs_inv {N G : Nat} {M : Option (List Host.Cell)} (d : Dev) (lo hi : Nat) (h_d : d.InvAt N G M) : (d.resetRegs lo hi).InvAt N G M :=
  ⟨h_d.clock, h_d.mem, twf_filter _ _ _ h_d.regs, h_d.time, h_d.sys, h_d.keep⟩

theorem Dev.emit_inv {N G : Nat} {M : Option (List Host.Cell)} (d : Dev) (o : Out) (h_d : d.InvAt N G M) : (Dev.emit d o).InvAt N G M := by
  unfold Dev.emit
  try dsimp only
  repeat' first
    | with_reducible assumption
    | simp only [↓Dev.inv_mk]
    | (split <;> (try dsimp only))
    | intro _

theorem Dev.free_inv {N G : Nat} {M : Option (List Host.Cell)} (d : Dev) (h_d : d.InvAt N G M) : (Dev.free d).2.InvAt N G M := by
  unfold Dev.free
  try dsimp only
  repeat' first
    | with_reducible assumption
    | simp only [↓Dev.inv_mk]
    | (split <;> (try dsimp only))
    | intro _

theorem Dev.pin_inv {N G : Nat} {M : Option (List Host.Cell)} (d : Dev) (g : String) (i : Nat) (level : Bool) (h_d : d.InvAt N G M) : (Dev.pin d g i level).InvAt N G M := by
  unfold Dev.pin
  try dsimp only
  repeat' first
    | with_reducible assumption
    | with_reducible apply Dev.emit_inv
    | simp only [↓Dev.inv_mk]
    | (split <;> (try dsimp only))
    | intro _

theorem Dev.note_inv {N G : Nat} {M : Option (List Host.Cell)} (d : Dev) (core : Nat) (code : String) (arg : Nat) (h_d : d.InvAt N G M) : (Dev.note d core code arg).InvAt N G M := by
  unfold Dev.note
  try dsimp only
  repeat' first
    | with_reducible assumption
    | with_reducible apply Dev.emit_inv
    | simp only [↓Dev.inv_mk]
    | (split <;> (try dsimp only))
    | intro _


theorem Dev.setPoison_inv {N G : Nat} {M : Option (List Host.Cell)} (d : Dev) (m : Space) (a : Nat) (p : Bool) (h_d : d.InvAt N G M) : (Dev.setPoison d m a p).InvAt N G M := by
  unfold Dev.setPoison
  try dsimp only
  repeat' first
    | with_reducible assumption
    | simp only [↓Dev.inv_mk]
    | (split <;> (try dsimp only))
    | intro _

theorem Dev.dropWb_inv {N G : Nat} {M : Option (List Host.Cell)} (d : Dev) (w : Nat) (h_d : d.InvAt N G M) : (Dev.dropWb d w).InvAt N G M := by
  unfold Dev.dropWb
  try dsimp only
  repeat' first
    | with_reducible assumption
    | simp only [↓Dev.inv_mk]
    | (split <;> (try dsimp only))
    | intro _

theorem Dev.poisonWrite_inv {N G : Nat} {M : Option (List Host.Cell)} (d : Dev) (m : Space) (a : Nat) (n : Nat) (p : Bool) (h_d : d.InvAt N G M) : (Dev.poisonWrite d m a n p).InvAt N G M := by
  unfold Dev.poisonWrite
  try dsimp only
  repeat' first
    | with_reducible assumption
    | with_reducible apply List.foldl_inv
    | with_reducible apply List.foldl_inv2
    | with_reducible apply Dev.setPoison_inv
    | with_reducible apply Dev.dropWb_inv
    | with_reducible apply hf
    | simp only [↓Dev.inv_mk]
    | (split <;> (try dsimp only))
    | intro _

theorem Dev.stn_inv {N G : Nat} (d : Dev) (m : Space) (a : Nat) (bs : List Byte) (p : Bool) (h_d : d.InvAt N G none) :
    (d.stn m a bs p).InvAt N G none := by
  unfold Dev.stn
  split
  · exact h_d
  · exact Dev.poisonWrite_inv _ _ _ _ _ (h_d.setMem (memPuts_wf _ _ _ h_d.mem))

theorem Dev.st_inv {N G : Nat} (d : Dev) (m : Space) (a : Nat) (n : Nat) (v : Nat) (h_d : d.InvAt N G none) : (Dev.st d m a n v).InvAt N G none := by
  unfold Dev.st
  try dsimp only
  repeat' first
    | with_reducible assumption
    | with_reducible apply Dev.stn_inv
    | simp only [↓Dev.inv_mk]
    | (split <;> (try dsimp only))
    | intro _

theorem Dev.clearSpace_inv {N G : Nat} (d : Dev) (m : Space) (h_d : d.InvAt N G none) : (d.clearSpace m).InvAt N G none :=
  ⟨h_d.clock, twf_filter _ _ _ h_d.mem, h_d.regs, h_d.time, h_d.sys, fun _ e => nomatch e⟩

theorem Dev.clearRange_inv {N G : Nat} (d : Dev) (m : Space) (a n : Nat) (h_d : d.InvAt N G none) : (d.clearRange m a n).InvAt N G none :=
  ⟨h_d.clock, twf_filter _ _ _ h_d.mem, h_d.regs, h_d.time, h_d.sys, fun _ e => nomatch e⟩

theorem Dev.ffrFold_inv {N G : Nat} {M : Option (List Host.Cell)} (d : Dev) (h_d : d.InvAt N G M) : (Dev.ffrFold d).InvAt N G M := by
  unfold Dev.ffrFold
  try dsimp only
  repeat' first
    | with_reducible assumption
    | simp only [↓Dev.inv_mk]
    | (split <;> (try dsimp only))
    | intro _

theorem Dev.ffrEvent_inv {N G : Nat} {M : Option (List Host.Cell)} (d : Dev) (e : FfrEntry) (h_d : d.InvAt N G M) : (Dev.ffrEvent d e).InvAt N G M := by
  unfold Dev.ffrEvent
  try dsimp only
  repeat' first
    | with_reducible assumption
    | with_reducible apply Dev.ffrFold_inv
    | with_reducible apply Dev.inc_inv
    | simp only [↓Dev.inv_mk]
    | (split <;> (try dsimp only))
    | intro _

theorem Dev.ffr_inv {N G : Nat} {M : Option (List Host.Cell)} (d : Dev) (c : Cause) (arg0 : Nat) (arg1 : Nat) (h_d : d.InvAt N G M) : (Dev.ffr d c arg0 arg1).InvAt N G M := by
  unfold Dev.ffr
  try dsimp only
  repeat' first
    | with_reducible assumption
    | with_reducible apply Dev.ffrEvent_inv
    | simp only [↓Dev.inv_mk]
    | (split <;> (try dsimp only))
    | intro _

end Sys2Proof.Machine
end

