-- ==== Sys2Proof/Laws/InvObsOps.lean ====
section
/-! SUPPORT. Every operation of Machine/ObsOps.lean keeps the invariant. -/

namespace Sys2Proof.Machine

theorem Dev.crcFeedCtx_inv {N G : Nat} {M : Option (List Host.Cell)} (d : Dev) (k : Nat) (l : List Byte) (h_d : d.InvAt N G M) : (Dev.crcFeedCtx d k l).InvAt N G M := by
  unfold Dev.crcFeedCtx
  try dsimp only
  repeat' first
    | with_reducible assumption
    | with_reducible apply Dev.wr64_inv
    | with_reducible apply Dev.inc_inv
    | simp only [↓Dev.inv_mk]
    | (split <;> (try dsimp only))
    | intro _

theorem Dev.crcLoad_inv {N G : Nat} {M : Option (List Host.Cell)} (d : Dev) (k : Nat) (h_d : d.InvAt N G M) : (Dev.crcLoad d k).InvAt N G M := by
  unfold Dev.crcLoad
  try dsimp only
  repeat' first
    | with_reducible assumption
    | with_reducible apply Dev.wr64_inv
    | with_reducible apply Dev.wr_inv
    | simp only [↓Dev.inv_mk]
    | (split <;> (try dsimp only))
    | intro _

theorem Dev.vector_inv {N G : Nat} {M : Option (List Host.Cell)} (d : Dev) (v : Nat) (h_d : d.InvAt N G M) : (Dev.vector d v).InvAt N G M := by
  unfold Dev.vector
  try dsimp only
  repeat' first
    | with_reducible assumption
    | with_reducible apply Dev.wrBit_inv
    | with_reducible apply Dev.emit_inv
    | simp only [↓Dev.inv_mk]
    | (split <;> (try dsimp only))
    | intro _

theorem Dev.cqPut_inv {N G : Nat} {M : Option (List Host.Cell)} (d : Dev) (q : Nat) (c : Cq) (h_d : d.InvAt N G M) : (Dev.cqPut d q c).InvAt N G M := by
  unfold Dev.cqPut
  try dsimp only
  repeat' first
    | with_reducible assumption
    | simp only [↓Dev.inv_mk]
    | (split <;> (try dsimp only))
    | intro _

theorem Dev.cqWatch_inv {N G : Nat} {M : Option (List Host.Cell)} (d : Dev) (q : Nat) (h_d : d.InvAt N G M) : (Dev.cqWatch d q).InvAt N G M := by
  unfold Dev.cqWatch
  try dsimp only
  repeat' first
    | with_reducible assumption
    | with_reducible apply Dev.wrBit_inv
    | with_reducible apply Dev.vector_inv
    | with_reducible apply Dev.wr_inv
    | with_reducible apply Dev.pin_inv
    | simp only [↓Dev.inv_mk]
    | (split <;> (try dsimp only))
    | intro _

theorem Dev.cqOverMark_inv {N G : Nat} {M : Option (List Host.Cell)} (d : Dev) (q : Nat) (n : Nat) (h_d : d.InvAt N G M) : (Dev.cqOverMark d q n).InvAt N G M := by
  unfold Dev.cqOverMark
  try dsimp only
  repeat' first
    | with_reducible assumption
    | with_reducible apply Dev.cqPut_inv
    | with_reducible apply Dev.wr_inv
    | simp only [↓Dev.inv_mk]
    | (split <;> (try dsimp only))
    | intro _

theorem Dev.cqDropPacket_inv {N G : Nat} {M : Option (List Host.Cell)} (d : Dev) (q : Nat) (h_d : d.InvAt N G M) : (Dev.cqDropPacket d q).InvAt N G M := by
  unfold Dev.cqDropPacket
  try dsimp only
  repeat' first
    | with_reducible assumption
    | with_reducible apply Dev.cqPut_inv
    | with_reducible apply Dev.inc_inv
    | simp only [↓Dev.inv_mk]
    | (split <;> (try dsimp only))
    | intro _

theorem Dev.cqCommit_inv {N G : Nat} {M : Option (List Host.Cell)} (d : Dev) (q : Nat) (pay : List Byte) (h_d : d.InvAt N G M) : (Dev.cqCommit d q pay).InvAt N G M := by
  unfold Dev.cqCommit
  try dsimp only
  repeat' first
    | with_reducible assumption
    | with_reducible apply Dev.cqOverMark_inv
    | with_reducible apply Dev.cqPut_inv
    | with_reducible apply Dev.inc_inv
    | with_reducible apply Dev.vector_inv
    | simp only [↓Dev.inv_mk]
    | (split <;> (try dsimp only))
    | intro _

theorem Dev.cqSend_inv {N G : Nat} {M : Option (List Host.Cell)} (d : Dev) (q : Nat) (pay : List Byte) (h_d : d.InvAt N G M) : (Dev.cqSend d q pay).2.InvAt N G M := by
  unfold Dev.cqSend
  try dsimp only
  repeat' first
    | with_reducible assumption
    | with_reducible apply Dev.cqCommit_inv
    | with_reducible apply Dev.cqPut_inv
    | with_reducible apply Dev.inc_inv
    | simp only [↓Dev.inv_mk]
    | (split <;> (try dsimp only))
    | intro _

theorem Dev.cqMay_inv {N G : Nat} {M : Option (List Host.Cell)} (d : Dev) (q : Nat) (writer : Nat) (h_d : d.InvAt N G M) : (Dev.cqMay d q writer).2.InvAt N G M := by
  unfold Dev.cqMay
  try dsimp only
  repeat' first
    | with_reducible assumption
    | with_reducible apply Dev.wrBit_inv
    | simp only [↓Dev.inv_mk]
    | (split <;> (try dsimp only))
    | intro _

theorem Dev.cqStreamWord_inv {N G : Nat} {M : Option (List Host.Cell)} (d : Dev) (q : Nat) (first : Bool) (v : Nat) (h_d : d.InvAt N G M) : (Dev.cqStreamWord d q first v).InvAt N G M := by
  unfold Dev.cqStreamWord
  try dsimp only
  repeat' first
    | with_reducible assumption
    | with_reducible apply Dev.cqPut_inv
    | with_reducible apply Dev.inc_inv
    | with_reducible apply Dev.cqOverMark_inv
    | with_reducible apply Dev.cqWatch_inv
    | simp only [↓Dev.inv_mk]
    | (split <;> (try dsimp only))
    | intro _

theorem Dev.event_inv {N G : Nat} {M : Option (List Host.Cell)} (d : Dev) (code : Nat) (arg0 : Nat) (arg1 : Nat) (h_d : d.InvAt N G M) : (Dev.event d code arg0 arg1).InvAt N G M := by
  unfold Dev.event
  try dsimp only
  repeat' first
    | with_reducible assumption
    | with_reducible apply Dev.inc_inv
    | with_reducible apply Dev.cqSend_inv
    | with_reducible apply hf
    | simp only [↓Dev.inv_mk]
    | (split <;> (try dsimp only))
    | intro _

theorem Dev.snapFire_inv {N G : Nat} {M : Option (List Host.Cell)} (d : Dev) (src : Nat) (h_d : d.InvAt N G M) : (Dev.snapFire d src).InvAt N G M := by
  unfold Dev.snapFire
  try dsimp only
  repeat' first
    | with_reducible assumption
    | with_reducible apply Dev.wr_inv
    | with_reducible apply Dev.wr64_inv
    | with_reducible apply Dev.inc_inv
    | simp only [↓Dev.inv_mk]
    | (split <;> (try dsimp only))
    | intro _

end Sys2Proof.Machine
end

