-- ==== Sys2Proof/Laws/InvLinkOps.lean ====
section
/-! SUPPORT. Every operation of Machine/LinkOps.lean keeps the invariant. -/

namespace Sys2Proof.Machine

theorem Dev.lkPut_inv {N G : Nat} {M : Option (List Host.Cell)} (d : Dev) (n : Nat) (x : Link) (h_d : d.InvAt N G M) : (Dev.lkPut d n x).InvAt N G M := by
  unfold Dev.lkPut
  try dsimp only
  repeat' first
    | with_reducible assumption
    | simp only [↓Dev.inv_mk]
    | (split <;> (try dsimp only))
    | intro _

theorem Dev.accPut_inv {N G : Nat} {M : Option (List Host.Cell)} (d : Dev) (a : Nat) (x : AccVl) (h_d : d.InvAt N G M) : (Dev.accPut d a x).InvAt N G M := by
  unfold Dev.accPut
  try dsimp only
  repeat' first
    | with_reducible assumption
    | simp only [↓Dev.inv_mk]
    | (split <;> (try dsimp only))
    | intro _

theorem Dev.lkGo_inv {N G : Nat} {M : Option (List Host.Cell)} (d : Dev) (n : Nat) (st : Nat) (h_d : d.InvAt N G M) : (Dev.lkGo d n st).InvAt N G M := by
  unfold Dev.lkGo
  try dsimp only
  repeat' first
    | with_reducible assumption
    | with_reducible apply Dev.wr_inv
    | with_reducible apply Dev.st_inv
    | with_reducible apply Dev.lkPut_inv
    | simp only [↓Dev.inv_mk]
    | (split <;> (try dsimp only))
    | intro _

theorem Dev.setRole_inv {N G : Nat} {M : Option (List Host.Cell)} (d : Dev) (a : Nat) (r : Nat) (p : Nat) (h_d : d.InvAt N G M) : (Dev.setRole d a r p).InvAt N G M := by
  unfold Dev.setRole
  try dsimp only
  repeat' first
    | with_reducible assumption
    | with_reducible apply Dev.wrw_inv
    | with_reducible apply Dev.wr_inv
    | simp only [↓Dev.inv_mk]
    | (split <;> (try dsimp only))
    | intro _

theorem Dev.put_inv {N G : Nat} {M : Option (List Host.Cell)} (d : Dev) (n : Nat) (f : Flit) (h_d : d.InvAt N G M) : (Dev.put d n f).InvAt N G M := by
  unfold Dev.put
  try dsimp only
  repeat' first
    | with_reducible assumption
    | with_reducible apply Dev.lkPut_inv
    | with_reducible apply Dev.wr_inv
    | with_reducible apply Dev.emit_inv
    | simp only [↓Dev.inv_mk]
    | (split <;> (try dsimp only))
    | intro _

theorem Dev.pump_inv {N G : Nat} {M : Option (List Host.Cell)} (k : Nat) (d : Dev) (a : Nat) (h_d : d.InvAt N G M) : (Dev.pump k d a).InvAt N G M := by
  induction k generalizing d with
  | zero => exact h_d
  | succ k ih =>
    unfold Dev.pump
    split
    · exact h_d
    · exact ih _ (Dev.put_inv _ _ _ (Dev.accPut_inv _ _ _ h_d))

theorem Dev.pumpAll_inv {N G : Nat} {M : Option (List Host.Cell)} (d : Dev) (a : Nat) (h_d : d.InvAt N G M) : (Dev.pumpAll d a).InvAt N G M := by
  unfold Dev.pumpAll
  try dsimp only
  repeat' first
    | with_reducible assumption
    | with_reducible apply Dev.pump_inv
    | simp only [↓Dev.inv_mk]
    | (split <;> (try dsimp only))
    | intro _

theorem Dev.send_inv {N G : Nat} {M : Option (List Host.Cell)} (d : Dev) (a : Nat) (f : Flit) (h_d : d.InvAt N G M) : (Dev.send d a f).InvAt N G M := by
  unfold Dev.send
  try dsimp only
  repeat' first
    | with_reducible assumption
    | with_reducible apply Dev.accPut_inv
    | with_reducible apply Dev.pumpAll_inv
    | simp only [↓Dev.inv_mk]
    | (split <;> (try dsimp only))
    | intro _

theorem Dev.sendFlit_inv {N G : Nat} {M : Option (List Host.Cell)} (d : Dev) (a : Nat) (vc : Nat) (ty : Nat) (pay : Nat) (h_d : d.InvAt N G M) : (Dev.sendFlit d a vc ty pay).InvAt N G M := by
  unfold Dev.sendFlit
  try dsimp only
  repeat' first
    | with_reducible assumption
    | with_reducible apply Dev.send_inv
    | simp only [↓Dev.inv_mk]
    | (split <;> (try dsimp only))
    | intro _

theorem Dev.lct_inv {N G : Nat} {M : Option (List Host.Cell)} (d : Dev) (n : Nat) (ty : Nat) (fields : List Nat) (h_d : d.InvAt N G M) : (Dev.lct d n ty fields).InvAt N G M := by
  unfold Dev.lct
  try dsimp only
  repeat' first
    | with_reducible assumption
    | with_reducible apply Dev.emit_inv
    | simp only [↓Dev.inv_mk]
    | (split <;> (try dsimp only))
    | intro _

theorem Dev.freeRx_inv {N G : Nat} {M : Option (List Host.Cell)} (d : Dev) (n : Nat) (vc : Nat) (h_d : d.InvAt N G M) : (Dev.freeRx d n vc).InvAt N G M := by
  unfold Dev.freeRx
  try dsimp only
  repeat' first
    | with_reducible assumption
    | with_reducible apply Dev.lkPut_inv
    | with_reducible apply Dev.lct_inv
    | simp only [↓Dev.inv_mk]
    | (split <;> (try dsimp only))
    | intro _

theorem Dev.takeRx_inv {N G : Nat} {M : Option (List Host.Cell)} (d : Dev) (a : Nat) (vc : Nat) (ty : Nat) (pay : Payload) (h_d : d.InvAt N G M) : (Dev.takeRx d a vc ty pay).InvAt N G M := by
  unfold Dev.takeRx
  try dsimp only
  repeat' first
    | with_reducible assumption
    | with_reducible apply Dev.lkPut_inv
    | with_reducible apply Dev.freeRx_inv
    | simp only [↓Dev.inv_mk]
    | (split <;> (try dsimp only))
    | intro _

theorem Dev.modeUpdate_inv {N G : Nat} {M : Option (List Host.Cell)} (d : Dev) (a : Nat) (h_d : d.InvAt N G M) : (Dev.modeUpdate d a).InvAt N G M := by
  unfold Dev.modeUpdate
  try dsimp only
  repeat' first
    | with_reducible assumption
    | with_reducible apply Dev.accPut_inv
    | with_reducible apply Dev.wr_inv
    | with_reducible apply Dev.event_inv
    | simp only [↓Dev.inv_mk]
    | (split <;> (try dsimp only))
    | intro _

end Sys2Proof.Machine
end

