-- ==== Sys2Proof/Laws/InvTwoWire.lean ====
section
/-! SUPPORT. Every operation of Machine/TwoWire.lean keeps the invariant. -/

namespace Sys2Proof.Machine

theorem Dev.segPut_inv {N G : Nat} {M : Option (List Host.Cell)} (d : Dev) (n : Nat) (x : Seg) (h_d : d.InvAt N G M) : (Dev.segPut d n x).InvAt N G M := by
  unfold Dev.segPut
  try dsimp only
  repeat' first
    | with_reducible assumption
    | simp only [↓Dev.inv_mk]
    | (split <;> (try dsimp only))
    | intro _

theorem Dev.avsPut_inv {N G : Nat} {M : Option (List Host.Cell)} (d : Dev) (a : Nat) (x : Avs) (h_d : d.InvAt N G M) : (Dev.avsPut d a x).InvAt N G M := by
  unfold Dev.avsPut
  try dsimp only
  repeat' first
    | with_reducible assumption
    | simp only [↓Dev.inv_mk]
    | (split <;> (try dsimp only))
    | intro _

theorem Dev.segShow_inv {N G : Nat} {M : Option (List Host.Cell)} (d : Dev) (n : Nat) (h_d : d.InvAt N G M) : (Dev.segShow d n).InvAt N G M := by
  unfold Dev.segShow
  try dsimp only
  repeat' first
    | with_reducible assumption
    | with_reducible apply Dev.st_inv
    | with_reducible apply Dev.powerOn_inv
    | with_reducible apply Dev.wr_inv
    | with_reducible apply Dev.wrBit_inv
    | simp only [↓Dev.inv_mk]
    | (split <;> (try dsimp only))
    | intro _

theorem Dev.segDone_inv {N G : Nat} {M : Option (List Host.Cell)} (d : Dev) (n : Nat) (j : TwJob) (status : Nat) (data : List Byte) (h_d : d.InvAt N G M) : (Dev.segDone d n j status data).InvAt N G M := by
  unfold Dev.segDone
  try dsimp only
  repeat' first
    | with_reducible assumption
    | with_reducible apply Dev.status_inv
    | with_reducible apply Dev.wr_inv
    | with_reducible apply Dev.inc_inv
    | simp only [↓Dev.inv_mk]
    | (split <;> (try dsimp only))
    | intro _

theorem Dev.segRun_inv {N G : Nat} {M : Option (List Host.Cell)} (d : Dev) (n : Nat) (j : TwJob) (h_d : d.InvAt N G M) : (Dev.segRun d n j).InvAt N G M := by
  unfold Dev.segRun
  try dsimp only
  repeat' first
    | with_reducible assumption
    | with_reducible apply Dev.wr_inv
    | with_reducible apply Dev.emit_inv
    | with_reducible apply Dev.segDone_inv
    | with_reducible apply Dev.segPut_inv
    | simp only [↓Dev.inv_mk]
    | (split <;> (try dsimp only))
    | intro _

theorem Dev.segPump_inv {N G : Nat} {M : Option (List Host.Cell)} (k : Nat) (d : Dev) (n : Nat) (h_d : d.InvAt N G M) : (Dev.segPump k d n).InvAt N G M := by
  induction k generalizing d with
  | zero => exact Dev.segShow_inv _ _ h_d
  | succ k ih =>
    unfold Dev.segPump
    dsimp only
    repeat' first
      | with_reducible assumption
      | with_reducible apply ih
      | with_reducible apply Dev.segShow_inv
      | with_reducible apply Dev.segDone_inv
      | with_reducible apply Dev.segRun_inv
      | with_reducible apply Dev.segPut_inv
      | split

theorem Dev.twOffer_inv {N G : Nat} {M : Option (List Host.Cell)} (d : Dev) (n : Nat) (ty : Nat) (t : TwDesc) (r : BusResult) (h_d : d.InvAt N G M) : (Dev.twOffer d n ty t r).InvAt N G M := by
  unfold Dev.twOffer
  try dsimp only
  repeat' first
    | with_reducible assumption
    | with_reducible apply Dev.segDone_inv
    | with_reducible apply Dev.segShow_inv
    | with_reducible apply Dev.note_inv
    | with_reducible apply Dev.segPut_inv
    | with_reducible apply Dev.segPump_inv
    | simp only [↓Dev.inv_mk]
    | (split <;> (try dsimp only))
    | intro _

theorem execQuickWrite_keeps {N G : Nat} {M : Option (List Host.Cell)} (n : Fin 12) (t : TwDesc) (r : BusResult) (s : State) (h_s : s.dev.InvAt N G M) : Res.Keeps N G M s.pending (execQuickWrite n t r s) := by
  apply State.run_keeps
  try dsimp only
  repeat' first
    | with_reducible assumption
    | with_reducible apply Dev.twOffer_inv
    | simp only [↓Dev.inv_mk]
    | (split <;> (try dsimp only))
    | intro _

theorem execQuickRead_keeps {N G : Nat} {M : Option (List Host.Cell)} (n : Fin 12) (t : TwDesc) (r : BusResult) (s : State) (h_s : s.dev.InvAt N G M) : Res.Keeps N G M s.pending (execQuickRead n t r s) := by
  apply State.run_keeps
  try dsimp only
  repeat' first
    | with_reducible assumption
    | with_reducible apply Dev.twOffer_inv
    | simp only [↓Dev.inv_mk]
    | (split <;> (try dsimp only))
    | intro _

theorem execSendByte_keeps {N G : Nat} {M : Option (List Host.Cell)} (n : Fin 12) (t : TwDesc) (r : BusResult) (s : State) (h_s : s.dev.InvAt N G M) : Res.Keeps N G M s.pending (execSendByte n t r s) := by
  apply State.run_keeps
  try dsimp only
  repeat' first
    | with_reducible assumption
    | with_reducible apply Dev.twOffer_inv
    | simp only [↓Dev.inv_mk]
    | (split <;> (try dsimp only))
    | intro _

theorem execReceiveByte_keeps {N G : Nat} {M : Option (List Host.Cell)} (n : Fin 12) (t : TwDesc) (r : BusResult) (s : State) (h_s : s.dev.InvAt N G M) : Res.Keeps N G M s.pending (execReceiveByte n t r s) := by
  apply State.run_keeps
  try dsimp only
  repeat' first
    | with_reducible assumption
    | with_reducible apply Dev.twOffer_inv
    | simp only [↓Dev.inv_mk]
    | (split <;> (try dsimp only))
    | intro _

theorem execWriteByte_keeps {N G : Nat} {M : Option (List Host.Cell)} (n : Fin 12) (t : TwDesc) (r : BusResult) (s : State) (h_s : s.dev.InvAt N G M) : Res.Keeps N G M s.pending (execWriteByte n t r s) := by
  apply State.run_keeps
  try dsimp only
  repeat' first
    | with_reducible assumption
    | with_reducible apply Dev.twOffer_inv
    | simp only [↓Dev.inv_mk]
    | (split <;> (try dsimp only))
    | intro _

theorem execWriteWord_keeps {N G : Nat} {M : Option (List Host.Cell)} (n : Fin 12) (t : TwDesc) (r : BusResult) (s : State) (h_s : s.dev.InvAt N G M) : Res.Keeps N G M s.pending (execWriteWord n t r s) := by
  apply State.run_keeps
  try dsimp only
  repeat' first
    | with_reducible assumption
    | with_reducible apply Dev.twOffer_inv
    | simp only [↓Dev.inv_mk]
    | (split <;> (try dsimp only))
    | intro _

theorem execReadByte_keeps {N G : Nat} {M : Option (List Host.Cell)} (n : Fin 12) (t : TwDesc) (r : BusResult) (s : State) (h_s : s.dev.InvAt N G M) : Res.Keeps N G M s.pending (execReadByte n t r s) := by
  apply State.run_keeps
  try dsimp only
  repeat' first
    | with_reducible assumption
    | with_reducible apply Dev.twOffer_inv
    | simp only [↓Dev.inv_mk]
    | (split <;> (try dsimp only))
    | intro _

theorem execReadWord_keeps {N G : Nat} {M : Option (List Host.Cell)} (n : Fin 12) (t : TwDesc) (r : BusResult) (s : State) (h_s : s.dev.InvAt N G M) : Res.Keeps N G M s.pending (execReadWord n t r s) := by
  apply State.run_keeps
  try dsimp only
  repeat' first
    | with_reducible assumption
    | with_reducible apply Dev.twOffer_inv
    | simp only [↓Dev.inv_mk]
    | (split <;> (try dsimp only))
    | intro _

theorem execBlockWrite_keeps {N G : Nat} {M : Option (List Host.Cell)} (n : Fin 12) (t : TwDesc) (r : BusResult) (s : State) (h_s : s.dev.InvAt N G M) : Res.Keeps N G M s.pending (execBlockWrite n t r s) := by
  apply State.run_keeps
  try dsimp only
  repeat' first
    | with_reducible assumption
    | with_reducible apply Dev.twOffer_inv
    | simp only [↓Dev.inv_mk]
    | (split <;> (try dsimp only))
    | intro _

theorem execBlockRead_keeps {N G : Nat} {M : Option (List Host.Cell)} (n : Fin 12) (t : TwDesc) (r : BusResult) (s : State) (h_s : s.dev.InvAt N G M) : Res.Keeps N G M s.pending (execBlockRead n t r s) := by
  apply State.run_keeps
  try dsimp only
  repeat' first
    | with_reducible assumption
    | with_reducible apply Dev.twOffer_inv
    | simp only [↓Dev.inv_mk]
    | (split <;> (try dsimp only))
    | intro _

theorem execProcessCall_keeps {N G : Nat} {M : Option (List Host.Cell)} (n : Fin 12) (t : TwDesc) (r : BusResult) (s : State) (h_s : s.dev.InvAt N G M) : Res.Keeps N G M s.pending (execProcessCall n t r s) := by
  apply State.run_keeps
  try dsimp only
  repeat' first
    | with_reducible assumption
    | with_reducible apply Dev.twOffer_inv
    | simp only [↓Dev.inv_mk]
    | (split <;> (try dsimp only))
    | intro _

theorem execBlockProcessCall_keeps {N G : Nat} {M : Option (List Host.Cell)} (n : Fin 12) (t : TwDesc) (r : BusResult) (s : State) (h_s : s.dev.InvAt N G M) : Res.Keeps N G M s.pending (execBlockProcessCall n t r s) := by
  apply State.run_keeps
  try dsimp only
  repeat' first
    | with_reducible assumption
    | with_reducible apply Dev.twOffer_inv
    | simp only [↓Dev.inv_mk]
    | (split <;> (try dsimp only))
    | intro _

theorem execReservedDescriptorType_keeps {N G : Nat} {M : Option (List Host.Cell)} (n : Fin 12) (ty : Fin 4) (t : TwDesc) (s : State) (h_s : s.dev.InvAt N G M) : Res.Keeps N G M s.pending (execReservedDescriptorType n ty t s) := by
  apply State.run_keeps
  try dsimp only
  repeat' first
    | with_reducible assumption
    | with_reducible apply Dev.twOffer_inv
    | simp only [↓Dev.inv_mk]
    | (split <;> (try dsimp only))
    | intro _

theorem Dev.segEnd_inv {N G : Nat} {M : Option (List Host.Cell)} (d : Dev) (n : Nat) (status : Nat) (h_d : d.InvAt N G M) : (Dev.segEnd d n status).InvAt N G M := by
  unfold Dev.segEnd
  try dsimp only
  repeat' first
    | with_reducible assumption
    | with_reducible apply Dev.segPut_inv
    | with_reducible apply Dev.segDone_inv
    | with_reducible apply Dev.status_inv
    | with_reducible apply Dev.segPump_inv
    | simp only [↓Dev.inv_mk]
    | (split <;> (try dsimp only))
    | intro _

theorem execClockStretchTimeout_keeps {N G : Nat} {M : Option (List Host.Cell)} (n : Fin 12) (s : State) (h_s : s.dev.InvAt N G M) : Res.Keeps N G M s.pending (execClockStretchTimeout n s) := by
  apply State.run_keeps
  try dsimp only
  repeat' first
    | with_reducible assumption
    | with_reducible apply Dev.inc_inv
    | with_reducible apply Dev.segEnd_inv
    | with_reducible apply hf
    | simp only [↓Dev.inv_mk]
    | (split <;> (try dsimp only))
    | intro _

theorem Dev.arbLost_inv {N G : Nat} {M : Option (List Host.Cell)} (d : Dev) (n : Nat) (addressed : Bool) (h_d : d.InvAt N G M) : (Dev.arbLost d n addressed).InvAt N G M := by
  unfold Dev.arbLost
  try dsimp only
  repeat' first
    | with_reducible assumption
    | with_reducible apply Dev.inc_inv
    | with_reducible apply Dev.segPut_inv
    | with_reducible apply Dev.emit_inv
    | with_reducible apply Dev.segEnd_inv
    | simp only [↓Dev.inv_mk]
    | (split <;> (try dsimp only))
    | intro _

theorem execArbitrationLost_keeps {N G : Nat} {M : Option (List Host.Cell)} (n : Fin 12) (addressed : Bool) (s : State) (h_s : s.dev.InvAt N G M) : Res.Keeps N G M s.pending (execArbitrationLost n addressed s) := by
  apply State.run_keeps
  try dsimp only
  repeat' first
    | with_reducible assumption
    | with_reducible apply Dev.arbLost_inv
    | simp only [↓Dev.inv_mk]
    | (split <;> (try dsimp only))
    | intro _

theorem Dev.arbRetry_inv {N G : Nat} {M : Option (List Host.Cell)} (d : Dev) (n : Nat) (r : BusResult) (h_d : d.InvAt N G M) : (Dev.arbRetry d n r).InvAt N G M := by
  unfold Dev.arbRetry
  try dsimp only
  repeat' first
    | with_reducible assumption
    | with_reducible apply Dev.segEnd_inv
    | with_reducible apply Dev.segPut_inv
    | with_reducible apply Dev.segRun_inv
    | with_reducible apply Dev.segPump_inv
    | simp only [↓Dev.inv_mk]
    | (split <;> (try dsimp only))
    | intro _

theorem execArbitrationRetry_keeps {N G : Nat} {M : Option (List Host.Cell)} (n : Fin 12) (r : BusResult) (s : State) (h_s : s.dev.InvAt N G M) : Res.Keeps N G M s.pending (execArbitrationRetry n r s) := by
  apply State.run_keeps
  try dsimp only
  repeat' first
    | with_reducible assumption
    | with_reducible apply Dev.arbRetry_inv
    | simp only [↓Dev.inv_mk]
    | (split <;> (try dsimp only))
    | intro _

theorem Dev.alertEval_inv {N G : Nat} {M : Option (List Host.Cell)} (d : Dev) (n : Nat) (h_d : d.InvAt N G M) : (Dev.alertEval d n).InvAt N G M := by
  unfold Dev.alertEval
  try dsimp only
  repeat' first
    | with_reducible assumption
    | with_reducible apply Dev.segPut_inv
    | with_reducible apply Dev.wr_inv
    | with_reducible apply Dev.segPump_inv
    | simp only [↓Dev.inv_mk]
    | (split <;> (try dsimp only))
    | intro _

theorem Dev.alertInput_inv {N G : Nat} {M : Option (List Host.Cell)} (d : Dev) (src : Nat) (level : Bool) (h_d : d.InvAt N G M) : (Dev.alertInput d src level).InvAt N G M := by
  unfold Dev.alertInput
  try dsimp only
  repeat' first
    | with_reducible assumption
    | with_reducible apply Dev.alertEval_inv
    | simp only [↓Dev.inv_mk]
    | (split <;> (try dsimp only))
    | intro _

theorem execAlertAssert_keeps {N G : Nat} {M : Option (List Host.Cell)} (src : Fin 20) (level : Bool) (s : State) (h_s : s.dev.InvAt N G M) : Res.Keeps N G M s.pending (execAlertAssert src level s) := by
  apply State.run_keeps
  try dsimp only
  repeat' first
    | with_reducible assumption
    | with_reducible apply Dev.alertInput_inv
    | simp only [↓Dev.inv_mk]
    | (split <;> (try dsimp only))
    | intro _

theorem Dev.alertStuck_inv {N G : Nat} {M : Option (List Host.Cell)} (d : Dev) (n : Nat) (h_d : d.InvAt N G M) : (Dev.alertStuck d n).InvAt N G M := by
  unfold Dev.alertStuck
  try dsimp only
  repeat' first
    | with_reducible assumption
    | with_reducible apply Dev.wr_inv
    | with_reducible apply Dev.segPut_inv
    | with_reducible apply Dev.segPump_inv
    | simp only [↓Dev.inv_mk]
    | (split <;> (try dsimp only))
    | intro _

theorem Dev.araRead_inv {N G : Nat} {M : Option (List Host.Cell)} (d : Dev) (n : Nat) (resp : Option Byte) (h_d : d.InvAt N G M) : (Dev.araRead d n resp).InvAt N G M := by
  unfold Dev.araRead
  try dsimp only
  repeat' first
    | with_reducible assumption
    | with_reducible apply Dev.emit_inv
    | with_reducible apply Dev.alertStuck_inv
    | with_reducible apply Dev.inc_inv
    | with_reducible apply Dev.wr_inv
    | with_reducible apply Dev.note_inv
    | with_reducible apply Dev.segPut_inv
    | simp only [↓Dev.inv_mk]
    | (split <;> (try dsimp only))
    | intro _

theorem execAraRead_keeps {N G : Nat} {M : Option (List Host.Cell)} (n : Fin 12) (resp : Option Byte) (s : State) (h_s : s.dev.InvAt N G M) : Res.Keeps N G M s.pending (execAraRead n resp s) := by
  apply State.run_keeps
  try dsimp only
  repeat' first
    | with_reducible assumption
    | with_reducible apply Dev.araRead_inv
    | simp only [↓Dev.inv_mk]
    | (split <;> (try dsimp only))
    | intro _

theorem execAlertUnmask_keeps {N G : Nat} {M : Option (List Host.Cell)} (n : Fin 12) (s : State) (h_s : s.dev.InvAt N G M) : Res.Keeps N G M s.pending (execAlertUnmask n s) := by
  apply State.run_keeps
  try dsimp only
  repeat' first
    | with_reducible assumption
    | with_reducible apply Dev.wr_inv
    | with_reducible apply Dev.alertEval_inv
    | with_reducible apply hf
    | simp only [↓Dev.inv_mk]
    | (split <;> (try dsimp only))
    | intro _

theorem Dev.segOut_inv {N G : Nat} {M : Option (List Host.Cell)} (d : Dev) (n : Nat) (h_d : d.InvAt N G M) : (Dev.segOut d n).InvAt N G M := by
  unfold Dev.segOut
  try dsimp only
  repeat' first
    | with_reducible assumption
    | with_reducible apply Dev.segPut_inv
    | with_reducible apply Dev.wr_inv
    | with_reducible apply Dev.ffr_inv
    | with_reducible apply Dev.segShow_inv
    | simp only [↓Dev.inv_mk]
    | (split <;> (try dsimp only))
    | intro _

theorem Dev.segFail_inv {N G : Nat} {M : Option (List Host.Cell)} (d : Dev) (n : Nat) (status : Nat) (h_d : d.InvAt N G M) : (Dev.segFail d n status).InvAt N G M := by
  unfold Dev.segFail
  try dsimp only
  repeat' first
    | with_reducible assumption
    | with_reducible apply List.foldl_inv
    | with_reducible apply List.foldl_inv2
    | with_reducible apply Dev.segDone_inv
    | with_reducible apply Dev.status_inv
    | with_reducible apply Dev.segPut_inv
    | with_reducible apply hf
    | simp only [↓Dev.inv_mk]
    | (split <;> (try dsimp only))
    | intro _

theorem Dev.twCoreAbort_inv {N G : Nat} {M : Option (List Host.Cell)} (d : Dev) (k : Nat) (h_d : d.InvAt N G M) : (Dev.twCoreAbort d k).InvAt N G M := by
  unfold Dev.twCoreAbort
  try dsimp only
  repeat' first
    | with_reducible assumption
    | with_reducible apply List.foldl_inv
    | with_reducible apply List.foldl_inv2
    | with_reducible apply Dev.segDone_inv
    | with_reducible apply Dev.segPut_inv
    | with_reducible apply Dev.segPump_inv
    | with_reducible apply hf
    | simp only [↓Dev.inv_mk]
    | (split <;> (try dsimp only))
    | intro _

theorem Dev.segPower_inv {N G : Nat} {M : Option (List Host.Cell)} (d : Dev) (n : Nat) (on : Bool) (h_d : d.InvAt N G M) : (Dev.segPower d n on).InvAt N G M := by
  unfold Dev.segPower
  try dsimp only
  repeat' first
    | with_reducible assumption
    | with_reducible apply Dev.pin_inv
    | simp only [↓Dev.inv_mk]
    | (split <;> (try dsimp only))
    | intro _

theorem Dev.stuckBus_inv {N G : Nat} {M : Option (List Host.Cell)} (d : Dev) (n : Nat) (sclLow : Bool) (freed : Bool) (h_d : d.InvAt N G M) : (Dev.stuckBus d n sclLow freed).InvAt N G M := by
  unfold Dev.stuckBus
  try dsimp only
  repeat' first
    | with_reducible assumption
    | with_reducible apply Dev.segFail_inv
    | with_reducible apply Dev.inc_inv
    | with_reducible apply Dev.segShow_inv
    | with_reducible apply Dev.segPower_inv
    | with_reducible apply Dev.segPut_inv
    | with_reducible apply Dev.segOut_inv
    | simp only [↓Dev.inv_mk]
    | (split <;> (try dsimp only))
    | intro _

theorem execStuckBus_keeps {N G : Nat} {M : Option (List Host.Cell)} (n : Fin 12) (sclLow : Bool) (freed : Bool) (s : State) (h_s : s.dev.InvAt N G M) : Res.Keeps N G M s.pending (execStuckBus n sclLow freed s) := by
  apply State.run_keeps
  try dsimp only
  repeat' first
    | with_reducible assumption
    | with_reducible apply Dev.stuckBus_inv
    | simp only [↓Dev.inv_mk]
    | (split <;> (try dsimp only))
    | intro _

theorem execSegpwrOffEnd_keeps {N G : Nat} {M : Option (List Host.Cell)} (n : Fin 12) (s : State) (h_s : s.dev.InvAt N G M) : Res.Keeps N G M s.pending (execSegpwrOffEnd n s) := by
  apply State.run_keeps
  try dsimp only
  repeat' first
    | with_reducible assumption
    | with_reducible apply Dev.segPower_inv
    | with_reducible apply Dev.segPut_inv
    | with_reducible apply Dev.powerOn_inv
    | with_reducible apply hf
    | simp only [↓Dev.inv_mk]
    | (split <;> (try dsimp only))
    | intro _

theorem execSegpwrOnEnd_keeps {N G : Nat} {M : Option (List Host.Cell)} (n : Fin 12) (linesHigh : Bool) (s : State) (h_s : s.dev.InvAt N G M) : Res.Keeps N G M s.pending (execSegpwrOnEnd n linesHigh s) := by
  apply State.run_keeps
  try dsimp only
  repeat' first
    | with_reducible assumption
    | with_reducible apply Dev.powerOn_inv
    | with_reducible apply Dev.segPut_inv
    | with_reducible apply Dev.segPump_inv
    | with_reducible apply Dev.segOut_inv
    | with_reducible apply hf
    | simp only [↓Dev.inv_mk]
    | (split <;> (try dsimp only))
    | intro _

theorem Dev.avsFrame_inv {N G : Nat} {M : Option (List Host.Cell)} (d : Dev) (a : Nat) (c : AvsCmd) (h_d : d.InvAt N G M) : (Dev.avsFrame d a c).InvAt N G M := by
  unfold Dev.avsFrame
  try dsimp only
  repeat' first
    | with_reducible assumption
    | with_reducible apply Dev.emit_inv
    | with_reducible apply Dev.status_inv
    | simp only [↓Dev.inv_mk]
    | (split <;> (try dsimp only))
    | intro _

theorem Dev.avsPump_inv {N G : Nat} {M : Option (List Host.Cell)} (d : Dev) (a : Nat) (h_d : d.InvAt N G M) : (Dev.avsPump d a).InvAt N G M := by
  unfold Dev.avsPump
  try dsimp only
  repeat' first
    | with_reducible assumption
    | with_reducible apply Dev.avsPut_inv
    | with_reducible apply Dev.avsFrame_inv
    | simp only [↓Dev.inv_mk]
    | (split <;> (try dsimp only))
    | intro _

theorem Dev.avsSend_inv {N G : Nat} {M : Option (List Host.Cell)} (d : Dev) (a : Nat) (c : AvsCmd) (h_d : d.InvAt N G M) : (Dev.avsSend d a c).InvAt N G M := by
  unfold Dev.avsSend
  try dsimp only
  repeat' first
    | with_reducible assumption
    | with_reducible apply Dev.avsPut_inv
    | with_reducible apply Dev.avsPump_inv
    | simp only [↓Dev.inv_mk]
    | (split <;> (try dsimp only))
    | intro _

theorem execAvsWriteCommit_keeps {N G : Nat} {M : Option (List Host.Cell)} (a : Fin 8) (mv : BitVec 16) (s : State) (h_s : s.dev.InvAt N G M) : Res.Keeps N G M s.pending (execAvsWriteCommit a mv s) := by
  apply State.run_keeps
  try dsimp only
  repeat' first
    | with_reducible assumption
    | with_reducible apply Dev.avsSend_inv
    | simp only [↓Dev.inv_mk]
    | (split <;> (try dsimp only))
    | intro _

theorem execAvsReadTelemetry_keeps {N G : Nat} {M : Option (List Host.Cell)} (a : Fin 8) (what : Fin 3) (s : State) (h_s : s.dev.InvAt N G M) : Res.Keeps N G M s.pending (execAvsReadTelemetry a what s) := by
  apply State.run_keeps
  try dsimp only
  repeat' first
    | with_reducible assumption
    | with_reducible apply Dev.avsSend_inv
    | simp only [↓Dev.inv_mk]
    | (split <;> (try dsimp only))
    | intro _

theorem execAvsReadStatus_keeps {N G : Nat} {M : Option (List Host.Cell)} (a : Fin 8) (s : State) (h_s : s.dev.InvAt N G M) : Res.Keeps N G M s.pending (execAvsReadStatus a s) := by
  apply State.run_keeps
  try dsimp only
  repeat' first
    | with_reducible assumption
    | with_reducible apply Dev.avsSend_inv
    | with_reducible apply Dev.status_inv
    | simp only [↓Dev.inv_mk]
    | (split <;> (try dsimp only))
    | intro _

theorem execAvsWriteStatus_keeps {N G : Nat} {M : Option (List Host.Cell)} (a : Fin 8) (v : BitVec 16) (s : State) (h_s : s.dev.InvAt N G M) : Res.Keeps N G M s.pending (execAvsWriteStatus a v s) := by
  apply State.run_keeps
  try dsimp only
  repeat' first
    | with_reducible assumption
    | with_reducible apply Dev.avsSend_inv
    | simp only [↓Dev.inv_mk]
    | (split <;> (try dsimp only))
    | intro _

theorem Dev.avsResend_inv {N G : Nat} {M : Option (List Host.Cell)} (d : Dev) (a : Nat) (c : AvsCmd) (k : Nat) (h_d : d.InvAt N G M) : (Dev.avsResend d a c k).InvAt N G M := by
  unfold Dev.avsResend
  try dsimp only
  repeat' first
    | with_reducible assumption
    | with_reducible apply Dev.avsPut_inv
    | with_reducible apply Dev.inc_inv
    | with_reducible apply Dev.avsFrame_inv
    | simp only [↓Dev.inv_mk]
    | (split <;> (try dsimp only))
    | intro _

theorem Dev.avsClear_inv {N G : Nat} {M : Option (List Host.Cell)} (d : Dev) (a : Nat) (h_d : d.InvAt N G M) : (Dev.avsClear d a).InvAt N G M := by
  unfold Dev.avsClear
  try dsimp only
  repeat' first
    | with_reducible assumption
    | with_reducible apply Dev.avsPut_inv
    | with_reducible apply Dev.avsPump_inv
    | simp only [↓Dev.inv_mk]
    | (split <;> (try dsimp only))
    | intro _

theorem Dev.avsAnswer_inv {N G : Nat} {M : Option (List Host.Cell)} (d : Dev) (a : Nat) (ack : Nat) (crcOk : Bool) (h_d : d.InvAt N G M) : (Dev.avsAnswer d a ack crcOk).2.InvAt N G M := by
  unfold Dev.avsAnswer
  try dsimp only
  repeat' first
    | with_reducible assumption
    | with_reducible apply Dev.wr_inv
    | with_reducible apply Dev.inc_inv
    | with_reducible apply Dev.avsClear_inv
    | with_reducible apply Dev.avsPut_inv
    | with_reducible apply Dev.avsResend_inv
    | simp only [↓Dev.inv_mk]
    | (split <;> (try dsimp only))
    | intro _

theorem execAvsBusyWaitEnd_keeps {N G : Nat} {M : Option (List Host.Cell)} (a : Fin 8) (s : State) (h_s : s.dev.InvAt N G M) : Res.Keeps N G M s.pending (execAvsBusyWaitEnd a s) := by
  apply State.run_keeps
  try dsimp only
  repeat' first
    | with_reducible assumption
    | with_reducible apply Dev.avsResend_inv
    | with_reducible apply hf
    | simp only [↓Dev.inv_mk]
    | (split <;> (try dsimp only))
    | intro _

theorem execAvsStatusAlert_keeps {N G : Nat} {M : Option (List Host.Cell)} (a : Fin 8) (s : State) (h_s : s.dev.InvAt N G M) : Res.Keeps N G M s.pending (execAvsStatusAlert a s) := by
  apply State.run_keeps
  try dsimp only
  repeat' first
    | with_reducible assumption
    | with_reducible apply Dev.wr_inv
    | with_reducible apply Dev.avsSend_inv
    | with_reducible apply Dev.status_inv
    | with_reducible apply hf
    | simp only [↓Dev.inv_mk]
    | (split <;> (try dsimp only))
    | intro _

end Sys2Proof.Machine
end

