-- ==== Sys2Proof/Laws/InvPowerOps.lean ====
section
/-! SUPPORT. Every operation of Machine/PowerOps.lean keeps the invariant. -/

namespace Sys2Proof.Machine

theorem Dev.pwPut_inv {N G : Nat} {M : Option (List Host.Cell)} (d : Dev) (a : Nat) (x : AccPwr) (h_d : d.InvAt N G M) : (Dev.pwPut d a x).InvAt N G M := by
  unfold Dev.pwPut
  try dsimp only
  repeat' first
    | with_reducible assumption
    | simp only [↓Dev.inv_mk]
    | (split <;> (try dsimp only))
    | intro _

theorem Dev.forAcc_inv {N G : Nat} {M : Option (List Host.Cell)} (d : Dev) (f : Dev → Nat → Dev) (h_d : d.InvAt N G M) (h_f : ∀ y0 y1, y0.InvAt N G M → (f y0 y1).InvAt N G M) : (Dev.forAcc d f).InvAt N G M := by
  unfold Dev.forAcc
  try dsimp only
  repeat' first
    | with_reducible assumption
    | with_reducible apply List.foldl_inv
    | with_reducible apply List.foldl_inv2
    | with_reducible apply h_f
    | simp only [↓Dev.inv_mk]
    | (split <;> (try dsimp only))
    | intro _

theorem Dev.emergUpdate_inv {N G : Nat} {M : Option (List Host.Cell)} (d : Dev) (h_d : d.InvAt N G M) : (Dev.emergUpdate d).InvAt N G M := by
  unfold Dev.emergUpdate
  try dsimp only
  repeat' first
    | with_reducible assumption
    | with_reducible apply Dev.wr_inv
    | with_reducible apply Dev.vector_inv
    | with_reducible apply Dev.st_inv
    | with_reducible apply Dev.event_inv
    | simp only [↓Dev.inv_mk]
    | (split <;> (try dsimp only))
    | intro _

theorem Dev.clampCmd_inv {N G : Nat} {M : Option (List Host.Cell)} (d : Dev) (a : Nat) (p : Nat) (h_d : d.InvAt N G M) : (Dev.clampCmd d a p).2.InvAt N G M := by
  unfold Dev.clampCmd
  try dsimp only
  repeat' first
    | with_reducible assumption
    | with_reducible apply Dev.pwPut_inv
    | with_reducible apply Dev.wrBit_inv
    | simp only [↓Dev.inv_mk]
    | (split <;> (try dsimp only))
    | intro _

theorem Dev.clampK_inv {N G : Nat} {M : Option (List Host.Cell)} (d : Dev) (a : Nat) (k : Nat) (h_d : d.InvAt N G M) : (Dev.clampK d a k).2.InvAt N G M := by
  unfold Dev.clampK
  try dsimp only
  repeat' first
    | with_reducible assumption
    | with_reducible apply Dev.pwPut_inv
    | with_reducible apply Dev.wrBit_inv
    | simp only [↓Dev.inv_mk]
    | (split <;> (try dsimp only))
    | intro _

theorem Dev.applyB_inv {N G : Nat} {M : Option (List Host.Cell)} (d : Dev) (a : Nat) (b : Nat) (h_d : d.InvAt N G M) : (Dev.applyB d a b).InvAt N G M := by
  unfold Dev.applyB
  try dsimp only
  repeat' first
    | with_reducible assumption
    | with_reducible apply Dev.pwPut_inv
    | with_reducible apply Dev.wr_inv
    | simp only [↓Dev.inv_mk]
    | (split <;> (try dsimp only))
    | intro _

theorem Dev.applyStaged_inv {N G : Nat} {M : Option (List Host.Cell)} (d : Dev) (a : Nat) (h_d : d.InvAt N G M) : (Dev.applyStaged d a).InvAt N G M := by
  unfold Dev.applyStaged
  try dsimp only
  repeat' first
    | with_reducible assumption
    | with_reducible apply Dev.wr_inv
    | with_reducible apply Dev.pwPut_inv
    | with_reducible apply Dev.applyB_inv
    | simp only [↓Dev.inv_mk]
    | (split <;> (try dsimp only))
    | intro _

theorem Dev.infeasible_inv {N G : Nat} {M : Option (List Host.Cell)} (d : Dev) (h_d : d.InvAt N G M) : (Dev.infeasible d).InvAt N G M := by
  unfold Dev.infeasible
  try dsimp only
  repeat' first
    | with_reducible assumption
    | with_reducible apply List.foldl_inv
    | with_reducible apply List.foldl_inv2
    | with_reducible apply Dev.applyB_inv
    | with_reducible apply Dev.wr_inv
    | with_reducible apply hf
    | simp only [↓Dev.inv_mk]
    | (split <;> (try dsimp only))
    | intro _

theorem Dev.showAvail_inv {N G : Nat} {M : Option (List Host.Cell)} (d : Dev) (h_d : d.InvAt N G M) : (Dev.showAvail d).InvAt N G M := by
  unfold Dev.showAvail
  try dsimp only
  repeat' first
    | with_reducible assumption
    | with_reducible apply Dev.wr_inv
    | simp only [↓Dev.inv_mk]
    | (split <;> (try dsimp only))
    | intro _

theorem Dev.sendPwr_inv {N G : Nat} {M : Option (List Host.Cell)} (d : Dev) (a : Nat) (ty : Nat) (pay : Nat) (h_d : d.InvAt N G M) : (Dev.sendPwr d a ty pay).2.InvAt N G M := by
  unfold Dev.sendPwr
  try dsimp only
  repeat' first
    | with_reducible assumption
    | with_reducible apply Dev.pwPut_inv
    | with_reducible apply Dev.sendFlit_inv
    | simp only [↓Dev.inv_mk]
    | (split <;> (try dsimp only))
    | intro _

theorem Dev.writeV_inv {N G : Nat} {M : Option (List Host.Cell)} (d : Dev) (a : Nat) (mv : Nat) (h_d : d.InvAt N G M) : (Dev.writeV d a mv).InvAt N G M := by
  unfold Dev.writeV
  try dsimp only
  repeat' first
    | with_reducible assumption
    | with_reducible apply Dev.avsSend_inv
    | simp only [↓Dev.inv_mk]
    | (split <;> (try dsimp only))
    | intro _

theorem Dev.showChange_inv {N G : Nat} {M : Option (List Host.Cell)} (d : Dev) (a : Nat) (h_d : d.InvAt N G M) : (Dev.showChange d a).InvAt N G M := by
  unfold Dev.showChange
  try dsimp only
  repeat' first
    | with_reducible assumption
    | with_reducible apply Dev.wr_inv
    | simp only [↓Dev.inv_mk]
    | (split <;> (try dsimp only))
    | intro _

theorem Dev.sendPset_inv {N G : Nat} {M : Option (List Host.Cell)} (d : Dev) (a : Nat) (q : Nat) (raise : Bool) (lim : Bool) (h_d : d.InvAt N G M) : (Dev.sendPset d a q raise lim).InvAt N G M := by
  unfold Dev.sendPset
  try dsimp only
  repeat' first
    | with_reducible assumption
    | with_reducible apply Dev.sendPwr_inv
    | with_reducible apply Dev.pwPut_inv
    | with_reducible apply Dev.showChange_inv
    | simp only [↓Dev.inv_mk]
    | (split <;> (try dsimp only))
    | intro _

theorem Dev.startChange_inv {N G : Nat} {M : Option (List Host.Cell)} (d : Dev) (a : Nat) (p : Nat) (q : Nat) (h_d : d.InvAt N G M) : (Dev.startChange d a p q).InvAt N G M := by
  unfold Dev.startChange
  try dsimp only
  repeat' first
    | with_reducible assumption
    | with_reducible apply Dev.pwPut_inv
    | with_reducible apply Dev.sendPset_inv
    | with_reducible apply Dev.showChange_inv
    | with_reducible apply Dev.writeV_inv
    | simp only [↓Dev.inv_mk]
    | (split <;> (try dsimp only))
    | intro _

theorem Dev.startPending_inv {N G : Nat} {M : Option (List Host.Cell)} (d : Dev) (a : Nat) (from' : Nat) (h_d : d.InvAt N G M) : (Dev.startPending d a from').InvAt N G M := by
  unfold Dev.startPending
  try dsimp only
  repeat' first
    | with_reducible assumption
    | with_reducible apply Dev.clampCmd_inv
    | with_reducible apply Dev.pwPut_inv
    | with_reducible apply Dev.startChange_inv
    | with_reducible apply Dev.showChange_inv
    | simp only [↓Dev.inv_mk]
    | (split <;> (try dsimp only))
    | intro _

theorem Dev.request_inv {N G : Nat} {M : Option (List Host.Cell)} (d : Dev) (a : Nat) (q : Nat) (stepped : Bool) (h_d : d.InvAt N G M) : (Dev.request d a q stepped).InvAt N G M := by
  unfold Dev.request
  try dsimp only
  repeat' first
    | with_reducible assumption
    | with_reducible apply Dev.sendPwr_inv
    | with_reducible apply Dev.pwPut_inv
    | with_reducible apply Dev.startPending_inv
    | with_reducible apply Dev.showChange_inv
    | simp only [↓Dev.inv_mk]
    | (split <;> (try dsimp only))
    | intro _

theorem Dev.preempt_inv {N G : Nat} {M : Option (List Host.Cell)} (d : Dev) (a : Nat) (q : Nat) (lim : Bool) (h_d : d.InvAt N G M) : (Dev.preempt d a q lim).InvAt N G M := by
  unfold Dev.preempt
  try dsimp only
  repeat' first
    | with_reducible assumption
    | with_reducible apply Dev.sendPwr_inv
    | with_reducible apply Dev.pwPut_inv
    | with_reducible apply Dev.showChange_inv
    | with_reducible apply Dev.startChange_inv
    | with_reducible apply Dev.sendPset_inv
    | simp only [↓Dev.inv_mk]
    | (split <;> (try dsimp only))
    | intro _

theorem Dev.gbWrite_inv {N G : Nat} {M : Option (List Host.Cell)} (d : Dev) (a : Nat) (old : Nat) (h_d : d.InvAt N G M) : (Dev.gbWrite d a old).InvAt N G M := by
  unfold Dev.gbWrite
  try dsimp only
  repeat' first
    | with_reducible assumption
    | with_reducible apply Dev.wr_inv
    | with_reducible apply Dev.writeV_inv
    | with_reducible apply Dev.sendPwr_inv
    | simp only [↓Dev.inv_mk]
    | (split <;> (try dsimp only))
    | intro _

theorem Dev.setGb_inv {N G : Nat} {M : Option (List Host.Cell)} (d : Dev) (a : Nat) (l : Nat) (h_d : d.InvAt N G M) : (Dev.setGb d a l).InvAt N G M := by
  unfold Dev.setGb
  try dsimp only
  repeat' first
    | with_reducible assumption
    | with_reducible apply Dev.wr_inv
    | with_reducible apply Dev.gbWrite_inv
    | with_reducible apply Dev.writeV_inv
    | with_reducible apply Dev.sendPwr_inv
    | simp only [↓Dev.inv_mk]
    | (split <;> (try dsimp only))
    | intro _

theorem Dev.dvfsFault_inv {N G : Nat} {M : Option (List Host.Cell)} (d : Dev) (a : Nat) (h_d : d.InvAt N G M) : (Dev.dvfsFault d a).InvAt N G M := by
  unfold Dev.dvfsFault
  try dsimp only
  repeat' first
    | with_reducible assumption
    | with_reducible apply Dev.wr_inv
    | with_reducible apply Dev.pwPut_inv
    | with_reducible apply Dev.ffr_inv
    | with_reducible apply Dev.sendPwr_inv
    | with_reducible apply Dev.showChange_inv
    | simp only [↓Dev.inv_mk]
    | (split <;> (try dsimp only))
    | intro _

theorem Dev.changeEnd_inv {N G : Nat} {M : Option (List Host.Cell)} (d : Dev) (a : Nat) (h_d : d.InvAt N G M) : (Dev.changeEnd d a).InvAt N G M := by
  unfold Dev.changeEnd
  try dsimp only
  repeat' first
    | with_reducible assumption
    | with_reducible apply Dev.pwPut_inv
    | with_reducible apply Dev.showChange_inv
    | with_reducible apply Dev.startPending_inv
    | simp only [↓Dev.inv_mk]
    | (split <;> (try dsimp only))
    | intro _

theorem Dev.changeDone_inv {N G : Nat} {M : Option (List Host.Cell)} (d : Dev) (a : Nat) (c : Change) (h_d : d.InvAt N G M) : (Dev.changeDone d a c).InvAt N G M := by
  unfold Dev.changeDone
  try dsimp only
  repeat' first
    | with_reducible assumption
    | with_reducible apply Dev.pwPut_inv
    | with_reducible apply Dev.changeEnd_inv
    | with_reducible apply Dev.showChange_inv
    | with_reducible apply Dev.writeV_inv
    | simp only [↓Dev.inv_mk]
    | (split <;> (try dsimp only))
    | intro _

theorem Dev.droopEvent_inv {N G : Nat} {M : Option (List Host.Cell)} (d : Dev) (a : Nat) (h_d : d.InvAt N G M) : (Dev.droopEvent d a).InvAt N G M := by
  unfold Dev.droopEvent
  try dsimp only
  repeat' first
    | with_reducible assumption
    | with_reducible apply Dev.pwPut_inv
    | with_reducible apply Dev.wr_inv
    | with_reducible apply Dev.setGb_inv
    | with_reducible apply Dev.preempt_inv
    | simp only [↓Dev.inv_mk]
    | (split <;> (try dsimp only))
    | intro _

theorem Dev.sendCheck_inv {N G : Nat} {M : Option (List Host.Cell)} (d : Dev) (a : Nat) (h_d : d.InvAt N G M) : (Dev.sendCheck d a).InvAt N G M := by
  unfold Dev.sendCheck
  try dsimp only
  repeat' first
    | with_reducible assumption
    | with_reducible apply Dev.sendFlit_inv
    | simp only [↓Dev.inv_mk]
    | (split <;> (try dsimp only))
    | intro _

theorem Dev.checkOn_inv {N G : Nat} {M : Option (List Host.Cell)} (d : Dev) (a : Nat) (h_d : d.InvAt N G M) : (Dev.checkOn d a).InvAt N G M := by
  unfold Dev.checkOn
  try dsimp only
  repeat' first
    | with_reducible assumption
    | with_reducible apply Dev.wrBit_inv
    | with_reducible apply Dev.wr_inv
    | with_reducible apply Dev.pin_inv
    | with_reducible apply Dev.pwPut_inv
    | with_reducible apply Dev.showChange_inv
    | with_reducible apply Dev.sendCheck_inv
    | simp only [↓Dev.inv_mk]
    | (split <;> (try dsimp only))
    | intro _

theorem Dev.checkOff_inv {N G : Nat} {M : Option (List Host.Cell)} (d : Dev) (a : Nat) (h_d : d.InvAt N G M) : (Dev.checkOff d a).InvAt N G M := by
  unfold Dev.checkOff
  try dsimp only
  repeat' first
    | with_reducible assumption
    | with_reducible apply Dev.wrBit_inv
    | with_reducible apply Dev.wr_inv
    | with_reducible apply Dev.pin_inv
    | with_reducible apply Dev.sendFlit_inv
    | with_reducible apply Dev.startPending_inv
    | with_reducible apply Dev.showChange_inv
    | simp only [↓Dev.inv_mk]
    | (split <;> (try dsimp only))
    | intro _

theorem Dev.checkUpdate_inv {N G : Nat} {M : Option (List Host.Cell)} (d : Dev) (h_d : d.InvAt N G M) : (Dev.checkUpdate d).InvAt N G M := by
  unfold Dev.checkUpdate
  try dsimp only
  repeat' first
    | with_reducible assumption
    | with_reducible apply Dev.forAcc_inv
    | with_reducible apply Dev.checkOn_inv
    | with_reducible apply Dev.checkOff_inv
    | with_reducible apply Dev.snapFire_inv
    | with_reducible apply hf
    | simp only [↓Dev.inv_mk]
    | (split <;> (try dsimp only))
    | intro _

theorem Dev.mateShow_inv {N G : Nat} {M : Option (List Host.Cell)} (d : Dev) (h_d : d.InvAt N G M) : (Dev.mateShow d).InvAt N G M := by
  unfold Dev.mateShow
  try dsimp only
  repeat' first
    | with_reducible assumption
    | with_reducible apply Dev.wr_inv
    | simp only [↓Dev.inv_mk]
    | (split <;> (try dsimp only))
    | intro _

theorem Dev.mateTrigger_inv {N G : Nat} {M : Option (List Host.Cell)} (d : Dev) (h_d : d.InvAt N G M) : (Dev.mateTrigger d).InvAt N G M := by
  unfold Dev.mateTrigger
  try dsimp only
  repeat' first
    | with_reducible assumption
    | with_reducible apply Dev.mateShow_inv
    | with_reducible apply Dev.wr_inv
    | with_reducible apply Dev.forAcc_inv
    | with_reducible apply Dev.pin_inv
    | with_reducible apply Dev.snapFire_inv
    | with_reducible apply Dev.checkUpdate_inv
    | with_reducible apply Dev.emergUpdate_inv
    | with_reducible apply hf
    | simp only [↓Dev.inv_mk]
    | (split <;> (try dsimp only))
    | intro _

theorem Dev.mateClear_inv {N G : Nat} {M : Option (List Host.Cell)} (d : Dev) (h_d : d.InvAt N G M) : (Dev.mateClear d).2.InvAt N G M := by
  unfold Dev.mateClear
  try dsimp only
  repeat' first
    | with_reducible assumption
    | with_reducible apply Dev.mateShow_inv
    | with_reducible apply Dev.wr_inv
    | with_reducible apply Dev.forAcc_inv
    | with_reducible apply Dev.pin_inv
    | with_reducible apply Dev.checkUpdate_inv
    | with_reducible apply Dev.emergUpdate_inv
    | with_reducible apply hf
    | simp only [↓Dev.inv_mk]
    | (split <;> (try dsimp only))
    | intro _

theorem Dev.trigLatch_inv {N G : Nat} {M : Option (List Host.Cell)} (d : Dev) (t : Nat) (h_d : d.InvAt N G M) : (Dev.trigLatch d t).InvAt N G M := by
  unfold Dev.trigLatch
  try dsimp only
  repeat' first
    | with_reducible assumption
    | with_reducible apply Dev.wrw_inv
    | simp only [↓Dev.inv_mk]
    | (split <;> (try dsimp only))
    | intro _

theorem Dev.checkSettle_inv {N G : Nat} {M : Option (List Host.Cell)} (d : Dev) (h_d : d.InvAt N G M) : (Dev.checkSettle d).InvAt N G M := by
  unfold Dev.checkSettle
  try dsimp only
  repeat' first
    | with_reducible assumption
    | with_reducible apply Dev.checkUpdate_inv
    | with_reducible apply Dev.mateTrigger_inv
    | with_reducible apply Dev.emergUpdate_inv
    | simp only [↓Dev.inv_mk]
    | (split <;> (try dsimp only))
    | intro _

end Sys2Proof.Machine
end

