-- ==== Sys2Proof/Laws/InvArbiterOps.lean ====
section
/-! SUPPORT. Every operation of Machine/ArbiterOps.lean keeps the invariant. -/

namespace Sys2Proof.Machine

theorem Dev.grPut_inv {N G : Nat} {M : Option (List Host.Cell)} (d : Dev) (g : Nat) (x : ArbGrp) (h_d : d.InvAt N G M) : (Dev.grPut d g x).InvAt N G M := by
  unfold Dev.grPut
  try dsimp only
  repeat' first
    | with_reducible assumption
    | simp only [↓Dev.inv_mk]
    | (split <;> (try dsimp only))
    | intro _

theorem Dev.readyTry_inv {N G : Nat} {M : Option (List Host.Cell)} (d : Dev) (h_d : d.InvAt N G M) : (Dev.readyTry d).InvAt N G M := by
  unfold Dev.readyTry
  try dsimp only
  repeat' first
    | with_reducible assumption
    | with_reducible apply Dev.wr_inv
    | with_reducible apply Dev.vector_inv
    | simp only [↓Dev.inv_mk]
    | (split <;> (try dsimp only))
    | intro _

theorem Dev.grShow_inv {N G : Nat} {M : Option (List Host.Cell)} (d : Dev) (g : Nat) (h_d : d.InvAt N G M) : (Dev.grShow d g).InvAt N G M := by
  unfold Dev.grShow
  try dsimp only
  repeat' first
    | with_reducible assumption
    | with_reducible apply Dev.wr_inv
    | simp only [↓Dev.inv_mk]
    | (split <;> (try dsimp only))
    | intro _

theorem Dev.applyGroup_inv {N G : Nat} {M : Option (List Host.Cell)} (d : Dev) (g : Nat) (h_d : d.InvAt N G M) : (Dev.applyGroup d g).InvAt N G M := by
  unfold Dev.applyGroup
  try dsimp only
  repeat' first
    | with_reducible assumption
    | with_reducible apply List.foldl_inv
    | with_reducible apply List.foldl_inv2
    | with_reducible apply Dev.applyStaged_inv
    | with_reducible apply Dev.grPut_inv
    | with_reducible apply Dev.grShow_inv
    | with_reducible apply hf
    | simp only [↓Dev.inv_mk]
    | (split <;> (try dsimp only))
    | intro _

theorem Dev.capSettle_inv {N G : Nat} {M : Option (List Host.Cell)} (d : Dev) (h_d : d.InvAt N G M) : (Dev.capSettle d).InvAt N G M := by
  unfold Dev.capSettle
  try dsimp only
  repeat' first
    | with_reducible assumption
    | simp only [↓Dev.inv_mk]
    | (split <;> (try dsimp only))
    | intro _

theorem Dev.stage_inv {N G : Nat} {M : Option (List Host.Cell)} (d : Dev) (a : Nat) (b : Nat) (h_d : d.InvAt N G M) : (Dev.stage d a b).InvAt N G M := by
  unfold Dev.stage
  try dsimp only
  repeat' first
    | with_reducible assumption
    | with_reducible apply Dev.pwPut_inv
    | with_reducible apply Dev.wr_inv
    | with_reducible apply Dev.applyB_inv
    | with_reducible apply Dev.grPut_inv
    | with_reducible apply Dev.grShow_inv
    | simp only [↓Dev.inv_mk]
    | (split <;> (try dsimp only))
    | intro _

theorem Dev.unpace_inv {N G : Nat} {M : Option (List Host.Cell)} (d : Dev) (g : Nat) (h_d : d.InvAt N G M) : (Dev.unpace d g).InvAt N G M := by
  unfold Dev.unpace
  try dsimp only
  repeat' first
    | with_reducible assumption
    | with_reducible apply Dev.applyGroup_inv
    | with_reducible apply Dev.capSettle_inv
    | with_reducible apply Dev.emergUpdate_inv
    | simp only [↓Dev.inv_mk]
    | (split <;> (try dsimp only))
    | intro _

theorem Dev.feasUpdate_inv {N G : Nat} {M : Option (List Host.Cell)} (d : Dev) (h_d : d.InvAt N G M) : (Dev.feasUpdate d).InvAt N G M := by
  unfold Dev.feasUpdate
  try dsimp only
  repeat' first
    | with_reducible assumption
    | with_reducible apply Dev.wr_inv
    | simp only [↓Dev.inv_mk]
    | (split <;> (try dsimp only))
    | intro _

theorem Dev.propose_inv {N G : Nat} {M : Option (List Host.Cell)} (d : Dev) (b : Nat → Nat) (h_d : d.InvAt N G M) : (Dev.propose d b).InvAt N G M := by
  unfold Dev.propose
  try dsimp only
  repeat' first
    | with_reducible assumption
    | with_reducible apply List.foldl_inv
    | with_reducible apply List.foldl_inv2
    | with_reducible apply Dev.showAvail_inv
    | with_reducible apply Dev.feasUpdate_inv
    | with_reducible apply Dev.infeasible_inv
    | with_reducible apply Dev.capSettle_inv
    | with_reducible apply Dev.emergUpdate_inv
    | with_reducible apply Dev.wr_inv
    | with_reducible apply Dev.stage_inv
    | with_reducible apply hf
    | simp only [↓Dev.inv_mk]
    | (split <;> (try dsimp only))
    | intro _

theorem Dev.emergencyCap_inv {N G : Nat} {M : Option (List Host.Cell)} (d : Dev) (h_d : d.InvAt N G M) : (Dev.emergencyCap d).InvAt N G M := by
  unfold Dev.emergencyCap
  try dsimp -zeta only
  repeat' first
    | with_reducible assumption
    | (extract_lets +onlyGivenNames x; refine Dev.seq_inv (N := N) (G := G) (M := M) x ?_ ?_; rotate_left; (clear_value x; revert x; intro _ _); rotate_left; (unfold x; clear x))
    | (extract_lets +onlyGivenNames x; refine Dev.seq_inv (N := N) (G := G) (M := M) x.2 ?_ ?_; rotate_left; (clear_value x; revert x; intro _ _); rotate_left; (unfold x; clear x))
    | (extract_lets +onlyGivenNames x; refine Dev.seqf_inv (N := N) (G := G) (M := M) x ?_ ?_; rotate_left; (clear_value x; revert x; intro _ hf); rotate_left; (unfold x; clear x))
    | (have x : Unit := (); extract_lets +onlyGivenNames x; refine Dev.seq_inv (N := N) (G := G) (M := M) x ?_ ?_; rotate_left; intro _; rotate_left; (unfold x; clear x))
    | (have x : Unit := (); extract_lets +onlyGivenNames x; refine Dev.seq_inv (N := N) (G := G) (M := M) x.2 ?_ ?_; rotate_left; intro _; rotate_left; (unfold x; clear x))
    | (extract_lets +onlyGivenNames x; clear_value x; revert x; intro _)
    | (have x : Unit := (); extract_lets +onlyGivenNames x; fail_if_success (have : Unit := x))
    | simp -zeta only [↓Dev.inv_mk]
    | with_reducible apply List.foldl_inv
    | with_reducible apply List.foldl_inv2
    | with_reducible apply Dev.showAvail_inv
    | with_reducible apply Dev.feasUpdate_inv
    | with_reducible apply Dev.applyB_inv
    | with_reducible apply Dev.pwPut_inv
    | with_reducible apply Dev.preempt_inv
    | with_reducible apply Dev.request_inv
    | with_reducible apply Dev.emergUpdate_inv
    | with_reducible apply hf
    | (split <;> (try dsimp -zeta only))
    | intro _

theorem Dev.setCap_inv {N G : Nat} {M : Option (List Host.Cell)} (d : Dev) (w : Nat) (emerg : Bool) (h_d : d.InvAt N G M) : (Dev.setCap d w emerg).2.InvAt N G M := by
  unfold Dev.setCap
  try dsimp only
  repeat' first
    | with_reducible assumption
    | with_reducible apply Dev.wr_inv
    | with_reducible apply Dev.emergencyCap_inv
    | with_reducible apply Dev.showAvail_inv
    | with_reducible apply Dev.feasUpdate_inv
    | with_reducible apply Dev.capSettle_inv
    | with_reducible apply Dev.emergUpdate_inv
    | with_reducible apply Dev.propose_inv
    | simp only [↓Dev.inv_mk]
    | (split <;> (try dsimp only))
    | intro _

theorem Dev.fillerSet_inv {N G : Nat} {M : Option (List Host.Cell)} (d : Dev) (a : Nat) (k : Nat) (ramp : Nat) (standing : Option Nat) (h_d : d.InvAt N G M) : (Dev.fillerSet d a k ramp standing).InvAt N G M := by
  unfold Dev.fillerSet
  try dsimp only
  repeat' first
    | with_reducible assumption
    | with_reducible apply Dev.clampK_inv
    | with_reducible apply Dev.sendPwr_inv
    | simp only [↓Dev.inv_mk]
    | (split <;> (try dsimp only))
    | intro _

theorem Dev.histPut_inv {N G : Nat} {M : Option (List Host.Cell)} (d : Dev) (g : Nat) (c : Nat) (v : Interval) (h_d : d.InvAt N G M) : (Dev.histPut d g c v).InvAt N G M := by
  unfold Dev.histPut
  try dsimp only
  repeat' first
    | with_reducible assumption
    | with_reducible apply Dev.grPut_inv
    | simp only [↓Dev.inv_mk]
    | (split <;> (try dsimp only))
    | intro _

theorem Dev.histUpdate_inv {N G : Nat} {M : Option (List Host.Cell)} (d : Dev) (g : Nat) (c : Nat) (h_d : d.InvAt N G M) : (Dev.histUpdate d g c).InvAt N G M := by
  unfold Dev.histUpdate
  try dsimp only
  repeat' first
    | with_reducible assumption
    | with_reducible apply List.foldl_inv
    | with_reducible apply List.foldl_inv2
    | with_reducible apply Dev.histPut_inv
    | simp only [↓Dev.inv_mk]
    | (split <;> (try dsimp only))
    | intro _

theorem Dev.race_inv {N G : Nat} {M : Option (List Host.Cell)} (d : Dev) (a : Nat) (h_d : d.InvAt N G M) : (Dev.race d a).InvAt N G M := by
  unfold Dev.race
  try dsimp only
  repeat' first
    | with_reducible assumption
    | with_reducible apply Dev.request_inv
    | simp only [↓Dev.inv_mk]
    | (split <;> (try dsimp only))
    | intro _

theorem Dev.settleOne_inv {N G : Nat} {M : Option (List Host.Cell)} (d : Dev) (v : Interval) (m : Nat) (a : Nat) (h_d : d.InvAt N G M) : (Dev.settleOne d v m a).InvAt N G M := by
  unfold Dev.settleOne
  try dsimp only
  repeat' first
    | with_reducible assumption
    | with_reducible apply Dev.request_inv
    | simp only [↓Dev.inv_mk]
    | (split <;> (try dsimp only))
    | intro _

theorem Dev.plan_inv {N G : Nat} {M : Option (List Host.Cell)} (d : Dev) (g : Nat) (c : Nat) (predicted : Bool) (h_d : d.InvAt N G M) : (Dev.plan d g c predicted).InvAt N G M := by
  unfold Dev.plan
  try dsimp only
  repeat' first
    | with_reducible assumption
    | with_reducible apply List.foldl_inv
    | with_reducible apply List.foldl_inv2
    | with_reducible apply Dev.race_inv
    | with_reducible apply Dev.settleOne_inv
    | with_reducible apply hf
    | simp only [↓Dev.inv_mk]
    | (split <;> (try dsimp only))
    | intro _

theorem Dev.armAll_inv {N G : Nat} {M : Option (List Host.Cell)} (d : Dev) (g : Nat) (h_d : d.InvAt N G M) : (Dev.armAll d g).InvAt N G M := by
  unfold Dev.armAll
  try dsimp only
  repeat' first
    | with_reducible assumption
    | with_reducible apply List.foldl_inv
    | with_reducible apply List.foldl_inv2
    | with_reducible apply Dev.fillerSet_inv
    | with_reducible apply hf
    | simp only [↓Dev.inv_mk]
    | (split <;> (try dsimp only))
    | intro _

theorem Dev.arbArrive_inv {N G : Nat} {M : Option (List Host.Cell)} (d : Dev) (g : Nat) (m : Nat) (h_d : d.InvAt N G M) : (Dev.arbArrive d g m).InvAt N G M := by
  unfold Dev.arbArrive
  try dsimp only
  repeat' first
    | with_reducible assumption
    | with_reducible apply Dev.grPut_inv
    | with_reducible apply Dev.fillerSet_inv
    | simp only [↓Dev.inv_mk]
    | (split <;> (try dsimp only))
    | intro _

theorem Dev.arbRelease_inv {N G : Nat} {M : Option (List Host.Cell)} (d : Dev) (g : Nat) (c : Nat) (h_d : d.InvAt N G M) : (Dev.arbRelease d g c).InvAt N G M := by
  unfold Dev.arbRelease
  try dsimp only
  repeat' first
    | with_reducible assumption
    | with_reducible apply Dev.inc_inv
    | with_reducible apply Dev.histUpdate_inv
    | with_reducible apply Dev.grPut_inv
    | with_reducible apply Dev.applyGroup_inv
    | with_reducible apply Dev.plan_inv
    | with_reducible apply Dev.armAll_inv
    | with_reducible apply Dev.capSettle_inv
    | with_reducible apply Dev.emergUpdate_inv
    | simp only [↓Dev.inv_mk]
    | (split <;> (try dsimp only))
    | intro _

end Sys2Proof.Machine
end

