-- ==== Sys2Proof/Laws/InvObserve.lean ====
section
/-! SUPPORT. Every operation of Machine/Observe.lean keeps the invariant. -/

namespace Sys2Proof.Machine

theorem Dev.pktOpen_inv {N G : Nat} {M : Option (List Host.Cell)} (d : Dev) (q : Nat) (writer : Nat) (h_d : d.InvAt N G M) : (Dev.pktOpen d q writer).InvAt N G M := by
  unfold Dev.pktOpen
  try dsimp only
  repeat' first
    | with_reducible assumption
    | with_reducible apply Dev.cqMay_inv
    | with_reducible apply Dev.wrBit_inv
    | with_reducible apply Dev.cqDropPacket_inv
    | with_reducible apply Dev.cqPut_inv
    | with_reducible apply Dev.cqOverMark_inv
    | simp only [↓Dev.inv_mk]
    | (split <;> (try dsimp only))
    | intro _

theorem Dev.wrData_inv {N G : Nat} {M : Option (List Host.Cell)} (d : Dev) (q : Nat) (writer : Nat) (v : Nat) (h_d : d.InvAt N G M) : (Dev.wrData d q writer v).InvAt N G M := by
  unfold Dev.wrData
  try dsimp only
  repeat' first
    | with_reducible assumption
    | with_reducible apply Dev.cqMay_inv
    | with_reducible apply Dev.cqStreamWord_inv
    | with_reducible apply Dev.wrBit_inv
    | with_reducible apply Dev.cqDropPacket_inv
    | with_reducible apply Dev.cqPut_inv
    | with_reducible apply Dev.cqOverMark_inv
    | simp only [↓Dev.inv_mk]
    | (split <;> (try dsimp only))
    | intro _

theorem Dev.pktClose_inv {N G : Nat} {M : Option (List Host.Cell)} (d : Dev) (q : Nat) (writer : Nat) (lastBytes : Nat) (h_d : d.InvAt N G M) : (Dev.pktClose d q writer lastBytes).InvAt N G M := by
  unfold Dev.pktClose
  try dsimp only
  repeat' first
    | with_reducible assumption
    | with_reducible apply Dev.cqMay_inv
    | with_reducible apply Dev.wrBit_inv
    | with_reducible apply Dev.cqPut_inv
    | with_reducible apply Dev.cqCommit_inv
    | with_reducible apply Dev.cqDropPacket_inv
    | simp only [↓Dev.inv_mk]
    | (split <;> (try dsimp only))
    | intro _

theorem Dev.wrFirst_inv {N G : Nat} {M : Option (List Host.Cell)} (d : Dev) (q : Nat) (writer : Nat) (v : Nat) (h_d : d.InvAt N G M) : (Dev.wrFirst d q writer v).InvAt N G M := by
  unfold Dev.wrFirst
  try dsimp only
  repeat' first
    | with_reducible assumption
    | with_reducible apply Dev.cqMay_inv
    | with_reducible apply Dev.cqStreamWord_inv
    | with_reducible apply Dev.wrBit_inv
    | simp only [↓Dev.inv_mk]
    | (split <;> (try dsimp only))
    | intro _

theorem Dev.cqLinger_inv {N G : Nat} {M : Option (List Host.Cell)} (d : Dev) (q : Nat) (h_d : d.InvAt N G M) : (Dev.cqLinger d q).InvAt N G M := by
  unfold Dev.cqLinger
  try dsimp only
  repeat' first
    | with_reducible assumption
    | with_reducible apply Dev.cqPut_inv
    | with_reducible apply Dev.cqWatch_inv
    | simp only [↓Dev.inv_mk]
    | (split <;> (try dsimp only))
    | intro _

theorem Dev.cqTake_inv {N G : Nat} {M : Option (List Host.Cell)} (d : Dev) (q : Nat) (h_d : d.InvAt N G M) : (Dev.cqTake d q).InvAt N G M := by
  unfold Dev.cqTake
  try dsimp only
  repeat' first
    | with_reducible assumption
    | with_reducible apply Dev.cqPut_inv
    | with_reducible apply Dev.cqWatch_inv
    | simp only [↓Dev.inv_mk]
    | (split <;> (try dsimp only))
    | intro _

theorem Dev.cqFeed_inv {N G : Nat} {M : Option (List Host.Cell)} (d : Dev) (q : Nat) (l : CqLine) (h_d : d.InvAt N G M) : (Dev.cqFeed d q l).InvAt N G M := by
  unfold Dev.cqFeed
  try dsimp only
  repeat' first
    | with_reducible assumption
    | with_reducible apply List.foldl_inv
    | with_reducible apply List.foldl_inv2
    | with_reducible apply Dev.crcFeedCtx_inv
    | with_reducible apply hf
    | simp only [↓Dev.inv_mk]
    | (split <;> (try dsimp only))
    | intro _

theorem Dev.rdTag_inv {N G : Nat} {M : Option (List Host.Cell)} (d : Dev) (q : Nat) (h_d : d.InvAt N G M) : (Dev.rdTag d q).InvAt N G M := by
  unfold Dev.rdTag
  try dsimp only
  repeat' first
    | with_reducible assumption
    | with_reducible apply List.foldl_inv
    | with_reducible apply List.foldl_inv2
    | with_reducible apply Dev.wr_inv
    | with_reducible apply Dev.emit_inv
    | with_reducible apply Dev.wrw_inv
    | with_reducible apply Dev.cqFeed_inv
    | with_reducible apply Dev.cqTake_inv
    | with_reducible apply hf
    | simp only [↓Dev.inv_mk]
    | (split <;> (try dsimp only))
    | intro _

theorem Dev.cqFlush_inv {N G : Nat} {M : Option (List Host.Cell)} (d : Dev) (q : Nat) (h_d : d.InvAt N G M) : (Dev.cqFlush d q).InvAt N G M := by
  unfold Dev.cqFlush
  try dsimp only
  repeat' first
    | with_reducible assumption
    | with_reducible apply Dev.cqPut_inv
    | with_reducible apply Dev.wr_inv
    | with_reducible apply Dev.inc_inv
    | with_reducible apply Dev.cqWatch_inv
    | simp only [↓Dev.inv_mk]
    | (split <;> (try dsimp only))
    | intro _

theorem Dev.markSet_inv {N G : Nat} {M : Option (List Host.Cell)} (d : Dev) (q : Nat) (h_d : d.InvAt N G M) : (Dev.markSet d q).InvAt N G M := by
  unfold Dev.markSet
  try dsimp only
  repeat' first
    | with_reducible assumption
    | with_reducible apply Dev.cqPut_inv
    | with_reducible apply Dev.wr_inv
    | simp only [↓Dev.inv_mk]
    | (split <;> (try dsimp only))
    | intro _

theorem Dev.rewind_inv {N G : Nat} {M : Option (List Host.Cell)} (d : Dev) (q : Nat) (h_d : d.InvAt N G M) : (Dev.rewind d q).InvAt N G M := by
  unfold Dev.rewind
  try dsimp only
  repeat' first
    | with_reducible assumption
    | with_reducible apply Dev.cqPut_inv
    | with_reducible apply Dev.cqWatch_inv
    | with_reducible apply Dev.wr_inv
    | simp only [↓Dev.inv_mk]
    | (split <;> (try dsimp only))
    | intro _

theorem Dev.traceSend_inv {N G : Nat} {M : Option (List Host.Cell)} (d : Dev) (h_d : d.InvAt N G M) : (Dev.traceSend d).InvAt N G M := by
  unfold Dev.traceSend
  try dsimp only
  repeat' first
    | with_reducible assumption
    | with_reducible apply Dev.emit_inv
    | with_reducible apply Dev.cqTake_inv
    | simp only [↓Dev.inv_mk]
    | (split <;> (try dsimp only))
    | intro _

theorem execCqPktOpen_keeps {N G : Nat} {M : Option (List Host.Cell)} (q : Fin 16) (writer : Fin 16) (s : State) (h_s : s.dev.InvAt N G M) : Res.Keeps N G M s.pending (execCqPktOpen q writer s) := by
  apply State.run_keeps
  try dsimp only
  repeat' first
    | with_reducible assumption
    | with_reducible apply Dev.pktOpen_inv
    | simp only [↓Dev.inv_mk]
    | (split <;> (try dsimp only))
    | intro _

theorem execCqWrData_keeps {N G : Nat} {M : Option (List Host.Cell)} (q : Fin 16) (writer : Fin 16) (v : Word) (s : State) (h_s : s.dev.InvAt N G M) : Res.Keeps N G M s.pending (execCqWrData q writer v s) := by
  apply State.run_keeps
  try dsimp only
  repeat' first
    | with_reducible assumption
    | with_reducible apply Dev.wrData_inv
    | simp only [↓Dev.inv_mk]
    | (split <;> (try dsimp only))
    | intro _

theorem execCqPktClose_keeps {N G : Nat} {M : Option (List Host.Cell)} (q : Fin 16) (writer : Fin 16) (lastBytes : BitVec 3) (s : State) (h_s : s.dev.InvAt N G M) : Res.Keeps N G M s.pending (execCqPktClose q writer lastBytes s) := by
  apply State.run_keeps
  try dsimp only
  repeat' first
    | with_reducible assumption
    | with_reducible apply Dev.pktClose_inv
    | simp only [↓Dev.inv_mk]
    | (split <;> (try dsimp only))
    | intro _

theorem execCqWrFirst_keeps {N G : Nat} {M : Option (List Host.Cell)} (q : Fin 16) (writer : Fin 16) (v : Word) (s : State) (h_s : s.dev.InvAt N G M) : Res.Keeps N G M s.pending (execCqWrFirst q writer v s) := by
  apply State.run_keeps
  try dsimp only
  repeat' first
    | with_reducible assumption
    | with_reducible apply Dev.wrFirst_inv
    | simp only [↓Dev.inv_mk]
    | (split <;> (try dsimp only))
    | intro _

theorem execCqLingerExpiry_keeps {N G : Nat} {M : Option (List Host.Cell)} (q : Fin 4) (s : State) (h_s : s.dev.InvAt N G M) : Res.Keeps N G M s.pending (execCqLingerExpiry q s) := by
  apply State.run_keeps
  try dsimp only
  repeat' first
    | with_reducible assumption
    | with_reducible apply Dev.cqLinger_inv
    | simp only [↓Dev.inv_mk]
    | (split <;> (try dsimp only))
    | intro _

theorem execCqRdTag_keeps {N G : Nat} {M : Option (List Host.Cell)} (q : Fin 16) (s : State) (h_s : s.dev.InvAt N G M) : Res.Keeps N G M s.pending (execCqRdTag q s) := by
  apply State.run_keeps
  try dsimp only
  repeat' first
    | with_reducible assumption
    | with_reducible apply Dev.rdTag_inv
    | simp only [↓Dev.inv_mk]
    | (split <;> (try dsimp only))
    | intro _

theorem execCqNoticeAck_keeps {N G : Nat} {M : Option (List Host.Cell)} (q : Fin 16) (n : BitVec 16) (s : State) (h_s : s.dev.InvAt N G M) : Res.Keeps N G M s.pending (execCqNoticeAck q n s) := by
  apply State.run_keeps
  try dsimp only
  repeat' first
    | with_reducible assumption
    | with_reducible apply Dev.wr_inv
    | with_reducible apply hf
    | simp only [↓Dev.inv_mk]
    | (split <;> (try dsimp only))
    | intro _

theorem execFlush_keeps {N G : Nat} {M : Option (List Host.Cell)} (q : Fin 16) (s : State) (h_s : s.dev.InvAt N G M) : Res.Keeps N G M s.pending (execFlush q s) := by
  apply State.run_keeps
  try dsimp only
  repeat' first
    | with_reducible assumption
    | with_reducible apply Dev.cqFlush_inv
    | simp only [↓Dev.inv_mk]
    | (split <;> (try dsimp only))
    | intro _

theorem execCqMarkSet_keeps {N G : Nat} {M : Option (List Host.Cell)} (q : Fin 16) (s : State) (h_s : s.dev.InvAt N G M) : Res.Keeps N G M s.pending (execCqMarkSet q s) := by
  apply State.run_keeps
  try dsimp only
  repeat' first
    | with_reducible assumption
    | with_reducible apply Dev.markSet_inv
    | simp only [↓Dev.inv_mk]
    | (split <;> (try dsimp only))
    | intro _

theorem execRewind_keeps {N G : Nat} {M : Option (List Host.Cell)} (q : Fin 16) (s : State) (h_s : s.dev.InvAt N G M) : Res.Keeps N G M s.pending (execRewind q s) := by
  apply State.run_keeps
  try dsimp only
  repeat' first
    | with_reducible assumption
    | with_reducible apply Dev.rewind_inv
    | simp only [↓Dev.inv_mk]
    | (split <;> (try dsimp only))
    | intro _

theorem execTraceUnitSend_keeps {N G : Nat} {M : Option (List Host.Cell)} (s : State) (h_s : s.dev.InvAt N G M) : Res.Keeps N G M s.pending (execTraceUnitSend s) := by
  apply State.run_keeps
  try dsimp only
  repeat' first
    | with_reducible assumption
    | with_reducible apply Dev.traceSend_inv
    | simp only [↓Dev.inv_mk]
    | (split <;> (try dsimp only))
    | intro _

theorem Dev.ffrAbsorb_inv {N G : Nat} {M : Option (List Host.Cell)} (n : Nat) (d : Dev) (h_d : d.InvAt N G M) : (Dev.ffrAbsorb n d).InvAt N G M := by
  induction n generalizing d with
  | zero => exact h_d
  | succ n ih =>
    unfold Dev.ffrAbsorb
    repeat' first
      | with_reducible assumption
      | with_reducible apply ih
      | with_reducible apply Dev.ffrFold_inv
      | simp only [↓Dev.inv_mk]
      | split

theorem Dev.ffrWrote_inv {N G : Nat} {M : Option (List Host.Cell)} (d : Dev) (lo hi : Nat) (h_d : d.InvAt N G M) :
    (Dev.ffrWrote d lo hi).InvAt N G M := by
  unfold Dev.ffrWrote
  dsimp only
  simp only [↓Dev.inv_mk]
  exact h_d

theorem Dev.ffrAppend_inv {N G : Nat} {M : Option (List Host.Cell)} (d : Dev) (h_d : d.InvAt N G M) : (Dev.ffrAppend d).InvAt N G M := by
  unfold Dev.ffrAppend
  try dsimp only
  repeat' first
    | with_reducible assumption
    | with_reducible apply Dev.ffrWrote_inv
    | with_reducible apply Dev.ffrAbsorb_inv
    | with_reducible apply Dev.free_inv
    | with_reducible apply Dev.wr_inv
    | with_reducible apply Dev.inc_inv
    | simp only [↓Dev.inv_mk]
    | (split <;> (try dsimp only))
    | intro _

theorem Dev.ffrRelease_inv {N G : Nat} {M : Option (List Host.Cell)} (d : Dev) (h_d : d.InvAt N G M) : (Dev.ffrRelease d).InvAt N G M := by
  unfold Dev.ffrRelease
  try dsimp only
  repeat' first
    | with_reducible assumption
    | with_reducible apply Dev.wr_inv
    | simp only [↓Dev.inv_mk]
    | (split <;> (try dsimp only))
    | intro _

theorem Dev.ffrClear_inv {N G : Nat} {M : Option (List Host.Cell)} (d : Dev) (key : Nat) (h_d : d.InvAt N G M) : (Dev.ffrClear d key).InvAt N G M := by
  unfold Dev.ffrClear
  try dsimp only
  repeat' first
    | with_reducible assumption
    | with_reducible apply Dev.ffrWrote_inv
    | with_reducible apply Dev.wr_inv
    | simp only [↓Dev.inv_mk]
    | (split <;> (try dsimp only))
    | intro _

theorem execFfrEvent_keeps {N G : Nat} {M : Option (List Host.Cell)} (rank : Fin 19) (cls : Fin 4) (code : BitVec 7) (payload : List Byte) (s : State) (h_s : s.dev.InvAt N G M) : Res.Keeps N G M s.pending (execFfrEvent rank cls code payload s) := by
  apply State.run_keeps
  try dsimp only
  repeat' first
    | with_reducible assumption
    | with_reducible apply Dev.ffrEvent_inv
    | with_reducible apply hf
    | simp only [↓Dev.inv_mk]
    | (split <;> (try dsimp only))
    | intro _

theorem execFfrAppend_keeps {N G : Nat} {M : Option (List Host.Cell)} (s : State) (h_s : s.dev.InvAt N G M) : Res.Keeps N G M s.pending (execFfrAppend s) := by
  apply State.run_keeps
  try dsimp only
  repeat' first
    | with_reducible assumption
    | with_reducible apply Dev.ffrAppend_inv
    | simp only [↓Dev.inv_mk]
    | (split <;> (try dsimp only))
    | intro _

theorem execFfrPause_keeps {N G : Nat} {M : Option (List Host.Cell)} (on : Bool) (s : State) (h_s : s.dev.InvAt N G M) : Res.Keeps N G M s.pending (execFfrPause on s) := by
  apply State.run_keeps
  try dsimp only
  repeat' first
    | with_reducible assumption
    | with_reducible apply Dev.wr_inv
    | with_reducible apply Dev.ffrRelease_inv
    | with_reducible apply hf
    | simp only [↓Dev.inv_mk]
    | (split <;> (try dsimp only))
    | intro _

theorem execFfrPauseExpiry_keeps {N G : Nat} {M : Option (List Host.Cell)} (s : State) (h_s : s.dev.InvAt N G M) : Res.Keeps N G M s.pending (execFfrPauseExpiry s) := by
  apply State.run_keeps
  try dsimp only
  repeat' first
    | with_reducible assumption
    | with_reducible apply Dev.ffrRelease_inv
    | with_reducible apply hf
    | simp only [↓Dev.inv_mk]
    | (split <;> (try dsimp only))
    | intro _

theorem execFfrClear_keeps {N G : Nat} {M : Option (List Host.Cell)} (key : BitVec 16) (s : State) (h_s : s.dev.InvAt N G M) : Res.Keeps N G M s.pending (execFfrClear key s) := by
  apply State.run_keeps
  try dsimp only
  repeat' first
    | with_reducible assumption
    | with_reducible apply Dev.ffrClear_inv
    | simp only [↓Dev.inv_mk]
    | (split <;> (try dsimp only))
    | intro _

theorem execCrcAlgWrite_keeps {N G : Nat} {M : Option (List Host.Cell)} (k : Fin 4) (alg : BitVec 3) (s : State) (h_s : s.dev.InvAt N G M) : Res.Keeps N G M s.pending (execCrcAlgWrite k alg s) := by
  apply State.run_keeps
  try dsimp only
  repeat' first
    | with_reducible assumption
    | with_reducible apply Dev.wr_inv
    | with_reducible apply Dev.crcLoad_inv
    | with_reducible apply hf
    | simp only [↓Dev.inv_mk]
    | (split <;> (try dsimp only))
    | intro _

theorem execCrcInit_keeps {N G : Nat} {M : Option (List Host.Cell)} (k : Fin 4) (s : State) (h_s : s.dev.InvAt N G M) : Res.Keeps N G M s.pending (execCrcInit k s) := by
  apply State.run_keeps
  try dsimp only
  repeat' first
    | with_reducible assumption
    | with_reducible apply Dev.crcLoad_inv
    | simp only [↓Dev.inv_mk]
    | (split <;> (try dsimp only))
    | intro _

theorem execCrcValueWrite_keeps {N G : Nat} {M : Option (List Host.Cell)} (k : Fin 4) (v : DWord) (s : State) (h_s : s.dev.InvAt N G M) : Res.Keeps N G M s.pending (execCrcValueWrite k v s) := by
  apply State.run_keeps
  try dsimp only
  repeat' first
    | with_reducible assumption
    | with_reducible apply Dev.wr64_inv
    | with_reducible apply hf
    | simp only [↓Dev.inv_mk]
    | (split <;> (try dsimp only))
    | intro _

theorem execCrcData_keeps {N G : Nat} {M : Option (List Host.Cell)} (k : Fin 4) (w : Width) (v : DWord) (s : State) (h_s : s.dev.InvAt N G M) : Res.Keeps N G M s.pending (execCrcData k w v s) := by
  apply State.run_keeps
  try dsimp only
  repeat' first
    | with_reducible assumption
    | with_reducible apply Dev.crcFeedCtx_inv
    | with_reducible apply hf
    | simp only [↓Dev.inv_mk]
    | (split <;> (try dsimp only))
    | intro _

end Sys2Proof.Machine
end

