-- ==== Sys2Proof/Laws/InvFrameOps.lean ====
section
/-! SUPPORT. Every operation of Machine/FrameOps.lean keeps the invariant. -/

namespace Sys2Proof.Machine

theorem Dev.frmAdd_inv {N G : Nat} {M : Option (List Host.Cell)} (d : Dev) (a : Nat) (pw : Int) (stale : Bool) (h_d : d.InvAt N G M) : (Dev.frmAdd d a pw stale).InvAt N G M := by
  unfold Dev.frmAdd
  try dsimp only
  repeat' first
    | with_reducible assumption
    | simp only [↓Dev.inv_mk]
    | (split <;> (try dsimp only))
    | intro _

theorem Dev.frameClose_inv {N G : Nat} {M : Option (List Host.Cell)} (d : Dev) (h_d : d.InvAt N G M) : (Dev.frameClose d).InvAt N G M := by
  unfold Dev.frameClose
  try dsimp only
  repeat' first
    | with_reducible assumption
    | with_reducible apply Dev.forAcc_inv
    | with_reducible apply Dev.pwPut_inv
    | with_reducible apply hf
    | simp only [↓Dev.inv_mk]
    | (split <;> (try dsimp only))
    | intro _

theorem Dev.frameRoll_inv {N G : Nat} {M : Option (List Host.Cell)} (d : Dev) (h_d : d.InvAt N G M) : (Dev.frameRoll d).InvAt N G M := by
  unfold Dev.frameRoll
  try dsimp only
  repeat' first
    | with_reducible assumption
    | with_reducible apply Dev.frameClose_inv
    | simp only [↓Dev.inv_mk]
    | (split <;> (try dsimp only))
    | intro _

end Sys2Proof.Machine
end

