-- ==== Sys2Proof/Laws/InvPower.lean ====
section
/-! SUPPORT. Every operation of Machine/Power.lean keeps the invariant. -/

namespace Sys2Proof.Machine

theorem Dev.fastPut_inv {N G : Nat} {M : Option (List Host.Cell)} (d : Dev) (f : Nat) (x : FastCh) (h_d : d.InvAt N G M) : (Dev.fastPut d f x).InvAt N G M := by
  unfold Dev.fastPut
  try dsimp only
  repeat' first
    | with_reducible assumption
    | simp only [↓Dev.inv_mk]
    | (split <;> (try dsimp only))
    | intro _

theorem Dev.fastVal_inv {N G : Nat} {M : Option (List Host.Cell)} (d : Dev) (f : Nat) (code : Nat) (h_d : d.InvAt N G M) : (Dev.fastVal d f code).2.InvAt N G M := by
  unfold Dev.fastVal
  try dsimp only
  repeat' first
    | with_reducible assumption
    | with_reducible apply Dev.free_inv
    | simp only [↓Dev.inv_mk]
    | (split <;> (try dsimp only))
    | intro _

theorem Dev.show16_inv {N G : Nat} {M : Option (List Host.Cell)} (d : Dev) (f : Fld) (i : Nat) (v : Int) (h_d : d.InvAt N G M) : (Dev.show16 d f i v).InvAt N G M := by
  unfold Dev.show16
  try dsimp only
  repeat' first
    | with_reducible assumption
    | with_reducible apply Dev.wr_inv
    | with_reducible apply Dev.free_inv
    | simp only [↓Dev.inv_mk]
    | (split <;> (try dsimp only))
    | intro _

theorem Dev.fastFail_inv {N G : Nat} {M : Option (List Host.Cell)} (d : Dev) (f : Nat) (h_d : d.InvAt N G M) : (Dev.fastFail d f).InvAt N G M := by
  unfold Dev.fastFail
  try dsimp only
  repeat' first
    | with_reducible assumption
    | with_reducible apply Dev.fastPut_inv
    | with_reducible apply Dev.wr_inv
    | with_reducible apply Dev.ffr_inv
    | simp only [↓Dev.inv_mk]
    | (split <;> (try dsimp only))
    | intro _

theorem Dev.fastIn_inv {N G : Nat} {M : Option (List Host.Cell)} (d : Dev) (f : Nat) (code : Nat) (stale : Bool) (h_d : d.InvAt N G M) : (Dev.fastIn d f code stale).2.InvAt N G M := by
  unfold Dev.fastIn
  try dsimp only
  repeat' first
    | with_reducible assumption
    | with_reducible apply Dev.wr_inv
    | with_reducible apply Dev.fastVal_inv
    | with_reducible apply Dev.show16_inv
    | with_reducible apply Dev.fastPut_inv
    | with_reducible apply Dev.fastFail_inv
    | simp only [↓Dev.inv_mk]
    | (split <;> (try dsimp only))
    | intro _

theorem Dev.busStart_inv {N G : Nat} {M : Option (List Host.Cell)} (d : Dev) (mv : Nat) (h_d : d.InvAt N G M) : (Dev.busStart d mv).InvAt N G M := by
  unfold Dev.busStart
  try dsimp only
  repeat' first
    | with_reducible assumption
    | with_reducible apply Dev.wr_inv
    | simp only [↓Dev.inv_mk]
    | (split <;> (try dsimp only))
    | intro _

theorem Dev.busSince_inv {N G : Nat} {M : Option (List Host.Cell)} (d : Dev) (mv : Nat) (h_d : d.InvAt N G M) : (Dev.busSince d mv).InvAt N G M := by
  unfold Dev.busSince
  try dsimp only
  repeat' first
    | with_reducible assumption
    | simp only [↓Dev.inv_mk]
    | (split <;> (try dsimp only))
    | intro _

theorem Dev.busWarn_inv {N G : Nat} {M : Option (List Host.Cell)} (d : Dev) (mv : Nat) (h_d : d.InvAt N G M) : (Dev.busWarn d mv).InvAt N G M := by
  unfold Dev.busWarn
  try dsimp only
  repeat' first
    | with_reducible assumption
    | with_reducible apply Dev.wr_inv
    | simp only [↓Dev.inv_mk]
    | (split <;> (try dsimp only))
    | intro _

theorem Dev.busSample_inv {N G : Nat} {M : Option (List Host.Cell)} (d : Dev) (mv : Nat) (h_d : d.InvAt N G M) : (Dev.busSample d mv).InvAt N G M := by
  unfold Dev.busSample
  try dsimp only
  repeat' first
    | with_reducible assumption
    | with_reducible apply Dev.wr_inv
    | with_reducible apply Dev.busStart_inv
    | with_reducible apply Dev.busSince_inv
    | with_reducible apply Dev.busWarn_inv
    | simp only [↓Dev.inv_mk]
    | (split <;> (try dsimp only))
    | intro _

theorem Dev.fastBus_inv {N G : Nat} {M : Option (List Host.Cell)} (d : Dev) (x : FastSlot) (h_d : d.InvAt N G M) : (Dev.fastBus d x).2.InvAt N G M := by
  unfold Dev.fastBus
  try dsimp only
  repeat' first
    | with_reducible assumption
    | with_reducible apply Dev.fastIn_inv
    | with_reducible apply Dev.busSample_inv
    | simp only [↓Dev.inv_mk]
    | (split <;> (try dsimp only))
    | intro _

theorem Dev.fastAdd_inv {N G : Nat} {M : Option (List Host.Cell)} (d : Dev) (a : Nat) (i : Int) (pw : Int) (st : Bool) (stV : Bool) (h_d : d.InvAt N G M) : (Dev.fastAdd d a i pw st stV).InvAt N G M := by
  unfold Dev.fastAdd
  try dsimp only
  repeat' first
    | with_reducible assumption
    | with_reducible apply Dev.st_inv
    | with_reducible apply Dev.pwPut_inv
    | with_reducible apply Dev.frmAdd_inv
    | simp only [↓Dev.inv_mk]
    | (split <;> (try dsimp only))
    | intro _

theorem Dev.fastAcc_inv {N G : Nat} {M : Option (List Host.Cell)} (d : Dev) (x : FastSlot) (mv : Int) (a : Nat) (h_d : d.InvAt N G M) : (Dev.fastAcc d x mv a).2.InvAt N G M := by
  unfold Dev.fastAcc
  try dsimp only
  repeat' first
    | with_reducible assumption
    | with_reducible apply Dev.st_inv
    | with_reducible apply Dev.fastIn_inv
    | with_reducible apply Dev.show16_inv
    | with_reducible apply Dev.fastAdd_inv
    | simp only [↓Dev.inv_mk]
    | (split <;> (try dsimp only))
    | intro _

theorem Dev.fastTray_inv {N G : Nat} {M : Option (List Host.Cell)} (d : Dev) (mv : Int) (ib : Int) (accs : Int) (h_d : d.InvAt N G M) : (Dev.fastTray d mv ib accs).InvAt N G M := by
  unfold Dev.fastTray
  try dsimp only
  repeat' first
    | with_reducible assumption
    | simp only [↓Dev.inv_mk]
    | (split <;> (try dsimp only))
    | intro _

theorem Dev.fastDroop_inv {N G : Nat} {M : Option (List Host.Cell)} (d : Dev) (mv : Int) (h_d : d.InvAt N G M) : (Dev.fastDroop d mv).InvAt N G M := by
  unfold Dev.fastDroop
  try dsimp only
  repeat' first
    | with_reducible assumption
    | with_reducible apply Dev.forAcc_inv
    | with_reducible apply Dev.droopEvent_inv
    | with_reducible apply hf
    | simp only [↓Dev.inv_mk]
    | (split <;> (try dsimp only))
    | intro _

theorem Dev.fastSample_inv {N G : Nat} {M : Option (List Host.Cell)} (d : Dev) (x : FastSlot) (h_d : d.InvAt N G M) : (Dev.fastSample d x).InvAt N G M := by
  unfold Dev.fastSample
  try dsimp only
  repeat' first
    | with_reducible assumption
    | with_reducible apply List.foldl_inv
    | with_reducible apply List.foldl_inv2
    | with_reducible apply Dev.fastBus_inv
    | with_reducible apply Dev.emergUpdate_inv
    | with_reducible apply Dev.frameRoll_inv
    | with_reducible apply Dev.fastIn_inv
    | with_reducible apply Dev.fastAcc_inv
    | with_reducible apply Dev.fastTray_inv
    | with_reducible apply Dev.fastDroop_inv
    | simp only [↓Dev.inv_mk]
    | (split <;> (try dsimp only))
    | intro _

theorem execFastSample_keeps {N G : Nat} {M : Option (List Host.Cell)} (x : FastSlot) (s : State) (h_s : s.dev.InvAt N G M) : Res.Keeps N G M s.pending (execFastSample x s) := by
  apply State.run_keeps
  try dsimp only
  repeat' first
    | with_reducible assumption
    | with_reducible apply Dev.fastSample_inv
    | with_reducible apply hf
    | simp only [↓Dev.inv_mk]
    | (split <;> (try dsimp only))
    | intro _

theorem Dev.limStepAcc_inv {N G : Nat} {M : Option (List Host.Cell)} (d : Dev) (a : Nat) (h_d : d.InvAt N G M) : (Dev.limStepAcc d a).InvAt N G M := by
  unfold Dev.limStepAcc
  try dsimp only
  repeat' first
    | with_reducible assumption
    | with_reducible apply Dev.pwPut_inv
    | with_reducible apply Dev.wrBit_inv
    | with_reducible apply Dev.preempt_inv
    | simp only [↓Dev.inv_mk]
    | (split <;> (try dsimp only))
    | intro _

theorem Dev.limiterWindow_inv {N G : Nat} {M : Option (List Host.Cell)} (d : Dev) (h_d : d.InvAt N G M) : (Dev.limiterWindow d).InvAt N G M := by
  unfold Dev.limiterWindow
  try dsimp only
  repeat' first
    | with_reducible assumption
    | with_reducible apply List.foldl_inv
    | with_reducible apply List.foldl_inv2
    | with_reducible apply Dev.forAcc_inv
    | with_reducible apply Dev.wrBit_inv
    | with_reducible apply Dev.show16_inv
    | with_reducible apply Dev.fastPut_inv
    | with_reducible apply Dev.fastFail_inv
    | with_reducible apply Dev.limStepAcc_inv
    | with_reducible apply Dev.pwPut_inv
    | with_reducible apply Dev.checkUpdate_inv
    | with_reducible apply Dev.emergUpdate_inv
    | with_reducible apply hf
    | simp only [↓Dev.inv_mk]
    | (split <;> (try dsimp only))
    | intro _

theorem execLimiterWindowEnd_keeps {N G : Nat} {M : Option (List Host.Cell)} (s : State) (h_s : s.dev.InvAt N G M) : Res.Keeps N G M s.pending (execLimiterWindowEnd s) := by
  apply State.run_keeps
  try dsimp only
  repeat' first
    | with_reducible assumption
    | with_reducible apply Dev.limiterWindow_inv
    | simp only [↓Dev.inv_mk]
    | (split <;> (try dsimp only))
    | intro _

theorem execBudgetProposal_keeps {N G : Nat} {M : Option (List Host.Cell)} (b : List (BitVec 16)) (s : State) (h_s : s.dev.InvAt N G M) : Res.Keeps N G M s.pending (execBudgetProposal b s) := by
  apply State.run_keeps
  try dsimp only
  repeat' first
    | with_reducible assumption
    | with_reducible apply Dev.propose_inv
    | with_reducible apply hf
    | simp only [↓Dev.inv_mk]
    | (split <;> (try dsimp only))
    | intro _

theorem Dev.capForceEnd_inv {N G : Nat} {M : Option (List Host.Cell)} (d : Dev) (g : Nat) (h_d : d.InvAt N G M) : (Dev.capForceEnd d g).InvAt N G M := by
  unfold Dev.capForceEnd
  try dsimp only
  repeat' first
    | with_reducible assumption
    | with_reducible apply Dev.applyGroup_inv
    | with_reducible apply Dev.inc_inv
    | with_reducible apply Dev.capSettle_inv
    | with_reducible apply Dev.emergUpdate_inv
    | simp only [↓Dev.inv_mk]
    | (split <;> (try dsimp only))
    | intro _

theorem execCapForceExpiry_keeps {N G : Nat} {M : Option (List Host.Cell)} (g : BitVec 8) (s : State) (h_s : s.dev.InvAt N G M) : Res.Keeps N G M s.pending (execCapForceExpiry g s) := by
  apply State.run_keeps
  try dsimp only
  repeat' first
    | with_reducible assumption
    | with_reducible apply Dev.capForceEnd_inv
    | simp only [↓Dev.inv_mk]
    | (split <;> (try dsimp only))
    | intro _

theorem execPstateRequest_keeps {N G : Nat} {M : Option (List Host.Cell)} (a : Fin 8) (p : BitVec 5) (s : State) (h_s : s.dev.InvAt N G M) : Res.Keeps N G M s.pending (execPstateRequest a p s) := by
  apply State.run_keeps
  try dsimp only
  repeat' first
    | with_reducible assumption
    | with_reducible apply Dev.request_inv
    | with_reducible apply hf
    | simp only [↓Dev.inv_mk]
    | (split <;> (try dsimp only))
    | intro _

theorem Dev.pstateAck_inv {N G : Nat} {M : Option (List Host.Cell)} (d : Dev) (a : Nat) (pay : Payload) (h_d : d.InvAt N G M) : (Dev.pstateAck d a pay).InvAt N G M := by
  unfold Dev.pstateAck
  try dsimp only
  repeat' first
    | with_reducible assumption
    | with_reducible apply Dev.takeRx_inv
    | with_reducible apply Dev.wr_inv
    | with_reducible apply Dev.changeDone_inv
    | with_reducible apply Dev.droopEvent_inv
    | with_reducible apply Dev.emergUpdate_inv
    | simp only [↓Dev.inv_mk]
    | (split <;> (try dsimp only))
    | intro _

theorem execPstateAck_keeps {N G : Nat} {M : Option (List Host.Cell)} (a : Fin 8) (p : Payload) (s : State) (h_s : s.dev.InvAt N G M) : Res.Keeps N G M s.pending (execPstateAck a p s) := by
  apply State.run_keeps
  try dsimp only
  repeat' first
    | with_reducible assumption
    | with_reducible apply Dev.pstateAck_inv
    | simp only [↓Dev.inv_mk]
    | (split <;> (try dsimp only))
    | intro _

theorem Dev.ackTimeout_inv {N G : Nat} {M : Option (List Host.Cell)} (d : Dev) (a : Nat) (h_d : d.InvAt N G M) : (Dev.ackTimeout d a).InvAt N G M := by
  unfold Dev.ackTimeout
  try dsimp only
  repeat' first
    | with_reducible assumption
    | with_reducible apply Dev.pwPut_inv
    | with_reducible apply Dev.sendFlit_inv
    | with_reducible apply Dev.dvfsFault_inv
    | simp only [↓Dev.inv_mk]
    | (split <;> (try dsimp only))
    | intro _

theorem execPstateAckTimeout_keeps {N G : Nat} {M : Option (List Host.Cell)} (a : Fin 8) (s : State) (h_s : s.dev.InvAt N G M) : Res.Keeps N G M s.pending (execPstateAckTimeout a s) := by
  apply State.run_keeps
  try dsimp only
  repeat' first
    | with_reducible assumption
    | with_reducible apply Dev.ackTimeout_inv
    | simp only [↓Dev.inv_mk]
    | (split <;> (try dsimp only))
    | intro _

theorem Dev.settled_inv {N G : Nat} {M : Option (List Host.Cell)} (d : Dev) (a : Nat) (h_d : d.InvAt N G M) : (Dev.settled d a).InvAt N G M := by
  unfold Dev.settled
  try dsimp only
  repeat' first
    | with_reducible assumption
    | with_reducible apply Dev.sendPset_inv
    | simp only [↓Dev.inv_mk]
    | (split <;> (try dsimp only))
    | intro _

theorem execVoltageSettleDone_keeps {N G : Nat} {M : Option (List Host.Cell)} (a : Fin 8) (s : State) (h_s : s.dev.InvAt N G M) : Res.Keeps N G M s.pending (execVoltageSettleDone a s) := by
  apply State.run_keeps
  try dsimp only
  repeat' first
    | with_reducible assumption
    | with_reducible apply Dev.settled_inv
    | simp only [↓Dev.inv_mk]
    | (split <;> (try dsimp only))
    | intro _

theorem Dev.voltDone_inv {N G : Nat} {M : Option (List Host.Cell)} (d : Dev) (a : Nat) (mv : Nat) (h_d : d.InvAt N G M) : (Dev.voltDone d a mv).InvAt N G M := by
  unfold Dev.voltDone
  try dsimp only
  repeat' first
    | with_reducible assumption
    | with_reducible apply Dev.wr_inv
    | with_reducible apply Dev.pwPut_inv
    | with_reducible apply Dev.changeEnd_inv
    | simp only [↓Dev.inv_mk]
    | (split <;> (try dsimp only))
    | intro _

theorem Dev.avsResponse_inv {N G : Nat} {M : Option (List Host.Cell)} (d : Dev) (a : Nat) (ack : Nat) (data : Nat) (crcOk : Bool) (h_d : d.InvAt N G M) : (Dev.avsResponse d a ack data crcOk).InvAt N G M := by
  unfold Dev.avsResponse
  try dsimp only
  repeat' first
    | with_reducible assumption
    | with_reducible apply Dev.avsAnswer_inv
    | with_reducible apply Dev.voltDone_inv
    | with_reducible apply Dev.note_inv
    | with_reducible apply Dev.status_inv
    | with_reducible apply Dev.wr_inv
    | with_reducible apply Dev.dvfsFault_inv
    | simp only [↓Dev.inv_mk]
    | (split <;> (try dsimp only))
    | intro _

theorem execAvsResponse_keeps {N G : Nat} {M : Option (List Host.Cell)} (a : Fin 8) (ack : BitVec 2) (data : BitVec 16) (crcOk : Bool) (s : State) (h_s : s.dev.InvAt N G M) : Res.Keeps N G M s.pending (execAvsResponse a ack data crcOk s) := by
  apply State.run_keeps
  try dsimp only
  repeat' first
    | with_reducible assumption
    | with_reducible apply Dev.avsResponse_inv
    | simp only [↓Dev.inv_mk]
    | (split <;> (try dsimp only))
    | intro _

theorem execFillerAck_keeps {N G : Nat} {M : Option (List Host.Cell)} (a : Fin 8) (p : Payload) (s : State) (h_s : s.dev.InvAt N G M) : Res.Keeps N G M s.pending (execFillerAck a p s) := by
  apply State.run_keeps
  try dsimp only
  repeat' first
    | with_reducible assumption
    | with_reducible apply Dev.takeRx_inv
    | with_reducible apply Dev.wr_inv
    | with_reducible apply hf
    | simp only [↓Dev.inv_mk]
    | (split <;> (try dsimp only))
    | intro _

theorem Dev.unlocked_inv {N G : Nat} {M : Option (List Host.Cell)} (d : Dev) (w0 : Nat) (f : Dev → Dev) (h_d : d.InvAt N G M) (h_f : ∀ y0, y0.InvAt N G M → (f y0).InvAt N G M) : (Dev.unlocked d w0 f).InvAt N G M := by
  unfold Dev.unlocked
  try dsimp only
  repeat' first
    | with_reducible assumption
    | with_reducible apply Dev.ffr_inv
    | with_reducible apply h_f
    | simp only [↓Dev.inv_mk]
    | (split <;> (try dsimp only))
    | intro _

theorem Dev.ptabValid_inv {N G : Nat} {M : Option (List Host.Cell)} (d : Dev) (a : Nat) (on : Bool) (h_d : d.InvAt N G M) : (Dev.ptabValid d a on).InvAt N G M := by
  unfold Dev.ptabValid
  try dsimp only
  repeat' first
    | with_reducible assumption
    | with_reducible apply Dev.unlocked_inv
    | with_reducible apply Dev.wr_inv
    | with_reducible apply hf
    | simp only [↓Dev.inv_mk]
    | (split <;> (try dsimp only))
    | intro _

theorem execPtabValidWrite_keeps {N G : Nat} {M : Option (List Host.Cell)} (a : Fin 8) (on : Bool) (s : State) (h_s : s.dev.InvAt N G M) : Res.Keeps N G M s.pending (execPtabValidWrite a on s) := by
  apply State.run_keeps
  try dsimp only
  repeat' first
    | with_reducible assumption
    | with_reducible apply Dev.ptabValid_inv
    | simp only [↓Dev.inv_mk]
    | (split <;> (try dsimp only))
    | intro _

theorem execDvfsFaultClear_keeps {N G : Nat} {M : Option (List Host.Cell)} (a : Fin 8) (s : State) (h_s : s.dev.InvAt N G M) : Res.Keeps N G M s.pending (execDvfsFaultClear a s) := by
  apply State.run_keeps
  try dsimp only
  repeat' first
    | with_reducible assumption
    | with_reducible apply Dev.wr_inv
    | with_reducible apply hf
    | simp only [↓Dev.inv_mk]
    | (split <;> (try dsimp only))
    | intro _

theorem execDroopClearExpiry_keeps {N G : Nat} {M : Option (List Host.Cell)} (a : Fin 8) (s : State) (h_s : s.dev.InvAt N G M) : Res.Keeps N G M s.pending (execDroopClearExpiry a s) := by
  apply State.run_keeps
  try dsimp only
  repeat' first
    | with_reducible assumption
    | with_reducible apply Dev.pwPut_inv
    | with_reducible apply Dev.hold_inv
    | with_reducible apply hf
    | simp only [↓Dev.inv_mk]
    | (split <;> (try dsimp only))
    | intro _

theorem Dev.droopEnd_inv {N G : Nat} {M : Option (List Host.Cell)} (d : Dev) (a : Nat) (h_d : d.InvAt N G M) : (Dev.droopEnd d a).InvAt N G M := by
  unfold Dev.droopEnd
  try dsimp only
  repeat' first
    | with_reducible assumption
    | with_reducible apply Dev.hold_inv
    | with_reducible apply Dev.pwPut_inv
    | with_reducible apply Dev.wr_inv
    | with_reducible apply Dev.startPending_inv
    | with_reducible apply Dev.showChange_inv
    | with_reducible apply Dev.gbWrite_inv
    | with_reducible apply Dev.setGb_inv
    | with_reducible apply Dev.emergUpdate_inv
    | simp only [↓Dev.inv_mk]
    | (split <;> (try dsimp only))
    | intro _

theorem execDroopHoldExpiry_keeps {N G : Nat} {M : Option (List Host.Cell)} (a : Fin 8) (s : State) (h_s : s.dev.InvAt N G M) : Res.Keeps N G M s.pending (execDroopHoldExpiry a s) := by
  apply State.run_keeps
  try dsimp only
  repeat' first
    | with_reducible assumption
    | with_reducible apply Dev.droopEnd_inv
    | simp only [↓Dev.inv_mk]
    | (split <;> (try dsimp only))
    | intro _

theorem Dev.trigLevel_inv {N G : Nat} {M : Option (List Host.Cell)} (d : Dev) (t : Nat) (active : Bool) (h_d : d.InvAt N G M) : (Dev.trigLevel d t active).InvAt N G M := by
  unfold Dev.trigLevel
  try dsimp only
  repeat' first
    | with_reducible assumption
    | with_reducible apply Dev.trigLatch_inv
    | simp only [↓Dev.inv_mk]
    | (split <;> (try dsimp only))
    | intro _

theorem execCheckTrigger_keeps {N G : Nat} {M : Option (List Host.Cell)} (t : Fin 32) (active : Bool) (s : State) (h_s : s.dev.InvAt N G M) : Res.Keeps N G M s.pending (execCheckTrigger t active s) := by
  apply State.run_keeps
  try dsimp only
  repeat' first
    | with_reducible assumption
    | with_reducible apply Dev.trigLevel_inv
    | with_reducible apply Dev.checkSettle_inv
    | with_reducible apply hf
    | simp only [↓Dev.inv_mk]
    | (split <;> (try dsimp only))
    | intro _

theorem execCheckForceWrite_keeps {N G : Nat} {M : Option (List Host.Cell)} (v : BitVec 8) (s : State) (h_s : s.dev.InvAt N G M) : Res.Keeps N G M s.pending (execCheckForceWrite v s) := by
  apply State.run_keeps
  try dsimp only
  repeat' first
    | with_reducible assumption
    | with_reducible apply Dev.wr_inv
    | with_reducible apply Dev.checkSettle_inv
    | with_reducible apply hf
    | simp only [↓Dev.inv_mk]
    | (split <;> (try dsimp only))
    | intro _

theorem Dev.checkEn_inv {N G : Nat} {M : Option (List Host.Cell)} (d : Dev) (v : Nat) (h_d : d.InvAt N G M) : (Dev.checkEn d v).InvAt N G M := by
  unfold Dev.checkEn
  try dsimp only
  repeat' first
    | with_reducible assumption
    | with_reducible apply List.foldl_inv
    | with_reducible apply List.foldl_inv2
    | with_reducible apply Dev.unlocked_inv
    | with_reducible apply Dev.wrw_inv
    | with_reducible apply Dev.trigLatch_inv
    | with_reducible apply Dev.checkSettle_inv
    | with_reducible apply hf
    | simp only [↓Dev.inv_mk]
    | (split <;> (try dsimp only))
    | intro _

theorem execCheckEnWrite_keeps {N G : Nat} {M : Option (List Host.Cell)} (v : Word) (s : State) (h_s : s.dev.InvAt N G M) : Res.Keeps N G M s.pending (execCheckEnWrite v s) := by
  apply State.run_keeps
  try dsimp only
  repeat' first
    | with_reducible assumption
    | with_reducible apply Dev.checkEn_inv
    | simp only [↓Dev.inv_mk]
    | (split <;> (try dsimp only))
    | intro _

theorem Dev.latchClear_inv {N G : Nat} {M : Option (List Host.Cell)} (d : Dev) (v : Nat) (h_d : d.InvAt N G M) : (Dev.latchClear d v).InvAt N G M := by
  unfold Dev.latchClear
  try dsimp only
  repeat' first
    | with_reducible assumption
    | with_reducible apply List.foldl_inv
    | with_reducible apply List.foldl_inv2
    | with_reducible apply Dev.wrw_inv
    | with_reducible apply Dev.checkSettle_inv
    | with_reducible apply hf
    | simp only [↓Dev.inv_mk]
    | (split <;> (try dsimp only))
    | intro _

theorem execCheckLatchClear_keeps {N G : Nat} {M : Option (List Host.Cell)} (v : Word) (s : State) (h_s : s.dev.InvAt N G M) : Res.Keeps N G M s.pending (execCheckLatchClear v s) := by
  apply State.run_keeps
  try dsimp only
  repeat' first
    | with_reducible assumption
    | with_reducible apply Dev.latchClear_inv
    | simp only [↓Dev.inv_mk]
    | (split <;> (try dsimp only))
    | intro _

theorem Dev.autoRelease_inv {N G : Nat} {M : Option (List Host.Cell)} (d : Dev) (t : Nat) (h_d : d.InvAt N G M) : (Dev.autoRelease d t).InvAt N G M := by
  unfold Dev.autoRelease
  try dsimp only
  repeat' first
    | with_reducible assumption
    | with_reducible apply Dev.latchClear_inv
    | simp only [↓Dev.inv_mk]
    | (split <;> (try dsimp only))
    | intro _

theorem execCheckAutoRelease_keeps {N G : Nat} {M : Option (List Host.Cell)} (t : Fin 24) (s : State) (h_s : s.dev.InvAt N G M) : Res.Keeps N G M s.pending (execCheckAutoRelease t s) := by
  apply State.run_keeps
  try dsimp only
  repeat' first
    | with_reducible assumption
    | with_reducible apply Dev.autoRelease_inv
    | simp only [↓Dev.inv_mk]
    | (split <;> (try dsimp only))
    | intro _

theorem execMateTrigger_keeps {N G : Nat} {M : Option (List Host.Cell)} (coolFail : Bool) (s : State) (h_s : s.dev.InvAt N G M) : Res.Keeps N G M s.pending (execMateTrigger coolFail s) := by
  apply State.run_keeps
  try dsimp only
  repeat' first
    | with_reducible assumption
    | with_reducible apply Dev.mateTrigger_inv
    | with_reducible apply hf
    | simp only [↓Dev.inv_mk]
    | (split <;> (try dsimp only))
    | intro _

theorem Dev.preramp_inv {N G : Nat} {M : Option (List Host.Cell)} (d : Dev) (g : Nat) (h_d : d.InvAt N G M) : (Dev.preramp d g).InvAt N G M := by
  unfold Dev.preramp
  try dsimp only
  repeat' first
    | with_reducible assumption
    | with_reducible apply List.foldl_inv
    | with_reducible apply List.foldl_inv2
    | with_reducible apply Dev.fillerSet_inv
    | with_reducible apply Dev.grPut_inv
    | with_reducible apply hf
    | simp only [↓Dev.inv_mk]
    | (split <;> (try dsimp only))
    | intro _

theorem execPrerampTimer_keeps {N G : Nat} {M : Option (List Host.Cell)} (g : BitVec 8) (s : State) (h_s : s.dev.InvAt N G M) : Res.Keeps N G M s.pending (execPrerampTimer g s) := by
  apply State.run_keeps
  try dsimp only
  repeat' first
    | with_reducible assumption
    | with_reducible apply Dev.preramp_inv
    | simp only [↓Dev.inv_mk]
    | (split <;> (try dsimp only))
    | intro _

theorem Dev.gbLead_inv {N G : Nat} {M : Option (List Host.Cell)} (d : Dev) (g : Nat) (h_d : d.InvAt N G M) : (Dev.gbLead d g).InvAt N G M := by
  unfold Dev.gbLead
  try dsimp only
  repeat' first
    | with_reducible assumption
    | with_reducible apply List.foldl_inv
    | with_reducible apply List.foldl_inv2
    | with_reducible apply Dev.grPut_inv
    | with_reducible apply Dev.setGb_inv
    | with_reducible apply hf
    | simp only [↓Dev.inv_mk]
    | (split <;> (try dsimp only))
    | intro _

theorem execGuardbandLead_keeps {N G : Nat} {M : Option (List Host.Cell)} (g : BitVec 8) (s : State) (h_s : s.dev.InvAt N G M) : Res.Keeps N G M s.pending (execGuardbandLead g s) := by
  apply State.run_keeps
  try dsimp only
  repeat' first
    | with_reducible assumption
    | with_reducible apply Dev.gbLead_inv
    | simp only [↓Dev.inv_mk]
    | (split <;> (try dsimp only))
    | intro _

theorem Dev.gbHoldEnd_inv {N G : Nat} {M : Option (List Host.Cell)} (d : Dev) (g : Nat) (h_d : d.InvAt N G M) : (Dev.gbHoldEnd d g).InvAt N G M := by
  unfold Dev.gbHoldEnd
  try dsimp only
  repeat' first
    | with_reducible assumption
    | with_reducible apply List.foldl_inv
    | with_reducible apply List.foldl_inv2
    | with_reducible apply Dev.grPut_inv
    | with_reducible apply Dev.setGb_inv
    | with_reducible apply hf
    | simp only [↓Dev.inv_mk]
    | (split <;> (try dsimp only))
    | intro _

theorem execGuardbandHoldEnd_keeps {N G : Nat} {M : Option (List Host.Cell)} (g : BitVec 8) (s : State) (h_s : s.dev.InvAt N G M) : Res.Keeps N G M s.pending (execGuardbandHoldEnd g s) := by
  apply State.run_keeps
  try dsimp only
  repeat' first
    | with_reducible assumption
    | with_reducible apply Dev.gbHoldEnd_inv
    | simp only [↓Dev.inv_mk]
    | (split <;> (try dsimp only))
    | intro _

theorem Dev.sbSend_inv {N G : Nat} {M : Option (List Host.Cell)} (d : Dev) (a : Nat) (r : BusResult) (h_d : d.InvAt N G M) : (Dev.sbSend d a r).2.InvAt N G M := by
  unfold Dev.sbSend
  try dsimp only
  repeat' first
    | with_reducible assumption
    | with_reducible apply Dev.emit_inv
    | simp only [↓Dev.inv_mk]
    | (split <;> (try dsimp only))
    | intro _

theorem Dev.sbWrite_inv {N G : Nat} {M : Option (List Host.Cell)} (d : Dev) (a : Nat) (r : BusResult) (h_d : d.InvAt N G M) : (Dev.sbWrite d a r).InvAt N G M := by
  unfold Dev.sbWrite
  try dsimp only
  repeat' first
    | with_reducible assumption
    | with_reducible apply Dev.sbSend_inv
    | with_reducible apply Dev.pwPut_inv
    | simp only [↓Dev.inv_mk]
    | (split <;> (try dsimp only))
    | intro _

theorem execSbLimitWrite_keeps {N G : Nat} {M : Option (List Host.Cell)} (a : Fin 8) (r : BusResult) (s : State) (h_s : s.dev.InvAt N G M) : Res.Keeps N G M s.pending (execSbLimitWrite a r s) := by
  apply State.run_keeps
  try dsimp only
  repeat' first
    | with_reducible assumption
    | with_reducible apply Dev.sbWrite_inv
    | simp only [↓Dev.inv_mk]
    | (split <;> (try dsimp only))
    | intro _

theorem execSbLimitRefresh_keeps {N G : Nat} {M : Option (List Host.Cell)} (a : Fin 8) (s : State) (h_s : s.dev.InvAt N G M) : Res.Keeps N G M s.pending (execSbLimitRefresh a s) := by
  apply State.run_keeps
  try dsimp only
  repeat' first
    | with_reducible assumption
    | with_reducible apply Dev.pwPut_inv
    | with_reducible apply hf
    | simp only [↓Dev.inv_mk]
    | (split <;> (try dsimp only))
    | intro _

theorem Dev.sbAgain_inv {N G : Nat} {M : Option (List Host.Cell)} (d : Dev) (a : Nat) (r : BusResult) (h_d : d.InvAt N G M) : (Dev.sbAgain d a r).InvAt N G M := by
  unfold Dev.sbAgain
  try dsimp only
  repeat' first
    | with_reducible assumption
    | with_reducible apply Dev.sbSend_inv
    | with_reducible apply Dev.pwPut_inv
    | with_reducible apply Dev.wr_inv
    | with_reducible apply Dev.ffr_inv
    | simp only [↓Dev.inv_mk]
    | (split <;> (try dsimp only))
    | intro _

theorem execSbLimitRetry_keeps {N G : Nat} {M : Option (List Host.Cell)} (a : Fin 8) (r : BusResult) (s : State) (h_s : s.dev.InvAt N G M) : Res.Keeps N G M s.pending (execSbLimitRetry a r s) := by
  apply State.run_keeps
  try dsimp only
  repeat' first
    | with_reducible assumption
    | with_reducible apply Dev.sbAgain_inv
    | simp only [↓Dev.inv_mk]
    | (split <;> (try dsimp only))
    | intro _

end Sys2Proof.Machine
end

