-- ==== Sys2Proof/Laws/InvSyncOps.lean ====
section
/-! SUPPORT. Every operation of Machine/SyncOps.lean keeps the invariant. -/

namespace Sys2Proof.Machine

theorem Dev.objPut_inv {N G : Nat} {M : Option (List Host.Cell)} (d : Dev) (i : Nat) (o : Obj) (h_d : d.InvAt N G M) : (Dev.objPut d i o).InvAt N G M := by
  unfold Dev.objPut
  try dsimp only
  repeat' first
    | with_reducible assumption
    | with_reducible apply Dev.dropWb_inv
    | simp only [↓Dev.inv_mk]
    | (split <;> (try dsimp only))
    | intro _

theorem Dev.syncSend_inv {N G : Nat} {M : Option (List Host.Cell)} (d : Dev) (src : Nat) (ty : Nat) (res : Nat) (st : Nat) (tag : Nat) (op : Nat) (h : Nat) (h_d : d.InvAt N G M) : (Dev.syncSend d src ty res st tag op h).InvAt N G M := by
  unfold Dev.syncSend
  try dsimp only
  repeat' first
    | with_reducible assumption
    | with_reducible apply Dev.inc_inv
    | with_reducible apply Dev.st_inv
    | with_reducible apply Dev.sendFlit_inv
    | with_reducible apply Dev.emit_inv
    | with_reducible apply Dev.wr64_inv
    | with_reducible apply Dev.wr_inv
    | simp only [↓Dev.inv_mk]
    | (split <;> (try dsimp only))
    | intro _

theorem Dev.notify_inv {N G : Nat} {M : Option (List Host.Cell)} (d : Dev) (w : Waiter) (st : Nat) (res : Nat) (h_d : d.InvAt N G M) : (Dev.notify d w st res).InvAt N G M := by
  unfold Dev.notify
  try dsimp only
  repeat' first
    | with_reducible assumption
    | with_reducible apply Dev.syncSend_inv
    | with_reducible apply Dev.st_inv
    | simp only [↓Dev.inv_mk]
    | (split <;> (try dsimp only))
    | intro _

theorem Dev.endWaiters_inv {N G : Nat} {M : Option (List Host.Cell)} (d : Dev) (p : Waiter → Bool) (st : Nat) (res : Waiter → Nat) (h_d : d.InvAt N G M) : (Dev.endWaiters d p st res).InvAt N G M := by
  unfold Dev.endWaiters
  try dsimp only
  repeat' first
    | with_reducible assumption
    | with_reducible apply List.foldl_inv
    | with_reducible apply List.foldl_inv2
    | with_reducible apply Dev.notify_inv
    | with_reducible apply Dev.st_inv
    | with_reducible apply hf
    | simp only [↓Dev.inv_mk]
    | (split <;> (try dsimp only))
    | intro _

theorem Dev.objPoisoned_inv {N G : Nat} {M : Option (List Host.Cell)} (d : Dev) (i : Nat) (h_d : d.InvAt N G M) : (Dev.objPoisoned d i).InvAt N G M := by
  unfold Dev.objPoisoned
  try dsimp only
  repeat' first
    | with_reducible assumption
    | with_reducible apply Dev.wr_inv
    | with_reducible apply Dev.ffr_inv
    | with_reducible apply Dev.endWaiters_inv
    | simp only [↓Dev.inv_mk]
    | (split <;> (try dsimp only))
    | intro _

theorem Dev.objCommit_inv {N G : Nat} {M : Option (List Host.Cell)} (d : Dev) (h : Nat) (o : Obj) (o' : Obj) (serve : Bool) (h_d : d.InvAt N G M) : (Dev.objCommit d h o o' serve).2.InvAt N G M := by
  unfold Dev.objCommit
  try dsimp only
  repeat' first
    | with_reducible assumption
    | with_reducible apply List.foldl_inv
    | with_reducible apply List.foldl_inv2
    | with_reducible apply Dev.objPut_inv
    | with_reducible apply Dev.notify_inv
    | with_reducible apply Dev.snapFire_inv
    | with_reducible apply hf
    | simp only [↓Dev.inv_mk]
    | (split <;> (try dsimp only))
    | intro _

theorem Dev.opsCount_inv {N G : Nat} {M : Option (List Host.Cell)} (d : Dev) (h_d : d.InvAt N G M) : (Dev.opsCount d).InvAt N G M := by
  unfold Dev.opsCount
  try dsimp only
  repeat' first
    | with_reducible assumption
    | with_reducible apply Dev.wr64_inv
    | simp only [↓Dev.inv_mk]
    | (split <;> (try dsimp only))
    | intro _

theorem Dev.syncRmw_inv {N G : Nat} {M : Option (List Host.Cell)} (d : Dev) (src : Nat) (m : Nat) (op : Nat) (cond : Nat) (w : Bool) (x : Nat) (timeout : Nat) (tag : Nat) (h : Nat) (h_d : d.InvAt N G M) : (Dev.syncRmw d src m op cond w x timeout tag h).InvAt N G M := by
  unfold Dev.syncRmw
  try dsimp only
  repeat' first
    | with_reducible assumption
    | with_reducible apply Dev.st_inv
    | with_reducible apply Dev.syncSend_inv
    | with_reducible apply Dev.objPut_inv
    | with_reducible apply Dev.objPoisoned_inv
    | with_reducible apply Dev.wr_inv
    | with_reducible apply Dev.opsCount_inv
    | with_reducible apply Dev.objCommit_inv
    | with_reducible apply Dev.arbArrive_inv
    | with_reducible apply Dev.arbRelease_inv
    | with_reducible apply Dev.inc_inv
    | with_reducible apply hf
    | simp only [↓Dev.inv_mk]
    | (split <;> (try dsimp only))
    | intro _

theorem Dev.syncReq_inv {N G : Nat} {M : Option (List Host.Cell)} (d : Dev) (src : Nat) (op : Nat) (cond : Nat) (w : Bool) (x : Nat) (timeout : Nat) (tag : Nat) (h : Nat) (h_d : d.InvAt N G M) : (Dev.syncReq d src op cond w x timeout tag h).InvAt N G M := by
  unfold Dev.syncReq
  try dsimp only
  repeat' first
    | with_reducible assumption
    | with_reducible apply Dev.st_inv
    | with_reducible apply Dev.syncSend_inv
    | with_reducible apply Dev.wr_inv
    | with_reducible apply Dev.syncRmw_inv
    | with_reducible apply hf
    | simp only [↓Dev.inv_mk]
    | (split <;> (try dsimp only))
    | intro _

theorem Dev.objFree_inv {N G : Nat} {M : Option (List Host.Cell)} (d : Dev) (i : Nat) (h_d : d.InvAt N G M) : (Dev.objFree d i).InvAt N G M := by
  unfold Dev.objFree
  try dsimp only
  repeat' first
    | with_reducible assumption
    | with_reducible apply Dev.objPut_inv
    | with_reducible apply Dev.endWaiters_inv
    | simp only [↓Dev.inv_mk]
    | (split <;> (try dsimp only))
    | intro _

theorem Dev.objPick_inv {N G : Nat} {M : Option (List Host.Cell)} (d : Dev) (r : Nat × Nat × Dev) (hr : d.objPick = some r) (h_d : d.InvAt N G M) : r.2.2.InvAt N G M := by
  unfold Dev.objPick at hr
  dsimp only at hr
  split at hr
  · cases hr; simp only [↓Dev.inv_mk]; exact h_d
  · split at hr
    · cases hr; simp only [↓Dev.inv_mk]; exact h_d
    · cases hr

theorem Dev.objAlloc_inv {N G : Nat} {M : Option (List Host.Cell)} (d : Dev) (g ty : Nat) (trk : Bool) (word1 value : Nat) (r : Nat × Dev)
    (hr : d.objAlloc g ty trk word1 value = some r) (h_d : d.InvAt N G M) : r.2.InvAt N G M := by
  unfold Dev.objAlloc at hr
  cases hp : d.objPick with
  | none => rw [hp] at hr; cases hr
  | some p => rw [hp] at hr; cases hr; exact Dev.objPut_inv _ _ _ (Dev.objPick_inv d p hp h_d)

theorem Dev.objAllocs_inv {N G : Nat} {M : Option (List Host.Cell)} (g ty : Nat) (trk : Bool) (word1 value n : Nat) (d : Dev) (r : List Nat × Dev)
    (hr : Dev.objAllocs g ty trk word1 value n d = some r) (h_d : d.InvAt N G M) : r.2.InvAt N G M := by
  induction n generalizing d r with
  | zero => cases hr; exact h_d
  | succ n ih =>
    unfold Dev.objAllocs at hr
    cases hp : d.objAlloc g ty trk word1 value with
    | none => rw [hp] at hr; cases hr
    | some p =>
      rw [hp] at hr
      dsimp only at hr
      cases hq : Dev.objAllocs g ty trk word1 value n p.2 with
      | none => rw [hq] at hr; cases hr
      | some q => rw [hq] at hr; cases hr; exact ih p.2 q hq (Dev.objAlloc_inv d g ty trk word1 value p hp h_d)

theorem Dev.sobClear_inv {N G : Nat} {M : Option (List Host.Cell)} (d : Dev) (h_d : d.InvAt N G M) : (Dev.sobClear d).InvAt N G M := by
  unfold Dev.sobClear
  try dsimp only
  repeat' first
    | with_reducible assumption
    | with_reducible apply Dev.resetRegs_inv
    | simp only [↓Dev.inv_mk]
    | (split <;> (try dsimp only))
    | intro _

end Sys2Proof.Machine
end

