-- ==== Sys2Proof/Laws/InvSync.lean ====
section
/-! SUPPORT. Every operation of Machine/Sync.lean keeps the invariant. -/

namespace Sys2Proof.Machine

theorem Dev.syncOp_inv {N G : Nat} {M : Option (List Host.Cell)} (d : Dev) (src : Nat) (op : Nat) (q : SyncReq) (h_d : d.InvAt N G M) : (Dev.syncOp d src op q).InvAt N G M := by
  unfold Dev.syncOp
  try dsimp only
  repeat' first
    | with_reducible assumption
    | with_reducible apply Dev.takeRx_inv
    | with_reducible apply Dev.syncReq_inv
    | simp only [↓Dev.inv_mk]
    | (split <;> (try dsimp only))
    | intro _

theorem execOpArrive_keeps {N G : Nat} {M : Option (List Host.Cell)} (src : Fin 9) (q : SyncReq) (s : State) (h_s : s.dev.InvAt N G M) : Res.Keeps N G M s.pending (execOpArrive src q s) := by
  apply State.run_keeps
  try dsimp only
  repeat' first
    | with_reducible assumption
    | with_reducible apply Dev.syncOp_inv
    | simp only [↓Dev.inv_mk]
    | (split <;> (try dsimp only))
    | intro _

theorem execOpWait_keeps {N G : Nat} {M : Option (List Host.Cell)} (src : Fin 9) (q : SyncReq) (s : State) (h_s : s.dev.InvAt N G M) : Res.Keeps N G M s.pending (execOpWait src q s) := by
  apply State.run_keeps
  try dsimp only
  repeat' first
    | with_reducible assumption
    | with_reducible apply Dev.syncOp_inv
    | simp only [↓Dev.inv_mk]
    | (split <;> (try dsimp only))
    | intro _

theorem execOpAdd_keeps {N G : Nat} {M : Option (List Host.Cell)} (src : Fin 9) (q : SyncReq) (s : State) (h_s : s.dev.InvAt N G M) : Res.Keeps N G M s.pending (execOpAdd src q s) := by
  apply State.run_keeps
  try dsimp only
  repeat' first
    | with_reducible assumption
    | with_reducible apply Dev.syncOp_inv
    | simp only [↓Dev.inv_mk]
    | (split <;> (try dsimp only))
    | intro _

theorem execOpFetchAdd_keeps {N G : Nat} {M : Option (List Host.Cell)} (src : Fin 9) (q : SyncReq) (s : State) (h_s : s.dev.InvAt N G M) : Res.Keeps N G M s.pending (execOpFetchAdd src q s) := by
  apply State.run_keeps
  try dsimp only
  repeat' first
    | with_reducible assumption
    | with_reducible apply Dev.syncOp_inv
    | simp only [↓Dev.inv_mk]
    | (split <;> (try dsimp only))
    | intro _

theorem execOpCas_keeps {N G : Nat} {M : Option (List Host.Cell)} (src : Fin 9) (q : SyncReq) (s : State) (h_s : s.dev.InvAt N G M) : Res.Keeps N G M s.pending (execOpCas src q s) := by
  apply State.run_keeps
  try dsimp only
  repeat' first
    | with_reducible assumption
    | with_reducible apply Dev.syncOp_inv
    | simp only [↓Dev.inv_mk]
    | (split <;> (try dsimp only))
    | intro _

theorem execOpSet_keeps {N G : Nat} {M : Option (List Host.Cell)} (src : Fin 9) (q : SyncReq) (s : State) (h_s : s.dev.InvAt N G M) : Res.Keeps N G M s.pending (execOpSet src q s) := by
  apply State.run_keeps
  try dsimp only
  repeat' first
    | with_reducible assumption
    | with_reducible apply Dev.syncOp_inv
    | simp only [↓Dev.inv_mk]
    | (split <;> (try dsimp only))
    | intro _

theorem execOpReset_keeps {N G : Nat} {M : Option (List Host.Cell)} (src : Fin 9) (q : SyncReq) (s : State) (h_s : s.dev.InvAt N G M) : Res.Keeps N G M s.pending (execOpReset src q s) := by
  apply State.run_keeps
  try dsimp only
  repeat' first
    | with_reducible assumption
    | with_reducible apply Dev.syncOp_inv
    | simp only [↓Dev.inv_mk]
    | (split <;> (try dsimp only))
    | intro _

theorem execOpReserved_keeps {N G : Nat} {M : Option (List Host.Cell)} (src : Fin 9) (op : Fin 9) (q : SyncReq) (s : State) (h_s : s.dev.InvAt N G M) : Res.Keeps N G M s.pending (execOpReserved src op q s) := by
  apply State.run_keeps
  try dsimp only
  repeat' first
    | with_reducible assumption
    | with_reducible apply Dev.syncOp_inv
    | simp only [↓Dev.inv_mk]
    | (split <;> (try dsimp only))
    | intro _

theorem Dev.waitTimeouts_inv {N G : Nat} {M : Option (List Host.Cell)} (d : Dev) (h_d : d.InvAt N G M) : (Dev.waitTimeouts d).InvAt N G M := by
  unfold Dev.waitTimeouts
  try dsimp only
  repeat' first
    | with_reducible assumption
    | with_reducible apply Dev.inc_inv
    | with_reducible apply Dev.endWaiters_inv
    | simp only [↓Dev.inv_mk]
    | (split <;> (try dsimp only))
    | intro _

theorem execSyncWaitTimeout_keeps {N G : Nat} {M : Option (List Host.Cell)} (s : State) (h_s : s.dev.InvAt N G M) : Res.Keeps N G M s.pending (execSyncWaitTimeout s) := by
  apply State.run_keeps
  try dsimp only
  repeat' first
    | with_reducible assumption
    | with_reducible apply Dev.waitTimeouts_inv
    | simp only [↓Dev.inv_mk]
    | (split <;> (try dsimp only))
    | intro _

theorem Dev.hopGo_inv {N G : Nat} {M : Option (List Host.Cell)} (d : Dev) (cmd : Nat) (h_d : d.InvAt N G M) : (Dev.hopGo d cmd).InvAt N G M := by
  unfold Dev.hopGo
  try dsimp only
  repeat' first
    | with_reducible assumption
    | with_reducible apply Dev.wrw_inv
    | with_reducible apply Dev.wr_inv
    | with_reducible apply Dev.syncReq_inv
    | simp only [↓Dev.inv_mk]
    | (split <;> (try dsimp only))
    | intro _

theorem execSobHopGo_keeps {N G : Nat} {M : Option (List Host.Cell)} (cmd : Word) (s : State) (h_s : s.dev.InvAt N G M) : Res.Keeps N G M s.pending (execSobHopGo cmd s) := by
  apply State.run_keeps
  try dsimp only
  repeat' first
    | with_reducible assumption
    | with_reducible apply Dev.hopGo_inv
    | simp only [↓Dev.inv_mk]
    | (split <;> (try dsimp only))
    | intro _

theorem Dev.winRead_inv {N G : Nat} {M : Option (List Host.Cell)} (d : Dev) (off : Nat) (w : Width) (h_d : d.InvAt N G M) : (Dev.winRead d off w).InvAt N G M := by
  unfold Dev.winRead
  try dsimp only
  repeat' first
    | with_reducible assumption
    | with_reducible apply Dev.emit_inv
    | simp only [↓Dev.inv_mk]
    | (split <;> (try dsimp only))
    | intro _

theorem execSyncWindowRead_keeps {N G : Nat} {M : Option (List Host.Cell)} (off : BitVec 20) (w : Width) (s : State) (h_s : s.dev.InvAt N G M) : Res.Keeps N G M s.pending (execSyncWindowRead off w s) := by
  apply State.run_keeps
  try dsimp only
  repeat' first
    | with_reducible assumption
    | with_reducible apply Dev.winRead_inv
    | simp only [↓Dev.inv_mk]
    | (split <;> (try dsimp only))
    | intro _

theorem execSyncWindowWrite_keeps {N G : Nat} {M : Option (List Host.Cell)} (off : BitVec 20) (v : DWord) (s : State) (h_s : s.dev.InvAt N G M) : Res.Keeps N G M s.pending (execSyncWindowWrite off v s) := by
  unfold execSyncWindowWrite
  apply State.run_keeps
  try dsimp only
  repeat' first
    | with_reducible assumption
    | with_reducible apply Dev.wr_inv
    | with_reducible apply hf
    | simp only [↓Dev.inv_mk]
    | (split <;> (try dsimp only))
    | intro _

theorem execSobWaitersWrite_keeps {N G : Nat} {M : Option (List Host.Cell)} (s : State) (h_s : s.dev.InvAt N G M) : Res.Keeps N G M s.pending (execSobWaitersWrite s) := by
  apply State.run_keeps
  try dsimp only
  repeat' first
    | with_reducible assumption
    | with_reducible apply Dev.wr_inv
    | with_reducible apply hf
    | simp only [↓Dev.inv_mk]
    | (split <;> (try dsimp only))
    | intro _

theorem execSobEnWrite_keeps {N G : Nat} {M : Option (List Host.Cell)} (ag : Agent) (on : Bool) (s : State) (h_s : s.dev.InvAt N G M) : Res.Keeps N G M s.pending (execSobEnWrite ag on s) := by
  apply State.run_keeps
  try dsimp only
  repeat' first
    | with_reducible assumption
    | with_reducible apply Dev.wr_inv
    | with_reducible apply Dev.readyTry_inv
    | with_reducible apply hf
    | simp only [↓Dev.inv_mk]
    | (split <;> (try dsimp only))
    | intro _

end Sys2Proof.Machine
end

