-- ==== Sys2Proof/Laws/InvBoardOps.lean ====
section
/-! SUPPORT. Every operation of Machine/BoardOps.lean keeps the invariant. -/

namespace Sys2Proof.Machine

theorem Dev.bctxPut_inv {N G : Nat} {M : Option (List Host.Cell)} (d : Dev) (c : Nat) (x : BCtx) (h_d : d.InvAt N G M) : (Dev.bctxPut d c x).InvAt N G M := by
  unfold Dev.bctxPut
  try dsimp only
  repeat' first
    | with_reducible assumption
    | simp only [↓Dev.inv_mk]
    | (split <;> (try dsimp only))
    | intro _

theorem Dev.binstPut_inv {N G : Nat} {M : Option (List Host.Cell)} (d : Dev) (c : Nat) (i : Nat) (x : BInst) (h_d : d.InvAt N G M) : (Dev.binstPut d c i x).InvAt N G M := by
  unfold Dev.binstPut
  try dsimp only
  repeat' first
    | with_reducible assumption
    | with_reducible apply Dev.bctxPut_inv
    | simp only [↓Dev.inv_mk]
    | (split <;> (try dsimp only))
    | intro _

theorem Dev.ctxFree_inv {N G : Nat} {M : Option (List Host.Cell)} (d : Dev) (c : Nat) (h_d : d.InvAt N G M) : (Dev.ctxFree d c).InvAt N G M := by
  unfold Dev.ctxFree
  try dsimp only
  repeat' first
    | with_reducible assumption
    | with_reducible apply Dev.wr_inv
    | with_reducible apply Dev.resetRegs_inv
    | with_reducible apply Dev.bctxPut_inv
    | simp only [↓Dev.inv_mk]
    | (split <;> (try dsimp only))
    | intro _

theorem Dev.instAdvance_inv {N G : Nat} {M : Option (List Host.Cell)} (k : Nat) (d : Dev) (c : Nat) (h_d : d.InvAt N G M) : (Dev.instAdvance k d c).InvAt N G M := by
  induction k generalizing d with
  | zero => exact h_d
  | succ k ih =>
    unfold Dev.instAdvance
    dsimp only
    repeat' first
      | with_reducible assumption
      | with_reducible apply ih
      | with_reducible apply Dev.incW_inv
      | with_reducible apply Dev.bctxPut_inv
      | with_reducible apply Dev.ctxFree_inv
      | split

theorem Dev.instFinish_inv {N G : Nat} {M : Option (List Host.Cell)} (d : Dev) (c : Nat) (i : Nat) (h_d : d.InvAt N G M) : (Dev.instFinish d c i).InvAt N G M := by
  unfold Dev.instFinish
  try dsimp only
  repeat' first
    | with_reducible assumption
    | with_reducible apply Dev.binstPut_inv
    | with_reducible apply Dev.instAdvance_inv
    | simp only [↓Dev.inv_mk]
    | (split <;> (try dsimp only))
    | intro _

theorem Dev.istatus_inv {N G : Nat} {M : Option (List Host.Cell)} (d : Dev) (c : Nat) (i : Nat) (ev : Nat) (st : Nat) (h_d : d.InvAt N G M) : (Dev.istatus d c i ev st).InvAt N G M := by
  unfold Dev.istatus
  try dsimp only
  repeat' first
    | with_reducible assumption
    | with_reducible apply Dev.wr_inv
    | with_reducible apply Dev.st_inv
    | with_reducible apply Dev.note_inv
    | simp only [↓Dev.inv_mk]
    | (split <;> (try dsimp only))
    | intro _

theorem Dev.sendAbort_inv {N G : Nat} {M : Option (List Host.Cell)} (d : Dev) (a : Nat) (c : Nat) (missing : Nat) (reason : Nat) (m : Nat) (i : Nat) (h_d : d.InvAt N G M) : (Dev.sendAbort d a c missing reason m i).InvAt N G M := by
  unfold Dev.sendAbort
  try dsimp only
  repeat' first
    | with_reducible assumption
    | with_reducible apply Dev.sendFlit_inv
    | simp only [↓Dev.inv_mk]
    | (split <;> (try dsimp only))
    | intro _

theorem Dev.instAbort_inv {N G : Nat} {M : Option (List Host.Cell)} (d : Dev) (c : Nat) (i : Nat) (reason : Nat) (m : Nat) (h_d : d.InvAt N G M) : (Dev.instAbort d c i reason m).InvAt N G M := by
  unfold Dev.instAbort
  try dsimp only
  repeat' first
    | with_reducible assumption
    | with_reducible apply List.foldl_inv
    | with_reducible apply List.foldl_inv2
    | with_reducible apply Dev.sendAbort_inv
    | with_reducible apply Dev.istatus_inv
    | with_reducible apply Dev.inc_inv
    | with_reducible apply Dev.wr_inv
    | with_reducible apply Dev.ffr_inv
    | with_reducible apply Dev.instFinish_inv
    | with_reducible apply Dev.arbRelease_inv
    | with_reducible apply hf
    | simp only [↓Dev.inv_mk]
    | (split <;> (try dsimp only))
    | intro _

theorem Dev.memberDone_inv {N G : Nat} {M : Option (List Host.Cell)} (d : Dev) (c : Nat) (i : Nat) (m : Nat) (h_d : d.InvAt N G M) : (Dev.memberDone d c i m).InvAt N G M := by
  unfold Dev.memberDone
  try dsimp only
  repeat' first
    | with_reducible assumption
    | with_reducible apply Dev.binstPut_inv
    | with_reducible apply Dev.arbArrive_inv
    | with_reducible apply Dev.complete_inv
    | with_reducible apply Dev.wr64_inv
    | with_reducible apply Dev.arbRelease_inv
    | simp only [↓Dev.inv_mk]
    | (split <;> (try dsimp only))
    | intro _

theorem Dev.abortOpen_inv {N G : Nat} {M : Option (List Host.Cell)} (d : Dev) (c : Nat) (reason : Nat) (p : BInst → Bool) (h_d : d.InvAt N G M) : (Dev.abortOpen d c reason p).InvAt N G M := by
  unfold Dev.abortOpen
  try dsimp only
  repeat' first
    | with_reducible assumption
    | with_reducible apply List.foldl_inv
    | with_reducible apply List.foldl_inv2
    | with_reducible apply Dev.instAbort_inv
    | with_reducible apply hf
    | simp only [↓Dev.inv_mk]
    | (split <;> (try dsimp only))
    | intro _

theorem Dev.ctxDelete_inv {N G : Nat} {M : Option (List Host.Cell)} (d : Dev) (c : Nat) (h_d : d.InvAt N G M) : (Dev.ctxDelete d c).InvAt N G M := by
  unfold Dev.ctxDelete
  try dsimp only
  repeat' first
    | with_reducible assumption
    | with_reducible apply Dev.abortOpen_inv
    | with_reducible apply Dev.bctxPut_inv
    | with_reducible apply Dev.instAdvance_inv
    | simp only [↓Dev.inv_mk]
    | (split <;> (try dsimp only))
    | intro _

theorem Dev.ctxCreate_inv {N G : Nat} {M : Option (List Host.Cell)} (d : Dev) (x : CtxDef) (h_d : d.InvAt N G M) : (Dev.ctxCreate d x).2.InvAt N G M := by
  unfold Dev.ctxCreate
  try dsimp only
  repeat' first
    | with_reducible assumption
    | with_reducible apply Dev.wr_inv
    | simp only [↓Dev.inv_mk]
    | (split <;> (try dsimp only))
    | intro _

theorem Dev.sendResult_inv {N G : Nat} {M : Option (List Host.Cell)} (d : Dev) (a : Nat) (c : Nat) (i : Nat) (m : Nat) (gts : Nat) (flags : Nat) (img : List Byte) (h_d : d.InvAt N G M) : (Dev.sendResult d a c i m gts flags img).InvAt N G M := by
  unfold Dev.sendResult
  try dsimp only
  repeat' first
    | with_reducible assumption
    | with_reducible apply List.foldl_inv
    | with_reducible apply List.foldl_inv2
    | with_reducible apply Dev.send_inv
    | with_reducible apply hf
    | simp only [↓Dev.inv_mk]
    | (split <;> (try dsimp only))
    | intro _

theorem Dev.instReduce_inv {N G : Nat} (d : Dev) (c : Nat) (i : Nat) (h_d : d.InvAt N G none) : (Dev.instReduce d c i).InvAt N G none := by
  unfold Dev.instReduce
  try dsimp only
  repeat' first
    | with_reducible assumption
    | with_reducible apply List.foldl_inv
    | with_reducible apply List.foldl_inv2
    | with_reducible apply Dev.instAbort_inv
    | with_reducible apply Dev.binstPut_inv
    | with_reducible apply Dev.wr_inv
    | with_reducible apply Dev.stn_inv
    | with_reducible apply Dev.istatus_inv
    | with_reducible apply Dev.sendResult_inv
    | with_reducible apply Dev.complete_inv
    | with_reducible apply hf
    | simp only [↓Dev.inv_mk]
    | (split <;> (try dsimp only))
    | intro _

theorem Dev.dropResults_inv {N G : Nat} {M : Option (List Host.Cell)} (d : Dev) (a : Nat) (p : Nat → Bool) (h_d : d.InvAt N G M) : (Dev.dropResults d a p).InvAt N G M := by
  unfold Dev.dropResults
  try dsimp only
  repeat' first
    | with_reducible assumption
    | with_reducible apply List.foldl_inv
    | with_reducible apply List.foldl_inv2
    | with_reducible apply Dev.accPut_inv
    | with_reducible apply Dev.lkPut_inv
    | with_reducible apply hf
    | simp only [↓Dev.inv_mk]
    | (split <;> (try dsimp only))
    | intro _

theorem Dev.trainPut_inv {N G : Nat} {M : Option (List Host.Cell)} (d : Dev) (n : Nat) (t : Option Train) (h_d : d.InvAt N G M) : (Dev.trainPut d n t).InvAt N G M := by
  unfold Dev.trainPut
  try dsimp only
  repeat' first
    | with_reducible assumption
    | simp only [↓Dev.inv_mk]
    | (split <;> (try dsimp only))
    | intro _

theorem Dev.trainShort_inv {N G : Nat} {M : Option (List Host.Cell)} (d : Dev) (n : Nat) (fault : Dev → Train → Dev) (h_d : d.InvAt N G M) (h_fault : ∀ y0 y1, y0.InvAt N G M → (fault y0 y1).InvAt N G M) : (Dev.trainShort d n fault).InvAt N G M := by
  unfold Dev.trainShort
  try dsimp only
  repeat' first
    | with_reducible assumption
    | with_reducible apply Dev.trainPut_inv
    | with_reducible apply h_fault
    | simp only [↓Dev.inv_mk]
    | (split <;> (try dsimp only))
    | intro _

theorem Dev.refuse_inv {N G : Nat} {M : Option (List Host.Cell)} (d : Dev) (n : Nat) (t : Train) (reason : Nat) (h_d : d.InvAt N G M) : (Dev.refuse d n t reason).InvAt N G M := by
  unfold Dev.refuse
  try dsimp only
  repeat' first
    | with_reducible assumption
    | with_reducible apply Dev.wr_inv
    | with_reducible apply Dev.inc_inv
    | with_reducible apply Dev.sendAbort_inv
    | with_reducible apply Dev.trainPut_inv
    | simp only [↓Dev.inv_mk]
    | (split <;> (try dsimp only))
    | intro _

theorem Dev.trainFault_inv {N G : Nat} {M : Option (List Host.Cell)} (d : Dev) (n : Nat) (t : Train) (reason : Nat) (h_d : d.InvAt N G M) : (Dev.trainFault d n t reason).InvAt N G M := by
  unfold Dev.trainFault
  try dsimp only
  repeat' first
    | with_reducible assumption
    | with_reducible apply Dev.complete_inv
    | with_reducible apply Dev.refuse_inv
    | with_reducible apply Dev.trainPut_inv
    | with_reducible apply Dev.instAbort_inv
    | simp only [↓Dev.inv_mk]
    | (split <;> (try dsimp only))
    | intro _

theorem Dev.contribHeader_inv {N G : Nat} {M : Option (List Host.Cell)} (d : Dev) (n : Nat) (p : Payload) (h_d : d.InvAt N G M) : (Dev.contribHeader d n p).InvAt N G M := by
  unfold Dev.contribHeader
  try dsimp only
  repeat' first
    | with_reducible assumption
    | with_reducible apply Dev.trainShort_inv
    | with_reducible apply Dev.trainFault_inv
    | with_reducible apply Dev.refuse_inv
    | with_reducible apply Dev.binstPut_inv
    | with_reducible apply Dev.trainPut_inv
    | with_reducible apply hf
    | simp only [↓Dev.inv_mk]
    | (split <;> (try dsimp only))
    | intro _

theorem Dev.contribData_inv {N G : Nat} (d : Dev) (n : Nat) (p : Payload) (last : Bool) (h_d : d.InvAt N G none) : (Dev.contribData d n p last).InvAt N G none := by
  unfold Dev.contribData
  try dsimp only
  repeat' first
    | with_reducible assumption
    | with_reducible apply Dev.wr_inv
    | with_reducible apply Dev.inc_inv
    | with_reducible apply Dev.trainPut_inv
    | with_reducible apply Dev.trainFault_inv
    | with_reducible apply Dev.stn_inv
    | with_reducible apply Dev.binstPut_inv
    | with_reducible apply Dev.memberDone_inv
    | simp only [↓Dev.inv_mk]
    | (split <;> (try dsimp only))
    | intro _

end Sys2Proof.Machine
end

