-- ==== Sys2Proof/Laws/InvBoard.lean ====
section
/-! SUPPORT. Every operation of Machine/Board.lean keeps the invariant. -/

namespace Sys2Proof.Machine

theorem execContribHeader_keeps {N G : Nat} {M : Option (List Host.Cell)} (n : Fin 24) (p : Payload) (s : State) (h_s : s.dev.InvAt N G M) : Res.Keeps N G M s.pending (execContribHeader n p s) := by
  apply State.run_keeps
  try dsimp only
  repeat' first
    | with_reducible assumption
    | with_reducible apply Dev.takeRx_inv
    | with_reducible apply Dev.contribHeader_inv
    | with_reducible apply hf
    | simp only [↓Dev.inv_mk]
    | (split <;> (try dsimp only))
    | intro _

theorem execContrib_keeps {N G : Nat} (n : Fin 24) (p : Payload) (s : State) (h_s : s.dev.InvAt N G none) : Res.Keeps N G none s.pending (execContrib n p s) := by
  apply State.run_keeps
  try dsimp only
  repeat' first
    | with_reducible assumption
    | with_reducible apply Dev.takeRx_inv
    | with_reducible apply Dev.contribData_inv
    | with_reducible apply hf
    | simp only [↓Dev.inv_mk]
    | (split <;> (try dsimp only))
    | intro _

theorem execContribLast_keeps {N G : Nat} (n : Fin 24) (p : Payload) (s : State) (h_s : s.dev.InvAt N G none) : Res.Keeps N G none s.pending (execContribLast n p s) := by
  apply State.run_keeps
  try dsimp only
  repeat' first
    | with_reducible assumption
    | with_reducible apply Dev.takeRx_inv
    | with_reducible apply Dev.contribData_inv
    | with_reducible apply hf
    | simp only [↓Dev.inv_mk]
    | (split <;> (try dsimp only))
    | intro _

theorem Dev.reduceNext_inv {N G : Nat} (d : Dev) (c : Nat) (h_d : d.InvAt N G none) : (Dev.reduceNext d c).InvAt N G none := by
  unfold Dev.reduceNext
  try dsimp only
  repeat' first
    | with_reducible assumption
    | with_reducible apply Dev.complete_inv
    | with_reducible apply Dev.instReduce_inv
    | simp only [↓Dev.inv_mk]
    | (split <;> (try dsimp only))
    | intro _

theorem execInstanceReduction_keeps {N G : Nat} (c : Byte) (s : State) (h_s : s.dev.InvAt N G none) : Res.Keeps N G none s.pending (execInstanceReduction c s) := by
  apply State.run_keeps
  try dsimp only
  repeat' first
    | with_reducible assumption
    | with_reducible apply Dev.reduceNext_inv
    | simp only [↓Dev.inv_mk]
    | (split <;> (try dsimp only))
    | intro _

theorem Dev.finishCurrent_inv {N G : Nat} {M : Option (List Host.Cell)} (d : Dev) (c : Nat) (h_d : d.InvAt N G M) : (Dev.finishCurrent d c).InvAt N G M := by
  unfold Dev.finishCurrent
  try dsimp only
  repeat' first
    | with_reducible assumption
    | with_reducible apply Dev.instFinish_inv
    | simp only [↓Dev.inv_mk]
    | (split <;> (try dsimp only))
    | intro _

theorem execInstanceFinish_keeps {N G : Nat} {M : Option (List Host.Cell)} (c : Byte) (s : State) (h_s : s.dev.InvAt N G M) : Res.Keeps N G M s.pending (execInstanceFinish c s) := by
  apply State.run_keeps
  try dsimp only
  repeat' first
    | with_reducible assumption
    | with_reducible apply Dev.finishCurrent_inv
    | simp only [↓Dev.inv_mk]
    | (split <;> (try dsimp only))
    | intro _

theorem Dev.accAbort_inv {N G : Nat} {M : Option (List Host.Cell)} (d : Dev) (a : Nat) (p : Payload) (h_d : d.InvAt N G M) : (Dev.accAbort d a p).InvAt N G M := by
  unfold Dev.accAbort
  try dsimp only
  repeat' first
    | with_reducible assumption
    | with_reducible apply Dev.takeRx_inv
    | with_reducible apply Dev.complete_inv
    | with_reducible apply Dev.wr_inv
    | with_reducible apply Dev.instAbort_inv
    | simp only [↓Dev.inv_mk]
    | (split <;> (try dsimp only))
    | intro _

theorem execAbort_keeps {N G : Nat} {M : Option (List Host.Cell)} (a : Fin 8) (p : Payload) (s : State) (h_s : s.dev.InvAt N G M) : Res.Keeps N G M s.pending (execAbort a p s) := by
  apply State.run_keeps
  try dsimp only
  repeat' first
    | with_reducible assumption
    | with_reducible apply Dev.accAbort_inv
    | simp only [↓Dev.inv_mk]
    | (split <;> (try dsimp only))
    | intro _

theorem execInstanceTimeout_keeps {N G : Nat} {M : Option (List Host.Cell)} (c : Byte) (s : State) (h_s : s.dev.InvAt N G M) : Res.Keeps N G M s.pending (execInstanceTimeout c s) := by
  apply State.run_keeps
  try dsimp only
  repeat' first
    | with_reducible assumption
    | with_reducible apply Dev.abortOpen_inv
    | with_reducible apply hf
    | simp only [↓Dev.inv_mk]
    | (split <;> (try dsimp only))
    | intro _

theorem Dev.iContrib_inv {N G : Nat} {M : Option (List Host.Cell)} (d : Dev) (v : Nat) (h_d : d.InvAt N G M) : (Dev.iContrib d v).InvAt N G M := by
  unfold Dev.iContrib
  try dsimp only
  repeat' first
    | with_reducible assumption
    | with_reducible apply Dev.wrw_inv
    | with_reducible apply Dev.istatus_inv
    | with_reducible apply Dev.binstPut_inv
    | with_reducible apply Dev.memberDone_inv
    | simp only [↓Dev.inv_mk]
    | (split <;> (try dsimp only))
    | intro _

theorem execBrdIcontrib_keeps {N G : Nat} {M : Option (List Host.Cell)} (ag : Agent) (v : Word) (s : State) (h_s : s.dev.InvAt N G M) : Res.Keeps N G M s.pending (execBrdIcontrib ag v s) := by
  apply State.run_keeps
  try dsimp only
  repeat' first
    | with_reducible assumption
    | with_reducible apply Dev.iContrib_inv
    | with_reducible apply hf
    | simp only [↓Dev.inv_mk]
    | (split <;> (try dsimp only))
    | intro _

theorem execBrdEnWrite_keeps {N G : Nat} {M : Option (List Host.Cell)} (ag : Agent) (on : Bool) (s : State) (h_s : s.dev.InvAt N G M) : Res.Keeps N G M s.pending (execBrdEnWrite ag on s) := by
  apply State.run_keeps
  try dsimp only
  repeat' first
    | with_reducible assumption
    | with_reducible apply List.foldl_inv
    | with_reducible apply List.foldl_inv2
    | with_reducible apply Dev.wr_inv
    | with_reducible apply Dev.readyTry_inv
    | with_reducible apply Dev.abortOpen_inv
    | with_reducible apply hf
    | simp only [↓Dev.inv_mk]
    | (split <;> (try dsimp only))
    | intro _

end Sys2Proof.Machine
end

