-- ==== Sys2Proof/Laws/InvMbxOps.lean ====
section
/-! SUPPORT. Every operation of Machine/MbxOps.lean keeps the invariant. -/

namespace Sys2Proof.Machine

theorem Dev.reply_inv {N G : Nat} (d : Dev) (ch : Nat) (op : Nat) (tag : Nat) (minor : Nat) (crc : Bool) (r : Rep) (h_d : d.InvAt N G none) : (Dev.reply d ch op tag minor crc r).InvAt N G none := by
  unfold Dev.reply
  try dsimp only
  repeat' first
    | with_reducible assumption
    | with_reducible apply Dev.st_inv
    | with_reducible apply Dev.stn_inv
    | with_reducible apply Dev.wr_inv
    | with_reducible apply Dev.vector_inv
    | with_reducible apply Dev.emit_inv
    | simp only [↓Dev.inv_mk]
    | (split <;> (try dsimp only))
    | intro _

theorem Dev.replyHeld_inv {N G : Nat} (d : Dev) (id : Nat) (r : Rep) (h_d : d.InvAt N G none) : (Dev.replyHeld d id r).InvAt N G none := by
  unfold Dev.replyHeld
  try dsimp only
  repeat' first
    | with_reducible assumption
    | with_reducible apply Dev.reply_inv
    | simp only [↓Dev.inv_mk]
    | (split <;> (try dsimp only))
    | intro _

theorem Dev.hold_inv {N G : Nat} {M : Option (List Host.Cell)} (d : Dev) (q : MbxReq) (op : Nat) (h_d : d.InvAt N G M) : (Dev.hold d q op).2.InvAt N G M := by
  unfold Dev.hold
  try dsimp only
  repeat' first
    | with_reducible assumption
    | simp only [↓Dev.inv_mk]
    | (split <;> (try dsimp only))
    | intro _

theorem Dev.accept_inv {N G : Nat} {M : Option (List Host.Cell)} (d : Dev) (q : MbxReq) (op : Nat) (h_d : d.InvAt N G M) : (Dev.accept d q op).2.InvAt N G M := by
  unfold Dev.accept
  try dsimp only
  repeat' first
    | with_reducible assumption
    | simp only [↓Dev.inv_mk]
    | (split <;> (try dsimp only))
    | intro _

theorem Dev.complCommit_inv {N G : Nat} {M : Option (List Host.Cell)} (d : Dev) (id : Nat) (pkt : List Byte) (h_d : d.InvAt N G M) : (Dev.complCommit d id pkt).InvAt N G M := by
  unfold Dev.complCommit
  try dsimp only
  repeat' first
    | with_reducible assumption
    | with_reducible apply Dev.cqCommit_inv
    | simp only [↓Dev.inv_mk]
    | (split <;> (try dsimp only))
    | intro _

theorem Dev.complete_inv {N G : Nat} {M : Option (List Host.Cell)} (d : Dev) (id : Nat) (st : Nat) (pay : List Byte) (h_d : d.InvAt N G M) : (Dev.complete d id st pay).InvAt N G M := by
  unfold Dev.complete
  try dsimp only
  repeat' first
    | with_reducible assumption
    | with_reducible apply Dev.st_inv
    | with_reducible apply Dev.complCommit_inv
    | simp only [↓Dev.inv_mk]
    | (split <;> (try dsimp only))
    | intro _

theorem Dev.mbxRun_inv {N G : Nat} (d : Dev) (o : MbxOp) (served : Bool) (q : MbxReq) (h_d : d.InvAt N G none)
    (h_o : ∀ d q, d.InvAt N G none → (o.body d q).2.InvAt N G none) : (Dev.mbxRun d o served q).InvAt N G none := by
  unfold Dev.mbxRun
  try dsimp only
  repeat' first
    | with_reducible apply h_o
    | with_reducible assumption
    | with_reducible apply Dev.reply_inv
    | with_reducible apply Dev.hold_inv
    | simp only [↓Dev.inv_mk]
    | (split <;> (try dsimp only))
    | intro _

theorem Dev.mbxArrive_inv {N G : Nat} (d : Dev) (o : MbxOp) (served : Bool) (q : MbxReq) (h_d : d.InvAt N G none)
    (h_o : ∀ d q, d.InvAt N G none → (o.body d q).2.InvAt N G none) : (Dev.mbxArrive d o served q).InvAt N G none := by
  unfold Dev.mbxArrive
  try dsimp only
  repeat' first
    | with_reducible apply h_o
    | with_reducible assumption
    | with_reducible apply Dev.st_inv
    | with_reducible apply Dev.stn_inv
    | with_reducible apply Dev.wr_inv
    | with_reducible apply Dev.mbxRun_inv
    | with_reducible apply Dev.reply_inv
    | simp only [↓Dev.inv_mk]
    | (split <;> (try dsimp only))
    | intro _

theorem MbxOp.run_keeps {N G : Nat} (o : MbxOp) (q : MbxReq) (s : State) (h_s : s.dev.InvAt N G none)
    (h_o : ∀ d q, d.InvAt N G none → (o.body d q).2.InvAt N G none) : Res.Keeps N G none s.pending (o.run q s) :=
  State.run_keeps s _ (Dev.mbxArrive_inv _ _ _ _ h_s h_o)

theorem Dev.accepting_inv {N G : Nat} {M : Option (List Host.Cell)} (d : Dev) (q : MbxReq) (op : Nat) (f : Dev → Nat → Dev) (h_d : d.InvAt N G M) (h_f : ∀ y0 y1, y0.InvAt N G M → (f y0 y1).InvAt N G M) : (Dev.accepting d q op f).2.InvAt N G M := by
  unfold Dev.accepting
  try dsimp only
  repeat' first
    | with_reducible assumption
    | with_reducible apply Dev.accept_inv
    | with_reducible apply h_f
    | simp only [↓Dev.inv_mk]
    | (split <;> (try dsimp only))
    | intro _

end Sys2Proof.Machine
end

