-- ==== Sys2Proof/Laws/InvVreljan.lean ====
section
/-! SUPPORT. Every operation of Machine/Vreljan.lean keeps the invariant. -/

namespace Sys2Proof.Machine

theorem Dev.lkMod_inv {N G : Nat} {M : Option (List Host.Cell)} (d : Dev) (n : Nat) (f : Link → Link) (h_d : d.InvAt N G M) : (Dev.lkMod d n f).InvAt N G M := by
  unfold Dev.lkMod
  try dsimp only
  repeat' first
    | with_reducible assumption
    | with_reducible apply Dev.lkPut_inv
    | simp only [↓Dev.inv_mk]
    | (split <;> (try dsimp only))
    | intro _

theorem Dev.accMod_inv {N G : Nat} {M : Option (List Host.Cell)} (d : Dev) (a : Nat) (f : AccVl → AccVl) (h_d : d.InvAt N G M) : (Dev.accMod d a f).InvAt N G M := by
  unfold Dev.accMod
  try dsimp only
  repeat' first
    | with_reducible assumption
    | with_reducible apply Dev.accPut_inv
    | simp only [↓Dev.inv_mk]
    | (split <;> (try dsimp only))
    | intro _

theorem Dev.linkReset_inv {N G : Nat} {M : Option (List Host.Cell)} (d : Dev) (n : Nat) (st : Nat) (h_d : d.InvAt N G M) : (Dev.linkReset d n st).InvAt N G M := by
  unfold Dev.linkReset
  try dsimp only
  repeat' first
    | with_reducible assumption
    | with_reducible apply Dev.lkPut_inv
    | with_reducible apply Dev.trained_inv
    | with_reducible apply Dev.lkGo_inv
    | with_reducible apply Dev.st_inv
    | simp only [↓Dev.inv_mk]
    | (split <;> (try dsimp only))
    | intro _

theorem Dev.linkTrain_inv {N G : Nat} {M : Option (List Host.Cell)} (d : Dev) (n : Nat) (h_d : d.InvAt N G M) : (Dev.linkTrain d n).InvAt N G M := by
  unfold Dev.linkTrain
  try dsimp only
  repeat' first
    | with_reducible assumption
    | with_reducible apply Dev.linkReset_inv
    | simp only [↓Dev.inv_mk]
    | (split <;> (try dsimp only))
    | intro _

theorem Dev.kick_inv {N G : Nat} {M : Option (List Host.Cell)} (d : Dev) (a : Nat) (h_d : d.InvAt N G M) : (Dev.kick d a).InvAt N G M := by
  unfold Dev.kick
  try dsimp only
  repeat' first
    | with_reducible assumption
    | with_reducible apply List.foldl_inv
    | with_reducible apply List.foldl_inv2
    | with_reducible apply Dev.linkTrain_inv
    | with_reducible apply hf
    | simp only [↓Dev.inv_mk]
    | (split <;> (try dsimp only))
    | intro _

theorem Dev.rerun_inv {N G : Nat} {M : Option (List Host.Cell)} (d : Dev) (a : Nat) (h_d : d.InvAt N G M) : (Dev.rerun d a).InvAt N G M := by
  unfold Dev.rerun
  try dsimp only
  repeat' first
    | with_reducible assumption
    | with_reducible apply List.foldl_inv
    | with_reducible apply List.foldl_inv2
    | with_reducible apply Dev.lkMod_inv
    | with_reducible apply Dev.kick_inv
    | with_reducible apply hf
    | simp only [↓Dev.inv_mk]
    | (split <;> (try dsimp only))
    | intro _

theorem Dev.accDrop_inv {N G : Nat} {M : Option (List Host.Cell)} (d : Dev) (a : Nat) (h_d : d.InvAt N G M) : (Dev.accDrop d a).InvAt N G M := by
  unfold Dev.accDrop
  try dsimp only
  repeat' first
    | with_reducible assumption
    | with_reducible apply List.foldl_inv
    | with_reducible apply List.foldl_inv2
    | with_reducible apply Dev.dropResults_inv
    | with_reducible apply Dev.accMod_inv
    | with_reducible apply Dev.trainPut_inv
    | with_reducible apply Dev.pwPut_inv
    | with_reducible apply Dev.showChange_inv
    | with_reducible apply hf
    | simp only [↓Dev.inv_mk]
    | (split <;> (try dsimp only))
    | intro _

theorem Dev.linksDown_inv {N G : Nat} {M : Option (List Host.Cell)} (d : Dev) (a : Nat) (h_d : d.InvAt N G M) : (Dev.linksDown d a).InvAt N G M := by
  unfold Dev.linksDown
  try dsimp only
  repeat' first
    | with_reducible assumption
    | with_reducible apply List.foldl_inv
    | with_reducible apply List.foldl_inv2
    | with_reducible apply Dev.linkReset_inv
    | with_reducible apply Dev.accDrop_inv
    | with_reducible apply hf
    | simp only [↓Dev.inv_mk]
    | (split <;> (try dsimp only))
    | intro _

theorem Dev.accHold_inv {N G : Nat} {M : Option (List Host.Cell)} (d : Dev) (a : Nat) (h_d : d.InvAt N G M) : (Dev.accHold d a).InvAt N G M := by
  unfold Dev.accHold
  try dsimp only
  repeat' first
    | with_reducible assumption
    | with_reducible apply Dev.linksDown_inv
    | with_reducible apply Dev.modeUpdate_inv
    | simp only [↓Dev.inv_mk]
    | (split <;> (try dsimp only))
    | intro _

theorem Dev.accRelease_inv {N G : Nat} {M : Option (List Host.Cell)} (d : Dev) (a : Nat) (h_d : d.InvAt N G M) : (Dev.accRelease d a).InvAt N G M := by
  unfold Dev.accRelease
  try dsimp only
  repeat' first
    | with_reducible assumption
    | with_reducible apply Dev.rerun_inv
    | with_reducible apply Dev.modeUpdate_inv
    | simp only [↓Dev.inv_mk]
    | (split <;> (try dsimp only))
    | intro _

theorem Dev.accLost_inv {N G : Nat} {M : Option (List Host.Cell)} (d : Dev) (a : Nat) (h_d : d.InvAt N G M) : (Dev.accLost d a).InvAt N G M := by
  unfold Dev.accLost
  try dsimp only
  repeat' first
    | with_reducible assumption
    | with_reducible apply Dev.accDrop_inv
    | with_reducible apply Dev.accMod_inv
    | with_reducible apply Dev.note_inv
    | with_reducible apply Dev.modeUpdate_inv
    | simp only [↓Dev.inv_mk]
    | (split <;> (try dsimp only))
    | intro _

theorem Dev.lostOrMode_inv {N G : Nat} {M : Option (List Host.Cell)} (d : Dev) (a : Nat) (h_d : d.InvAt N G M) : (Dev.lostOrMode d a).InvAt N G M := by
  unfold Dev.lostOrMode
  try dsimp only
  repeat' first
    | with_reducible assumption
    | with_reducible apply Dev.accLost_inv
    | with_reducible apply Dev.modeUpdate_inv
    | simp only [↓Dev.inv_mk]
    | (split <;> (try dsimp only))
    | intro _

theorem Dev.wakeFail_inv {N G : Nat} {M : Option (List Host.Cell)} (d : Dev) (n : Nat) (h_d : d.InvAt N G M) : (Dev.wakeFail d n).InvAt N G M := by
  unfold Dev.wakeFail
  try dsimp only
  repeat' first
    | with_reducible assumption
    | with_reducible apply Dev.linkTrain_inv
    | with_reducible apply Dev.accMod_inv
    | with_reducible apply Dev.lostOrMode_inv
    | simp only [↓Dev.inv_mk]
    | (split <;> (try dsimp only))
    | intro _

theorem Dev.attemptFail_inv {N G : Nat} {M : Option (List Host.Cell)} (d : Dev) (n : Nat) (h_d : d.InvAt N G M) : (Dev.attemptFail d n).InvAt N G M := by
  unfold Dev.attemptFail
  try dsimp only
  repeat' first
    | with_reducible assumption
    | with_reducible apply Dev.linkTrain_inv
    | with_reducible apply Dev.wr_inv
    | with_reducible apply Dev.linkReset_inv
    | with_reducible apply Dev.ffr_inv
    | simp only [↓Dev.inv_mk]
    | (split <;> (try dsimp only))
    | intro _

theorem Dev.pairReq_inv {N G : Nat} {M : Option (List Host.Cell)} (d : Dev) (a : Nat) (k : Nat) (h_d : d.InvAt N G M) : (Dev.pairReq d a k).InvAt N G M := by
  unfold Dev.pairReq
  try dsimp only
  repeat' first
    | with_reducible assumption
    | with_reducible apply List.foldl_inv
    | with_reducible apply List.foldl_inv2
    | with_reducible apply Dev.accMod_inv
    | with_reducible apply Dev.sendFlit_inv
    | with_reducible apply hf
    | simp only [↓Dev.inv_mk]
    | (split <;> (try dsimp only))
    | intro _

theorem Dev.epoch_inv {N G : Nat} {M : Option (List Host.Cell)} (d : Dev) (a : Nat) (h_d : d.InvAt N G M) : (Dev.epoch d a).InvAt N G M := by
  unfold Dev.epoch
  with_reducible apply Dev.sendFlit_inv
  assumption

theorem Dev.primaryUp_inv {N G : Nat} {M : Option (List Host.Cell)} (d : Dev) (a : Nat) (h_d : d.InvAt N G M) : (Dev.primaryUp d a).InvAt N G M := by
  unfold Dev.primaryUp
  try dsimp only
  repeat' first
    | with_reducible assumption
    | with_reducible apply Dev.epoch_inv
    | with_reducible apply Dev.modeUpdate_inv
    | with_reducible apply Dev.sendFlit_inv
    | with_reducible apply Dev.wr_inv
    | with_reducible apply Dev.pairReq_inv
    | with_reducible apply Dev.sendCheck_inv
    | with_reducible apply Dev.startPending_inv
    | with_reducible apply Dev.showChange_inv
    | with_reducible apply Dev.pumpAll_inv
    | simp only [↓Dev.inv_mk]
    | (split <;> (try dsimp only))
    | intro _

theorem Dev.paramAgree_inv {N G : Nat} {M : Option (List Host.Cell)} (d : Dev) (n : Nat) (p : Payload) (h_d : d.InvAt N G M) : (Dev.paramAgree d n p).InvAt N G M := by
  unfold Dev.paramAgree
  try dsimp only
  repeat' first
    | with_reducible assumption
    | with_reducible apply Dev.trained_inv
    | with_reducible apply Dev.inc_inv
    | with_reducible apply Dev.lkPut_inv
    | with_reducible apply Dev.wr_inv
    | with_reducible apply Dev.wrw_inv
    | with_reducible apply Dev.accMod_inv
    | simp only [↓Dev.inv_mk]
    | (split <;> (try dsimp only))
    | intro _

theorem Dev.trained_inv {N G : Nat} {M : Option (List Host.Cell)} (d : Dev) (n : Nat) (h_d : d.InvAt N G M) : (Dev.trained d n).InvAt N G M := by
  unfold Dev.trained
  try dsimp only
  repeat' first
    | with_reducible assumption
    | with_reducible apply Dev.epoch_inv
    | with_reducible apply Dev.lkGo_inv
    | with_reducible apply Dev.lct_inv
    | with_reducible apply Dev.primaryUp_inv
    | with_reducible apply Dev.modeUpdate_inv
    | with_reducible apply Dev.pumpAll_inv
    | with_reducible apply Dev.setRole_inv
    | with_reducible apply Dev.accMod_inv
    | simp only [↓Dev.inv_mk]
    | (split <;> (try dsimp only))
    | intro _

theorem Dev.param_inv {N G : Nat} {M : Option (List Host.Cell)} (d : Dev) (n : Nat) (p : Payload) (h_d : d.InvAt N G M) : (Dev.param d n p).InvAt N G M := by
  unfold Dev.param
  try dsimp only
  repeat' first
    | with_reducible assumption
    | with_reducible apply Dev.paramAgree_inv
    | with_reducible apply Dev.trained_inv
    | with_reducible apply Dev.wakeFail_inv
    | with_reducible apply Dev.attemptFail_inv
    | simp only [↓Dev.inv_mk]
    | (split <;> (try dsimp only))
    | intro _

theorem execParam_keeps {N G : Nat} {M : Option (List Host.Cell)} (n : Fin 24) (p : Payload) (s : State) (h_s : s.dev.InvAt N G M) : Res.Keeps N G M s.pending (execParam n p s) := by
  apply State.run_keeps
  try dsimp only
  repeat' first
    | with_reducible assumption
    | with_reducible apply Dev.param_inv
    | simp only [↓Dev.inv_mk]
    | (split <;> (try dsimp only))
    | intro _

theorem Dev.detectEnd_inv {N G : Nat} {M : Option (List Host.Cell)} (d : Dev) (n : Nat) (beacon : Bool) (h_d : d.InvAt N G M) : (Dev.detectEnd d n beacon).InvAt N G M := by
  unfold Dev.detectEnd
  try dsimp only
  repeat' first
    | with_reducible assumption
    | with_reducible apply Dev.lkGo_inv
    | with_reducible apply Dev.linkReset_inv
    | with_reducible apply Dev.lkMod_inv
    | with_reducible apply Dev.wr_inv
    | with_reducible apply Dev.accMod_inv
    | with_reducible apply Dev.modeUpdate_inv
    | simp only [↓Dev.inv_mk]
    | (split <;> (try dsimp only))
    | intro _

theorem execDetectEnd_keeps {N G : Nat} {M : Option (List Host.Cell)} (n : Fin 24) (beacon : Bool) (s : State) (h_s : s.dev.InvAt N G M) : Res.Keeps N G M s.pending (execDetectEnd n beacon s) := by
  apply State.run_keeps
  try dsimp only
  repeat' first
    | with_reducible assumption
    | with_reducible apply Dev.detectEnd_inv
    | simp only [↓Dev.inv_mk]
    | (split <;> (try dsimp only))
    | intro _

theorem execEqComplete_keeps {N G : Nat} {M : Option (List Host.Cell)} (n : Fin 24) (s : State) (h_s : s.dev.InvAt N G M) : Res.Keeps N G M s.pending (execEqComplete n s) := by
  apply State.run_keeps
  try dsimp only
  repeat' first
    | with_reducible assumption
    | with_reducible apply Dev.lkGo_inv
    | with_reducible apply hf
    | simp only [↓Dev.inv_mk]
    | (split <;> (try dsimp only))
    | intro _

theorem Dev.paramSend_inv {N G : Nat} {M : Option (List Host.Cell)} (d : Dev) (n : Nat) (h_d : d.InvAt N G M) : (Dev.paramSend d n).InvAt N G M := by
  unfold Dev.paramSend
  try dsimp only
  repeat' first
    | with_reducible assumption
    | with_reducible apply Dev.lct_inv
    | simp only [↓Dev.inv_mk]
    | (split <;> (try dsimp only))
    | intro _

theorem execFrameLock_keeps {N G : Nat} {M : Option (List Host.Cell)} (n : Fin 24) (s : State) (h_s : s.dev.InvAt N G M) : Res.Keeps N G M s.pending (execFrameLock n s) := by
  apply State.run_keeps
  try dsimp only
  repeat' first
    | with_reducible assumption
    | with_reducible apply Dev.lkGo_inv
    | with_reducible apply Dev.paramSend_inv
    | with_reducible apply hf
    | simp only [↓Dev.inv_mk]
    | (split <;> (try dsimp only))
    | intro _

theorem Dev.trainTimeout_inv {N G : Nat} {M : Option (List Host.Cell)} (d : Dev) (n : Nat) (h_d : d.InvAt N G M) : (Dev.trainTimeout d n).InvAt N G M := by
  unfold Dev.trainTimeout
  try dsimp only
  repeat' first
    | with_reducible assumption
    | with_reducible apply Dev.wakeFail_inv
    | with_reducible apply Dev.attemptFail_inv
    | simp only [↓Dev.inv_mk]
    | (split <;> (try dsimp only))
    | intro _

theorem execTrainingStateTimeout_keeps {N G : Nat} {M : Option (List Host.Cell)} (n : Fin 24) (s : State) (h_s : s.dev.InvAt N G M) : Res.Keeps N G M s.pending (execTrainingStateTimeout n s) := by
  apply State.run_keeps
  try dsimp only
  repeat' first
    | with_reducible assumption
    | with_reducible apply Dev.trainTimeout_inv
    | simp only [↓Dev.inv_mk]
    | (split <;> (try dsimp only))
    | intro _

theorem execStandbyRefresh_keeps {N G : Nat} {M : Option (List Host.Cell)} (n : Fin 24) (relocked : Bool) (s : State) (h_s : s.dev.InvAt N G M) : Res.Keeps N G M s.pending (execStandbyRefresh n relocked s) := by
  apply State.run_keeps
  try dsimp only
  repeat' first
    | with_reducible assumption
    | with_reducible apply Dev.lkGo_inv
    | with_reducible apply Dev.linkTrain_inv
    | with_reducible apply hf
    | simp only [↓Dev.inv_mk]
    | (split <;> (try dsimp only))
    | intro _

theorem Dev.fence_inv {N G : Nat} {M : Option (List Host.Cell)} (d : Dev) (n : Nat) (r : Nat) (h_d : d.InvAt N G M) : (Dev.fence d n r).InvAt N G M := by
  unfold Dev.fence
  try dsimp only
  repeat' first
    | with_reducible assumption
    | with_reducible apply Dev.inc_inv
    | with_reducible apply Dev.accMod_inv
    | with_reducible apply Dev.setRole_inv
    | with_reducible apply Dev.wr_inv
    | with_reducible apply Dev.linkTrain_inv
    | simp only [↓Dev.inv_mk]
    | (split <;> (try dsimp only))
    | intro _

theorem Dev.wakeReserve_inv {N G : Nat} {M : Option (List Host.Cell)} (d : Dev) (a : Nat) (r : Nat) (h_d : d.InvAt N G M) : (Dev.wakeReserve d a r).InvAt N G M := by
  unfold Dev.wakeReserve
  try dsimp only
  repeat' first
    | with_reducible assumption
    | with_reducible apply Dev.lkGo_inv
    | with_reducible apply Dev.accMod_inv
    | simp only [↓Dev.inv_mk]
    | (split <;> (try dsimp only))
    | intro _

theorem Dev.linkFail_inv {N G : Nat} {M : Option (List Host.Cell)} (d : Dev) (n : Nat) (err : Option Fld) (h_d : d.InvAt N G M) : (Dev.linkFail d n err).InvAt N G M := by
  unfold Dev.linkFail
  try dsimp only
  repeat' first
    | with_reducible assumption
    | with_reducible apply Dev.wr_inv
    | with_reducible apply Dev.fence_inv
    | with_reducible apply Dev.lct_inv
    | with_reducible apply Dev.wakeReserve_inv
    | with_reducible apply Dev.lostOrMode_inv
    | simp only [↓Dev.inv_mk]
    | (split <;> (try dsimp only))
    | intro _

theorem Dev.resend_inv {N G : Nat} {M : Option (List Host.Cell)} (d : Dev) (n : Nat) (p : Nat) (rxseq : Option Nat) (h_d : d.InvAt N G M) : (Dev.resend d n p rxseq).InvAt N G M := by
  unfold Dev.resend
  try dsimp only
  repeat' first
    | with_reducible assumption
    | with_reducible apply Dev.accMod_inv
    | with_reducible apply Dev.pumpAll_inv
    | simp only [↓Dev.inv_mk]
    | (split <;> (try dsimp only))
    | intro _

theorem Dev.roleFailed_inv {N G : Nat} {M : Option (List Host.Cell)} (d : Dev) (n : Nat) (p : Nat) (r : Nat) (rxseq : Option Nat) (h_d : d.InvAt N G M) : (Dev.roleFailed d n p r rxseq).InvAt N G M := by
  unfold Dev.roleFailed
  try dsimp only
  repeat' first
    | with_reducible assumption
    | with_reducible apply Dev.linkFail_inv
    | with_reducible apply Dev.lct_inv
    | with_reducible apply Dev.resend_inv
    | simp only [↓Dev.inv_mk]
    | (split <;> (try dsimp only))
    | intro _

theorem execRoleFailed_keeps {N G : Nat} {M : Option (List Host.Cell)} (n : Fin 24) (pos : Fin 3) (role : Fin 4) (rxseq : Option (BitVec 7)) (s : State) (h_s : s.dev.InvAt N G M) : Res.Keeps N G M s.pending (execRoleFailed n pos role rxseq s) := by
  apply State.run_keeps
  try dsimp only
  repeat' first
    | with_reducible assumption
    | with_reducible apply Dev.roleFailed_inv
    | simp only [↓Dev.inv_mk]
    | (split <;> (try dsimp only))
    | intro _

theorem execRoleFailedAck_keeps {N G : Nat} {M : Option (List Host.Cell)} (n : Fin 24) (pos : Fin 3) (rxseq : Option (BitVec 7)) (s : State) (h_s : s.dev.InvAt N G M) : Res.Keeps N G M s.pending (execRoleFailedAck n pos rxseq s) := by
  apply State.run_keeps
  try dsimp only
  repeat' first
    | with_reducible assumption
    | with_reducible apply Dev.resend_inv
    | with_reducible apply hf
    | simp only [↓Dev.inv_mk]
    | (split <;> (try dsimp only))
    | intro _

theorem Dev.roleAssume_inv {N G : Nat} {M : Option (List Host.Cell)} (d : Dev) (n : Nat) (r : Nat) (rxseq : Option Nat) (h_d : d.InvAt N G M) : (Dev.roleAssume d n r rxseq).InvAt N G M := by
  unfold Dev.roleAssume
  try dsimp only
  repeat' first
    | with_reducible assumption
    | with_reducible apply Dev.lct_inv
    | with_reducible apply Dev.resend_inv
    | simp only [↓Dev.inv_mk]
    | (split <;> (try dsimp only))
    | intro _

theorem execRoleAssume_keeps {N G : Nat} {M : Option (List Host.Cell)} (n : Fin 24) (role : Fin 4) (rxseq : Option (BitVec 7)) (s : State) (h_s : s.dev.InvAt N G M) : Res.Keeps N G M s.pending (execRoleAssume n role rxseq s) := by
  apply State.run_keeps
  try dsimp only
  repeat' first
    | with_reducible assumption
    | with_reducible apply Dev.roleAssume_inv
    | simp only [↓Dev.inv_mk]
    | (split <;> (try dsimp only))
    | intro _

theorem Dev.roleAssumeAck_inv {N G : Nat} {M : Option (List Host.Cell)} (d : Dev) (n : Nat) (r : Nat) (rxseq : Option Nat) (h_d : d.InvAt N G M) : (Dev.roleAssumeAck d n r rxseq).InvAt N G M := by
  unfold Dev.roleAssumeAck
  try dsimp only
  repeat' first
    | with_reducible assumption
    | with_reducible apply Dev.setRole_inv
    | with_reducible apply Dev.accMod_inv
    | with_reducible apply Dev.inc_inv
    | with_reducible apply Dev.resend_inv
    | with_reducible apply Dev.pairReq_inv
    | with_reducible apply Dev.modeUpdate_inv
    | with_reducible apply Dev.pumpAll_inv
    | simp only [↓Dev.inv_mk]
    | (split <;> (try dsimp only))
    | intro _

theorem execRoleAssumeAck_keeps {N G : Nat} {M : Option (List Host.Cell)} (n : Fin 24) (role : Fin 4) (rxseq : Option (BitVec 7)) (s : State) (h_s : s.dev.InvAt N G M) : Res.Keeps N G M s.pending (execRoleAssumeAck n role rxseq s) := by
  apply State.run_keeps
  try dsimp only
  repeat' first
    | with_reducible assumption
    | with_reducible apply Dev.roleAssumeAck_inv
    | simp only [↓Dev.inv_mk]
    | (split <;> (try dsimp only))
    | intro _

theorem Dev.roleResend_inv {N G : Nat} {M : Option (List Host.Cell)} (d : Dev) (a : Nat) (h_d : d.InvAt N G M) : (Dev.roleResend d a).InvAt N G M := by
  unfold Dev.roleResend
  try dsimp only
  repeat' first
    | with_reducible assumption
    | with_reducible apply List.foldl_inv
    | with_reducible apply List.foldl_inv2
    | with_reducible apply Dev.lct_inv
    | with_reducible apply Dev.accMod_inv
    | with_reducible apply hf
    | simp only [↓Dev.inv_mk]
    | (split <;> (try dsimp only))
    | intro _

theorem execRoleResendTimeout_keeps {N G : Nat} {M : Option (List Host.Cell)} (a : Fin 8) (s : State) (h_s : s.dev.InvAt N G M) : Res.Keeps N G M s.pending (execRoleResendTimeout a s) := by
  apply State.run_keeps
  try dsimp only
  repeat' first
    | with_reducible assumption
    | with_reducible apply Dev.roleResend_inv
    | simp only [↓Dev.inv_mk]
    | (split <;> (try dsimp only))
    | intro _

theorem Dev.accRoleWrite_inv {N G : Nat} {M : Option (List Host.Cell)} (d : Dev) (a : Nat) (ag : Agent) (v : Nat) (h_d : d.InvAt N G M) : (Dev.accRoleWrite d a ag v).InvAt N G M := by
  unfold Dev.accRoleWrite
  try dsimp only
  repeat' first
    | with_reducible assumption
    | with_reducible apply Dev.lkGo_inv
    | with_reducible apply Dev.accMod_inv
    | simp only [↓Dev.inv_mk]
    | (split <;> (try dsimp only))
    | intro _

theorem execVlAccRoleWrite_keeps {N G : Nat} {M : Option (List Host.Cell)} (a : Fin 8) (ag : Agent) (v : BitVec 6) (s : State) (h_s : s.dev.InvAt N G M) : Res.Keeps N G M s.pending (execVlAccRoleWrite a ag v s) := by
  apply State.run_keeps
  try dsimp only
  repeat' first
    | with_reducible assumption
    | with_reducible apply Dev.accRoleWrite_inv
    | simp only [↓Dev.inv_mk]
    | (split <;> (try dsimp only))
    | intro _

theorem execForceFail_keeps {N G : Nat} {M : Option (List Host.Cell)} (n : Fin 24) (s : State) (h_s : s.dev.InvAt N G M) : Res.Keeps N G M s.pending (execForceFail n s) := by
  apply State.run_keeps
  try dsimp only
  repeat' first
    | with_reducible assumption
    | with_reducible apply Dev.linkFail_inv
    | simp only [↓Dev.inv_mk]
    | (split <;> (try dsimp only))
    | intro _

theorem execRetrain_keeps {N G : Nat} {M : Option (List Host.Cell)} (n : Fin 24) (s : State) (h_s : s.dev.InvAt N G M) : Res.Keeps N G M s.pending (execRetrain n s) := by
  apply State.run_keeps
  try dsimp only
  repeat' first
    | with_reducible assumption
    | with_reducible apply Dev.wr_inv
    | with_reducible apply Dev.linkTrain_inv
    | with_reducible apply Dev.linkFail_inv
    | with_reducible apply hf
    | simp only [↓Dev.inv_mk]
    | (split <;> (try dsimp only))
    | intro _

theorem Dev.linkEn_inv {N G : Nat} {M : Option (List Host.Cell)} (d : Dev) (n : Nat) (on : Bool) (h_d : d.InvAt N G M) : (Dev.linkEn d n on).InvAt N G M := by
  unfold Dev.linkEn
  try dsimp only
  repeat' first
    | with_reducible assumption
    | with_reducible apply Dev.wr_inv
    | with_reducible apply Dev.lkMod_inv
    | with_reducible apply Dev.kick_inv
    | with_reducible apply Dev.linkFail_inv
    | with_reducible apply Dev.wakeFail_inv
    | with_reducible apply Dev.linkReset_inv
    | with_reducible apply Dev.modeUpdate_inv
    | simp only [↓Dev.inv_mk]
    | (split <;> (try dsimp only))
    | intro _

theorem execLinkEnWrite_keeps {N G : Nat} {M : Option (List Host.Cell)} (n : Fin 24) (on : Bool) (s : State) (h_s : s.dev.InvAt N G M) : Res.Keeps N G M s.pending (execLinkEnWrite n on s) := by
  apply State.run_keeps
  try dsimp only
  repeat' first
    | with_reducible assumption
    | with_reducible apply Dev.linkEn_inv
    | simp only [↓Dev.inv_mk]
    | (split <;> (try dsimp only))
    | intro _

theorem Dev.vlEn_inv {N G : Nat} {M : Option (List Host.Cell)} (d : Dev) (on : Bool) (h_d : d.InvAt N G M) : (Dev.vlEn d on).InvAt N G M := by
  unfold Dev.vlEn
  try dsimp only
  repeat' first
    | with_reducible assumption
    | with_reducible apply List.foldl_inv
    | with_reducible apply List.foldl_inv2
    | with_reducible apply Dev.wr_inv
    | with_reducible apply Dev.forAcc_inv
    | with_reducible apply Dev.rerun_inv
    | with_reducible apply Dev.modeUpdate_inv
    | with_reducible apply Dev.linkFail_inv
    | with_reducible apply Dev.linkReset_inv
    | with_reducible apply Dev.accLost_inv
    | with_reducible apply hf
    | simp only [↓Dev.inv_mk]
    | (split <;> (try dsimp only))
    | intro _

theorem execVlEnWrite_keeps {N G : Nat} {M : Option (List Host.Cell)} (on : Bool) (s : State) (h_s : s.dev.InvAt N G M) : Res.Keeps N G M s.pending (execVlEnWrite on s) := by
  apply State.run_keeps
  try dsimp only
  repeat' first
    | with_reducible assumption
    | with_reducible apply Dev.vlEn_inv
    | simp only [↓Dev.inv_mk]
    | (split <;> (try dsimp only))
    | intro _

theorem execLossOfSignal_keeps {N G : Nat} {M : Option (List Host.Cell)} (n : Fin 24) (s : State) (h_s : s.dev.InvAt N G M) : Res.Keeps N G M s.pending (execLossOfSignal n s) := by
  apply State.run_keeps
  try dsimp only
  repeat' first
    | with_reducible assumption
    | with_reducible apply Dev.linkFail_inv
    | simp only [↓Dev.inv_mk]
    | (split <;> (try dsimp only))
    | intro _

theorem Dev.lockCount_inv {N G : Nat} {M : Option (List Host.Cell)} (d : Dev) (n : Nat) (bad : Bool) (h_d : d.InvAt N G M) : (Dev.lockCount d n bad).InvAt N G M := by
  unfold Dev.lockCount
  try dsimp only
  repeat' first
    | with_reducible assumption
    | with_reducible apply Dev.lkMod_inv
    | with_reducible apply Dev.wakeFail_inv
    | with_reducible apply Dev.linkFail_inv
    | simp only [↓Dev.inv_mk]
    | (split <;> (try dsimp only))
    | intro _

theorem Dev.frame_inv {N G : Nat} {M : Option (List Host.Cell)} (d : Dev) (n : Nat) (e : Nat) (h_d : d.InvAt N G M) : (Dev.frame d n e).InvAt N G M := by
  unfold Dev.frame
  try dsimp only
  repeat' first
    | with_reducible assumption
    | with_reducible apply Dev.inc_inv
    | with_reducible apply Dev.lockCount_inv
    | simp only [↓Dev.inv_mk]
    | (split <;> (try dsimp only))
    | intro _

theorem execPcsFrameReceive_keeps {N G : Nat} {M : Option (List Host.Cell)} (n : Fin 24) (symErrs : Fin 69) (s : State) (h_s : s.dev.InvAt N G M) : Res.Keeps N G M s.pending (execPcsFrameReceive n symErrs s) := by
  apply State.run_keeps
  try dsimp only
  repeat' first
    | with_reducible assumption
    | with_reducible apply Dev.frame_inv
    | simp only [↓Dev.inv_mk]
    | (split <;> (try dsimp only))
    | intro _

theorem Dev.doAck_inv {N G : Nat} {M : Option (List Host.Cell)} (d : Dev) (n : Nat) (seq : Nat) (h_d : d.InvAt N G M) : (Dev.doAck d n seq).InvAt N G M := by
  unfold Dev.doAck
  try dsimp only
  repeat' first
    | with_reducible assumption
    | with_reducible apply Dev.lkPut_inv
    | with_reducible apply Dev.wr_inv
    | with_reducible apply Dev.accMod_inv
    | with_reducible apply Dev.pumpAll_inv
    | simp only [↓Dev.inv_mk]
    | (split <;> (try dsimp only))
    | intro _

theorem Dev.ackOpt_inv {N G : Nat} {M : Option (List Host.Cell)} (d : Dev) (n : Nat) (ack : Option (BitVec 7)) (h_d : d.InvAt N G M) : (Dev.ackOpt d n ack).InvAt N G M := by
  unfold Dev.ackOpt
  try dsimp only
  repeat' first
    | with_reducible assumption
    | with_reducible apply Dev.doAck_inv
    | simp only [↓Dev.inv_mk]
    | (split <;> (try dsimp only))
    | intro _

theorem Dev.sendNak_inv {N G : Nat} {M : Option (List Host.Cell)} (d : Dev) (n : Nat) (h_d : d.InvAt N G M) : (Dev.sendNak d n).InvAt N G M := by
  unfold Dev.sendNak
  try dsimp only
  repeat' first
    | with_reducible assumption
    | with_reducible apply Dev.lkMod_inv
    | with_reducible apply Dev.inc_inv
    | with_reducible apply Dev.lct_inv
    | simp only [↓Dev.inv_mk]
    | (split <;> (try dsimp only))
    | intro _

theorem Dev.dataFlit_inv {N G : Nat} {M : Option (List Host.Cell)} (d : Dev) (n : Nat) (f : BitVec 160) (h_d : d.InvAt N G M) : (Dev.dataFlit d n f).InvAt N G M := by
  unfold Dev.dataFlit
  try dsimp only
  repeat' first
    | with_reducible assumption
    | with_reducible apply Dev.inc_inv
    | with_reducible apply Dev.sendNak_inv
    | with_reducible apply Dev.linkFail_inv
    | with_reducible apply Dev.wr_inv
    | with_reducible apply Dev.lkMod_inv
    | with_reducible apply Dev.ffr_inv
    | with_reducible apply Dev.freeRx_inv
    | with_reducible apply Dev.doAck_inv
    | simp only [↓Dev.inv_mk]
    | (split <;> (try dsimp only))
    | intro _

theorem execDataFlitReceive_keeps {N G : Nat} {M : Option (List Host.Cell)} (n : Fin 24) (f : BitVec 160) (s : State) (h_s : s.dev.InvAt N G M) : Res.Keeps N G M s.pending (execDataFlitReceive n f s) := by
  apply State.run_keeps
  try dsimp only
  repeat' first
    | with_reducible assumption
    | with_reducible apply Dev.dataFlit_inv
    | simp only [↓Dev.inv_mk]
    | (split <;> (try dsimp only))
    | intro _

theorem execIdle_keeps {N G : Nat} {M : Option (List Host.Cell)} (n : Fin 24) (ack : Option (BitVec 7)) (s : State) (h_s : s.dev.InvAt N G M) : Res.Keeps N G M s.pending (execIdle n ack s) := by
  apply State.run_keeps
  try dsimp only
  repeat' first
    | with_reducible assumption
    | with_reducible apply Dev.ackOpt_inv
    | with_reducible apply hf
    | simp only [↓Dev.inv_mk]
    | (split <;> (try dsimp only))
    | intro _

theorem Dev.status_inv {N G : Nat} {M : Option (List Host.Cell)} (d : Dev) (n : Nat) (ack : Option (BitVec 7)) (c : Nat) (h_d : d.InvAt N G M) : (Dev.status d n ack c).InvAt N G M := by
  unfold Dev.status
  try dsimp only
  repeat' first
    | with_reducible assumption
    | with_reducible apply Dev.lkMod_inv
    | with_reducible apply Dev.ackOpt_inv
    | with_reducible apply Dev.pumpAll_inv
    | simp only [↓Dev.inv_mk]
    | (split <;> (try dsimp only))
    | intro _

theorem execStatus_keeps {N G : Nat} {M : Option (List Host.Cell)} (n : Fin 24) (ack : Option (BitVec 7)) (credits : DWord) (s : State) (h_s : s.dev.InvAt N G M) : Res.Keeps N G M s.pending (execStatus n ack credits s) := by
  apply State.run_keeps
  try dsimp only
  repeat' first
    | with_reducible assumption
    | with_reducible apply Dev.status_inv
    | simp only [↓Dev.inv_mk]
    | (split <;> (try dsimp only))
    | intro _

theorem Dev.nak_inv {N G : Nat} {M : Option (List Host.Cell)} (d : Dev) (n : Nat) (q : Nat) (h_d : d.InvAt N G M) : (Dev.nak d n q).InvAt N G M := by
  unfold Dev.nak
  try dsimp only
  repeat' first
    | with_reducible assumption
    | with_reducible apply List.foldl_inv
    | with_reducible apply List.foldl_inv2
    | with_reducible apply Dev.wr_inv
    | with_reducible apply Dev.doAck_inv
    | with_reducible apply Dev.inc_inv
    | with_reducible apply Dev.lkPut_inv
    | with_reducible apply Dev.linkFail_inv
    | with_reducible apply Dev.lct_inv
    | with_reducible apply Dev.emit_inv
    | with_reducible apply Dev.lkMod_inv
    | with_reducible apply hf
    | simp only [↓Dev.inv_mk]
    | (split <;> (try dsimp only))
    | intro _

theorem execNak_keeps {N G : Nat} {M : Option (List Host.Cell)} (n : Fin 24) (seq : BitVec 7) (s : State) (h_s : s.dev.InvAt N G M) : Res.Keeps N G M s.pending (execNak n seq s) := by
  apply State.run_keeps
  try dsimp only
  repeat' first
    | with_reducible assumption
    | with_reducible apply Dev.nak_inv
    | simp only [↓Dev.inv_mk]
    | (split <;> (try dsimp only))
    | intro _

theorem execReplayMark_keeps {N G : Nat} {M : Option (List Host.Cell)} (n : Fin 24) (seq : BitVec 7) (s : State) (h_s : s.dev.InvAt N G M) : Res.Keeps N G M s.pending (execReplayMark n seq s) := by
  apply State.run_keeps
  try dsimp only
  repeat' first
    | with_reducible assumption
    | with_reducible apply Dev.lkMod_inv
    | with_reducible apply hf
    | simp only [↓Dev.inv_mk]
    | (split <;> (try dsimp only))
    | intro _

theorem execNakResendTimeout_keeps {N G : Nat} {M : Option (List Host.Cell)} (n : Fin 24) (s : State) (h_s : s.dev.InvAt N G M) : Res.Keeps N G M s.pending (execNakResendTimeout n s) := by
  apply State.run_keeps
  try dsimp only
  repeat' first
    | with_reducible assumption
    | with_reducible apply Dev.sendNak_inv
    | with_reducible apply hf
    | simp only [↓Dev.inv_mk]
    | (split <;> (try dsimp only))
    | intro _

theorem execAckTimeout_keeps {N G : Nat} {M : Option (List Host.Cell)} (n : Fin 24) (s : State) (h_s : s.dev.InvAt N G M) : Res.Keeps N G M s.pending (execAckTimeout n s) := by
  apply State.run_keeps
  try dsimp only
  repeat' first
    | with_reducible assumption
    | with_reducible apply Dev.linkFail_inv
    | with_reducible apply hf
    | simp only [↓Dev.inv_mk]
    | (split <;> (try dsimp only))
    | intro _

theorem Dev.rateEnd_inv {N G : Nat} {M : Option (List Host.Cell)} (d : Dev) (n : Nat) (h_d : d.InvAt N G M) : (Dev.rateEnd d n).InvAt N G M := by
  unfold Dev.rateEnd
  try dsimp only
  repeat' first
    | with_reducible assumption
    | with_reducible apply Dev.lkMod_inv
    | with_reducible apply Dev.linkFail_inv
    | simp only [↓Dev.inv_mk]
    | (split <;> (try dsimp only))
    | intro _

theorem execReplayRateWindowEnd_keeps {N G : Nat} {M : Option (List Host.Cell)} (n : Fin 24) (s : State) (h_s : s.dev.InvAt N G M) : Res.Keeps N G M s.pending (execReplayRateWindowEnd n s) := by
  apply State.run_keeps
  try dsimp only
  repeat' first
    | with_reducible assumption
    | with_reducible apply Dev.rateEnd_inv
    | simp only [↓Dev.inv_mk]
    | (split <;> (try dsimp only))
    | intro _

theorem execReservedLct_keeps {N G : Nat} {M : Option (List Host.Cell)} (n : Fin 24) (lct : Bool) (s : State) (h_s : s.dev.InvAt N G M) : Res.Keeps N G M s.pending (execReservedLct n lct s) := by
  apply State.run_keeps
  try dsimp only
  repeat' first
    | with_reducible assumption
    | with_reducible apply Dev.wr_inv
    | with_reducible apply Dev.ffr_inv
    | with_reducible apply Dev.lct_inv
    | with_reducible apply hf
    | simp only [↓Dev.inv_mk]
    | (split <;> (try dsimp only))
    | intro _

theorem Dev.tsync_inv {N G : Nat} {M : Option (List Host.Cell)} (d : Dev) (a : Nat) (h_d : d.InvAt N G M) : (Dev.tsync d a).InvAt N G M := by
  unfold Dev.tsync
  try dsimp only
  repeat' first
    | with_reducible assumption
    | with_reducible apply Dev.accMod_inv
    | with_reducible apply Dev.sendFlit_inv
    | simp only [↓Dev.inv_mk]
    | (split <;> (try dsimp only))
    | intro _

theorem execTsyncExchange_keeps {N G : Nat} {M : Option (List Host.Cell)} (a : Fin 8) (s : State) (h_s : s.dev.InvAt N G M) : Res.Keeps N G M s.pending (execTsyncExchange a s) := by
  apply State.run_keeps
  try dsimp only
  repeat' first
    | with_reducible assumption
    | with_reducible apply Dev.tsync_inv
    | simp only [↓Dev.inv_mk]
    | (split <;> (try dsimp only))
    | intro _

theorem Dev.tsyncFollow_inv {N G : Nat} {M : Option (List Host.Cell)} (d : Dev) (a : Nat) (h_d : d.InvAt N G M) : (Dev.tsyncFollow d a).InvAt N G M := by
  unfold Dev.tsyncFollow
  try dsimp only
  repeat' first
    | with_reducible assumption
    | with_reducible apply Dev.accMod_inv
    | with_reducible apply Dev.sendFlit_inv
    | simp only [↓Dev.inv_mk]
    | (split <;> (try dsimp only))
    | intro _

theorem execTsyncFollow_keeps {N G : Nat} {M : Option (List Host.Cell)} (a : Fin 8) (s : State) (h_s : s.dev.InvAt N G M) : Res.Keeps N G M s.pending (execTsyncFollow a s) := by
  apply State.run_keeps
  try dsimp only
  repeat' first
    | with_reducible assumption
    | with_reducible apply Dev.tsyncFollow_inv
    | simp only [↓Dev.inv_mk]
    | (split <;> (try dsimp only))
    | intro _

theorem Dev.takeRxBy_inv {N G : Nat} {M : Option (List Host.Cell)} (d : Dev) (a : Nat) (vc : Nat) (ty : Nat) (p : Payload → Bool) (h_d : d.InvAt N G M) : (Dev.takeRxBy d a vc ty p).InvAt N G M := by
  unfold Dev.takeRxBy
  try dsimp only
  repeat' first
    | with_reducible assumption
    | with_reducible apply Dev.takeRx_inv
    | simp only [↓Dev.inv_mk]
    | (split <;> (try dsimp only))
    | intro _

theorem Dev.tsyncDreq_inv {N G : Nat} {M : Option (List Host.Cell)} (d : Dev) (a : Nat) (times : Nat) (offset : Int) (path : Nat) (locked : Bool) (h_d : d.InvAt N G M) : (Dev.tsyncDreq d a times offset path locked).InvAt N G M := by
  unfold Dev.tsyncDreq
  try dsimp only
  repeat' first
    | with_reducible assumption
    | with_reducible apply Dev.takeRxBy_inv
    | with_reducible apply Dev.sendFlit_inv
    | with_reducible apply Dev.accMod_inv
    | with_reducible apply Dev.wr_inv
    | simp only [↓Dev.inv_mk]
    | (split <;> (try dsimp only))
    | intro _

theorem execTsyncDreq_keeps {N G : Nat} {M : Option (List Host.Cell)} (a : Fin 8) (times : BitVec 4) (offset : Int) (path : BitVec 16) (locked : Bool) (s : State) (h_s : s.dev.InvAt N G M) : Res.Keeps N G M s.pending (execTsyncDreq a times offset path locked s) := by
  apply State.run_keeps
  try dsimp only
  repeat' first
    | with_reducible assumption
    | with_reducible apply Dev.tsyncDreq_inv
    | simp only [↓Dev.inv_mk]
    | (split <;> (try dsimp only))
    | intro _

theorem Dev.tlmCtrl_inv {N G : Nat} {M : Option (List Host.Cell)} (d : Dev) (a : Nat) (en : Bool) (h_d : d.InvAt N G M) : (Dev.tlmCtrl d a en).InvAt N G M := by
  unfold Dev.tlmCtrl
  try dsimp only
  repeat' first
    | with_reducible assumption
    | with_reducible apply Dev.sendFlit_inv
    | simp only [↓Dev.inv_mk]
    | (split <;> (try dsimp only))
    | intro _

theorem Dev.pairRsp_inv {N G : Nat} {M : Option (List Host.Cell)} (d : Dev) (a : Nat) (v : Nat) (h_d : d.InvAt N G M) : (Dev.pairRsp d a v).InvAt N G M := by
  unfold Dev.pairRsp
  try dsimp only
  repeat' first
    | with_reducible assumption
    | with_reducible apply Dev.takeRxBy_inv
    | with_reducible apply Dev.accMod_inv
    | with_reducible apply Dev.wr_inv
    | with_reducible apply Dev.sendFlit_inv
    | with_reducible apply Dev.event_inv
    | with_reducible apply Dev.tlmCtrl_inv
    | simp only [↓Dev.inv_mk]
    | (split <;> (try dsimp only))
    | intro _

theorem execPairRsp_keeps {N G : Nat} {M : Option (List Host.Cell)} (a : Fin 8) (v : BitVec 2) (s : State) (h_s : s.dev.InvAt N G M) : Res.Keeps N G M s.pending (execPairRsp a v s) := by
  apply State.run_keeps
  try dsimp only
  repeat' first
    | with_reducible assumption
    | with_reducible apply Dev.pairRsp_inv
    | simp only [↓Dev.inv_mk]
    | (split <;> (try dsimp only))
    | intro _

theorem Dev.pairTimeout_inv {N G : Nat} {M : Option (List Host.Cell)} (d : Dev) (a : Nat) (h_d : d.InvAt N G M) : (Dev.pairTimeout d a).InvAt N G M := by
  unfold Dev.pairTimeout
  try dsimp only
  repeat' first
    | with_reducible assumption
    | with_reducible apply Dev.pairReq_inv
    | with_reducible apply Dev.accMod_inv
    | with_reducible apply Dev.wr_inv
    | with_reducible apply Dev.ffr_inv
    | simp only [↓Dev.inv_mk]
    | (split <;> (try dsimp only))
    | intro _

theorem execPairRspTimeout_keeps {N G : Nat} {M : Option (List Host.Cell)} (a : Fin 8) (s : State) (h_s : s.dev.InvAt N G M) : Res.Keeps N G M s.pending (execPairRspTimeout a s) := by
  apply State.run_keeps
  try dsimp only
  repeat' first
    | with_reducible assumption
    | with_reducible apply Dev.pairTimeout_inv
    | simp only [↓Dev.inv_mk]
    | (split <;> (try dsimp only))
    | intro _

theorem Dev.bindOk_inv {N G : Nat} {M : Option (List Host.Cell)} (d : Dev) (a : Nat) (on : Bool) (h_d : d.InvAt N G M) : (Dev.bindOk d a on).InvAt N G M := by
  unfold Dev.bindOk
  try dsimp only
  repeat' first
    | with_reducible assumption
    | with_reducible apply Dev.wr_inv
    | with_reducible apply Dev.pairReq_inv
    | simp only [↓Dev.inv_mk]
    | (split <;> (try dsimp only))
    | intro _

theorem execBindOkWrite_keeps {N G : Nat} {M : Option (List Host.Cell)} (a : Fin 8) (on : Bool) (s : State) (h_s : s.dev.InvAt N G M) : Res.Keeps N G M s.pending (execBindOkWrite a on s) := by
  apply State.run_keeps
  try dsimp only
  repeat' first
    | with_reducible assumption
    | with_reducible apply Dev.bindOk_inv
    | simp only [↓Dev.inv_mk]
    | (split <;> (try dsimp only))
    | intro _

theorem Dev.forceSideband_inv {N G : Nat} {M : Option (List Host.Cell)} (d : Dev) (a : Nat) (on : Bool) (h_d : d.InvAt N G M) : (Dev.forceSideband d a on).InvAt N G M := by
  unfold Dev.forceSideband
  try dsimp only
  repeat' first
    | with_reducible assumption
    | with_reducible apply Dev.wr_inv
    | with_reducible apply Dev.linksDown_inv
    | with_reducible apply Dev.rerun_inv
    | with_reducible apply Dev.modeUpdate_inv
    | simp only [↓Dev.inv_mk]
    | (split <;> (try dsimp only))
    | intro _

theorem execForceSideband_keeps {N G : Nat} {M : Option (List Host.Cell)} (a : Fin 8) (on : Bool) (s : State) (h_s : s.dev.InvAt N G M) : Res.Keeps N G M s.pending (execForceSideband a on s) := by
  apply State.run_keeps
  try dsimp only
  repeat' first
    | with_reducible assumption
    | with_reducible apply Dev.forceSideband_inv
    | simp only [↓Dev.inv_mk]
    | (split <;> (try dsimp only))
    | intro _

theorem Dev.prsnt_inv {N G : Nat} {M : Option (List Host.Cell)} (d : Dev) (a : Nat) (on : Bool) (h_d : d.InvAt N G M) : (Dev.prsnt d a on).InvAt N G M := by
  unfold Dev.prsnt
  try dsimp only
  repeat' first
    | with_reducible assumption
    | with_reducible apply Dev.accMod_inv
    | with_reducible apply Dev.accRelease_inv
    | with_reducible apply Dev.wr_inv
    | with_reducible apply Dev.accHold_inv
    | with_reducible apply Dev.feasUpdate_inv
    | with_reducible apply Dev.emergUpdate_inv
    | with_reducible apply Dev.propose_inv
    | simp only [↓Dev.inv_mk]
    | (split <;> (try dsimp only))
    | intro _

theorem execPrsntEdge_keeps {N G : Nat} {M : Option (List Host.Cell)} (a : Fin 8) (asserted : Bool) (s : State) (h_s : s.dev.InvAt N G M) : Res.Keeps N G M s.pending (execPrsntEdge a asserted s) := by
  apply State.run_keeps
  try dsimp only
  repeat' first
    | with_reducible assumption
    | with_reducible apply Dev.prsnt_inv
    | simp only [↓Dev.inv_mk]
    | (split <;> (try dsimp only))
    | intro _

end Sys2Proof.Machine
end

