-- ==== Sys2Proof/Laws/InvTileOps.lean ====
section
/-! SUPPORT. Every operation of Machine/TileOps.lean keeps the invariant. -/

namespace Sys2Proof.Machine

theorem Dev.tlPut_inv {N G : Nat} {M : Option (List Host.Cell)} (d : Dev) (t : Nat) (x : Tile) (h_d : d.InvAt N G M) : (Dev.tlPut d t x).InvAt N G M := by
  unfold Dev.tlPut
  try dsimp only
  repeat' first
    | with_reducible assumption
    | simp only [↓Dev.inv_mk]
    | (split <;> (try dsimp only))
    | intro _

theorem Dev.tlMod_inv {N G : Nat} {M : Option (List Host.Cell)} (d : Dev) (t : Nat) (f : Tile → Tile) (h_d : d.InvAt N G M) : (Dev.tlMod d t f).InvAt N G M := by
  unfold Dev.tlMod
  try dsimp only
  repeat' first
    | with_reducible assumption
    | with_reducible apply Dev.tlPut_inv
    | simp only [↓Dev.inv_mk]
    | (split <;> (try dsimp only))
    | intro _

theorem Dev.slPut_inv {N G : Nat} {M : Option (List Host.Cell)} (d : Dev) (n : Nat) (x : Slot) (h_d : d.InvAt N G M) : (Dev.slPut d n x).InvAt N G M := by
  unfold Dev.slPut
  try dsimp only
  repeat' first
    | with_reducible assumption
    | simp only [↓Dev.inv_mk]
    | (split <;> (try dsimp only))
    | intro _

theorem Dev.slMod_inv {N G : Nat} {M : Option (List Host.Cell)} (d : Dev) (n : Nat) (f : Slot → Slot) (h_d : d.InvAt N G M) : (Dev.slMod d n f).InvAt N G M := by
  unfold Dev.slMod
  try dsimp only
  repeat' first
    | with_reducible assumption
    | with_reducible apply Dev.slPut_inv
    | simp only [↓Dev.inv_mk]
    | (split <;> (try dsimp only))
    | intro _

theorem Dev.reseed_inv {N G : Nat} {M : Option (List Host.Cell)} (d : Dev) (t : Nat) (v : Nat) (h_d : d.InvAt N G M) : (Dev.reseed d t v).InvAt N G M := by
  unfold Dev.reseed
  try dsimp only
  repeat' first
    | with_reducible assumption
    | with_reducible apply Dev.wr_inv
    | with_reducible apply Dev.tlMod_inv
    | simp only [↓Dev.inv_mk]
    | (split <;> (try dsimp only))
    | intro _

theorem Dev.tPut_inv {N G : Nat} (d : Dev) (t : Nat) (a : Nat) (l : List Byte) (p : Bool) (h_d : d.InvAt N G none) : (Dev.tPut d t a l p).InvAt N G none := by
  unfold Dev.tPut
  try dsimp only
  repeat' first
    | with_reducible assumption
    | with_reducible apply Dev.stn_inv
    | simp only [↓Dev.inv_mk]
    | (split <;> (try dsimp only))
    | intro _

theorem Dev.tFlags_inv {N G : Nat} {M : Option (List Host.Cell)} (d : Dev) (t : Nat) (f : Flags) (h_d : d.InvAt N G M) : (Dev.tFlags d t f).InvAt N G M := by
  unfold Dev.tFlags
  try dsimp only
  repeat' first
    | with_reducible assumption
    | with_reducible apply Dev.tlMod_inv
    | with_reducible apply Dev.wr_inv
    | simp only [↓Dev.inv_mk]
    | (split <;> (try dsimp only))
    | intro _

theorem Dev.tPoison_inv {N G : Nat} {M : Option (List Host.Cell)} (d : Dev) (t : Nat) (p : Bool) (h_d : d.InvAt N G M) : (Dev.tPoison d t p).InvAt N G M := by
  unfold Dev.tPoison
  try dsimp only
  repeat' first
    | with_reducible assumption
    | with_reducible apply Dev.tlMod_inv
    | with_reducible apply Dev.wr_inv
    | simp only [↓Dev.inv_mk]
    | (split <;> (try dsimp only))
    | intro _

theorem Dev.poisonElem_inv {N G : Nat} {M : Option (List Host.Cell)} (d : Dev) (t : Nat) (o : Opnd) (i : Nat) (h_d : d.InvAt N G M) : (Dev.poisonElem d t o i).InvAt N G M := by
  unfold Dev.poisonElem
  try dsimp only
  repeat' first
    | with_reducible assumption
    | with_reducible apply List.foldl_inv
    | with_reducible apply List.foldl_inv2
    | with_reducible apply Dev.setPoison_inv
    | with_reducible apply hf
    | simp only [↓Dev.inv_mk]
    | (split <;> (try dsimp only))
    | intro _

theorem Dev.tStore_inv {N G : Nat} (d : Dev) (t : Nat) (o : Opnd) (nctl : Nat) (matrix : Bool) (vs : List SVal) (p : Nat → Bool) (h_d : d.InvAt N G none) : (Dev.tStore d t o nctl matrix vs p).InvAt N G none := by
  unfold Dev.tStore
  try dsimp only
  repeat' first
    | with_reducible assumption
    | with_reducible apply List.foldl_inv
    | with_reducible apply List.foldl_inv2
    | with_reducible apply Dev.tlPut_inv
    | with_reducible apply Dev.tPut_inv
    | with_reducible apply Dev.tFlags_inv
    | with_reducible apply Dev.poisonElem_inv
    | with_reducible apply Dev.tPoison_inv
    | with_reducible apply hf
    | simp only [↓Dev.inv_mk]
    | (split <;> (try dsimp only))
    | intro _

theorem Dev.copyBytes_inv {N G : Nat} (d : Dev) (sm : Space) (sa : Nat) (dm : Space) (da : Nat) (len : Nat) (h_d : d.InvAt N G none) : (Dev.copyBytes d sm sa dm da len).InvAt N G none := by
  unfold Dev.copyBytes
  try dsimp only
  repeat' first
    | with_reducible assumption
    | with_reducible apply List.foldl_inv
    | with_reducible apply List.foldl_inv2
    | with_reducible apply Dev.stn_inv
    | with_reducible apply Dev.setPoison_inv
    | with_reducible apply hf
    | simp only [↓Dev.inv_mk]
    | (split <;> (try dsimp only))
    | intro _

theorem Dev.tileClear_inv {N G : Nat} (d : Dev) (t : Nat) (h_d : d.InvAt N G none) : (Dev.tileClear d t).InvAt N G none := by
  unfold Dev.tileClear
  try dsimp only
  repeat' first
    | with_reducible assumption
    | with_reducible apply Dev.clearSpace_inv
    | with_reducible apply Dev.tlPut_inv
    | with_reducible apply Dev.wr_inv
    | with_reducible apply Dev.wrw_inv
    | simp only [↓Dev.inv_mk]
    | (split <;> (try dsimp only))
    | intro _

theorem Dev.tileLeave_inv {N G : Nat} (d : Dev) (t : Nat) (st : Nat) (h_d : d.InvAt N G none) : (Dev.tileLeave d t st).InvAt N G none := by
  unfold Dev.tileLeave
  try dsimp only
  repeat' first
    | with_reducible assumption
    | with_reducible apply Dev.tileClear_inv
    | with_reducible apply Dev.wrw_inv
    | with_reducible apply Dev.st_inv
    | simp only [↓Dev.inv_mk]
    | (split <;> (try dsimp only))
    | intro _

theorem Dev.bwShow_inv {N G : Nat} {M : Option (List Host.Cell)} (d : Dev) (h_d : d.InvAt N G M) : (Dev.bwShow d).InvAt N G M := by
  unfold Dev.bwShow
  try dsimp only
  repeat' first
    | with_reducible assumption
    | with_reducible apply List.foldl_inv
    | with_reducible apply List.foldl_inv2
    | with_reducible apply Dev.wr_inv
    | simp only [↓Dev.inv_mk]
    | (split <;> (try dsimp only))
    | intro _

theorem Dev.trainRetry_inv {N G : Nat} {M : Option (List Host.Cell)} (d : Dev) (h_d : d.InvAt N G M) : (Dev.trainRetry d).InvAt N G M := by
  unfold Dev.trainRetry
  try dsimp only
  repeat' first
    | with_reducible assumption
    | with_reducible apply Dev.wr_inv
    | simp only [↓Dev.inv_mk]
    | (split <;> (try dsimp only))
    | intro _

theorem Dev.slotFree_inv {N G : Nat} (d : Dev) (n : Nat) (h_d : d.InvAt N G none) : (Dev.slotFree d n).InvAt N G none := by
  unfold Dev.slotFree
  try dsimp only
  repeat' first
    | with_reducible assumption
    | with_reducible apply List.foldl_inv
    | with_reducible apply List.foldl_inv2
    | with_reducible apply Dev.wrw_inv
    | with_reducible apply Dev.tileLeave_inv
    | with_reducible apply Dev.slPut_inv
    | with_reducible apply Dev.resetRegs_inv
    | with_reducible apply Dev.bwShow_inv
    | with_reducible apply Dev.trainRetry_inv
    | with_reducible apply hf
    | simp only [↓Dev.inv_mk]
    | (split <;> (try dsimp only))
    | intro _

theorem Dev.slotRetire_inv {N G : Nat} (d : Dev) (n : Nat) (h_d : d.InvAt N G none) : (Dev.slotRetire d n).InvAt N G none := by
  unfold Dev.slotRetire
  try dsimp only
  repeat' first
    | with_reducible assumption
    | with_reducible apply Dev.wr_inv
    | with_reducible apply Dev.slotFree_inv
    | simp only [↓Dev.inv_mk]
    | (split <;> (try dsimp only))
    | intro _

theorem Dev.tileRun_inv {N G : Nat} {M : Option (List Host.Cell)} (d : Dev) (t : Nat) (h_d : d.InvAt N G M) : (Dev.tileRun d t).InvAt N G M := by
  unfold Dev.tileRun
  try dsimp only
  repeat' first
    | with_reducible assumption
    | with_reducible apply Dev.free_inv
    | with_reducible apply Dev.wr_inv
    | with_reducible apply Dev.tlMod_inv
    | simp only [↓Dev.inv_mk]
    | (split <;> (try dsimp only))
    | intro _

theorem Dev.invStart_inv {N G : Nat} {M : Option (List Host.Cell)} (d : Dev) (n : Nat) (trig : Nat) (explicit : Bool) (h_d : d.InvAt N G M) : (Dev.invStart d n trig explicit).InvAt N G M := by
  unfold Dev.invStart
  try dsimp only
  repeat' first
    | with_reducible assumption
    | with_reducible apply List.foldl_inv
    | with_reducible apply List.foldl_inv2
    | with_reducible apply Dev.slMod_inv
    | with_reducible apply Dev.wr_inv
    | with_reducible apply Dev.tileRun_inv
    | with_reducible apply hf
    | simp only [↓Dev.inv_mk]
    | (split <;> (try dsimp only))
    | intro _

theorem Dev.tileStop_inv {N G : Nat} {M : Option (List Host.Cell)} (d : Dev) (t : Nat) (h_d : d.InvAt N G M) : (Dev.tileStop d t).InvAt N G M := by
  unfold Dev.tileStop
  try dsimp only
  repeat' first
    | with_reducible assumption
    | with_reducible apply Dev.wr_inv
    | with_reducible apply Dev.wr64_inv
    | simp only [↓Dev.inv_mk]
    | (split <;> (try dsimp only))
    | intro _

theorem Dev.tilesStop_inv {N G : Nat} {M : Option (List Host.Cell)} (d : Dev) (n : Nat) (h_d : d.InvAt N G M) : (Dev.tilesStop d n).InvAt N G M := by
  unfold Dev.tilesStop
  try dsimp only
  repeat' first
    | with_reducible assumption
    | with_reducible apply List.foldl_inv
    | with_reducible apply List.foldl_inv2
    | with_reducible apply Dev.tileStop_inv
    | with_reducible apply hf
    | simp only [↓Dev.inv_mk]
    | (split <;> (try dsimp only))
    | intro _

theorem Dev.invEnd_inv {N G : Nat} (d : Dev) (n : Nat) (h_d : d.InvAt N G none) : (Dev.invEnd d n).InvAt N G none := by
  unfold Dev.invEnd
  try dsimp only
  repeat' first
    | with_reducible assumption
    | with_reducible apply Dev.slotFree_inv
    | with_reducible apply Dev.slMod_inv
    | with_reducible apply Dev.invStart_inv
    | with_reducible apply Dev.wr_inv
    | simp only [↓Dev.inv_mk]
    | (split <;> (try dsimp only))
    | intro _

theorem Dev.trigger_inv {N G : Nat} {M : Option (List Host.Cell)} (d : Dev) (n : Nat) (h_d : d.InvAt N G M) : (Dev.trigger d n).InvAt N G M := by
  unfold Dev.trigger
  try dsimp only
  repeat' first
    | with_reducible assumption
    | with_reducible apply Dev.invStart_inv
    | with_reducible apply Dev.slMod_inv
    | with_reducible apply Dev.inc_inv
    | simp only [↓Dev.inv_mk]
    | (split <;> (try dsimp only))
    | intro _

end Sys2Proof.Machine
end

