-- ==== Sys2Proof/Laws/InvLoaderOps.lean ====
section
/-! SUPPORT. Every operation of Machine/LoaderOps.lean keeps the invariant. -/

namespace Sys2Proof.Machine

theorem Dev.placeTile_inv {N G : Nat} (d : Dev) (n : Nat) (p : Pkg) (b : List Byte) (f : Fit) (img : Nat) (l : Nat) (t : Nat) (h_d : d.InvAt N G none) : (Dev.placeTile d n p b f img l t).InvAt N G none := by
  unfold Dev.placeTile
  try dsimp only
  repeat' first
    | with_reducible assumption
    | with_reducible apply List.foldl_inv
    | with_reducible apply List.foldl_inv2
    | with_reducible apply Dev.clearRange_inv
    | with_reducible apply Dev.stn_inv
    | with_reducible apply Dev.tileClear_inv
    | with_reducible apply Dev.copyBytes_inv
    | with_reducible apply Dev.wrw_inv
    | with_reducible apply Dev.wr_inv
    | with_reducible apply Dev.reseed_inv
    | with_reducible apply hf
    | simp only [↓Dev.inv_mk]
    | (split <;> (try dsimp only))
    | intro _

theorem Dev.slotCommit_inv {N G : Nat} (d : Dev) (n : Nat) (h_d : d.InvAt N G none) : (Dev.slotCommit d n).InvAt N G none := by
  unfold Dev.slotCommit
  try dsimp only
  repeat' first
    | with_reducible assumption
    | with_reducible apply Dev.wr_inv
    | with_reducible apply Dev.slotRetire_inv
    | simp only [↓Dev.inv_mk]
    | (split <;> (try dsimp only))
    | intro _

theorem Dev.place_inv {N G : Nat} (d : Dev) (n : Nat) (q : LoadReq) (p : Pkg) (f : Fit) (h_d : d.InvAt N G none) : (Dev.place d n q p f).InvAt N G none := by
  unfold Dev.place
  try dsimp only
  repeat' first
    | with_reducible assumption
    | with_reducible apply List.foldl_inv
    | with_reducible apply List.foldl_inv2
    | with_reducible apply Dev.clearRange_inv
    | with_reducible apply Dev.slPut_inv
    | with_reducible apply Dev.st_inv
    | with_reducible apply Dev.wrw_inv
    | with_reducible apply Dev.wr_inv
    | with_reducible apply Dev.bwShow_inv
    | with_reducible apply Dev.stn_inv
    | with_reducible apply Dev.placeTile_inv
    | with_reducible apply Dev.slotCommit_inv
    | with_reducible apply hf
    | simp only [↓Dev.inv_mk]
    | (split <;> (try dsimp only))
    | intro _

theorem Dev.load_inv {N G : Nat} (d : Dev) (q : LoadReq) (h_d : d.InvAt N G none) : (Dev.load d q).2.InvAt N G none := by
  unfold Dev.load
  try dsimp only
  repeat' first
    | with_reducible assumption
    | with_reducible apply Dev.st_inv
    | with_reducible apply Dev.place_inv
    | simp only [↓Dev.inv_mk]
    | (split <;> (try dsimp only))
    | intro _

theorem Dev.loadsShow_inv {N G : Nat} {M : Option (List Host.Cell)} (d : Dev) (h_d : d.InvAt N G M) : (Dev.loadsShow d).InvAt N G M := by
  unfold Dev.loadsShow
  try dsimp only
  repeat' first
    | with_reducible assumption
    | with_reducible apply Dev.wr_inv
    | simp only [↓Dev.inv_mk]
    | (split <;> (try dsimp only))
    | intro _

end Sys2Proof.Machine
end

