-- ==== Sys2Proof/Laws/InvOroOps.lean ====
section
/-! SUPPORT. Every operation of Machine/OroOps.lean keeps the invariant. -/

namespace Sys2Proof.Machine

theorem Dev.roleSet_inv {N G : Nat} {M : Option (List Host.Cell)} (d : Dev) (r : Nat) (n : Option Nat) (h_d : d.InvAt N G M) : (Dev.roleSet d r n).InvAt N G M := by
  unfold Dev.roleSet
  try dsimp only
  repeat' first
    | with_reducible assumption
    | with_reducible apply Dev.wr_inv
    | simp only [↓Dev.inv_mk]
    | (split <;> (try dsimp only))
    | intro _

theorem Dev.oroState_inv {N G : Nat} (d : Dev) (h_d : d.InvAt N G none) : (Dev.oroState d).InvAt N G none := by
  unfold Dev.oroState
  try dsimp only
  repeat' first
    | with_reducible assumption
    | with_reducible apply Dev.st_inv
    | with_reducible apply Dev.fallback_inv
    | with_reducible apply Dev.wr_inv
    | simp only [↓Dev.inv_mk]
    | (split <;> (try dsimp only))
    | intro _

theorem Dev.oroEn_inv {N G : Nat} (d : Dev) (on : Bool) (h_d : d.InvAt N G none) : (Dev.oroEn d on).InvAt N G none := by
  unfold Dev.oroEn
  try dsimp only
  repeat' first
    | with_reducible assumption
    | with_reducible apply Dev.wr_inv
    | with_reducible apply Dev.fallback_inv
    | with_reducible apply Dev.oroState_inv
    | with_reducible apply Dev.propose_inv
    | simp only [↓Dev.inv_mk]
    | (split <;> (try dsimp only))
    | intro _

theorem Dev.roleRetire_inv {N G : Nat} (d : Dev) (r : Nat) (h_d : d.InvAt N G none) : (Dev.roleRetire d r).InvAt N G none := by
  unfold Dev.roleRetire
  try dsimp only
  repeat' first
    | with_reducible assumption
    | with_reducible apply Dev.roleSet_inv
    | with_reducible apply Dev.slotRetire_inv
    | simp only [↓Dev.inv_mk]
    | (split <;> (try dsimp only))
    | intro _

theorem Dev.windowRestart_inv {N G : Nat} {M : Option (List Host.Cell)} (d : Dev) (h_d : d.InvAt N G M) : (Dev.windowRestart d).InvAt N G M := by
  unfold Dev.windowRestart
  try dsimp only
  repeat' first
    | with_reducible assumption
    | simp only [↓Dev.inv_mk]
    | (split <;> (try dsimp only))
    | intro _

theorem Dev.oroEvent_inv {N G : Nat} {M : Option (List Host.Cell)} (d : Dev) (k : Nat) (h_d : d.InvAt N G M) : (Dev.oroEvent d k).InvAt N G M := by
  unfold Dev.oroEvent
  try dsimp only
  repeat' first
    | with_reducible assumption
    | with_reducible apply Dev.event_inv
    | simp only [↓Dev.inv_mk]
    | (split <;> (try dsimp only))
    | intro _

theorem Dev.policyTimer_inv {N G : Nat} {M : Option (List Host.Cell)} (d : Dev) (n : Nat) (h_d : d.InvAt N G M) : (Dev.policyTimer d n).InvAt N G M := by
  unfold Dev.policyTimer
  try dsimp only
  repeat' first
    | with_reducible assumption
    | with_reducible apply Dev.wr_inv
    | with_reducible apply Dev.wr64_inv
    | simp only [↓Dev.inv_mk]
    | (split <;> (try dsimp only))
    | intro _

theorem Dev.submit_inv {N G : Nat} {M : Option (List Host.Cell)} (d : Dev) (l : List (Nat × Nat)) (h_d : d.InvAt N G M) : (Dev.submit d l).InvAt N G M := by
  unfold Dev.submit
  try dsimp only
  repeat' first
    | with_reducible assumption
    | with_reducible apply Dev.propose_inv
    | simp only [↓Dev.inv_mk]
    | (split <;> (try dsimp only))
    | intro _

theorem Dev.policyBack_inv {N G : Nat} (d : Dev) (r : Nat) (h_d : d.InvAt N G none) : (Dev.policyBack d r).InvAt N G none := by
  unfold Dev.policyBack
  try dsimp only
  repeat' first
    | with_reducible assumption
    | with_reducible apply Dev.roleRetire_inv
    | with_reducible apply Dev.roleSet_inv
    | with_reducible apply Dev.wr_inv
    | with_reducible apply Dev.windowRestart_inv
    | with_reducible apply Dev.oroState_inv
    | with_reducible apply Dev.ffr_inv
    | with_reducible apply Dev.oroEvent_inv
    | simp only [↓Dev.inv_mk]
    | (split <;> (try dsimp only))
    | intro _

theorem Dev.fallbackEnter_inv {N G : Nat} (d : Dev) (h_d : d.InvAt N G none) : (Dev.fallbackEnter d).InvAt N G none := by
  unfold Dev.fallbackEnter
  try dsimp only
  repeat' first
    | with_reducible assumption
    | with_reducible apply Dev.roleRetire_inv
    | with_reducible apply Dev.fallback_inv
    | with_reducible apply Dev.propose_inv
    | with_reducible apply Dev.windowRestart_inv
    | with_reducible apply Dev.oroState_inv
    | with_reducible apply Dev.ffr_inv
    | with_reducible apply Dev.oroEvent_inv
    | simp only [↓Dev.inv_mk]
    | (split <;> (try dsimp only))
    | intro _

theorem Dev.policyNone_inv {N G : Nat} (d : Dev) (h_d : d.InvAt N G none) : (Dev.policyNone d).InvAt N G none := by
  unfold Dev.policyNone
  try dsimp only
  repeat' first
    | with_reducible assumption
    | with_reducible apply Dev.fallbackEnter_inv
    | with_reducible apply Dev.roleRetire_inv
    | with_reducible apply Dev.fallback_inv
    | with_reducible apply Dev.propose_inv
    | with_reducible apply Dev.windowRestart_inv
    | with_reducible apply Dev.oroState_inv
    | with_reducible apply Dev.ffr_inv
    | with_reducible apply Dev.oroEvent_inv
    | simp only [↓Dev.inv_mk]
    | (split <;> (try dsimp only))
    | intro _

theorem Dev.roleLeave_inv {N G : Nat} (d : Dev) (n : Nat) (h_d : d.InvAt N G none) : (Dev.roleLeave d n).InvAt N G none := by
  unfold Dev.roleLeave
  try dsimp only
  repeat' first
    | with_reducible assumption
    | with_reducible apply Dev.fallbackEnter_inv
    | with_reducible apply Dev.roleSet_inv
    | simp only [↓Dev.inv_mk]
    | (split <;> (try dsimp only))
    | intro _

theorem Dev.policyMark_inv {N G : Nat} {M : Option (List Host.Cell)} (d : Dev) (h_d : d.InvAt N G M) : (Dev.policyMark d).InvAt N G M := by
  unfold Dev.policyMark
  try dsimp only
  repeat' first
    | with_reducible assumption
    | with_reducible apply Dev.inc_inv
    | simp only [↓Dev.inv_mk]
    | (split <;> (try dsimp only))
    | intro _

theorem Dev.policyNext_inv {N G : Nat} (d : Dev) (h_d : d.InvAt N G none) : (Dev.policyNext d).InvAt N G none := by
  unfold Dev.policyNext
  try dsimp only
  repeat' first
    | with_reducible assumption
    | with_reducible apply Dev.policyBack_inv
    | with_reducible apply Dev.policyNone_inv
    | simp only [↓Dev.inv_mk]
    | (split <;> (try dsimp only))
    | intro _

theorem Dev.policyFail_inv {N G : Nat} (d : Dev) (h_d : d.InvAt N G none) : (Dev.policyFail d).InvAt N G none := by
  unfold Dev.policyFail
  try dsimp only
  repeat' first
    | with_reducible assumption
    | with_reducible apply Dev.policyMark_inv
    | with_reducible apply Dev.policyNext_inv
    | simp only [↓Dev.inv_mk]
    | (split <;> (try dsimp only))
    | intro _

theorem Dev.activeInvalid_inv {N G : Nat} (d : Dev) (h_d : d.InvAt N G none) : (Dev.activeInvalid d).InvAt N G none := by
  unfold Dev.activeInvalid
  try dsimp only
  repeat' first
    | with_reducible assumption
    | with_reducible apply Dev.inc_inv
    | with_reducible apply Dev.policyFail_inv
    | simp only [↓Dev.inv_mk]
    | (split <;> (try dsimp only))
    | intro _

theorem Dev.shadowViolation_inv {N G : Nat} {M : Option (List Host.Cell)} (d : Dev) (h_d : d.InvAt N G M) : (Dev.shadowViolation d).InvAt N G M := by
  unfold Dev.shadowViolation
  try dsimp only
  repeat' first
    | with_reducible assumption
    | with_reducible apply Dev.inc_inv
    | simp only [↓Dev.inv_mk]
    | (split <;> (try dsimp only))
    | intro _

theorem Dev.oroAbort_inv {N G : Nat} (d : Dev) (n : Nat) (h_d : d.InvAt N G none) : (Dev.oroAbort d n).InvAt N G none := by
  unfold Dev.oroAbort
  try dsimp only
  repeat' first
    | with_reducible assumption
    | with_reducible apply Dev.inc_inv
    | with_reducible apply Dev.policyFail_inv
    | with_reducible apply Dev.shadowViolation_inv
    | simp only [↓Dev.inv_mk]
    | (split <;> (try dsimp only))
    | intro _

theorem Dev.activeCommit_inv {N G : Nat} (d : Dev) (p : Pred) (h_d : d.InvAt N G none) : (Dev.activeCommit d p).InvAt N G none := by
  unfold Dev.activeCommit
  try dsimp only
  repeat' first
    | with_reducible assumption
    | with_reducible apply Dev.submit_inv
    | with_reducible apply Dev.activeInvalid_inv
    | simp only [↓Dev.inv_mk]
    | (split <;> (try dsimp only))
    | intro _

theorem Dev.shadowCommit_inv {N G : Nat} {M : Option (List Host.Cell)} (d : Dev) (p : Pred) (h_d : d.InvAt N G M) : (Dev.shadowCommit d p).InvAt N G M := by
  unfold Dev.shadowCommit
  try dsimp only
  repeat' first
    | with_reducible assumption
    | with_reducible apply Dev.shadowViolation_inv
    | simp only [↓Dev.inv_mk]
    | (split <;> (try dsimp only))
    | intro _

theorem Dev.trainCommit_inv {N G : Nat} {M : Option (List Host.Cell)} (d : Dev) (n : Nat) (outs : List (List Byte)) (h_d : d.InvAt N G M) : (Dev.trainCommit d n outs).InvAt N G M := by
  unfold Dev.trainCommit
  try dsimp only
  repeat' first
    | with_reducible assumption
    | simp only [↓Dev.inv_mk]
    | (split <;> (try dsimp only))
    | intro _

theorem Dev.oroCommit_inv {N G : Nat} (d : Dev) (n : Nat) (status : Nat) (flags : Nat) (outs : List (List Byte)) (h_d : d.InvAt N G none) : (Dev.oroCommit d n status flags outs).InvAt N G none := by
  unfold Dev.oroCommit
  try dsimp only
  repeat' first
    | with_reducible assumption
    | with_reducible apply Dev.activeCommit_inv
    | with_reducible apply Dev.status_inv
    | with_reducible apply Dev.shadowCommit_inv
    | with_reducible apply Dev.trainCommit_inv
    | simp only [↓Dev.inv_mk]
    | (split <;> (try dsimp only))
    | intro _

theorem Dev.loadRoles_inv {N G : Nat} (d : Dev) (q : LoadReq) (p : Pkg) (l : List Nat) (h_d : d.InvAt N G none) :
    (Dev.loadRoles d q p l).2.2.InvAt N G none := by
  induction l generalizing d with
  | nil => exact Dev.load_inv d q h_d
  | cons r l ih =>
    unfold Dev.loadRoles
    dsimp only
    repeat' first
      | with_reducible assumption
      | with_reducible apply ih
      | with_reducible apply Dev.load_inv
      | with_reducible apply Dev.roleRetire_inv
      | (split <;> (try dsimp only))

theorem Dev.roleTake_inv {N G : Nat} (d : Dev) (q : LoadReq) (n : Nat) (h_d : d.InvAt N G none) : (Dev.roleTake d q n).InvAt N G none := by
  unfold Dev.roleTake
  try dsimp only
  repeat' first
    | with_reducible assumption
    | with_reducible apply Dev.slMod_inv
    | with_reducible apply Dev.policyTimer_inv
    | with_reducible apply Dev.roleRetire_inv
    | with_reducible apply Dev.roleSet_inv
    | with_reducible apply Dev.windowRestart_inv
    | with_reducible apply Dev.fallback_inv
    | with_reducible apply Dev.oroState_inv
    | with_reducible apply Dev.wrw_inv
    | with_reducible apply Dev.wr_inv
    | simp only [↓Dev.inv_mk]
    | (split <;> (try dsimp only))
    | intro _

theorem Dev.replaced_inv {N G : Nat} (d : Dev) (o : Nat) (n : Option Nat) (h_d : d.InvAt N G none) : (Dev.replaced d o n).InvAt N G none := by
  unfold Dev.replaced
  try dsimp only
  repeat' first
    | with_reducible assumption
    | with_reducible apply Dev.fallbackEnter_inv
    | with_reducible apply Dev.roleSet_inv
    | with_reducible apply Dev.windowRestart_inv
    | with_reducible apply Dev.fallback_inv
    | with_reducible apply Dev.oroState_inv
    | with_reducible apply Dev.slMod_inv
    | with_reducible apply Dev.wr_inv
    | with_reducible apply Dev.wr64_inv
    | with_reducible apply Dev.event_inv
    | simp only [↓Dev.inv_mk]
    | (split <;> (try dsimp only))
    | intro _

theorem Dev.loadDone_inv {N G : Nat} (d : Dev) (q : LoadReq) (r : Loaded) (h_d : d.InvAt N G none) : (Dev.loadDone d q r).InvAt N G none := by
  unfold Dev.loadDone
  try dsimp only
  repeat' first
    | with_reducible assumption
    | with_reducible apply Dev.complete_inv
    | with_reducible apply Dev.st_inv
    | simp only [↓Dev.inv_mk]
    | (split <;> (try dsimp only))
    | intro _

theorem Dev.loadMissed_inv {N G : Nat} (d : Dev) (q : LoadReq) (ok : Bool) (h_d : d.InvAt N G none) : (Dev.loadMissed d q ok).InvAt N G none := by
  unfold Dev.loadMissed
  try dsimp only
  repeat' first
    | with_reducible assumption
    | with_reducible apply Dev.fallbackEnter_inv
    | with_reducible apply Dev.fallback_inv
    | with_reducible apply Dev.oroState_inv
    | simp only [↓Dev.inv_mk]
    | (split <;> (try dsimp only))
    | intro _

theorem Dev.loadEnd_inv {N G : Nat} (d : Dev) (q : LoadReq) (r : Loaded) (h_d : d.InvAt N G none) : (Dev.loadEnd d q r).InvAt N G none := by
  unfold Dev.loadEnd
  try dsimp only
  repeat' first
    | with_reducible assumption
    | with_reducible apply Dev.st_inv
    | with_reducible apply Dev.replaced_inv
    | with_reducible apply Dev.roleTake_inv
    | with_reducible apply Dev.loadMissed_inv
    | with_reducible apply Dev.loadDone_inv
    | simp only [↓Dev.inv_mk]
    | (split <;> (try dsimp only))
    | intro _

theorem Dev.loadRun_inv {N G : Nat} (d : Dev) (q : LoadReq) (h_d : d.InvAt N G none) : (Dev.loadRun d q).InvAt N G none := by
  unfold Dev.loadRun
  try dsimp only
  repeat' first
    | with_reducible assumption
    | with_reducible apply Dev.loadDone_inv
    | with_reducible apply Dev.st_inv
    | with_reducible apply Dev.loadRoles_inv
    | with_reducible apply Dev.loadsShow_inv
    | with_reducible apply Dev.loadEnd_inv
    | simp only [↓Dev.inv_mk]
    | (split <;> (try dsimp only))
    | intro _

theorem Dev.horizonEnd_inv {N G : Nat} {M : Option (List Host.Cell)} (d : Dev) (h_d : d.InvAt N G M) : (Dev.horizonEnd d).InvAt N G M := by
  unfold Dev.horizonEnd
  try dsimp only
  repeat' first
    | with_reducible assumption
    | with_reducible apply List.foldl_inv
    | with_reducible apply List.foldl_inv2
    | simp only [↓Dev.inv_mk]
    | (split <;> (try dsimp only))
    | intro _

theorem Dev.horizonAdd_inv {N G : Nat} {M : Option (List Host.Cell)} (d : Dev) (k : Nat) (rec : List Byte) (h_d : d.InvAt N G M) : (Dev.horizonAdd d k rec).InvAt N G M := by
  unfold Dev.horizonAdd
  try dsimp only
  repeat' first
    | with_reducible assumption
    | with_reducible apply List.foldl_inv
    | with_reducible apply List.foldl_inv2
    | with_reducible apply Dev.horizonEnd_inv
    | simp only [↓Dev.inv_mk]
    | (split <;> (try dsimp only))
    | intro _

end Sys2Proof.Machine
end

