-- ==== Sys2Proof/Laws/InvTileExec.lean ====
section
/-! SUPPORT. Every operation of Machine/TileExec.lean keeps the invariant. -/

namespace Sys2Proof.Machine

theorem Dev.invAbort_inv {N G : Nat} (d : Dev) (n : Nat) (t : Nat) (kind : Nat) (h_d : d.InvAt N G none) : (Dev.invAbort d n t kind).InvAt N G none := by
  unfold Dev.invAbort
  try dsimp only
  repeat' first
    | with_reducible assumption
    | with_reducible apply Dev.wr_inv
    | with_reducible apply Dev.tilesStop_inv
    | with_reducible apply Dev.ffr_inv
    | with_reducible apply Dev.oroAbort_inv
    | with_reducible apply Dev.invEnd_inv
    | simp only [↓Dev.inv_mk]
    | (split <;> (try dsimp only))
    | intro _

theorem Dev.pcNext_inv {N G : Nat} {M : Option (List Host.Cell)} (d : Dev) (t : Nat) (h_d : d.InvAt N G M) : (Dev.pcNext d t).InvAt N G M := by
  unfold Dev.pcNext
  try dsimp only
  repeat' first
    | with_reducible assumption
    | with_reducible apply Dev.tlMod_inv
    | simp only [↓Dev.inv_mk]
    | (split <;> (try dsimp only))
    | intro _

theorem Dev.tileAbort_inv {N G : Nat} (d : Dev) (t : Nat) (kind : Nat) (h_d : d.InvAt N G none) : (Dev.tileAbort d t kind).InvAt N G none := by
  unfold Dev.tileAbort
  try dsimp only
  repeat' first
    | with_reducible assumption
    | with_reducible apply Dev.invAbort_inv
    | simp only [↓Dev.inv_mk]
    | (split <;> (try dsimp only))
    | intro _

theorem Dev.issueAt_inv {N G : Nat} (d : Dev) (o : TileOp) (ok : Bool) (f : Dev → Dev) (h_d : d.InvAt N G none) (h_f : ∀ y0, y0.InvAt N G none → (f y0).InvAt N G none) : (Dev.issueAt d o ok f).InvAt N G none := by
  unfold Dev.issueAt
  try dsimp only
  repeat' first
    | with_reducible assumption
    | with_reducible apply Dev.tileAbort_inv
    | with_reducible apply h_f
    | simp only [↓Dev.inv_mk]
    | (split <;> (try dsimp only))
    | intro _

theorem issue_keeps {N G : Nat} (o : TileOp) (ok : Bool) (f : Dev → Dev) (s : State) (h_s : s.dev.InvAt N G none)
    (h_f : ∀ d, d.InvAt N G none → (f d).InvAt N G none) : Res.Keeps N G none s.pending (issue o ok f s) :=
  State.run_keeps s _ (Dev.issueAt_inv _ _ _ _ h_s fun d h => Dev.pcNext_inv _ _ (h_f d h))

theorem execNop_keeps {N G : Nat} (o : TileOp) (s : State) (h_s : s.dev.InvAt N G none) : Res.Keeps N G none s.pending (execNop o s) := by
  unfold execNop
  apply issue_keeps
  try dsimp only
  repeat' first
    | with_reducible assumption
    | with_reducible apply hf
    | simp only [↓Dev.inv_mk]
    | (split <;> (try dsimp only))
    | intro _

theorem execWait_keeps {N G : Nat} (o : TileOp) (s : State) (h_s : s.dev.InvAt N G none) : Res.Keeps N G none s.pending (execWait o s) := by
  unfold execWait
  apply issue_keeps
  try dsimp only
  repeat' first
    | with_reducible assumption
    | with_reducible apply hf
    | simp only [↓Dev.inv_mk]
    | (split <;> (try dsimp only))
    | intro _

theorem execYield_keeps {N G : Nat} (o : TileOp) (s : State) (h_s : s.dev.InvAt N G none) : Res.Keeps N G none s.pending (execYield o s) := by
  unfold execYield
  apply issue_keeps
  try dsimp only
  repeat' first
    | with_reducible assumption
    | with_reducible apply hf
    | simp only [↓Dev.inv_mk]
    | (split <;> (try dsimp only))
    | intro _

theorem execBranch_keeps {N G : Nat} (o : TileOp) (taken : Bool) (target : Word) (s : State) (h_s : s.dev.InvAt N G none) : Res.Keeps N G none s.pending (execBranch o taken target s) := by
  apply State.run_keeps
  try dsimp only
  repeat' first
    | with_reducible assumption
    | with_reducible apply Dev.issueAt_inv
    | with_reducible apply Dev.tlMod_inv
    | with_reducible apply Dev.pcNext_inv
    | with_reducible apply hf
    | simp only [↓Dev.inv_mk]
    | (split <;> (try dsimp only))
    | intro _

theorem execLoop_keeps {N G : Nat} (o : TileOp) (again : Bool) (target : Word) (s : State) (h_s : s.dev.InvAt N G none) : Res.Keeps N G none s.pending (execLoop o again target s) := by
  apply State.run_keeps
  try dsimp only
  repeat' first
    | with_reducible assumption
    | with_reducible apply Dev.issueAt_inv
    | with_reducible apply Dev.tlMod_inv
    | with_reducible apply Dev.pcNext_inv
    | with_reducible apply hf
    | simp only [↓Dev.inv_mk]
    | (split <;> (try dsimp only))
    | intro _

theorem execSetshape_keeps {N G : Nat} (o : TileOp) (m : Fin 32) (n : Fin 32) (k : Fin 65536) (s : State) (h_s : s.dev.InvAt N G none) : Res.Keeps N G none s.pending (execSetshape o m n k s) := by
  unfold execSetshape
  apply issue_keeps
  try dsimp only
  repeat' first
    | with_reducible assumption
    | with_reducible apply Dev.tlMod_inv
    | with_reducible apply hf
    | simp only [↓Dev.inv_mk]
    | (split <;> (try dsimp only))
    | intro _

theorem execEndProgram_keeps {N G : Nat} (o : TileOp) (s : State) (h_s : s.dev.InvAt N G none) : Res.Keeps N G none s.pending (execEndProgram o s) := by
  apply State.run_keeps
  try dsimp only
  repeat' first
    | with_reducible assumption
    | with_reducible apply Dev.issueAt_inv
    | with_reducible apply Dev.tlMod_inv
    | with_reducible apply hf
    | simp only [↓Dev.inv_mk]
    | (split <;> (try dsimp only))
    | intro _

theorem execReservedOpc_keeps {N G : Nat} (o : TileOp) (_opc : Byte) (s : State) (h_s : s.dev.InvAt N G none) : Res.Keeps N G none s.pending (execReservedOpc o _opc s) := by
  unfold execReservedOpc
  apply issue_keeps
  try dsimp only
  repeat' first
    | with_reducible assumption
    | with_reducible apply hf
    | simp only [↓Dev.inv_mk]
    | (split <;> (try dsimp only))
    | intro _

theorem Dev.mma_inv {N G : Nat} {M : Option (List Host.Cell)} (d : Dev) (o : TileOp) (bank : Nat) (cls : Nat) (h_d : d.InvAt N G M) : (Dev.mma d o bank cls).InvAt N G M := by
  unfold Dev.mma
  try dsimp only
  repeat' first
    | with_reducible assumption
    | with_reducible apply List.foldl_inv
    | with_reducible apply List.foldl_inv2
    | with_reducible apply Dev.tlPut_inv
    | with_reducible apply Dev.tFlags_inv
    | with_reducible apply Dev.tPoison_inv
    | simp only [↓Dev.inv_mk]
    | (split <;> (try dsimp only))
    | intro _

theorem execMma_keeps {N G : Nat} (o : TileOp) (bank : Fin 4) (s : State) (h_s : s.dev.InvAt N G none) : Res.Keeps N G none s.pending (execMma o bank s) := by
  unfold execMma
  apply issue_keeps
  try dsimp only
  repeat' first
    | with_reducible assumption
    | with_reducible apply Dev.mma_inv
    | with_reducible apply hf
    | simp only [↓Dev.inv_mk]
    | (split <;> (try dsimp only))
    | intro _

theorem execStacc_keeps {N G : Nat} (o : TileOp) (bank : Fin 4) (s : State) (h_s : s.dev.InvAt N G none) : Res.Keeps N G none s.pending (execStacc o bank s) := by
  unfold execStacc
  apply issue_keeps
  try dsimp only
  repeat' first
    | with_reducible assumption
    | with_reducible apply Dev.tStore_inv
    | with_reducible apply hf
    | simp only [↓Dev.inv_mk]
    | (split <;> (try dsimp only))
    | intro _

theorem execClracc_keeps {N G : Nat} (o : TileOp) (bank : Fin 4) (s : State) (h_s : s.dev.InvAt N G none) : Res.Keeps N G none s.pending (execClracc o bank s) := by
  unfold execClracc
  apply issue_keeps
  try dsimp only
  repeat' first
    | with_reducible assumption
    | with_reducible apply Dev.tlMod_inv
    | with_reducible apply hf
    | simp only [↓Dev.inv_mk]
    | (split <;> (try dsimp only))
    | intro _

theorem Dev.vecStore_inv {N G : Nat} (d : Dev) (o : TileOp) (n : Nat) (r : Nat → SVal × Flags) (p : Nat → Bool) (h_d : d.InvAt N G none) : (Dev.vecStore d o n r p).InvAt N G none := by
  unfold Dev.vecStore
  try dsimp only
  repeat' first
    | with_reducible assumption
    | with_reducible apply List.foldl_inv
    | with_reducible apply List.foldl_inv2
    | with_reducible apply Dev.tFlags_inv
    | with_reducible apply Dev.tStore_inv
    | simp only [↓Dev.inv_mk]
    | (split <;> (try dsimp only))
    | intro _

theorem execVectorArithmetic_keeps {N G : Nat} (o : TileOp) (op : VecOp) (n : Fin 65536) (s : State) (h_s : s.dev.InvAt N G none) : Res.Keeps N G none s.pending (execVectorArithmetic o op n s) := by
  unfold execVectorArithmetic
  apply issue_keeps
  try dsimp only
  repeat' first
    | with_reducible assumption
    | with_reducible apply Dev.vecStore_inv
    | with_reducible apply hf
    | simp only [↓Dev.inv_mk]
    | (split <;> (try dsimp only))
    | intro _

theorem execVectorDivSqrt_keeps {N G : Nat} (o : TileOp) (sqrt : Bool) (n : Fin 65536) (s : State) (h_s : s.dev.InvAt N G none) : Res.Keeps N G none s.pending (execVectorDivSqrt o sqrt n s) := by
  unfold execVectorDivSqrt
  apply issue_keeps
  try dsimp only
  repeat' first
    | with_reducible assumption
    | with_reducible apply Dev.vecStore_inv
    | with_reducible apply hf
    | simp only [↓Dev.inv_mk]
    | (split <;> (try dsimp only))
    | intro _

theorem execVectorTranscendental_keeps {N G : Nat} (o : TileOp) (op : TransOp) (n : Fin 65536) (s : State) (h_s : s.dev.InvAt N G none) : Res.Keeps N G none s.pending (execVectorTranscendental o op n s) := by
  unfold execVectorTranscendental
  apply issue_keeps
  try dsimp only
  repeat' first
    | with_reducible assumption
    | with_reducible apply Dev.vecStore_inv
    | with_reducible apply hf
    | simp only [↓Dev.inv_mk]
    | (split <;> (try dsimp only))
    | intro _

theorem execVectorInteger_keeps {N G : Nat} (o : TileOp) (op : IntOp) (n : Fin 65536) (s : State) (h_s : s.dev.InvAt N G none) : Res.Keeps N G none s.pending (execVectorInteger o op n s) := by
  unfold execVectorInteger
  apply issue_keeps
  try dsimp only
  repeat' first
    | with_reducible assumption
    | with_reducible apply Dev.vecStore_inv
    | with_reducible apply hf
    | simp only [↓Dev.inv_mk]
    | (split <;> (try dsimp only))
    | intro _

theorem execVectorConvert_keeps {N G : Nat} (o : TileOp) (n : Fin 65536) (s : State) (h_s : s.dev.InvAt N G none) : Res.Keeps N G none s.pending (execVectorConvert o n s) := by
  unfold execVectorConvert
  apply issue_keeps
  try dsimp only
  repeat' first
    | with_reducible assumption
    | with_reducible apply Dev.vecStore_inv
    | with_reducible apply hf
    | simp only [↓Dev.inv_mk]
    | (split <;> (try dsimp only))
    | intro _

theorem execReduce_keeps {N G : Nat} (o : TileOp) (op : RedOp) (n : Fin 65536) (s : State) (h_s : s.dev.InvAt N G none) : Res.Keeps N G none s.pending (execReduce o op n s) := by
  unfold execReduce
  apply issue_keeps
  try dsimp only
  repeat' first
    | with_reducible assumption
    | with_reducible apply Dev.vecStore_inv
    | with_reducible apply hf
    | simp only [↓Dev.inv_mk]
    | (split <;> (try dsimp only))
    | intro _

theorem execGather_keeps {N G : Nat} (o : TileOp) (n : Fin 65536) (s : State) (h_s : s.dev.InvAt N G none) : Res.Keeps N G none s.pending (execGather o n s) := by
  unfold execGather
  apply issue_keeps
  try dsimp only
  repeat' first
    | with_reducible assumption
    | with_reducible apply Dev.vecStore_inv
    | with_reducible apply hf
    | simp only [↓Dev.inv_mk]
    | (split <;> (try dsimp only))
    | intro _

theorem Dev.tPutElem_inv {N G : Nat} (d : Dev) (t : Nat) (o : Opnd) (i : Int) (c : Nat) (p : Bool) (h_d : d.InvAt N G none) : (Dev.tPutElem d t o i c p).InvAt N G none := by
  unfold Dev.tPutElem
  try dsimp only
  repeat' first
    | with_reducible assumption
    | with_reducible apply Dev.tPut_inv
    | with_reducible apply Dev.setPoison_inv
    | simp only [↓Dev.inv_mk]
    | (split <;> (try dsimp only))
    | intro _

theorem execScatter_keeps {N G : Nat} (o : TileOp) (n : Fin 65536) (s : State) (h_s : s.dev.InvAt N G none) : Res.Keeps N G none s.pending (execScatter o n s) := by
  unfold execScatter
  apply issue_keeps
  try dsimp only
  repeat' first
    | with_reducible assumption
    | with_reducible apply List.foldl_inv
    | with_reducible apply List.foldl_inv2
    | with_reducible apply Dev.tlPut_inv
    | with_reducible apply Dev.tFlags_inv
    | with_reducible apply Dev.tPutElem_inv
    | with_reducible apply Dev.tPoison_inv
    | with_reducible apply hf
    | simp only [↓Dev.inv_mk]
    | (split <;> (try dsimp only))
    | intro _

theorem execTreebatch_keeps {N G : Nat} (o : TileOp) (v : BitVec 16) (nf : Fin 1025) (s : State) (h_s : s.dev.InvAt N G none) : Res.Keeps N G none s.pending (execTreebatch o v nf s) := by
  unfold execTreebatch
  apply issue_keeps
  try dsimp only
  repeat' first
    | with_reducible assumption
    | with_reducible apply Dev.vecStore_inv
    | with_reducible apply hf
    | simp only [↓Dev.inv_mk]
    | (split <;> (try dsimp only))
    | intro _

theorem execTreecfg_keeps {N G : Nat} (o : TileOp) (cfg : TreeCfg) (s : State) (h_s : s.dev.InvAt N G none) : Res.Keeps N G none s.pending (execTreecfg o cfg s) := by
  unfold execTreecfg
  apply issue_keeps
  try dsimp only
  repeat' first
    | with_reducible assumption
    | with_reducible apply Dev.tlMod_inv
    | with_reducible apply hf
    | simp only [↓Dev.inv_mk]
    | (split <;> (try dsimp only))
    | intro _

theorem Dev.dmaMove_inv {N G : Nat} (d : Dev) (t : Nat) (n : Nat) (da : Nat) (sa : Nat) (len : Nat) (h_d : d.InvAt N G none) : (Dev.dmaMove d t n da sa len).InvAt N G none := by
  unfold Dev.dmaMove
  try dsimp only
  repeat' first
    | with_reducible assumption
    | with_reducible apply Dev.copyBytes_inv
    | with_reducible apply Dev.tPoison_inv
    | simp only [↓Dev.inv_mk]
    | (split <;> (try dsimp only))
    | intro _

theorem Dev.dmaRows_inv {N G : Nat} (d : Dev) (o : TileOp) (da : Nat) (sa : Nat) (len : Nat) (rows : Nat) (dstr : Nat) (sstr : Nat) (h_d : d.InvAt N G none) : (Dev.dmaRows d o da sa len rows dstr sstr).InvAt N G none := by
  unfold Dev.dmaRows
  try dsimp only
  repeat' first
    | with_reducible assumption
    | with_reducible apply List.foldl_inv
    | with_reducible apply List.foldl_inv2
    | with_reducible apply Dev.dmaMove_inv
    | with_reducible apply Dev.pcNext_inv
    | with_reducible apply Dev.tileAbort_inv
    | with_reducible apply hf
    | simp only [↓Dev.inv_mk]
    | (split <;> (try dsimp only))
    | intro _

theorem execCopy_keeps {N G : Nat} (o : TileOp) (da : BitVec 35) (sa : BitVec 35) (len : Word) (s : State) (h_s : s.dev.InvAt N G none) : Res.Keeps N G none s.pending (execCopy o da sa len s) := by
  apply State.run_keeps
  try dsimp only
  repeat' first
    | with_reducible assumption
    | with_reducible apply Dev.issueAt_inv
    | with_reducible apply Dev.dmaRows_inv
    | with_reducible apply hf
    | simp only [↓Dev.inv_mk]
    | (split <;> (try dsimp only))
    | intro _

theorem execCopy2d_keeps {N G : Nat} (o : TileOp) (da : BitVec 35) (sa : BitVec 35) (len : Word) (rows : BitVec 16) (dstr : Word) (sstr : Word) (s : State) (h_s : s.dev.InvAt N G none) : Res.Keeps N G none s.pending (execCopy2d o da sa len rows dstr sstr s) := by
  apply State.run_keeps
  try dsimp only
  repeat' first
    | with_reducible assumption
    | with_reducible apply Dev.issueAt_inv
    | with_reducible apply Dev.dmaRows_inv
    | with_reducible apply hf
    | simp only [↓Dev.inv_mk]
    | (split <;> (try dsimp only))
    | intro _

theorem execSignal_keeps {N G : Nat} (o : TileOp) (l : Fin 64) (s : State) (h_s : s.dev.InvAt N G none) : Res.Keeps N G none s.pending (execSignal o l s) := by
  apply State.run_keeps
  try dsimp only
  repeat' first
    | with_reducible assumption
    | with_reducible apply Dev.issueAt_inv
    | with_reducible apply Dev.tlMod_inv
    | with_reducible apply Dev.pcNext_inv
    | with_reducible apply Dev.tileAbort_inv
    | with_reducible apply hf
    | simp only [↓Dev.inv_mk]
    | (split <;> (try dsimp only))
    | intro _

theorem execWaitsig_keeps {N G : Nat} (o : TileOp) (s : State) (h_s : s.dev.InvAt N G none) : Res.Keeps N G none s.pending (execWaitsig o s) := by
  apply State.run_keeps
  try dsimp only
  repeat' first
    | with_reducible assumption
    | with_reducible apply Dev.issueAt_inv
    | with_reducible apply Dev.tlMod_inv
    | with_reducible apply Dev.pcNext_inv
    | with_reducible apply hf
    | simp only [↓Dev.inv_mk]
    | (split <;> (try dsimp only))
    | intro _

end Sys2Proof.Machine
end

