-- ==== Sys2Proof/Laws/InvSlots.lean ====
section
/-! SUPPORT. Every operation of Machine/Slots.lean keeps the invariant. -/

namespace Sys2Proof.Machine

theorem execTileApertureWrite_keeps {N G : Nat} (t : Fin 72) (off : BitVec 15) (w : Width) (v : DWord) (s : State) (h_s : s.dev.InvAt N G none) : Res.Keeps N G none s.pending (execTileApertureWrite t off w v s) := by
  apply State.run_keeps
  try dsimp only
  repeat' first
    | with_reducible assumption
    | with_reducible apply Dev.wr_inv
    | with_reducible apply Dev.stn_inv
    | with_reducible apply hf
    | simp only [↓Dev.inv_mk]
    | (split <;> (try dsimp only))
    | intro _

theorem execTileApertureRead_keeps {N G : Nat} {M : Option (List Host.Cell)} (t : Fin 72) (off : BitVec 15) (w : Width) (s : State) (h_s : s.dev.InvAt N G M) : Res.Keeps N G M s.pending (execTileApertureRead t off w s) := by
  apply State.run_keeps
  try dsimp only
  repeat' first
    | with_reducible assumption
    | with_reducible apply Dev.emit_inv
    | with_reducible apply Dev.wr_inv
    | with_reducible apply hf
    | simp only [↓Dev.inv_mk]
    | (split <;> (try dsimp only))
    | intro _

theorem execTileSrSeedWrite_keeps {N G : Nat} {M : Option (List Host.Cell)} (t : Fin 72) (seed : Word) (s : State) (h_s : s.dev.InvAt N G M) : Res.Keeps N G M s.pending (execTileSrSeedWrite t seed s) := by
  apply State.run_keeps
  try dsimp only
  repeat' first
    | with_reducible assumption
    | with_reducible apply Dev.reseed_inv
    | with_reducible apply hf
    | simp only [↓Dev.inv_mk]
    | (split <;> (try dsimp only))
    | intro _

theorem Dev.loadNext_inv {N G : Nat} (d : Dev) (h_d : d.InvAt N G none) : (Dev.loadNext d).InvAt N G none := by
  unfold Dev.loadNext
  try dsimp only
  repeat' first
    | with_reducible assumption
    | with_reducible apply Dev.loadsShow_inv
    | with_reducible apply Dev.loadRun_inv
    | simp only [↓Dev.inv_mk]
    | (split <;> (try dsimp only))
    | intro _

theorem execLoaderLoad_keeps {N G : Nat} (s : State) (h_s : s.dev.InvAt N G none) : Res.Keeps N G none s.pending (execLoaderLoad s) := by
  apply State.run_keeps
  try dsimp only
  repeat' first
    | with_reducible assumption
    | with_reducible apply Dev.loadNext_inv
    | with_reducible apply hf
    | simp only [↓Dev.inv_mk]
    | (split <;> (try dsimp only))
    | intro _

theorem execSlotCommit_keeps {N G : Nat} (n : Fin 32) (s : State) (h_s : s.dev.InvAt N G none) : Res.Keeps N G none s.pending (execSlotCommit n s) := by
  apply State.run_keeps
  try dsimp only
  repeat' first
    | with_reducible assumption
    | with_reducible apply Dev.slotCommit_inv
    | with_reducible apply hf
    | simp only [↓Dev.inv_mk]
    | (split <;> (try dsimp only))
    | intro _

theorem execSlotCtrlRetire_keeps {N G : Nat} (n : Fin 32) (s : State) (h_s : s.dev.InvAt N G none) : Res.Keeps N G none s.pending (execSlotCtrlRetire n s) := by
  apply State.run_keeps
  try dsimp only
  repeat' first
    | with_reducible assumption
    | with_reducible apply Dev.roleLeave_inv
    | with_reducible apply Dev.slotRetire_inv
    | with_reducible apply hf
    | simp only [↓Dev.inv_mk]
    | (split <;> (try dsimp only))
    | intro _

theorem execSlotInvoke_keeps {N G : Nat} {M : Option (List Host.Cell)} (n : Fin 32) (s : State) (h_s : s.dev.InvAt N G M) : Res.Keeps N G M s.pending (execSlotInvoke n s) := by
  apply State.run_keeps
  try dsimp only
  repeat' first
    | with_reducible assumption
    | with_reducible apply Dev.trigger_inv
    | with_reducible apply hf
    | simp only [↓Dev.inv_mk]
    | (split <;> (try dsimp only))
    | intro _

theorem Dev.timerTick_inv {N G : Nat} {M : Option (List Host.Cell)} (d : Dev) (n : Nat) (h_d : d.InvAt N G M) : (Dev.timerTick d n).InvAt N G M := by
  unfold Dev.timerTick
  try dsimp only
  repeat' first
    | with_reducible assumption
    | with_reducible apply Dev.tick_inv
    | with_reducible apply Dev.slMod_inv
    | with_reducible apply Dev.invStart_inv
    | with_reducible apply Dev.inc_inv
    | simp only [↓Dev.inv_mk]
    | (split <;> (try dsimp only))
    | intro _

theorem execSlotTimerTick_keeps {N G : Nat} {M : Option (List Host.Cell)} (n : Fin 32) (s : State) (h_s : s.dev.InvAt N G M) : Res.Keeps N G M s.pending (execSlotTimerTick n s) := by
  apply State.run_keeps
  try dsimp only
  repeat' first
    | with_reducible assumption
    | with_reducible apply Dev.timerTick_inv
    | with_reducible apply hf
    | simp only [↓Dev.inv_mk]
    | (split <;> (try dsimp only))
    | intro _

theorem Dev.commitOut_inv {N G : Nat} (d : Dev) (n : Nat) (seq : Nat) (status : Nat) (flags : Nat) (e : IoEnt) (data : List Byte) (h_d : d.InvAt N G none) : (Dev.commitOut d n seq status flags e data).InvAt N G none := by
  unfold Dev.commitOut
  try dsimp only
  repeat' first
    | with_reducible assumption
    | with_reducible apply Dev.stn_inv
    | with_reducible apply Dev.status_inv
    | simp only [↓Dev.inv_mk]
    | (split <;> (try dsimp only))
    | intro _

theorem Dev.checkpoint_inv {N G : Nat} (d : Dev) (n : Nat) (h_d : d.InvAt N G none) : (Dev.checkpoint d n).InvAt N G none := by
  unfold Dev.checkpoint
  try dsimp only
  repeat' first
    | with_reducible assumption
    | with_reducible apply List.foldl_inv
    | with_reducible apply List.foldl_inv2
    | with_reducible apply Dev.copyBytes_inv
    | with_reducible apply Dev.st_inv
    | with_reducible apply hf
    | simp only [↓Dev.inv_mk]
    | (split <;> (try dsimp only))
    | intro _

theorem Dev.invCommit_inv {N G : Nat} (d : Dev) (n : Nat) (outs : List (List Byte)) (h_d : d.InvAt N G none) : (Dev.invCommit d n outs).InvAt N G none := by
  unfold Dev.invCommit
  try dsimp only
  repeat' first
    | with_reducible assumption
    | with_reducible apply List.foldl_inv
    | with_reducible apply List.foldl_inv2
    | with_reducible apply Dev.status_inv
    | with_reducible apply Dev.commitOut_inv
    | with_reducible apply Dev.slMod_inv
    | with_reducible apply Dev.wr_inv
    | with_reducible apply Dev.checkpoint_inv
    | with_reducible apply Dev.inc_inv
    | with_reducible apply Dev.tilesStop_inv
    | with_reducible apply Dev.oroCommit_inv
    | with_reducible apply Dev.invEnd_inv
    | with_reducible apply hf
    | simp only [↓Dev.inv_mk]
    | (split <;> (try dsimp only))
    | intro _

theorem execInvocationCommit_keeps {N G : Nat} (n : Fin 32) (outs : List (List Byte)) (s : State) (h_s : s.dev.InvAt N G none) : Res.Keeps N G none s.pending (execInvocationCommit n outs s) := by
  apply State.run_keeps
  try dsimp only
  repeat' first
    | with_reducible assumption
    | with_reducible apply Dev.invCommit_inv
    | with_reducible apply hf
    | simp only [↓Dev.inv_mk]
    | (split <;> (try dsimp only))
    | intro _

theorem execInvocationWatchdog_keeps {N G : Nat} (n : Fin 32) (s : State) (h_s : s.dev.InvAt N G none) : Res.Keeps N G none s.pending (execInvocationWatchdog n s) := by
  apply State.run_keeps
  try dsimp only
  repeat' first
    | with_reducible assumption
    | with_reducible apply List.foldl_inv
    | with_reducible apply List.foldl_inv2
    | with_reducible apply Dev.wr_inv
    | with_reducible apply Dev.invAbort_inv
    | with_reducible apply hf
    | simp only [↓Dev.inv_mk]
    | (split <;> (try dsimp only))
    | intro _

theorem Dev.tilesLost_inv {N G : Nat} {M : Option (List Host.Cell)} (d : Dev) (k : Nat) (h_d : d.InvAt N G M) : (Dev.tilesLost d k).InvAt N G M := by
  unfold Dev.tilesLost
  try dsimp only
  repeat' first
    | with_reducible assumption
    | with_reducible apply Dev.wr_inv
    | simp only [↓Dev.inv_mk]
    | (split <;> (try dsimp only))
    | intro _

theorem Dev.reserveFail_inv {N G : Nat} {M : Option (List Host.Cell)} (d : Dev) (c : Nat) (h_d : d.InvAt N G M) : (Dev.reserveFail d c).InvAt N G M := by
  unfold Dev.reserveFail
  try dsimp only
  repeat' first
    | with_reducible assumption
    | with_reducible apply Dev.wrBit_inv
    | with_reducible apply Dev.wrw_inv
    | with_reducible apply Dev.wr_inv
    | with_reducible apply Dev.ffr_inv
    | simp only [↓Dev.inv_mk]
    | (split <;> (try dsimp only))
    | intro _

theorem Dev.tileDead_inv {N G : Nat} (d : Dev) (t : Nat) (h_d : d.InvAt N G none) : (Dev.tileDead d t).InvAt N G none := by
  unfold Dev.tileDead
  try dsimp only
  repeat' first
    | with_reducible assumption
    | with_reducible apply Dev.tileLeave_inv
    | simp only [↓Dev.inv_mk]
    | (split <;> (try dsimp only))
    | intro _

theorem Dev.noReserve_inv {N G : Nat} {M : Option (List Host.Cell)} (d : Dev) (c : Nat) (h_d : d.InvAt N G M) : (Dev.noReserve d c).InvAt N G M := by
  unfold Dev.noReserve
  try dsimp only
  repeat' first
    | with_reducible assumption
    | with_reducible apply List.foldl_inv
    | with_reducible apply List.foldl_inv2
    | with_reducible apply Dev.wr_inv
    | with_reducible apply hf
    | simp only [↓Dev.inv_mk]
    | (split <;> (try dsimp only))
    | intro _

theorem Dev.restore_inv {N G : Nat} (d : Dev) (n : Nat) (h_d : d.InvAt N G none) : (Dev.restore d n).InvAt N G none := by
  unfold Dev.restore
  try dsimp only
  repeat' first
    | with_reducible assumption
    | with_reducible apply List.foldl_inv
    | with_reducible apply List.foldl_inv2
    | with_reducible apply Dev.copyBytes_inv
    | with_reducible apply Dev.st_inv
    | with_reducible apply hf
    | simp only [↓Dev.inv_mk]
    | (split <;> (try dsimp only))
    | intro _

theorem Dev.slotResume_inv {N G : Nat} (d : Dev) (n : Nat) (again : Bool) (h_d : d.InvAt N G none) : (Dev.slotResume d n again).InvAt N G none := by
  unfold Dev.slotResume
  try dsimp only
  repeat' first
    | with_reducible assumption
    | with_reducible apply Dev.wr_inv
    | with_reducible apply Dev.restore_inv
    | with_reducible apply Dev.slMod_inv
    | with_reducible apply Dev.invStart_inv
    | with_reducible apply Dev.slMod_inv
    | simp only [↓Dev.inv_mk]
    | (split <;> (try dsimp only))
    | intro _

theorem Dev.reserveTake_inv {N G : Nat} (d : Dev) (c : Nat) (t : Nat) (h_d : d.InvAt N G none) : (Dev.reserveTake d c t).InvAt N G none := by
  unfold Dev.reserveTake
  try dsimp only
  repeat' first
    | with_reducible assumption
    | with_reducible apply Dev.wrBit_inv
    | with_reducible apply Dev.tileClear_inv
    | with_reducible apply Dev.tileDead_inv
    | with_reducible apply Dev.wrw_inv
    | with_reducible apply Dev.st_inv
    | with_reducible apply Dev.copyBytes_inv
    | with_reducible apply Dev.wr_inv
    | with_reducible apply Dev.slMod_inv
    | with_reducible apply Dev.reseed_inv
    | with_reducible apply Dev.inc_inv
    | with_reducible apply Dev.noReserve_inv
    | with_reducible apply Dev.trainRetry_inv
    | simp only [↓Dev.inv_mk]
    | (split <;> (try dsimp only))
    | intro _

theorem Dev.tileFail_inv {N G : Nat} (d : Dev) (t : Nat) (pass : Bool) (h_d : d.InvAt N G none) : (Dev.tileFail d t pass).InvAt N G none := by
  unfold Dev.tileFail
  try dsimp only
  repeat' first
    | with_reducible assumption
    | with_reducible apply Dev.tilesStop_inv
    | with_reducible apply Dev.wr_inv
    | with_reducible apply Dev.reserveFail_inv
    | with_reducible apply Dev.reserveTake_inv
    | with_reducible apply Dev.slotFree_inv
    | with_reducible apply Dev.slotResume_inv
    | with_reducible apply Dev.slMod_inv
    | with_reducible apply Dev.tileDead_inv
    | with_reducible apply Dev.tilesLost_inv
    | with_reducible apply Dev.loadsShow_inv
    | with_reducible apply Dev.event_inv
    | simp only [↓Dev.inv_mk]
    | (split <;> (try dsimp only))
    | intro _

theorem Dev.tileFault_inv {N G : Nat} (d : Dev) (t : Nat) (kind : Nat) (pass : Bool) (h_d : d.InvAt N G none) : (Dev.tileFault d t kind pass).InvAt N G none := by
  unfold Dev.tileFault
  try dsimp only
  repeat' first
    | with_reducible assumption
    | with_reducible apply Dev.ffr_inv
    | with_reducible apply Dev.tileFail_inv
    | simp only [↓Dev.inv_mk]
    | (split <;> (try dsimp only))
    | intro _

theorem execTileFault_keeps {N G : Nat} (t : Fin 72) (kind : TileFaultKind) (pass : Bool) (s : State) (h_s : s.dev.InvAt N G none) : Res.Keeps N G none s.pending (execTileFault t kind pass s) := by
  apply State.run_keeps
  try dsimp only
  repeat' first
    | with_reducible assumption
    | with_reducible apply Dev.wr_inv
    | with_reducible apply Dev.tileFault_inv
    | with_reducible apply hf
    | simp only [↓Dev.inv_mk]
    | (split <;> (try dsimp only))
    | intro _

theorem execInjectFatal_keeps {N G : Nat} (t : Fin 72) (pass : Bool) (s : State) (h_s : s.dev.InvAt N G none) : Res.Keeps N G none s.pending (execInjectFatal t pass s) := by
  apply State.run_keeps
  try dsimp only
  repeat' first
    | with_reducible assumption
    | with_reducible apply Dev.wr_inv
    | with_reducible apply Dev.tileFault_inv
    | with_reducible apply hf
    | simp only [↓Dev.inv_mk]
    | (split <;> (try dsimp only))
    | intro _

theorem execTileHeartbeatAdvance_keeps {N G : Nat} {M : Option (List Host.Cell)} (t : Fin 72) (s : State) (h_s : s.dev.InvAt N G M) : Res.Keeps N G M s.pending (execTileHeartbeatAdvance t s) := by
  apply State.run_keeps
  try dsimp only
  repeat' first
    | with_reducible assumption
    | with_reducible apply Dev.tlMod_inv
    | with_reducible apply hf
    | simp only [↓Dev.inv_mk]
    | (split <;> (try dsimp only))
    | intro _

theorem Dev.hbCheck_inv {N G : Nat} {M : Option (List Host.Cell)} (d : Dev) (t : Nat) (h_d : d.InvAt N G M) : (Dev.hbCheck d t).2.InvAt N G M := by
  unfold Dev.hbCheck
  try dsimp only
  repeat' first
    | with_reducible assumption
    | with_reducible apply Dev.tlMod_inv
    | simp only [↓Dev.inv_mk]
    | (split <;> (try dsimp only))
    | intro _

theorem execCccHeartbeatCheck_keeps {N G : Nat} (c : Fin 8) (pass : Bool) (s : State) (h_s : s.dev.InvAt N G none) : Res.Keeps N G none s.pending (execCccHeartbeatCheck c pass s) := by
  apply State.run_keeps
  try dsimp only
  repeat' first
    | with_reducible assumption
    | with_reducible apply List.foldl_inv
    | with_reducible apply List.foldl_inv2
    | with_reducible apply Dev.hbCheck_inv
    | with_reducible apply Dev.wr_inv
    | with_reducible apply Dev.tileFault_inv
    | with_reducible apply hf
    | simp only [↓Dev.inv_mk]
    | (split <;> (try dsimp only))
    | intro _

theorem execReserveSelfTest_keeps {N G : Nat} {M : Option (List Host.Cell)} (c : Fin 8) (pass : Bool) (s : State) (h_s : s.dev.InvAt N G M) : Res.Keeps N G M s.pending (execReserveSelfTest c pass s) := by
  apply State.run_keeps
  try dsimp only
  repeat' first
    | with_reducible assumption
    | with_reducible apply Dev.reserveFail_inv
    | with_reducible apply hf
    | simp only [↓Dev.inv_mk]
    | (split <;> (try dsimp only))
    | intro _

theorem execTileRowRemap_keeps {N G : Nat} {M : Option (List Host.Cell)} (t : Fin 72) (row : BitVec 20) (s : State) (h_s : s.dev.InvAt N G M) : Res.Keeps N G M s.pending (execTileRowRemap t row s) := by
  apply State.run_keeps
  try dsimp only
  repeat' first
    | with_reducible assumption
    | with_reducible apply Dev.tlMod_inv
    | with_reducible apply Dev.incW_inv
    | with_reducible apply Dev.ffr_inv
    | with_reducible apply hf
    | simp only [↓Dev.inv_mk]
    | (split <;> (try dsimp only))
    | intro _

theorem execBootTileSelfTest_keeps {N G : Nat} (c : Fin 8) (good : BitVec 9) (s : State) (h_s : s.dev.InvAt N G none) : Res.Keeps N G none s.pending (execBootTileSelfTest c good s) := by
  apply State.run_keeps
  try dsimp only
  repeat' first
    | with_reducible assumption
    | with_reducible apply List.foldl_inv
    | with_reducible apply List.foldl_inv2
    | with_reducible apply Dev.reserveFail_inv
    | with_reducible apply Dev.tileFault_inv
    | with_reducible apply hf
    | simp only [↓Dev.inv_mk]
    | (split <;> (try dsimp only))
    | intro _

end Sys2Proof.Machine
end

