-- ==== Sys2Proof/Laws/InvOrotha.lean ====
section
/-! SUPPORT. Every operation of Machine/Orotha.lean keeps the invariant. -/

namespace Sys2Proof.Machine

theorem Dev.tlmEn_inv {N G : Nat} {M : Option (List Host.Cell)} (d : Dev) (on : Bool) (h_d : d.InvAt N G M) : (Dev.tlmEn d on).InvAt N G M := by
  unfold Dev.tlmEn
  try dsimp only
  repeat' first
    | with_reducible assumption
    | with_reducible apply Dev.wr_inv
    | with_reducible apply Dev.forAcc_inv
    | with_reducible apply Dev.tlmCtrl_inv
    | with_reducible apply hf
    | simp only [↓Dev.inv_mk]
    | (split <;> (try dsimp only))
    | intro _

theorem execTlmEnWrite_keeps {N G : Nat} {M : Option (List Host.Cell)} (on : Bool) (s : State) (h_s : s.dev.InvAt N G M) : Res.Keeps N G M s.pending (execTlmEnWrite on s) := by
  apply State.run_keeps
  try dsimp only
  repeat' first
    | with_reducible assumption
    | with_reducible apply Dev.tlmEn_inv
    | simp only [↓Dev.inv_mk]
    | (split <;> (try dsimp only))
    | intro _

theorem Dev.tlmPurge_inv {N G : Nat} {M : Option (List Host.Cell)} (d : Dev) (h_d : d.InvAt N G M) : (Dev.tlmPurge d).InvAt N G M := by
  unfold Dev.tlmPurge
  try dsimp only
  repeat' first
    | with_reducible assumption
    | with_reducible apply Dev.frame_inv
    | simp only [↓Dev.inv_mk]
    | (split <;> (try dsimp only))
    | intro _

theorem execTlm_keeps {N G : Nat} {M : Option (List Host.Cell)} (a : Fin 8) (p : Payload) (s : State) (h_s : s.dev.InvAt N G M) : Res.Keeps N G M s.pending (execTlm a p s) := by
  apply State.run_keeps
  try dsimp only
  repeat' first
    | with_reducible assumption
    | with_reducible apply Dev.takeRx_inv
    | with_reducible apply Dev.inc_inv
    | with_reducible apply Dev.tlmPurge_inv
    | with_reducible apply hf
    | simp only [↓Dev.inv_mk]
    | (split <;> (try dsimp only))
    | intro _

theorem Dev.blockAdd_inv {N G : Nat} (d : Dev) (k : Nat) (rc : List Byte) (h_d : d.InvAt N G none) : (Dev.blockAdd d k rc).InvAt N G none := by
  unfold Dev.blockAdd
  try dsimp only
  repeat' first
    | with_reducible assumption
    | with_reducible apply Dev.stn_inv
    | simp only [↓Dev.inv_mk]
    | (split <;> (try dsimp only))
    | intro _

theorem Dev.recordWrite_inv {N G : Nat} (d : Dev) (h_d : d.InvAt N G none) : (Dev.recordWrite d).InvAt N G none := by
  unfold Dev.recordWrite
  try dsimp only
  repeat' first
    | with_reducible assumption
    | with_reducible apply Dev.frameRoll_inv
    | with_reducible apply Dev.inc_inv
    | with_reducible apply Dev.stn_inv
    | with_reducible apply Dev.blockAdd_inv
    | with_reducible apply Dev.horizonAdd_inv
    | with_reducible apply Dev.tlmPurge_inv
    | simp only [↓Dev.inv_mk]
    | (split <;> (try dsimp only))
    | intro _

theorem execFrameRecordWrite_keeps {N G : Nat} (s : State) (h_s : s.dev.InvAt N G none) : Res.Keeps N G none s.pending (execFrameRecordWrite s) := by
  apply State.run_keeps
  try dsimp only
  repeat' first
    | with_reducible assumption
    | with_reducible apply Dev.recordWrite_inv
    | with_reducible apply hf
    | simp only [↓Dev.inv_mk]
    | (split <;> (try dsimp only))
    | intro _

theorem Dev.inputCopy_inv {N G : Nat} (d : Dev) (m : Nat) (r : Nat) (h_d : d.InvAt N G none) : (Dev.inputCopy d m r).InvAt N G none := by
  unfold Dev.inputCopy
  try dsimp only
  repeat' first
    | with_reducible assumption
    | with_reducible apply List.foldl_inv
    | with_reducible apply List.foldl_inv2
    | with_reducible apply Dev.copyBytes_inv
    | with_reducible apply hf
    | simp only [↓Dev.inv_mk]
    | (split <;> (try dsimp only))
    | intro _

theorem execPolicyInputCopy_keeps {N G : Nat} (s : State) (h_s : s.dev.InvAt N G none) : Res.Keeps N G none s.pending (execPolicyInputCopy s) := by
  apply State.run_keeps
  try dsimp only
  repeat' first
    | with_reducible assumption
    | with_reducible apply List.foldl_inv
    | with_reducible apply List.foldl_inv2
    | with_reducible apply Dev.inputCopy_inv
    | with_reducible apply hf
    | simp only [↓Dev.inv_mk]
    | (split <;> (try dsimp only))
    | intro _

theorem execReplayBlockStart_keeps {N G : Nat} {M : Option (List Host.Cell)} (s : State) (h_s : s.dev.InvAt N G M) : Res.Keeps N G M s.pending (execReplayBlockStart s) := by
  apply State.run_keeps
  try dsimp only
  repeat' first
    | with_reducible assumption
    | with_reducible apply hf
    | simp only [↓Dev.inv_mk]
    | (split <;> (try dsimp only))
    | intro _

theorem Dev.without_inv {N G : Nat} (d : Dev) (r : Nat) (h_d : d.InvAt N G none) : (Dev.without d r).InvAt N G none := by
  unfold Dev.without
  try dsimp only
  repeat' first
    | with_reducible assumption
    | with_reducible apply Dev.slotFree_inv
    | simp only [↓Dev.inv_mk]
    | (split <;> (try dsimp only))
    | intro _

theorem Dev.shadowLoad_inv {N G : Nat} (d : Dev) (b : List Byte) (h_d : d.InvAt N G none) : (Dev.shadowLoad d b).InvAt N G none := by
  unfold Dev.shadowLoad
  try dsimp only
  repeat' first
    | with_reducible assumption
    | with_reducible apply Dev.loadRun_inv
    | with_reducible apply Dev.without_inv
    | with_reducible apply Dev.roleRetire_inv
    | with_reducible apply Dev.wr_inv
    | with_reducible apply hf
    | simp only [↓Dev.inv_mk]
    | (split <;> (try dsimp only))
    | intro _

theorem execShadowLoad_keeps {N G : Nat} (s : State) (h_s : s.dev.InvAt N G none) : Res.Keeps N G none s.pending (execShadowLoad s) := by
  apply State.run_keeps
  try dsimp only
  repeat' first
    | with_reducible assumption
    | with_reducible apply Dev.shadowLoad_inv
    | with_reducible apply hf
    | simp only [↓Dev.inv_mk]
    | (split <;> (try dsimp only))
    | intro _

theorem Dev.gateEval_inv {N G : Nat} {M : Option (List Host.Cell)} (d : Dev) (j : Nat) (h_d : d.InvAt N G M) : (Dev.gateEval d j).InvAt N G M := by
  unfold Dev.gateEval
  try dsimp only
  repeat' first
    | with_reducible assumption
    | with_reducible apply List.foldl_inv
    | with_reducible apply List.foldl_inv2
    | with_reducible apply Dev.inc_inv
    | with_reducible apply Dev.wr_inv
    | with_reducible apply Dev.note_inv
    | simp only [↓Dev.inv_mk]
    | (split <;> (try dsimp only))
    | intro _

theorem execGateEvaluation_keeps {N G : Nat} {M : Option (List Host.Cell)} (s : State) (h_s : s.dev.InvAt N G M) : Res.Keeps N G M s.pending (execGateEvaluation s) := by
  apply State.run_keeps
  try dsimp only
  repeat' first
    | with_reducible assumption
    | with_reducible apply Dev.gateEval_inv
    | with_reducible apply hf
    | simp only [↓Dev.inv_mk]
    | (split <;> (try dsimp only))
    | intro _

theorem Dev.promotionSwitch_inv {N G : Nat} (d : Dev) (h_d : d.InvAt N G none) : (Dev.promotionSwitch d).InvAt N G none := by
  unfold Dev.promotionSwitch
  try dsimp only
  repeat' first
    | with_reducible assumption
    | with_reducible apply Dev.roleRetire_inv
    | with_reducible apply Dev.roleSet_inv
    | with_reducible apply Dev.windowRestart_inv
    | with_reducible apply Dev.fallback_inv
    | with_reducible apply Dev.inc_inv
    | with_reducible apply Dev.oroState_inv
    | with_reducible apply Dev.oroEvent_inv
    | simp only [↓Dev.inv_mk]
    | (split <;> (try dsimp only))
    | intro _

theorem execPromotionSwitch_keeps {N G : Nat} (s : State) (h_s : s.dev.InvAt N G none) : Res.Keeps N G none s.pending (execPromotionSwitch s) := by
  apply State.run_keeps
  try dsimp only
  repeat' first
    | with_reducible assumption
    | with_reducible apply Dev.promotionSwitch_inv
    | with_reducible apply hf
    | simp only [↓Dev.inv_mk]
    | (split <;> (try dsimp only))
    | intro _

theorem execRollbackTimerExpiry_keeps {N G : Nat} (s : State) (h_s : s.dev.InvAt N G none) : Res.Keeps N G none s.pending (execRollbackTimerExpiry s) := by
  apply State.run_keeps
  try dsimp only
  repeat' first
    | with_reducible assumption
    | with_reducible apply Dev.roleRetire_inv
    | with_reducible apply hf
    | simp only [↓Dev.inv_mk]
    | (split <;> (try dsimp only))
    | intro _

theorem Dev.rollback_inv {N G : Nat} (d : Dev) (h_d : d.InvAt N G none) : (Dev.rollback d).InvAt N G none := by
  unfold Dev.rollback
  try dsimp only
  repeat' first
    | with_reducible assumption
    | with_reducible apply Dev.policyFail_inv
    | simp only [↓Dev.inv_mk]
    | (split <;> (try dsimp only))
    | intro _

theorem execOroCtrlRollback_keeps {N G : Nat} (s : State) (h_s : s.dev.InvAt N G none) : Res.Keeps N G none s.pending (execOroCtrlRollback s) := by
  apply State.run_keeps
  try dsimp only
  repeat' first
    | with_reducible assumption
    | with_reducible apply Dev.rollback_inv
    | with_reducible apply hf
    | simp only [↓Dev.inv_mk]
    | (split <;> (try dsimp only))
    | intro _

end Sys2Proof.Machine
end

