-- ==== Sys2Proof/Laws/InvSeqOps.lean ====
section
/-! SUPPORT. Every operation of Machine/SeqOps.lean keeps the invariant. -/

namespace Sys2Proof.Machine

theorem Dev.rlTMod_inv {N G : Nat} {M : Option (List Host.Cell)} (d : Dev) (n : Nat) (f : Rail → Rail) (h_d : d.InvAt N G M) : (Dev.rlTMod d n f).InvAt N G M := by
  unfold Dev.rlTMod
  try dsimp only
  repeat' first
    | with_reducible assumption
    | simp only [↓Dev.inv_mk]
    | (split <;> (try dsimp only))
    | intro _

theorem Dev.domGo_inv {N G : Nat} {M : Option (List Host.Cell)} (d : Dev) (k : Nat) (st : Nat) (h_d : d.InvAt N G M) : (Dev.domGo d k st).InvAt N G M := by
  unfold Dev.domGo
  try dsimp only
  repeat' first
    | with_reducible assumption
    | with_reducible apply Dev.wrw_inv
    | with_reducible apply Dev.st_inv
    | simp only [↓Dev.inv_mk]
    | (split <;> (try dsimp only))
    | intro _

theorem Dev.hswGo_inv {N G : Nat} {M : Option (List Host.Cell)} (d : Dev) (st : Nat) (h_d : d.InvAt N G M) : (Dev.hswGo d st).InvAt N G M := by
  unfold Dev.hswGo
  try dsimp only
  repeat' first
    | with_reducible assumption
    | with_reducible apply Dev.wr_inv
    | with_reducible apply Dev.st_inv
    | simp only [↓Dev.inv_mk]
    | (split <;> (try dsimp only))
    | intro _

theorem Dev.coreLost_inv {N G : Nat} {M : Option (List Host.Cell)} (d : Dev) (h_d : d.InvAt N G M) : d.coreLost.InvAt N G M := by
  unfold Dev.coreLost
  exact Dev.inv_off d (h := h_d) ..

theorem Dev.railGo_inv {N G : Nat} {M : Option (List Host.Cell)} (d : Dev) (n : Nat) (st : Nat) (h_d : d.InvAt N G M) : (Dev.railGo d n st).InvAt N G M := by
  unfold Dev.railGo
  try dsimp only
  repeat' first
    | with_reducible assumption
    | with_reducible apply Dev.wr_inv
    | with_reducible apply Dev.st_inv
    | with_reducible apply Dev.rlTMod_inv
    | with_reducible apply Dev.coreLost_inv
    | simp only [↓Dev.inv_mk]
    | (split <;> (try dsimp only))
    | intro _

theorem Dev.railEn_inv {N G : Nat} {M : Option (List Host.Cell)} (d : Dev) (n : Nat) (on : Bool) (h_d : d.InvAt N G M) : (Dev.railEn d n on).InvAt N G M := by
  unfold Dev.railEn
  try dsimp only
  repeat' first
    | with_reducible assumption
    | with_reducible apply Dev.pin_inv
    | simp only [↓Dev.inv_mk]
    | (split <;> (try dsimp only))
    | intro _

theorem Dev.rstAssert_inv {N G : Nat} {M : Option (List Host.Cell)} (d : Dev) (k : Nat) (h_d : d.InvAt N G M) : (Dev.rstAssert d k).InvAt N G M := by
  unfold Dev.rstAssert
  try dsimp only
  repeat' first
    | with_reducible assumption
    | with_reducible apply Dev.wrBit_inv
    | with_reducible apply Dev.pin_inv
    | with_reducible apply Dev.accHold_inv
    | simp only [↓Dev.inv_mk]
    | (split <;> (try dsimp only))
    | intro _

theorem Dev.rstRelease_inv {N G : Nat} {M : Option (List Host.Cell)} (d : Dev) (k : Nat) (h_d : d.InvAt N G M) : (Dev.rstRelease d k).InvAt N G M := by
  unfold Dev.rstRelease
  try dsimp only
  repeat' first
    | with_reducible assumption
    | with_reducible apply Dev.wrBit_inv
    | with_reducible apply Dev.pin_inv
    | with_reducible apply Dev.accRelease_inv
    | simp only [↓Dev.inv_mk]
    | (split <;> (try dsimp only))
    | intro _

theorem Dev.rstGates_inv {N G : Nat} {M : Option (List Host.Cell)} (d : Dev) (set : List Nat) (h_d : d.InvAt N G M) : (Dev.rstGates d set).InvAt N G M := by
  unfold Dev.rstGates
  try dsimp only
  repeat' first
    | with_reducible assumption
    | with_reducible apply List.foldl_inv
    | with_reducible apply List.foldl_inv2
    | with_reducible apply Dev.rstAssert_inv
    | with_reducible apply hf
    | simp only [↓Dev.inv_mk]
    | (split <;> (try dsimp only))
    | intro _

theorem Dev.railFall_inv {N G : Nat} {M : Option (List Host.Cell)} (d : Dev) (n : Nat) (h_d : d.InvAt N G M) : (Dev.railFall d n).InvAt N G M := by
  unfold Dev.railFall
  try dsimp only
  repeat' first
    | with_reducible assumption
    | with_reducible apply Dev.railEn_inv
    | with_reducible apply Dev.railGo_inv
    | simp only [↓Dev.inv_mk]
    | (split <;> (try dsimp only))
    | intro _

theorem Dev.shutdown_inv {N G : Nat} {M : Option (List Host.Cell)} (d : Dev) (set : List Nat) (h_d : d.InvAt N G M) : (Dev.shutdown d set).InvAt N G M := by
  unfold Dev.shutdown
  try dsimp only
  repeat' first
    | with_reducible assumption
    | with_reducible apply List.foldl_inv
    | with_reducible apply List.foldl_inv2
    | with_reducible apply Dev.rstGates_inv
    | with_reducible apply Dev.st_inv
    | with_reducible apply Dev.railGo_inv
    | with_reducible apply Dev.railFall_inv
    | with_reducible apply hf
    | simp only [↓Dev.inv_mk]
    | (split <;> (try dsimp only))
    | intro _

theorem Dev.domDown_inv {N G : Nat} {M : Option (List Host.Cell)} (d : Dev) (ks : List Nat) (h_d : d.InvAt N G M) : (Dev.domDown d ks).InvAt N G M := by
  unfold Dev.domDown
  try dsimp only
  repeat' first
    | with_reducible assumption
    | with_reducible apply List.foldl_inv
    | with_reducible apply List.foldl_inv2
    | with_reducible apply Dev.domGo_inv
    | with_reducible apply Dev.shutdown_inv
    | with_reducible apply hf
    | simp only [↓Dev.inv_mk]
    | (split <;> (try dsimp only))
    | intro _

theorem Dev.railFail_inv {N G : Nat} {M : Option (List Host.Cell)} (d : Dev) (n : Nat) (cause : Nat) (h_d : d.InvAt N G M) : (Dev.railFail d n cause).InvAt N G M := by
  unfold Dev.railFail
  try dsimp only
  repeat' first
    | with_reducible assumption
    | with_reducible apply Dev.st_inv
    | with_reducible apply Dev.wr_inv
    | with_reducible apply Dev.wrw_inv
    | with_reducible apply Dev.ffr_inv
    | with_reducible apply Dev.event_inv
    | with_reducible apply Dev.railEn_inv
    | with_reducible apply Dev.railGo_inv
    | with_reducible apply Dev.wrBit_inv
    | with_reducible apply Dev.rstGates_inv
    | with_reducible apply Dev.shutdown_inv
    | simp only [↓Dev.inv_mk]
    | (split <;> (try dsimp only))
    | intro _

theorem Dev.domTry_inv {N G : Nat} {M : Option (List Host.Cell)} (d : Dev) (k : Nat) (h_d : d.InvAt N G M) : (Dev.domTry d k).InvAt N G M := by
  unfold Dev.domTry
  try dsimp only
  repeat' first
    | with_reducible assumption
    | with_reducible apply List.foldl_inv
    | with_reducible apply List.foldl_inv2
    | with_reducible apply Dev.domGo_inv
    | with_reducible apply Dev.wrBit_inv
    | with_reducible apply Dev.railGo_inv
    | with_reducible apply hf
    | simp only [↓Dev.inv_mk]
    | (split <;> (try dsimp only))
    | intro _

theorem Dev.domEnd_inv {N G : Nat} {M : Option (List Host.Cell)} (d : Dev) (k : Nat) (h_d : d.InvAt N G M) : (Dev.domEnd d k).InvAt N G M := by
  unfold Dev.domEnd
  try dsimp only
  repeat' first
    | with_reducible assumption
    | with_reducible apply Dev.domGo_inv
    | with_reducible apply Dev.wrBit_inv
    | simp only [↓Dev.inv_mk]
    | (split <;> (try dsimp only))
    | intro _

theorem Dev.seqPass_inv {N G : Nat} {M : Option (List Host.Cell)} (d : Dev) (h_d : d.InvAt N G M) : (Dev.seqPass d).InvAt N G M := by
  unfold Dev.seqPass
  try dsimp only
  repeat' first
    | with_reducible assumption
    | with_reducible apply List.foldl_inv
    | with_reducible apply List.foldl_inv2
    | with_reducible apply Dev.domEnd_inv
    | with_reducible apply Dev.domTry_inv
    | with_reducible apply hf
    | simp only [↓Dev.inv_mk]
    | (split <;> (try dsimp only))
    | intro _

theorem Dev.coldRegs_inv {N G : Nat} {M : Option (List Host.Cell)} (d : Dev) (old : Dev) (h_d : d.InvAt N G M) (h_old : old.InvAt N G M) : (Dev.coldRegs d old).InvAt N G M := by
  unfold Dev.coldRegs
  try dsimp only
  repeat' first
    | with_reducible assumption
    | with_reducible apply Dev.wr_inv
    | simp only [↓Dev.inv_mk]
    | (split <;> (try dsimp only))
    | intro _

theorem Dev.bare_inv {N G : Nat} (d : Dev) (h_d : d.InvAt N G none) : d.bare.InvAt N G none :=
  ⟨rfl, twf_filter _ _ _ h_d.mem, rfl, .inr rfl, .inr (.inr rfl), fun _ e => nomatch e⟩

theorem Dev.protectPins_inv {N G : Nat} {M : Option (List Host.Cell)} (d : Dev) (h_d : d.InvAt N G M) : (Dev.protectPins d).InvAt N G M := by
  unfold Dev.protectPins
  try dsimp only
  repeat' first
    | with_reducible assumption
    | with_reducible apply List.foldl_inv
    | with_reducible apply List.foldl_inv2
    | with_reducible apply Dev.forAcc_inv
    | with_reducible apply Dev.pin_inv
    | with_reducible apply Dev.rstAssert_inv
    | with_reducible apply hf
    | simp only [↓Dev.inv_mk]
    | (split <;> (try dsimp only))
    | intro _

theorem Dev.relatch_inv {N G : Nat} {M : Option (List Host.Cell)} (d : Dev) (h_d : d.InvAt N G M) : (Dev.relatch d).InvAt N G M := by
  unfold Dev.relatch
  try dsimp only
  repeat' first
    | with_reducible assumption
    | with_reducible apply List.foldl_inv
    | with_reducible apply List.foldl_inv2
    | with_reducible apply Dev.trigLatch_inv
    | with_reducible apply Dev.checkSettle_inv
    | with_reducible apply hf
    | simp only [↓Dev.inv_mk]
    | (split <;> (try dsimp only))
    | intro _

theorem Dev.coldClear_inv {N G : Nat} (d : Dev) (h_d : d.InvAt N G none) : (Dev.coldClear d).InvAt N G none := by
  unfold Dev.coldClear
  try dsimp only
  repeat' first
    | with_reducible assumption
    | with_reducible apply Dev.protectPins_inv
    | with_reducible apply Dev.bare_inv
    | with_reducible apply Dev.wrw_inv
    | with_reducible apply Dev.coldRegs_inv
    | with_reducible apply Dev.relatch_inv
    | simp only [↓Dev.inv_mk]
    | (split <;> (try dsimp only))
    | intro _

theorem Dev.coldEnd_inv {N G : Nat} (d : Dev) (h_d : d.InvAt N G none) : (Dev.coldEnd d).InvAt N G none := by
  unfold Dev.coldEnd
  try dsimp only
  repeat' first
    | with_reducible assumption
    | with_reducible apply Dev.coldClear_inv
    | simp only [↓Dev.inv_mk]
    | (split <;> (try dsimp only))
    | intro _

theorem Dev.coldSelf_inv {N G : Nat} {M : Option (List Host.Cell)} (d : Dev) (h_d : d.InvAt N G M) : (Dev.coldSelf d).InvAt N G M := by
  unfold Dev.coldSelf
  try dsimp only
  repeat' first
    | with_reducible assumption
    | with_reducible apply Dev.domDown_inv
    | simp only [↓Dev.inv_mk]
    | (split <;> (try dsimp only))
    | intro _

theorem Dev.seqSettle_inv {N G : Nat} (d : Dev) (h_d : d.InvAt N G none) : (Dev.seqSettle d).InvAt N G none := by
  unfold Dev.seqSettle
  try dsimp only
  repeat' first
    | with_reducible assumption
    | with_reducible apply Dev.seqPass_inv
    | with_reducible apply Dev.coldSelf_inv
    | with_reducible apply Dev.coldEnd_inv
    | with_reducible apply Dev.wr_inv
    | simp only [↓Dev.inv_mk]
    | (split <;> (try dsimp only))
    | intro _

theorem Dev.coldDownStart_inv {N G : Nat} (d : Dev) (h_d : d.InvAt N G none) : (Dev.coldDownStart d).InvAt N G none := by
  unfold Dev.coldDownStart
  try dsimp only
  repeat' first
    | with_reducible assumption
    | with_reducible apply Dev.domDown_inv
    | with_reducible apply Dev.seqSettle_inv
    | simp only [↓Dev.inv_mk]
    | (split <;> (try dsimp only))
    | intro _

theorem Dev.hswStart_inv {N G : Nat} {M : Option (List Host.Cell)} (d : Dev) (h_d : d.InvAt N G M) : (Dev.hswStart d).InvAt N G M := by
  unfold Dev.hswStart
  try dsimp only
  repeat' first
    | with_reducible assumption
    | with_reducible apply Dev.hswGo_inv
    | simp only [↓Dev.inv_mk]
    | (split <;> (try dsimp only))
    | intro _

theorem Dev.dropAll_inv {N G : Nat} {M : Option (List Host.Cell)} (d : Dev) (h_d : d.InvAt N G M) : (Dev.dropAll d).InvAt N G M := by
  unfold Dev.dropAll
  try dsimp only
  repeat' first
    | with_reducible assumption
    | with_reducible apply List.foldl_inv
    | with_reducible apply List.foldl_inv2
    | with_reducible apply Dev.rstAssert_inv
    | with_reducible apply Dev.railEn_inv
    | with_reducible apply Dev.railGo_inv
    | with_reducible apply Dev.domGo_inv
    | with_reducible apply hf
    | simp only [↓Dev.inv_mk]
    | (split <;> (try dsimp only))
    | intro _

theorem Dev.hswFault_inv {N G : Nat} (d : Dev) (cause : Nat) (h_d : d.InvAt N G none) : (Dev.hswFault d cause).InvAt N G none := by
  unfold Dev.hswFault
  try dsimp only
  repeat' first
    | with_reducible assumption
    | with_reducible apply Dev.wr_inv
    | with_reducible apply Dev.ffr_inv
    | with_reducible apply Dev.emergUpdate_inv
    | with_reducible apply Dev.dropAll_inv
    | with_reducible apply Dev.hswGo_inv
    | with_reducible apply Dev.seqSettle_inv
    | simp only [↓Dev.inv_mk]
    | (split <;> (try dsimp only))
    | intro _

end Sys2Proof.Machine
end

