-- ==== Sys2Proof/Laws/InvCoolOps.lean ====
section
/-! SUPPORT. Every operation of Machine/CoolOps.lean keeps the invariant. -/

namespace Sys2Proof.Machine

theorem Dev.fanMod_inv {N G : Nat} {M : Option (List Host.Cell)} (d : Dev) (n : Nat) (f : Fan → Fan) (h_d : d.InvAt N G M) : (Dev.fanMod d n f).InvAt N G M := by
  unfold Dev.fanMod
  try dsimp only
  repeat' first
    | with_reducible assumption
    | simp only [↓Dev.inv_mk]
    | (split <;> (try dsimp only))
    | intro _

theorem Dev.pumpMod_inv {N G : Nat} {M : Option (List Host.Cell)} (d : Dev) (p : Nat) (f : Pump → Pump) (h_d : d.InvAt N G M) : (Dev.pumpMod d p f).InvAt N G M := by
  unfold Dev.pumpMod
  try dsimp only
  repeat' first
    | with_reducible assumption
    | simp only [↓Dev.inv_mk]
    | (split <;> (try dsimp only))
    | intro _

theorem Dev.cloopMod_inv {N G : Nat} {M : Option (List Host.Cell)} (d : Dev) (l : Nat) (f : CLoop → CLoop) (h_d : d.InvAt N G M) : (Dev.cloopMod d l f).InvAt N G M := by
  unfold Dev.cloopMod
  try dsimp only
  repeat' first
    | with_reducible assumption
    | simp only [↓Dev.inv_mk]
    | (split <;> (try dsimp only))
    | intro _

theorem Dev.fanGo_inv {N G : Nat} {M : Option (List Host.Cell)} (d : Dev) (n : Nat) (st : Nat) (h_d : d.InvAt N G M) : (Dev.fanGo d n st).InvAt N G M := by
  unfold Dev.fanGo
  try dsimp only
  repeat' first
    | with_reducible assumption
    | with_reducible apply Dev.wr_inv
    | with_reducible apply Dev.st_inv
    | with_reducible apply Dev.fanMod_inv
    | simp only [↓Dev.inv_mk]
    | (split <;> (try dsimp only))
    | intro _

theorem Dev.coolShow_inv {N G : Nat} {M : Option (List Host.Cell)} (d : Dev) (h_d : d.InvAt N G M) : (Dev.coolShow d).InvAt N G M := by
  unfold Dev.coolShow
  try dsimp only
  repeat' first
    | with_reducible assumption
    | with_reducible apply List.foldl_inv
    | with_reducible apply List.foldl_inv2
    | with_reducible apply Dev.wr_inv
    | with_reducible apply Dev.emergUpdate_inv
    | with_reducible apply hf
    | simp only [↓Dev.inv_mk]
    | (split <;> (try dsimp only))
    | intro _

theorem Dev.fanKick_inv {N G : Nat} {M : Option (List Host.Cell)} (d : Dev) (n : Nat) (fresh : Bool) (h_d : d.InvAt N G M) : (Dev.fanKick d n fresh).InvAt N G M := by
  unfold Dev.fanKick
  try dsimp only
  repeat' first
    | with_reducible assumption
    | with_reducible apply Dev.wr_inv
    | with_reducible apply Dev.fanGo_inv
    | with_reducible apply Dev.fanMod_inv
    | simp only [↓Dev.inv_mk]
    | (split <;> (try dsimp only))
    | intro _

theorem Dev.rsvTake_inv {N G : Nat} {M : Option (List Host.Cell)} (d : Dev) (r : Nat) (n : Nat) (h_d : d.InvAt N G M) : (Dev.rsvTake d r n).InvAt N G M := by
  unfold Dev.rsvTake
  try dsimp only
  repeat' first
    | with_reducible assumption
    | with_reducible apply Dev.wr_inv
    | with_reducible apply Dev.fanMod_inv
    | with_reducible apply Dev.fanGo_inv
    | with_reducible apply Dev.fanKick_inv
    | simp only [↓Dev.inv_mk]
    | (split <;> (try dsimp only))
    | intro _

theorem Dev.cover_inv {N G : Nat} {M : Option (List Host.Cell)} (d : Dev) (h_d : d.InvAt N G M) : (Dev.cover d).InvAt N G M := by
  unfold Dev.cover
  try dsimp only
  repeat' first
    | with_reducible assumption
    | with_reducible apply List.foldl_inv
    | with_reducible apply List.foldl_inv2
    | with_reducible apply Dev.rsvTake_inv
    | with_reducible apply Dev.wr_inv
    | with_reducible apply hf
    | simp only [↓Dev.inv_mk]
    | (split <;> (try dsimp only))
    | intro _

theorem Dev.unserve_inv {N G : Nat} {M : Option (List Host.Cell)} (d : Dev) (r : Nat) (h_d : d.InvAt N G M) : (Dev.unserve d r).InvAt N G M := by
  unfold Dev.unserve
  try dsimp only
  repeat' first
    | with_reducible assumption
    | with_reducible apply Dev.wr_inv
    | simp only [↓Dev.inv_mk]
    | (split <;> (try dsimp only))
    | intro _

theorem Dev.fanFail_inv {N G : Nat} {M : Option (List Host.Cell)} (d : Dev) (n : Nat) (cause : Nat) (h_d : d.InvAt N G M) : (Dev.fanFail d n cause).InvAt N G M := by
  unfold Dev.fanFail
  try dsimp only
  repeat' first
    | with_reducible assumption
    | with_reducible apply Dev.fanGo_inv
    | with_reducible apply Dev.wr_inv
    | with_reducible apply Dev.fanMod_inv
    | with_reducible apply Dev.ffr_inv
    | with_reducible apply Dev.event_inv
    | with_reducible apply Dev.unserve_inv
    | with_reducible apply Dev.cover_inv
    | simp only [↓Dev.inv_mk]
    | (split <;> (try dsimp only))
    | intro _

theorem Dev.fanOpen_inv {N G : Nat} {M : Option (List Host.Cell)} (d : Dev) (n : Nat) (h_d : d.InvAt N G M) : (Dev.fanOpen d n).InvAt N G M := by
  unfold Dev.fanOpen
  try dsimp only
  repeat' first
    | with_reducible assumption
    | with_reducible apply Dev.fanGo_inv
    | with_reducible apply Dev.wr_inv
    | with_reducible apply Dev.ffr_inv
    | with_reducible apply Dev.fanMod_inv
    | simp only [↓Dev.inv_mk]
    | (split <;> (try dsimp only))
    | intro _

theorem Dev.fanJudge_inv {N G : Nat} {M : Option (List Host.Cell)} (d : Dev) (n : Nat) (h_d : d.InvAt N G M) : (Dev.fanJudge d n).InvAt N G M := by
  unfold Dev.fanJudge
  try dsimp only
  repeat' first
    | with_reducible assumption
    | with_reducible apply Dev.fanFail_inv
    | with_reducible apply Dev.fanOpen_inv
    | simp only [↓Dev.inv_mk]
    | (split <;> (try dsimp only))
    | intro _

theorem Dev.fanLoop_inv {N G : Nat} {M : Option (List Host.Cell)} (d : Dev) (n : Nat) (rpm : Nat) (h_d : d.InvAt N G M) : (Dev.fanLoop d n rpm).InvAt N G M := by
  unfold Dev.fanLoop
  try dsimp only
  repeat' first
    | with_reducible assumption
    | with_reducible apply Dev.wr_inv
    | simp only [↓Dev.inv_mk]
    | (split <;> (try dsimp only))
    | intro _

theorem Dev.fanAge_inv {N G : Nat} {M : Option (List Host.Cell)} (d : Dev) (n : Nat) (rpm : Nat) (h_d : d.InvAt N G M) : (Dev.fanAge d n rpm).InvAt N G M := by
  unfold Dev.fanAge
  try dsimp only
  repeat' first
    | with_reducible assumption
    | with_reducible apply Dev.fanMod_inv
    | with_reducible apply Dev.wr_inv
    | with_reducible apply Dev.ffr_inv
    | simp only [↓Dev.inv_mk]
    | (split <;> (try dsimp only))
    | intro _

theorem Dev.rsvRelease_inv {N G : Nat} {M : Option (List Host.Cell)} (d : Dev) (r : Nat) (h_d : d.InvAt N G M) : (Dev.rsvRelease d r).InvAt N G M := by
  unfold Dev.rsvRelease
  try dsimp only
  repeat' first
    | with_reducible assumption
    | with_reducible apply Dev.unserve_inv
    | with_reducible apply Dev.wr_inv
    | with_reducible apply Dev.fanGo_inv
    | simp only [↓Dev.inv_mk]
    | (split <;> (try dsimp only))
    | intro _

theorem Dev.fanLow_inv {N G : Nat} {M : Option (List Host.Cell)} (d : Dev) (n : Nat) (rpm : Nat) (h_d : d.InvAt N G M) : (Dev.fanLow d n rpm).InvAt N G M := by
  unfold Dev.fanLow
  try dsimp only
  repeat' first
    | with_reducible assumption
    | with_reducible apply Dev.fanMod_inv
    | with_reducible apply Dev.fanJudge_inv
    | simp only [↓Dev.inv_mk]
    | (split <;> (try dsimp only))
    | intro _

theorem Dev.tachClear_inv {N G : Nat} {M : Option (List Host.Cell)} (d : Dev) (h_d : d.InvAt N G M) : (Dev.tachClear d).InvAt N G M := by
  unfold Dev.tachClear
  try dsimp only
  repeat' first
    | with_reducible assumption
    | with_reducible apply Dev.wr_inv
    | simp only [↓Dev.inv_mk]
    | (split <;> (try dsimp only))
    | intro _

theorem Dev.fanRun_inv {N G : Nat} {M : Option (List Host.Cell)} (d : Dev) (n : Nat) (h_d : d.InvAt N G M) : (Dev.fanRun d n).InvAt N G M := by
  unfold Dev.fanRun
  try dsimp only
  repeat' first
    | with_reducible assumption
    | with_reducible apply Dev.fanGo_inv
    | with_reducible apply Dev.wr_inv
    | with_reducible apply Dev.fanMod_inv
    | simp only [↓Dev.inv_mk]
    | (split <;> (try dsimp only))
    | intro _

theorem Dev.fanOpenMeas_inv {N G : Nat} {M : Option (List Host.Cell)} (d : Dev) (n : Nat) (rpm : Nat) (h_d : d.InvAt N G M) : (Dev.fanOpenMeas d n rpm).InvAt N G M := by
  unfold Dev.fanOpenMeas
  try dsimp only
  repeat' first
    | with_reducible assumption
    | with_reducible apply Dev.fanMod_inv
    | with_reducible apply Dev.fanFail_inv
    | with_reducible apply Dev.fanRun_inv
    | with_reducible apply Dev.tachClear_inv
    | simp only [↓Dev.inv_mk]
    | (split <;> (try dsimp only))
    | intro _

theorem Dev.commDone_inv {N G : Nat} {M : Option (List Host.Cell)} (d : Dev) (n : Nat) (st : Nat) (h_d : d.InvAt N G M) : (Dev.commDone d n st).InvAt N G M := by
  unfold Dev.commDone
  try dsimp only
  repeat' first
    | with_reducible assumption
    | with_reducible apply Dev.fanMod_inv
    | with_reducible apply Dev.complete_inv
    | with_reducible apply Dev.st_inv
    | simp only [↓Dev.inv_mk]
    | (split <;> (try dsimp only))
    | intro _

theorem Dev.fanCommMeas_inv {N G : Nat} {M : Option (List Host.Cell)} (d : Dev) (n : Nat) (rpm : Nat) (h_d : d.InvAt N G M) : (Dev.fanCommMeas d n rpm).InvAt N G M := by
  unfold Dev.fanCommMeas
  try dsimp only
  repeat' first
    | with_reducible assumption
    | with_reducible apply Dev.fanLoop_inv
    | with_reducible apply Dev.fanMod_inv
    | with_reducible apply Dev.wr_inv
    | with_reducible apply Dev.fanGo_inv
    | with_reducible apply Dev.commDone_inv
    | simp only [↓Dev.inv_mk]
    | (split <;> (try dsimp only))
    | intro _

theorem Dev.fanMeasure_inv {N G : Nat} {M : Option (List Host.Cell)} (d : Dev) (n : Nat) (rpm : Nat) (h_d : d.InvAt N G M) : (Dev.fanMeasure d n rpm).InvAt N G M := by
  unfold Dev.fanMeasure
  try dsimp only
  repeat' first
    | with_reducible assumption
    | with_reducible apply Dev.wr_inv
    | with_reducible apply Dev.fanMod_inv
    | with_reducible apply Dev.st_inv
    | with_reducible apply Dev.fanGo_inv
    | with_reducible apply Dev.fanLoop_inv
    | with_reducible apply Dev.fanAge_inv
    | with_reducible apply Dev.fanLow_inv
    | with_reducible apply Dev.fanOpenMeas_inv
    | with_reducible apply Dev.fanCommMeas_inv
    | with_reducible apply Dev.rsvRelease_inv
    | simp only [↓Dev.inv_mk]
    | (split <;> (try dsimp only))
    | intro _

theorem Dev.commFail_inv {N G : Nat} {M : Option (List Host.Cell)} (d : Dev) (n : Nat) (h_d : d.InvAt N G M) : (Dev.commFail d n).InvAt N G M := by
  unfold Dev.commFail
  try dsimp only
  repeat' first
    | with_reducible assumption
    | with_reducible apply Dev.wr_inv
    | with_reducible apply Dev.fanGo_inv
    | with_reducible apply Dev.fanMod_inv
    | with_reducible apply Dev.commDone_inv
    | simp only [↓Dev.inv_mk]
    | (split <;> (try dsimp only))
    | intro _

theorem Dev.fanFollow_inv {N G : Nat} {M : Option (List Host.Cell)} (d : Dev) (n : Nat) (h_d : d.InvAt N G M) : (Dev.fanFollow d n).InvAt N G M := by
  unfold Dev.fanFollow
  try dsimp only
  repeat' first
    | with_reducible assumption
    | with_reducible apply Dev.st_inv
    | with_reducible apply Dev.commFail_inv
    | with_reducible apply Dev.fanGo_inv
    | with_reducible apply Dev.fanMod_inv
    | with_reducible apply Dev.fanKick_inv
    | simp only [↓Dev.inv_mk]
    | (split <;> (try dsimp only))
    | intro _

theorem Dev.pumpFollow_inv {N G : Nat} {M : Option (List Host.Cell)} (d : Dev) (p : Nat) (h_d : d.InvAt N G M) : (Dev.pumpFollow d p).InvAt N G M := by
  unfold Dev.pumpFollow
  try dsimp only
  repeat' first
    | with_reducible assumption
    | with_reducible apply Dev.st_inv
    | with_reducible apply Dev.wr_inv
    | with_reducible apply Dev.pumpMod_inv
    | simp only [↓Dev.inv_mk]
    | (split <;> (try dsimp only))
    | intro _

theorem Dev.loopFollow_inv {N G : Nat} {M : Option (List Host.Cell)} (d : Dev) (l : Nat) (h_d : d.InvAt N G M) : (Dev.loopFollow d l).InvAt N G M := by
  unfold Dev.loopFollow
  try dsimp only
  repeat' first
    | with_reducible assumption
    | with_reducible apply Dev.cloopMod_inv
    | simp only [↓Dev.inv_mk]
    | (split <;> (try dsimp only))
    | intro _

theorem Dev.coolFollow_inv {N G : Nat} {M : Option (List Host.Cell)} (d : Dev) (h_d : d.InvAt N G M) : (Dev.coolFollow d).InvAt N G M := by
  unfold Dev.coolFollow
  try dsimp only
  repeat' first
    | with_reducible assumption
    | with_reducible apply List.foldl_inv
    | with_reducible apply List.foldl_inv2
    | with_reducible apply Dev.loopFollow_inv
    | with_reducible apply Dev.pumpFollow_inv
    | with_reducible apply Dev.fanFollow_inv
    | with_reducible apply Dev.cover_inv
    | with_reducible apply Dev.coolShow_inv
    | simp only [↓Dev.inv_mk]
    | (split <;> (try dsimp only))
    | intro _

theorem Dev.modeGo_inv {N G : Nat} {M : Option (List Host.Cell)} (d : Dev) (m : Nat) (h_d : d.InvAt N G M) : (Dev.modeGo d m).InvAt N G M := by
  unfold Dev.modeGo
  try dsimp only
  repeat' first
    | with_reducible assumption
    | with_reducible apply List.foldl_inv
    | with_reducible apply List.foldl_inv2
    | with_reducible apply Dev.wr_inv
    | with_reducible apply Dev.commFail_inv
    | with_reducible apply hf
    | simp only [↓Dev.inv_mk]
    | (split <;> (try dsimp only))
    | intro _

theorem Dev.modeWrite_inv {N G : Nat} {M : Option (List Host.Cell)} (d : Dev) (m : Nat) (h_d : d.InvAt N G M) : (Dev.modeWrite d m).InvAt N G M := by
  unfold Dev.modeWrite
  try dsimp only
  repeat' first
    | with_reducible assumption
    | with_reducible apply Dev.modeGo_inv
    | with_reducible apply Dev.wr_inv
    | with_reducible apply Dev.coolShow_inv
    | simp only [↓Dev.inv_mk]
    | (split <;> (try dsimp only))
    | intro _

theorem Dev.coolWdog_inv {N G : Nat} {M : Option (List Host.Cell)} (d : Dev) (h_d : d.InvAt N G M) : (Dev.coolWdog d).InvAt N G M := by
  unfold Dev.coolWdog
  try dsimp only
  repeat' first
    | with_reducible assumption
    | with_reducible apply Dev.wr_inv
    | with_reducible apply Dev.coolShow_inv
    | simp only [↓Dev.inv_mk]
    | (split <;> (try dsimp only))
    | intro _

end Sys2Proof.Machine
end

