-- ==== Sys2Proof/Laws/InvFaultOps.lean ====
section
/-! SUPPORT. Every operation of Machine/FaultOps.lean keeps the invariant. -/

namespace Sys2Proof.Machine

theorem Dev.coreMod_inv {N G : Nat} {M : Option (List Host.Cell)} (d : Dev) (k : Nat) (f : Core → Core) (h_d : d.InvAt N G M) : (Dev.coreMod d k f).InvAt N G M := by
  unfold Dev.coreMod
  try dsimp only
  repeat' first
    | with_reducible assumption
    | simp only [↓Dev.inv_mk]
    | (split <;> (try dsimp only))
    | intro _

theorem Dev.coreRelease_inv {N G : Nat} {M : Option (List Host.Cell)} (d : Dev) (k : Nat) (h_d : d.InvAt N G M) : (Dev.coreRelease d k).InvAt N G M := by
  unfold Dev.coreRelease
  try dsimp only
  repeat' first
    | with_reducible assumption
    | with_reducible apply Dev.coreMod_inv
    | simp only [↓Dev.inv_mk]
    | (split <;> (try dsimp only))
    | intro _

theorem Dev.endgameEnter_inv {N G : Nat} {M : Option (List Host.Cell)} (d : Dev) (cause : Nat) (h_d : d.InvAt N G M) : (Dev.endgameEnter d cause).InvAt N G M := by
  unfold Dev.endgameEnter
  try dsimp only
  repeat' first
    | with_reducible assumption
    | with_reducible apply List.foldl_inv
    | with_reducible apply List.foldl_inv2
    | with_reducible apply Dev.checkUpdate_inv
    | with_reducible apply Dev.rstAssert_inv
    | with_reducible apply Dev.linksDown_inv
    | with_reducible apply Dev.coolShow_inv
    | with_reducible apply Dev.ffr_inv
    | with_reducible apply Dev.emergUpdate_inv
    | simp only [↓Dev.inv_mk]
    | (split <;> (try dsimp only))
    | intro _

theorem Dev.cccDown_inv {N G : Nat} (d : Dev) (c : Nat) (h_d : d.InvAt N G none) : (Dev.cccDown d c).InvAt N G none := by
  unfold Dev.cccDown
  try dsimp only
  repeat' first
    | with_reducible assumption
    | with_reducible apply List.foldl_inv
    | with_reducible apply List.foldl_inv2
    | with_reducible apply Dev.tilesStop_inv
    | with_reducible apply Dev.slMod_inv
    | with_reducible apply Dev.rerun_inv
    | with_reducible apply Dev.wr_inv
    | with_reducible apply Dev.slotFree_inv
    | with_reducible apply hf
    | simp only [↓Dev.inv_mk]
    | (split <;> (try dsimp only))
    | intro _

theorem Dev.cccBack_inv {N G : Nat} (d : Dev) (c : Nat) (h_d : d.InvAt N G none) : (Dev.cccBack d c).InvAt N G none := by
  unfold Dev.cccBack
  try dsimp only
  repeat' first
    | with_reducible assumption
    | with_reducible apply List.foldl_inv
    | with_reducible apply List.foldl_inv2
    | with_reducible apply Dev.tileFail_inv
    | with_reducible apply Dev.rerun_inv
    | with_reducible apply Dev.slMod_inv
    | with_reducible apply Dev.slotResume_inv
    | with_reducible apply hf
    | simp only [↓Dev.inv_mk]
    | (split <;> (try dsimp only))
    | intro _

theorem Dev.cccLost_inv {N G : Nat} (d : Dev) (c : Nat) (h_d : d.InvAt N G none) : (Dev.cccLost d c).InvAt N G none := by
  unfold Dev.cccLost
  try dsimp only
  repeat' first
    | with_reducible assumption
    | with_reducible apply List.foldl_inv
    | with_reducible apply List.foldl_inv2
    | with_reducible apply Dev.tileLeave_inv
    | with_reducible apply Dev.tilesLost_inv
    | with_reducible apply Dev.wrBit_inv
    | with_reducible apply Dev.noReserve_inv
    | with_reducible apply Dev.loadsShow_inv
    | with_reducible apply hf
    | simp only [↓Dev.inv_mk]
    | (split <;> (try dsimp only))
    | intro _

theorem Dev.pmcDown_inv {N G : Nat} {M : Option (List Host.Cell)} (d : Dev) (h_d : d.InvAt N G M) : (Dev.pmcDown d).InvAt N G M := by
  unfold Dev.pmcDown
  try dsimp only
  repeat' first
    | with_reducible assumption
    | with_reducible apply List.foldl_inv
    | with_reducible apply List.foldl_inv2
    | with_reducible apply Dev.complete_inv
    | with_reducible apply Dev.loadsShow_inv
    | with_reducible apply Dev.coolWdog_inv
    | with_reducible apply hf
    | simp only [↓Dev.inv_mk]
    | (split <;> (try dsimp only))
    | intro _

theorem Dev.schDown_inv {N G : Nat} (d : Dev) (h_d : d.InvAt N G none) : (Dev.schDown d).InvAt N G none := by
  unfold Dev.schDown
  try dsimp only
  repeat' first
    | with_reducible assumption
    | with_reducible apply List.foldl_inv
    | with_reducible apply List.foldl_inv2
    | with_reducible apply Dev.wr_inv
    | with_reducible apply Dev.vector_inv
    | with_reducible apply Dev.replyHeld_inv
    | with_reducible apply Dev.st_inv
    | with_reducible apply hf
    | simp only [↓Dev.inv_mk]
    | (split <;> (try dsimp only))
    | intro _

end Sys2Proof.Machine
end

