-- ==== Sys2Proof/Laws/InvCooling.lean ====
section
/-! SUPPORT. Every operation of Machine/Cooling.lean keeps the invariant. -/

namespace Sys2Proof.Machine

theorem Dev.coolCommit_inv {N G : Nat} {M : Option (List Host.Cell)} (d : Dev) (h_d : d.InvAt N G M) : (Dev.coolCommit d).InvAt N G M := by
  unfold Dev.coolCommit
  try dsimp only
  repeat' first
    | with_reducible assumption
    | with_reducible apply List.foldl_inv
    | with_reducible apply List.foldl_inv2
    | with_reducible apply Dev.wr_inv
    | with_reducible apply Dev.fanGo_inv
    | with_reducible apply Dev.coolFollow_inv
    | with_reducible apply Dev.readyTry_inv
    | with_reducible apply hf
    | simp only [↓Dev.inv_mk]
    | (split <;> (try dsimp only))
    | intro _

theorem execCoolCommit_keeps {N G : Nat} {M : Option (List Host.Cell)} (by_ : Agent) (s : State) (h_s : s.dev.InvAt N G M) : Res.Keeps N G M s.pending (execCoolCommit by_ s) := by
  apply State.run_keeps
  try dsimp only
  repeat' first
    | with_reducible assumption
    | with_reducible apply Dev.coolCommit_inv
    | with_reducible apply hf
    | simp only [↓Dev.inv_mk]
    | (split <;> (try dsimp only))
    | intro _

theorem execFanWindowStart_keeps {N G : Nat} {M : Option (List Host.Cell)} (n : Fin 18) (s : State) (h_s : s.dev.InvAt N G M) : Res.Keeps N G M s.pending (execFanWindowStart n s) := by
  apply State.run_keeps
  try dsimp only
  repeat' first
    | with_reducible assumption
    | with_reducible apply Dev.fanMod_inv
    | with_reducible apply Dev.coolShow_inv
    | with_reducible apply hf
    | simp only [↓Dev.inv_mk]
    | (split <;> (try dsimp only))
    | intro _

theorem Dev.kickEdge_inv {N G : Nat} {M : Option (List Host.Cell)} (d : Dev) (n : Nat) (h_d : d.InvAt N G M) : (Dev.kickEdge d n).InvAt N G M := by
  unfold Dev.kickEdge
  try dsimp only
  repeat' first
    | with_reducible assumption
    | with_reducible apply Dev.fanMod_inv
    | with_reducible apply Dev.fanGo_inv
    | with_reducible apply Dev.wr_inv
    | with_reducible apply Dev.fanRun_inv
    | simp only [↓Dev.inv_mk]
    | (split <;> (try dsimp only))
    | intro _

theorem Dev.winEdge_inv {N G : Nat} {M : Option (List Host.Cell)} (d : Dev) (n : Nat) (h_d : d.InvAt N G M) : (Dev.winEdge d n).InvAt N G M := by
  unfold Dev.winEdge
  try dsimp only
  repeat' first
    | with_reducible assumption
    | with_reducible apply Dev.fanMod_inv
    | with_reducible apply Dev.fanMeasure_inv
    | simp only [↓Dev.inv_mk]
    | (split <;> (try dsimp only))
    | intro _

theorem execTachEdge_keeps {N G : Nat} {M : Option (List Host.Cell)} (n : Fin 18) (s : State) (h_s : s.dev.InvAt N G M) : Res.Keeps N G M s.pending (execTachEdge n s) := by
  apply State.run_keeps
  try dsimp only
  repeat' first
    | with_reducible assumption
    | with_reducible apply Dev.kickEdge_inv
    | with_reducible apply Dev.winEdge_inv
    | with_reducible apply Dev.coolShow_inv
    | with_reducible apply hf
    | simp only [↓Dev.inv_mk]
    | (split <;> (try dsimp only))
    | intro _

theorem execFanWindowEnd_keeps {N G : Nat} {M : Option (List Host.Cell)} (n : Fin 18) (s : State) (h_s : s.dev.InvAt N G M) : Res.Keeps N G M s.pending (execFanWindowEnd n s) := by
  apply State.run_keeps
  try dsimp only
  repeat' first
    | with_reducible assumption
    | with_reducible apply Dev.fanMeasure_inv
    | with_reducible apply Dev.coolShow_inv
    | with_reducible apply hf
    | simp only [↓Dev.inv_mk]
    | (split <;> (try dsimp only))
    | intro _

theorem Dev.setTarget_inv {N G : Nat} {M : Option (List Host.Cell)} (d : Dev) (n : Nat) (v : Nat) (h_d : d.InvAt N G M) : (Dev.setTarget d n v).InvAt N G M := by
  unfold Dev.setTarget
  try dsimp only
  repeat' first
    | with_reducible assumption
    | with_reducible apply Dev.wr_inv
    | with_reducible apply Dev.coolFollow_inv
    | simp only [↓Dev.inv_mk]
    | (split <;> (try dsimp only))
    | intro _

theorem execFanTargetWrite_keeps {N G : Nat} {M : Option (List Host.Cell)} (n : Fin 18) (rpm : BitVec 16) (s : State) (h_s : s.dev.InvAt N G M) : Res.Keeps N G M s.pending (execFanTargetWrite n rpm s) := by
  apply State.run_keeps
  try dsimp only
  repeat' first
    | with_reducible assumption
    | with_reducible apply Dev.setTarget_inv
    | simp only [↓Dev.inv_mk]
    | (split <;> (try dsimp only))
    | intro _

theorem Dev.kickExpiry_inv {N G : Nat} {M : Option (List Host.Cell)} (d : Dev) (n : Nat) (h_d : d.InvAt N G M) : (Dev.kickExpiry d n).InvAt N G M := by
  unfold Dev.kickExpiry
  try dsimp only
  repeat' first
    | with_reducible assumption
    | with_reducible apply List.foldl_inv
    | with_reducible apply List.foldl_inv2
    | with_reducible apply Dev.wr_inv
    | with_reducible apply Dev.fanGo_inv
    | with_reducible apply Dev.fanJudge_inv
    | simp only [↓Dev.inv_mk]
    | (split <;> (try dsimp only))
    | intro _

theorem execKickExpiry_keeps {N G : Nat} {M : Option (List Host.Cell)} (n : Fin 18) (s : State) (h_s : s.dev.InvAt N G M) : Res.Keeps N G M s.pending (execKickExpiry n s) := by
  apply State.run_keeps
  try dsimp only
  repeat' first
    | with_reducible assumption
    | with_reducible apply Dev.kickExpiry_inv
    | with_reducible apply Dev.coolShow_inv
    | with_reducible apply hf
    | simp only [↓Dev.inv_mk]
    | (split <;> (try dsimp only))
    | intro _

theorem execKickGapEnd_keeps {N G : Nat} {M : Option (List Host.Cell)} (n : Fin 18) (s : State) (h_s : s.dev.InvAt N G M) : Res.Keeps N G M s.pending (execKickGapEnd n s) := by
  apply State.run_keeps
  try dsimp only
  repeat' first
    | with_reducible assumption
    | with_reducible apply Dev.fanKick_inv
    | with_reducible apply Dev.coolShow_inv
    | with_reducible apply hf
    | simp only [↓Dev.inv_mk]
    | (split <;> (try dsimp only))
    | intro _

theorem Dev.fanClear_inv {N G : Nat} {M : Option (List Host.Cell)} (d : Dev) (n : Nat) (h_d : d.InvAt N G M) : (Dev.fanClear d n).InvAt N G M := by
  unfold Dev.fanClear
  try dsimp only
  repeat' first
    | with_reducible assumption
    | with_reducible apply Dev.wr_inv
    | with_reducible apply Dev.fanGo_inv
    | with_reducible apply Dev.coolShow_inv
    | with_reducible apply Dev.coolFollow_inv
    | simp only [↓Dev.inv_mk]
    | (split <;> (try dsimp only))
    | intro _

theorem execFanFailedClear_keeps {N G : Nat} {M : Option (List Host.Cell)} (n : Fin 18) (s : State) (h_s : s.dev.InvAt N G M) : Res.Keeps N G M s.pending (execFanFailedClear n s) := by
  apply State.run_keeps
  try dsimp only
  repeat' first
    | with_reducible assumption
    | with_reducible apply Dev.fanClear_inv
    | simp only [↓Dev.inv_mk]
    | (split <;> (try dsimp only))
    | intro _

theorem execReserveFanTest_keeps {N G : Nat} {M : Option (List Host.Cell)} (r : Fin 2) (s : State) (h_s : s.dev.InvAt N G M) : Res.Keeps N G M s.pending (execReserveFanTest r s) := by
  apply State.run_keeps
  try dsimp only
  repeat' first
    | with_reducible assumption
    | with_reducible apply Dev.fanMod_inv
    | with_reducible apply Dev.fanKick_inv
    | with_reducible apply Dev.coolShow_inv
    | with_reducible apply hf
    | simp only [↓Dev.inv_mk]
    | (split <;> (try dsimp only))
    | intro _

theorem execReserveTestEnd_keeps {N G : Nat} {M : Option (List Host.Cell)} (r : Fin 2) (s : State) (h_s : s.dev.InvAt N G M) : Res.Keeps N G M s.pending (execReserveTestEnd r s) := by
  apply State.run_keeps
  try dsimp only
  repeat' first
    | with_reducible assumption
    | with_reducible apply Dev.fanGo_inv
    | with_reducible apply Dev.fanMod_inv
    | with_reducible apply Dev.coolShow_inv
    | with_reducible apply hf
    | simp only [↓Dev.inv_mk]
    | (split <;> (try dsimp only))
    | intro _

theorem Dev.commStart_inv {N G : Nat} {M : Option (List Host.Cell)} (d : Dev) (n : Nat) (id : Option Nat) (h_d : d.InvAt N G M) : (Dev.commStart d n id).InvAt N G M := by
  unfold Dev.commStart
  try dsimp only
  repeat' first
    | with_reducible assumption
    | with_reducible apply Dev.fanGo_inv
    | with_reducible apply Dev.fanMod_inv
    | with_reducible apply Dev.coolShow_inv
    | simp only [↓Dev.inv_mk]
    | (split <;> (try dsimp only))
    | intro _

theorem execFanCommission_keeps {N G : Nat} {M : Option (List Host.Cell)} (by_ : Agent) (n : Fin 18) (s : State) (h_s : s.dev.InvAt N G M) : Res.Keeps N G M s.pending (execFanCommission by_ n s) := by
  apply State.run_keeps
  try dsimp only
  repeat' first
    | with_reducible assumption
    | with_reducible apply Dev.commStart_inv
    | with_reducible apply hf
    | simp only [↓Dev.inv_mk]
    | (split <;> (try dsimp only))
    | intro _

theorem execCommissionINomMeasured_keeps {N G : Nat} {M : Option (List Host.Cell)} (n : Fin 18) (s : State) (h_s : s.dev.InvAt N G M) : Res.Keeps N G M s.pending (execCommissionINomMeasured n s) := by
  apply State.run_keeps
  try dsimp only
  repeat' first
    | with_reducible assumption
    | with_reducible apply Dev.wr_inv
    | with_reducible apply Dev.fanMod_inv
    | with_reducible apply Dev.coolShow_inv
    | with_reducible apply hf
    | simp only [↓Dev.inv_mk]
    | (split <;> (try dsimp only))
    | intro _

theorem execCommissionTimeout_keeps {N G : Nat} {M : Option (List Host.Cell)} (n : Fin 18) (s : State) (h_s : s.dev.InvAt N G M) : Res.Keeps N G M s.pending (execCommissionTimeout n s) := by
  apply State.run_keeps
  try dsimp only
  repeat' first
    | with_reducible assumption
    | with_reducible apply Dev.commFail_inv
    | with_reducible apply Dev.coolShow_inv
    | with_reducible apply hf
    | simp only [↓Dev.inv_mk]
    | (split <;> (try dsimp only))
    | intro _

theorem Dev.pumpFail_inv {N G : Nat} {M : Option (List Host.Cell)} (d : Dev) (p : Nat) (h_d : d.InvAt N G M) : (Dev.pumpFail d p).InvAt N G M := by
  unfold Dev.pumpFail
  try dsimp only
  repeat' first
    | with_reducible assumption
    | with_reducible apply Dev.wr_inv
    | with_reducible apply Dev.ffr_inv
    | with_reducible apply Dev.event_inv
    | simp only [↓Dev.inv_mk]
    | (split <;> (try dsimp only))
    | intro _

theorem Dev.pumpMeasure_inv {N G : Nat} {M : Option (List Host.Cell)} (d : Dev) (p : Nat) (t : Nat) (h_d : d.InvAt N G M) : (Dev.pumpMeasure d p t).InvAt N G M := by
  unfold Dev.pumpMeasure
  try dsimp only
  repeat' first
    | with_reducible assumption
    | with_reducible apply Dev.pumpMod_inv
    | with_reducible apply Dev.wr_inv
    | with_reducible apply Dev.coolShow_inv
    | with_reducible apply Dev.pumpFail_inv
    | simp only [↓Dev.inv_mk]
    | (split <;> (try dsimp only))
    | intro _

theorem execPumpMeasurement_keeps {N G : Nat} {M : Option (List Host.Cell)} (p : Fin 4) (t : Word) (s : State) (h_s : s.dev.InvAt N G M) : Res.Keeps N G M s.pending (execPumpMeasurement p t s) := by
  apply State.run_keeps
  try dsimp only
  repeat' first
    | with_reducible assumption
    | with_reducible apply Dev.pumpMeasure_inv
    | simp only [↓Dev.inv_mk]
    | (split <;> (try dsimp only))
    | intro _

theorem execPumpTargetWrite_keeps {N G : Nat} {M : Option (List Host.Cell)} (p : Fin 4) (rpm : BitVec 16) (s : State) (h_s : s.dev.InvAt N G M) : Res.Keeps N G M s.pending (execPumpTargetWrite p rpm s) := by
  apply State.run_keeps
  try dsimp only
  repeat' first
    | with_reducible assumption
    | with_reducible apply Dev.pumpMod_inv
    | with_reducible apply Dev.wr_inv
    | with_reducible apply hf
    | simp only [↓Dev.inv_mk]
    | (split <;> (try dsimp only))
    | intro _

theorem Dev.pumpClear_inv {N G : Nat} {M : Option (List Host.Cell)} (d : Dev) (p : Nat) (h_d : d.InvAt N G M) : (Dev.pumpClear d p).InvAt N G M := by
  unfold Dev.pumpClear
  try dsimp only
  repeat' first
    | with_reducible assumption
    | with_reducible apply Dev.wr_inv
    | with_reducible apply Dev.pumpMod_inv
    | with_reducible apply Dev.coolShow_inv
    | simp only [↓Dev.inv_mk]
    | (split <;> (try dsimp only))
    | intro _

theorem execPumpFailedClear_keeps {N G : Nat} {M : Option (List Host.Cell)} (p : Fin 4) (s : State) (h_s : s.dev.InvAt N G M) : Res.Keeps N G M s.pending (execPumpFailedClear p s) := by
  apply State.run_keeps
  try dsimp only
  repeat' first
    | with_reducible assumption
    | with_reducible apply Dev.pumpClear_inv
    | simp only [↓Dev.inv_mk]
    | (split <;> (try dsimp only))
    | intro _

theorem Dev.loopWin_inv {N G : Nat} {M : Option (List Host.Cell)} (d : Dev) (l : Nat) (f : LoopWin → LoopWin) (h_d : d.InvAt N G M) : (Dev.loopWin d l f).InvAt N G M := by
  unfold Dev.loopWin
  try dsimp only
  repeat' first
    | with_reducible assumption
    | with_reducible apply Dev.cloopMod_inv
    | simp only [↓Dev.inv_mk]
    | (split <;> (try dsimp only))
    | intro _

theorem execFlowEdge_keeps {N G : Nat} {M : Option (List Host.Cell)} (l : Fin 4) (s : State) (h_s : s.dev.InvAt N G M) : Res.Keeps N G M s.pending (execFlowEdge l s) := by
  apply State.run_keeps
  try dsimp only
  repeat' first
    | with_reducible assumption
    | with_reducible apply Dev.loopWin_inv
    | with_reducible apply hf
    | simp only [↓Dev.inv_mk]
    | (split <;> (try dsimp only))
    | intro _

theorem Dev.loopEval_inv {N G : Nat} {M : Option (List Host.Cell)} (d : Dev) (l : Nat) (k : Nat) (h_d : d.InvAt N G M) : (Dev.loopEval d l k).InvAt N G M := by
  unfold Dev.loopEval
  try dsimp only
  repeat' first
    | with_reducible assumption
    | with_reducible apply Dev.wr_inv
    | with_reducible apply Dev.cloopMod_inv
    | with_reducible apply Dev.ffr_inv
    | with_reducible apply Dev.event_inv
    | with_reducible apply Dev.mateTrigger_inv
    | simp only [↓Dev.inv_mk]
    | (split <;> (try dsimp only))
    | intro _

theorem execFlowWindowEvaluation_keeps {N G : Nat} {M : Option (List Host.Cell)} (l : Fin 4) (s : State) (h_s : s.dev.InvAt N G M) : Res.Keeps N G M s.pending (execFlowWindowEvaluation l s) := by
  apply State.run_keeps
  try dsimp only
  repeat' first
    | with_reducible assumption
    | with_reducible apply Dev.wr_inv
    | with_reducible apply Dev.loopEval_inv
    | with_reducible apply Dev.cloopMod_inv
    | with_reducible apply Dev.coolShow_inv
    | with_reducible apply hf
    | simp only [↓Dev.inv_mk]
    | (split <;> (try dsimp only))
    | intro _

theorem Dev.loopClear_inv {N G : Nat} {M : Option (List Host.Cell)} (d : Dev) (l : Nat) (h_d : d.InvAt N G M) : (Dev.loopClear d l).InvAt N G M := by
  unfold Dev.loopClear
  try dsimp only
  repeat' first
    | with_reducible assumption
    | with_reducible apply Dev.wr_inv
    | with_reducible apply Dev.mateShow_inv
    | with_reducible apply Dev.coolShow_inv
    | simp only [↓Dev.inv_mk]
    | (split <;> (try dsimp only))
    | intro _

theorem execLoopFaultClear_keeps {N G : Nat} {M : Option (List Host.Cell)} (l : Fin 4) (s : State) (h_s : s.dev.InvAt N G M) : Res.Keeps N G M s.pending (execLoopFaultClear l s) := by
  apply State.run_keeps
  try dsimp only
  repeat' first
    | with_reducible assumption
    | with_reducible apply Dev.loopClear_inv
    | simp only [↓Dev.inv_mk]
    | (split <;> (try dsimp only))
    | intro _

theorem Dev.leakOne_inv {N G : Nat} {M : Option (List Host.Cell)} (d : Dev) (z : Nat) (r : Nat) (h_d : d.InvAt N G M) : (Dev.leakOne d z r).InvAt N G M := by
  unfold Dev.leakOne
  try dsimp only
  repeat' first
    | with_reducible assumption
    | with_reducible apply Dev.wr_inv
    | with_reducible apply Dev.ffr_inv
    | with_reducible apply Dev.event_inv
    | with_reducible apply Dev.mateTrigger_inv
    | simp only [↓Dev.inv_mk]
    | (split <;> (try dsimp only))
    | intro _

theorem execLeakReport_keeps {N G : Nat} {M : Option (List Host.Cell)} (r : List (BitVec 12)) (s : State) (h_s : s.dev.InvAt N G M) : Res.Keeps N G M s.pending (execLeakReport r s) := by
  apply State.run_keeps
  try dsimp only
  repeat' first
    | with_reducible assumption
    | with_reducible apply List.foldl_inv
    | with_reducible apply List.foldl_inv2
    | with_reducible apply Dev.leakOne_inv
    | with_reducible apply hf
    | simp only [↓Dev.inv_mk]
    | (split <;> (try dsimp only))
    | intro _

theorem Dev.leakClear_inv {N G : Nat} {M : Option (List Host.Cell)} (d : Dev) (z : Nat) (h_d : d.InvAt N G M) : (Dev.leakClear d z).InvAt N G M := by
  unfold Dev.leakClear
  try dsimp only
  repeat' first
    | with_reducible assumption
    | with_reducible apply Dev.wr_inv
    | with_reducible apply Dev.mateShow_inv
    | simp only [↓Dev.inv_mk]
    | (split <;> (try dsimp only))
    | intro _

theorem execLeakLatchClear_keeps {N G : Nat} {M : Option (List Host.Cell)} (z : Fin 16) (s : State) (h_s : s.dev.InvAt N G M) : Res.Keeps N G M s.pending (execLeakLatchClear z s) := by
  apply State.run_keeps
  try dsimp only
  repeat' first
    | with_reducible assumption
    | with_reducible apply Dev.leakClear_inv
    | simp only [↓Dev.inv_mk]
    | (split <;> (try dsimp only))
    | intro _

theorem Dev.tdConv_inv {N G : Nat} {M : Option (List Host.Cell)} (d : Dev) (i : Nat) (temp : Nat) (fault : Bool) (h_d : d.InvAt N G M) : (Dev.tdConv d i temp fault).InvAt N G M := by
  unfold Dev.tdConv
  try dsimp only
  repeat' first
    | with_reducible assumption
    | with_reducible apply Dev.wr_inv
    | with_reducible apply Dev.coolShow_inv
    | simp only [↓Dev.inv_mk]
    | (split <;> (try dsimp only))
    | intro _

theorem execTdConversion_keeps {N G : Nat} {M : Option (List Host.Cell)} (i : Fin 32) (temp : BitVec 16) (fault : Bool) (s : State) (h_s : s.dev.InvAt N G M) : Res.Keeps N G M s.pending (execTdConversion i temp fault s) := by
  apply State.run_keeps
  try dsimp only
  repeat' first
    | with_reducible assumption
    | with_reducible apply Dev.tdConv_inv
    | simp only [↓Dev.inv_mk]
    | (split <;> (try dsimp only))
    | intro _

theorem execCoolModeWrite_keeps {N G : Nat} {M : Option (List Host.Cell)} (by_ : Agent) (m : Fin 4) (s : State) (h_s : s.dev.InvAt N G M) : Res.Keeps N G M s.pending (execCoolModeWrite by_ m s) := by
  apply State.run_keeps
  try dsimp only
  repeat' first
    | with_reducible assumption
    | with_reducible apply Dev.modeWrite_inv
    | with_reducible apply hf
    | simp only [↓Dev.inv_mk]
    | (split <;> (try dsimp only))
    | intro _

theorem execCoolModeTimeout_keeps {N G : Nat} {M : Option (List Host.Cell)} (s : State) (h_s : s.dev.InvAt N G M) : Res.Keeps N G M s.pending (execCoolModeTimeout s) := by
  apply State.run_keeps
  try dsimp only
  repeat' first
    | with_reducible assumption
    | with_reducible apply Dev.modeGo_inv
    | with_reducible apply Dev.wr_inv
    | with_reducible apply Dev.coolShow_inv
    | with_reducible apply hf
    | simp only [↓Dev.inv_mk]
    | (split <;> (try dsimp only))
    | intro _

end Sys2Proof.Machine
end

