-- ==== Sys2Proof/Laws/InvSequencer.lean ====
section
/-! SUPPORT. Every operation of Machine/Sequencer.lean keeps the invariant. -/

namespace Sys2Proof.Machine

theorem Dev.sysStart_inv {N G : Nat} {M : Option (List Host.Cell)} (d : Dev) (due : Nat) (h_d : d.InvAt N G M) : (d.sysStart due).InvAt N G M := by
  unfold Dev.sysStart
  exact Dev.coreRelease_inv _ _ (Dev.inv_on d (h := h_d) ..)

theorem Dev.sysTry_inv {N G : Nat} {M : Option (List Host.Cell)} (d : Dev) (h_d : d.InvAt N G M) : (Dev.sysTry d).InvAt N G M := by
  unfold Dev.sysTry
  try dsimp only
  repeat' first
    | with_reducible assumption
    | with_reducible apply Dev.coreLost_inv
    | with_reducible apply Dev.sysStart_inv
    | simp only [↓Dev.inv_mk]
    | (split <;> (try dsimp only))
    | intro _

theorem Dev.seqEnd_inv {N G : Nat} (d : Dev) (h_d : d.InvAt N G none) : (Dev.seqEnd d).InvAt N G none := by
  unfold Dev.seqEnd
  try dsimp only
  repeat' first
    | with_reducible assumption
    | with_reducible apply Dev.seqSettle_inv
    | with_reducible apply Dev.coolFollow_inv
    | with_reducible apply Dev.sysTry_inv
    | with_reducible apply Dev.domDown_inv
    | with_reducible apply Dev.endgameEnter_inv
    | simp only [↓Dev.inv_mk]
    | (split <;> (try dsimp only))
    | intro _

theorem execMatePowerdownStart_keeps {N G : Nat} (s : State) (h_s : s.dev.InvAt N G none) : Res.Keeps N G none s.pending (execMatePowerdownStart s) := by
  apply State.run_keeps
  try dsimp only
  repeat' first
    | with_reducible assumption
    | with_reducible apply Dev.domDown_inv
    | with_reducible apply Dev.seqEnd_inv
    | with_reducible apply hf
    | simp only [↓Dev.inv_mk]
    | (split <;> (try dsimp only))
    | intro _

theorem execMateClear_keeps {N G : Nat} (v : Word) (s : State) (h_s : s.dev.InvAt N G none) : Res.Keeps N G none s.pending (execMateClear v s) := by
  apply State.run_keeps
  try dsimp only
  repeat' first
    | with_reducible assumption
    | with_reducible apply Dev.mateClear_inv
    | with_reducible apply Dev.seqEnd_inv
    | with_reducible apply hf
    | simp only [↓Dev.inv_mk]
    | (split <;> (try dsimp only))
    | intro _

theorem execBringupOn_keeps {N G : Nat} {M : Option (List Host.Cell)} (s : State) (h_s : s.dev.InvAt N G M) : Res.Keeps N G M s.pending (execBringupOn s) := by
  apply State.run_keeps
  try dsimp only
  repeat' first
    | with_reducible assumption
    | with_reducible apply hf
    | simp only [↓Dev.inv_mk]
    | (split <;> (try dsimp only))
    | intro _

theorem execCrystalStable_keeps {N G : Nat} {M : Option (List Host.Cell)} (s : State) (h_s : s.dev.InvAt N G M) : Res.Keeps N G M s.pending (execCrystalStable s) := by
  apply State.run_keeps
  try dsimp only
  repeat' first
    | with_reducible assumption
    | with_reducible apply hf
    | simp only [↓Dev.inv_mk]
    | (split <;> (try dsimp only))
    | intro _

theorem execCrystalStartTimeout_keeps {N G : Nat} {M : Option (List Host.Cell)} (s : State) (h_s : s.dev.InvAt N G M) : Res.Keeps N G M s.pending (execCrystalStartTimeout s) := by
  apply State.run_keeps
  try dsimp only
  repeat' first
    | with_reducible assumption
    | with_reducible apply Dev.wr_inv
    | with_reducible apply hf
    | simp only [↓Dev.inv_mk]
    | (split <;> (try dsimp only))
    | intro _

theorem Dev.startTry_inv {N G : Nat} {M : Option (List Host.Cell)} (d : Dev) (h_d : d.InvAt N G M) : (Dev.startTry d).InvAt N G M := by
  unfold Dev.startTry
  try dsimp only
  repeat' first
    | with_reducible assumption
    | with_reducible apply Dev.hswStart_inv
    | simp only [↓Dev.inv_mk]
    | (split <;> (try dsimp only))
    | intro _

theorem execStartPermitted_keeps {N G : Nat} {M : Option (List Host.Cell)} (s : State) (h_s : s.dev.InvAt N G M) : Res.Keeps N G M s.pending (execStartPermitted s) := by
  apply State.run_keeps
  try dsimp only
  repeat' first
    | with_reducible assumption
    | with_reducible apply Dev.startTry_inv
    | simp only [↓Dev.inv_mk]
    | (split <;> (try dsimp only))
    | intro _

theorem execHotswapFault_keeps {N G : Nat} (cause : HswCause) (s : State) (h_s : s.dev.InvAt N G none) : Res.Keeps N G none s.pending (execHotswapFault cause s) := by
  apply State.run_keeps
  try dsimp only
  repeat' first
    | with_reducible assumption
    | with_reducible apply Dev.hswFault_inv
    | with_reducible apply Dev.seqEnd_inv
    | with_reducible apply hf
    | simp only [↓Dev.inv_mk]
    | (split <;> (try dsimp only))
    | intro _

theorem execHswOn_keeps {N G : Nat} (s : State) (h_s : s.dev.InvAt N G none) : Res.Keeps N G none s.pending (execHswOn s) := by
  apply State.run_keeps
  try dsimp only
  repeat' first
    | with_reducible assumption
    | with_reducible apply Dev.hswGo_inv
    | with_reducible apply Dev.seqEnd_inv
    | with_reducible apply hf
    | simp only [↓Dev.inv_mk]
    | (split <;> (try dsimp only))
    | intro _

theorem execHswLimitEntry_keeps {N G : Nat} {M : Option (List Host.Cell)} (s : State) (h_s : s.dev.InvAt N G M) : Res.Keeps N G M s.pending (execHswLimitEntry s) := by
  apply State.run_keeps
  try dsimp only
  repeat' first
    | with_reducible assumption
    | with_reducible apply Dev.wr_inv
    | with_reducible apply Dev.emergUpdate_inv
    | with_reducible apply hf
    | simp only [↓Dev.inv_mk]
    | (split <;> (try dsimp only))
    | intro _

theorem execHswLimitExit_keeps {N G : Nat} {M : Option (List Host.Cell)} (s : State) (h_s : s.dev.InvAt N G M) : Res.Keeps N G M s.pending (execHswLimitExit s) := by
  apply State.run_keeps
  try dsimp only
  repeat' first
    | with_reducible assumption
    | with_reducible apply Dev.wr_inv
    | with_reducible apply Dev.emergUpdate_inv
    | with_reducible apply hf
    | simp only [↓Dev.inv_mk]
    | (split <;> (try dsimp only))
    | intro _

theorem Dev.soaSet_inv {N G : Nat} {M : Option (List Host.Cell)} (d : Dev) (e : Nat) (h_d : d.InvAt N G M) : (Dev.soaSet d e).InvAt N G M := by
  unfold Dev.soaSet
  try dsimp only
  repeat' first
    | with_reducible assumption
    | with_reducible apply Dev.wr_inv
    | simp only [↓Dev.inv_mk]
    | (split <;> (try dsimp only))
    | intro _

theorem Dev.soaTick_inv {N G : Nat} (d : Dev) (vds : Nat) (vs : Nat) (h_d : d.InvAt N G none) : (Dev.soaTick d vds vs).InvAt N G none := by
  unfold Dev.soaTick
  try dsimp only
  repeat' first
    | with_reducible assumption
    | with_reducible apply Dev.soaSet_inv
    | with_reducible apply Dev.hswFault_inv
    | with_reducible apply Dev.seqEnd_inv
    | simp only [↓Dev.inv_mk]
    | (split <;> (try dsimp only))
    | intro _

theorem execSoaIntegrate_keeps {N G : Nat} (vds : BitVec 17) (vs : BitVec 27) (s : State) (h_s : s.dev.InvAt N G none) : Res.Keeps N G none s.pending (execSoaIntegrate vds vs s) := by
  apply State.run_keeps
  try dsimp only
  repeat' first
    | with_reducible assumption
    | with_reducible apply Dev.soaTick_inv
    | simp only [↓Dev.inv_mk]
    | (split <;> (try dsimp only))
    | intro _

theorem execHswCoolEnd_keeps {N G : Nat} {M : Option (List Host.Cell)} (s : State) (h_s : s.dev.InvAt N G M) : Res.Keeps N G M s.pending (execHswCoolEnd s) := by
  apply State.run_keeps
  try dsimp only
  repeat' first
    | with_reducible assumption
    | with_reducible apply Dev.hswGo_inv
    | with_reducible apply hf
    | simp only [↓Dev.inv_mk]
    | (split <;> (try dsimp only))
    | intro _

theorem execUvFault_keeps {N G : Nat} (s : State) (h_s : s.dev.InvAt N G none) : Res.Keeps N G none s.pending (execUvFault s) := by
  apply State.run_keeps
  try dsimp only
  repeat' first
    | with_reducible assumption
    | with_reducible apply Dev.wr_inv
    | with_reducible apply Dev.domDown_inv
    | with_reducible apply Dev.seqEnd_inv
    | with_reducible apply Dev.emergUpdate_inv
    | with_reducible apply hf
    | simp only [↓Dev.inv_mk]
    | (split <;> (try dsimp only))
    | intro _

theorem execUvRestore_keeps {N G : Nat} (s : State) (h_s : s.dev.InvAt N G none) : Res.Keeps N G none s.pending (execUvRestore s) := by
  apply State.run_keeps
  try dsimp only
  repeat' first
    | with_reducible assumption
    | with_reducible apply Dev.seqEnd_inv
    | with_reducible apply hf
    | simp only [↓Dev.inv_mk]
    | (split <;> (try dsimp only))
    | intro _

theorem Dev.seqCommit_inv {N G : Nat} (d : Dev) (h_d : d.InvAt N G none) : (Dev.seqCommit d).InvAt N G none := by
  unfold Dev.seqCommit
  try dsimp only
  repeat' first
    | with_reducible assumption
    | with_reducible apply List.foldl_inv
    | with_reducible apply List.foldl_inv2
    | with_reducible apply Dev.wrBit_inv
    | with_reducible apply Dev.wr_inv
    | with_reducible apply Dev.seqEnd_inv
    | with_reducible apply Dev.readyTry_inv
    | with_reducible apply hf
    | simp only [↓Dev.inv_mk]
    | (split <;> (try dsimp only))
    | intro _

theorem execSeqCommit_keeps {N G : Nat} (by_ : Agent) (s : State) (h_s : s.dev.InvAt N G none) : Res.Keeps N G none s.pending (execSeqCommit by_ s) := by
  apply State.run_keeps
  try dsimp only
  repeat' first
    | with_reducible assumption
    | with_reducible apply Dev.seqCommit_inv
    | with_reducible apply hf
    | simp only [↓Dev.inv_mk]
    | (split <;> (try dsimp only))
    | intro _

theorem Dev.domRequest_inv {N G : Nat} (d : Dev) (k : Nat) (on : Bool) (h_d : d.InvAt N G none) : (Dev.domRequest d k on).InvAt N G none := by
  unfold Dev.domRequest
  try dsimp only
  repeat' first
    | with_reducible assumption
    | with_reducible apply Dev.wrBit_inv
    | with_reducible apply Dev.seqEnd_inv
    | with_reducible apply Dev.domDown_inv
    | simp only [↓Dev.inv_mk]
    | (split <;> (try dsimp only))
    | intro _

theorem execDomainRequest_keeps {N G : Nat} (dom : Fin 16) (on : Bool) (s : State) (h_s : s.dev.InvAt N G none) : Res.Keeps N G none s.pending (execDomainRequest dom on s) := by
  apply State.run_keeps
  try dsimp only
  repeat' first
    | with_reducible assumption
    | with_reducible apply Dev.domRequest_inv
    | simp only [↓Dev.inv_mk]
    | (split <;> (try dsimp only))
    | intro _

theorem Dev.railEnable_inv {N G : Nat} {M : Option (List Host.Cell)} (d : Dev) (n : Nat) (h_d : d.InvAt N G M) : (Dev.railEnable d n).InvAt N G M := by
  unfold Dev.railEnable
  try dsimp only
  repeat' first
    | with_reducible assumption
    | with_reducible apply Dev.railEn_inv
    | with_reducible apply Dev.railGo_inv
    | with_reducible apply Dev.wr_inv
    | with_reducible apply Dev.rlTMod_inv
    | simp only [↓Dev.inv_mk]
    | (split <;> (try dsimp only))
    | intro _

theorem execDelayOnExpiry_keeps {N G : Nat} (n : Fin 96) (s : State) (h_s : s.dev.InvAt N G none) : Res.Keeps N G none s.pending (execDelayOnExpiry n s) := by
  apply State.run_keeps
  try dsimp only
  repeat' first
    | with_reducible assumption
    | with_reducible apply List.foldl_inv
    | with_reducible apply List.foldl_inv2
    | with_reducible apply Dev.railEnable_inv
    | with_reducible apply Dev.seqEnd_inv
    | with_reducible apply hf
    | simp only [↓Dev.inv_mk]
    | (split <;> (try dsimp only))
    | intro _

theorem Dev.pgChange_inv {N G : Nat} {M : Option (List Host.Cell)} (d : Dev) (n : Nat) (good : Bool) (h_d : d.InvAt N G M) : (Dev.pgChange d n good).InvAt N G M := by
  unfold Dev.pgChange
  try dsimp only
  repeat' first
    | with_reducible assumption
    | with_reducible apply Dev.st_inv
    | with_reducible apply Dev.wr_inv
    | with_reducible apply Dev.rlTMod_inv
    | with_reducible apply Dev.railGo_inv
    | with_reducible apply Dev.inc_inv
    | with_reducible apply Dev.railFail_inv
    | simp only [↓Dev.inv_mk]
    | (split <;> (try dsimp only))
    | intro _

theorem execPowerGoodChange_keeps {N G : Nat} (n : Fin 96) (good : Bool) (s : State) (h_s : s.dev.InvAt N G none) : Res.Keeps N G none s.pending (execPowerGoodChange n good s) := by
  apply State.run_keeps
  try dsimp only
  repeat' first
    | with_reducible assumption
    | with_reducible apply Dev.pgChange_inv
    | with_reducible apply Dev.seqEnd_inv
    | with_reducible apply hf
    | simp only [↓Dev.inv_mk]
    | (split <;> (try dsimp only))
    | intro _

theorem execQualComplete_keeps {N G : Nat} (n : Fin 96) (s : State) (h_s : s.dev.InvAt N G none) : Res.Keeps N G none s.pending (execQualComplete n s) := by
  apply State.run_keeps
  try dsimp only
  repeat' first
    | with_reducible assumption
    | with_reducible apply Dev.railGo_inv
    | with_reducible apply Dev.seqEnd_inv
    | with_reducible apply hf
    | simp only [↓Dev.inv_mk]
    | (split <;> (try dsimp only))
    | intro _

theorem execRampTimeout_keeps {N G : Nat} (n : Fin 96) (s : State) (h_s : s.dev.InvAt N G none) : Res.Keeps N G none s.pending (execRampTimeout n s) := by
  apply State.run_keeps
  try dsimp only
  repeat' first
    | with_reducible assumption
    | with_reducible apply Dev.railFail_inv
    | with_reducible apply Dev.seqEnd_inv
    | with_reducible apply hf
    | simp only [↓Dev.inv_mk]
    | (split <;> (try dsimp only))
    | intro _

theorem execQualTimeout_keeps {N G : Nat} (n : Fin 96) (s : State) (h_s : s.dev.InvAt N G none) : Res.Keeps N G none s.pending (execQualTimeout n s) := by
  apply State.run_keeps
  try dsimp only
  repeat' first
    | with_reducible assumption
    | with_reducible apply Dev.railGo_inv
    | with_reducible apply Dev.railFail_inv
    | with_reducible apply Dev.seqEnd_inv
    | with_reducible apply hf
    | simp only [↓Dev.inv_mk]
    | (split <;> (try dsimp only))
    | intro _

theorem execDrainComplete_keeps {N G : Nat} (n : Fin 96) (s : State) (h_s : s.dev.InvAt N G none) : Res.Keeps N G none s.pending (execDrainComplete n s) := by
  apply State.run_keeps
  try dsimp only
  repeat' first
    | with_reducible assumption
    | with_reducible apply Dev.railFall_inv
    | with_reducible apply Dev.seqEnd_inv
    | with_reducible apply hf
    | simp only [↓Dev.inv_mk]
    | (split <;> (try dsimp only))
    | intro _

theorem execFallTimeout_keeps {N G : Nat} (n : Fin 96) (s : State) (h_s : s.dev.InvAt N G none) : Res.Keeps N G none s.pending (execFallTimeout n s) := by
  apply State.run_keeps
  try dsimp only
  repeat' first
    | with_reducible assumption
    | with_reducible apply Dev.railFail_inv
    | with_reducible apply Dev.seqEnd_inv
    | with_reducible apply hf
    | simp only [↓Dev.inv_mk]
    | (split <;> (try dsimp only))
    | intro _

theorem Dev.railClear_inv {N G : Nat} {M : Option (List Host.Cell)} (d : Dev) (n : Nat) (h_d : d.InvAt N G M) : (Dev.railClear d n).InvAt N G M := by
  unfold Dev.railClear
  try dsimp only
  repeat' first
    | with_reducible assumption
    | with_reducible apply Dev.wr_inv
    | with_reducible apply Dev.railGo_inv
    | simp only [↓Dev.inv_mk]
    | (split <;> (try dsimp only))
    | intro _

theorem execRailFailedClear_keeps {N G : Nat} (n : Fin 96) (s : State) (h_s : s.dev.InvAt N G none) : Res.Keeps N G none s.pending (execRailFailedClear n s) := by
  apply State.run_keeps
  try dsimp only
  repeat' first
    | with_reducible assumption
    | with_reducible apply Dev.railClear_inv
    | with_reducible apply Dev.seqEnd_inv
    | with_reducible apply hf
    | simp only [↓Dev.inv_mk]
    | (split <;> (try dsimp only))
    | intro _

theorem execPrsntRemoved_keeps {N G : Nat} (a : Fin 8) (s : State) (h_s : s.dev.InvAt N G none) : Res.Keeps N G none s.pending (execPrsntRemoved a s) := by
  apply State.run_keeps
  try dsimp only
  repeat' first
    | with_reducible assumption
    | with_reducible apply Dev.domDown_inv
    | with_reducible apply Dev.seqEnd_inv
    | with_reducible apply hf
    | simp only [↓Dev.inv_mk]
    | (split <;> (try dsimp only))
    | intro _

theorem execPrsntQualified_keeps {N G : Nat} (a : Fin 8) (s : State) (h_s : s.dev.InvAt N G none) : Res.Keeps N G none s.pending (execPrsntQualified a s) := by
  apply State.run_keeps
  try dsimp only
  repeat' first
    | with_reducible assumption
    | with_reducible apply Dev.seqEnd_inv
    | with_reducible apply hf
    | simp only [↓Dev.inv_mk]
    | (split <;> (try dsimp only))
    | intro _

theorem execResetStretchDone_keeps {N G : Nat} {M : Option (List Host.Cell)} (k : Fin 16) (s : State) (h_s : s.dev.InvAt N G M) : Res.Keeps N G M s.pending (execResetStretchDone k s) := by
  apply State.run_keeps
  try dsimp only
  repeat' first
    | with_reducible assumption
    | with_reducible apply Dev.rstRelease_inv
    | simp only [↓Dev.inv_mk]
    | (split <;> (try dsimp only))
    | intro _

theorem Dev.rstHold_inv {N G : Nat} {M : Option (List Host.Cell)} (d : Dev) (hold : Nat) (h_d : d.InvAt N G M) : (Dev.rstHold d hold).InvAt N G M := by
  unfold Dev.rstHold
  try dsimp only
  repeat' first
    | with_reducible assumption
    | with_reducible apply List.foldl_inv
    | with_reducible apply List.foldl_inv2
    | with_reducible apply Dev.hold_inv
    | with_reducible apply Dev.rstAssert_inv
    | with_reducible apply Dev.rstRelease_inv
    | with_reducible apply Dev.wr_inv
    | with_reducible apply hf
    | simp only [↓Dev.inv_mk]
    | (split <;> (try dsimp only))
    | intro _

theorem execRstHoldWrite_keeps {N G : Nat} {M : Option (List Host.Cell)} (hold : BitVec 16) (s : State) (h_s : s.dev.InvAt N G M) : Res.Keeps N G M s.pending (execRstHoldWrite hold s) := by
  apply State.run_keeps
  try dsimp only
  repeat' first
    | with_reducible assumption
    | with_reducible apply Dev.rstHold_inv
    | with_reducible apply Dev.hold_inv
    | simp only [↓Dev.inv_mk]
    | (split <;> (try dsimp only))
    | intro _

theorem execSelfRailRetry_keeps {N G : Nat} (s : State) (h_s : s.dev.InvAt N G none) : Res.Keeps N G none s.pending (execSelfRailRetry s) := by
  apply State.run_keeps
  try dsimp only
  repeat' first
    | with_reducible assumption
    | with_reducible apply List.foldl_inv
    | with_reducible apply List.foldl_inv2
    | with_reducible apply Dev.railClear_inv
    | with_reducible apply Dev.domGo_inv
    | with_reducible apply Dev.seqEnd_inv
    | with_reducible apply hf
    | simp only [↓Dev.inv_mk]
    | (split <;> (try dsimp only))
    | intro _

theorem execColdRestartDelay_keeps {N G : Nat} {M : Option (List Host.Cell)} (s : State) (h_s : s.dev.InvAt N G M) : Res.Keeps N G M s.pending (execColdRestartDelay s) := by
  apply State.run_keeps
  try dsimp only
  repeat' first
    | with_reducible assumption
    | with_reducible apply Dev.startTry_inv
    | with_reducible apply hf
    | simp only [↓Dev.inv_mk]
    | (split <;> (try dsimp only))
    | intro _

end Sys2Proof.Machine
end

