-- ==== Sys2Proof/Laws/InvFaults.lean ====
section
/-! SUPPORT. Every operation of Machine/Faults.lean keeps the invariant. -/

namespace Sys2Proof.Machine

theorem execHbmSoftRepair_keeps {N G : Nat} {M : Option (List Host.Cell)} (row : Word) (room : Bool) (s : State) (h_s : s.dev.InvAt N G M) : Res.Keeps N G M s.pending (execHbmSoftRepair row room s) := by
  apply State.run_keeps
  try dsimp only
  repeat' first
    | with_reducible assumption
    | with_reducible apply Dev.ffr_inv
    | with_reducible apply hf
    | simp only [↓Dev.inv_mk]
    | (split <;> (try dsimp only))
    | intro _

theorem Dev.suspectSet_inv {N G : Nat} {M : Option (List Host.Cell)} (d : Dev) (k : Nat) (bad : Bool) (h_d : d.InvAt N G M) : (Dev.suspectSet d k bad).InvAt N G M := by
  unfold Dev.suspectSet
  try dsimp only
  repeat' first
    | with_reducible assumption
    | simp only [↓Dev.inv_mk]
    | (split <;> (try dsimp only))
    | intro _

theorem Dev.convFail_inv {N G : Nat} {M : Option (List Host.Cell)} (d : Dev) (k : Nat) (h_d : d.InvAt N G M) : (Dev.convFail d k).InvAt N G M := by
  unfold Dev.convFail
  try dsimp only
  repeat' first
    | with_reducible assumption
    | with_reducible apply Dev.wrBit_inv
    | with_reducible apply Dev.ffr_inv
    | with_reducible apply Dev.wr_inv
    | simp only [↓Dev.inv_mk]
    | (split <;> (try dsimp only))
    | intro _

theorem Dev.adcScan_inv {N G : Nat} {M : Option (List Host.Cell)} (d : Dev) (refs : List Nat) (spare : Nat) (h_d : d.InvAt N G M) : (Dev.adcScan d refs spare).InvAt N G M := by
  unfold Dev.adcScan
  try dsimp only
  repeat' first
    | with_reducible assumption
    | with_reducible apply List.foldl_inv
    | with_reducible apply List.foldl_inv2
    | with_reducible apply Dev.wr_inv
    | with_reducible apply Dev.suspectSet_inv
    | with_reducible apply Dev.ffr_inv
    | with_reducible apply Dev.convFail_inv
    | with_reducible apply hf
    | simp only [↓Dev.inv_mk]
    | (split <;> (try dsimp only))
    | intro _

theorem execAdcScan_keeps {N G : Nat} {M : Option (List Host.Cell)} (r0 : BitVec 16) (r1 : BitVec 16) (r2 : BitVec 16) (r3 : BitVec 16) (spare : BitVec 16) (s : State) (h_s : s.dev.InvAt N G M) : Res.Keeps N G M s.pending (execAdcScan r0 r1 r2 r3 spare s) := by
  apply State.run_keeps
  try dsimp only
  repeat' first
    | with_reducible assumption
    | with_reducible apply Dev.adcScan_inv
    | simp only [↓Dev.inv_mk]
    | (split <;> (try dsimp only))
    | intro _

theorem Dev.railSample_inv {N G : Nat} {M : Option (List Host.Cell)} (d : Dev) (n : Nat) (mv : Nat) (h_d : d.InvAt N G M) : (Dev.railSample d n mv).InvAt N G M := by
  unfold Dev.railSample
  try dsimp only
  repeat' first
    | with_reducible assumption
    | with_reducible apply Dev.st_inv
    | with_reducible apply Dev.railFail_inv
    | with_reducible apply Dev.rlTMod_inv
    | with_reducible apply Dev.pgChange_inv
    | simp only [↓Dev.inv_mk]
    | (split <;> (try dsimp only))
    | intro _

theorem Dev.fanCurrent_inv {N G : Nat} {M : Option (List Host.Cell)} (d : Dev) (n : Nat) (t : Nat) (ma : Nat) (h_d : d.InvAt N G M) : (Dev.fanCurrent d n t ma).InvAt N G M := by
  unfold Dev.fanCurrent
  try dsimp only
  repeat' first
    | with_reducible assumption
    | with_reducible apply Dev.fanMod_inv
    | simp only [↓Dev.inv_mk]
    | (split <;> (try dsimp only))
    | intro _

theorem Dev.loopPress_inv {N G : Nat} {M : Option (List Host.Cell)} (d : Dev) (l : Nat) (t : Nat) (mv : Nat) (h_d : d.InvAt N G M) : (Dev.loopPress d l t mv).InvAt N G M := by
  unfold Dev.loopPress
  try dsimp only
  repeat' first
    | with_reducible assumption
    | with_reducible apply Dev.cloopMod_inv
    | simp only [↓Dev.inv_mk]
    | (split <;> (try dsimp only))
    | intro _

theorem Dev.adcSample_inv {N G : Nat} (d : Dev) (ch : Nat) (code : Nat) (h_d : d.InvAt N G none) : (Dev.adcSample d ch code).InvAt N G none := by
  unfold Dev.adcSample
  try dsimp only
  repeat' first
    | with_reducible assumption
    | with_reducible apply List.foldl_inv
    | with_reducible apply List.foldl_inv2
    | with_reducible apply Dev.wr_inv
    | with_reducible apply Dev.fanCurrent_inv
    | with_reducible apply Dev.loopPress_inv
    | with_reducible apply Dev.railSample_inv
    | with_reducible apply Dev.seqEnd_inv
    | with_reducible apply hf
    | simp only [↓Dev.inv_mk]
    | (split <;> (try dsimp only))
    | intro _

theorem execAdcSample_keeps {N G : Nat} (ch : Fin 128) (code : BitVec 16) (s : State) (h_s : s.dev.InvAt N G none) : Res.Keeps N G none s.pending (execAdcSample ch code s) := by
  apply State.run_keeps
  try dsimp only
  repeat' first
    | with_reducible assumption
    | with_reducible apply Dev.adcSample_inv
    | simp only [↓Dev.inv_mk]
    | (split <;> (try dsimp only))
    | intro _

theorem Dev.chkFail_inv {N G : Nat} {M : Option (List Host.Cell)} (d : Dev) (h_d : d.InvAt N G M) : (Dev.chkFail d).InvAt N G M := by
  unfold Dev.chkFail
  try dsimp only
  repeat' first
    | with_reducible assumption
    | with_reducible apply Dev.wr_inv
    | with_reducible apply Dev.checkUpdate_inv
    | with_reducible apply Dev.forAcc_inv
    | with_reducible apply Dev.sendCheck_inv
    | with_reducible apply Dev.ffr_inv
    | with_reducible apply Dev.emergUpdate_inv
    | simp only [↓Dev.inv_mk]
    | (split <;> (try dsimp only))
    | intro _

theorem execChkOscFailure_keeps {N G : Nat} {M : Option (List Host.Cell)} (s : State) (h_s : s.dev.InvAt N G M) : Res.Keeps N G M s.pending (execChkOscFailure s) := by
  apply State.run_keeps
  try dsimp only
  repeat' first
    | with_reducible assumption
    | with_reducible apply Dev.chkFail_inv
    | simp only [↓Dev.inv_mk]
    | (split <;> (try dsimp only))
    | intro _

end Sys2Proof.Machine
end

