-- ==== Sys2Proof/Laws/InvLedger.lean ====
section
/-! SUPPORT. Every operation of Machine/Ledger.lean keeps the invariant. -/

namespace Sys2Proof.Machine

theorem Dev.clockPut_inv {N G : Nat} {M : Option (List Host.Cell)} (d : Dev) (c : Nat) (x : Clock) (h_d : d.InvAt N G M) : (Dev.clockPut d c x).InvAt N G M := by
  unfold Dev.clockPut
  try dsimp only
  repeat' first
    | with_reducible assumption
    | simp only [↓Dev.inv_mk]
    | (split <;> (try dsimp only))
    | intro _

theorem Dev.ledgerPair_inv {N G : Nat} {M : Option (List Host.Cell)} (d : Dev) (a : Nat) (q : Nat) (work : Int) (filler : Int) (h_d : d.InvAt N G M) : (Dev.ledgerPair d a q work filler).InvAt N G M := by
  unfold Dev.ledgerPair
  try dsimp only
  repeat' first
    | with_reducible assumption
    | with_reducible apply Dev.clockPut_inv
    | simp only [↓Dev.inv_mk]
    | (split <;> (try dsimp only))
    | intro _

theorem Dev.ledgerFrame_inv {N G : Nat} {M : Option (List Host.Cell)} (d : Dev) (f : FrameDone) (h_d : d.InvAt N G M) : (Dev.ledgerFrame d f).InvAt N G M := by
  unfold Dev.ledgerFrame
  try dsimp only
  repeat' first
    | with_reducible assumption
    | with_reducible apply List.foldl_inv
    | with_reducible apply List.foldl_inv2
    | with_reducible apply Dev.ledgerPair_inv
    | with_reducible apply Dev.clockPut_inv
    | with_reducible apply Dev.frame_inv
    | with_reducible apply hf
    | simp only [↓Dev.inv_mk]
    | (split <;> (try dsimp only))
    | intro _

theorem Dev.clkApply_inv {N G : Nat} {M : Option (List Host.Cell)} (d : Dev) (b : Nat) (o : ClkOp) (h_d : d.InvAt N G M) : (Dev.clkApply d b o).2.InvAt N G M := by
  unfold Dev.clkApply
  try dsimp only
  repeat' first
    | with_reducible assumption
    | with_reducible apply Dev.st_inv
    | with_reducible apply Dev.clockPut_inv
    | with_reducible apply Dev.free_inv
    | simp only [↓Dev.inv_mk]
    | (split <;> (try dsimp only))
    | intro _

theorem Dev.clkFlush_inv {N G : Nat} (d : Dev) (b : Nat) (h_d : d.InvAt N G none) : (Dev.clkFlush d b).InvAt N G none := by
  unfold Dev.clkFlush
  try dsimp only
  repeat' first
    | with_reducible assumption
    | with_reducible apply List.foldl_inv
    | with_reducible apply List.foldl_inv2
    | with_reducible apply Dev.clkApply_inv
    | with_reducible apply Dev.replyHeld_inv
    | with_reducible apply hf
    | simp only [↓Dev.inv_mk]
    | (split <;> (try dsimp only))
    | intro _

theorem Dev.ledgerEnd_inv {N G : Nat} (d : Dev) (h_d : d.InvAt N G none) : (Dev.ledgerEnd d).InvAt N G none := by
  unfold Dev.ledgerEnd
  try dsimp only
  repeat' first
    | with_reducible assumption
    | with_reducible apply Dev.frameRoll_inv
    | with_reducible apply Dev.ledgerFrame_inv
    | with_reducible apply Dev.clkFlush_inv
    | with_reducible apply Dev.tlmPurge_inv
    | simp only [↓Dev.inv_mk]
    | (split <;> (try dsimp only))
    | intro _

theorem execLedgerFrameEnd_keeps {N G : Nat} (s : State) (h_s : s.dev.InvAt N G none) : Res.Keeps N G none s.pending (execLedgerFrameEnd s) := by
  apply State.run_keeps
  try dsimp only
  repeat' first
    | with_reducible assumption
    | with_reducible apply Dev.ledgerEnd_inv
    | with_reducible apply hf
    | simp only [↓Dev.inv_mk]
    | (split <;> (try dsimp only))
    | intro _

end Sys2Proof.Machine
end

