-- ==== Sys2Proof/Laws/InvMbxPower.lean ====
section
/-! SUPPORT. Every operation of Machine/MbxPower.lean keeps the invariant. -/

namespace Sys2Proof.Machine

theorem opSetTrayCap_inv {N G : Nat} {M : Option (List Host.Cell)}  (d : Dev) (q : MbxReq) (h_d : d.InvAt N G M) : ((opSetTrayCap).body d q).2.InvAt N G M := by
  unfold opSetTrayCap
  try dsimp only
  repeat' first
    | with_reducible assumption
    | with_reducible apply Dev.setCap_inv
    | with_reducible apply hf
    | simp only [↓Dev.inv_mk]
    | (split <;> (try dsimp only))
    | intro _

theorem execSetTrayCap_keeps {N G : Nat} (q : MbxReq) (s : State) (h_s : s.dev.InvAt N G none) : Res.Keeps N G none s.pending (execSetTrayCap q s) := by
  exact MbxOp.run_keeps _ q s h_s fun d r h_d => opSetTrayCap_inv  d r h_d

theorem opGetPower_inv {N G : Nat} {M : Option (List Host.Cell)}  (d : Dev) (q : MbxReq) (h_d : d.InvAt N G M) : ((opGetPower).body d q).2.InvAt N G M := by
  unfold opGetPower
  try dsimp only
  repeat' first
    | with_reducible assumption
    | with_reducible apply hf
    | simp only [↓Dev.inv_mk]
    | (split <;> (try dsimp only))
    | intro _

theorem execGetPower_keeps {N G : Nat} (q : MbxReq) (s : State) (h_s : s.dev.InvAt N G none) : Res.Keeps N G none s.pending (execGetPower q s) := by
  exact MbxOp.run_keeps _ q s h_s fun d r h_d => opGetPower_inv  d r h_d

theorem opSetStaticBudgets_inv {N G : Nat} {M : Option (List Host.Cell)}  (d : Dev) (q : MbxReq) (h_d : d.InvAt N G M) : ((opSetStaticBudgets).body d q).2.InvAt N G M := by
  unfold opSetStaticBudgets
  try dsimp only
  repeat' first
    | with_reducible assumption
    | with_reducible apply Dev.forAcc_inv
    | with_reducible apply Dev.pwPut_inv
    | with_reducible apply Dev.propose_inv
    | with_reducible apply hf
    | simp only [↓Dev.inv_mk]
    | (split <;> (try dsimp only))
    | intro _

theorem execSetStaticBudgets_keeps {N G : Nat} (q : MbxReq) (s : State) (h_s : s.dev.InvAt N G none) : Res.Keeps N G none s.pending (execSetStaticBudgets q s) := by
  exact MbxOp.run_keeps _ q s h_s fun d r h_d => opSetStaticBudgets_inv  d r h_d

theorem opSetAccMax_inv {N G : Nat} {M : Option (List Host.Cell)}  (d : Dev) (q : MbxReq) (h_d : d.InvAt N G M) : ((opSetAccMax).body d q).2.InvAt N G M := by
  unfold opSetAccMax
  try dsimp only
  repeat' first
    | with_reducible assumption
    | with_reducible apply Dev.forAcc_inv
    | with_reducible apply Dev.pwPut_inv
    | with_reducible apply hf
    | simp only [↓Dev.inv_mk]
    | (split <;> (try dsimp only))
    | intro _

theorem execSetAccMax_keeps {N G : Nat} (q : MbxReq) (s : State) (h_s : s.dev.InvAt N G none) : Res.Keeps N G none s.pending (execSetAccMax q s) := by
  exact MbxOp.run_keeps _ q s h_s fun d r h_d => opSetAccMax_inv  d r h_d

theorem opSetCheckForce_inv {N G : Nat} {M : Option (List Host.Cell)}  (d : Dev) (q : MbxReq) (h_d : d.InvAt N G M) : ((opSetCheckForce).body d q).2.InvAt N G M := by
  unfold opSetCheckForce
  try dsimp only
  repeat' first
    | with_reducible assumption
    | with_reducible apply Dev.wr_inv
    | with_reducible apply Dev.checkSettle_inv
    | with_reducible apply hf
    | simp only [↓Dev.inv_mk]
    | (split <;> (try dsimp only))
    | intro _

theorem execSetCheckForce_keeps {N G : Nat} (q : MbxReq) (s : State) (h_s : s.dev.InvAt N G none) : Res.Keeps N G none s.pending (execSetCheckForce q s) := by
  exact MbxOp.run_keeps _ q s h_s fun d r h_d => opSetCheckForce_inv  d r h_d

theorem opClearCheckLatch_inv {N G : Nat} {M : Option (List Host.Cell)}  (d : Dev) (q : MbxReq) (h_d : d.InvAt N G M) : ((opClearCheckLatch).body d q).2.InvAt N G M := by
  unfold opClearCheckLatch
  try dsimp only
  repeat' first
    | with_reducible assumption
    | with_reducible apply Dev.latchClear_inv
    | with_reducible apply hf
    | simp only [↓Dev.inv_mk]
    | (split <;> (try dsimp only))
    | intro _

theorem execClearCheckLatch_keeps {N G : Nat} (q : MbxReq) (s : State) (h_s : s.dev.InvAt N G none) : Res.Keeps N G none s.pending (execClearCheckLatch q s) := by
  exact MbxOp.run_keeps _ q s h_s fun d r h_d => opClearCheckLatch_inv  d r h_d

theorem opClearMate_inv {N G : Nat}  (d : Dev) (q : MbxReq) (h_d : d.InvAt N G none) : ((opClearMate).body d q).2.InvAt N G none := by
  unfold opClearMate
  try dsimp only
  repeat' first
    | with_reducible assumption
    | with_reducible apply Dev.mateClear_inv
    | with_reducible apply Dev.seqEnd_inv
    | with_reducible apply hf
    | simp only [↓Dev.inv_mk]
    | (split <;> (try dsimp only))
    | intro _

theorem execClearMate_keeps {N G : Nat} (q : MbxReq) (s : State) (h_s : s.dev.InvAt N G none) : Res.Keeps N G none s.pending (execClearMate q s) := by
  exact MbxOp.run_keeps _ q s h_s fun d r h_d => opClearMate_inv  d r h_d

theorem opSetShaping_inv {N G : Nat} {M : Option (List Host.Cell)}  (d : Dev) (q : MbxReq) (h_d : d.InvAt N G M) : ((opSetShaping).body d q).2.InvAt N G M := by
  unfold opSetShaping
  try dsimp only
  repeat' first
    | with_reducible assumption
    | with_reducible apply Dev.wr_inv
    | with_reducible apply hf
    | simp only [↓Dev.inv_mk]
    | (split <;> (try dsimp only))
    | intro _

theorem execSetShaping_keeps {N G : Nat} (q : MbxReq) (s : State) (h_s : s.dev.InvAt N G none) : Res.Keeps N G none s.pending (execSetShaping q s) := by
  exact MbxOp.run_keeps _ q s h_s fun d r h_d => opSetShaping_inv  d r h_d

theorem Dev.clkHold_inv {N G : Nat} {M : Option (List Host.Cell)} (d : Dev) (q : MbxReq) (op : Nat) (o : ClkOp) (h_d : d.InvAt N G M) : (Dev.clkHold d q op o).2.InvAt N G M := by
  unfold Dev.clkHold
  try dsimp only
  repeat' first
    | with_reducible assumption
    | with_reducible apply Dev.hold_inv
    | with_reducible apply Dev.st_inv
    | simp only [↓Dev.inv_mk]
    | (split <;> (try dsimp only))
    | intro _

theorem opClockOpen_inv {N G : Nat} {M : Option (List Host.Cell)}  (d : Dev) (q : MbxReq) (h_d : d.InvAt N G M) : ((opClockOpen).body d q).2.InvAt N G M := by
  unfold opClockOpen
  try dsimp only
  repeat' first
    | with_reducible assumption
    | with_reducible apply Dev.clkHold_inv
    | with_reducible apply hf
    | simp only [↓Dev.inv_mk]
    | (split <;> (try dsimp only))
    | intro _

theorem opClockBind_inv {N G : Nat} {M : Option (List Host.Cell)}  (d : Dev) (q : MbxReq) (h_d : d.InvAt N G M) : ((opClockBind).body d q).2.InvAt N G M := by
  unfold opClockBind
  try dsimp only
  repeat' first
    | with_reducible assumption
    | with_reducible apply Dev.clkHold_inv
    | with_reducible apply hf
    | simp only [↓Dev.inv_mk]
    | (split <;> (try dsimp only))
    | intro _

theorem opClockUnbind_inv {N G : Nat} {M : Option (List Host.Cell)}  (d : Dev) (q : MbxReq) (h_d : d.InvAt N G M) : ((opClockUnbind).body d q).2.InvAt N G M := by
  unfold opClockUnbind
  try dsimp only
  repeat' first
    | with_reducible assumption
    | with_reducible apply Dev.clkHold_inv
    | with_reducible apply hf
    | simp only [↓Dev.inv_mk]
    | (split <;> (try dsimp only))
    | intro _

theorem opClockClose_inv {N G : Nat} {M : Option (List Host.Cell)}  (d : Dev) (q : MbxReq) (h_d : d.InvAt N G M) : ((opClockClose).body d q).2.InvAt N G M := by
  unfold opClockClose
  try dsimp only
  repeat' first
    | with_reducible assumption
    | with_reducible apply Dev.clkHold_inv
    | with_reducible apply hf
    | simp only [↓Dev.inv_mk]
    | (split <;> (try dsimp only))
    | intro _

theorem opClockFree_inv {N G : Nat} {M : Option (List Host.Cell)}  (d : Dev) (q : MbxReq) (h_d : d.InvAt N G M) : ((opClockFree).body d q).2.InvAt N G M := by
  unfold opClockFree
  try dsimp only
  repeat' first
    | with_reducible assumption
    | with_reducible apply Dev.clkHold_inv
    | with_reducible apply Dev.free_inv
    | with_reducible apply hf
    | simp only [↓Dev.inv_mk]
    | (split <;> (try dsimp only))
    | intro _

theorem execClockOpen_keeps {N G : Nat} (q : MbxReq) (s : State) (h_s : s.dev.InvAt N G none) : Res.Keeps N G none s.pending (execClockOpen q s) := by
  exact MbxOp.run_keeps _ q s h_s fun d r h_d => opClockOpen_inv  d r h_d

theorem execClockBind_keeps {N G : Nat} (q : MbxReq) (s : State) (h_s : s.dev.InvAt N G none) : Res.Keeps N G none s.pending (execClockBind q s) := by
  exact MbxOp.run_keeps _ q s h_s fun d r h_d => opClockBind_inv  d r h_d

theorem execClockUnbind_keeps {N G : Nat} (q : MbxReq) (s : State) (h_s : s.dev.InvAt N G none) : Res.Keeps N G none s.pending (execClockUnbind q s) := by
  exact MbxOp.run_keeps _ q s h_s fun d r h_d => opClockUnbind_inv  d r h_d

theorem execClockClose_keeps {N G : Nat} (q : MbxReq) (s : State) (h_s : s.dev.InvAt N G none) : Res.Keeps N G none s.pending (execClockClose q s) := by
  exact MbxOp.run_keeps _ q s h_s fun d r h_d => opClockClose_inv  d r h_d

theorem execClockFree_keeps {N G : Nat} (q : MbxReq) (s : State) (h_s : s.dev.InvAt N G none) : Res.Keeps N G none s.pending (execClockFree q s) := by
  exact MbxOp.run_keeps _ q s h_s fun d r h_d => opClockFree_inv  d r h_d

theorem opClockRead_inv {N G : Nat} {M : Option (List Host.Cell)}  (d : Dev) (q : MbxReq) (h_d : d.InvAt N G M) : ((opClockRead).body d q).2.InvAt N G M := by
  unfold opClockRead
  try dsimp only
  repeat' first
    | with_reducible assumption
    | with_reducible apply Dev.st_inv
    | with_reducible apply hf
    | simp only [↓Dev.inv_mk]
    | (split <;> (try dsimp only))
    | intro _

theorem execClockRead_keeps {N G : Nat} (q : MbxReq) (s : State) (h_s : s.dev.InvAt N G none) : Res.Keeps N G none s.pending (execClockRead q s) := by
  exact MbxOp.run_keeps _ q s h_s fun d r h_d => opClockRead_inv  d r h_d

theorem opAddTokens_inv {N G : Nat} {M : Option (List Host.Cell)}  (d : Dev) (q : MbxReq) (h_d : d.InvAt N G M) : ((opAddTokens).body d q).2.InvAt N G M := by
  unfold opAddTokens
  try dsimp only
  repeat' first
    | with_reducible assumption
    | with_reducible apply Dev.st_inv
    | with_reducible apply Dev.clockPut_inv
    | with_reducible apply hf
    | simp only [↓Dev.inv_mk]
    | (split <;> (try dsimp only))
    | intro _

theorem execAddTokens_keeps {N G : Nat} (q : MbxReq) (s : State) (h_s : s.dev.InvAt N G none) : Res.Keeps N G none s.pending (execAddTokens q s) := by
  exact MbxOp.run_keeps _ q s h_s fun d r h_d => opAddTokens_inv  d r h_d

theorem opSignStatement_inv {N G : Nat} {M : Option (List Host.Cell)}  (d : Dev) (q : MbxReq) (h_d : d.InvAt N G M) : ((opSignStatement).body d q).2.InvAt N G M := by
  unfold opSignStatement
  try dsimp only
  repeat' first
    | with_reducible assumption
    | with_reducible apply Dev.st_inv
    | with_reducible apply hf
    | simp only [↓Dev.inv_mk]
    | (split <;> (try dsimp only))
    | intro _

theorem execSignStatement_keeps {N G : Nat} (q : MbxReq) (s : State) (h_s : s.dev.InvAt N G none) : Res.Keeps N G none s.pending (execSignStatement q s) := by
  exact MbxOp.run_keeps _ q s h_s fun d r h_d => opSignStatement_inv  d r h_d

end Sys2Proof.Machine
end

