-- ==== Sys2Proof/Laws/InvMbxTray.lean ====
section
/-! SUPPORT. Every operation of Machine/MbxTray.lean keeps the invariant. -/

namespace Sys2Proof.Machine

theorem opDomainSet_inv {N G : Nat} (on : Nat) (d : Dev) (q : MbxReq) (h_d : d.InvAt N G none) : ((opDomainSet on).body d q).2.InvAt N G none := by
  unfold opDomainSet
  try dsimp only
  repeat' first
    | with_reducible assumption
    | with_reducible apply List.foldl_inv
    | with_reducible apply List.foldl_inv2
    | with_reducible apply Dev.domRequest_inv
    | with_reducible apply hf
    | simp only [↓Dev.inv_mk]
    | (split <;> (try dsimp only))
    | intro _

theorem execDomainSet_keeps {N G : Nat} (q : MbxReq) (s : State) (h_s : s.dev.InvAt N G none) : Res.Keeps N G none s.pending (execDomainSet q s) := by
  exact MbxOp.run_keeps _ q s h_s fun d r h_d => opDomainSet_inv (pf q.pay 0 2) d r h_d

theorem opGetSeq_inv {N G : Nat} {M : Option (List Host.Cell)}  (d : Dev) (q : MbxReq) (h_d : d.InvAt N G M) : ((opGetSeq).body d q).2.InvAt N G M := by
  unfold opGetSeq
  try dsimp only
  repeat' first
    | with_reducible assumption
    | with_reducible apply hf
    | simp only [↓Dev.inv_mk]
    | (split <;> (try dsimp only))
    | intro _

theorem execGetSeq_keeps {N G : Nat} (q : MbxReq) (s : State) (h_s : s.dev.InvAt N G none) : Res.Keeps N G none s.pending (execGetSeq q s) := by
  exact MbxOp.run_keeps _ q s h_s fun d r h_d => opGetSeq_inv  d r h_d

theorem opRailClear_inv {N G : Nat}  (d : Dev) (q : MbxReq) (h_d : d.InvAt N G none) : ((opRailClear).body d q).2.InvAt N G none := by
  unfold opRailClear
  try dsimp only
  repeat' first
    | with_reducible assumption
    | with_reducible apply Dev.railClear_inv
    | with_reducible apply Dev.seqEnd_inv
    | with_reducible apply hf
    | simp only [↓Dev.inv_mk]
    | (split <;> (try dsimp only))
    | intro _

theorem execRailClear_keeps {N G : Nat} (q : MbxReq) (s : State) (h_s : s.dev.InvAt N G none) : Res.Keeps N G none s.pending (execRailClear q s) := by
  exact MbxOp.run_keeps _ q s h_s fun d r h_d => opRailClear_inv  d r h_d

theorem opResetHold_inv {N G : Nat} {M : Option (List Host.Cell)}  (d : Dev) (q : MbxReq) (h_d : d.InvAt N G M) : ((opResetHold).body d q).2.InvAt N G M := by
  unfold opResetHold
  try dsimp only
  repeat' first
    | with_reducible assumption
    | with_reducible apply Dev.rstHold_inv
    | with_reducible apply hf
    | simp only [↓Dev.inv_mk]
    | (split <;> (try dsimp only))
    | intro _

theorem execResetHold_keeps {N G : Nat} (q : MbxReq) (s : State) (h_s : s.dev.InvAt N G none) : Res.Keeps N G none s.pending (execResetHold q s) := by
  exact MbxOp.run_keeps _ q s h_s fun d r h_d => opResetHold_inv  d r h_d

theorem opGetCooling_inv {N G : Nat} {M : Option (List Host.Cell)}  (d : Dev) (q : MbxReq) (h_d : d.InvAt N G M) : ((opGetCooling).body d q).2.InvAt N G M := by
  unfold opGetCooling
  try dsimp only
  repeat' first
    | with_reducible assumption
    | with_reducible apply hf
    | simp only [↓Dev.inv_mk]
    | (split <;> (try dsimp only))
    | intro _

theorem execGetCooling_keeps {N G : Nat} (q : MbxReq) (s : State) (h_s : s.dev.InvAt N G none) : Res.Keeps N G none s.pending (execGetCooling q s) := by
  exact MbxOp.run_keeps _ q s h_s fun d r h_d => opGetCooling_inv  d r h_d

theorem opSetZoneFloor_inv {N G : Nat} {M : Option (List Host.Cell)}  (d : Dev) (q : MbxReq) (h_d : d.InvAt N G M) : ((opSetZoneFloor).body d q).2.InvAt N G M := by
  unfold opSetZoneFloor
  try dsimp only
  repeat' first
    | with_reducible assumption
    | with_reducible apply List.foldl_inv
    | with_reducible apply List.foldl_inv2
    | with_reducible apply hf
    | simp only [↓Dev.inv_mk]
    | (split <;> (try dsimp only))
    | intro _

theorem execSetZoneFloor_keeps {N G : Nat} (q : MbxReq) (s : State) (h_s : s.dev.InvAt N G none) : Res.Keeps N G none s.pending (execSetZoneFloor q s) := by
  exact MbxOp.run_keeps _ q s h_s fun d r h_d => opSetZoneFloor_inv  d r h_d

theorem opSetCoolMode_inv {N G : Nat} {M : Option (List Host.Cell)}  (d : Dev) (q : MbxReq) (h_d : d.InvAt N G M) : ((opSetCoolMode).body d q).2.InvAt N G M := by
  unfold opSetCoolMode
  try dsimp only
  repeat' first
    | with_reducible assumption
    | with_reducible apply Dev.modeWrite_inv
    | with_reducible apply hf
    | simp only [↓Dev.inv_mk]
    | (split <;> (try dsimp only))
    | intro _

theorem execSetCoolMode_keeps {N G : Nat} (q : MbxReq) (s : State) (h_s : s.dev.InvAt N G none) : Res.Keeps N G none s.pending (execSetCoolMode q s) := by
  exact MbxOp.run_keeps _ q s h_s fun d r h_d => opSetCoolMode_inv  d r h_d

theorem opCommissionFan_inv {N G : Nat} {M : Option (List Host.Cell)}  (d : Dev) (q : MbxReq) (h_d : d.InvAt N G M) : ((opCommissionFan).body d q).2.InvAt N G M := by
  unfold opCommissionFan
  try dsimp only
  repeat' first
    | with_reducible assumption
    | with_reducible apply Dev.accepting_inv
    | with_reducible apply Dev.wr_inv
    | with_reducible apply Dev.commStart_inv
    | with_reducible apply hf
    | simp only [↓Dev.inv_mk]
    | (split <;> (try dsimp only))
    | intro _

theorem execCommissionFan_keeps {N G : Nat} (q : MbxReq) (s : State) (h_s : s.dev.InvAt N G none) : Res.Keeps N G none s.pending (execCommissionFan q s) := by
  exact MbxOp.run_keeps _ q s h_s fun d r h_d => opCommissionFan_inv  d r h_d

theorem Dev.coolClear_inv {N G : Nat} {M : Option (List Host.Cell)} (d : Dev) (kind : Nat) (i : Nat) (h_d : d.InvAt N G M) : (Dev.coolClear d kind i).2.InvAt N G M := by
  unfold Dev.coolClear
  try dsimp only
  repeat' first
    | with_reducible assumption
    | with_reducible apply Dev.fanClear_inv
    | with_reducible apply Dev.pumpClear_inv
    | with_reducible apply Dev.loopClear_inv
    | with_reducible apply Dev.leakClear_inv
    | simp only [↓Dev.inv_mk]
    | (split <;> (try dsimp only))
    | intro _

theorem opClearCoolFault_inv {N G : Nat} {M : Option (List Host.Cell)}  (d : Dev) (q : MbxReq) (h_d : d.InvAt N G M) : ((opClearCoolFault).body d q).2.InvAt N G M := by
  unfold opClearCoolFault
  try dsimp only
  repeat' first
    | with_reducible assumption
    | with_reducible apply Dev.coolClear_inv
    | with_reducible apply hf
    | simp only [↓Dev.inv_mk]
    | (split <;> (try dsimp only))
    | intro _

theorem execClearCoolFault_keeps {N G : Nat} (q : MbxReq) (s : State) (h_s : s.dev.InvAt N G none) : Res.Keeps N G none s.pending (execClearCoolFault q s) := by
  exact MbxOp.run_keeps _ q s h_s fun d r h_d => opClearCoolFault_inv  d r h_d

end Sys2Proof.Machine
end

