-- ==== Sys2Proof/Laws/InvRegOps.lean ====
section
/-! SUPPORT. Every operation of Machine/RegOps.lean keeps the invariant. -/

namespace Sys2Proof.Machine

theorem Dev.regAfter_inv {N G : Nat} {M : Option (List Host.Cell)} (d : Dev) (a : Nat) (h_d : d.InvAt N G M) : (Dev.regAfter d a).InvAt N G M := by
  unfold Dev.regAfter
  try dsimp only
  repeat' first
    | with_reducible assumption
    | with_reducible apply Dev.showAvail_inv
    | with_reducible apply Dev.feasUpdate_inv
    | with_reducible apply Dev.emergUpdate_inv
    | with_reducible apply Dev.cqWatch_inv
    | with_reducible apply Dev.segShow_inv
    | with_reducible apply Dev.checkSettle_inv
    | simp only [↓Dev.inv_mk]
    | (split <;> (try dsimp only))
    | intro _

theorem Dev.regWrite_inv {N G : Nat} (d : Dev) (firmware : Bool) (a : Nat) (v : Nat) (h_d : d.InvAt N G none) : (Dev.regWrite d firmware a v).InvAt N G none := by
  unfold Dev.regWrite
  try dsimp only
  repeat' first
    | with_reducible assumption
    | with_reducible apply List.foldl_inv
    | with_reducible apply List.foldl_inv2
    | with_reducible apply Dev.put_inv
    | with_reducible apply Dev.ffr_inv
    | with_reducible apply Dev.oroEn_inv
    | with_reducible apply Dev.wrw_inv
    | with_reducible apply Dev.regAfter_inv
    | simp only [↓Dev.inv_mk]
    | (split <;> (try dsimp only))
    | intro _

theorem Dev.msixWrite_inv {N G : Nat} {M : Option (List Host.Cell)} (d : Dev) (o : Nat) (v : Nat) (h_d : d.InvAt N G M) : (Dev.msixWrite d o v).InvAt N G M := by
  unfold Dev.msixWrite
  try dsimp only
  repeat' first
    | with_reducible assumption
    | with_reducible apply Dev.emit_inv
    | simp only [↓Dev.inv_mk]
    | (split <;> (try dsimp only))
    | intro _

theorem Dev.w0Write_inv {N G : Nat} (d : Dev) (x : Agent) (a : Nat) (w : Width) (v : Nat) (h_d : d.InvAt N G none) : (Dev.w0Write d x a w v).InvAt N G none := by
  unfold Dev.w0Write
  try dsimp only
  repeat' first
    | with_reducible assumption
    | with_reducible apply Dev.wr_inv
    | with_reducible apply Dev.stn_inv
    | with_reducible apply Dev.ffr_inv
    | with_reducible apply Dev.msixWrite_inv
    | with_reducible apply Dev.regWrite_inv
    | with_reducible apply hf
    | simp only [↓Dev.inv_mk]
    | (split <;> (try dsimp only))
    | intro _

theorem execRegisterWrite_keeps {N G : Nat} (by_ : Agent) (a : BitVec 28) (w : Width) (v : DWord) (s : State) (h_s : s.dev.InvAt N G none) : Res.Keeps N G none s.pending (execRegisterWrite by_ a w v s) := by
  apply State.run_keeps
  try dsimp only
  repeat' first
    | with_reducible assumption
    | with_reducible apply Dev.w0Write_inv
    | simp only [↓Dev.inv_mk]
    | (split <;> (try dsimp only))
    | intro _

theorem Dev.counterClear_inv {N G : Nat} {M : Option (List Host.Cell)} (d : Dev) (a : Nat) (h_d : d.InvAt N G M) : (Dev.counterClear d a).InvAt N G M := by
  unfold Dev.counterClear
  try dsimp only
  repeat' first
    | with_reducible assumption
    | with_reducible apply List.foldl_inv
    | with_reducible apply List.foldl_inv2
    | with_reducible apply Dev.wr_inv
    | with_reducible apply hf
    | simp only [↓Dev.inv_mk]
    | (split <;> (try dsimp only))
    | intro _

theorem execCounterClearWrite_keeps {N G : Nat} {M : Option (List Host.Cell)} (by_ : Agent) (a : BitVec 28) (s : State) (h_s : s.dev.InvAt N G M) : Res.Keeps N G M s.pending (execCounterClearWrite by_ a s) := by
  apply State.run_keeps
  try dsimp only
  repeat' first
    | with_reducible assumption
    | with_reducible apply Dev.counterClear_inv
    | with_reducible apply hf
    | simp only [↓Dev.inv_mk]
    | (split <;> (try dsimp only))
    | intro _

theorem execSetWriteLock_keeps {N G : Nat} {M : Option (List Host.Cell)} (by_ : Agent) (s : State) (h_s : s.dev.InvAt N G M) : Res.Keeps N G M s.pending (execSetWriteLock by_ s) := by
  apply State.run_keeps
  try dsimp only
  repeat' first
    | with_reducible assumption
    | with_reducible apply Dev.wr_inv
    | with_reducible apply hf
    | simp only [↓Dev.inv_mk]
    | (split <;> (try dsimp only))
    | intro _

theorem execCounterLowRead_keeps {N G : Nat} {M : Option (List Host.Cell)} (by_ : Agent) (a : BitVec 28) (s : State) (h_s : s.dev.InvAt N G M) : Res.Keeps N G M s.pending (execCounterLowRead by_ a s) := by
  apply State.run_keeps
  try dsimp only
  repeat' first
    | with_reducible assumption
    | with_reducible apply Dev.emit_inv
    | with_reducible apply hf
    | simp only [↓Dev.inv_mk]
    | (split <;> (try dsimp only))
    | intro _

theorem execWideFieldLowWrite_keeps {N G : Nat} {M : Option (List Host.Cell)} (by_ : Agent) (a : BitVec 28) (v : Word) (s : State) (h_s : s.dev.InvAt N G M) : Res.Keeps N G M s.pending (execWideFieldLowWrite by_ a v s) := by
  apply State.run_keeps
  try dsimp only
  repeat' first
    | with_reducible assumption
    | with_reducible apply hf
    | simp only [↓Dev.inv_mk]
    | (split <;> (try dsimp only))
    | intro _

theorem execWideFieldHighWrite_keeps {N G : Nat} {M : Option (List Host.Cell)} (by_ : Agent) (a : BitVec 28) (v : Word) (s : State) (h_s : s.dev.InvAt N G M) : Res.Keeps N G M s.pending (execWideFieldHighWrite by_ a v s) := by
  apply State.run_keeps
  try dsimp only
  repeat' first
    | with_reducible assumption
    | with_reducible apply Dev.wrw_inv
    | with_reducible apply hf
    | simp only [↓Dev.inv_mk]
    | (split <;> (try dsimp only))
    | intro _

theorem execHvBridgeTransfer_keeps {N G : Nat} {M : Option (List Host.Cell)} (ch : Fin 138) (crcOk : Bool) (s : State) (h_s : s.dev.InvAt N G M) : Res.Keeps N G M s.pending (execHvBridgeTransfer ch crcOk s) := by
  apply State.run_keeps
  try dsimp only
  repeat' first
    | with_reducible assumption
    | with_reducible apply Dev.inc_inv
    | with_reducible apply hf
    | simp only [↓Dev.inv_mk]
    | (split <;> (try dsimp only))
    | intro _

theorem execCrystalLoss_keeps {N G : Nat} {M : Option (List Host.Cell)} (s : State) (h_s : s.dev.InvAt N G M) : Res.Keeps N G M s.pending (execCrystalLoss s) := by
  apply State.run_keeps
  try dsimp only
  repeat' first
    | with_reducible assumption
    | with_reducible apply Dev.wr_inv
    | with_reducible apply Dev.ffr_inv
    | with_reducible apply hf
    | simp only [↓Dev.inv_mk]
    | (split <;> (try dsimp only))
    | intro _

theorem Dev.bankFail_inv {N G : Nat} {M : Option (List Host.Cell)} (d : Dev) (m : EccMem) (b : Nat) (h_d : d.InvAt N G M) : (Dev.bankFail d m b).InvAt N G M := by
  unfold Dev.bankFail
  try dsimp only
  repeat' first
    | with_reducible assumption
    | with_reducible apply Dev.ffr_inv
    | simp only [↓Dev.inv_mk]
    | (split <;> (try dsimp only))
    | intro _

theorem Dev.bankError_inv {N G : Nat} {M : Option (List Host.Cell)} (d : Dev) (m : EccMem) (w : Nat) (ue : Bool) (h_d : d.InvAt N G M) : (Dev.bankError d m w ue).InvAt N G M := by
  unfold Dev.bankError
  try dsimp only
  repeat' first
    | with_reducible assumption
    | with_reducible apply Dev.put_inv
    | with_reducible apply Dev.bankFail_inv
    | with_reducible apply Dev.ffr_inv
    | simp only [↓Dev.inv_mk]
    | (split <;> (try dsimp only))
    | intro _

theorem Dev.eccOwner_inv {N G : Nat} {M : Option (List Host.Cell)} (d : Dev) (m : EccMem) (w : Nat) (ue : Bool) (h_d : d.InvAt N G M) : (Dev.eccOwner d m w ue).InvAt N G M := by
  unfold Dev.eccOwner
  try dsimp only
  repeat' first
    | with_reducible assumption
    | with_reducible apply Dev.inc_inv
    | with_reducible apply Dev.wr_inv
    | with_reducible apply Dev.tlMod_inv
    | with_reducible apply Dev.objPoisoned_inv
    | simp only [↓Dev.inv_mk]
    | (split <;> (try dsimp only))
    | intro _

theorem Dev.eccPut_inv {N G : Nat} (d : Dev) (p : Option (Space × Nat)) (m : EccMem) (w raw : Nat) (h_d : d.InvAt N G none) : (d.eccPut p m w raw).InvAt N G none := by
  unfold Dev.eccPut
  split
  · exact h_d.setMem (memPuts_wf _ _ _ h_d.mem)
  · split
    · simp only [↓Dev.inv_mk]; exact h_d
    · split
      · exact h_d
      · simp only [↓Dev.inv_mk]; exact h_d

theorem Dev.eccRaw_inv {N G : Nat} (d : Dev) (m : EccMem) (w : Nat) (raw : Nat) (h_d : d.InvAt N G none) : (Dev.eccRaw d m w raw).InvAt N G none := by
  unfold Dev.eccRaw
  try dsimp only
  repeat' first
    | with_reducible assumption
    | with_reducible apply Dev.eccPut_inv
    | simp only [↓Dev.inv_mk]
    | (split <;> (try dsimp only))
    | intro _

theorem Dev.wbQueue_inv {N G : Nat} {M : Option (List Host.Cell)} (d : Dev) (key : Nat) (poison : Bool) (h_d : d.InvAt N G M) : (Dev.wbQueue d key poison).InvAt N G M := by
  unfold Dev.wbQueue
  try dsimp only
  repeat' first
    | with_reducible assumption
    | simp only [↓Dev.inv_mk]
    | (split <;> (try dsimp only))
    | intro _

theorem Dev.eccDrawn_inv {N G : Nat} {M : Option (List Host.Cell)} (d : Dev) (m : EccMem) (h_d : d.InvAt N G M) : (d.eccDrawn m).InvAt N G M := by
  unfold Dev.eccDrawn
  split
  · simp only [↓Dev.inv_mk]; exact h_d
  · exact h_d

theorem Dev.eccRead_inv {N G : Nat} (d : Dev) (m : EccMem) (w : Nat) (r : EccResult) (h_d : d.InvAt N G none) : (Dev.eccRead d m w r).2.InvAt N G none := by
  unfold Dev.eccRead
  try dsimp only
  repeat' first
    | with_reducible assumption
    | with_reducible apply Dev.eccDrawn_inv
    | with_reducible apply Dev.st_inv
    | with_reducible apply Dev.inc_inv
    | with_reducible apply Dev.wbQueue_inv
    | with_reducible apply Dev.eccOwner_inv
    | with_reducible apply Dev.bankError_inv
    | with_reducible apply Dev.wr_inv
    | with_reducible apply Dev.eccRaw_inv
    | simp only [↓Dev.inv_mk]
    | (split <;> (try dsimp only))
    | intro _

theorem execCodeWordRead_keeps {N G : Nat} (m : EccMem) (w : BitVec 31) (r : EccResult) (s : State) (h_s : s.dev.InvAt N G none) : Res.Keeps N G none s.pending (execCodeWordRead m w r s) := by
  apply State.run_keeps
  try dsimp only
  repeat' first
    | with_reducible assumption
    | with_reducible apply Dev.eccRead_inv
    | with_reducible apply Dev.emit_inv
    | with_reducible apply hf
    | simp only [↓Dev.inv_mk]
    | (split <;> (try dsimp only))
    | intro _

theorem Dev.eccWriteback_inv {N G : Nat} {M : Option (List Host.Cell)} (d : Dev) (m : EccMem) (w : Nat) (h_d : d.InvAt N G M) : (Dev.eccWriteback d m w).InvAt N G M := by
  unfold Dev.eccWriteback
  try dsimp only
  repeat' first
    | with_reducible assumption
    | with_reducible apply Dev.dropWb_inv
    | with_reducible apply Dev.setPoison_inv
    | with_reducible apply Dev.objPut_inv
    | simp only [↓Dev.inv_mk]
    | (split <;> (try dsimp only))
    | intro _

theorem execEccWriteback_keeps {N G : Nat} {M : Option (List Host.Cell)} (m : EccMem) (w : BitVec 31) (s : State) (h_s : s.dev.InvAt N G M) : Res.Keeps N G M s.pending (execEccWriteback m w s) := by
  apply State.run_keeps
  try dsimp only
  repeat' first
    | with_reducible assumption
    | with_reducible apply Dev.eccWriteback_inv
    | with_reducible apply hf
    | simp only [↓Dev.inv_mk]
    | (split <;> (try dsimp only))
    | intro _

theorem execPatrolScrub_keeps {N G : Nat} (m : EccMem) (w : BitVec 31) (r : EccResult) (s : State) (h_s : s.dev.InvAt N G none) : Res.Keeps N G none s.pending (execPatrolScrub m w r s) := by
  apply State.run_keeps
  try dsimp only
  repeat' first
    | with_reducible assumption
    | with_reducible apply Dev.eccRead_inv
    | with_reducible apply Dev.eccWriteback_inv
    | with_reducible apply hf
    | simp only [↓Dev.inv_mk]
    | (split <;> (try dsimp only))
    | intro _

theorem execScrubPeriodMissed_keeps {N G : Nat} {M : Option (List Host.Cell)} (hbm : Bool) (s : State) (h_s : s.dev.InvAt N G M) : Res.Keeps N G M s.pending (execScrubPeriodMissed hbm s) := by
  apply State.run_keeps
  try dsimp only
  repeat' first
    | with_reducible assumption
    | with_reducible apply Dev.wr_inv
    | with_reducible apply hf
    | simp only [↓Dev.inv_mk]
    | (split <;> (try dsimp only))
    | intro _

end Sys2Proof.Machine
end

