-- ==== Sys2Proof/Laws/InvResetOps.lean ====
section
/-! SUPPORT. Every operation of Machine/ResetOps.lean keeps the invariant. -/

namespace Sys2Proof.Machine

theorem Dev.warmRegs_inv {N G : Nat} {M : Option (List Host.Cell)} (d : Dev) (lo hi : Nat) (keep : Nat → Bool) (h_d : d.InvAt N G M) :
    (d.warmRegs lo hi keep).InvAt N G M := by
  refine ⟨h_d.clock, h_d.mem, ?_, h_d.time, h_d.sys, h_d.keep⟩
  exact twf_remap _ _ (fun p => by split <;> rfl) _ h_d.regs

theorem Dev.coresReset_inv {N G : Nat} (d : Dev) (h_d : d.InvAt N G none) : (Dev.coresReset d).InvAt N G none := by
  unfold Dev.coresReset
  try dsimp only
  repeat' first
    | with_reducible assumption
    | with_reducible apply List.foldl_inv
    | with_reducible apply List.foldl_inv2
    | with_reducible apply Dev.coreMod_inv
    | with_reducible apply Dev.clearSpace_inv
    | with_reducible apply hf
    | simp only [↓Dev.inv_mk]
    | (split <;> (try dsimp only))
    | intro _

theorem Dev.mbxReset_inv {N G : Nat} (d : Dev) (h_d : d.InvAt N G none) : (Dev.mbxReset d).InvAt N G none := by
  unfold Dev.mbxReset
  try dsimp only
  repeat' first
    | with_reducible assumption
    | with_reducible apply List.foldl_inv
    | with_reducible apply List.foldl_inv2
    | with_reducible apply Dev.clearSpace_inv
    | with_reducible apply Dev.warmRegs_inv
    | with_reducible apply hf
    | simp only [↓Dev.inv_mk]
    | (split <;> (try dsimp only))
    | intro _

theorem Dev.actDrop_inv {N G : Nat} {M : Option (List Host.Cell)} (d : Dev) (h_d : d.InvAt N G M) : (Dev.actDrop d).InvAt N G M := by
  unfold Dev.actDrop
  try dsimp only
  repeat' first
    | with_reducible assumption
    | with_reducible apply Dev.free_inv
    | with_reducible apply Dev.wr_inv
    | simp only [↓Dev.inv_mk]
    | (split <;> (try dsimp only))
    | intro _

theorem Dev.hubReset_inv {N G : Nat} (d : Dev) (h_d : d.InvAt N G none) : (Dev.hubReset d).InvAt N G none := by
  unfold Dev.hubReset
  try dsimp only
  repeat' first
    | with_reducible assumption
    | with_reducible apply List.foldl_inv
    | with_reducible apply List.foldl_inv2
    | with_reducible apply Dev.unpace_inv
    | with_reducible apply Dev.sobClear_inv
    | with_reducible apply Dev.warmRegs_inv
    | with_reducible apply Dev.wr_inv
    | with_reducible apply Dev.clearSpace_inv
    | simp only [↓Dev.inv_mk]
    | (split <;> (try dsimp only))
    | intro _

theorem Dev.vlReset_inv {N G : Nat} {M : Option (List Host.Cell)} (d : Dev) (h_d : d.InvAt N G M) : (Dev.vlReset d).InvAt N G M := by
  unfold Dev.vlReset
  try dsimp only
  repeat' first
    | with_reducible assumption
    | with_reducible apply Dev.forAcc_inv
    | with_reducible apply Dev.pwPut_inv
    | with_reducible apply Dev.showChange_inv
    | with_reducible apply Dev.trained_inv
    | with_reducible apply Dev.warmRegs_inv
    | with_reducible apply Dev.wr_inv
    | with_reducible apply hf
    | simp only [↓Dev.inv_mk]
    | (split <;> (try dsimp only))
    | intro _

theorem Dev.tilesReset_inv {N G : Nat} (d : Dev) (h_d : d.InvAt N G none) : (Dev.tilesReset d).InvAt N G none := by
  unfold Dev.tilesReset
  try dsimp only
  repeat' first
    | with_reducible assumption
    | with_reducible apply List.foldl_inv
    | with_reducible apply List.foldl_inv2
    | with_reducible apply Dev.st_inv
    | with_reducible apply Dev.clearSpace_inv
    | with_reducible apply Dev.warmRegs_inv
    | with_reducible apply Dev.wrw_inv
    | with_reducible apply hf
    | simp only [↓Dev.inv_mk]
    | (split <;> (try dsimp only))
    | intro _

theorem Dev.queuesReset_inv {N G : Nat} {M : Option (List Host.Cell)} (d : Dev) (h_d : d.InvAt N G M) : (Dev.queuesReset d).InvAt N G M := by
  unfold Dev.queuesReset
  try dsimp only
  repeat' first
    | with_reducible assumption
    | with_reducible apply Dev.warmRegs_inv
    | simp only [↓Dev.inv_mk]
    | (split <;> (try dsimp only))
    | intro _

theorem Dev.twReset_inv {N G : Nat} {M : Option (List Host.Cell)} (d : Dev) (h_d : d.InvAt N G M) : (Dev.twReset d).InvAt N G M := by
  unfold Dev.twReset
  try dsimp only
  repeat' first
    | with_reducible assumption
    | with_reducible apply List.foldl_inv
    | with_reducible apply List.foldl_inv2
    | with_reducible apply Dev.segFail_inv
    | with_reducible apply Dev.segPower_inv
    | with_reducible apply Dev.warmRegs_inv
    | with_reducible apply Dev.segShow_inv
    | with_reducible apply hf
    | simp only [↓Dev.inv_mk]
    | (split <;> (try dsimp only))
    | intro _

theorem Dev.oroReset_inv {N G : Nat} (d : Dev) (h_d : d.InvAt N G none) : (Dev.oroReset d).InvAt N G none := by
  unfold Dev.oroReset
  try dsimp only
  repeat' first
    | with_reducible assumption
    | with_reducible apply List.foldl_inv
    | with_reducible apply List.foldl_inv2
    | with_reducible apply Dev.roleSet_inv
    | with_reducible apply Dev.oroState_inv
    | with_reducible apply hf
    | simp only [↓Dev.inv_mk]
    | (split <;> (try dsimp only))
    | intro _

theorem Dev.warmClear_inv {N G : Nat} (d : Dev) (h_d : d.InvAt N G none) : (Dev.warmClear d).InvAt N G none := by
  unfold Dev.warmClear
  try dsimp only
  repeat' first
    | with_reducible assumption
    | with_reducible apply Dev.wr_inv
    | with_reducible apply Dev.vector_inv
    | with_reducible apply Dev.hubReset_inv
    | with_reducible apply Dev.vlReset_inv
    | with_reducible apply Dev.tilesReset_inv
    | with_reducible apply Dev.queuesReset_inv
    | with_reducible apply Dev.twReset_inv
    | with_reducible apply Dev.oroReset_inv
    | with_reducible apply Dev.actDrop_inv
    | with_reducible apply Dev.mbxReset_inv
    | with_reducible apply Dev.coresReset_inv
    | simp only [↓Dev.inv_mk]
    | (split <;> (try dsimp only))
    | intro _

theorem Dev.causesLoad_inv {N G : Nat} {M : Option (List Host.Cell)} (d : Dev) (own : Nat) (h_d : d.InvAt N G M) : (Dev.causesLoad d own).InvAt N G M := by
  unfold Dev.causesLoad
  try dsimp only
  repeat' first
    | with_reducible assumption
    | with_reducible apply Dev.wrw_inv
    | simp only [↓Dev.inv_mk]
    | (split <;> (try dsimp only))
    | intro _

theorem Dev.causeAdd_inv {N G : Nat} {M : Option (List Host.Cell)} (d : Dev) (m : Nat) (h_d : d.InvAt N G M) : (Dev.causeAdd d m).InvAt N G M := by
  unfold Dev.causeAdd
  try dsimp only
  repeat' first
    | with_reducible assumption
    | with_reducible apply Dev.wrw_inv
    | simp only [↓Dev.inv_mk]
    | (split <;> (try dsimp only))
    | intro _

theorem Dev.coldRequest_inv {N G : Nat} {M : Option (List Host.Cell)} (d : Dev) (m : Nat) (h_d : d.InvAt N G M) : (Dev.coldRequest d m).InvAt N G M := by
  unfold Dev.coldRequest
  try dsimp only
  repeat' first
    | with_reducible assumption
    | with_reducible apply Dev.causeAdd_inv
    | simp only [↓Dev.inv_mk]
    | (split <;> (try dsimp only))
    | intro _

theorem Dev.warmRequest_inv {N G : Nat} {M : Option (List Host.Cell)} (d : Dev) (m : Nat) (h_d : d.InvAt N G M) : (Dev.warmRequest d m).InvAt N G M := by
  unfold Dev.warmRequest
  try dsimp only
  repeat' first
    | with_reducible assumption
    | with_reducible apply Dev.causeAdd_inv
    | simp only [↓Dev.inv_mk]
    | (split <;> (try dsimp only))
    | intro _

theorem Dev.corePowerClear_inv {N G : Nat} (d : Dev) (h_d : d.InvAt N G none) : d.corePowerClear.InvAt N G none := by
  unfold Dev.corePowerClear
  dsimp only
  repeat' first
    | with_reducible assumption
    | with_reducible apply List.foldl_inv
    | with_reducible apply Dev.emergUpdate_inv
    | with_reducible apply Dev.coresReset_inv
    | with_reducible apply Dev.segShow_inv
    | with_reducible apply Dev.forAcc_inv
    | with_reducible apply Dev.wr_inv
    | exact ⟨h_d.clock, twf_filter _ _ _ h_d.mem, twf_filter _ _ _ h_d.regs, h_d.time, h_d.sys, fun _ e => nomatch e⟩
    | intro _

theorem Dev.corePowerRestart_inv {N G : Nat} (d : Dev) (h_d : d.InvAt N G none) : d.corePowerRestart.InvAt N G none := by
  unfold Dev.corePowerRestart
  have h := Dev.ffr_inv _ causeCorePower 0 0 (Dev.causesLoad_inv _ rcCorePwr (Dev.corePowerClear_inv d h_d))
  dsimp only
  split
  · exact Dev.inv_on _ (h := h) ..
  · exact Dev.sysStart_inv _ _ h

end Sys2Proof.Machine
end

