-- ==== Sys2Proof/Laws/InvBootOps.lean ====
section
/-! SUPPORT. Every operation of Machine/BootOps.lean keeps the invariant. -/

namespace Sys2Proof.Machine

theorem Dev.flashProg_inv {N G : Nat} (d : Dev) (a : Nat) (bs : List Byte) (h_d : d.InvAt N G none) : (Dev.flashProg d a bs).InvAt N G none := by
  unfold Dev.flashProg
  try dsimp only
  repeat' first
    | with_reducible assumption
    | with_reducible apply Dev.stn_inv
    | simp only [↓Dev.inv_mk]
    | (split <;> (try dsimp only))
    | intro _

theorem Dev.jPut_inv {N G : Nat} (d : Dev) (b : Nat) (r : JRec) (h_d : d.InvAt N G none) : (Dev.jPut d b r).InvAt N G none := by
  unfold Dev.jPut
  try dsimp only
  repeat' first
    | with_reducible assumption
    | with_reducible apply Dev.flashProg_inv
    | simp only [↓Dev.inv_mk]
    | (split <;> (try dsimp only))
    | intro _

theorem Dev.jAppend_inv {N G : Nat} (d : Dev) (r : JRec) (h_d : d.InvAt N G none) : (Dev.jAppend d r).InvAt N G none := by
  unfold Dev.jAppend
  try dsimp only
  repeat' first
    | with_reducible assumption
    | with_reducible apply List.foldl_inv
    | with_reducible apply List.foldl_inv2
    | with_reducible apply Dev.jPut_inv
    | with_reducible apply Dev.clearRange_inv
    | with_reducible apply hf
    | simp only [↓Dev.inv_mk]
    | (split <;> (try dsimp only))
    | intro _

theorem Dev.trustShow_inv {N G : Nat} {M : Option (List Host.Cell)} (d : Dev) (h_d : d.InvAt N G M) : (Dev.trustShow d).InvAt N G M := by
  unfold Dev.trustShow
  try dsimp only
  repeat' first
    | with_reducible assumption
    | with_reducible apply Dev.wr_inv
    | simp only [↓Dev.inv_mk]
    | (split <;> (try dsimp only))
    | intro _

theorem Dev.bootShow_inv {N G : Nat} {M : Option (List Host.Cell)} (d : Dev) (h_d : d.InvAt N G M) : (Dev.bootShow d).InvAt N G M := by
  unfold Dev.bootShow
  try dsimp only
  repeat' first
    | with_reducible assumption
    | with_reducible apply List.foldl_inv
    | with_reducible apply List.foldl_inv2
    | with_reducible apply Dev.wr_inv
    | with_reducible apply Dev.wr64_inv
    | with_reducible apply Dev.trustShow_inv
    | with_reducible apply hf
    | simp only [↓Dev.inv_mk]
    | (split <;> (try dsimp only))
    | intro _

theorem Dev.updShow_inv {N G : Nat} {M : Option (List Host.Cell)} (d : Dev) (h_d : d.InvAt N G M) : (Dev.updShow d).InvAt N G M := by
  unfold Dev.updShow
  try dsimp only
  repeat' first
    | with_reducible assumption
    | with_reducible apply Dev.st_inv
    | with_reducible apply Dev.wr_inv
    | with_reducible apply Dev.free_inv
    | with_reducible apply hf
    | simp only [↓Dev.inv_mk]
    | (split <;> (try dsimp only))
    | intro _

theorem Dev.jState_inv {N G : Nat} (d : Dev) (s : Nat) (f : JRec → JRec) (h_d : d.InvAt N G none) : (Dev.jState d s f).InvAt N G none := by
  unfold Dev.jState
  try dsimp only
  repeat' first
    | with_reducible assumption
    | with_reducible apply Dev.jAppend_inv
    | with_reducible apply Dev.bootShow_inv
    | simp only [↓Dev.inv_mk]
    | (split <;> (try dsimp only))
    | intro _

theorem Dev.jMark_inv {N G : Nat} (d : Dev) (s : Nat) (st : Nat) (reason : Nat) (h_d : d.InvAt N G none) : (Dev.jMark d s st reason).InvAt N G none := by
  unfold Dev.jMark
  try dsimp only
  repeat' first
    | with_reducible assumption
    | with_reducible apply Dev.jState_inv
    | with_reducible apply Dev.st_inv
    | simp only [↓Dev.inv_mk]
    | (split <;> (try dsimp only))
    | intro _

theorem Dev.jReject_inv {N G : Nat} (d : Dev) (s : Nat) (reason : Nat) (h_d : d.InvAt N G none) : (Dev.jReject d s reason).InvAt N G none := by
  unfold Dev.jReject
  try dsimp only
  repeat' first
    | with_reducible assumption
    | with_reducible apply Dev.jMark_inv
    | simp only [↓Dev.inv_mk]
    | (split <;> (try dsimp only))
    | intro _

theorem Dev.svnRaise_inv {N G : Nat} {M : Option (List Host.Cell)} (d : Dev) (v : Nat) (h_d : d.InvAt N G M) : (Dev.svnRaise d v).InvAt N G M := by
  unfold Dev.svnRaise
  try dsimp only
  repeat' first
    | with_reducible assumption
    | with_reducible apply Dev.wr_inv
    | simp only [↓Dev.inv_mk]
    | (split <;> (try dsimp only))
    | intro _

theorem Dev.modelCheck_inv {N G : Nat} {M : Option (List Host.Cell)} (d : Dev) (h_d : d.InvAt N G M) : (Dev.modelCheck d).InvAt N G M := by
  unfold Dev.modelCheck
  try dsimp only
  repeat' first
    | with_reducible assumption
    | simp only [↓Dev.inv_mk]
    | (split <;> (try dsimp only))
    | intro _

theorem Dev.repairsReapply_inv {N G : Nat} {M : Option (List Host.Cell)} (d : Dev) (h_d : d.InvAt N G M) : (Dev.repairsReapply d).InvAt N G M := by
  unfold Dev.repairsReapply
  try dsimp only
  repeat' first
    | with_reducible assumption
    | with_reducible apply List.foldl_inv
    | with_reducible apply List.foldl_inv2
    | with_reducible apply Dev.incW_inv
    | with_reducible apply hf
    | simp only [↓Dev.inv_mk]
    | (split <;> (try dsimp only))
    | intro _

theorem Dev.configWord_inv {N G : Nat} (d : Dev) (a : Nat) (v : Nat) (h_d : d.InvAt N G none) : (Dev.configWord d a v).InvAt N G none := by
  unfold Dev.configWord
  try dsimp only
  repeat' first
    | with_reducible assumption
    | with_reducible apply Dev.checkEn_inv
    | with_reducible apply Dev.tlmEn_inv
    | with_reducible apply Dev.vlEn_inv
    | with_reducible apply Dev.ptabValid_inv
    | with_reducible apply Dev.linkEn_inv
    | with_reducible apply Dev.regWrite_inv
    | simp only [↓Dev.inv_mk]
    | (split <;> (try dsimp only))
    | intro _

theorem Dev.configApply_inv {N G : Nat} (d : Dev) (img : List Byte) (h_d : d.InvAt N G none) : (Dev.configApply d img).InvAt N G none := by
  unfold Dev.configApply
  try dsimp only
  repeat' first
    | with_reducible assumption
    | with_reducible apply List.foldl_inv
    | with_reducible apply List.foldl_inv2
    | with_reducible apply Dev.configWord_inv
    | with_reducible apply Dev.wr_inv
    | with_reducible apply hf
    | simp only [↓Dev.inv_mk]
    | (split <;> (try dsimp only))
    | intro _

theorem Dev.tableLoad_inv {N G : Nat} (d : Dev) (ty : Nat) (lo : Nat) (hi : Nat) (img : List Byte) (h_d : d.InvAt N G none) : (Dev.tableLoad d ty lo hi img).InvAt N G none := by
  unfold Dev.tableLoad
  try dsimp only
  repeat' first
    | with_reducible assumption
    | with_reducible apply List.foldl_inv
    | with_reducible apply List.foldl_inv2
    | with_reducible apply Dev.regWrite_inv
    | with_reducible apply hf
    | simp only [↓Dev.inv_mk]
    | (split <;> (try dsimp only))
    | intro _

theorem Dev.tablesBoot_inv {N G : Nat} (d : Dev) (s : Nat) (m : List Byte) (commit : Bool) (h_d : d.InvAt N G none) : (Dev.tablesBoot d s m commit).InvAt N G none := by
  unfold Dev.tablesBoot
  try dsimp only
  repeat' first
    | with_reducible assumption
    | with_reducible apply Dev.tableLoad_inv
    | with_reducible apply Dev.coolCommit_inv
    | with_reducible apply Dev.seqCommit_inv
    | with_reducible apply Dev.wr_inv
    | simp only [↓Dev.inv_mk]
    | (split <;> (try dsimp only))
    | intro _

theorem Dev.coreImage_inv {N G : Nat} (d : Dev) (k : Nat) (img : List Byte) (h_d : d.InvAt N G none) : (Dev.coreImage d k img).InvAt N G none := by
  unfold Dev.coreImage
  try dsimp only
  repeat' first
    | with_reducible assumption
    | with_reducible apply Dev.clearSpace_inv
    | with_reducible apply Dev.stn_inv
    | simp only [↓Dev.inv_mk]
    | (split <;> (try dsimp only))
    | intro _

theorem Dev.imagesLoad_inv {N G : Nat} (d : Dev) (s : Nat) (m : List Byte) (h_d : d.InvAt N G none) : (Dev.imagesLoad d s m).InvAt N G none := by
  unfold Dev.imagesLoad
  try dsimp only
  repeat' first
    | with_reducible assumption
    | with_reducible apply List.foldl_inv
    | with_reducible apply List.foldl_inv2
    | with_reducible apply Dev.coreImage_inv
    | with_reducible apply Dev.stn_inv
    | with_reducible apply hf
    | simp only [↓Dev.inv_mk]
    | (split <;> (try dsimp only))
    | intro _

theorem Dev.packagesLoad_inv {N G : Nat} (d : Dev) (s : Nat) (m : List Byte) (h_d : d.InvAt N G none) : (Dev.packagesLoad d s m).InvAt N G none := by
  unfold Dev.packagesLoad
  try dsimp only
  repeat' first
    | with_reducible assumption
    | with_reducible apply List.foldl_inv
    | with_reducible apply List.foldl_inv2
    | with_reducible apply Dev.stn_inv
    | with_reducible apply Dev.loadsShow_inv
    | with_reducible apply hf
    | simp only [↓Dev.inv_mk]
    | (split <;> (try dsimp only))
    | intro _

end Sys2Proof.Machine
end

