-- ==== Sys2Proof/Laws/InvCoreOps.lean ====
section
/-! SUPPORT. Every operation of Machine/CoreOps.lean keeps the invariant. -/

namespace Sys2Proof.Machine

theorem Dev.fallback_inv {N G : Nat} (d : Dev) (reason : Nat) (h_d : d.InvAt N G none) : (Dev.fallback d reason).InvAt N G none := by
  unfold Dev.fallback
  try dsimp only
  repeat' first
    | with_reducible assumption
    | with_reducible apply Dev.jMark_inv
    | with_reducible apply Dev.wr_inv
    | with_reducible apply Dev.event_inv
    | with_reducible apply Dev.updShow_inv
    | with_reducible apply Dev.warmRequest_inv
    | simp only [↓Dev.inv_mk]
    | (split <;> (try dsimp only))
    | intro _

theorem Dev.trialCheck_inv {N G : Nat} (d : Dev) (h_d : d.InvAt N G none) : (Dev.trialCheck d).InvAt N G none := by
  unfold Dev.trialCheck
  try dsimp only
  repeat' first
    | with_reducible assumption
    | with_reducible apply Dev.fallback_inv
    | simp only [↓Dev.inv_mk]
    | (split <;> (try dsimp only))
    | intro _

theorem Dev.secDown_inv {N G : Nat} {M : Option (List Host.Cell)} (d : Dev) (h_d : d.InvAt N G M) : (Dev.secDown d).InvAt N G M := by
  unfold Dev.secDown
  try dsimp only
  repeat' first
    | with_reducible assumption
    | with_reducible apply Dev.actDrop_inv
    | with_reducible apply Dev.updShow_inv
    | with_reducible apply Dev.complete_inv
    | with_reducible apply Dev.pin_inv
    | simp only [↓Dev.inv_mk]
    | (split <;> (try dsimp only))
    | intro _

theorem Dev.coreStop_inv {N G : Nat} (d : Dev) (k : Nat) (h_d : d.InvAt N G none) : (Dev.coreStop d k).InvAt N G none := by
  unfold Dev.coreStop
  try dsimp only
  repeat' first
    | with_reducible assumption
    | with_reducible apply Dev.coreMod_inv
    | with_reducible apply Dev.clearSpace_inv
    | with_reducible apply Dev.twCoreAbort_inv
    | with_reducible apply Dev.secDown_inv
    | with_reducible apply Dev.pmcDown_inv
    | with_reducible apply Dev.schDown_inv
    | with_reducible apply Dev.cccDown_inv
    | simp only [↓Dev.inv_mk]
    | (split <;> (try dsimp only))
    | intro _

theorem Dev.coreFail1_inv {N G : Nat} (d : Dev) (k : Nat) (h_d : d.InvAt N G none) : (Dev.coreFail1 d k).InvAt N G none := by
  unfold Dev.coreFail1
  try dsimp only
  repeat' first
    | with_reducible assumption
    | with_reducible apply Dev.coreMod_inv
    | with_reducible apply Dev.ffr_inv
    | with_reducible apply Dev.cccLost_inv
    | with_reducible apply Dev.wr_inv
    | simp only [↓Dev.inv_mk]
    | (split <;> (try dsimp only))
    | intro _

theorem Dev.secLost_inv {N G : Nat} (d : Dev) (h_d : d.InvAt N G none) : (Dev.secLost d).InvAt N G none := by
  unfold Dev.secLost
  try dsimp only
  repeat' first
    | with_reducible assumption
    | with_reducible apply List.foldl_inv
    | with_reducible apply List.foldl_inv2
    | with_reducible apply Dev.coreFail1_inv
    | with_reducible apply hf
    | simp only [↓Dev.inv_mk]
    | (split <;> (try dsimp only))
    | intro _

theorem Dev.coreFail_inv {N G : Nat} (d : Dev) (k : Nat) (h_d : d.InvAt N G none) : (Dev.coreFail d k).InvAt N G none := by
  unfold Dev.coreFail
  try dsimp only
  repeat' first
    | with_reducible assumption
    | with_reducible apply Dev.coreFail1_inv
    | with_reducible apply Dev.secLost_inv
    | with_reducible apply Dev.endgameEnter_inv
    | with_reducible apply Dev.trialCheck_inv
    | simp only [↓Dev.inv_mk]
    | (split <;> (try dsimp only))
    | intro _

theorem Dev.coreRestart_inv {N G : Nat} (d : Dev) (k : Nat) (h_d : d.InvAt N G none) : (Dev.coreRestart d k).InvAt N G none := by
  unfold Dev.coreRestart
  try dsimp only
  repeat' first
    | with_reducible assumption
    | with_reducible apply Dev.coreFail_inv
    | with_reducible apply Dev.coreImage_inv
    | with_reducible apply Dev.coreRelease_inv
    | with_reducible apply Dev.coreMod_inv
    | simp only [↓Dev.inv_mk]
    | (split <;> (try dsimp only))
    | intro _

theorem Dev.coreAgain_inv {N G : Nat} (d : Dev) (k : Nat) (h_d : d.InvAt N G none) : (Dev.coreAgain d k).InvAt N G none := by
  unfold Dev.coreAgain
  try dsimp only
  repeat' first
    | with_reducible assumption
    | with_reducible apply Dev.coreRelease_inv
    | with_reducible apply Dev.coreRestart_inv
    | with_reducible apply Dev.coreFail_inv
    | with_reducible apply Dev.coreMod_inv
    | simp only [↓Dev.inv_mk]
    | (split <;> (try dsimp only))
    | intro _

theorem Dev.kickPeriod_inv {N G : Nat} {M : Option (List Host.Cell)} (d : Dev) (k : Nat) (p : Nat) (h_d : d.InvAt N G M) : (Dev.kickPeriod d k p).2.InvAt N G M := by
  unfold Dev.kickPeriod
  try dsimp only
  repeat' first
    | with_reducible assumption
    | with_reducible apply Dev.free_inv
    | simp only [↓Dev.inv_mk]
    | (split <;> (try dsimp only))
    | intro _

theorem Dev.serveTime_inv {N G : Nat} {M : Option (List Host.Cell)} (d : Dev) (h_d : d.InvAt N G M) : (Dev.serveTime d).InvAt N G M := by
  unfold Dev.serveTime
  try dsimp only
  repeat' first
    | with_reducible assumption
    | with_reducible apply Dev.wr_inv
    | simp only [↓Dev.inv_mk]
    | (split <;> (try dsimp only))
    | intro _

theorem Dev.secRuns_inv {N G : Nat} (d : Dev) (h_d : d.InvAt N G none) : (Dev.secRuns d).InvAt N G none := by
  unfold Dev.secRuns
  try dsimp only
  repeat' first
    | with_reducible assumption
    | with_reducible apply List.foldl_inv
    | with_reducible apply List.foldl_inv2
    | with_reducible apply Dev.coreMod_inv
    | with_reducible apply Dev.coreRestart_inv
    | with_reducible apply Dev.serveTime_inv
    | with_reducible apply Dev.wr_inv
    | with_reducible apply Dev.trialCheck_inv
    | with_reducible apply hf
    | simp only [↓Dev.inv_mk]
    | (split <;> (try dsimp only))
    | intro _

theorem Dev.schRuns_inv {N G : Nat} {M : Option (List Host.Cell)} (d : Dev) (h_d : d.InvAt N G M) : (Dev.schRuns d).InvAt N G M := by
  unfold Dev.schRuns
  try dsimp only
  repeat' first
    | with_reducible assumption
    | with_reducible apply Dev.serveTime_inv
    | with_reducible apply Dev.wr_inv
    | with_reducible apply Dev.readyTry_inv
    | simp only [↓Dev.inv_mk]
    | (split <;> (try dsimp only))
    | intro _

theorem Dev.coreRuns_inv {N G : Nat} (d : Dev) (k : Nat) (h_d : d.InvAt N G none) : (Dev.coreRuns d k).InvAt N G none := by
  unfold Dev.coreRuns
  try dsimp only
  repeat' first
    | with_reducible assumption
    | with_reducible apply Dev.coreMod_inv
    | with_reducible apply Dev.secRuns_inv
    | with_reducible apply Dev.readyTry_inv
    | with_reducible apply Dev.schRuns_inv
    | with_reducible apply Dev.cccBack_inv
    | simp only [↓Dev.inv_mk]
    | (split <;> (try dsimp only))
    | intro _

theorem Dev.coreKick_inv {N G : Nat} (d : Dev) (k : Nat) (p : Nat) (h_d : d.InvAt N G none) : (Dev.coreKick d k p).InvAt N G none := by
  unfold Dev.coreKick
  try dsimp only
  repeat' first
    | with_reducible assumption
    | with_reducible apply Dev.coreMod_inv
    | with_reducible apply Dev.kickPeriod_inv
    | with_reducible apply Dev.coreRuns_inv
    | simp only [↓Dev.inv_mk]
    | (split <;> (try dsimp only))
    | intro _

theorem Dev.coreExpire_inv {N G : Nat} (d : Dev) (k : Nat) (h_d : d.InvAt N G none) : (Dev.coreExpire d k).InvAt N G none := by
  unfold Dev.coreExpire
  try dsimp only
  repeat' first
    | with_reducible assumption
    | with_reducible apply Dev.coreMod_inv
    | with_reducible apply Dev.wrBit_inv
    | with_reducible apply Dev.ffr_inv
    | with_reducible apply Dev.coreStop_inv
    | with_reducible apply Dev.coreFail_inv
    | with_reducible apply Dev.coreAgain_inv
    | simp only [↓Dev.inv_mk]
    | (split <;> (try dsimp only))
    | intro _

end Sys2Proof.Machine
end

