-- ==== Sys2Proof/Laws/InvBoot.lean ====
section
/-! SUPPORT. Every operation of Machine/Boot.lean keeps the invariant. -/

namespace Sys2Proof.Machine

theorem Dev.powerOn_inv {N G : Nat} (d : Dev) (cause : Nat) (h_d : d.InvAt N G none) : (Dev.powerOn d cause).InvAt N G none := by
  unfold Dev.powerOn
  try dsimp only
  repeat' first
    | with_reducible assumption
    | with_reducible apply Dev.protectPins_inv
    | with_reducible apply Dev.bare_inv
    | with_reducible apply Dev.wrw_inv
    | with_reducible apply Dev.coldRegs_inv
    | with_reducible apply Dev.pin_inv
    | with_reducible apply Dev.relatch_inv
    | exact Dev.inv_empty
    | simp only [↓Dev.inv_mk]
    | (split <;> (try dsimp only))
    | intro _

theorem execPowerOnReset_keeps {N G : Nat} (capsel : BitVec 3) (hswsel : BitVec 2) (goldenLow : Bool) (mfgLow : Bool) (s : State) (h_s : s.dev.InvAt N G none) : Res.Keeps N G none s.pending (execPowerOnReset capsel hswsel goldenLow mfgLow s) := by
  apply State.run_keeps
  try dsimp only
  repeat' first
    | with_reducible assumption
    | with_reducible apply Dev.powerOn_inv
    | with_reducible apply hf
    | simp only [↓Dev.inv_mk]
    | (split <;> (try dsimp only))
    | intro _

theorem execBringupOff_keeps {N G : Nat} (s : State) (h_s : s.dev.InvAt N G none) : Res.Keeps N G none s.pending (execBringupOff s) := by
  apply State.run_keeps
  try dsimp only
  repeat' first
    | with_reducible assumption
    | with_reducible apply Dev.dropAll_inv
    | with_reducible apply Dev.powerOn_inv
    | with_reducible apply hf
    | simp only [↓Dev.inv_mk]
    | (split <;> (try dsimp only))
    | intro _

theorem Dev.coldStart_inv {N G : Nat} (d : Dev) (h_d : d.InvAt N G none) : (Dev.coldStart d).InvAt N G none := by
  unfold Dev.coldStart
  try dsimp only
  repeat' first
    | with_reducible assumption
    | with_reducible apply Dev.causesLoad_inv
    | with_reducible apply Dev.warmClear_inv
    | with_reducible apply Dev.coldDownStart_inv
    | simp only [↓Dev.inv_mk]
    | (split <;> (try dsimp only))
    | intro _

theorem execColdReset_keeps {N G : Nat} (s : State) (h_s : s.dev.InvAt N G none) : Res.Keeps N G none s.pending (execColdReset s) := by
  apply State.run_keeps
  try dsimp only
  repeat' first
    | with_reducible assumption
    | with_reducible apply Dev.coldStart_inv
    | with_reducible apply hf
    | simp only [↓Dev.inv_mk]
    | (split <;> (try dsimp only))
    | intro _

theorem execDeferredColdReset_keeps {N G : Nat} (s : State) (h_s : s.dev.InvAt N G none) : Res.Keeps N G none s.pending (execDeferredColdReset s) := by
  apply State.run_keeps
  try dsimp only
  repeat' first
    | with_reducible assumption
    | with_reducible apply Dev.coldStart_inv
    | with_reducible apply hf
    | simp only [↓Dev.inv_mk]
    | (split <;> (try dsimp only))
    | intro _

theorem Dev.secCheck_inv {N G : Nat} (d : Dev) (h_d : d.InvAt N G none) : (Dev.secCheck d).InvAt N G none := by
  unfold Dev.secCheck
  try dsimp only
  repeat' first
    | with_reducible assumption
    | with_reducible apply Dev.secLost_inv
    | with_reducible apply Dev.endgameEnter_inv
    | simp only [↓Dev.inv_mk]
    | (split <;> (try dsimp only))
    | intro _

theorem Dev.warmStart_inv {N G : Nat} (d : Dev) (h_d : d.InvAt N G none) : (Dev.warmStart d).InvAt N G none := by
  unfold Dev.warmStart
  try dsimp only
  repeat' first
    | with_reducible assumption
    | with_reducible apply Dev.warmClear_inv
    | with_reducible apply Dev.causesLoad_inv
    | with_reducible apply Dev.coreRelease_inv
    | with_reducible apply Dev.secCheck_inv
    | simp only [↓Dev.inv_mk]
    | (split <;> (try dsimp only))
    | intro _

theorem execWarmReset_keeps {N G : Nat} (s : State) (h_s : s.dev.InvAt N G none) : Res.Keeps N G none s.pending (execWarmReset s) := by
  apply State.run_keeps
  try dsimp only
  repeat' first
    | with_reducible assumption
    | with_reducible apply Dev.warmStart_inv
    | with_reducible apply hf
    | simp only [↓Dev.inv_mk]
    | (split <;> (try dsimp only))
    | intro _

theorem Dev.pcieReset_inv {N G : Nat} (d : Dev) (h_d : d.InvAt N G none) : (Dev.pcieReset d).InvAt N G none := by
  unfold Dev.pcieReset
  try dsimp only
  repeat' first
    | with_reducible assumption
    | with_reducible apply List.foldl_inv
    | with_reducible apply List.foldl_inv2
    | with_reducible apply Dev.wrw_inv
    | with_reducible apply Dev.clearSpace_inv
    | with_reducible apply hf
    | simp only [↓Dev.inv_mk]
    | (split <;> (try dsimp only))
    | intro _

theorem execPcieReset_keeps {N G : Nat} (s : State) (h_s : s.dev.InvAt N G none) : Res.Keeps N G none s.pending (execPcieReset s) := by
  apply State.run_keeps
  try dsimp only
  repeat' first
    | with_reducible assumption
    | with_reducible apply Dev.pcieReset_inv
    | with_reducible apply hf
    | simp only [↓Dev.inv_mk]
    | (split <;> (try dsimp only))
    | intro _

theorem Dev.resetCtrl_inv {N G : Nat} {M : Option (List Host.Cell)} (d : Dev) (v : Nat) (h_d : d.InvAt N G M) : (Dev.resetCtrl d v).InvAt N G M := by
  unfold Dev.resetCtrl
  try dsimp only
  repeat' first
    | with_reducible assumption
    | with_reducible apply Dev.ffr_inv
    | with_reducible apply Dev.wrw_inv
    | with_reducible apply Dev.coldRequest_inv
    | with_reducible apply Dev.warmRequest_inv
    | simp only [↓Dev.inv_mk]
    | (split <;> (try dsimp only))
    | intro _

theorem execColdReq_keeps {N G : Nat} {M : Option (List Host.Cell)} (by_ : Agent) (v : Word) (s : State) (h_s : s.dev.InvAt N G M) : Res.Keeps N G M s.pending (execColdReq by_ v s) := by
  apply State.run_keeps
  try dsimp only
  repeat' first
    | with_reducible assumption
    | with_reducible apply Dev.resetCtrl_inv
    | with_reducible apply hf
    | simp only [↓Dev.inv_mk]
    | (split <;> (try dsimp only))
    | intro _

theorem execWarmReq_keeps {N G : Nat} {M : Option (List Host.Cell)} (by_ : Agent) (v : Word) (s : State) (h_s : s.dev.InvAt N G M) : Res.Keeps N G M s.pending (execWarmReq by_ v s) := by
  apply State.run_keeps
  try dsimp only
  repeat' first
    | with_reducible assumption
    | with_reducible apply Dev.resetCtrl_inv
    | with_reducible apply hf
    | simp only [↓Dev.inv_mk]
    | (split <;> (try dsimp only))
    | intro _

theorem execClearCause_keeps {N G : Nat} {M : Option (List Host.Cell)} (by_ : Agent) (v : Word) (s : State) (h_s : s.dev.InvAt N G M) : Res.Keeps N G M s.pending (execClearCause by_ v s) := by
  apply State.run_keeps
  try dsimp only
  repeat' first
    | with_reducible assumption
    | with_reducible apply Dev.resetCtrl_inv
    | with_reducible apply hf
    | simp only [↓Dev.inv_mk]
    | (split <;> (try dsimp only))
    | intro _

theorem Dev.hostCoreReset_inv {N G : Nat} (d : Dev) (k : Nat) (h_d : d.InvAt N G none) : (Dev.hostCoreReset d k).InvAt N G none := by
  unfold Dev.hostCoreReset
  try dsimp only
  repeat' first
    | with_reducible assumption
    | with_reducible apply Dev.causeAdd_inv
    | with_reducible apply Dev.wr_inv
    | with_reducible apply Dev.coreStop_inv
    | with_reducible apply Dev.coreAgain_inv
    | simp only [↓Dev.inv_mk]
    | (split <;> (try dsimp only))
    | intro _

theorem execCoreResetReq_keeps {N G : Nat} (by_ : Agent) (v : Word) (s : State) (h_s : s.dev.InvAt N G none) : Res.Keeps N G none s.pending (execCoreResetReq by_ v s) := by
  apply State.run_keeps
  try dsimp only
  repeat' first
    | with_reducible assumption
    | with_reducible apply List.foldl_inv
    | with_reducible apply List.foldl_inv2
    | with_reducible apply Dev.ffr_inv
    | with_reducible apply Dev.hostCoreReset_inv
    | with_reducible apply hf
    | simp only [↓Dev.inv_mk]
    | (split <;> (try dsimp only))
    | intro _

theorem execSecWarmRequest_keeps {N G : Nat} {M : Option (List Host.Cell)} (s : State) (h_s : s.dev.InvAt N G M) : Res.Keeps N G M s.pending (execSecWarmRequest s) := by
  apply State.run_keeps
  try dsimp only
  repeat' first
    | with_reducible assumption
    | with_reducible apply Dev.warmRequest_inv
    | with_reducible apply hf
    | simp only [↓Dev.inv_mk]
    | (split <;> (try dsimp only))
    | intro _

theorem execCorePowerRestart_keeps {N G : Nat} (s : State) (h_s : s.dev.InvAt N G none) : Res.Keeps N G none s.pending (execCorePowerRestart s) := by
  apply State.run_keeps
  try dsimp only
  repeat' first
    | with_reducible assumption
    | with_reducible apply Dev.coreLost_inv
    | with_reducible apply Dev.corePowerRestart_inv
    | with_reducible apply Dev.secCheck_inv
    | with_reducible apply hf
    | simp only [↓Dev.inv_mk]
    | (split <;> (try dsimp only))
    | intro _

theorem execWatchdogKick_keeps {N G : Nat} (k : Fin 11) (period : Word) (s : State) (h_s : s.dev.InvAt N G none) : Res.Keeps N G none s.pending (execWatchdogKick k period s) := by
  apply State.run_keeps
  try dsimp only
  repeat' first
    | with_reducible assumption
    | with_reducible apply Dev.coreKick_inv
    | with_reducible apply hf
    | simp only [↓Dev.inv_mk]
    | (split <;> (try dsimp only))
    | intro _

theorem execWatchdogExpiry_keeps {N G : Nat} (k : Fin 11) (s : State) (h_s : s.dev.InvAt N G none) : Res.Keeps N G none s.pending (execWatchdogExpiry k s) := by
  apply State.run_keeps
  try dsimp only
  repeat' first
    | with_reducible assumption
    | with_reducible apply Dev.coreExpire_inv
    | with_reducible apply hf
    | simp only [↓Dev.inv_mk]
    | (split <;> (try dsimp only))
    | intro _

theorem Dev.bootFrom_inv {N G : Nat} (d : Dev) (s : Nat) (forced : Bool) (fb : Bool) (h_d : d.InvAt N G none) : (Dev.bootFrom d s forced fb).InvAt N G none := by
  unfold Dev.bootFrom
  try dsimp only
  repeat' first
    | with_reducible assumption
    | with_reducible apply List.foldl_inv
    | with_reducible apply List.foldl_inv2
    | with_reducible apply Dev.st_inv
    | with_reducible apply Dev.wrw_inv
    | with_reducible apply Dev.wr_inv
    | with_reducible apply Dev.imagesLoad_inv
    | with_reducible apply Dev.tablesBoot_inv
    | with_reducible apply Dev.configApply_inv
    | with_reducible apply Dev.svnRaise_inv
    | with_reducible apply Dev.jMark_inv
    | with_reducible apply Dev.packagesLoad_inv
    | with_reducible apply Dev.coreMod_inv
    | with_reducible apply Dev.coreRelease_inv
    | with_reducible apply Dev.modelCheck_inv
    | with_reducible apply Dev.bootShow_inv
    | with_reducible apply Dev.updShow_inv
    | with_reducible apply Dev.secRuns_inv
    | with_reducible apply hf
    | simp only [↓Dev.inv_mk]
    | (split <;> (try dsimp only))
    | intro _

theorem Dev.bootTry_inv {N G : Nat} (forced : Bool) (l : List Nat) (fb : Bool) (d : Dev) (h_d : d.InvAt N G none) :
    (Dev.bootTry forced l fb d).InvAt N G none := by
  induction l generalizing d fb with
  | nil =>
    unfold Dev.bootTry
    refine Dev.endgameEnter_inv _ _ (Dev.bootShow_inv _ ?_)
    simp only [↓Dev.inv_mk]; exact h_d
  | cons s l ih =>
    unfold Dev.bootTry
    dsimp only
    repeat' first
      | with_reducible assumption
      | with_reducible apply ih
      | with_reducible apply Dev.jReject_inv
      | with_reducible apply Dev.jState_inv
      | with_reducible apply Dev.bootFrom_inv
      | (split <;> (try dsimp only))

theorem Dev.romBoot_inv {N G : Nat} (d : Dev) (golden : Bool) (h_d : d.InvAt N G none) : (Dev.romBoot d golden).InvAt N G none := by
  unfold Dev.romBoot
  try dsimp only
  repeat' first
    | with_reducible assumption
    | with_reducible apply Dev.jAppend_inv
    | with_reducible apply Dev.repairsReapply_inv
    | with_reducible apply Dev.bootTry_inv
    | simp only [↓Dev.inv_mk]
    | (split <;> (try dsimp only))
    | intro _

theorem execRomBoot_keeps {N G : Nat} (golden : Bool) (s : State) (h_s : s.dev.InvAt N G none) : Res.Keeps N G none s.pending (execRomBoot golden s) := by
  apply State.run_keeps
  try dsimp only
  repeat' first
    | with_reducible assumption
    | with_reducible apply Dev.romBoot_inv
    | with_reducible apply hf
    | simp only [↓Dev.inv_mk]
    | (split <;> (try dsimp only))
    | intro _

end Sys2Proof.Machine
end

