-- ==== Sys2Proof/Laws/InvMbxUpdate.lean ====
section
/-! SUPPORT. Every operation of Machine/MbxUpdate.lean keeps the invariant. -/

namespace Sys2Proof.Machine

theorem Dev.updLast_inv {N G : Nat} {M : Option (List Host.Cell)} (d : Dev) (st : Nat) (h_d : d.InvAt N G M) : (Dev.updLast d st).InvAt N G M := by
  unfold Dev.updLast
  try dsimp only
  repeat' first
    | with_reducible assumption
    | with_reducible apply Dev.updShow_inv
    | with_reducible apply Dev.wr_inv
    | with_reducible apply Dev.st_inv
    | simp only [↓Dev.inv_mk]
    | (split <;> (try dsimp only))
    | intro _

theorem Dev.updRep_inv {N G : Nat} {M : Option (List Host.Cell)} (d : Dev) (r : Rep) (h_d : d.InvAt N G M) : (Dev.updRep d r).2.InvAt N G M := by
  unfold Dev.updRep
  try dsimp only
  repeat' first
    | with_reducible assumption
    | with_reducible apply Dev.updLast_inv
    | with_reducible apply Dev.st_inv
    | simp only [↓Dev.inv_mk]
    | (split <;> (try dsimp only))
    | intro _

theorem Dev.wpSet_inv {N G : Nat} {M : Option (List Host.Cell)} (d : Dev) (high : Bool) (h_d : d.InvAt N G M) : (Dev.wpSet d high).InvAt N G M := by
  unfold Dev.wpSet
  try dsimp only
  repeat' first
    | with_reducible assumption
    | with_reducible apply Dev.pin_inv
    | simp only [↓Dev.inv_mk]
    | (split <;> (try dsimp only))
    | intro _

theorem Dev.sessEnd_inv {N G : Nat} {M : Option (List Host.Cell)} (d : Dev) (h_d : d.InvAt N G M) : (Dev.sessEnd d).InvAt N G M := by
  unfold Dev.sessEnd
  try dsimp only
  repeat' first
    | with_reducible assumption
    | with_reducible apply Dev.wpSet_inv
    | simp only [↓Dev.inv_mk]
    | (split <;> (try dsimp only))
    | intro _

theorem opUpdateBegin_inv {N G : Nat}  (d : Dev) (q : MbxReq) (h_d : d.InvAt N G none) : ((opUpdateBegin).body d q).2.InvAt N G none := by
  unfold opUpdateBegin
  try dsimp only
  repeat' first
    | with_reducible assumption
    | with_reducible apply Dev.updRep_inv
    | with_reducible apply Dev.accept_inv
    | with_reducible apply Dev.jState_inv
    | with_reducible apply Dev.wpSet_inv
    | with_reducible apply hf
    | simp only [↓Dev.inv_mk]
    | (split <;> (try dsimp only))
    | intro _

theorem execUpdateBegin_keeps {N G : Nat} (q : MbxReq) (s : State) (h_s : s.dev.InvAt N G none) : Res.Keeps N G none s.pending (execUpdateBegin q s) := by
  exact MbxOp.run_keeps _ q s h_s fun d r h_d => opUpdateBegin_inv  d r h_d

theorem Dev.eraseEnd_inv {N G : Nat} (d : Dev) (ok : Bool) (h_d : d.InvAt N G none) : (Dev.eraseEnd d ok).InvAt N G none := by
  unfold Dev.eraseEnd
  try dsimp only
  repeat' first
    | with_reducible assumption
    | with_reducible apply Dev.clearRange_inv
    | with_reducible apply Dev.jMark_inv
    | with_reducible apply Dev.complete_inv
    | with_reducible apply Dev.sessEnd_inv
    | with_reducible apply Dev.updShow_inv
    | simp only [↓Dev.inv_mk]
    | (split <;> (try dsimp only))
    | intro _

theorem execUpdateEraseComplete_keeps {N G : Nat} (ok : Bool) (s : State) (h_s : s.dev.InvAt N G none) : Res.Keeps N G none s.pending (execUpdateEraseComplete ok s) := by
  apply State.run_keeps
  try dsimp only
  repeat' first
    | with_reducible assumption
    | with_reducible apply Dev.eraseEnd_inv
    | with_reducible apply hf
    | simp only [↓Dev.inv_mk]
    | (split <;> (try dsimp only))
    | intro _

theorem Dev.updData_inv {N G : Nat} (d : Dev) (x : Session) (off : Nat) (data : List Byte) (h_d : d.InvAt N G none) : (Dev.updData d x off data).2.InvAt N G none := by
  unfold Dev.updData
  try dsimp only
  repeat' first
    | with_reducible assumption
    | with_reducible apply Dev.updRep_inv
    | with_reducible apply Dev.wpSet_inv
    | with_reducible apply Dev.flashProg_inv
    | simp only [↓Dev.inv_mk]
    | (split <;> (try dsimp only))
    | intro _

theorem opUpdateData_inv {N G : Nat}  (d : Dev) (q : MbxReq) (h_d : d.InvAt N G none) : ((opUpdateData).body d q).2.InvAt N G none := by
  unfold opUpdateData
  try dsimp only
  repeat' first
    | with_reducible assumption
    | with_reducible apply Dev.updRep_inv
    | with_reducible apply Dev.updData_inv
    | with_reducible apply hf
    | simp only [↓Dev.inv_mk]
    | (split <;> (try dsimp only))
    | intro _

theorem execUpdateData_keeps {N G : Nat} (q : MbxReq) (s : State) (h_s : s.dev.InvAt N G none) : Res.Keeps N G none s.pending (execUpdateData q s) := by
  exact MbxOp.run_keeps _ q s h_s fun d r h_d => opUpdateData_inv  d r h_d

theorem Dev.install_inv {N G : Nat} (d : Dev) (t : Nat) (h_d : d.InvAt N G none) : (Dev.install d t).2.InvAt N G none := by
  unfold Dev.install
  try dsimp only
  repeat' first
    | with_reducible assumption
    | with_reducible apply Dev.flashProg_inv
    | with_reducible apply Dev.bootShow_inv
    | with_reducible apply Dev.jState_inv
    | simp only [↓Dev.inv_mk]
    | (split <;> (try dsimp only))
    | intro _

theorem opUpdateCommit_inv {N G : Nat}  (d : Dev) (q : MbxReq) (h_d : d.InvAt N G none) : ((opUpdateCommit).body d q).2.InvAt N G none := by
  unfold opUpdateCommit
  try dsimp only
  repeat' first
    | with_reducible assumption
    | with_reducible apply Dev.updRep_inv
    | with_reducible apply Dev.accept_inv
    | with_reducible apply Dev.wpSet_inv
    | with_reducible apply Dev.install_inv
    | with_reducible apply Dev.complete_inv
    | with_reducible apply Dev.updLast_inv
    | with_reducible apply hf
    | simp only [↓Dev.inv_mk]
    | (split <;> (try dsimp only))
    | intro _

theorem execUpdateCommit_keeps {N G : Nat} (q : MbxReq) (s : State) (h_s : s.dev.InvAt N G none) : Res.Keeps N G none s.pending (execUpdateCommit q s) := by
  exact MbxOp.run_keeps _ q s h_s fun d r h_d => opUpdateCommit_inv  d r h_d

theorem opUpdateCancel_inv {N G : Nat} {M : Option (List Host.Cell)}  (d : Dev) (q : MbxReq) (h_d : d.InvAt N G M) : ((opUpdateCancel).body d q).2.InvAt N G M := by
  unfold opUpdateCancel
  try dsimp only
  repeat' first
    | with_reducible assumption
    | with_reducible apply Dev.sessEnd_inv
    | with_reducible apply Dev.updRep_inv
    | with_reducible apply Dev.actDrop_inv
    | with_reducible apply Dev.updShow_inv
    | with_reducible apply hf
    | simp only [↓Dev.inv_mk]
    | (split <;> (try dsimp only))
    | intro _

theorem execUpdateCancel_keeps {N G : Nat} (q : MbxReq) (s : State) (h_s : s.dev.InvAt N G none) : Res.Keeps N G none s.pending (execUpdateCancel q s) := by
  exact MbxOp.run_keeps _ q s h_s fun d r h_d => opUpdateCancel_inv  d r h_d

theorem Dev.activate_inv {N G : Nat} (d : Dev) (t : Nat) (h_d : d.InvAt N G none) : (Dev.activate d t).InvAt N G none := by
  unfold Dev.activate
  try dsimp only
  repeat' first
    | with_reducible assumption
    | with_reducible apply Dev.jState_inv
    | with_reducible apply Dev.updShow_inv
    | with_reducible apply Dev.warmRequest_inv
    | simp only [↓Dev.inv_mk]
    | (split <;> (try dsimp only))
    | intro _

theorem opUpdateActivate_inv {N G : Nat}  (d : Dev) (q : MbxReq) (h_d : d.InvAt N G none) : ((opUpdateActivate).body d q).2.InvAt N G none := by
  unfold opUpdateActivate
  try dsimp only
  repeat' first
    | with_reducible assumption
    | with_reducible apply Dev.updRep_inv
    | with_reducible apply Dev.activate_inv
    | with_reducible apply Dev.wr_inv
    | with_reducible apply hf
    | simp only [↓Dev.inv_mk]
    | (split <;> (try dsimp only))
    | intro _

theorem execUpdateActivate_keeps {N G : Nat} (q : MbxReq) (s : State) (h_s : s.dev.InvAt N G none) : Res.Keeps N G none s.pending (execUpdateActivate q s) := by
  exact MbxOp.run_keeps _ q s h_s fun d r h_d => opUpdateActivate_inv  d r h_d

theorem execActivationRelease_keeps {N G : Nat} (s : State) (h_s : s.dev.InvAt N G none) : Res.Keeps N G none s.pending (execActivationRelease s) := by
  apply State.run_keeps
  try dsimp only
  repeat' first
    | with_reducible assumption
    | with_reducible apply Dev.activate_inv
    | with_reducible apply hf
    | simp only [↓Dev.inv_mk]
    | (split <;> (try dsimp only))
    | intro _

theorem Dev.confirm_inv {N G : Nat} (d : Dev) (h_d : d.InvAt N G none) : (Dev.confirm d).InvAt N G none := by
  unfold Dev.confirm
  try dsimp only
  repeat' first
    | with_reducible assumption
    | with_reducible apply Dev.jMark_inv
    | with_reducible apply Dev.wr_inv
    | with_reducible apply Dev.svnRaise_inv
    | with_reducible apply Dev.event_inv
    | with_reducible apply Dev.updShow_inv
    | simp only [↓Dev.inv_mk]
    | (split <;> (try dsimp only))
    | intro _

theorem opUpdateConfirm_inv {N G : Nat}  (d : Dev) (q : MbxReq) (h_d : d.InvAt N G none) : ((opUpdateConfirm).body d q).2.InvAt N G none := by
  unfold opUpdateConfirm
  try dsimp only
  repeat' first
    | with_reducible assumption
    | with_reducible apply Dev.confirm_inv
    | with_reducible apply Dev.updRep_inv
    | with_reducible apply hf
    | simp only [↓Dev.inv_mk]
    | (split <;> (try dsimp only))
    | intro _

theorem execUpdateConfirm_keeps {N G : Nat} (q : MbxReq) (s : State) (h_s : s.dev.InvAt N G none) : Res.Keeps N G none s.pending (execUpdateConfirm q s) := by
  exact MbxOp.run_keeps _ q s h_s fun d r h_d => opUpdateConfirm_inv  d r h_d

theorem opUpdateReject_inv {N G : Nat}  (d : Dev) (q : MbxReq) (h_d : d.InvAt N G none) : ((opUpdateReject).body d q).2.InvAt N G none := by
  unfold opUpdateReject
  try dsimp only
  repeat' first
    | with_reducible assumption
    | with_reducible apply Dev.fallback_inv
    | with_reducible apply Dev.updRep_inv
    | with_reducible apply hf
    | simp only [↓Dev.inv_mk]
    | (split <;> (try dsimp only))
    | intro _

theorem execUpdateReject_keeps {N G : Nat} (q : MbxReq) (s : State) (h_s : s.dev.InvAt N G none) : Res.Keeps N G none s.pending (execUpdateReject q s) := by
  exact MbxOp.run_keeps _ q s h_s fun d r h_d => opUpdateReject_inv  d r h_d

theorem execAutoConfirm_keeps {N G : Nat} (s : State) (h_s : s.dev.InvAt N G none) : Res.Keeps N G none s.pending (execAutoConfirm s) := by
  apply State.run_keeps
  try dsimp only
  repeat' first
    | with_reducible assumption
    | with_reducible apply Dev.confirm_inv
    | with_reducible apply hf
    | simp only [↓Dev.inv_mk]
    | (split <;> (try dsimp only))
    | intro _

theorem execConfirmTimeout_keeps {N G : Nat} (s : State) (h_s : s.dev.InvAt N G none) : Res.Keeps N G none s.pending (execConfirmTimeout s) := by
  apply State.run_keeps
  try dsimp only
  repeat' first
    | with_reducible assumption
    | with_reducible apply Dev.fallback_inv
    | with_reducible apply hf
    | simp only [↓Dev.inv_mk]
    | (split <;> (try dsimp only))
    | intro _

theorem execUpdateSessionTimeout_keeps {N G : Nat} {M : Option (List Host.Cell)} (s : State) (h_s : s.dev.InvAt N G M) : Res.Keeps N G M s.pending (execUpdateSessionTimeout s) := by
  apply State.run_keeps
  try dsimp only
  repeat' first
    | with_reducible assumption
    | with_reducible apply Dev.sessEnd_inv
    | with_reducible apply Dev.updShow_inv
    | with_reducible apply hf
    | simp only [↓Dev.inv_mk]
    | (split <;> (try dsimp only))
    | intro _

theorem opUpdateStatus_inv {N G : Nat} {M : Option (List Host.Cell)}  (d : Dev) (q : MbxReq) (h_d : d.InvAt N G M) : ((opUpdateStatus).body d q).2.InvAt N G M := by
  unfold opUpdateStatus
  try dsimp only
  repeat' first
    | with_reducible assumption
    | with_reducible apply hf
    | simp only [↓Dev.inv_mk]
    | (split <;> (try dsimp only))
    | intro _

theorem execUpdateStatus_keeps {N G : Nat} (q : MbxReq) (s : State) (h_s : s.dev.InvAt N G none) : Res.Keeps N G none s.pending (execUpdateStatus q s) := by
  exact MbxOp.run_keeps _ q s h_s fun d r h_d => opUpdateStatus_inv  d r h_d

end Sys2Proof.Machine
end

