-- ==== Sys2Proof/Laws/InvMbxTrust.lean ====
section
/-! SUPPORT. Every operation of Machine/MbxTrust.lean keeps the invariant. -/

namespace Sys2Proof.Machine

theorem Dev.fresh32_inv {N G : Nat} {M : Option (List Host.Cell)} (d : Dev) (h_d : d.InvAt N G M) : (Dev.fresh32 d).2.InvAt N G M := by
  unfold Dev.fresh32
  try dsimp only
  repeat' first
    | with_reducible assumption
    | with_reducible apply Dev.free_inv
    | simp only [↓Dev.inv_mk]
    | (split <;> (try dsimp only))
    | intro _

theorem opGetNonce_inv {N G : Nat} {M : Option (List Host.Cell)}  (d : Dev) (q : MbxReq) (h_d : d.InvAt N G M) : ((opGetNonce).body d q).2.InvAt N G M := by
  unfold opGetNonce
  try dsimp only
  repeat' first
    | with_reducible assumption
    | with_reducible apply Dev.fresh32_inv
    | with_reducible apply hf
    | simp only [↓Dev.inv_mk]
    | (split <;> (try dsimp only))
    | intro _

theorem execGetNonce_keeps {N G : Nat} (q : MbxReq) (s : State) (h_s : s.dev.InvAt N G none) : Res.Keeps N G none s.pending (execGetNonce q s) := by
  exact MbxOp.run_keeps _ q s h_s fun d r h_d => opGetNonce_inv  d r h_d

theorem Dev.nonceUse_inv {N G : Nat} {M : Option (List Host.Cell)} (d : Dev) (q : MbxReq) (n : List Byte) (h_d : d.InvAt N G M) : (Dev.nonceUse d q n).2.InvAt N G M := by
  unfold Dev.nonceUse
  try dsimp only
  repeat' first
    | with_reducible assumption
    | simp only [↓Dev.inv_mk]
    | (split <;> (try dsimp only))
    | intro _

theorem Dev.trustRep_inv {N G : Nat} {M : Option (List Host.Cell)} (d : Dev) (h_d : d.InvAt N G M) : (Dev.trustRep d).2.InvAt N G M := by
  unfold Dev.trustRep
  try dsimp only
  repeat' first
    | with_reducible assumption
    | with_reducible apply Dev.trustShow_inv
    | simp only [↓Dev.inv_mk]
    | (split <;> (try dsimp only))
    | intro _

theorem opOwnerKeyAdd_inv {N G : Nat} {M : Option (List Host.Cell)}  (d : Dev) (q : MbxReq) (h_d : d.InvAt N G M) : ((opOwnerKeyAdd).body d q).2.InvAt N G M := by
  unfold opOwnerKeyAdd
  try dsimp only
  repeat' first
    | with_reducible assumption
    | with_reducible apply Dev.nonceUse_inv
    | with_reducible apply Dev.trustRep_inv
    | with_reducible apply hf
    | simp only [↓Dev.inv_mk]
    | (split <;> (try dsimp only))
    | intro _

theorem execOwnerKeyAdd_keeps {N G : Nat} (q : MbxReq) (s : State) (h_s : s.dev.InvAt N G none) : Res.Keeps N G none s.pending (execOwnerKeyAdd q s) := by
  exact MbxOp.run_keeps _ q s h_s fun d r h_d => opOwnerKeyAdd_inv  d r h_d

theorem opOwnerKeyRevoke_inv {N G : Nat} {M : Option (List Host.Cell)}  (d : Dev) (q : MbxReq) (h_d : d.InvAt N G M) : ((opOwnerKeyRevoke).body d q).2.InvAt N G M := by
  unfold opOwnerKeyRevoke
  try dsimp only
  repeat' first
    | with_reducible assumption
    | with_reducible apply Dev.nonceUse_inv
    | with_reducible apply Dev.trustRep_inv
    | with_reducible apply hf
    | simp only [↓Dev.inv_mk]
    | (split <;> (try dsimp only))
    | intro _

theorem execOwnerKeyRevoke_keeps {N G : Nat} (q : MbxReq) (s : State) (h_s : s.dev.InvAt N G none) : Res.Keeps N G none s.pending (execOwnerKeyRevoke q s) := by
  exact MbxOp.run_keeps _ q s h_s fun d r h_d => opOwnerKeyRevoke_inv  d r h_d

theorem opModelKeyEnrol_inv {N G : Nat} {M : Option (List Host.Cell)}  (d : Dev) (q : MbxReq) (h_d : d.InvAt N G M) : ((opModelKeyEnrol).body d q).2.InvAt N G M := by
  unfold opModelKeyEnrol
  try dsimp only
  repeat' first
    | with_reducible assumption
    | with_reducible apply Dev.trustRep_inv
    | with_reducible apply hf
    | simp only [↓Dev.inv_mk]
    | (split <;> (try dsimp only))
    | intro _

theorem execModelKeyEnrol_keeps {N G : Nat} (q : MbxReq) (s : State) (h_s : s.dev.InvAt N G none) : Res.Keeps N G none s.pending (execModelKeyEnrol q s) := by
  exact MbxOp.run_keeps _ q s h_s fun d r h_d => opModelKeyEnrol_inv  d r h_d

theorem opDebugToken_inv {N G : Nat} {M : Option (List Host.Cell)}  (d : Dev) (q : MbxReq) (h_d : d.InvAt N G M) : ((opDebugToken).body d q).2.InvAt N G M := by
  unfold opDebugToken
  try dsimp only
  repeat' first
    | with_reducible assumption
    | with_reducible apply hf
    | simp only [↓Dev.inv_mk]
    | (split <;> (try dsimp only))
    | intro _

theorem execDebugToken_keeps {N G : Nat} (q : MbxReq) (s : State) (h_s : s.dev.InvAt N G none) : Res.Keeps N G none s.pending (execDebugToken q s) := by
  exact MbxOp.run_keeps _ q s h_s fun d r h_d => opDebugToken_inv  d r h_d

end Sys2Proof.Machine
end

