-- ==== Sys2Proof/Laws/InvSleep.lean ====
section
/-! SUPPORT. Every operation of Machine/Sleep.lean keeps the invariant. -/

namespace Sys2Proof.Machine

theorem Dev.sleepEnter_inv {N G : Nat} (d : Dev) (h_d : d.InvAt N G none) : d.sleepEnter.InvAt N G none := by
  unfold Dev.sleepEnter
  dsimp only
  refine Dev.inv_off _ (h := ?_) ..
  repeat' first
    | with_reducible assumption
    | with_reducible apply Dev.mbxReset_inv
    | with_reducible apply Dev.oroReset_inv
    | with_reducible apply Dev.twReset_inv
    | with_reducible apply Dev.queuesReset_inv
    | with_reducible apply Dev.tilesReset_inv
    | with_reducible apply Dev.vlReset_inv
    | with_reducible apply Dev.hubReset_inv
    | with_reducible apply Dev.vector_inv
    | with_reducible apply Dev.wr_inv
    | simp only [↓Dev.inv_mk]
    | (split <;> (try dsimp only))

theorem opDeepSleep_inv {N G : Nat} (d : Dev) (q : MbxReq) (h_d : d.InvAt N G none) :
    ((opDeepSleep).body d q).2.InvAt N G none := by
  unfold opDeepSleep
  dsimp only
  repeat' first
    | with_reducible assumption
    | with_reducible apply Dev.sleepEnter_inv
    | with_reducible apply Dev.reply_inv
    | (split <;> (try dsimp only))

theorem execDeepSleep_keeps {N G : Nat} (q : MbxReq) (s : State) (h_s : s.dev.InvAt N G none) :
    Res.Keeps N G none s.pending (execDeepSleep q s) := by
  exact MbxOp.run_keeps _ q s h_s fun d r h_d => opDeepSleep_inv d r h_d

theorem Dev.fastWake_inv {N G : Nat} (d : Dev) (h_d : d.InvAt N G none) : (Dev.fastWake d).InvAt N G none := by
  unfold Dev.fastWake
  try dsimp only
  repeat' first
    | with_reducible assumption
    | with_reducible apply List.foldl_inv
    | with_reducible apply List.foldl_inv2
    | with_reducible apply Dev.wr_inv
    | with_reducible apply Dev.coreMod_inv
    | with_reducible apply Dev.configApply_inv
    | with_reducible apply Dev.coreRelease_inv
    | with_reducible apply Dev.updShow_inv
    | with_reducible apply Dev.secRuns_inv
    | with_reducible apply hf
    | simp only [↓Dev.inv_mk]
    | (split <;> (try dsimp only))
    | intro _

theorem execWake_keeps {N G : Nat} (golden scrubOk : Bool) (s : State) (h_s : s.dev.InvAt N G none) :
    Res.Keeps N G none s.pending (execWake golden scrubOk s) := by
  apply State.run_keeps
  dsimp only
  split
  · exact h_s
  · split
    · exact Dev.fastWake_inv _ (Dev.inv_on s.dev (h := h_s) ..)
    · refine Dev.secCheck_inv _ (Dev.coreRelease_inv _ _ ?_)
      exact Dev.inv_on s.dev (h := h_s) ..

end Sys2Proof.Machine
end

