-- ==== Sys2Proof/Laws/InvSpdm.lean ====
section
/-! SUPPORT. Every operation of Machine/Spdm.lean keeps the invariant. -/

namespace Sys2Proof.Machine

theorem execSetEndpointId_keeps {N G : Nat} {M : Option (List Host.Cell)} (ch : Fin 2) (eid : Byte) (s : State) (h_s : s.dev.InvAt N G M) : Res.Keeps N G M s.pending (execSetEndpointId ch eid s) := by
  apply State.run_keeps
  try dsimp only
  repeat' first
    | with_reducible assumption
    | with_reducible apply Dev.emit_inv
    | with_reducible apply hf
    | simp only [↓Dev.inv_mk]
    | (split <;> (try dsimp only))
    | intro _

theorem execGetEndpointId_keeps {N G : Nat} {M : Option (List Host.Cell)} (ch : Fin 2) (s : State) (h_s : s.dev.InvAt N G M) : Res.Keeps N G M s.pending (execGetEndpointId ch s) := by
  apply State.run_keeps
  try dsimp only
  repeat' first
    | with_reducible assumption
    | with_reducible apply Dev.emit_inv
    | with_reducible apply hf
    | simp only [↓Dev.inv_mk]
    | (split <;> (try dsimp only))
    | intro _

theorem execGetEndpointUuid_keeps {N G : Nat} {M : Option (List Host.Cell)} (ch : Fin 2) (s : State) (h_s : s.dev.InvAt N G M) : Res.Keeps N G M s.pending (execGetEndpointUuid ch s) := by
  apply State.run_keeps
  try dsimp only
  repeat' first
    | with_reducible assumption
    | with_reducible apply Dev.emit_inv
    | with_reducible apply hf
    | simp only [↓Dev.inv_mk]
    | (split <;> (try dsimp only))
    | intro _

theorem execGetMctpVersionSupport_keeps {N G : Nat} {M : Option (List Host.Cell)} (ch : Fin 2) (ty : Byte) (s : State) (h_s : s.dev.InvAt N G M) : Res.Keeps N G M s.pending (execGetMctpVersionSupport ch ty s) := by
  apply State.run_keeps
  try dsimp only
  repeat' first
    | with_reducible assumption
    | with_reducible apply Dev.free_inv
    | with_reducible apply Dev.emit_inv
    | with_reducible apply hf
    | simp only [↓Dev.inv_mk]
    | (split <;> (try dsimp only))
    | intro _

theorem execGetMessageTypeSupport_keeps {N G : Nat} {M : Option (List Host.Cell)} (ch : Fin 2) (s : State) (h_s : s.dev.InvAt N G M) : Res.Keeps N G M s.pending (execGetMessageTypeSupport ch s) := by
  apply State.run_keeps
  try dsimp only
  repeat' first
    | with_reducible assumption
    | with_reducible apply Dev.emit_inv
    | with_reducible apply hf
    | simp only [↓Dev.inv_mk]
    | (split <;> (try dsimp only))
    | intro _

theorem execMctpMessageDiscard_keeps {N G : Nat} {M : Option (List Host.Cell)} (ch : Fin 2) (failed : Bool) (s : State) (h_s : s.dev.InvAt N G M) : Res.Keeps N G M s.pending (execMctpMessageDiscard ch failed s) := by
  apply State.run_keeps
  try dsimp only
  repeat' first
    | with_reducible assumption
    | with_reducible apply Dev.wr_inv
    | with_reducible apply hf
    | simp only [↓Dev.inv_mk]
    | (split <;> (try dsimp only))
    | intro _

theorem Dev.spdm_inv {N G : Nat} {M : Option (List Host.Cell)} (d : Dev) (ch : Nat) (kind : String) (f : Dev → List Byte × Dev) (h_d : d.InvAt N G M) (h_f : ∀ y0, y0.InvAt N G M → (f y0).2.InvAt N G M) : (Dev.spdm d ch kind f).InvAt N G M := by
  unfold Dev.spdm
  try dsimp only
  repeat' first
    | with_reducible assumption
    | with_reducible apply Dev.emit_inv
    | with_reducible apply h_f
    | simp only [↓Dev.inv_mk]
    | (split <;> (try dsimp only))
    | intro _

theorem execSpdmGetVersion_keeps {N G : Nat} {M : Option (List Host.Cell)} (ch : Fin 2) (s : State) (h_s : s.dev.InvAt N G M) : Res.Keeps N G M s.pending (execSpdmGetVersion ch s) := by
  apply State.run_keeps
  try dsimp only
  repeat' first
    | with_reducible assumption
    | with_reducible apply Dev.spdm_inv
    | with_reducible apply hf
    | simp only [↓Dev.inv_mk]
    | (split <;> (try dsimp only))
    | intro _

theorem execSpdmGetCapabilities_keeps {N G : Nat} {M : Option (List Host.Cell)} (ch : Fin 2) (s : State) (h_s : s.dev.InvAt N G M) : Res.Keeps N G M s.pending (execSpdmGetCapabilities ch s) := by
  apply State.run_keeps
  try dsimp only
  repeat' first
    | with_reducible assumption
    | with_reducible apply Dev.spdm_inv
    | with_reducible apply hf
    | simp only [↓Dev.inv_mk]
    | (split <;> (try dsimp only))
    | intro _

theorem execSpdmNegotiateAlgorithms_keeps {N G : Nat} {M : Option (List Host.Cell)} (ch : Fin 2) (p384 : Bool) (sha384 : Bool) (s : State) (h_s : s.dev.InvAt N G M) : Res.Keeps N G M s.pending (execSpdmNegotiateAlgorithms ch p384 sha384 s) := by
  apply State.run_keeps
  try dsimp only
  repeat' first
    | with_reducible assumption
    | with_reducible apply Dev.spdm_inv
    | with_reducible apply hf
    | simp only [↓Dev.inv_mk]
    | (split <;> (try dsimp only))
    | intro _

theorem execSpdmGetDigests_keeps {N G : Nat} {M : Option (List Host.Cell)} (ch : Fin 2) (s : State) (h_s : s.dev.InvAt N G M) : Res.Keeps N G M s.pending (execSpdmGetDigests ch s) := by
  apply State.run_keeps
  try dsimp only
  repeat' first
    | with_reducible assumption
    | with_reducible apply Dev.spdm_inv
    | with_reducible apply hf
    | simp only [↓Dev.inv_mk]
    | (split <;> (try dsimp only))
    | intro _

theorem execSpdmGetCertificate_keeps {N G : Nat} {M : Option (List Host.Cell)} (ch : Fin 2) (slot : Byte) (off : BitVec 16) (len : BitVec 16) (s : State) (h_s : s.dev.InvAt N G M) : Res.Keeps N G M s.pending (execSpdmGetCertificate ch slot off len s) := by
  apply State.run_keeps
  try dsimp only
  repeat' first
    | with_reducible assumption
    | with_reducible apply Dev.spdm_inv
    | with_reducible apply hf
    | simp only [↓Dev.inv_mk]
    | (split <;> (try dsimp only))
    | intro _

theorem execSpdmChallenge_keeps {N G : Nat} {M : Option (List Host.Cell)} (ch : Fin 2) (nonce : List Byte) (s : State) (h_s : s.dev.InvAt N G M) : Res.Keeps N G M s.pending (execSpdmChallenge ch nonce s) := by
  apply State.run_keeps
  try dsimp only
  repeat' first
    | with_reducible assumption
    | with_reducible apply Dev.spdm_inv
    | with_reducible apply Dev.fresh32_inv
    | with_reducible apply hf
    | simp only [↓Dev.inv_mk]
    | (split <;> (try dsimp only))
    | intro _

theorem execSpdmGetMeasurements_keeps {N G : Nat} {M : Option (List Host.Cell)} (ch : Fin 2) (index : Byte) (nonce : List Byte) (s : State) (h_s : s.dev.InvAt N G M) : Res.Keeps N G M s.pending (execSpdmGetMeasurements ch index nonce s) := by
  apply State.run_keeps
  try dsimp only
  repeat' first
    | with_reducible assumption
    | with_reducible apply Dev.spdm_inv
    | with_reducible apply Dev.fresh32_inv
    | with_reducible apply hf
    | simp only [↓Dev.inv_mk]
    | (split <;> (try dsimp only))
    | intro _

theorem execSpdmUnsupportedRequest_keeps {N G : Nat} {M : Option (List Host.Cell)} (ch : Fin 2) (s : State) (h_s : s.dev.InvAt N G M) : Res.Keeps N G M s.pending (execSpdmUnsupportedRequest ch s) := by
  apply State.run_keeps
  try dsimp only
  repeat' first
    | with_reducible assumption
    | with_reducible apply Dev.spdm_inv
    | with_reducible apply hf
    | simp only [↓Dev.inv_mk]
    | (split <;> (try dsimp only))
    | intro _

end Sys2Proof.Machine
end

