-- ==== Sys2Proof/Laws/InvMbxModel.lean ====
section
/-! SUPPORT. Every operation of Machine/MbxModel.lean keeps the invariant. -/

namespace Sys2Proof.Machine

theorem Dev.stagedPut_inv {N G : Nat} {M : Option (List Host.Cell)} (d : Dev) (e : Nat) (x : Option Staging) (h_d : d.InvAt N G M) : (Dev.stagedPut d e x).InvAt N G M := by
  unfold Dev.stagedPut
  try dsimp only
  repeat' first
    | with_reducible assumption
    | simp only [↓Dev.inv_mk]
    | (split <;> (try dsimp only))
    | intro _

theorem opPkgBegin_inv {N G : Nat} {M : Option (List Host.Cell)}  (d : Dev) (q : MbxReq) (h_d : d.InvAt N G M) : ((opPkgBegin).body d q).2.InvAt N G M := by
  unfold opPkgBegin
  try dsimp only
  repeat' first
    | with_reducible assumption
    | with_reducible apply Dev.stagedPut_inv
    | with_reducible apply hf
    | simp only [↓Dev.inv_mk]
    | (split <;> (try dsimp only))
    | intro _

theorem execPkgBegin_keeps {N G : Nat} (q : MbxReq) (s : State) (h_s : s.dev.InvAt N G none) : Res.Keeps N G none s.pending (execPkgBegin q s) := by
  exact MbxOp.run_keeps _ q s h_s fun d r h_d => opPkgBegin_inv  d r h_d

theorem opPkgData_inv {N G : Nat}  (d : Dev) (q : MbxReq) (h_d : d.InvAt N G none) : ((opPkgData).body d q).2.InvAt N G none := by
  unfold opPkgData
  try dsimp only
  repeat' first
    | with_reducible assumption
    | with_reducible apply Dev.stn_inv
    | with_reducible apply hf
    | simp only [↓Dev.inv_mk]
    | (split <;> (try dsimp only))
    | intro _

theorem execPkgData_keeps {N G : Nat} (q : MbxReq) (s : State) (h_s : s.dev.InvAt N G none) : Res.Keeps N G none s.pending (execPkgData q s) := by
  exact MbxOp.run_keeps _ q s h_s fun d r h_d => opPkgData_inv  d r h_d

theorem opPkgLoad_inv {N G : Nat} {M : Option (List Host.Cell)}  (d : Dev) (q : MbxReq) (h_d : d.InvAt N G M) : ((opPkgLoad).body d q).2.InvAt N G M := by
  unfold opPkgLoad
  try dsimp only
  repeat' first
    | with_reducible assumption
    | with_reducible apply Dev.accepting_inv
    | with_reducible apply Dev.stagedPut_inv
    | with_reducible apply Dev.loadsShow_inv
    | with_reducible apply hf
    | simp only [↓Dev.inv_mk]
    | (split <;> (try dsimp only))
    | intro _

theorem execPkgLoad_keeps {N G : Nat} (q : MbxReq) (s : State) (h_s : s.dev.InvAt N G none) : Res.Keeps N G none s.pending (execPkgLoad q s) := by
  exact MbxOp.run_keeps _ q s h_s fun d r h_d => opPkgLoad_inv  d r h_d

theorem opSlotRetire_inv {N G : Nat}  (d : Dev) (q : MbxReq) (h_d : d.InvAt N G none) : ((opSlotRetire).body d q).2.InvAt N G none := by
  unfold opSlotRetire
  try dsimp only
  repeat' first
    | with_reducible assumption
    | with_reducible apply Dev.slotRetire_inv
    | with_reducible apply hf
    | simp only [↓Dev.inv_mk]
    | (split <;> (try dsimp only))
    | intro _

theorem execSlotRetire_keeps {N G : Nat} (q : MbxReq) (s : State) (h_s : s.dev.InvAt N G none) : Res.Keeps N G none s.pending (execSlotRetire q s) := by
  exact MbxOp.run_keeps _ q s h_s fun d r h_d => opSlotRetire_inv  d r h_d

theorem opSlotQuery_inv {N G : Nat} {M : Option (List Host.Cell)}  (d : Dev) (q : MbxReq) (h_d : d.InvAt N G M) : ((opSlotQuery).body d q).2.InvAt N G M := by
  unfold opSlotQuery
  try dsimp only
  repeat' first
    | with_reducible assumption
    | with_reducible apply hf
    | simp only [↓Dev.inv_mk]
    | (split <;> (try dsimp only))
    | intro _

theorem execSlotQuery_keeps {N G : Nat} (q : MbxReq) (s : State) (h_s : s.dev.InvAt N G none) : Res.Keeps N G none s.pending (execSlotQuery q s) := by
  exact MbxOp.run_keeps _ q s h_s fun d r h_d => opSlotQuery_inv  d r h_d

theorem Dev.replaySize_inv {N G : Nat} (d : Dev) (mib : Nat) (h_d : d.InvAt N G none) : (Dev.replaySize d mib).InvAt N G none := by
  unfold Dev.replaySize
  try dsimp only
  repeat' first
    | with_reducible assumption
    | with_reducible apply List.foldl_inv
    | with_reducible apply List.foldl_inv2
    | with_reducible apply Dev.clearRange_inv
    | with_reducible apply Dev.slPut_inv
    | with_reducible apply hf
    | simp only [↓Dev.inv_mk]
    | (split <;> (try dsimp only))
    | intro _

theorem opOroSet_inv {N G : Nat}  (d : Dev) (q : MbxReq) (h_d : d.InvAt N G none) : ((opOroSet).body d q).2.InvAt N G none := by
  unfold opOroSet
  try dsimp only
  repeat' first
    | with_reducible assumption
    | with_reducible apply Dev.replaySize_inv
    | with_reducible apply Dev.oroEn_inv
    | with_reducible apply Dev.tlmEn_inv
    | with_reducible apply Dev.wr_inv
    | with_reducible apply hf
    | simp only [↓Dev.inv_mk]
    | (split <;> (try dsimp only))
    | intro _

theorem execOroSet_keeps {N G : Nat} (q : MbxReq) (s : State) (h_s : s.dev.InvAt N G none) : Res.Keeps N G none s.pending (execOroSet q s) := by
  exact MbxOp.run_keeps _ q s h_s fun d r h_d => opOroSet_inv  d r h_d

theorem opOroRollback_inv {N G : Nat}  (d : Dev) (q : MbxReq) (h_d : d.InvAt N G none) : ((opOroRollback).body d q).2.InvAt N G none := by
  unfold opOroRollback
  try dsimp only
  repeat' first
    | with_reducible assumption
    | with_reducible apply Dev.rollback_inv
    | with_reducible apply hf
    | simp only [↓Dev.inv_mk]
    | (split <;> (try dsimp only))
    | intro _

theorem execOroRollback_keeps {N G : Nat} (q : MbxReq) (s : State) (h_s : s.dev.InvAt N G none) : Res.Keeps N G none s.pending (execOroRollback q s) := by
  exact MbxOp.run_keeps _ q s h_s fun d r h_d => opOroRollback_inv  d r h_d

theorem opOroQuery_inv {N G : Nat} {M : Option (List Host.Cell)}  (d : Dev) (q : MbxReq) (h_d : d.InvAt N G M) : ((opOroQuery).body d q).2.InvAt N G M := by
  unfold opOroQuery
  try dsimp only
  repeat' first
    | with_reducible assumption
    | with_reducible apply hf
    | simp only [↓Dev.inv_mk]
    | (split <;> (try dsimp only))
    | intro _

theorem execOroQuery_keeps {N G : Nat} (q : MbxReq) (s : State) (h_s : s.dev.InvAt N G none) : Res.Keeps N G none s.pending (execOroQuery q s) := by
  exact MbxOp.run_keeps _ q s h_s fun d r h_d => opOroQuery_inv  d r h_d

end Sys2Proof.Machine
end

