-- ==== Sys2Proof/Laws/InvMbxSync.lean ====
section
/-! SUPPORT. Every operation of Machine/MbxSync.lean keeps the invariant. -/

namespace Sys2Proof.Machine

theorem Dev.paceEnd_inv {N G : Nat} {M : Option (List Host.Cell)} (d : Dev) (g : Nat) (h_d : d.InvAt N G M) : (Dev.paceEnd d g).InvAt N G M := by
  unfold Dev.paceEnd
  try dsimp only
  repeat' first
    | with_reducible assumption
    | with_reducible apply List.foldl_inv
    | with_reducible apply List.foldl_inv2
    | with_reducible apply Dev.unpace_inv
    | with_reducible apply Dev.grPut_inv
    | with_reducible apply Dev.setGb_inv
    | with_reducible apply hf
    | simp only [↓Dev.inv_mk]
    | (split <;> (try dsimp only))
    | intro _

theorem Dev.groupPolicy_inv {N G : Nat} {M : Option (List Host.Cell)} (d : Dev) (g : Nat) (pace : Nat) (settle : Nat) (h_d : d.InvAt N G M) : (Dev.groupPolicy d g pace settle).InvAt N G M := by
  unfold Dev.groupPolicy
  try dsimp only
  repeat' first
    | with_reducible assumption
    | with_reducible apply Dev.wr_inv
    | with_reducible apply Dev.paceEnd_inv
    | simp only [↓Dev.inv_mk]
    | (split <;> (try dsimp only))
    | intro _

theorem opGroupCreate_inv {N G : Nat} {M : Option (List Host.Cell)}  (d : Dev) (q : MbxReq) (h_d : d.InvAt N G M) : ((opGroupCreate).body d q).2.InvAt N G M := by
  unfold opGroupCreate
  try dsimp only
  repeat' first
    | with_reducible assumption
    | with_reducible apply Dev.grPut_inv
    | with_reducible apply Dev.wrw_inv
    | with_reducible apply Dev.wr_inv
    | with_reducible apply Dev.groupPolicy_inv
    | with_reducible apply hf
    | simp only [↓Dev.inv_mk]
    | (split <;> (try dsimp only))
    | intro _

theorem execGroupCreate_keeps {N G : Nat} (q : MbxReq) (s : State) (h_s : s.dev.InvAt N G none) : Res.Keeps N G none s.pending (execGroupCreate q s) := by
  exact MbxOp.run_keeps _ q s h_s fun d r h_d => opGroupCreate_inv  d r h_d

theorem Dev.groupDelete_inv {N G : Nat} {M : Option (List Host.Cell)} (d : Dev) (g : Nat) (h_d : d.InvAt N G M) : (Dev.groupDelete d g).InvAt N G M := by
  unfold Dev.groupDelete
  try dsimp only
  repeat' first
    | with_reducible assumption
    | with_reducible apply List.foldl_inv
    | with_reducible apply List.foldl_inv2
    | with_reducible apply Dev.ctxDelete_inv
    | with_reducible apply Dev.objFree_inv
    | with_reducible apply Dev.paceEnd_inv
    | with_reducible apply Dev.grPut_inv
    | with_reducible apply Dev.grShow_inv
    | with_reducible apply Dev.resetRegs_inv
    | simp only [↓Dev.inv_mk]
    | (split <;> (try dsimp only))
    | intro _

theorem opGroupDelete_inv {N G : Nat} {M : Option (List Host.Cell)}  (d : Dev) (q : MbxReq) (h_d : d.InvAt N G M) : ((opGroupDelete).body d q).2.InvAt N G M := by
  unfold opGroupDelete
  try dsimp only
  repeat' first
    | with_reducible assumption
    | with_reducible apply Dev.groupDelete_inv
    | with_reducible apply hf
    | simp only [↓Dev.inv_mk]
    | (split <;> (try dsimp only))
    | intro _

theorem execGroupDelete_keeps {N G : Nat} (q : MbxReq) (s : State) (h_s : s.dev.InvAt N G none) : Res.Keeps N G none s.pending (execGroupDelete q s) := by
  exact MbxOp.run_keeps _ q s h_s fun d r h_d => opGroupDelete_inv  d r h_d

theorem opGroupPolicy_inv {N G : Nat} {M : Option (List Host.Cell)}  (d : Dev) (q : MbxReq) (h_d : d.InvAt N G M) : ((opGroupPolicy).body d q).2.InvAt N G M := by
  unfold opGroupPolicy
  try dsimp only
  repeat' first
    | with_reducible assumption
    | with_reducible apply Dev.groupPolicy_inv
    | with_reducible apply hf
    | simp only [↓Dev.inv_mk]
    | (split <;> (try dsimp only))
    | intro _

theorem execGroupPolicy_keeps {N G : Nat} (q : MbxReq) (s : State) (h_s : s.dev.InvAt N G none) : Res.Keeps N G none s.pending (execGroupPolicy q s) := by
  exact MbxOp.run_keeps _ q s h_s fun d r h_d => opGroupPolicy_inv  d r h_d

theorem opObjAlloc_inv {N G : Nat} {M : Option (List Host.Cell)}  (d : Dev) (q : MbxReq) (h_d : d.InvAt N G M) : ((opObjAlloc).body d q).2.InvAt N G M := by
  unfold opObjAlloc
  try dsimp only
  repeat' first
    | with_reducible assumption
    | with_reducible (refine Dev.objAllocs_inv _ _ _ _ _ _ _ _ (by assumption) ?_)
    | with_reducible apply hf
    | simp only [↓Dev.inv_mk]
    | (split <;> (try dsimp only))
    | intro _

theorem execObjAlloc_keeps {N G : Nat} (q : MbxReq) (s : State) (h_s : s.dev.InvAt N G none) : Res.Keeps N G none s.pending (execObjAlloc q s) := by
  exact MbxOp.run_keeps _ q s h_s fun d r h_d => opObjAlloc_inv  d r h_d

theorem Dev.freeAll_inv {N G : Nat} {M : Option (List Host.Cell)} (d : Dev) (hs : List Nat) (h_d : d.InvAt N G M) : (Dev.freeAll d hs).2.InvAt N G M := by
  unfold Dev.freeAll
  try dsimp only
  repeat' first
    | with_reducible assumption
    | with_reducible apply List.foldl_inv
    | with_reducible apply List.foldl_inv2
    | with_reducible apply Dev.objFree_inv
    | simp only [↓Dev.inv_mk]
    | (split <;> (try dsimp only))
    | intro _

theorem opObjFree_inv {N G : Nat} {M : Option (List Host.Cell)}  (d : Dev) (q : MbxReq) (h_d : d.InvAt N G M) : ((opObjFree).body d q).2.InvAt N G M := by
  unfold opObjFree
  try dsimp only
  repeat' first
    | with_reducible assumption
    | with_reducible apply Dev.st_inv
    | with_reducible apply Dev.freeAll_inv
    | with_reducible apply hf
    | simp only [↓Dev.inv_mk]
    | (split <;> (try dsimp only))
    | intro _

theorem execObjFree_keeps {N G : Nat} (q : MbxReq) (s : State) (h_s : s.dev.InvAt N G none) : Res.Keeps N G none s.pending (execObjFree q s) := by
  exact MbxOp.run_keeps _ q s h_s fun d r h_d => opObjFree_inv  d r h_d

theorem opCtxCreate_inv {N G : Nat} {M : Option (List Host.Cell)}  (d : Dev) (q : MbxReq) (h_d : d.InvAt N G M) : ((opCtxCreate).body d q).2.InvAt N G M := by
  unfold opCtxCreate
  try dsimp only
  repeat' first
    | with_reducible assumption
    | with_reducible apply Dev.ctxCreate_inv
    | with_reducible apply hf
    | simp only [↓Dev.inv_mk]
    | (split <;> (try dsimp only))
    | intro _

theorem execCtxCreate_keeps {N G : Nat} (q : MbxReq) (s : State) (h_s : s.dev.InvAt N G none) : Res.Keeps N G none s.pending (execCtxCreate q s) := by
  exact MbxOp.run_keeps _ q s h_s fun d r h_d => opCtxCreate_inv  d r h_d

theorem opCtxDelete_inv {N G : Nat} {M : Option (List Host.Cell)}  (d : Dev) (q : MbxReq) (h_d : d.InvAt N G M) : ((opCtxDelete).body d q).2.InvAt N G M := by
  unfold opCtxDelete
  try dsimp only
  repeat' first
    | with_reducible assumption
    | with_reducible apply Dev.ctxDelete_inv
    | with_reducible apply hf
    | simp only [↓Dev.inv_mk]
    | (split <;> (try dsimp only))
    | intro _

theorem execCtxDelete_keeps {N G : Nat} (q : MbxReq) (s : State) (h_s : s.dev.InvAt N G none) : Res.Keeps N G none s.pending (execCtxDelete q s) := by
  exact MbxOp.run_keeps _ q s h_s fun d r h_d => opCtxDelete_inv  d r h_d

theorem Dev.castleBoard_inv {N G : Nat} {M : Option (List Host.Cell)} (d : Dev) (lost : Nat) (gs : List Nat) (h_d : d.InvAt N G M) : (Dev.castleBoard d lost gs).InvAt N G M := by
  unfold Dev.castleBoard
  try dsimp only
  repeat' first
    | with_reducible assumption
    | with_reducible apply List.foldl_inv
    | with_reducible apply List.foldl_inv2
    | with_reducible apply Dev.abortOpen_inv
    | with_reducible apply Dev.dropResults_inv
    | with_reducible apply hf
    | simp only [↓Dev.inv_mk]
    | (split <;> (try dsimp only))
    | intro _

theorem Dev.castlePower_inv {N G : Nat} {M : Option (List Host.Cell)} (d : Dev) (g m lost repl : Nat) (h_d : d.InvAt N G M) : (Dev.castlePower d g m lost repl).InvAt N G M := by
  unfold Dev.castlePower
  try dsimp only
  repeat' first
    | with_reducible assumption
    | with_reducible apply Dev.grPut_inv
    | with_reducible apply Dev.applyStaged_inv
    | with_reducible apply Dev.request_inv
    | with_reducible apply Dev.wr_inv
    | with_reducible apply Dev.applyB_inv
    | simp only [↓Dev.inv_mk]
    | (split <;> (try dsimp only))
    | intro _

theorem Dev.castle_inv {N G : Nat} {M : Option (List Host.Cell)} (d : Dev) (lost : Nat) (repl : Nat) (wake : Bool) (h_d : d.InvAt N G M) : (Dev.castle d lost repl wake).InvAt N G M := by
  unfold Dev.castle
  try dsimp only
  repeat' first
    | with_reducible assumption
    | with_reducible apply List.foldl_inv
    | with_reducible apply List.foldl_inv2
    | with_reducible apply Dev.castleBoard_inv
    | with_reducible apply Dev.castlePower_inv
    | with_reducible apply Dev.wrw_inv
    | with_reducible apply Dev.endWaiters_inv
    | with_reducible apply hf
    | simp only [↓Dev.inv_mk]
    | (split <;> (try dsimp only))
    | intro _

theorem opCastle_inv {N G : Nat} {M : Option (List Host.Cell)}  (d : Dev) (q : MbxReq) (h_d : d.InvAt N G M) : ((opCastle).body d q).2.InvAt N G M := by
  unfold opCastle
  try dsimp only
  repeat' first
    | with_reducible assumption
    | with_reducible apply Dev.castle_inv
    | with_reducible apply hf
    | simp only [↓Dev.inv_mk]
    | (split <;> (try dsimp only))
    | intro _

theorem execCastle_keeps {N G : Nat} (q : MbxReq) (s : State) (h_s : s.dev.InvAt N G none) : Res.Keeps N G none s.pending (execCastle q s) := by
  exact MbxOp.run_keeps _ q s h_s fun d r h_d => opCastle_inv  d r h_d

theorem opAccConfig_inv {N G : Nat} {M : Option (List Host.Cell)}  (d : Dev) (q : MbxReq) (h_d : d.InvAt N G M) : ((opAccConfig).body d q).2.InvAt N G M := by
  unfold opAccConfig
  try dsimp only
  repeat' first
    | with_reducible assumption
    | with_reducible apply Dev.bindOk_inv
    | with_reducible apply Dev.forceSideband_inv
    | with_reducible apply hf
    | simp only [↓Dev.inv_mk]
    | (split <;> (try dsimp only))
    | intro _

theorem execAccConfig_keeps {N G : Nat} (q : MbxReq) (s : State) (h_s : s.dev.InvAt N G none) : Res.Keeps N G none s.pending (execAccConfig q s) := by
  exact MbxOp.run_keeps _ q s h_s fun d r h_d => opAccConfig_inv  d r h_d

theorem opGetAcc_inv {N G : Nat} {M : Option (List Host.Cell)}  (d : Dev) (q : MbxReq) (h_d : d.InvAt N G M) : ((opGetAcc).body d q).2.InvAt N G M := by
  unfold opGetAcc
  try dsimp only
  repeat' first
    | with_reducible assumption
    | with_reducible apply hf
    | simp only [↓Dev.inv_mk]
    | (split <;> (try dsimp only))
    | intro _

theorem execGetAcc_keeps {N G : Nat} (q : MbxReq) (s : State) (h_s : s.dev.InvAt N G none) : Res.Keeps N G none s.pending (execGetAcc q s) := by
  exact MbxOp.run_keeps _ q s h_s fun d r h_d => opGetAcc_inv  d r h_d

end Sys2Proof.Machine
end

