-- ==== Sys2Proof/Laws/InvMbxGeneral.lean ====
section
/-! SUPPORT. Every operation of Machine/MbxGeneral.lean keeps the invariant. -/

namespace Sys2Proof.Machine

theorem opGetVersion_inv {N G : Nat} {M : Option (List Host.Cell)}  (d : Dev) (q : MbxReq) (h_d : d.InvAt N G M) : ((opGetVersion).body d q).2.InvAt N G M := by
  unfold opGetVersion
  try dsimp only
  repeat' first
    | with_reducible assumption
    | with_reducible apply hf
    | simp only [↓Dev.inv_mk]
    | (split <;> (try dsimp only))
    | intro _

theorem execGetVersion_keeps {N G : Nat} (q : MbxReq) (s : State) (h_s : s.dev.InvAt N G none) : Res.Keeps N G none s.pending (execGetVersion q s) := by
  exact MbxOp.run_keeps _ q s h_s fun d r h_d => opGetVersion_inv  d r h_d

theorem opGetIdentity_inv {N G : Nat} {M : Option (List Host.Cell)}  (d : Dev) (q : MbxReq) (h_d : d.InvAt N G M) : ((opGetIdentity).body d q).2.InvAt N G M := by
  unfold opGetIdentity
  try dsimp only
  repeat' first
    | with_reducible assumption
    | with_reducible apply hf
    | simp only [↓Dev.inv_mk]
    | (split <;> (try dsimp only))
    | intro _

theorem execGetIdentity_keeps {N G : Nat} (q : MbxReq) (s : State) (h_s : s.dev.InvAt N G none) : Res.Keeps N G none s.pending (execGetIdentity q s) := by
  exact MbxOp.run_keeps _ q s h_s fun d r h_d => opGetIdentity_inv  d r h_d

theorem opGetStatus_inv {N G : Nat} {M : Option (List Host.Cell)}  (d : Dev) (q : MbxReq) (h_d : d.InvAt N G M) : ((opGetStatus).body d q).2.InvAt N G M := by
  unfold opGetStatus
  try dsimp only
  repeat' first
    | with_reducible assumption
    | with_reducible apply hf
    | simp only [↓Dev.inv_mk]
    | (split <;> (try dsimp only))
    | intro _

theorem execGetStatus_keeps {N G : Nat} (q : MbxReq) (s : State) (h_s : s.dev.InvAt N G none) : Res.Keeps N G none s.pending (execGetStatus q s) := by
  exact MbxOp.run_keeps _ q s h_s fun d r h_d => opGetStatus_inv  d r h_d

theorem opGetResetCause_inv {N G : Nat} {M : Option (List Host.Cell)}  (d : Dev) (q : MbxReq) (h_d : d.InvAt N G M) : ((opGetResetCause).body d q).2.InvAt N G M := by
  unfold opGetResetCause
  try dsimp only
  repeat' first
    | with_reducible assumption
    | with_reducible apply hf
    | simp only [↓Dev.inv_mk]
    | (split <;> (try dsimp only))
    | intro _

theorem execGetResetCause_keeps {N G : Nat} (q : MbxReq) (s : State) (h_s : s.dev.InvAt N G none) : Res.Keeps N G none s.pending (execGetResetCause q s) := by
  exact MbxOp.run_keeps _ q s h_s fun d r h_d => opGetResetCause_inv  d r h_d

theorem opGetTime_inv {N G : Nat} {M : Option (List Host.Cell)}  (d : Dev) (q : MbxReq) (h_d : d.InvAt N G M) : ((opGetTime).body d q).2.InvAt N G M := by
  unfold opGetTime
  try dsimp only
  repeat' first
    | with_reducible assumption
    | with_reducible apply hf
    | simp only [↓Dev.inv_mk]
    | (split <;> (try dsimp only))
    | intro _

theorem execGetTime_keeps {N G : Nat} (q : MbxReq) (s : State) (h_s : s.dev.InvAt N G none) : Res.Keeps N G none s.pending (execGetTime q s) := by
  exact MbxOp.run_keeps _ q s h_s fun d r h_d => opGetTime_inv  d r h_d

theorem opGetOpcodes_inv {N G : Nat} {M : Option (List Host.Cell)}  (d : Dev) (q : MbxReq) (h_d : d.InvAt N G M) : ((opGetOpcodes).body d q).2.InvAt N G M := by
  unfold opGetOpcodes
  try dsimp only
  repeat' first
    | with_reducible assumption
    | with_reducible apply hf
    | simp only [↓Dev.inv_mk]
    | (split <;> (try dsimp only))
    | intro _

theorem execGetOpcodes_keeps {N G : Nat} (q : MbxReq) (s : State) (h_s : s.dev.InvAt N G none) : Res.Keeps N G none s.pending (execGetOpcodes q s) := by
  exact MbxOp.run_keeps _ q s h_s fun d r h_d => opGetOpcodes_inv  d r h_d

theorem execMbxUnknownOpcode_keeps {N G : Nat} (op : BitVec 16) (q : MbxReq) (s : State) (h_s : s.dev.InvAt N G none) : Res.Keeps N G none s.pending (execMbxUnknownOpcode op q s) := by
  apply State.run_keeps
  try dsimp only
  repeat' first
    | with_reducible assumption
    | with_reducible apply Dev.mbxArrive_inv
    | with_reducible apply hf
    | simp only [↓Dev.inv_mk]
    | (split <;> (try dsimp only))
    | intro _

theorem Dev.leaseSet_inv {N G : Nat} {M : Option (List Host.Cell)} (d : Dev) (st : Nat) (xport : Nat) (h_d : d.InvAt N G M) : (Dev.leaseSet d st xport).InvAt N G M := by
  unfold Dev.leaseSet
  try dsimp only
  repeat' first
    | with_reducible assumption
    | with_reducible apply Dev.st_inv
    | with_reducible apply Dev.wr_inv
    | with_reducible apply Dev.vector_inv
    | simp only [↓Dev.inv_mk]
    | (split <;> (try dsimp only))
    | intro _

theorem opHeartbeat_inv {N G : Nat} {M : Option (List Host.Cell)}  (d : Dev) (q : MbxReq) (h_d : d.InvAt N G M) : ((opHeartbeat).body d q).2.InvAt N G M := by
  unfold opHeartbeat
  try dsimp only
  repeat' first
    | with_reducible assumption
    | with_reducible apply Dev.leaseSet_inv
    | with_reducible apply hf
    | simp only [↓Dev.inv_mk]
    | (split <;> (try dsimp only))
    | intro _

theorem execHeartbeat_keeps {N G : Nat} (q : MbxReq) (s : State) (h_s : s.dev.InvAt N G none) : Res.Keeps N G none s.pending (execHeartbeat q s) := by
  exact MbxOp.run_keeps _ q s h_s fun d r h_d => opHeartbeat_inv  d r h_d

theorem opReleaseLease_inv {N G : Nat} {M : Option (List Host.Cell)}  (d : Dev) (q : MbxReq) (h_d : d.InvAt N G M) : ((opReleaseLease).body d q).2.InvAt N G M := by
  unfold opReleaseLease
  try dsimp only
  repeat' first
    | with_reducible assumption
    | with_reducible apply Dev.leaseSet_inv
    | with_reducible apply hf
    | simp only [↓Dev.inv_mk]
    | (split <;> (try dsimp only))
    | intro _

theorem execReleaseLease_keeps {N G : Nat} (q : MbxReq) (s : State) (h_s : s.dev.InvAt N G none) : Res.Keeps N G none s.pending (execReleaseLease q s) := by
  exact MbxOp.run_keeps _ q s h_s fun d r h_d => opReleaseLease_inv  d r h_d

theorem execLeaseExpiry_keeps {N G : Nat} {M : Option (List Host.Cell)} (s : State) (h_s : s.dev.InvAt N G M) : Res.Keeps N G M s.pending (execLeaseExpiry s) := by
  apply State.run_keeps
  try dsimp only
  repeat' first
    | with_reducible assumption
    | with_reducible apply Dev.leaseSet_inv
    | with_reducible apply Dev.event_inv
    | with_reducible apply hf
    | simp only [↓Dev.inv_mk]
    | (split <;> (try dsimp only))
    | intro _

theorem execLeaseWarning_keeps {N G : Nat} {M : Option (List Host.Cell)} (s : State) (h_s : s.dev.InvAt N G M) : Res.Keeps N G M s.pending (execLeaseWarning s) := by
  apply State.run_keeps
  try dsimp only
  repeat' first
    | with_reducible assumption
    | with_reducible apply Dev.vector_inv
    | with_reducible apply hf
    | simp only [↓Dev.inv_mk]
    | (split <;> (try dsimp only))
    | intro _

theorem execMbxChDone_keeps {N G : Nat} {M : Option (List Host.Cell)} (c : Fin 4) (s : State) (h_s : s.dev.InvAt N G M) : Res.Keeps N G M s.pending (execMbxChDone c s) := by
  apply State.run_keeps
  try dsimp only
  repeat' first
    | with_reducible assumption
    | with_reducible apply Dev.wr_inv
    | with_reducible apply hf
    | simp only [↓Dev.inv_mk]
    | (split <;> (try dsimp only))
    | intro _

theorem execCompletionWrite_keeps {N G : Nat} {M : Option (List Host.Cell)} (s : State) (h_s : s.dev.InvAt N G M) : Res.Keeps N G M s.pending (execCompletionWrite s) := by
  apply State.run_keeps
  try dsimp only
  repeat' first
    | with_reducible assumption
    | with_reducible apply Dev.complCommit_inv
    | with_reducible apply hf
    | simp only [↓Dev.inv_mk]
    | (split <;> (try dsimp only))
    | intro _

theorem Dev.replyTimeouts_inv {N G : Nat} (d : Dev) (h_d : d.InvAt N G none) : (Dev.replyTimeouts d).InvAt N G none := by
  unfold Dev.replyTimeouts
  try dsimp only
  repeat' first
    | with_reducible assumption
    | with_reducible apply List.foldl_inv
    | with_reducible apply List.foldl_inv2
    | with_reducible apply Dev.replyHeld_inv
    | with_reducible apply hf
    | simp only [↓Dev.inv_mk]
    | (split <;> (try dsimp only))
    | intro _

theorem execReplyTimeout_keeps {N G : Nat} (s : State) (h_s : s.dev.InvAt N G none) : Res.Keeps N G none s.pending (execReplyTimeout s) := by
  apply State.run_keeps
  try dsimp only
  repeat' first
    | with_reducible assumption
    | with_reducible apply Dev.replyTimeouts_inv
    | with_reducible apply hf
    | simp only [↓Dev.inv_mk]
    | (split <;> (try dsimp only))
    | intro _

theorem opTlmFrames_inv {N G : Nat} {M : Option (List Host.Cell)}  (d : Dev) (q : MbxReq) (h_d : d.InvAt N G M) : ((opTlmFrames).body d q).2.InvAt N G M := by
  unfold opTlmFrames
  try dsimp only
  repeat' first
    | with_reducible assumption
    | with_reducible apply hf
    | simp only [↓Dev.inv_mk]
    | (split <;> (try dsimp only))
    | intro _

theorem execTlmFrames_keeps {N G : Nat} (q : MbxReq) (s : State) (h_s : s.dev.InvAt N G none) : Res.Keeps N G none s.pending (execTlmFrames q s) := by
  exact MbxOp.run_keeps _ q s h_s fun d r h_d => opTlmFrames_inv  d r h_d

theorem opLogConfig_inv {N G : Nat} {M : Option (List Host.Cell)}  (d : Dev) (q : MbxReq) (h_d : d.InvAt N G M) : ((opLogConfig).body d q).2.InvAt N G M := by
  unfold opLogConfig
  try dsimp only
  repeat' first
    | with_reducible assumption
    | with_reducible apply hf
    | simp only [↓Dev.inv_mk]
    | (split <;> (try dsimp only))
    | intro _

theorem execLogConfig_keeps {N G : Nat} (q : MbxReq) (s : State) (h_s : s.dev.InvAt N G none) : Res.Keeps N G none s.pending (execLogConfig q s) := by
  exact MbxOp.run_keeps _ q s h_s fun d r h_d => opLogConfig_inv  d r h_d

theorem Dev.logStn_inv {N G : Nat} (d : Dev) (p : Nat) (b : List Byte) (h_d : d.InvAt N G none) : (Dev.logStn d p b).InvAt N G none := by
  unfold Dev.logStn
  try dsimp only
  repeat' first
    | with_reducible assumption
    | with_reducible apply Dev.stn_inv
    | simp only [↓Dev.inv_mk]
    | (split <;> (try dsimp only))
    | intro _

theorem Dev.logRecord_inv {N G : Nat} (d : Dev) (core : Nat) (level : Nat) (code : Nat) (args : List Byte) (h_d : d.InvAt N G none) : (Dev.logRecord d core level code args).InvAt N G none := by
  unfold Dev.logRecord
  try dsimp only
  repeat' first
    | with_reducible assumption
    | with_reducible apply Dev.logStn_inv
    | with_reducible apply Dev.cqSend_inv
    | simp only [↓Dev.inv_mk]
    | (split <;> (try dsimp only))
    | intro _

theorem execLogRecord_keeps {N G : Nat} (core : Fin 11) (level : Fin 4) (code : Word) (args : List Byte) (s : State) (h_s : s.dev.InvAt N G none) : Res.Keeps N G none s.pending (execLogRecord core level code args s) := by
  apply State.run_keeps
  try dsimp only
  repeat' first
    | with_reducible assumption
    | with_reducible apply Dev.logRecord_inv
    | with_reducible apply hf
    | simp only [↓Dev.inv_mk]
    | (split <;> (try dsimp only))
    | intro _

theorem opLogRead_inv {N G : Nat} {M : Option (List Host.Cell)}  (d : Dev) (q : MbxReq) (h_d : d.InvAt N G M) : ((opLogRead).body d q).2.InvAt N G M := by
  unfold opLogRead
  try dsimp only
  repeat' first
    | with_reducible assumption
    | with_reducible apply hf
    | simp only [↓Dev.inv_mk]
    | (split <;> (try dsimp only))
    | intro _

theorem execLogRead_keeps {N G : Nat} (q : MbxReq) (s : State) (h_s : s.dev.InvAt N G none) : Res.Keeps N G none s.pending (execLogRead q s) := by
  exact MbxOp.run_keeps _ q s h_s fun d r h_d => opLogRead_inv  d r h_d

theorem opTraceSet_inv {N G : Nat} {M : Option (List Host.Cell)}  (d : Dev) (q : MbxReq) (h_d : d.InvAt N G M) : ((opTraceSet).body d q).2.InvAt N G M := by
  unfold opTraceSet
  try dsimp only
  repeat' first
    | with_reducible assumption
    | with_reducible apply hf
    | simp only [↓Dev.inv_mk]
    | (split <;> (try dsimp only))
    | intro _

theorem execTraceSet_keeps {N G : Nat} (q : MbxReq) (s : State) (h_s : s.dev.InvAt N G none) : Res.Keeps N G none s.pending (execTraceSet q s) := by
  exact MbxOp.run_keeps _ q s h_s fun d r h_d => opTraceSet_inv  d r h_d

theorem Dev.tracePoint_inv {N G : Nat} {M : Option (List Host.Cell)} (d : Dev) (n : Nat) (core : Nat) (arg : Nat) (h_d : d.InvAt N G M) : (Dev.tracePoint d n core arg).InvAt N G M := by
  unfold Dev.tracePoint
  try dsimp only
  repeat' first
    | with_reducible assumption
    | with_reducible apply Dev.cqStreamWord_inv
    | simp only [↓Dev.inv_mk]
    | (split <;> (try dsimp only))
    | intro _

theorem execTracePoint_keeps {N G : Nat} {M : Option (List Host.Cell)} (n : Byte) (core : Fin 11) (arg : Word) (s : State) (h_s : s.dev.InvAt N G M) : Res.Keeps N G M s.pending (execTracePoint n core arg s) := by
  apply State.run_keeps
  try dsimp only
  repeat' first
    | with_reducible assumption
    | with_reducible apply Dev.tracePoint_inv
    | with_reducible apply hf
    | simp only [↓Dev.inv_mk]
    | (split <;> (try dsimp only))
    | intro _

theorem opEcho_inv {N G : Nat} {M : Option (List Host.Cell)}  (d : Dev) (q : MbxReq) (h_d : d.InvAt N G M) : ((opEcho).body d q).2.InvAt N G M := by
  unfold opEcho
  try dsimp only
  repeat' first
    | with_reducible assumption
    | with_reducible apply hf
    | simp only [↓Dev.inv_mk]
    | (split <;> (try dsimp only))
    | intro _

theorem execEcho_keeps {N G : Nat} (q : MbxReq) (s : State) (h_s : s.dev.InvAt N G none) : Res.Keeps N G none s.pending (execEcho q s) := by
  exact MbxOp.run_keeps _ q s h_s fun d r h_d => opEcho_inv  d r h_d

theorem opFreeze_inv {N G : Nat} {M : Option (List Host.Cell)}  (d : Dev) (q : MbxReq) (h_d : d.InvAt N G M) : ((opFreeze).body d q).2.InvAt N G M := by
  unfold opFreeze
  try dsimp only
  repeat' first
    | with_reducible assumption
    | with_reducible apply Dev.snapFire_inv
    | with_reducible apply hf
    | simp only [↓Dev.inv_mk]
    | (split <;> (try dsimp only))
    | intro _

theorem execFreeze_keeps {N G : Nat} (q : MbxReq) (s : State) (h_s : s.dev.InvAt N G none) : Res.Keeps N G none s.pending (execFreeze q s) := by
  exact MbxOp.run_keeps _ q s h_s fun d r h_d => opFreeze_inv  d r h_d

theorem opFfrArchive_inv {N G : Nat} {M : Option (List Host.Cell)}  (d : Dev) (q : MbxReq) (h_d : d.InvAt N G M) : ((opFfrArchive).body d q).2.InvAt N G M := by
  unfold opFfrArchive
  try dsimp only
  repeat' first
    | with_reducible assumption
    | with_reducible apply Dev.accepting_inv
    | with_reducible apply hf
    | simp only [↓Dev.inv_mk]
    | (split <;> (try dsimp only))
    | intro _

theorem execFfrArchive_keeps {N G : Nat} (q : MbxReq) (s : State) (h_s : s.dev.InvAt N G none) : Res.Keeps N G none s.pending (execFfrArchive q s) := by
  exact MbxOp.run_keeps _ q s h_s fun d r h_d => opFfrArchive_inv  d r h_d

theorem Dev.ffrArchive_inv {N G : Nat} (d : Dev) (ok : Bool) (h_d : d.InvAt N G none) : (Dev.ffrArchive d ok).InvAt N G none := by
  unfold Dev.ffrArchive
  try dsimp only
  repeat' first
    | with_reducible assumption
    | with_reducible apply List.foldl_inv
    | with_reducible apply List.foldl_inv2
    | with_reducible apply Dev.clearRange_inv
    | with_reducible apply Dev.stn_inv
    | with_reducible apply Dev.inc_inv
    | with_reducible apply Dev.wr_inv
    | with_reducible apply Dev.complete_inv
    | with_reducible apply hf
    | simp only [↓Dev.inv_mk]
    | (split <;> (try dsimp only))
    | intro _

theorem execRecorderArchive_keeps {N G : Nat} (ok : Bool) (s : State) (h_s : s.dev.InvAt N G none) : Res.Keeps N G none s.pending (execRecorderArchive ok s) := by
  apply State.run_keeps
  try dsimp only
  repeat' first
    | with_reducible assumption
    | with_reducible apply Dev.ffrArchive_inv
    | with_reducible apply hf
    | simp only [↓Dev.inv_mk]
    | (split <;> (try dsimp only))
    | intro _

end Sys2Proof.Machine
end

