-- ==== Sys2Proof/Laws/Exec.lean ====
section
/-! SUPPORT. Every command answers a next state, leaves the queue alone and keeps the invariant. -/

namespace Sys2Proof.Machine

theorem exec_keeps {N G : Nat} (c : Instr) (s : State) (h_s : s.dev.InvAt N G none) : Res.Keeps N G none s.pending (exec c s) :=
  match c with
  | .registerWrite by_ a w v => execRegisterWrite_keeps by_ a w v s h_s
  | .counterClearWrite by_ a => execCounterClearWrite_keeps by_ a s h_s
  | .setWriteLock by_ => execSetWriteLock_keeps by_ s h_s
  | .counterLowRead by_ a => execCounterLowRead_keeps by_ a s h_s
  | .wideFieldLowWrite by_ a v => execWideFieldLowWrite_keeps by_ a v s h_s
  | .wideFieldHighWrite by_ a v => execWideFieldHighWrite_keeps by_ a v s h_s
  | .hvBridgeTransfer ch crcOk => execHvBridgeTransfer_keeps ch crcOk s h_s
  | .crystalLoss => execCrystalLoss_keeps s h_s
  | .codeWordRead m w r => execCodeWordRead_keeps m w r s h_s
  | .eccWriteback m w => execEccWriteback_keeps m w s h_s
  | .patrolScrub m w r => execPatrolScrub_keeps m w r s h_s
  | .scrubPeriodMissed hbm => execScrubPeriodMissed_keeps hbm s h_s
  | .powerOnReset capsel hswsel goldenLow mfgLow => execPowerOnReset_keeps capsel hswsel goldenLow mfgLow s h_s
  | .coldReset => execColdReset_keeps s h_s
  | .warmReset => execWarmReset_keeps s h_s
  | .pcieReset => execPcieReset_keeps s h_s
  | .coldReq by_ v => execColdReq_keeps by_ v s h_s
  | .warmReq by_ v => execWarmReq_keeps by_ v s h_s
  | .clearCause by_ v => execClearCause_keeps by_ v s h_s
  | .coreResetReq by_ v => execCoreResetReq_keeps by_ v s h_s
  | .secWarmRequest => execSecWarmRequest_keeps s h_s
  | .deferredColdReset => execDeferredColdReset_keeps s h_s
  | .corePowerRestart => execCorePowerRestart_keeps s h_s
  | .nop o => execNop_keeps o s h_s
  | .wait o => execWait_keeps o s h_s
  | .branch o taken target => execBranch_keeps o taken target s h_s
  | .loop o again target => execLoop_keeps o again target s h_s
  | .setshape o m n k => execSetshape_keeps o m n k s h_s
  | .yield o => execYield_keeps o s h_s
  | .endProgram o => execEndProgram_keeps o s h_s
  | .mma o bank => execMma_keeps o bank s h_s
  | .stacc o bank => execStacc_keeps o bank s h_s
  | .clracc o bank => execClracc_keeps o bank s h_s
  | .vectorArithmetic o op n => execVectorArithmetic_keeps o op n s h_s
  | .vectorDivSqrt o sqrt n => execVectorDivSqrt_keeps o sqrt n s h_s
  | .vectorTranscendental o op n => execVectorTranscendental_keeps o op n s h_s
  | .vectorInteger o op n => execVectorInteger_keeps o op n s h_s
  | .vectorConvert o n => execVectorConvert_keeps o n s h_s
  | .reduce o op n => execReduce_keeps o op n s h_s
  | .gather o n => execGather_keeps o n s h_s
  | .scatter o n => execScatter_keeps o n s h_s
  | .treebatch o v nf => execTreebatch_keeps o v nf s h_s
  | .treecfg o cfg => execTreecfg_keeps o cfg s h_s
  | .copy o da sa len => execCopy_keeps o da sa len s h_s
  | .copy2d o da sa len rows dstr sstr => execCopy2d_keeps o da sa len rows dstr sstr s h_s
  | .signal o l => execSignal_keeps o l s h_s
  | .waitsig o => execWaitsig_keeps o s h_s
  | .reservedOpc o opc => execReservedOpc_keeps o opc s h_s
  | .tileApertureWrite t off w v => execTileApertureWrite_keeps t off w v s h_s
  | .tileApertureRead t off w => execTileApertureRead_keeps t off w s h_s
  | .loaderLoad => execLoaderLoad_keeps s h_s
  | .slotCommit n => execSlotCommit_keeps n s h_s
  | .slotCtrlRetire n => execSlotCtrlRetire_keeps n s h_s
  | .slotInvoke n => execSlotInvoke_keeps n s h_s
  | .slotTimerTick n => execSlotTimerTick_keeps n s h_s
  | .invocationCommit n outs => execInvocationCommit_keeps n outs s h_s
  | .invocationWatchdog n => execInvocationWatchdog_keeps n s h_s
  | .tileHeartbeatAdvance t => execTileHeartbeatAdvance_keeps t s h_s
  | .cccHeartbeatCheck c pass => execCccHeartbeatCheck_keeps c pass s h_s
  | .reserveSelfTest c pass => execReserveSelfTest_keeps c pass s h_s
  | .tileRowRemap t row => execTileRowRemap_keeps t row s h_s
  | .tileFault t kind pass => execTileFault_keeps t kind pass s h_s
  | .injectFatal t pass => execInjectFatal_keeps t pass s h_s
  | .tileSrSeedWrite t seed => execTileSrSeedWrite_keeps t seed s h_s
  | .bootTileSelfTest c good => execBootTileSelfTest_keeps c good s h_s
  | .vlEnWrite on => execVlEnWrite_keeps on s h_s
  | .linkEnWrite n on => execLinkEnWrite_keeps n on s h_s
  | .forceFail n => execForceFail_keeps n s h_s
  | .retrain n => execRetrain_keeps n s h_s
  | .detectEnd n beacon => execDetectEnd_keeps n beacon s h_s
  | .eqComplete n => execEqComplete_keeps n s h_s
  | .frameLock n => execFrameLock_keeps n s h_s
  | .param n p => execParam_keeps n p s h_s
  | .trainingStateTimeout n => execTrainingStateTimeout_keeps n s h_s
  | .standbyRefresh n relocked => execStandbyRefresh_keeps n relocked s h_s
  | .pcsFrameReceive n symErrs => execPcsFrameReceive_keeps n symErrs s h_s
  | .lossOfSignal n => execLossOfSignal_keeps n s h_s
  | .dataFlitReceive n f => execDataFlitReceive_keeps n f s h_s
  | .idle n ack => execIdle_keeps n ack s h_s
  | .status n ack credits => execStatus_keeps n ack credits s h_s
  | .nak n seq => execNak_keeps n seq s h_s
  | .replayMark n seq => execReplayMark_keeps n seq s h_s
  | .nakResendTimeout n => execNakResendTimeout_keeps n s h_s
  | .ackTimeout n => execAckTimeout_keeps n s h_s
  | .replayRateWindowEnd n => execReplayRateWindowEnd_keeps n s h_s
  | .roleFailed n pos role rxseq => execRoleFailed_keeps n pos role rxseq s h_s
  | .roleFailedAck n pos rxseq => execRoleFailedAck_keeps n pos rxseq s h_s
  | .roleAssume n role rxseq => execRoleAssume_keeps n role rxseq s h_s
  | .roleAssumeAck n role rxseq => execRoleAssumeAck_keeps n role rxseq s h_s
  | .roleResendTimeout a => execRoleResendTimeout_keeps a s h_s
  | .vlAccRoleWrite a ag v => execVlAccRoleWrite_keeps a ag v s h_s
  | .tsyncExchange a => execTsyncExchange_keeps a s h_s
  | .tsyncFollow a => execTsyncFollow_keeps a s h_s
  | .tsyncDreq a times offset path locked => execTsyncDreq_keeps a times offset path locked s h_s
  | .pairRsp a v => execPairRsp_keeps a v s h_s
  | .pairRspTimeout a => execPairRspTimeout_keeps a s h_s
  | .bindOkWrite a on => execBindOkWrite_keeps a on s h_s
  | .forceSideband a on => execForceSideband_keeps a on s h_s
  | .prsntEdge a asserted => execPrsntEdge_keeps a asserted s h_s
  | .opArrive src q => execOpArrive_keeps src q s h_s
  | .opWait src q => execOpWait_keeps src q s h_s
  | .opAdd src q => execOpAdd_keeps src q s h_s
  | .opFetchAdd src q => execOpFetchAdd_keeps src q s h_s
  | .opCas src q => execOpCas_keeps src q s h_s
  | .opSet src q => execOpSet_keeps src q s h_s
  | .opReset src q => execOpReset_keeps src q s h_s
  | .opReserved src op q => execOpReserved_keeps src op q s h_s
  | .syncWaitTimeout => execSyncWaitTimeout_keeps s h_s
  | .sobHopGo cmd => execSobHopGo_keeps cmd s h_s
  | .syncWindowRead off w => execSyncWindowRead_keeps off w s h_s
  | .syncWindowWrite off v => execSyncWindowWrite_keeps off v s h_s
  | .sobWaitersWrite => execSobWaitersWrite_keeps s h_s
  | .sobEnWrite ag on => execSobEnWrite_keeps ag on s h_s
  | .contribHeader n p => execContribHeader_keeps n p s h_s
  | .contrib n p => execContrib_keeps n p s h_s
  | .contribLast n p => execContribLast_keeps n p s h_s
  | .instanceReduction c => execInstanceReduction_keeps c s h_s
  | .instanceFinish c => execInstanceFinish_keeps c s h_s
  | .abort a p => execAbort_keeps a p s h_s
  | .instanceTimeout c => execInstanceTimeout_keeps c s h_s
  | .brdIcontrib ag v => execBrdIcontrib_keeps ag v s h_s
  | .brdEnWrite ag on => execBrdEnWrite_keeps ag on s h_s
  | .fastSample x => execFastSample_keeps x s h_s
  | .limiterWindowEnd => execLimiterWindowEnd_keeps s h_s
  | .budgetProposal b => execBudgetProposal_keeps b s h_s
  | .capForceExpiry g => execCapForceExpiry_keeps g s h_s
  | .pstateRequest a p => execPstateRequest_keeps a p s h_s
  | .pstateAck a p => execPstateAck_keeps a p s h_s
  | .pstateAckTimeout a => execPstateAckTimeout_keeps a s h_s
  | .voltageSettleDone a => execVoltageSettleDone_keeps a s h_s
  | .fillerAck a p => execFillerAck_keeps a p s h_s
  | .ptabValidWrite a on => execPtabValidWrite_keeps a on s h_s
  | .dvfsFaultClear a => execDvfsFaultClear_keeps a s h_s
  | .droopClearExpiry a => execDroopClearExpiry_keeps a s h_s
  | .droopHoldExpiry a => execDroopHoldExpiry_keeps a s h_s
  | .checkTrigger t active => execCheckTrigger_keeps t active s h_s
  | .checkForceWrite v => execCheckForceWrite_keeps v s h_s
  | .checkEnWrite v => execCheckEnWrite_keeps v s h_s
  | .checkLatchClear v => execCheckLatchClear_keeps v s h_s
  | .checkAutoRelease t => execCheckAutoRelease_keeps t s h_s
  | .mateTrigger coolFail => execMateTrigger_keeps coolFail s h_s
  | .matePowerdownStart => execMatePowerdownStart_keeps s h_s
  | .mateClear v => execMateClear_keeps v s h_s
  | .prerampTimer g => execPrerampTimer_keeps g s h_s
  | .guardbandLead g => execGuardbandLead_keeps g s h_s
  | .guardbandHoldEnd g => execGuardbandHoldEnd_keeps g s h_s
  | .sbLimitWrite a r => execSbLimitWrite_keeps a r s h_s
  | .sbLimitRefresh a => execSbLimitRefresh_keeps a s h_s
  | .sbLimitRetry a r => execSbLimitRetry_keeps a r s h_s
  | .ledgerFrameEnd => execLedgerFrameEnd_keeps s h_s
  | .tlmEnWrite on => execTlmEnWrite_keeps on s h_s
  | .tlm a p => execTlm_keeps a p s h_s
  | .frameRecordWrite => execFrameRecordWrite_keeps s h_s
  | .policyInputCopy => execPolicyInputCopy_keeps s h_s
  | .replayBlockStart => execReplayBlockStart_keeps s h_s
  | .shadowLoad => execShadowLoad_keeps s h_s
  | .gateEvaluation => execGateEvaluation_keeps s h_s
  | .promotionSwitch => execPromotionSwitch_keeps s h_s
  | .rollbackTimerExpiry => execRollbackTimerExpiry_keeps s h_s
  | .oroCtrlRollback => execOroCtrlRollback_keeps s h_s
  | .bringupOn => execBringupOn_keeps s h_s
  | .bringupOff => execBringupOff_keeps s h_s
  | .crystalStable => execCrystalStable_keeps s h_s
  | .startPermitted => execStartPermitted_keeps s h_s
  | .hotswapFault cause => execHotswapFault_keeps cause s h_s
  | .hswOn => execHswOn_keeps s h_s
  | .hswLimitEntry => execHswLimitEntry_keeps s h_s
  | .hswLimitExit => execHswLimitExit_keeps s h_s
  | .soaIntegrate vds vs => execSoaIntegrate_keeps vds vs s h_s
  | .hswCoolEnd => execHswCoolEnd_keeps s h_s
  | .uvFault => execUvFault_keeps s h_s
  | .uvRestore => execUvRestore_keeps s h_s
  | .seqCommit by_ => execSeqCommit_keeps by_ s h_s
  | .domainRequest dom on => execDomainRequest_keeps dom on s h_s
  | .delayOnExpiry n => execDelayOnExpiry_keeps n s h_s
  | .powerGoodChange n good => execPowerGoodChange_keeps n good s h_s
  | .qualComplete n => execQualComplete_keeps n s h_s
  | .rampTimeout n => execRampTimeout_keeps n s h_s
  | .qualTimeout n => execQualTimeout_keeps n s h_s
  | .drainComplete n => execDrainComplete_keeps n s h_s
  | .fallTimeout n => execFallTimeout_keeps n s h_s
  | .railFailedClear n => execRailFailedClear_keeps n s h_s
  | .prsntRemoved a => execPrsntRemoved_keeps a s h_s
  | .prsntQualified a => execPrsntQualified_keeps a s h_s
  | .resetStretchDone k => execResetStretchDone_keeps k s h_s
  | .rstHoldWrite hold => execRstHoldWrite_keeps hold s h_s
  | .selfRailRetry => execSelfRailRetry_keeps s h_s
  | .coldRestartDelay => execColdRestartDelay_keeps s h_s
  | .coolCommit by_ => execCoolCommit_keeps by_ s h_s
  | .fanWindowStart n => execFanWindowStart_keeps n s h_s
  | .tachEdge n => execTachEdge_keeps n s h_s
  | .fanWindowEnd n => execFanWindowEnd_keeps n s h_s
  | .fanTargetWrite n rpm => execFanTargetWrite_keeps n rpm s h_s
  | .kickExpiry n => execKickExpiry_keeps n s h_s
  | .kickGapEnd n => execKickGapEnd_keeps n s h_s
  | .fanFailedClear n => execFanFailedClear_keeps n s h_s
  | .reserveFanTest r => execReserveFanTest_keeps r s h_s
  | .reserveTestEnd r => execReserveTestEnd_keeps r s h_s
  | .fanCommission by_ n => execFanCommission_keeps by_ n s h_s
  | .commissionTimeout n => execCommissionTimeout_keeps n s h_s
  | .pumpMeasurement p t => execPumpMeasurement_keeps p t s h_s
  | .pumpTargetWrite p rpm => execPumpTargetWrite_keeps p rpm s h_s
  | .pumpFailedClear p => execPumpFailedClear_keeps p s h_s
  | .flowEdge l => execFlowEdge_keeps l s h_s
  | .flowWindowEvaluation l => execFlowWindowEvaluation_keeps l s h_s
  | .loopFaultClear l => execLoopFaultClear_keeps l s h_s
  | .leakReport r => execLeakReport_keeps r s h_s
  | .leakLatchClear z => execLeakLatchClear_keeps z s h_s
  | .tdConversion n temp fault => execTdConversion_keeps n temp fault s h_s
  | .coolModeWrite by_ m => execCoolModeWrite_keeps by_ m s h_s
  | .coolModeTimeout => execCoolModeTimeout_keeps s h_s
  | .hbmSoftRepair row room => execHbmSoftRepair_keeps row room s h_s
  | .adcScan r0 r1 r2 r3 spare => execAdcScan_keeps r0 r1 r2 r3 spare s h_s
  | .adcSample ch code => execAdcSample_keeps ch code s h_s
  | .chkOscFailure => execChkOscFailure_keeps s h_s
  | .watchdogKick k period => execWatchdogKick_keeps k period s h_s
  | .watchdogExpiry k => execWatchdogExpiry_keeps k s h_s
  | .endgameIdent => execEndgameIdent_keeps s h_s
  | .endgameState => execEndgameState_keeps s h_s
  | .endgameResetCause => execEndgameResetCause_keeps s h_s
  | .endgameRails => execEndgameRails_keeps s h_s
  | .endgameSupply => execEndgameSupply_keeps s h_s
  | .endgameProtect => execEndgameProtect_keeps s h_s
  | .endgameCooling => execEndgameCooling_keeps s h_s
  | .endgameRecorder => execEndgameRecorder_keeps s h_s
  | .goldenExit => execGoldenExit_keeps s h_s
  | .endgameAutoExit => execEndgameAutoExit_keeps s h_s
  | .romBoot golden => execRomBoot_keeps golden s h_s
  | .updateEraseComplete ok => execUpdateEraseComplete_keeps ok s h_s
  | .updateSessionTimeout => execUpdateSessionTimeout_keeps s h_s
  | .activationRelease => execActivationRelease_keeps s h_s
  | .autoConfirm => execAutoConfirm_keeps s h_s
  | .confirmTimeout => execConfirmTimeout_keeps s h_s
  | .wake golden scrubOk => execWake_keeps golden scrubOk s h_s
  | .spdmGetVersion ch => execSpdmGetVersion_keeps ch s h_s
  | .spdmGetCapabilities ch => execSpdmGetCapabilities_keeps ch s h_s
  | .spdmNegotiateAlgorithms ch p384 sha384 => execSpdmNegotiateAlgorithms_keeps ch p384 sha384 s h_s
  | .spdmGetDigests ch => execSpdmGetDigests_keeps ch s h_s
  | .spdmGetCertificate ch slot off len => execSpdmGetCertificate_keeps ch slot off len s h_s
  | .spdmChallenge ch nonce => execSpdmChallenge_keeps ch nonce s h_s
  | .spdmGetMeasurements ch index nonce => execSpdmGetMeasurements_keeps ch index nonce s h_s
  | .spdmUnsupportedRequest ch => execSpdmUnsupportedRequest_keeps ch s h_s
  | .setEndpointId ch eid => execSetEndpointId_keeps ch eid s h_s
  | .getEndpointId ch => execGetEndpointId_keeps ch s h_s
  | .getEndpointUuid ch => execGetEndpointUuid_keeps ch s h_s
  | .getMctpVersionSupport ch ty => execGetMctpVersionSupport_keeps ch ty s h_s
  | .getMessageTypeSupport ch => execGetMessageTypeSupport_keeps ch s h_s
  | .mbxUnknownOpcode op q => execMbxUnknownOpcode_keeps op q s h_s
  | .getVersion q => execGetVersion_keeps q s h_s
  | .getIdentity q => execGetIdentity_keeps q s h_s
  | .getStatus q => execGetStatus_keeps q s h_s
  | .heartbeat q => execHeartbeat_keeps q s h_s
  | .getResetCause q => execGetResetCause_keeps q s h_s
  | .getTime q => execGetTime_keeps q s h_s
  | .getOpcodes q => execGetOpcodes_keeps q s h_s
  | .releaseLease q => execReleaseLease_keeps q s h_s
  | .setTrayCap q => execSetTrayCap_keeps q s h_s
  | .getPower q => execGetPower_keeps q s h_s
  | .setStaticBudgets q => execSetStaticBudgets_keeps q s h_s
  | .setAccMax q => execSetAccMax_keeps q s h_s
  | .setCheckForce q => execSetCheckForce_keeps q s h_s
  | .clearCheckLatch q => execClearCheckLatch_keeps q s h_s
  | .clearMate q => execClearMate_keeps q s h_s
  | .setShaping q => execSetShaping_keeps q s h_s
  | .clockOpen q => execClockOpen_keeps q s h_s
  | .clockBind q => execClockBind_keeps q s h_s
  | .clockUnbind q => execClockUnbind_keeps q s h_s
  | .clockClose q => execClockClose_keeps q s h_s
  | .clockFree q => execClockFree_keeps q s h_s
  | .clockRead q => execClockRead_keeps q s h_s
  | .addTokens q => execAddTokens_keeps q s h_s
  | .signStatement q => execSignStatement_keeps q s h_s
  | .domainSet q => execDomainSet_keeps q s h_s
  | .getSeq q => execGetSeq_keeps q s h_s
  | .railClear q => execRailClear_keeps q s h_s
  | .resetHold q => execResetHold_keeps q s h_s
  | .deepSleep q => execDeepSleep_keeps q s h_s
  | .getCooling q => execGetCooling_keeps q s h_s
  | .setZoneFloor q => execSetZoneFloor_keeps q s h_s
  | .setCoolMode q => execSetCoolMode_keeps q s h_s
  | .commissionFan q => execCommissionFan_keeps q s h_s
  | .clearCoolFault q => execClearCoolFault_keeps q s h_s
  | .pkgBegin q => execPkgBegin_keeps q s h_s
  | .pkgData q => execPkgData_keeps q s h_s
  | .pkgLoad q => execPkgLoad_keeps q s h_s
  | .slotRetire q => execSlotRetire_keeps q s h_s
  | .slotQuery q => execSlotQuery_keeps q s h_s
  | .oroSet q => execOroSet_keeps q s h_s
  | .oroRollback q => execOroRollback_keeps q s h_s
  | .oroQuery q => execOroQuery_keeps q s h_s
  | .groupCreate q => execGroupCreate_keeps q s h_s
  | .groupDelete q => execGroupDelete_keeps q s h_s
  | .groupPolicy q => execGroupPolicy_keeps q s h_s
  | .objAlloc q => execObjAlloc_keeps q s h_s
  | .objFree q => execObjFree_keeps q s h_s
  | .ctxCreate q => execCtxCreate_keeps q s h_s
  | .ctxDelete q => execCtxDelete_keeps q s h_s
  | .castle q => execCastle_keeps q s h_s
  | .accConfig q => execAccConfig_keeps q s h_s
  | .getAcc q => execGetAcc_keeps q s h_s
  | .tlmFrames q => execTlmFrames_keeps q s h_s
  | .logConfig q => execLogConfig_keeps q s h_s
  | .logRead q => execLogRead_keeps q s h_s
  | .traceSet q => execTraceSet_keeps q s h_s
  | .updateBegin q => execUpdateBegin_keeps q s h_s
  | .updateData q => execUpdateData_keeps q s h_s
  | .updateCommit q => execUpdateCommit_keeps q s h_s
  | .updateCancel q => execUpdateCancel_keeps q s h_s
  | .updateActivate q => execUpdateActivate_keeps q s h_s
  | .updateConfirm q => execUpdateConfirm_keeps q s h_s
  | .updateReject q => execUpdateReject_keeps q s h_s
  | .updateStatus q => execUpdateStatus_keeps q s h_s
  | .getNonce q => execGetNonce_keeps q s h_s
  | .ownerKeyAdd q => execOwnerKeyAdd_keeps q s h_s
  | .ownerKeyRevoke q => execOwnerKeyRevoke_keeps q s h_s
  | .modelKeyEnrol q => execModelKeyEnrol_keeps q s h_s
  | .debugToken q => execDebugToken_keeps q s h_s
  | .echo q => execEcho_keeps q s h_s
  | .freeze q => execFreeze_keeps q s h_s
  | .ffrArchive q => execFfrArchive_keeps q s h_s
  | .mbxChDone c => execMbxChDone_keeps c s h_s
  | .completionWrite => execCompletionWrite_keeps s h_s
  | .replyTimeout => execReplyTimeout_keeps s h_s
  | .leaseExpiry => execLeaseExpiry_keeps s h_s
  | .leaseWarning => execLeaseWarning_keeps s h_s
  | .tracePoint n core arg => execTracePoint_keeps n core arg s h_s
  | .logRecord core level code args => execLogRecord_keeps core level code args s h_s
  | .cqPktOpen q writer => execCqPktOpen_keeps q writer s h_s
  | .cqWrData q writer v => execCqWrData_keeps q writer v s h_s
  | .cqPktClose q writer lastBytes => execCqPktClose_keeps q writer lastBytes s h_s
  | .cqWrFirst q writer v => execCqWrFirst_keeps q writer v s h_s
  | .cqLingerExpiry q => execCqLingerExpiry_keeps q s h_s
  | .cqRdTag q => execCqRdTag_keeps q s h_s
  | .cqNoticeAck q n => execCqNoticeAck_keeps q n s h_s
  | .flush q => execFlush_keeps q s h_s
  | .cqMarkSet q => execCqMarkSet_keeps q s h_s
  | .rewind q => execRewind_keeps q s h_s
  | .traceUnitSend => execTraceUnitSend_keeps s h_s
  | .ffrEvent rank cls code payload => execFfrEvent_keeps rank cls code payload s h_s
  | .ffrAppend => execFfrAppend_keeps s h_s
  | .ffrPause on => execFfrPause_keeps on s h_s
  | .ffrPauseExpiry => execFfrPauseExpiry_keeps s h_s
  | .ffrClear key => execFfrClear_keeps key s h_s
  | .recorderArchive ok => execRecorderArchive_keeps ok s h_s
  | .crcAlgWrite k alg => execCrcAlgWrite_keeps k alg s h_s
  | .crcInit k => execCrcInit_keeps k s h_s
  | .crcValueWrite k v => execCrcValueWrite_keeps k v s h_s
  | .crcData k w v => execCrcData_keeps k w v s h_s
  | .snapshotTrigger sources => execSnapshotTrigger_keeps sources s h_s
  | .snapTriggerWrite => execSnapTriggerWrite_keeps s h_s
  | .freezePin => execFreezePin_keeps s h_s
  | .snapshotCopyDone => execSnapshotCopyDone_keeps s h_s
  | .snapArm => execSnapArm_keeps s h_s
  | .quickWrite n t r => execQuickWrite_keeps n t r s h_s
  | .quickRead n t r => execQuickRead_keeps n t r s h_s
  | .sendByte n t r => execSendByte_keeps n t r s h_s
  | .receiveByte n t r => execReceiveByte_keeps n t r s h_s
  | .writeByte n t r => execWriteByte_keeps n t r s h_s
  | .writeWord n t r => execWriteWord_keeps n t r s h_s
  | .readByte n t r => execReadByte_keeps n t r s h_s
  | .readWord n t r => execReadWord_keeps n t r s h_s
  | .blockWrite n t r => execBlockWrite_keeps n t r s h_s
  | .blockRead n t r => execBlockRead_keeps n t r s h_s
  | .processCall n t r => execProcessCall_keeps n t r s h_s
  | .blockProcessCall n t r => execBlockProcessCall_keeps n t r s h_s
  | .reservedDescriptorType n ty t => execReservedDescriptorType_keeps n ty t s h_s
  | .clockStretchTimeout n => execClockStretchTimeout_keeps n s h_s
  | .arbitrationLost n addressed => execArbitrationLost_keeps n addressed s h_s
  | .arbitrationRetry n r => execArbitrationRetry_keeps n r s h_s
  | .alertAssert src level => execAlertAssert_keeps src level s h_s
  | .araRead n resp => execAraRead_keeps n resp s h_s
  | .alertUnmask n => execAlertUnmask_keeps n s h_s
  | .stuckBus n sclLow freed => execStuckBus_keeps n sclLow freed s h_s
  | .segpwrOffEnd n => execSegpwrOffEnd_keeps n s h_s
  | .segpwrOnEnd n linesHigh => execSegpwrOnEnd_keeps n linesHigh s h_s
  | .avsWriteCommit a mv => execAvsWriteCommit_keeps a mv s h_s
  | .avsReadTelemetry a what => execAvsReadTelemetry_keeps a what s h_s
  | .avsReadStatus a => execAvsReadStatus_keeps a s h_s
  | .avsWriteStatus a v => execAvsWriteStatus_keeps a v s h_s
  | .avsResponse a ack data crcOk => execAvsResponse_keeps a ack data crcOk s h_s
  | .avsBusyWaitEnd a => execAvsBusyWaitEnd_keeps a s h_s
  | .avsStatusAlert a => execAvsStatusAlert_keeps a s h_s
  | .crystalStartTimeout => execCrystalStartTimeout_keeps s h_s
  | .commissionINomMeasured n => execCommissionINomMeasured_keeps n s h_s
  | .reservedLct n lct => execReservedLct_keeps n lct s h_s
  | .mctpMessageDiscard ch failed => execMctpMessageDiscard_keeps ch failed s h_s
  | .endgameUnknownCommand cmd => execEndgameUnknownCommand_keeps cmd s h_s
  | .jtagBypass => execJtagBypass_keeps s h_s
  | .jtagIdcode => execJtagIdcode_keeps s h_s
  | .jtagSamplePreload balls cells => execJtagSamplePreload_keeps balls cells s h_s
  | .jtagExtest balls cells => execJtagExtest_keeps balls cells s h_s
  | .jtagClamp => execJtagClamp_keeps s h_s
  | .jtagHighz => execJtagHighz_keeps s h_s
  | .jtagDebug => execJtagDebug_keeps s h_s

/-- A command that stores nothing leaves memory as it was. -/
theorem exec_keeps_mem {N G : Nat} {M : Option (List Host.Cell)} (c : Instr) (s : State)
    (h_s : s.dev.InvAt N G M) : c.storesNothing = true → Res.Keeps N G M s.pending (exec c s) :=
  match c with
  | .registerWrite _ _ _ _ => fun h => Bool.noConfusion h
  | .counterClearWrite by_ a => fun _ => execCounterClearWrite_keeps by_ a s h_s
  | .setWriteLock by_ => fun _ => execSetWriteLock_keeps by_ s h_s
  | .counterLowRead by_ a => fun _ => execCounterLowRead_keeps by_ a s h_s
  | .wideFieldLowWrite by_ a v => fun _ => execWideFieldLowWrite_keeps by_ a v s h_s
  | .wideFieldHighWrite by_ a v => fun _ => execWideFieldHighWrite_keeps by_ a v s h_s
  | .hvBridgeTransfer ch crcOk => fun _ => execHvBridgeTransfer_keeps ch crcOk s h_s
  | .crystalLoss => fun _ => execCrystalLoss_keeps s h_s
  | .codeWordRead _ _ _ => fun h => Bool.noConfusion h
  | .eccWriteback m w => fun _ => execEccWriteback_keeps m w s h_s
  | .patrolScrub _ _ _ => fun h => Bool.noConfusion h
  | .scrubPeriodMissed hbm => fun _ => execScrubPeriodMissed_keeps hbm s h_s
  | .powerOnReset _ _ _ _ => fun h => Bool.noConfusion h
  | .coldReset => fun h => Bool.noConfusion h
  | .warmReset => fun h => Bool.noConfusion h
  | .pcieReset => fun h => Bool.noConfusion h
  | .coldReq by_ v => fun _ => execColdReq_keeps by_ v s h_s
  | .warmReq by_ v => fun _ => execWarmReq_keeps by_ v s h_s
  | .clearCause by_ v => fun _ => execClearCause_keeps by_ v s h_s
  | .coreResetReq _ _ => fun h => Bool.noConfusion h
  | .secWarmRequest => fun _ => execSecWarmRequest_keeps s h_s
  | .deferredColdReset => fun h => Bool.noConfusion h
  | .corePowerRestart => fun h => Bool.noConfusion h
  | .nop _ => fun h => Bool.noConfusion h
  | .wait _ => fun h => Bool.noConfusion h
  | .branch _ _ _ => fun h => Bool.noConfusion h
  | .loop _ _ _ => fun h => Bool.noConfusion h
  | .setshape _ _ _ _ => fun h => Bool.noConfusion h
  | .yield _ => fun h => Bool.noConfusion h
  | .endProgram _ => fun h => Bool.noConfusion h
  | .mma _ _ => fun h => Bool.noConfusion h
  | .stacc _ _ => fun h => Bool.noConfusion h
  | .clracc _ _ => fun h => Bool.noConfusion h
  | .vectorArithmetic _ _ _ => fun h => Bool.noConfusion h
  | .vectorDivSqrt _ _ _ => fun h => Bool.noConfusion h
  | .vectorTranscendental _ _ _ => fun h => Bool.noConfusion h
  | .vectorInteger _ _ _ => fun h => Bool.noConfusion h
  | .vectorConvert _ _ => fun h => Bool.noConfusion h
  | .reduce _ _ _ => fun h => Bool.noConfusion h
  | .gather _ _ => fun h => Bool.noConfusion h
  | .scatter _ _ => fun h => Bool.noConfusion h
  | .treebatch _ _ _ => fun h => Bool.noConfusion h
  | .treecfg _ _ => fun h => Bool.noConfusion h
  | .copy _ _ _ _ => fun h => Bool.noConfusion h
  | .copy2d _ _ _ _ _ _ _ => fun h => Bool.noConfusion h
  | .signal _ _ => fun h => Bool.noConfusion h
  | .waitsig _ => fun h => Bool.noConfusion h
  | .reservedOpc _ _ => fun h => Bool.noConfusion h
  | .tileApertureWrite _ _ _ _ => fun h => Bool.noConfusion h
  | .tileApertureRead t off w => fun _ => execTileApertureRead_keeps t off w s h_s
  | .loaderLoad => fun h => Bool.noConfusion h
  | .slotCommit _ => fun h => Bool.noConfusion h
  | .slotCtrlRetire _ => fun h => Bool.noConfusion h
  | .slotInvoke n => fun _ => execSlotInvoke_keeps n s h_s
  | .slotTimerTick n => fun _ => execSlotTimerTick_keeps n s h_s
  | .invocationCommit _ _ => fun h => Bool.noConfusion h
  | .invocationWatchdog _ => fun h => Bool.noConfusion h
  | .tileHeartbeatAdvance t => fun _ => execTileHeartbeatAdvance_keeps t s h_s
  | .cccHeartbeatCheck _ _ => fun h => Bool.noConfusion h
  | .reserveSelfTest c pass => fun _ => execReserveSelfTest_keeps c pass s h_s
  | .tileRowRemap t row => fun _ => execTileRowRemap_keeps t row s h_s
  | .tileFault _ _ _ => fun h => Bool.noConfusion h
  | .injectFatal _ _ => fun h => Bool.noConfusion h
  | .tileSrSeedWrite t seed => fun _ => execTileSrSeedWrite_keeps t seed s h_s
  | .bootTileSelfTest _ _ => fun h => Bool.noConfusion h
  | .vlEnWrite on => fun _ => execVlEnWrite_keeps on s h_s
  | .linkEnWrite n on => fun _ => execLinkEnWrite_keeps n on s h_s
  | .forceFail n => fun _ => execForceFail_keeps n s h_s
  | .retrain n => fun _ => execRetrain_keeps n s h_s
  | .detectEnd n beacon => fun _ => execDetectEnd_keeps n beacon s h_s
  | .eqComplete n => fun _ => execEqComplete_keeps n s h_s
  | .frameLock n => fun _ => execFrameLock_keeps n s h_s
  | .param n p => fun _ => execParam_keeps n p s h_s
  | .trainingStateTimeout n => fun _ => execTrainingStateTimeout_keeps n s h_s
  | .standbyRefresh n relocked => fun _ => execStandbyRefresh_keeps n relocked s h_s
  | .pcsFrameReceive n symErrs => fun _ => execPcsFrameReceive_keeps n symErrs s h_s
  | .lossOfSignal n => fun _ => execLossOfSignal_keeps n s h_s
  | .dataFlitReceive n f => fun _ => execDataFlitReceive_keeps n f s h_s
  | .idle n ack => fun _ => execIdle_keeps n ack s h_s
  | .status n ack credits => fun _ => execStatus_keeps n ack credits s h_s
  | .nak n seq => fun _ => execNak_keeps n seq s h_s
  | .replayMark n seq => fun _ => execReplayMark_keeps n seq s h_s
  | .nakResendTimeout n => fun _ => execNakResendTimeout_keeps n s h_s
  | .ackTimeout n => fun _ => execAckTimeout_keeps n s h_s
  | .replayRateWindowEnd n => fun _ => execReplayRateWindowEnd_keeps n s h_s
  | .roleFailed n pos role rxseq => fun _ => execRoleFailed_keeps n pos role rxseq s h_s
  | .roleFailedAck n pos rxseq => fun _ => execRoleFailedAck_keeps n pos rxseq s h_s
  | .roleAssume n role rxseq => fun _ => execRoleAssume_keeps n role rxseq s h_s
  | .roleAssumeAck n role rxseq => fun _ => execRoleAssumeAck_keeps n role rxseq s h_s
  | .roleResendTimeout a => fun _ => execRoleResendTimeout_keeps a s h_s
  | .vlAccRoleWrite a ag v => fun _ => execVlAccRoleWrite_keeps a ag v s h_s
  | .tsyncExchange a => fun _ => execTsyncExchange_keeps a s h_s
  | .tsyncFollow a => fun _ => execTsyncFollow_keeps a s h_s
  | .tsyncDreq a times offset path locked => fun _ => execTsyncDreq_keeps a times offset path locked s h_s
  | .pairRsp a v => fun _ => execPairRsp_keeps a v s h_s
  | .pairRspTimeout a => fun _ => execPairRspTimeout_keeps a s h_s
  | .bindOkWrite a on => fun _ => execBindOkWrite_keeps a on s h_s
  | .forceSideband a on => fun _ => execForceSideband_keeps a on s h_s
  | .prsntEdge a asserted => fun _ => execPrsntEdge_keeps a asserted s h_s
  | .opArrive src q => fun _ => execOpArrive_keeps src q s h_s
  | .opWait src q => fun _ => execOpWait_keeps src q s h_s
  | .opAdd src q => fun _ => execOpAdd_keeps src q s h_s
  | .opFetchAdd src q => fun _ => execOpFetchAdd_keeps src q s h_s
  | .opCas src q => fun _ => execOpCas_keeps src q s h_s
  | .opSet src q => fun _ => execOpSet_keeps src q s h_s
  | .opReset src q => fun _ => execOpReset_keeps src q s h_s
  | .opReserved src op q => fun _ => execOpReserved_keeps src op q s h_s
  | .syncWaitTimeout => fun _ => execSyncWaitTimeout_keeps s h_s
  | .sobHopGo cmd => fun _ => execSobHopGo_keeps cmd s h_s
  | .syncWindowRead off w => fun _ => execSyncWindowRead_keeps off w s h_s
  | .syncWindowWrite off v => fun _ => execSyncWindowWrite_keeps off v s h_s
  | .sobWaitersWrite => fun _ => execSobWaitersWrite_keeps s h_s
  | .sobEnWrite ag on => fun _ => execSobEnWrite_keeps ag on s h_s
  | .contribHeader n p => fun _ => execContribHeader_keeps n p s h_s
  | .contrib _ _ => fun h => Bool.noConfusion h
  | .contribLast _ _ => fun h => Bool.noConfusion h
  | .instanceReduction _ => fun h => Bool.noConfusion h
  | .instanceFinish c => fun _ => execInstanceFinish_keeps c s h_s
  | .abort a p => fun _ => execAbort_keeps a p s h_s
  | .instanceTimeout c => fun _ => execInstanceTimeout_keeps c s h_s
  | .brdIcontrib ag v => fun _ => execBrdIcontrib_keeps ag v s h_s
  | .brdEnWrite ag on => fun _ => execBrdEnWrite_keeps ag on s h_s
  | .fastSample x => fun _ => execFastSample_keeps x s h_s
  | .limiterWindowEnd => fun _ => execLimiterWindowEnd_keeps s h_s
  | .budgetProposal b => fun _ => execBudgetProposal_keeps b s h_s
  | .capForceExpiry g => fun _ => execCapForceExpiry_keeps g s h_s
  | .pstateRequest a p => fun _ => execPstateRequest_keeps a p s h_s
  | .pstateAck a p => fun _ => execPstateAck_keeps a p s h_s
  | .pstateAckTimeout a => fun _ => execPstateAckTimeout_keeps a s h_s
  | .voltageSettleDone a => fun _ => execVoltageSettleDone_keeps a s h_s
  | .fillerAck a p => fun _ => execFillerAck_keeps a p s h_s
  | .ptabValidWrite a on => fun _ => execPtabValidWrite_keeps a on s h_s
  | .dvfsFaultClear a => fun _ => execDvfsFaultClear_keeps a s h_s
  | .droopClearExpiry a => fun _ => execDroopClearExpiry_keeps a s h_s
  | .droopHoldExpiry a => fun _ => execDroopHoldExpiry_keeps a s h_s
  | .checkTrigger t active => fun _ => execCheckTrigger_keeps t active s h_s
  | .checkForceWrite v => fun _ => execCheckForceWrite_keeps v s h_s
  | .checkEnWrite v => fun _ => execCheckEnWrite_keeps v s h_s
  | .checkLatchClear v => fun _ => execCheckLatchClear_keeps v s h_s
  | .checkAutoRelease t => fun _ => execCheckAutoRelease_keeps t s h_s
  | .mateTrigger coolFail => fun _ => execMateTrigger_keeps coolFail s h_s
  | .matePowerdownStart => fun h => Bool.noConfusion h
  | .mateClear _ => fun h => Bool.noConfusion h
  | .prerampTimer g => fun _ => execPrerampTimer_keeps g s h_s
  | .guardbandLead g => fun _ => execGuardbandLead_keeps g s h_s
  | .guardbandHoldEnd g => fun _ => execGuardbandHoldEnd_keeps g s h_s
  | .sbLimitWrite a r => fun _ => execSbLimitWrite_keeps a r s h_s
  | .sbLimitRefresh a => fun _ => execSbLimitRefresh_keeps a s h_s
  | .sbLimitRetry a r => fun _ => execSbLimitRetry_keeps a r s h_s
  | .ledgerFrameEnd => fun h => Bool.noConfusion h
  | .tlmEnWrite on => fun _ => execTlmEnWrite_keeps on s h_s
  | .tlm a p => fun _ => execTlm_keeps a p s h_s
  | .frameRecordWrite => fun h => Bool.noConfusion h
  | .policyInputCopy => fun h => Bool.noConfusion h
  | .replayBlockStart => fun _ => execReplayBlockStart_keeps s h_s
  | .shadowLoad => fun h => Bool.noConfusion h
  | .gateEvaluation => fun _ => execGateEvaluation_keeps s h_s
  | .promotionSwitch => fun h => Bool.noConfusion h
  | .rollbackTimerExpiry => fun h => Bool.noConfusion h
  | .oroCtrlRollback => fun h => Bool.noConfusion h
  | .bringupOn => fun _ => execBringupOn_keeps s h_s
  | .bringupOff => fun h => Bool.noConfusion h
  | .crystalStable => fun _ => execCrystalStable_keeps s h_s
  | .startPermitted => fun _ => execStartPermitted_keeps s h_s
  | .hotswapFault _ => fun h => Bool.noConfusion h
  | .hswOn => fun h => Bool.noConfusion h
  | .hswLimitEntry => fun _ => execHswLimitEntry_keeps s h_s
  | .hswLimitExit => fun _ => execHswLimitExit_keeps s h_s
  | .soaIntegrate _ _ => fun h => Bool.noConfusion h
  | .hswCoolEnd => fun _ => execHswCoolEnd_keeps s h_s
  | .uvFault => fun h => Bool.noConfusion h
  | .uvRestore => fun h => Bool.noConfusion h
  | .seqCommit _ => fun h => Bool.noConfusion h
  | .domainRequest _ _ => fun h => Bool.noConfusion h
  | .delayOnExpiry _ => fun h => Bool.noConfusion h
  | .powerGoodChange _ _ => fun h => Bool.noConfusion h
  | .qualComplete _ => fun h => Bool.noConfusion h
  | .rampTimeout _ => fun h => Bool.noConfusion h
  | .qualTimeout _ => fun h => Bool.noConfusion h
  | .drainComplete _ => fun h => Bool.noConfusion h
  | .fallTimeout _ => fun h => Bool.noConfusion h
  | .railFailedClear _ => fun h => Bool.noConfusion h
  | .prsntRemoved _ => fun h => Bool.noConfusion h
  | .prsntQualified _ => fun h => Bool.noConfusion h
  | .resetStretchDone k => fun _ => execResetStretchDone_keeps k s h_s
  | .rstHoldWrite hold => fun _ => execRstHoldWrite_keeps hold s h_s
  | .selfRailRetry => fun h => Bool.noConfusion h
  | .coldRestartDelay => fun _ => execColdRestartDelay_keeps s h_s
  | .coolCommit by_ => fun _ => execCoolCommit_keeps by_ s h_s
  | .fanWindowStart n => fun _ => execFanWindowStart_keeps n s h_s
  | .tachEdge n => fun _ => execTachEdge_keeps n s h_s
  | .fanWindowEnd n => fun _ => execFanWindowEnd_keeps n s h_s
  | .fanTargetWrite n rpm => fun _ => execFanTargetWrite_keeps n rpm s h_s
  | .kickExpiry n => fun _ => execKickExpiry_keeps n s h_s
  | .kickGapEnd n => fun _ => execKickGapEnd_keeps n s h_s
  | .fanFailedClear n => fun _ => execFanFailedClear_keeps n s h_s
  | .reserveFanTest r => fun _ => execReserveFanTest_keeps r s h_s
  | .reserveTestEnd r => fun _ => execReserveTestEnd_keeps r s h_s
  | .fanCommission by_ n => fun _ => execFanCommission_keeps by_ n s h_s
  | .commissionTimeout n => fun _ => execCommissionTimeout_keeps n s h_s
  | .pumpMeasurement p t => fun _ => execPumpMeasurement_keeps p t s h_s
  | .pumpTargetWrite p rpm => fun _ => execPumpTargetWrite_keeps p rpm s h_s
  | .pumpFailedClear p => fun _ => execPumpFailedClear_keeps p s h_s
  | .flowEdge l => fun _ => execFlowEdge_keeps l s h_s
  | .flowWindowEvaluation l => fun _ => execFlowWindowEvaluation_keeps l s h_s
  | .loopFaultClear l => fun _ => execLoopFaultClear_keeps l s h_s
  | .leakReport r => fun _ => execLeakReport_keeps r s h_s
  | .leakLatchClear z => fun _ => execLeakLatchClear_keeps z s h_s
  | .tdConversion n temp fault => fun _ => execTdConversion_keeps n temp fault s h_s
  | .coolModeWrite by_ m => fun _ => execCoolModeWrite_keeps by_ m s h_s
  | .coolModeTimeout => fun _ => execCoolModeTimeout_keeps s h_s
  | .hbmSoftRepair row room => fun _ => execHbmSoftRepair_keeps row room s h_s
  | .adcScan r0 r1 r2 r3 spare => fun _ => execAdcScan_keeps r0 r1 r2 r3 spare s h_s
  | .adcSample _ _ => fun h => Bool.noConfusion h
  | .chkOscFailure => fun _ => execChkOscFailure_keeps s h_s
  | .watchdogKick _ _ => fun h => Bool.noConfusion h
  | .watchdogExpiry _ => fun h => Bool.noConfusion h
  | .endgameIdent => fun _ => execEndgameIdent_keeps s h_s
  | .endgameState => fun _ => execEndgameState_keeps s h_s
  | .endgameResetCause => fun _ => execEndgameResetCause_keeps s h_s
  | .endgameRails => fun _ => execEndgameRails_keeps s h_s
  | .endgameSupply => fun _ => execEndgameSupply_keeps s h_s
  | .endgameProtect => fun _ => execEndgameProtect_keeps s h_s
  | .endgameCooling => fun _ => execEndgameCooling_keeps s h_s
  | .endgameRecorder => fun _ => execEndgameRecorder_keeps s h_s
  | .goldenExit => fun _ => execGoldenExit_keeps s h_s
  | .endgameAutoExit => fun _ => execEndgameAutoExit_keeps s h_s
  | .romBoot _ => fun h => Bool.noConfusion h
  | .updateEraseComplete _ => fun h => Bool.noConfusion h
  | .updateSessionTimeout => fun _ => execUpdateSessionTimeout_keeps s h_s
  | .activationRelease => fun h => Bool.noConfusion h
  | .autoConfirm => fun h => Bool.noConfusion h
  | .confirmTimeout => fun h => Bool.noConfusion h
  | .wake _ _ => fun h => Bool.noConfusion h
  | .spdmGetVersion ch => fun _ => execSpdmGetVersion_keeps ch s h_s
  | .spdmGetCapabilities ch => fun _ => execSpdmGetCapabilities_keeps ch s h_s
  | .spdmNegotiateAlgorithms ch p384 sha384 => fun _ => execSpdmNegotiateAlgorithms_keeps ch p384 sha384 s h_s
  | .spdmGetDigests ch => fun _ => execSpdmGetDigests_keeps ch s h_s
  | .spdmGetCertificate ch slot off len => fun _ => execSpdmGetCertificate_keeps ch slot off len s h_s
  | .spdmChallenge ch nonce => fun _ => execSpdmChallenge_keeps ch nonce s h_s
  | .spdmGetMeasurements ch index nonce => fun _ => execSpdmGetMeasurements_keeps ch index nonce s h_s
  | .spdmUnsupportedRequest ch => fun _ => execSpdmUnsupportedRequest_keeps ch s h_s
  | .setEndpointId ch eid => fun _ => execSetEndpointId_keeps ch eid s h_s
  | .getEndpointId ch => fun _ => execGetEndpointId_keeps ch s h_s
  | .getEndpointUuid ch => fun _ => execGetEndpointUuid_keeps ch s h_s
  | .getMctpVersionSupport ch ty => fun _ => execGetMctpVersionSupport_keeps ch ty s h_s
  | .getMessageTypeSupport ch => fun _ => execGetMessageTypeSupport_keeps ch s h_s
  | .mbxUnknownOpcode _ _ => fun h => Bool.noConfusion h
  | .getVersion _ => fun h => Bool.noConfusion h
  | .getIdentity _ => fun h => Bool.noConfusion h
  | .getStatus _ => fun h => Bool.noConfusion h
  | .heartbeat _ => fun h => Bool.noConfusion h
  | .getResetCause _ => fun h => Bool.noConfusion h
  | .getTime _ => fun h => Bool.noConfusion h
  | .getOpcodes _ => fun h => Bool.noConfusion h
  | .releaseLease _ => fun h => Bool.noConfusion h
  | .setTrayCap _ => fun h => Bool.noConfusion h
  | .getPower _ => fun h => Bool.noConfusion h
  | .setStaticBudgets _ => fun h => Bool.noConfusion h
  | .setAccMax _ => fun h => Bool.noConfusion h
  | .setCheckForce _ => fun h => Bool.noConfusion h
  | .clearCheckLatch _ => fun h => Bool.noConfusion h
  | .clearMate _ => fun h => Bool.noConfusion h
  | .setShaping _ => fun h => Bool.noConfusion h
  | .clockOpen _ => fun h => Bool.noConfusion h
  | .clockBind _ => fun h => Bool.noConfusion h
  | .clockUnbind _ => fun h => Bool.noConfusion h
  | .clockClose _ => fun h => Bool.noConfusion h
  | .clockFree _ => fun h => Bool.noConfusion h
  | .clockRead _ => fun h => Bool.noConfusion h
  | .addTokens _ => fun h => Bool.noConfusion h
  | .signStatement _ => fun h => Bool.noConfusion h
  | .domainSet _ => fun h => Bool.noConfusion h
  | .getSeq _ => fun h => Bool.noConfusion h
  | .railClear _ => fun h => Bool.noConfusion h
  | .resetHold _ => fun h => Bool.noConfusion h
  | .deepSleep _ => fun h => Bool.noConfusion h
  | .getCooling _ => fun h => Bool.noConfusion h
  | .setZoneFloor _ => fun h => Bool.noConfusion h
  | .setCoolMode _ => fun h => Bool.noConfusion h
  | .commissionFan _ => fun h => Bool.noConfusion h
  | .clearCoolFault _ => fun h => Bool.noConfusion h
  | .pkgBegin _ => fun h => Bool.noConfusion h
  | .pkgData _ => fun h => Bool.noConfusion h
  | .pkgLoad _ => fun h => Bool.noConfusion h
  | .slotRetire _ => fun h => Bool.noConfusion h
  | .slotQuery _ => fun h => Bool.noConfusion h
  | .oroSet _ => fun h => Bool.noConfusion h
  | .oroRollback _ => fun h => Bool.noConfusion h
  | .oroQuery _ => fun h => Bool.noConfusion h
  | .groupCreate _ => fun h => Bool.noConfusion h
  | .groupDelete _ => fun h => Bool.noConfusion h
  | .groupPolicy _ => fun h => Bool.noConfusion h
  | .objAlloc _ => fun h => Bool.noConfusion h
  | .objFree _ => fun h => Bool.noConfusion h
  | .ctxCreate _ => fun h => Bool.noConfusion h
  | .ctxDelete _ => fun h => Bool.noConfusion h
  | .castle _ => fun h => Bool.noConfusion h
  | .accConfig _ => fun h => Bool.noConfusion h
  | .getAcc _ => fun h => Bool.noConfusion h
  | .tlmFrames _ => fun h => Bool.noConfusion h
  | .logConfig _ => fun h => Bool.noConfusion h
  | .logRead _ => fun h => Bool.noConfusion h
  | .traceSet _ => fun h => Bool.noConfusion h
  | .updateBegin _ => fun h => Bool.noConfusion h
  | .updateData _ => fun h => Bool.noConfusion h
  | .updateCommit _ => fun h => Bool.noConfusion h
  | .updateCancel _ => fun h => Bool.noConfusion h
  | .updateActivate _ => fun h => Bool.noConfusion h
  | .updateConfirm _ => fun h => Bool.noConfusion h
  | .updateReject _ => fun h => Bool.noConfusion h
  | .updateStatus _ => fun h => Bool.noConfusion h
  | .getNonce _ => fun h => Bool.noConfusion h
  | .ownerKeyAdd _ => fun h => Bool.noConfusion h
  | .ownerKeyRevoke _ => fun h => Bool.noConfusion h
  | .modelKeyEnrol _ => fun h => Bool.noConfusion h
  | .debugToken _ => fun h => Bool.noConfusion h
  | .echo _ => fun h => Bool.noConfusion h
  | .freeze _ => fun h => Bool.noConfusion h
  | .ffrArchive _ => fun h => Bool.noConfusion h
  | .mbxChDone c => fun _ => execMbxChDone_keeps c s h_s
  | .completionWrite => fun _ => execCompletionWrite_keeps s h_s
  | .replyTimeout => fun h => Bool.noConfusion h
  | .leaseExpiry => fun _ => execLeaseExpiry_keeps s h_s
  | .leaseWarning => fun _ => execLeaseWarning_keeps s h_s
  | .tracePoint n core arg => fun _ => execTracePoint_keeps n core arg s h_s
  | .logRecord _ _ _ _ => fun h => Bool.noConfusion h
  | .cqPktOpen q writer => fun _ => execCqPktOpen_keeps q writer s h_s
  | .cqWrData q writer v => fun _ => execCqWrData_keeps q writer v s h_s
  | .cqPktClose q writer lastBytes => fun _ => execCqPktClose_keeps q writer lastBytes s h_s
  | .cqWrFirst q writer v => fun _ => execCqWrFirst_keeps q writer v s h_s
  | .cqLingerExpiry q => fun _ => execCqLingerExpiry_keeps q s h_s
  | .cqRdTag q => fun _ => execCqRdTag_keeps q s h_s
  | .cqNoticeAck q n => fun _ => execCqNoticeAck_keeps q n s h_s
  | .flush q => fun _ => execFlush_keeps q s h_s
  | .cqMarkSet q => fun _ => execCqMarkSet_keeps q s h_s
  | .rewind q => fun _ => execRewind_keeps q s h_s
  | .traceUnitSend => fun _ => execTraceUnitSend_keeps s h_s
  | .ffrEvent rank cls code payload => fun _ => execFfrEvent_keeps rank cls code payload s h_s
  | .ffrAppend => fun _ => execFfrAppend_keeps s h_s
  | .ffrPause on => fun _ => execFfrPause_keeps on s h_s
  | .ffrPauseExpiry => fun _ => execFfrPauseExpiry_keeps s h_s
  | .ffrClear key => fun _ => execFfrClear_keeps key s h_s
  | .recorderArchive _ => fun h => Bool.noConfusion h
  | .crcAlgWrite k alg => fun _ => execCrcAlgWrite_keeps k alg s h_s
  | .crcInit k => fun _ => execCrcInit_keeps k s h_s
  | .crcValueWrite k v => fun _ => execCrcValueWrite_keeps k v s h_s
  | .crcData k w v => fun _ => execCrcData_keeps k w v s h_s
  | .snapshotTrigger sources => fun _ => execSnapshotTrigger_keeps sources s h_s
  | .snapTriggerWrite => fun _ => execSnapTriggerWrite_keeps s h_s
  | .freezePin => fun _ => execFreezePin_keeps s h_s
  | .snapshotCopyDone => fun _ => execSnapshotCopyDone_keeps s h_s
  | .snapArm => fun _ => execSnapArm_keeps s h_s
  | .quickWrite n t r => fun _ => execQuickWrite_keeps n t r s h_s
  | .quickRead n t r => fun _ => execQuickRead_keeps n t r s h_s
  | .sendByte n t r => fun _ => execSendByte_keeps n t r s h_s
  | .receiveByte n t r => fun _ => execReceiveByte_keeps n t r s h_s
  | .writeByte n t r => fun _ => execWriteByte_keeps n t r s h_s
  | .writeWord n t r => fun _ => execWriteWord_keeps n t r s h_s
  | .readByte n t r => fun _ => execReadByte_keeps n t r s h_s
  | .readWord n t r => fun _ => execReadWord_keeps n t r s h_s
  | .blockWrite n t r => fun _ => execBlockWrite_keeps n t r s h_s
  | .blockRead n t r => fun _ => execBlockRead_keeps n t r s h_s
  | .processCall n t r => fun _ => execProcessCall_keeps n t r s h_s
  | .blockProcessCall n t r => fun _ => execBlockProcessCall_keeps n t r s h_s
  | .reservedDescriptorType n ty t => fun _ => execReservedDescriptorType_keeps n ty t s h_s
  | .clockStretchTimeout n => fun _ => execClockStretchTimeout_keeps n s h_s
  | .arbitrationLost n addressed => fun _ => execArbitrationLost_keeps n addressed s h_s
  | .arbitrationRetry n r => fun _ => execArbitrationRetry_keeps n r s h_s
  | .alertAssert src level => fun _ => execAlertAssert_keeps src level s h_s
  | .araRead n resp => fun _ => execAraRead_keeps n resp s h_s
  | .alertUnmask n => fun _ => execAlertUnmask_keeps n s h_s
  | .stuckBus n sclLow freed => fun _ => execStuckBus_keeps n sclLow freed s h_s
  | .segpwrOffEnd n => fun _ => execSegpwrOffEnd_keeps n s h_s
  | .segpwrOnEnd n linesHigh => fun _ => execSegpwrOnEnd_keeps n linesHigh s h_s
  | .avsWriteCommit a mv => fun _ => execAvsWriteCommit_keeps a mv s h_s
  | .avsReadTelemetry a what => fun _ => execAvsReadTelemetry_keeps a what s h_s
  | .avsReadStatus a => fun _ => execAvsReadStatus_keeps a s h_s
  | .avsWriteStatus a v => fun _ => execAvsWriteStatus_keeps a v s h_s
  | .avsResponse a ack data crcOk => fun _ => execAvsResponse_keeps a ack data crcOk s h_s
  | .avsBusyWaitEnd a => fun _ => execAvsBusyWaitEnd_keeps a s h_s
  | .avsStatusAlert a => fun _ => execAvsStatusAlert_keeps a s h_s
  | .crystalStartTimeout => fun _ => execCrystalStartTimeout_keeps s h_s
  | .commissionINomMeasured n => fun _ => execCommissionINomMeasured_keeps n s h_s
  | .reservedLct n lct => fun _ => execReservedLct_keeps n lct s h_s
  | .mctpMessageDiscard ch failed => fun _ => execMctpMessageDiscard_keeps ch failed s h_s
  | .endgameUnknownCommand cmd => fun _ => execEndgameUnknownCommand_keeps cmd s h_s
  | .jtagBypass => fun _ => execJtagBypass_keeps s h_s
  | .jtagIdcode => fun _ => execJtagIdcode_keeps s h_s
  | .jtagSamplePreload balls cells => fun _ => execJtagSamplePreload_keeps balls cells s h_s
  | .jtagExtest balls cells => fun _ => execJtagExtest_keeps balls cells s h_s
  | .jtagClamp => fun _ => execJtagClamp_keeps s h_s
  | .jtagHighz => fun _ => execJtagHighz_keeps s h_s
  | .jtagDebug => fun _ => execJtagDebug_keeps s h_s

end Sys2Proof.Machine
end

