-- ==== Sys2Proof/Laws/Mailbox.lean ====
section
/-! SUPPORT. What the mailbox does with a request it takes: once for every opcode. -/

namespace Sys2Proof.Machine

/-- A request taken and carried out: the opcode's body on the device as the request left it, then the reply, unless it comes later. -/
theorem MbxOp.run_admits (o : MbxOp) (q : MbxReq) (s : State) (h : s.dev.admits o q = true) :
    o.run q s = .next { s with dev :=
      let r := o.body (s.dev.arrived o.op q) q
      if r.1.held then r.2 else r.2.answer o.op q r.1 } := by
  simp only [Dev.admits, Bool.and_eq_true, decide_eq_true_eq] at h
  obtain ⟨⟨⟨hl, hc⟩, hk⟩, hu⟩ := h
  unfold MbxOp.run
  rw [State.run_eq]
  congr 2
  unfold Dev.mbxArrive
  rw [hl]
  unfold Dev.arrived at hk hu ⊢
  by_cases hw : q.ch.val < 4
  · simp only [hw, if_true, decide_eq_true_eq] at hc hk hu ⊢
    simp only [Bool.not_true, Bool.false_eq_true, if_false, hc, if_true]
    unfold Dev.mbxRun
    rw [hk]
    dsimp only
    rw [if_neg (fun hn => hn hu)]
    rfl
  · simp only [hw, if_false, decide_eq_true_eq] at hc hk hu ⊢
    simp only [Bool.not_true, Bool.false_eq_true, if_false, Nat.not_le.2 hc]
    unfold Dev.mbxRun
    rw [hk]
    dsimp only
    rw [if_neg (fun hn => hn hu)]
    rfl

/-- The same, for a body that answers `r` with the device `e`. -/
theorem MbxOp.run_answers (o : MbxOp) (q : MbxReq) (s : State) (e : Dev) (r : Rep) (h : s.dev.admits o q = true)
    (hb : o.body (s.dev.arrived o.op q) q = (r, e)) (hr : r.held = false) :
    o.run q s = .next { s with dev := e.answer o.op q r } := by
  rw [MbxOp.run_admits o q s h, hb]
  simp [hr]

/-- A request that a check of R443 refuses: it is answered, and has no other effect. -/
theorem Dev.mbxArrive_refused (d : Dev) (o : MbxOp) (served : Bool) (q : MbxReq) (r : Rep) (hl : d.linkUp = true)
    (hc : if q.ch.val < 4 then d.rd F.MBX_CH_STATUS_STATE q.ch = 0 else (d.mbx.held.filter fun (h : Held) => h.ch = q.ch.val).length < 4)
    (hk : (d.arrived o.op q).mbxCheck o served q = some r) : d.mbxArrive o served q = (d.arrived o.op q).answer o.op q r := by
  unfold Dev.mbxArrive
  rw [hl]
  unfold Dev.arrived at hk ⊢
  by_cases hw : q.ch.val < 4
  · simp only [hw, if_true] at hc hk ⊢
    simp only [Bool.not_true, Bool.false_eq_true, if_false, hc, if_true]
    unfold Dev.mbxRun
    rw [hk]
    rfl
  · simp only [hw, if_false] at hc hk ⊢
    simp only [Bool.not_true, Bool.false_eq_true, if_false, Nat.not_le.2 hc]
    unfold Dev.mbxRun
    rw [hk]
    rfl

theorem Dev.poisonWrite_boot (d : Dev) (m : Space) (a n : Nat) (p : Bool) : (d.poisonWrite m a n p).boot = d.boot := by
  unfold Dev.poisonWrite
  generalize List.range _ = l
  induction l generalizing d with
  | nil => rfl
  | cons i l ih => rw [List.foldl_cons, ih]; rfl

/-- A write of memory leaves the boot record alone. -/
theorem Dev.stn_boot (d : Dev) (m : Space) (a : Nat) (l : List Byte) (p : Bool) : (d.stn m a l p).boot = d.boot := by
  unfold Dev.stn
  split
  · rfl
  · rw [Dev.poisonWrite_boot]

theorem Dev.poisonWrite_obs (d : Dev) (m : Space) (a n : Nat) (p : Bool) : (d.poisonWrite m a n p).obs = d.obs := by
  unfold Dev.poisonWrite
  generalize List.range _ = l
  induction l generalizing d with
  | nil => rfl
  | cons i l ih => rw [List.foldl_cons, ih]; rfl

/-- A write of memory leaves the observation blocks alone. -/
theorem Dev.stn_obs (d : Dev) (m : Space) (a : Nat) (l : List Byte) (p : Bool) : (d.stn m a l p).obs = d.obs := by
  unfold Dev.stn
  split
  · rfl
  · rw [Dev.poisonWrite_obs]

/-- A reply leaves the boot record alone. -/
theorem Dev.answer_boot (d : Dev) (op : Nat) (q : MbxReq) (r : Rep) : (d.answer op q r).boot = d.boot := by
  unfold Dev.answer Dev.reply
  dsimp only
  generalize mbxPacket _ _ _ _ _ _ _ _ _ _ _ _ = p
  split
  · unfold Dev.vector
    split
    · exact Dev.stn_boot _ _ _ _ _
    · dsimp only
      split <;> exact Dev.stn_boot _ _ _ _ _
  · split <;> rfl

end Sys2Proof.Machine
end

