-- ==== Sys2Proof/Laws/Memory.lean ====
section
/-! SUPPORT. Laws of memory: bytes and poison flags after a store. -/

namespace Sys2Proof.Machine

/-- A byte outside the ones written keeps its value. -/
theorem memPuts_other (l : List Host.Cell) (k : Nat) (bs : List Byte) (j : Nat) (h : j < k ∨ k + bs.length ≤ j) :
    tget memReset (memPuts l k bs) j = tget memReset l j := by
  induction bs generalizing l k with
  | nil => rfl
  | cons b bs ih =>
    rw [List.length_cons] at h
    unfold memPuts
    rw [ih _ _ (by omega)]
    exact tget_tset_other _ _ _ _ _ (by omega)

/-- The bytes written read back. -/
theorem memPuts_read (l : List Host.Cell) (k : Nat) (bs : List Byte) (i : Nat) (h : i < bs.length) :
    tget memReset (memPuts l k bs) (k + i) = bs[i] := by
  induction bs generalizing l k i with
  | nil => exact absurd h (Nat.not_lt_zero _)
  | cons b bs ih =>
    unfold memPuts
    cases i with
    | zero =>
      rw [memPuts_other _ _ _ _ (by omega)]
      exact tget_tset_same _ _ _ _
    | succ i =>
      have := ih (memPut l k b) (k + 1) i (by simpa using h)
      simpa [Nat.add_assoc, Nat.add_comm 1 i] using this

/-- Writing poison flags leaves the bytes alone. -/
theorem Dev.poisonWrite_mem (d : Dev) (m : Space) (a n : Nat) (p : Bool) : (d.poisonWrite m a n p).mem = d.mem := by
  unfold Dev.poisonWrite
  generalize List.range _ = l
  induction l generalizing d with
  | nil => rfl
  | cons i l ih => rw [List.foldl_cons, ih]; rfl

/-- Memory after a store. -/
theorem Dev.stn_mem (d : Dev) (m : Space) (a : Nat) (bs : List Byte) (p : Bool) :
    (d.stn m a bs p).mem = memPuts d.mem (m.base + a) bs := by
  unfold Dev.stn
  split
  · next h => subst h; rfl
  · rw [Dev.poisonWrite_mem]

/-- A byte outside the ones stored keeps its value. -/
theorem Dev.ldb_stn_other (d : Dev) (m n : Space) (a b : Nat) (bs : List Byte) (p : Bool)
    (h : n.base + b < m.base + a ∨ m.base + a + bs.length ≤ n.base + b) : (d.stn m a bs p).ldb n b = d.ldb n b := by
  unfold Dev.ldb
  rw [Dev.stn_mem]
  exact memPuts_other _ _ _ _ h

/-- A byte stored reads back. -/
theorem Dev.ldb_stn (d : Dev) (m : Space) (a i : Nat) (bs : List Byte) (p : Bool) (h : i < bs.length) :
    (d.stn m a bs p).ldb m (a + i) = bs[i] := by
  unfold Dev.ldb
  rw [Dev.stn_mem, ← Nat.add_assoc]
  exact memPuts_read _ _ _ _ h

/-- Reading bytes one by one. -/
theorem Dev.ldn_eq (d : Dev) (m : Space) (a : Nat) (bs : List Byte) (h : ∀ i (hi : i < bs.length), d.ldb m (a + i) = bs[i]) :
    d.ldn m a bs.length = bs := by
  induction bs generalizing a with
  | nil => rfl
  | cons b bs ih =>
    simp only [List.length_cons, Dev.ldn]
    have h0 := h 0 (by simp)
    rw [Nat.add_zero] at h0
    rw [h0, ih (a + 1)]
    · rfl
    · intro i hi
      have := h (i + 1) (by simpa using hi)
      rw [Nat.add_assoc, Nat.add_comm 1 i]
      simpa using this

/-- Reading memory depends on memory alone. -/
theorem Dev.ldn_congr {d e : Dev} (h : d.mem = e.mem) (m : Space) (a n : Nat) : d.ldn m a n = e.ldn m a n := by
  induction n generalizing a with
  | zero => rfl
  | succ n ih => simp only [Dev.ldn, Dev.ldb, h, ih]

/-- The flag of one word after the flags of a store's words are written. -/
theorem Dev.poisonWrite_flag (d : Dev) (m : Space) (a n w : Nat) (p : Bool) :
    tget (fun _ => false) (d.poisonWrite m a n p).poison w =
      if m.base / 8 + a / 8 ≤ w ∧ w < m.base / 8 + (a + n + 7) / 8 then
        p || (!(m.base + a ≤ 8 * w && 8 * w + 8 ≤ m.base + a + n) && tget (fun _ => false) d.poison w)
      else tget (fun _ => false) d.poison w := by
  have hb : 8 * (m.base / 8) = m.base := by unfold Space.base; omega
  have key : ∀ (c : Nat) (d : Dev), tget (fun _ => false) ((List.range c).foldl (fun d i =>
      let w := a / 8 * 8 + 8 * i
      let whole : Bool := a ≤ w && w + 8 ≤ a + n
      (d.setPoison m w (p || (!whole && d.poisoned m w))).dropWb ((m.base + w) / 8)) d).poison w =
      if m.base / 8 + a / 8 ≤ w ∧ w < m.base / 8 + a / 8 + c then
        p || (!(m.base + a ≤ 8 * w && 8 * w + 8 ≤ m.base + a + n) && tget (fun _ => false) d.poison w)
      else tget (fun _ => false) d.poison w := by
    intro c d
    induction c with
    | zero => rw [if_neg (by omega)]; rfl
    | succ c ih =>
      rw [List.range_succ, List.foldl_append]
      generalize hx : (List.range c).foldl _ d = x at ih
      simp only [List.foldl_cons, List.foldl_nil]
      show tget (fun _ => false) (tset (fun _ => false) x.poison ((m.base + (a / 8 * 8 + 8 * c)) / 8) _) w = _
      have hk : (m.base + (a / 8 * 8 + 8 * c)) / 8 = m.base / 8 + a / 8 + c := by omega
      rw [hk]
      by_cases hw : w = m.base / 8 + a / 8 + c
      · subst hw
        rw [tget_tset_same, if_pos (by omega)]
        rw [if_neg (by omega)] at ih
        unfold Dev.poisoned
        rw [hk, ih]
        congr 2
        have e1 : decide (a ≤ a / 8 * 8 + 8 * c) = decide (m.base + a ≤ 8 * (m.base / 8 + a / 8 + c)) := by
          apply decide_eq_decide.2; omega
        have e2 : decide (a / 8 * 8 + 8 * c + 8 ≤ a + n) = decide (8 * (m.base / 8 + a / 8 + c) + 8 ≤ m.base + a + n) := by
          apply decide_eq_decide.2; omega
        rw [e1, e2]
      · rw [tget_tset_other _ _ _ _ _ hw, ih]
        by_cases h2 : m.base / 8 + a / 8 ≤ w ∧ w < m.base / 8 + a / 8 + c
        · rw [if_pos h2, if_pos (by omega)]
        · rw [if_neg h2, if_neg (by omega)]
  unfold Dev.poisonWrite
  rw [key]
  have : m.base / 8 + a / 8 + ((a + n + 7) / 8 - a / 8) = m.base / 8 + (a + n + 7) / 8 := by omega
  rw [this]

/-- The flag of one word after a store. -/
theorem Dev.stn_flag (d : Dev) (m : Space) (a : Nat) (bs : List Byte) (p : Bool) (w : Nat) (h : bs ≠ []) :
    tget (fun _ => false) (d.stn m a bs p).poison w =
      if m.base / 8 + a / 8 ≤ w ∧ w < m.base / 8 + (a + bs.length + 7) / 8 then
        p || (!(m.base + a ≤ 8 * w && 8 * w + 8 ≤ m.base + a + bs.length) && tget (fun _ => false) d.poison w)
      else tget (fun _ => false) d.poison w := by
  unfold Dev.stn
  rw [if_neg h]
  exact Dev.poisonWrite_flag _ m a bs.length w p

/-- A store drops the write-backs pending on its words (R36). -/
theorem Dev.poisonWrite_pend (d : Dev) (m : Space) (a n w : Nat) (p : Bool)
    (h : m.base / 8 + a / 8 ≤ w ∧ w < m.base / 8 + (a + n + 7) / 8) :
    tget (fun _ => false) (d.poisonWrite m a n p).wbPend w = false := by
  have hb : 8 * (m.base / 8) = m.base := by unfold Space.base; omega
  have key : ∀ (c : Nat) (d : Dev), m.base / 8 + a / 8 ≤ w → w < m.base / 8 + a / 8 + c →
      tget (fun _ => false) ((List.range c).foldl (fun d i =>
        let w := a / 8 * 8 + 8 * i
        let whole : Bool := a ≤ w && w + 8 ≤ a + n
        (d.setPoison m w (p || (!whole && d.poisoned m w))).dropWb ((m.base + w) / 8)) d).wbPend w = false := by
    intro c d h1 h2
    induction c with
    | zero => omega
    | succ c ih =>
      rw [List.range_succ, List.foldl_append]
      generalize hx : (List.range c).foldl _ d = x at ih
      simp only [List.foldl_cons, List.foldl_nil]
      show tget (fun _ => false) (tset (fun _ => false) x.wbPend ((m.base + (a / 8 * 8 + 8 * c)) / 8) false) w = false
      have hk : (m.base + (a / 8 * 8 + 8 * c)) / 8 = m.base / 8 + a / 8 + c := by omega
      rw [hk]
      by_cases hw : w = m.base / 8 + a / 8 + c
      · subst hw
        rw [tget_tset_same]
      · rw [tget_tset_other _ _ _ _ _ hw]
        exact ih (by omega)
  unfold Dev.poisonWrite
  exact key _ _ h.1 (by omega)

end Sys2Proof.Machine
end

