-- ==== Sys2Proof/Laws/Sync.lean ====
section
/-! SUPPORT. What the hub does with an operation its checks allow: once for every operation. -/

namespace Sys2Proof.Machine

/-- Checks 1 to 5 of R177 pass: the operation reaches the object. -/
theorem Dev.syncReq_allowed (e : Dev) (src m op : Nat) (q : SyncReq) (h : e.syncAllowed src m op q = true) :
    e.syncReq src op q.cond.toNat q.w q.operand.toNat q.timeout.toNat q.tag.toNat q.handle.toNat =
      e.syncRmw src m op q.cond.toNat q.w q.operand.toNat q.timeout.toNat q.tag.toNat q.handle.toNat := by
  simp only [Dev.syncAllowed, Bool.and_eq_true, Bool.or_eq_true, decide_eq_true_eq] at h
  obtain ⟨⟨⟨⟨⟨⟨⟨h1, h2⟩, h3⟩, h4⟩, h5⟩, -⟩, -⟩, -⟩ := h
  unfold Dev.syncReq
  dsimp only
  rw [if_neg, if_neg (by simp [h3]), if_neg, if_neg (Nat.not_le.2 h1), if_pos h4, h5]
  · rintro ⟨a, b⟩
    exact h2.elim (fun c => absurd a (Nat.not_lt.2 c)) fun c => absurd b (Nat.not_le.2 c.2)
  · rintro ⟨a, b⟩
    exact h2.elim (fun c => absurd a (Nat.not_lt.2 c)) fun c => b c.1

/-- An allowed operation that need not wait: the object's effect, the waiters served, the completion. -/
theorem Dev.syncReq_done (e : Dev) (src m op : Nat) (q : SyncReq) (h : e.syncAllowed src m op q = true)
    (hw : (e.syncEff m op q).wait = none) :
    e.syncReq src op q.cond.toNat q.w q.operand.toNat q.timeout.toNat q.tag.toNat q.handle.toNat =
      let o := e.obj (hIndex q.handle.toNat)
      let x := e.syncEff m op q
      let r := e.opsCount.objCommit q.handle.toNat o x.o (servesWaiters op o x.o)
      (if o.trk ∧ op = opArrive ∧ o.ty = tyBarrier then
          (if x.release then (r.2.arbArrive o.group m).arbRelease o.group q.handle.toNat else r.2.arbArrive o.group m)
        else r.2).syncSend src 1 (if o.ty = tySem ∧ (op = opAdd ∨ op = opSet) then r.1.value else x.res) x.st q.tag.toNat op
        q.handle.toNat := by
  rw [Dev.syncReq_allowed e src m op q h]
  simp only [Dev.syncAllowed, Bool.and_eq_true, Bool.or_eq_true, decide_eq_true_eq] at h
  obtain ⟨⟨⟨-, h6⟩, h7⟩, h8⟩ := h
  unfold Dev.syncRmw
  dsimp only
  rw [if_neg (by simp [h6]), if_neg (by simp [h7]), if_neg (by rw [h8]; simp)]
  unfold Dev.syncEff at hw ⊢
  rw [hw]
  rfl

/-- An allowed operation that has to wait, where it may and there is room: the waiter is parked. -/
theorem Dev.syncReq_parked (e : Dev) (src m op : Nat) (q : SyncReq) (y : Nat) (h : e.syncAllowed src m op q = true)
    (hw : (e.syncEff m op q).wait = some y) (ht : syncBound q.timeout.toNat ≠ 0) (hr : e.waiterRoom src q.handle.toNat = true) :
    e.syncReq src op q.cond.toNat q.w q.operand.toNat q.timeout.toNat q.tag.toNat q.handle.toNat =
      let o := e.obj (hIndex q.handle.toNat)
      let x := e.syncEff m op q
      let r := e.opsCount.objCommit q.handle.toNat o x.o (servesWaiters op o x.o)
      let f := if o.trk ∧ op = opArrive ∧ o.ty = tyBarrier then
          (if x.release then (r.2.arbArrive o.group m).arbRelease o.group q.handle.toNat else r.2.arbArrive o.group m)
        else r.2
      let wt : Waiter := { src := src, tag := q.tag.toNat, handle := q.handle.toNat, op := op, cond := q.cond.toNat, operand := y,
                           deadline := f.gts + syncBound q.timeout.toNat }
      let g : Dev := { f with sob.waiters := f.sob.waiters ++ [wt] }
      (g.wr F.SOB_WAITERS_HIGH 0 (max (g.rd F.SOB_WAITERS_HIGH) g.sob.waiters.length)).syncSend src 1
        (if op = opWait then r.1.present else x.res) stParked q.tag.toNat op q.handle.toNat := by
  rw [Dev.syncReq_allowed e src m op q h]
  simp only [Dev.syncAllowed, Bool.and_eq_true, Bool.or_eq_true, decide_eq_true_eq] at h
  obtain ⟨⟨⟨-, h6⟩, h7⟩, h8⟩ := h
  simp only [Dev.waiterRoom, Bool.and_eq_true, decide_eq_true_eq] at hr
  obtain ⟨⟨r1, r2⟩, r3⟩ := hr
  unfold Dev.syncRmw
  dsimp only
  rw [if_neg (by simp [h6]), if_neg (by simp [h7]), if_neg (by rw [h8]; simp)]
  unfold Dev.syncEff at hw ⊢
  rw [hw, if_neg (by simp; omega)]
  simp only [Option.isSome_some, Bool.true_and, decide_eq_true_eq]
  rw [if_pos ht]
  rfl

/-- Sending waiting flits leaves the store alone. -/
theorem Dev.pump_sob : ∀ (k : Nat) (d : Dev) (a : Nat), (Dev.pump k d a).sob = d.sob
  | 0, _, _ => rfl
  | k + 1, d, a => by
    unfold Dev.pump
    split
    · rfl
    · rw [Dev.pump_sob k]; rfl

/-- Sending a flit leaves the store alone. -/
theorem Dev.sendFlit_sob (d : Dev) (a vc ty pay : Nat) : (d.sendFlit a vc ty pay).sob = d.sob := by
  unfold Dev.sendFlit Dev.send
  split
  · exact Dev.pump_sob _ _ _
  · rfl

/-- A completion or notice leaves the store alone. -/
theorem Dev.syncSend_sob (d : Dev) (src ty res st tag op h : Nat) : (d.syncSend src ty res st tag op h).sob = d.sob := by
  have key : ∀ (p : Prop) [Decidable p] (a b : Dev), a.sob = d.sob → b.sob = d.sob → (if p then a else b).sob = d.sob := by
    intro p _ a b h1 h2
    by_cases hp : p
    · rw [if_pos hp]; exact h1
    · rw [if_neg hp]; exact h2
  have h0 : (if ty = 3 then d.inc F.SOB_OPERR_COUNT else d).sob = d.sob := key _ _ _ (Dev.inc_sob _ _ _ _) rfl
  unfold Dev.syncSend
  generalize (if ty = 3 then d.inc F.SOB_OPERR_COUNT else d) = e at h0 ⊢
  refine key _ _ _ (key _ _ _ ((Dev.sendFlit_sob _ _ _ _ _).trans h0) h0) (key _ _ _ ((Dev.emit_sob _ _).trans h0) ?_)
  rw [Dev.wr_sob, Dev.wr_sob, Dev.wr64_sob]
  exact h0

/-- Freeing a receive buffer leaves the store alone. -/
theorem Dev.takeRx_sob (d : Dev) (a vc ty : Nat) (p : Payload) : (d.takeRx a vc ty p).sob = d.sob := by
  unfold Dev.takeRx Dev.freeRx
  dsimp only
  split
  · rfl
  · split <;> rfl

/-- So does taking an operation from a link. -/
theorem Dev.syncTook_sob (d : Dev) (src op : Nat) (q : SyncReq) : (d.syncTook src op q).sob = d.sob := by
  unfold Dev.syncTook
  split
  · exact Dev.takeRx_sob _ _ _ _ _
  · rfl

end Sys2Proof.Machine
end

