-- ==== Sys2Proof/Laws/Tile.lean ====
section
/-! SUPPORT. What issuing a tile instruction does: its effect and the next instruction, nothing, or an abort. -/

namespace Sys2Proof.Machine

/-- A tile that can issue carries out an accepted instruction. -/
theorem issueAt_ok (d : Dev) (o : TileOp) (ok : Bool) (f : Dev → Dev) (h : d.canIssue o.t = true)
    (k : (ok && nctlOk o.fd o.nctl.toNat) = true) : d.issueAt o ok f = f d := by
  unfold Dev.issueAt
  rw [h, k]
  rfl

/-- A tile that can issue aborts its invocation at an instruction it does not accept. -/
theorem issueAt_illegal (d : Dev) (o : TileOp) (ok : Bool) (f : Dev → Dev) (h : d.canIssue o.t = true)
    (k : (ok && nctlOk o.fd o.nctl.toNat) = false) : d.issueAt o ok f = d.tileAbort o.t 0 := by
  unfold Dev.issueAt
  rw [h, k]
  rfl

/-- A tile that cannot issue does nothing. -/
theorem issueAt_not (d : Dev) (o : TileOp) (ok : Bool) (f : Dev → Dev) (h : d.canIssue o.t = false) : d.issueAt o ok f = d := by
  unfold Dev.issueAt
  rw [h]
  rfl

theorem issue_ok (o : TileOp) (ok : Bool) (f : Dev → Dev) (s : State) (h : s.dev.canIssue o.t = true)
    (k : (ok && nctlOk o.fd o.nctl.toNat) = true) : issue o ok f s = .next { s with dev := (f s.dev).pcNext o.t } := by
  show Host.Outcome.next _ = _
  dsimp only
  rw [issueAt_ok s.dev o ok _ h k]

/-- A write of another register leaves a tile in service. -/
theorem tileServes_wr (d : Dev) (f : Fld) (i v t : Nat) (h : F.TILE_STATE_STATE.addr t ≠ f.addr i) :
    (d.wr f i v).tileServes t = d.tileServes t := by
  unfold Dev.tileServes Dev.tst
  rw [Dev.rd_wr_addr d f _ i t v h]

end Sys2Proof.Machine
end

