-- ==== Sys2Proof/WellFormed.lean ====
section
/-! DEFINITION. Which commands a sender can form: the lengths their lists must have. The meanings are total: on a command that is
not well-formed they take missing entries as zero and leave extra ones unread. -/

namespace Sys2Proof

/-- The mailbox request a command carries, if it carries one. -/
def Instr.mbxReq (i : Instr) : Option MbxReq :=
  match i with
  | .mbxUnknownOpcode _ q => some q
  | .getVersion q => some q
  | .getIdentity q => some q
  | .getStatus q => some q
  | .heartbeat q => some q
  | .getResetCause q => some q
  | .getTime q => some q
  | .getOpcodes q => some q
  | .releaseLease q => some q
  | .setTrayCap q => some q
  | .getPower q => some q
  | .setStaticBudgets q => some q
  | .setAccMax q => some q
  | .setCheckForce q => some q
  | .clearCheckLatch q => some q
  | .clearMate q => some q
  | .setShaping q => some q
  | .clockOpen q => some q
  | .clockBind q => some q
  | .clockUnbind q => some q
  | .clockClose q => some q
  | .clockFree q => some q
  | .clockRead q => some q
  | .addTokens q => some q
  | .signStatement q => some q
  | .domainSet q => some q
  | .getSeq q => some q
  | .railClear q => some q
  | .resetHold q => some q
  | .deepSleep q => some q
  | .getCooling q => some q
  | .setZoneFloor q => some q
  | .setCoolMode q => some q
  | .commissionFan q => some q
  | .clearCoolFault q => some q
  | .pkgBegin q => some q
  | .pkgData q => some q
  | .pkgLoad q => some q
  | .slotRetire q => some q
  | .slotQuery q => some q
  | .oroSet q => some q
  | .oroRollback q => some q
  | .oroQuery q => some q
  | .groupCreate q => some q
  | .groupDelete q => some q
  | .groupPolicy q => some q
  | .objAlloc q => some q
  | .objFree q => some q
  | .ctxCreate q => some q
  | .ctxDelete q => some q
  | .castle q => some q
  | .accConfig q => some q
  | .getAcc q => some q
  | .tlmFrames q => some q
  | .logConfig q => some q
  | .logRead q => some q
  | .traceSet q => some q
  | .updateBegin q => some q
  | .updateData q => some q
  | .updateCommit q => some q
  | .updateCancel q => some q
  | .updateActivate q => some q
  | .updateConfirm q => some q
  | .updateReject q => some q
  | .updateStatus q => some q
  | .getNonce q => some q
  | .ownerKeyAdd q => some q
  | .ownerKeyRevoke q => some q
  | .modelKeyEnrol q => some q
  | .debugToken q => some q
  | .echo q => some q
  | .freeze q => some q
  | .ffrArchive q => some q
  | _ => none

/-- The two-wire descriptor a command carries, if it carries one. -/
def Instr.twDesc (i : Instr) : Option TwDesc :=
  match i with
  | .quickWrite _ t _ => some t
  | .quickRead _ t _ => some t
  | .sendByte _ t _ => some t
  | .receiveByte _ t _ => some t
  | .writeByte _ t _ => some t
  | .writeWord _ t _ => some t
  | .readByte _ t _ => some t
  | .readWord _ t _ => some t
  | .blockWrite _ t _ => some t
  | .blockRead _ t _ => some t
  | .processCall _ t _ => some t
  | .blockProcessCall _ t _ => some t
  | .reservedDescriptorType _ _ t => some t
  | _ => none

/-- A request brings no more payload bytes than the largest message (R438). -/
def MbxReq.wf (q : MbxReq) : Bool := q.pay.length ≤ 4098

/-- A two-wire descriptor's data buffer holds up to 256 bytes (R512). -/
def TwDesc.wf (t : TwDesc) : Bool := t.buf.length ≤ 256

/-- A tree table names at most 8,192 trees (spec/03, the tree engine). -/
def TreeCfg.wf (c : TreeCfg) : Bool := c.trees.length ≤ 8192

/-- The lengths of the lists that a command carries itself. -/
def Instr.listsWf (i : Instr) : Bool :=
  match i with
  | .fastSample x => x.ifast.length = 8
  | .budgetProposal b => b.length = 8
  | .leakReport r => r.length = 16
  | .treecfg _ c => c.wf
  | .spdmChallenge _ n => n.length = 32
  | .spdmGetMeasurements _ _ n => n.length = 32
  | .logRecord _ _ _ a => a.length ≤ 232
  | .ffrEvent _ _ _ p => p.length ≤ 1008
  | .jtagSamplePreload b c => b.length = c.length
  | .jtagExtest b c => b.length = c.length
  | _ => true

/-- A well-formed command. -/
def Instr.wf (i : Instr) : Bool :=
  i.listsWf && (match i.mbxReq with | some q => q.wf | none => true) && (match i.twDesc with | some t => t.wf | none => true)

end Sys2Proof
end

