-- ==== Sys2Proof/Tests/Slice0.lean ====
section
/-! SUPPORT. The model's own tests: the well-formedness checks, the spec's worked examples, and for every statement with hypotheses
states and operands that meet them. -/

set_option Elab.async false

namespace Sys2Proof.Tests
open Sys2Proof Sys2Proof.Machine

/-! ### Well-formedness: one ill-formed term for each check -/

def okReq : MbxReq :=
  { ch := 0, major := 3, minor := 1, tag := 0, status := 0, len := 0, flags := 0, detail := 0, gts := 0, zero := 0, crc := 0, pay := [] }
def okDesc : TwDesc := { core := 0, tag := 0, pec := false, addr := 0, cmd := 0, rlen := 0, wlen := 0, rsvd := false, buf := [] }
def okOp : TileOp :=
  { t := 0, fa := 0, fb := 0, fd := 0, nctl := 0, mode := 0, dst := 0, srcA := 0, srcB := 0, srcC := 0, sa := 0, sb := 0, sc := 0, sd := 0,
    va := false, vb := false, vc := false }

theorem test_wf_plain : (Instr.coldReset).wf = true := by decide
theorem test_wf_request : (Instr.getTime okReq).wf = true := by decide
theorem test_wf_long_request : (Instr.getTime { okReq with pay := List.replicate 4099 (0 : Byte) }).wf = false := by
  have h : (List.replicate 4099 (0 : Byte)).length = 4099 := List.length_replicate
  generalize List.replicate 4099 (0 : Byte) = l at h ⊢
  simp [Instr.wf, Instr.listsWf, Instr.mbxReq, Instr.twDesc, MbxReq.wf, h]
theorem test_wf_long_buffer : (Instr.sendByte 0 { okDesc with buf := List.replicate 257 (0 : Byte) } (.ok [])).wf = false := by
  have h : (List.replicate 257 (0 : Byte)).length = 257 := List.length_replicate
  generalize List.replicate 257 (0 : Byte) = l at h ⊢
  simp [Instr.wf, Instr.listsWf, Instr.mbxReq, Instr.twDesc, TwDesc.wf, h]
theorem test_wf_sample : (Instr.fastSample { ifast := [0], ibus := 0, vbus := 0, stale := 0 }).wf = false := by decide
theorem test_wf_proposal : (Instr.budgetProposal [0, 0, 0, 0, 0, 0, 0]).wf = false := by decide
theorem test_wf_leaks : (Instr.leakReport []).wf = false := by decide
theorem test_wf_trees : (Instr.treecfg okOp { nodes := 0, leaves := 0, base := 0, trees := List.replicate 8193 ((0, 0) : BitVec 20 × Fin 16) }).wf = false := by
  have h : (List.replicate 8193 ((0, 0) : BitVec 20 × Fin 16)).length = 8193 := List.length_replicate
  generalize List.replicate 8193 ((0, 0) : BitVec 20 × Fin 16) = l at h ⊢
  simp [Instr.wf, Instr.listsWf, Instr.mbxReq, Instr.twDesc, TreeCfg.wf, h]
theorem test_wf_nonce : (Instr.spdmChallenge 0 []).wf = false := by decide
theorem test_wf_measure_nonce : (Instr.spdmGetMeasurements 0 0 []).wf = false := by decide
theorem test_wf_log : (Instr.logRecord 0 0 0 (List.replicate 233 (0 : Byte))).wf = false := by
  have h : (List.replicate 233 (0 : Byte)).length = 233 := List.length_replicate
  generalize List.replicate 233 (0 : Byte) = l at h ⊢
  simp [Instr.wf, Instr.listsWf, Instr.mbxReq, Instr.twDesc, h]
theorem test_wf_event : (Instr.ffrEvent 0 0 0 (List.replicate 1009 (0 : Byte))).wf = false := by
  have h : (List.replicate 1009 (0 : Byte)).length = 1009 := List.length_replicate
  generalize List.replicate 1009 (0 : Byte) = l at h ⊢
  simp [Instr.wf, Instr.listsWf, Instr.mbxReq, Instr.twDesc, h]
theorem test_wf_sample_pins : (Instr.jtagSamplePreload [true] []).wf = false := by decide
theorem test_wf_boundary : (Instr.jtagExtest [true] []).wf = false := by decide

/-! ### Worked examples of the spec -/

/-- spec/02, Decoding reference. -/
theorem test_decode_e4m3 : ffE4M3.decode 0xB3 = .fin true 11 (-4) ∧ (ffE4M3.decode 0x03).eqv (.fin false 3 (-9)) = true ∧ ffE4M3.decode 0xFF = .nan := by decide
theorem test_decode_e5m2 : (ffE5M2.decode 0x35).eqv (.fin false 5 (-4)) = true ∧ ffE5M2.decode 0xFC = .inf true ∧ (ffE5M2.decode 0x7B).eqv (.fin false 57344 0) = true := by decide
theorem test_decode_small : (ffE3M2.decode 0x1F).eqv (.fin false 28 0) = true ∧ (ffE3M2.decode 0x01).eqv (.fin false 1 (-4)) = true ∧ (ffE2M1.decode 0xD).eqv (.fin true 3 0) = true := by decide
theorem test_decode_16 : (ffFP16.decode 0xC248).eqv (.fin true 201 (-6)) = true ∧ (ffBF16.decode 0x3F80).eqv (.fin false 1 0) = true := by decide
theorem test_decode_mx : (mxVal 10 false 0x7C 0x7).eqv (.fin false 3 (-2)) = true ∧ (mxVal 11 false 0x81 0x60).eqv (.fin false 6 0) = true ∧
    (mxVal 11 false 0x81 0x80).eqv (.fin true 8 0) = true ∧ mxVal 8 false 0xFF 0x38 = .nan := by decide
/-- spec/02: 0.3 as 5404319552844595 × 2^-54, under RNE and RTZ. -/
theorem test_round_e4m3 : (ffE4M3.conv rne (.fin false 5404319552844595 (-54))).1 = 0x2A ∧ (ffE4M3.conv { mode := 1, sat := false, draw := 0 } (.fin false 5404319552844595 (-54))).1 = 0x29 := by decide
theorem test_round_e5m2 : (ffE5M2.conv rne (.fin false 5404319552844595 (-54))).1 = 0x35 ∧ (ffE5M2.conv { mode := 1, sat := false, draw := 0 } (.fin false 5404319552844595 (-54))).1 = 0x34 := by decide
/-- spec/02, Packing: four E2M3 values. -/
theorem test_pack_fp6 : packElems 6 3 [0x08, 0x24, 0x1F, 0x01] = [0x08, 0xF9, 0x05] := by decide
/-- spec/02, Quantising: a tie, and a clamp. -/
theorem test_quant_mxfp4 : (mxQuant 10 false rne [] [.fin false 5 0, .fin false 7 (-3), .fin true 5 (-2)]).1 = 0x7F ∧
    (mxQuant 10 false rne [] [.fin false 5 0, .fin false 6 (-3), .fin true 5 (-2)]).2.1.take 1 = [0x6] := by decide
theorem test_quant_mxfp8 : mxQuant 8 false rne [] [.fin false 1000 0, .fin false 3 0] = (0x80, [0x7E, 0x3C], fSAT + fOVF + fINX) := by decide
/-- spec/02: 200.75 into INT8 is 127 with SAT, OVF and INX. -/
theorem test_int8_clamp : intOfVal 8 { mode := 0, sat := true, draw := 0 } (.fin false 803 (-2)) = (127, fSAT + fOVF + fINX) := by decide
/-- R491: the check value of each algorithm over "123456789". -/
def nine : List Byte := [0x31, 0x32, 0x33, 0x34, 0x35, 0x36, 0x37, 0x38, 0x39]
set_option maxRecDepth 20000 in
theorem test_crc_check : crcOf 0 nine = 0xE3069283 ∧ crcOf 1 nine = 0xCBF43926 ∧ crcOf 2 nine = 0x29B1 ∧ crcOf 3 nine = 0xF4 ∧ crcOf 4 nine = 0x6C40DF5F0B497347 := by decide
/-- spec/05: TIMEOUT 0x4005 bounds a wait at 5 µs. -/
theorem test_sync_bound : syncBound 0x4005 = 5000 := by decide

/-! ### Witnesses of the statements' hypotheses -/

def stOf (d : Dev) : State := { State.reset with dev := d }
/-- Every core runs, the mailbox is ready and the lease is HELD. -/
def mbDev : Dev :=
  ((((((({ ({} : Dev) with sysOn := true } : Dev).wr F.MBX_STATUS_READY 0 1).wr F.MBX_STATUS_LEASE 0 1).wr F.MBX_STATUS_LEASE_XPORT 0 1).coreMod 0
    (fun x => { x with up := true })).coreMod 1 (fun x => { x with up := true })).coreMod 2 (fun x => { x with up := true }))
/-- `mbDev` with the journal record that slot A is STAGED. -/
def stagedDev : Dev := { mbDev with mem := memPuts [] Space.flash.base (JRec.bytes { seq := 1, slot := 0, state := jsStaged }) }
def commDev : Dev :=
  (((((mbDev.wr F.COOL_STATUS_TABLE_VALID 0 1).wr F.FAN_CFG_USED 0 1).wr F.COOL_CTRL_MODE 0 cmTest).wr F.FAN_CFG_SUPPLY 0 5).wr F.SEQ_RAIL_STATUS_STATE 5 rlOn).wr F.FAN_STATUS_STATE 0 fnOff
def trialDev : Dev := mbDev.wr F.BOOT_STATUS_TRIAL 0 1
def usedHbm : Dev := mbDev.slMod 0 fun x => { x with hbm := (0x3FFF00000, 0x100000) }
def qOf (pay : List Byte) : MbxReq :=
  { ch := 4, major := 3, minor := 0, tag := 1, status := 0, len := BitVec.ofNat 16 pay.length, flags := 0, detail := 0, gts := 0, zero := 0, crc := 0, pay := pay }

set_option maxRecDepth 20000 in
theorem wit_RegisterAccessAndClockEvents_0 : ∃ s : State, s.dev.sends (Agent.host) = true ∧ (Width.w32) = Width.w32 ∧ (BitVec.ofNat 28 (F.SNAP_SRC_EN_SYNC.addr 0)).toNat % 4 = 0 ∧ reqBuffer (BitVec.ofNat 28 (F.SNAP_SRC_EN_SYNC.addr 0)).toNat = none ∧ ¬ (0x100800 ≤ (BitVec.ofNat 28 (F.SNAP_SRC_EN_SYNC.addr 0)).toNat ∧ (BitVec.ofNat 28 (F.SNAP_SRC_EN_SYNC.addr 0)).toNat < 0x100900) ∧ regDefAt (BitVec.ofNat 28 (F.SNAP_SRC_EN_SYNC.addr 0)).toNat = some ((regDefAt (F.SNAP_SRC_EN_SYNC.addr 0)).getD ⟨0, 0, 0, 0, []⟩) ∧ s.dev.regFixed ((Agent.host) ≠ .host) (BitVec.ofNat 28 (F.SNAP_SRC_EN_SYNC.addr 0)).toNat = false ∧ s.dev.locked = false ∧ (BitVec.ofNat 28 (F.SNAP_SRC_EN_SYNC.addr 0)).toNat ≠ F.PWC_CTRL_ORO_EN.addr 0 := ⟨stOf ({({} : Dev) with sysOn := true}), by decide +kernel⟩
set_option maxRecDepth 20000 in
theorem wit_RegisterAccessAndClockEvents_1 : ∃ s : State, s.dev.sends (Agent.host) = true ∧ widthBytes (Width.w8) < 4 ∧ (0x600010#28).toNat % widthBytes (Width.w8) = 0 ∧ reqBuffer (0x600010#28).toNat = none := ⟨stOf ({({} : Dev) with sysOn := true}), by decide +kernel⟩
set_option maxRecDepth 20000 in
theorem wit_RegisterAccessAndClockEvents_2 : ∃ s : State, s.dev.sends (Agent.host) = true ∧ (0x110003#28).toNat % widthBytes (Width.w8) = 0 ∧ reqBuffer (0x110003#28).toNat = some ((0), (3)) ∧ s.dev.rd F.MBX_CH_STATUS_STATE (0) ≠ 1 := ⟨stOf ({({} : Dev) with sysOn := true}), by decide +kernel⟩
set_option maxRecDepth 20000 in
theorem wit_RegisterAccessAndClockEvents_3 : ∃ s : State, s.dev.sends (Agent.host) = true ∧ (0x110003#28).toNat % widthBytes (Width.w8) = 0 ∧ reqBuffer (0x110003#28).toNat = some ((0), (3)) ∧ s.dev.rd F.MBX_CH_STATUS_STATE (0) = 1 := ⟨stOf (({({} : Dev) with sysOn := true}).wr F.MBX_CH_STATUS_STATE 0 1), by decide +kernel⟩
set_option maxRecDepth 20000 in
theorem wit_RegisterAccessAndClockEvents_4 : ∃ s : State, s.dev.sends (Agent.host) = true := ⟨stOf ({({} : Dev) with sysOn := true}), by decide +kernel⟩
set_option maxRecDepth 20000 in
theorem wit_RegisterAccessAndClockEvents_5 : ∃ s : State, s.dev.sends .sec = true := ⟨stOf (({({} : Dev) with sysOn := true}).coreMod 0 fun x => { x with up := true }), by decide +kernel⟩
set_option maxRecDepth 20000 in
theorem wit_RegisterAccessAndClockEvents_6 : ∃ s : State, s.dev.sends (Agent.host) = true ∧ isCounter64 (0x30#28).toNat = true := ⟨stOf ({({} : Dev) with sysOn := true}), by decide +kernel⟩
set_option maxRecDepth 20000 in
theorem wit_RegisterAccessAndClockEvents_7 : ∃ s : State, s.dev.sends (Agent.host) = true ∧ isWide (BitVec.ofNat 28 (F.SOB_HOP_OPERAND_LO.addr 0)).toNat = true := ⟨stOf ({({} : Dev) with sysOn := true}), by decide +kernel⟩
set_option maxRecDepth 20000 in
theorem wit_RegisterAccessAndClockEvents_8 : ∃ s : State, s.dev.sends (Agent.host) = true ∧ 4 ≤ (BitVec.ofNat 28 (F.SOB_HOP_OPERAND_LO.addr 0 + 4)).toNat ∧ isWide ((BitVec.ofNat 28 (F.SOB_HOP_OPERAND_LO.addr 0 + 4)).toNat - 4) = true := ⟨stOf ({({} : Dev) with sysOn := true}), by decide +kernel⟩
set_option maxRecDepth 20000 in
theorem wit_RegisterAccessAndClockEvents_11 : ∃ s : State, s.dev.seq.vinUp = true ∧ s.dev.seq.xtal = 1 := ⟨stOf ({({} : Dev) with seq.vinUp := true, seq.xtal := 1}), by decide +kernel⟩

set_option maxRecDepth 20000 in
theorem wit_CodeWordsReadAndWrittenBack_0 : ∃ s : State, s.dev.eccOn (EccMem.hbm) = true := ⟨stOf ({({} : Dev) with sysOn := true}), by decide +kernel⟩
set_option maxRecDepth 20000 in
theorem wit_CodeWordsReadAndWrittenBack_1 : ∃ s : State, s.dev.eccOn (EccMem.hbm) = true ∧ (s.dev.eccStored (EccMem.hbm) ((5 : BitVec 31)).toNat).1 = false := ⟨stOf ({({} : Dev) with sysOn := true}), by decide +kernel⟩
set_option maxRecDepth 20000 in
theorem wit_CodeWordsReadAndWrittenBack_2 : ∃ s : State, s.dev.eccOn (EccMem.hbm) = true ∧ (s.dev.eccStored (EccMem.hbm) ((5 : BitVec 31)).toNat).1 = true := ⟨stOf (({({} : Dev) with sysOn := true}).setPoison .hbm 40 true), by decide +kernel⟩
set_option maxRecDepth 20000 in
theorem wit_CodeWordsReadAndWrittenBack_3 : ∃ s : State, s.dev.eccOn (EccMem.hbm) = true := ⟨stOf ({({} : Dev) with sysOn := true}), by decide +kernel⟩
set_option maxRecDepth 20000 in
theorem wit_CodeWordsReadAndWrittenBack_4 : ∃ s : State, s.dev.eccOn (EccMem.hbm) = true ∧ (eccPlace (EccMem.hbm) (5#31).toNat).2 = some ((Space.hbm, 40)) ∧ tget (fun _ => false) s.dev.wbPend (eccPlace (EccMem.hbm) (5#31).toNat).1 = true ∧ tget (fun _ => false) s.dev.wb (eccPlace (EccMem.hbm) (5#31).toNat).1 = true := ⟨stOf (({({} : Dev) with sysOn := true}).wbQueue (eccPlace EccMem.hbm 5).1 true), by decide +kernel⟩
set_option maxRecDepth 20000 in
theorem wit_CodeWordsReadAndWrittenBack_5 : ∃ s : State, s.dev.eccOn (EccMem.hbm) = true ∧ tget (fun _ => false) s.dev.wbPend (eccPlace (EccMem.hbm) (5#31).toNat).1 = true ∧ tget (fun _ => false) s.dev.wb (eccPlace (EccMem.hbm) (5#31).toNat).1 = false := ⟨stOf (({({} : Dev) with sysOn := true}).wbQueue (eccPlace EccMem.hbm 5).1 false), by decide +kernel⟩
set_option maxRecDepth 20000 in
theorem wit_CodeWordsReadAndWrittenBack_6 : ∃ s : State, s.dev.eccOn (EccMem.hbm) = true := ⟨stOf ({({} : Dev) with sysOn := true}), by decide +kernel⟩

set_option maxRecDepth 20000 in
theorem wit_EndgameResponderAnswersOnSmb0_0 : ∃ s : State, s.dev.flt.endgame = true := ⟨stOf ({({} : Dev) with flt.endgame := true}), by decide +kernel⟩
set_option maxRecDepth 20000 in
theorem wit_EndgameResponderAnswersOnSmb0_1 : ∃ s : State, s.dev.flt.endgame = true := ⟨stOf ({({} : Dev) with flt.endgame := true}), by decide +kernel⟩
set_option maxRecDepth 20000 in
theorem wit_EndgameResponderAnswersOnSmb0_2 : ∃ s : State, s.dev.flt.endgame = true := ⟨stOf ({({} : Dev) with flt.endgame := true}), by decide +kernel⟩
set_option maxRecDepth 20000 in
theorem wit_EndgameResponderAnswersOnSmb0_3 : ∃ s : State, s.dev.flt.endgame = true := ⟨stOf ({({} : Dev) with flt.endgame := true}), by decide +kernel⟩
set_option maxRecDepth 20000 in
theorem wit_EndgameResponderAnswersOnSmb0_4 : ∃ s : State, s.dev.flt.endgame = true := ⟨stOf ({({} : Dev) with flt.endgame := true}), by decide +kernel⟩
set_option maxRecDepth 20000 in
theorem wit_EndgameResponderAnswersOnSmb0_5 : ∃ s : State, s.dev.flt.endgame = true := ⟨stOf ({({} : Dev) with flt.endgame := true}), by decide +kernel⟩
set_option maxRecDepth 20000 in
theorem wit_EndgameResponderAnswersOnSmb0_6 : ∃ s : State, s.dev.flt.endgame = true := ⟨stOf ({({} : Dev) with flt.endgame := true}), by decide +kernel⟩
set_option maxRecDepth 20000 in
theorem wit_EndgameResponderAnswersOnSmb0_7 : ∃ s : State, s.dev.flt.endgame = true := ⟨stOf ({({} : Dev) with flt.endgame := true}), by decide +kernel⟩
set_option maxRecDepth 20000 in
theorem wit_EndgameResponderAnswersOnSmb0_8 : ∃ s : State, s.dev.flt.endgame = true := ⟨stOf ({({} : Dev) with flt.endgame := true}), by decide +kernel⟩
set_option maxRecDepth 20000 in
theorem wit_EndgameResponderAnswersOnSmb0_9 : ∃ s : State, s.dev.flt.endgame = true := ⟨stOf ({({} : Dev) with flt.endgame := true}), by decide +kernel⟩
set_option maxRecDepth 20000 in
theorem wit_EndgameResponderAnswersOnSmb0_10 : ∃ s : State, s.dev.flt.endgame = true ∧ s.dev.flt.endAuto = true ∧ s.dev.flt.endAt + 10000000000 ≤ s.dev.aont ∧ s.dev.flt.endBoot = false ∧ s.dev.is F.PWC_MATE_STATUS_ACTIVE = false ∧ s.dev.hsw ≠ hsLatched := ⟨stOf ({({} : Dev) with flt.endgame := true, flt.endAuto := true, aont := 10000000000}), by decide +kernel⟩
set_option maxRecDepth 20000 in
theorem wit_EndgameResponderAnswersOnSmb0_11 : ∃ s : State, s.dev.flt.endgame = true ∧ s.dev.flt.endAuto = true ∧ s.dev.flt.endAt + 10000000000 ≤ s.dev.aont ∧ (s.dev.flt.endBoot = true ∨ s.dev.is F.PWC_MATE_STATUS_ACTIVE = true ∨ s.dev.hsw = hsLatched) := ⟨stOf ({({} : Dev) with flt.endgame := true, flt.endAuto := true, aont := 10000000000, flt.endBoot := true}), by decide +kernel⟩

set_option maxRecDepth 20000 in
theorem wit_BoundaryScanInstructions_0 : ∃ s : State, s.dev.tapOn = true := ⟨stOf ((({} : Dev).wr F.SEQ_RAIL_STATUS_STATE 1 rlOn).wr F.SEQ_RAIL_STATUS_STATE 2 rlOn), by decide +kernel⟩
set_option maxRecDepth 20000 in
theorem wit_BoundaryScanInstructions_1 : ∃ s : State, s.dev.tapOn = true := ⟨stOf ((({} : Dev).wr F.SEQ_RAIL_STATUS_STATE 1 rlOn).wr F.SEQ_RAIL_STATUS_STATE 2 rlOn), by decide +kernel⟩
set_option maxRecDepth 20000 in
theorem wit_BoundaryScanInstructions_2 : ∃ s : State, s.dev.tapOn = true := ⟨stOf ((({} : Dev).wr F.SEQ_RAIL_STATUS_STATE 1 rlOn).wr F.SEQ_RAIL_STATUS_STATE 2 rlOn), by decide +kernel⟩
set_option maxRecDepth 20000 in
theorem wit_BoundaryScanInstructions_3 : ∃ s : State, s.dev.tapOn = true ∧ s.dev.boot.mfgTest = true := ⟨stOf ({(({} : Dev).wr F.SEQ_RAIL_STATUS_STATE 1 rlOn).wr F.SEQ_RAIL_STATUS_STATE 2 rlOn with boot.mfgTest := true}), by decide +kernel⟩
set_option maxRecDepth 20000 in
theorem wit_BoundaryScanInstructions_4 : ∃ s : State, s.dev.tapOn = true ∧ s.dev.boot.mfgTest = false := ⟨stOf ((({} : Dev).wr F.SEQ_RAIL_STATUS_STATE 1 rlOn).wr F.SEQ_RAIL_STATUS_STATE 2 rlOn), by decide +kernel⟩
set_option maxRecDepth 20000 in
theorem wit_BoundaryScanInstructions_5 : ∃ s : State, s.dev.tapOn = true ∧ s.dev.boot.mfgTest = true := ⟨stOf ({(({} : Dev).wr F.SEQ_RAIL_STATUS_STATE 1 rlOn).wr F.SEQ_RAIL_STATUS_STATE 2 rlOn with boot.mfgTest := true}), by decide +kernel⟩
set_option maxRecDepth 20000 in
theorem wit_BoundaryScanInstructions_6 : ∃ s : State, s.dev.tapOn = true ∧ s.dev.boot.mfgTest = false := ⟨stOf ((({} : Dev).wr F.SEQ_RAIL_STATUS_STATE 1 rlOn).wr F.SEQ_RAIL_STATUS_STATE 2 rlOn), by decide +kernel⟩
set_option maxRecDepth 20000 in
theorem wit_BoundaryScanInstructions_7 : ∃ s : State, s.dev.tapOn = true ∧ s.dev.boot.mfgTest = true := ⟨stOf ({(({} : Dev).wr F.SEQ_RAIL_STATUS_STATE 1 rlOn).wr F.SEQ_RAIL_STATUS_STATE 2 rlOn with boot.mfgTest := true}), by decide +kernel⟩
set_option maxRecDepth 20000 in
theorem wit_BoundaryScanInstructions_8 : ∃ s : State, s.dev.tapOn = true ∧ s.dev.boot.mfgTest = false := ⟨stOf ((({} : Dev).wr F.SEQ_RAIL_STATUS_STATE 1 rlOn).wr F.SEQ_RAIL_STATUS_STATE 2 rlOn), by decide +kernel⟩
set_option maxRecDepth 20000 in
theorem wit_BoundaryScanInstructions_9 : ∃ s : State, s.dev.tapOn = true := ⟨stOf ((({} : Dev).wr F.SEQ_RAIL_STATUS_STATE 1 rlOn).wr F.SEQ_RAIL_STATUS_STATE 2 rlOn), by decide +kernel⟩

set_option maxRecDepth 20000 in
theorem wit_SnapshotTriggersAndCopy_0 : ∃ s : State, s.dev.is F.SNAP_STATUS_CAPTURING = false := ⟨stOf ({}), by decide +kernel⟩
set_option maxRecDepth 20000 in
theorem wit_SnapshotTriggersAndCopy_1 : ∃ s : State, s.dev.is F.SNAP_STATUS_CAPTURING = true := ⟨stOf (({} : Dev).wr F.SNAP_STATUS_CAPTURING 0 1), by decide +kernel⟩
set_option maxRecDepth 20000 in
theorem wit_SnapshotTriggersAndCopy_2 : ∃ s : State, s.dev.rdw (F.SNAP_SRC_EN_SYNC.addr 0) % 32 &&& snapFirmware ≠ 0 ∧ s.dev.is F.SNAP_STATUS_ARMED = false := ⟨stOf ((({} : Dev).wrw (F.SNAP_SRC_EN_SYNC.addr 0) 31).wr F.SNAP_STATUS_ARMED 0 0), by decide +kernel⟩
set_option maxRecDepth 20000 in
theorem wit_SnapshotTriggersAndCopy_3 : ∃ s : State, snapFirmware &&& (s.dev.rdw (F.SNAP_SRC_EN_SYNC.addr 0) % 32) ≠ 0 ∧ s.dev.is F.SNAP_STATUS_ARMED = true := ⟨stOf ((({} : Dev).wrw (F.SNAP_SRC_EN_SYNC.addr 0) 31).wr F.SNAP_STATUS_ARMED 0 1), by decide +kernel⟩
set_option maxRecDepth 20000 in
theorem wit_SnapshotTriggersAndCopy_4 : ∃ s : State, s.dev.rdw (F.SNAP_SRC_EN_SYNC.addr 0) % 32 &&& snapPin = 0 := ⟨stOf (({} : Dev).wrw (F.SNAP_SRC_EN_SYNC.addr 0) 0), by decide +kernel⟩
set_option maxRecDepth 20000 in
theorem wit_SnapshotTriggersAndCopy_5 : ∃ s : State, snapPin &&& (s.dev.rdw (F.SNAP_SRC_EN_SYNC.addr 0) % 32) ≠ 0 ∧ s.dev.is F.SNAP_STATUS_ARMED = true := ⟨stOf ((({} : Dev).wrw (F.SNAP_SRC_EN_SYNC.addr 0) 31).wr F.SNAP_STATUS_ARMED 0 1), by decide +kernel⟩
set_option maxRecDepth 20000 in
theorem wit_SnapshotTriggersAndCopy_6 : ∃ s : State, (s.dev.snapFire (31#5).toNat).obs.snap.want = true := ⟨stOf ((({} : Dev).wrw (F.SNAP_SRC_EN_SYNC.addr 0) 31).wr F.SNAP_STATUS_ARMED 0 1), by decide +kernel⟩
set_option maxRecDepth 20000 in
theorem wit_SnapshotTriggersAndCopy_7 : ∃ s : State, s.dev.is F.SNAP_STATUS_CAPTURING = true ∧ s.dev.obs.snap.want = false ∧ s.dev.obs.snap.armLater = false := ⟨stOf (({} : Dev).wr F.SNAP_STATUS_CAPTURING 0 1), by decide +kernel⟩

set_option maxRecDepth 20000 in
theorem wit_MctpControlAndAttestation_0 : ∃ s : State, s.dev.mctpUp ((1 : Fin 2)).val = true ∧ ((8 : Byte)) ≠ 0 ∧ ((8 : Byte)) ≠ 0xFF := ⟨stOf ({({} : Dev) with sysOn := true}), by decide +kernel⟩
set_option maxRecDepth 20000 in
theorem wit_MctpControlAndAttestation_1 : ∃ s : State, s.dev.mctpUp ((1 : Fin 2)).val = true ∧ (((0xFF : Byte)) = 0 ∨ ((0xFF : Byte)) = 0xFF) := ⟨stOf ({({} : Dev) with sysOn := true}), by decide +kernel⟩
set_option maxRecDepth 20000 in
theorem wit_MctpControlAndAttestation_2 : ∃ s : State, s.dev.mctpUp ((1 : Fin 2)).val = true := ⟨stOf ({({} : Dev) with sysOn := true}), by decide +kernel⟩
set_option maxRecDepth 20000 in
theorem wit_MctpControlAndAttestation_3 : ∃ s : State, s.dev.mctpUp ((1 : Fin 2)).val = true := ⟨stOf ({({} : Dev) with sysOn := true}), by decide +kernel⟩
set_option maxRecDepth 20000 in
theorem wit_MctpControlAndAttestation_4 : ∃ s : State, s.dev.mctpUp ((1 : Fin 2)).val = true := ⟨stOf ({({} : Dev) with sysOn := true}), by decide +kernel⟩
set_option maxRecDepth 20000 in
theorem wit_MctpControlAndAttestation_5 : ∃ s : State, s.dev.mctpUp ((1 : Fin 2)).val = true := ⟨stOf ({({} : Dev) with sysOn := true}), by decide +kernel⟩
set_option maxRecDepth 20000 in
theorem wit_MctpControlAndAttestation_6 : ∃ s : State, s.dev.mctpUp ((1 : Fin 2)).val = true := ⟨stOf ({({} : Dev) with sysOn := true}), by decide +kernel⟩
set_option maxRecDepth 20000 in
theorem wit_MctpControlAndAttestation_8 : ∃ s : State, s.dev.mctpUp ((0 : Fin 2)).val = true ∧ s.dev.coreUp coreSec = true := ⟨stOf (({({} : Dev) with sysOn := true}).coreMod 0 fun x => { x with up := true }), by decide +kernel⟩
set_option maxRecDepth 20000 in
theorem wit_MctpControlAndAttestation_9 : ∃ s : State, s.dev.mctpUp ((0 : Fin 2)).val = true ∧ s.dev.coreUp coreSec = true := ⟨stOf (({({} : Dev) with sysOn := true}).coreMod 0 fun x => { x with up := true }), by decide +kernel⟩
set_option maxRecDepth 20000 in
theorem wit_MctpControlAndAttestation_10 : ∃ s : State, s.dev.mctpUp ((0 : Fin 2)).val = true ∧ s.dev.coreUp coreSec = true := ⟨stOf (({({} : Dev) with sysOn := true}).coreMod 0 fun x => { x with up := true }), by decide +kernel⟩
set_option maxRecDepth 20000 in
theorem wit_MctpControlAndAttestation_11 : ∃ s : State, s.dev.mctpUp ((0 : Fin 2)).val = true ∧ s.dev.coreUp coreSec = true := ⟨stOf (({({} : Dev) with sysOn := true}).coreMod 0 fun x => { x with up := true }), by decide +kernel⟩
set_option maxRecDepth 20000 in
theorem wit_MctpControlAndAttestation_12 : ∃ s : State, s.dev.mctpUp ((0 : Fin 2)).val = true ∧ s.dev.coreUp coreSec = true ∧ ((0 : Byte)) = 0 := ⟨stOf (({({} : Dev) with sysOn := true}).coreMod 0 fun x => { x with up := true }), by decide +kernel⟩
set_option maxRecDepth 20000 in
theorem wit_MctpControlAndAttestation_13 : ∃ s : State, s.dev.mctpUp ((0 : Fin 2)).val = true ∧ s.dev.coreUp coreSec = true ∧ ((1 : Byte)) ≠ 0 := ⟨stOf (({({} : Dev) with sysOn := true}).coreMod 0 fun x => { x with up := true }), by decide +kernel⟩
set_option maxRecDepth 20000 in
theorem wit_MctpControlAndAttestation_14 : ∃ s : State, s.dev.mctpUp ((0 : Fin 2)).val = true ∧ s.dev.coreUp coreSec = true := ⟨stOf (({({} : Dev) with sysOn := true}).coreMod 0 fun x => { x with up := true }), by decide +kernel⟩
set_option maxRecDepth 20000 in
theorem wit_MctpControlAndAttestation_15 : ∃ s : State, s.dev.mctpUp ((0 : Fin 2)).val = true ∧ s.dev.coreUp coreSec = true ∧ ((1 : Byte)) ≠ 0xFF := ⟨stOf (({({} : Dev) with sysOn := true}).coreMod 0 fun x => { x with up := true }), by decide +kernel⟩
set_option maxRecDepth 20000 in
theorem wit_MctpControlAndAttestation_16 : ∃ s : State, s.dev.mctpUp ((0 : Fin 2)).val = true ∧ s.dev.coreUp coreSec = true ∧ ((0xFF : Byte)) = 0xFF := ⟨stOf (({({} : Dev) with sysOn := true}).coreMod 0 fun x => { x with up := true }), by decide +kernel⟩
set_option maxRecDepth 20000 in
theorem wit_MctpControlAndAttestation_17 : ∃ s : State, s.dev.mctpUp ((0 : Fin 2)).val = true ∧ s.dev.coreUp coreSec = true := ⟨stOf (({({} : Dev) with sysOn := true}).coreMod 0 fun x => { x with up := true }), by decide +kernel⟩

set_option maxRecDepth 20000 in
theorem wit_MailboxServiceEvents_0 : ∃ s : State, s.dev.linkUp = true ∧ s.dev.rd F.MBX_CH_STATUS_STATE ((1 : Fin 4)) = 2 := ⟨stOf (({({} : Dev) with sysOn := true}).wr F.MBX_CH_STATUS_STATE 1 2), by decide +kernel⟩
set_option maxRecDepth 20000 in
theorem wit_MailboxServiceEvents_1 : ∃ s : State, s.dev.obs.waitingCompl = ((0), (([1] : List Byte))) :: (([] : List (Nat × List Byte))) ∧ s.dev.is F.CQ_CFG_EN 4 = true ∧ s.dev.cqFits 4 (([1] : List Byte)).length = true := ⟨stOf (({({} : Dev) with obs.waitingCompl := [(0, [1])]}).wr F.CQ_CFG_EN 4 1), by decide +kernel⟩
set_option maxRecDepth 20000 in
theorem wit_MailboxServiceEvents_2 : ∃ s : State, s.dev.sysOn = true := ⟨stOf ({({} : Dev) with sysOn := true}), by decide +kernel⟩
set_option maxRecDepth 20000 in
theorem wit_MailboxServiceEvents_3 : ∃ s : State, s.dev.leaseDue 500000000 = true := ⟨stOf ((({({} : Dev) with sysOn := true, gts := 500000000}).wr F.MBX_STATUS_LEASE 0 1).coreMod 2 fun x => { x with up := true }), by decide +kernel⟩
set_option maxRecDepth 20000 in
theorem wit_MailboxServiceEvents_4 : ∃ s : State, s.dev.leaseDue 250000000 = true ∧ s.dev.mbx.warned = false := ⟨stOf ((({({} : Dev) with sysOn := true, gts := 250000000}).wr F.MBX_STATUS_LEASE 0 1).coreMod 2 fun x => { x with up := true }), by decide +kernel⟩
set_option maxRecDepth 20000 in
theorem wit_MailboxServiceEvents_5 : ∃ s : State, s.dev.sysOn = true ∧ s.dev.coreUp ((2 : Fin 11)) = true ∧ tget (fun _ => false) s.dev.obs.traceEn ((5 : Byte)).toNat = true ∧ s.dev.is F.CQ_CFG_EN 0 = true := ⟨stOf ((({({} : Dev) with sysOn := true, obs.traceEn := [(5, true)]}).coreMod 2 fun x => { x with up := true }).wr F.CQ_CFG_EN 0 1), by decide +kernel⟩
set_option maxRecDepth 20000 in
theorem wit_MailboxServiceEvents_6 : ∃ s : State, s.dev.sysOn = true ∧ s.dev.coreUp ((2 : Fin 11)).val = true ∧ ((0 : Fin 4)).val + 1 ≤ s.dev.obs.logLevel ∧ bitOf s.dev.obs.logMask ((2 : Fin 11)).val = true ∧ s.dev.obs.logCopy = false := ⟨stOf ({ (({({} : Dev) with sysOn := true}).coreMod 2 fun x => { x with up := true }) with obs.logCopy := false }), by decide +kernel⟩
set_option maxRecDepth 20000 in
theorem wit_MailboxServiceEvents_7 : ∃ s : State, s.dev.sysOn = true ∧ s.dev.coreUp ((2 : Fin 11)).val = true ∧ ((0 : Fin 4)).val + 1 ≤ s.dev.obs.logLevel ∧ bitOf s.dev.obs.logMask ((2 : Fin 11)).val = true ∧ s.dev.obs.logCopy = true := ⟨stOf ({ (({({} : Dev) with sysOn := true}).coreMod 2 fun x => { x with up := true }) with obs.logCopy := true }), by decide +kernel⟩
set_option maxRecDepth 20000 in
theorem wit_MailboxServiceEvents_8 : ∃ s : State, s.dev.sysOn = true ∧ s.dev.coreUp coreSec = true := ⟨stOf (({({} : Dev) with sysOn := true}).coreMod 0 fun x => { x with up := true }), by decide +kernel⟩

set_option maxRecDepth 20000 in
theorem wit_MailboxGeneralAndObservationOpcodes_0 : ∃ s : State, s.dev.admits opGetVersion (qOf []) = true := ⟨stOf (mbDev), by decide +kernel⟩
set_option maxRecDepth 20000 in
theorem wit_MailboxGeneralAndObservationOpcodes_1 : ∃ s : State, s.dev.admits opGetIdentity (qOf []) = true ∧ (s.dev.arrived 0x0001 (qOf [])).boot.run = some (({ slot := 0, tag := [], head := [], man := [] } : Running)) := ⟨stOf ({ mbDev with boot.run := some { slot := 0, tag := [], head := [], man := [] } }), by decide +kernel⟩
set_option maxRecDepth 20000 in
theorem wit_MailboxGeneralAndObservationOpcodes_2 : ∃ s : State, s.dev.admits opGetIdentity (qOf []) = true ∧ (s.dev.arrived 0x0001 (qOf [])).boot.run = none := ⟨stOf (mbDev), by decide +kernel⟩
set_option maxRecDepth 20000 in
theorem wit_MailboxGeneralAndObservationOpcodes_3 : ∃ s : State, s.dev.admits opGetStatus (qOf []) = true := ⟨stOf (mbDev), by decide +kernel⟩
set_option maxRecDepth 20000 in
theorem wit_MailboxGeneralAndObservationOpcodes_4 : ∃ s : State, s.dev.admits opHeartbeat (qOf (le 8 7)) = true ∧ (s.dev.arrived 0x0003 (qOf (le 8 7))).rd F.MBX_STATUS_LEASE ≠ 1 := ⟨stOf ((mbDev).wr F.MBX_STATUS_LEASE 0 0), by decide +kernel⟩
set_option maxRecDepth 20000 in
theorem wit_MailboxGeneralAndObservationOpcodes_5 : ∃ s : State, s.dev.admits opHeartbeat (qOf (le 8 7)) = true ∧ (s.dev.arrived 0x0003 (qOf (le 8 7))).rd F.MBX_STATUS_LEASE = 1 ∧ (s.dev.arrived 0x0003 (qOf (le 8 7))).mbx.holder = pf (qOf (le 8 7)).pay 0 8 ∧ (s.dev.arrived 0x0003 (qOf (le 8 7))).rd F.MBX_STATUS_LEASE_XPORT = transport (qOf (le 8 7)).ch := ⟨stOf ({ mbDev with mbx.holder := 7 }), by decide +kernel⟩
set_option maxRecDepth 20000 in
theorem wit_MailboxGeneralAndObservationOpcodes_6 : ∃ s : State, s.dev.admits opHeartbeat (qOf (le 8 7)) = true ∧ (s.dev.arrived 0x0003 (qOf (le 8 7))).rd F.MBX_STATUS_LEASE = 1 ∧ ((s.dev.arrived 0x0003 (qOf (le 8 7))).mbx.holder ≠ pf (qOf (le 8 7)).pay 0 8 ∨ (s.dev.arrived 0x0003 (qOf (le 8 7))).rd F.MBX_STATUS_LEASE_XPORT ≠ transport (qOf (le 8 7)).ch) := ⟨stOf ({ mbDev with mbx.holder := 8 }), by decide +kernel⟩
set_option maxRecDepth 20000 in
theorem wit_MailboxGeneralAndObservationOpcodes_7 : ∃ s : State, s.dev.admits opGetResetCause (qOf []) = true := ⟨stOf (mbDev), by decide +kernel⟩
set_option maxRecDepth 20000 in
theorem wit_MailboxGeneralAndObservationOpcodes_8 : ∃ s : State, s.dev.admits opGetTime (qOf []) = true := ⟨stOf (mbDev), by decide +kernel⟩
set_option maxRecDepth 20000 in
theorem wit_MailboxGeneralAndObservationOpcodes_9 : ∃ s : State, s.dev.admits opGetOpcodes (qOf [4, 0, 0, 0]) = true := ⟨stOf (mbDev), by decide +kernel⟩
set_option maxRecDepth 20000 in
theorem wit_MailboxGeneralAndObservationOpcodes_10 : ∃ s : State, s.dev.admits opReleaseLease (qOf (le 8 7)) = true := ⟨stOf ({ mbDev with mbx.holder := 7 }), by decide +kernel⟩
set_option maxRecDepth 20000 in
theorem wit_MailboxGeneralAndObservationOpcodes_11 : ∃ s : State, s.dev.admits opTlmFrames (qOf [1, 0, 0, 0]) = true := ⟨stOf (mbDev), by decide +kernel⟩
set_option maxRecDepth 20000 in
theorem wit_MailboxGeneralAndObservationOpcodes_12 : ∃ s : State, s.dev.admits opLogConfig (qOf [4, 1, 0xFF, 7]) = true := ⟨stOf (mbDev), by decide +kernel⟩
set_option maxRecDepth 20000 in
theorem wit_MailboxGeneralAndObservationOpcodes_13 : ∃ s : State, s.dev.admits opLogRead (qOf (le 8 0 ++ le 2 4072 ++ zeros 6)) = true ∧ (s.dev.arrived 0x0602 (qOf (le 8 0 ++ le 2 4072 ++ zeros 6))).obs.logRecs = (((3, 0, 24) : Nat × Nat × Nat)) :: (([] : List (Nat × Nat × Nat))) := ⟨stOf ({ mbDev with obs.logRecs := [(3, 0, 24)] }), by decide +kernel⟩
set_option maxRecDepth 20000 in
theorem wit_MailboxGeneralAndObservationOpcodes_14 : ∃ s : State, s.dev.admits opLogRead (qOf (le 8 0 ++ le 2 4072 ++ zeros 6)) = true ∧ (s.dev.arrived 0x0602 (qOf (le 8 0 ++ le 2 4072 ++ zeros 6))).obs.logRecs = [] := ⟨stOf (mbDev), by decide +kernel⟩
set_option maxRecDepth 20000 in
theorem wit_MailboxGeneralAndObservationOpcodes_15 : ∃ s : State, s.dev.admits opTraceSet (qOf (le 32 5)) = true := ⟨stOf (mbDev), by decide +kernel⟩
set_option maxRecDepth 20000 in
theorem wit_MailboxGeneralAndObservationOpcodes_16 : ∃ s : State, s.dev.admits opEcho (qOf [1, 2, 3]) = true := ⟨stOf (mbDev), by decide +kernel⟩
set_option maxRecDepth 20000 in
theorem wit_MailboxGeneralAndObservationOpcodes_17 : ∃ s : State, s.dev.admits opFreeze (qOf []) = true := ⟨stOf (mbDev), by decide +kernel⟩
set_option maxRecDepth 20000 in
theorem wit_MailboxGeneralAndObservationOpcodes_18 : ∃ s : State, s.dev.admits opFfrArchive (qOf []) = true ∧ (s.dev.arrived 0x0F02 (qOf [])).canAccept (qOf []) = true := ⟨stOf (mbDev), by decide +kernel⟩
set_option maxRecDepth 20000 in
theorem wit_MailboxGeneralAndObservationOpcodes_19 : ∃ s : State, s.dev.admits opFfrArchive (qOf []) = true ∧ (s.dev.arrived 0x0F02 (qOf [])).canAccept (qOf []) = false := ⟨stOf ({ mbDev with mbx.outst := [{ id := 0, xport := 1, op := 0, tag := 1, minor := 0, crc := false }] }), by decide +kernel⟩

set_option maxRecDepth 20000 in
theorem wit_MailboxPowerAndClockOpcodes_0 : ∃ s : State, s.dev.admits opSetTrayCap (qOf (le 2 5000 ++ [0, 0])) = true ∧ (s.dev.arrived 0x0100 (qOf (le 2 5000 ++ [0, 0]))).coreUp corePmc = true := ⟨stOf (mbDev), by decide +kernel⟩
set_option maxRecDepth 20000 in
theorem wit_MailboxPowerAndClockOpcodes_1 : ∃ s : State, s.dev.admits opSetTrayCap (qOf (le 2 5000 ++ [0, 0])) = true ∧ (s.dev.arrived 0x0100 (qOf (le 2 5000 ++ [0, 0]))).coreUp corePmc = false ∧ ¬ (pf (qOf (le 2 5000 ++ [0, 0])).pay 2 1 = 1 ∧ pf (qOf (le 2 5000 ++ [0, 0])).pay 0 2 < (s.dev.arrived 0x0100 (qOf (le 2 5000 ++ [0, 0]))).rd F.PWC_TRAY_CAP_CAP_W) := ⟨stOf (mbDev.coreMod 1 fun x => { x with up := false }), by decide +kernel⟩
set_option maxRecDepth 20000 in
theorem wit_MailboxPowerAndClockOpcodes_2 : ∃ s : State, s.dev.admits opGetPower (qOf []) = true := ⟨stOf (mbDev), by decide +kernel⟩
set_option maxRecDepth 20000 in
theorem wit_MailboxPowerAndClockOpcodes_3 : ∃ s : State, s.dev.admits opSetStaticBudgets (qOf (zeros 16)) = true ∧ (s.dev.arrived 0x0102 (qOf (zeros 16))).coreUp corePmc = true ∧ ((s.dev.arrived 0x0102 (qOf (zeros 16))).forAcc fun g a => g.pwPut a { g.pw a with static := (some (budgetOf (qOf (zeros 16)).pay a)) }).is F.PWC_CTRL_ORO_EN = true := ⟨stOf (mbDev.wr F.PWC_CTRL_ORO_EN 0 1), by decide +kernel⟩
set_option maxRecDepth 20000 in
theorem wit_MailboxPowerAndClockOpcodes_4 : ∃ s : State, s.dev.admits opSetStaticBudgets (qOf (zeros 16)) = true ∧ (s.dev.arrived 0x0102 (qOf (zeros 16))).coreUp corePmc = true ∧ ((s.dev.arrived 0x0102 (qOf (zeros 16))).forAcc fun g a => g.pwPut a { g.pw a with static := (some (budgetOf (qOf (zeros 16)).pay a)) }).is F.PWC_CTRL_ORO_EN = false := ⟨stOf (mbDev.wr F.PWC_CTRL_ORO_EN 0 0), by decide +kernel⟩
set_option maxRecDepth 20000 in
theorem wit_MailboxPowerAndClockOpcodes_5 : ∃ s : State, s.dev.admits opSetAccMax (qOf (zeros 16)) = true ∧ (s.dev.arrived 0x0103 (qOf (zeros 16))).coreUp corePmc = true := ⟨stOf (mbDev), by decide +kernel⟩
set_option maxRecDepth 20000 in
theorem wit_MailboxPowerAndClockOpcodes_6 : ∃ s : State, s.dev.admits opSetCheckForce (qOf [3, 0, 0, 0]) = true := ⟨stOf (mbDev), by decide +kernel⟩
set_option maxRecDepth 20000 in
theorem wit_MailboxPowerAndClockOpcodes_7 : ∃ s : State, s.dev.admits opClearCheckLatch (qOf [3, 0, 0, 0]) = true := ⟨stOf (mbDev), by decide +kernel⟩
set_option maxRecDepth 20000 in
theorem wit_MailboxPowerAndClockOpcodes_8 : ∃ s : State, s.dev.admits opClearMate (qOf []) = true ∧ (s.dev.arrived 0x0106 (qOf [])).mateClear.1 = true := ⟨stOf (mbDev.wr F.PWC_MATE_STATUS_ACTIVE 0 1), by decide +kernel⟩
set_option maxRecDepth 20000 in
theorem wit_MailboxPowerAndClockOpcodes_9 : ∃ s : State, s.dev.admits opClearMate (qOf []) = true ∧ (s.dev.arrived 0x0106 (qOf [])).mateClear.1 = false := ⟨stOf ((mbDev.wr F.PWC_MATE_STATUS_ACTIVE 0 1).wr F.PWC_CHECK_LATCH_THERMTRIP 0 1), by decide +kernel⟩
set_option maxRecDepth 20000 in
theorem wit_MailboxPowerAndClockOpcodes_10 : ∃ s : State, s.dev.admits opSetShaping (qOf [1, 1, 20, 0]) = true := ⟨stOf (mbDev), by decide +kernel⟩
set_option maxRecDepth 20000 in
theorem wit_MailboxPowerAndClockOpcodes_11 : ∃ s : State, s.dev.admits opClockOpen (qOf (zeros 16)) = true := ⟨stOf (mbDev), by decide +kernel⟩
set_option maxRecDepth 20000 in
theorem wit_MailboxPowerAndClockOpcodes_12 : ∃ s : State, s.dev.admits opClockBind (qOf (zeros 12)) = true := ⟨stOf (mbDev), by decide +kernel⟩
set_option maxRecDepth 20000 in
theorem wit_MailboxPowerAndClockOpcodes_13 : ∃ s : State, s.dev.admits opClockUnbind (qOf (zeros 12)) = true := ⟨stOf (mbDev), by decide +kernel⟩
set_option maxRecDepth 20000 in
theorem wit_MailboxPowerAndClockOpcodes_14 : ∃ s : State, s.dev.admits opClockClose (qOf (zeros 4)) = true := ⟨stOf (mbDev), by decide +kernel⟩
set_option maxRecDepth 20000 in
theorem wit_MailboxPowerAndClockOpcodes_15 : ∃ s : State, s.dev.admits opClockFree (qOf (zeros 4)) = true := ⟨stOf (mbDev), by decide +kernel⟩
set_option maxRecDepth 20000 in
theorem wit_MailboxPowerAndClockOpcodes_16 : ∃ s : State, s.dev.admits opClockRead (qOf (zeros 4)) = true := ⟨stOf (mbDev), by decide +kernel⟩
set_option maxRecDepth 20000 in
theorem wit_MailboxPowerAndClockOpcodes_17 : ∃ s : State, s.dev.admits opAddTokens (qOf (zeros 8 ++ le 8 9)) = true := ⟨stOf (mbDev.clockPut 0 { mbDev.clock 0 with st := 1 }), by decide +kernel⟩
set_option maxRecDepth 20000 in
theorem wit_MailboxPowerAndClockOpcodes_18 : ∃ s : State, s.dev.admits opSignStatement (qOf (zeros 40)) = true := ⟨stOf (mbDev.clockPut 0 { mbDev.clock 0 with st := 1 }), by decide +kernel⟩

set_option maxRecDepth 20000 in
theorem wit_MailboxTrayOpcodes_0 : ∃ s : State, s.dev.admits ((opDomainSet (pf (qOf [4, 0, 2, 0]).pay 0 2))) (qOf [4, 0, 2, 0]) = true ∧ bitOf (pf (qOf [4, 0, 2, 0]).pay 2 2) 1 = true ∧ 4 ≤ maskOf 16 fun k => bitOf (pf (qOf [4, 0, 2, 0]).pay 0 2) k || ((s.dev.arrived 0x0200 (qOf [4, 0, 2, 0])).domReq k && !bitOf (pf (qOf [4, 0, 2, 0]).pay 2 2) k) := ⟨stOf (mbDev.wr F.SEQ_CTRL_GRAPH_VALID 0 1), by decide +kernel⟩
set_option maxRecDepth 20000 in
theorem wit_MailboxTrayOpcodes_1 : ∃ s : State, s.dev.admits ((opDomainSet (pf (qOf [4, 0, 8, 0]).pay 0 2))) (qOf [4, 0, 8, 0]) = true ∧ bitOf (pf (qOf [4, 0, 8, 0]).pay 2 2) 1 = false := ⟨stOf (mbDev.wr F.SEQ_CTRL_GRAPH_VALID 0 1), by decide +kernel⟩
set_option maxRecDepth 20000 in
theorem wit_MailboxTrayOpcodes_2 : ∃ s : State, s.dev.admits opGetSeq (qOf []) = true := ⟨stOf (mbDev), by decide +kernel⟩
set_option maxRecDepth 20000 in
theorem wit_MailboxTrayOpcodes_3 : ∃ s : State, s.dev.admits opRailClear (qOf [5, 0, 0, 0]) = true := ⟨stOf (mbDev.wr F.SEQ_RAIL_STATUS_STATE 5 rlFailed), by decide +kernel⟩
set_option maxRecDepth 20000 in
theorem wit_MailboxTrayOpcodes_4 : ∃ s : State, s.dev.admits opResetHold (qOf [4, 0, 8, 0]) = true := ⟨stOf (mbDev), by decide +kernel⟩
set_option maxRecDepth 20000 in
theorem wit_MailboxTrayOpcodes_5 : ∃ s : State, s.dev.admits opGetCooling (qOf []) = true := ⟨stOf (mbDev), by decide +kernel⟩
set_option maxRecDepth 20000 in
theorem wit_MailboxTrayOpcodes_6 : ∃ s : State, s.dev.admits opSetZoneFloor (qOf [1, 2, 3, 4, 5, 6, 7, 100]) = true := ⟨stOf (mbDev), by decide +kernel⟩
set_option maxRecDepth 20000 in
theorem wit_MailboxTrayOpcodes_7 : ∃ s : State, s.dev.admits opSetCoolMode (qOf [2, 0, 0, 0]) = true := ⟨stOf (mbDev), by decide +kernel⟩
set_option maxRecDepth 20000 in
theorem wit_MailboxTrayOpcodes_8 : ∃ s : State, s.dev.admits opCommissionFan (qOf [0, 0, 100, 0]) = true ∧ (s.dev.arrived 0x0303 (qOf [0, 0, 100, 0])).canAccept (qOf [0, 0, 100, 0]) = true := ⟨stOf (commDev.wr F.SEQ_RAIL_PG_USED 5 1), by decide +kernel⟩
set_option maxRecDepth 20000 in
theorem wit_MailboxTrayOpcodes_9 : ∃ s : State, s.dev.admits opClearCoolFault (qOf [0, 0, 0, 0]) = true := ⟨stOf (mbDev), by decide +kernel⟩
set_option maxRecDepth 20000 in
theorem wit_MailboxTrayOpcodes_10 : ∃ s : State, s.dev.admits opDeepSleep (qOf (zeros 4)) = true ∧ (domains16.all fun k => k < 2 || (s.dev.arrived 0x0204 (qOf (zeros 4))).dom k = dmOff) = true ∧ (s.dev.arrived 0x0204 (qOf (zeros 4))).boot.sess = none ∧ (s.dev.arrived 0x0204 (qOf (zeros 4))).boot.heldAct = none ∧ (s.dev.arrived 0x0204 (qOf (zeros 4))).onTrial = false ∧ (s.dev.arrived 0x0204 (qOf (zeros 4))).rd F.PWC_EMERG_STATE = 0 := ⟨stOf (mbDev), by decide +kernel⟩

set_option maxRecDepth 20000 in
theorem wit_MailboxUpdateOpcodes_0 : ∃ s : State, s.dev.admits opUpdateBegin (qOf [0, 0, 0, 0]) = true ∧ (s.dev.arrived 0x0700 (qOf [0, 0, 0, 0])).boot.sess.isSome = true := ⟨stOf ({ mbDev with boot.sess := some { target := 0, id := none, at' := 0 } }), by decide +kernel⟩
set_option maxRecDepth 20000 in
theorem wit_MailboxUpdateOpcodes_1 : ∃ s : State, s.dev.admits opUpdateBegin (qOf [0, 0, 0, 0]) = true ∧ pf (qOf [0, 0, 0, 0]).pay 0 1 = 0 ∧ (s.dev.arrived 0x0700 (qOf [0, 0, 0, 0])).boot.sess = none ∧ (s.dev.arrived 0x0700 (qOf [0, 0, 0, 0])).onTrial = false ∧ (s.dev.arrived 0x0700 (qOf [0, 0, 0, 0])).canAccept (qOf [0, 0, 0, 0]) = true := ⟨stOf (mbDev), by decide +kernel⟩
set_option maxRecDepth 20000 in
theorem wit_MailboxUpdateOpcodes_2 : ∃ s : State, s.dev.admits opUpdateData (qOf (zeros 9)) = true ∧ (s.dev.arrived 0x0701 (qOf (zeros 9))).boot.sess = none := ⟨stOf (mbDev), by decide +kernel⟩
set_option maxRecDepth 20000 in
theorem wit_MailboxUpdateOpcodes_3 : ∃ s : State, s.dev.admits opUpdateData (qOf (zeros 9)) = true ∧ (s.dev.arrived 0x0701 (qOf (zeros 9))).boot.sess = some (({ target := 0, id := some 1, at' := 0 } : Session)) ∧ (({ target := 0, id := some 1, at' := 0 } : Session)).id.isSome = true := ⟨stOf ({ mbDev with boot.sess := some { target := 0, id := some 1, at' := 0 } }), by decide +kernel⟩
set_option maxRecDepth 20000 in
theorem wit_MailboxUpdateOpcodes_4 : ∃ s : State, s.dev.admits opUpdateData (qOf (zeros 9)) = true ∧ (s.dev.arrived 0x0701 (qOf (zeros 9))).boot.sess = some (({ target := 0, id := none, at' := 0 } : Session)) ∧ (({ target := 0, id := none, at' := 0 } : Session)).id = none ∧ ((s.dev.arrived 0x0701 (qOf (zeros 9))).updData (({ target := 0, id := none, at' := 0 } : Session)) (pf (qOf (zeros 9)).pay 0 4) ((qOf (zeros 9)).pay.drop 8)).1.held = false := ⟨stOf ({ mbDev with boot.sess := some { target := 0, id := none, at' := 0 } }), by decide +kernel⟩
set_option maxRecDepth 20000 in
theorem wit_MailboxUpdateOpcodes_5 : ∃ s : State, s.dev.admits opUpdateCommit (qOf []) = true ∧ (s.dev.arrived 0x0702 (qOf [])).boot.sess = none := ⟨stOf (mbDev), by decide +kernel⟩
set_option maxRecDepth 20000 in
theorem wit_MailboxUpdateOpcodes_6 : ∃ s : State, s.dev.admits opUpdateCommit (qOf []) = true ∧ (s.dev.arrived 0x0702 (qOf [])).boot.sess = some (({ target := 0, id := none, at' := 0 } : Session)) ∧ (({ target := 0, id := none, at' := 0 } : Session)).id = none ∧ (({ target := 0, id := none, at' := 0 } : Session)).target ≠ slG ∧ (s.dev.arrived 0x0702 (qOf [])).canAccept (qOf []) = true := ⟨stOf ({ mbDev with boot.sess := some { target := 0, id := none, at' := 0 } }), by decide +kernel⟩
set_option maxRecDepth 20000 in
theorem wit_MailboxUpdateOpcodes_7 : ∃ s : State, s.dev.admits opUpdateCancel (qOf []) = true ∧ (s.dev.arrived 0x0703 (qOf [])).boot.sess = some (({ target := 0, id := none, at' := 0 } : Session)) ∧ (({ target := 0, id := none, at' := 0 } : Session)).id = none := ⟨stOf ({ mbDev with boot.sess := some { target := 0, id := none, at' := 0 } }), by decide +kernel⟩
set_option maxRecDepth 20000 in
theorem wit_MailboxUpdateOpcodes_8 : ∃ s : State, s.dev.admits opUpdateCancel (qOf []) = true ∧ (s.dev.arrived 0x0703 (qOf [])).boot.sess = none ∧ (s.dev.arrived 0x0703 (qOf [])).boot.heldAct.isSome = true := ⟨stOf ({ mbDev with boot.heldAct := some 0 }), by decide +kernel⟩
set_option maxRecDepth 20000 in
theorem wit_MailboxUpdateOpcodes_9 : ∃ s : State, s.dev.admits opUpdateActivate (qOf [0, 1, 0, 0]) = true ∧ ((pf (qOf [0, 1, 0, 0]).pay 1 1 = 0 → (s.dev.arrived 0x0704 (qOf [0, 1, 0, 0])).groupsBusy = false)) ∧ (s.dev.arrived 0x0704 (qOf [0, 1, 0, 0])).emergClear = true := ⟨stOf ({ stagedDev with aont := 1000000000 }), by decide +kernel⟩
set_option maxRecDepth 20000 in
theorem wit_MailboxUpdateOpcodes_10 : ∃ s : State, s.dev.admits opUpdateActivate (qOf [0, 1, 0, 0]) = true ∧ ((pf (qOf [0, 1, 0, 0]).pay 1 1 = 0 → (s.dev.arrived 0x0704 (qOf [0, 1, 0, 0])).groupsBusy = false)) ∧ (s.dev.arrived 0x0704 (qOf [0, 1, 0, 0])).emergClear = false := ⟨stOf (stagedDev.wr F.PWC_EMERG_STATE 0 1), by decide +kernel⟩
set_option maxRecDepth 20000 in
theorem wit_MailboxUpdateOpcodes_11 : ∃ s : State, s.dev.admits opUpdateConfirm (qOf []) = true ∧ (s.dev.arrived 0x0705 (qOf [])).onTrial = true := ⟨stOf (trialDev), by decide +kernel⟩
set_option maxRecDepth 20000 in
theorem wit_MailboxUpdateOpcodes_12 : ∃ s : State, s.dev.admits opUpdateConfirm (qOf []) = true ∧ (s.dev.arrived 0x0705 (qOf [])).onTrial = false := ⟨stOf (mbDev), by decide +kernel⟩
set_option maxRecDepth 20000 in
theorem wit_MailboxUpdateOpcodes_13 : ∃ s : State, s.dev.admits opUpdateReject (qOf []) = true ∧ (s.dev.arrived 0x0706 (qOf [])).onTrial = true := ⟨stOf (trialDev), by decide +kernel⟩
set_option maxRecDepth 20000 in
theorem wit_MailboxUpdateOpcodes_14 : ∃ s : State, s.dev.admits opUpdateReject (qOf []) = true ∧ (s.dev.arrived 0x0706 (qOf [])).onTrial = false := ⟨stOf (mbDev), by decide +kernel⟩
set_option maxRecDepth 20000 in
theorem wit_MailboxUpdateOpcodes_15 : ∃ s : State, s.dev.admits opUpdateStatus (qOf []) = true := ⟨stOf (mbDev), by decide +kernel⟩

set_option maxRecDepth 20000 in
theorem wit_MailboxTrustOpcodes_0 : ∃ s : State, s.dev.admits opGetNonce (qOf []) = true := ⟨stOf (mbDev), by decide +kernel⟩
set_option maxRecDepth 20000 in
theorem wit_MailboxTrustOpcodes_1 : ∃ s : State, s.dev.admits opOwnerKeyAdd (qOf ([1, 0] ++ zeros 230)) = true ∧ ((s.dev.arrived 0x0801 (qOf ([1, 0] ++ zeros 230))).nonceUse (qOf ([1, 0] ++ zeros 230)) (pb (qOf ([1, 0] ++ zeros 230)).pay 4 32)).1 = false := ⟨stOf (mbDev), by decide +kernel⟩
set_option maxRecDepth 20000 in
theorem wit_MailboxTrustOpcodes_2 : ∃ s : State, s.dev.admits opOwnerKeyAdd (qOf ([1, 0] ++ zeros 230)) = true ∧ ((s.dev.arrived 0x0801 (qOf ([1, 0] ++ zeros 230))).nonceUse (qOf ([1, 0] ++ zeros 230)) (pb (qOf ([1, 0] ++ zeros 230)).pay 4 32)).1 = true := ⟨stOf ({ mbDev with mbx.nonces := [(transport 4, some (0, zeros 32))] }), by decide +kernel⟩
set_option maxRecDepth 20000 in
theorem wit_MailboxTrustOpcodes_3 : ∃ s : State, s.dev.admits opOwnerKeyRevoke (qOf (zeros 132)) = true ∧ ((s.dev.arrived 0x0802 (qOf (zeros 132))).nonceUse (qOf (zeros 132)) (pb (qOf (zeros 132)).pay 4 32)).1 = false := ⟨stOf (mbDev), by decide +kernel⟩
set_option maxRecDepth 20000 in
theorem wit_MailboxTrustOpcodes_4 : ∃ s : State, s.dev.admits opOwnerKeyRevoke (qOf ([0, 1] ++ zeros 130)) = true ∧ ((s.dev.arrived 0x0802 (qOf ([0, 1] ++ zeros 130))).nonceUse (qOf ([0, 1] ++ zeros 130)) (pb (qOf ([0, 1] ++ zeros 130)).pay 4 32)).1 = true ∧ pf (qOf ([0, 1] ++ zeros 130)).pay 1 1 ≠ pf (qOf ([0, 1] ++ zeros 130)).pay 0 1 := ⟨stOf ({ mbDev with mbx.nonces := [(transport 4, some (0, zeros 32))] }), by decide +kernel⟩
set_option maxRecDepth 20000 in
theorem wit_MailboxTrustOpcodes_5 : ∃ s : State, s.dev.admits opModelKeyEnrol (qOf (zeros 252)) = true := ⟨stOf (mbDev), by decide +kernel⟩
set_option maxRecDepth 20000 in
theorem wit_MailboxTrustOpcodes_6 : ∃ s : State, s.dev.admits opDebugToken (qOf (zeros 156)) = true := ⟨stOf (mbDev), by decide +kernel⟩

set_option maxRecDepth 20000 in
theorem wit_MailboxModelOpcodes_0 : ∃ s : State, s.dev.admits opPkgBegin (qOf (le 8 100)) = true ∧ (List.range 4).find? (fun i => ((s.dev.arrived 0x0400 (qOf (le 8 100))).staged i).isNone) = some (0) := ⟨stOf (mbDev), by decide +kernel⟩
set_option maxRecDepth 20000 in
theorem wit_MailboxModelOpcodes_1 : ∃ s : State, s.dev.admits opPkgBegin (qOf (le 8 100)) = true ∧ (List.range 4).find? (fun k => ((s.dev.arrived 0x0400 (qOf (le 8 100))).staged k).isNone) = none := ⟨stOf ((List.range 4).foldl (fun x k => x.stagedPut k (some { total := 1, loading := false })) mbDev), by decide +kernel⟩
set_option maxRecDepth 20000 in
theorem wit_MailboxModelOpcodes_2 : ∃ s : State, s.dev.admits opPkgData (qOf (zeros 12)) = true ∧ (s.dev.arrived 0x0401 (qOf (zeros 12))).staged (pf (qOf (zeros 12)).pay 0 1) = some (({ total := 4, loading := false } : Staging)) ∧ (({ total := 4, loading := false } : Staging)).loading = false ∧ pf (qOf (zeros 12)).pay 4 4 + ((qOf (zeros 12)).pay.drop 8).length ≤ (({ total := 4, loading := false } : Staging)).total := ⟨stOf (mbDev.stagedPut 0 (some { total := 4, loading := false })), by decide +kernel⟩
set_option maxRecDepth 20000 in
theorem wit_MailboxModelOpcodes_3 : ∃ s : State, s.dev.admits opPkgData (qOf (zeros 13)) = true ∧ (s.dev.arrived 0x0401 (qOf (zeros 13))).staged (pf (qOf (zeros 13)).pay 0 1) = some (({ total := 4, loading := false } : Staging)) ∧ (({ total := 4, loading := false } : Staging)).loading = false ∧ (({ total := 4, loading := false } : Staging)).total < pf (qOf (zeros 13)).pay 4 4 + ((qOf (zeros 13)).pay.drop 8).length := ⟨stOf (mbDev.stagedPut 0 (some { total := 4, loading := false })), by decide +kernel⟩
set_option maxRecDepth 20000 in
theorem wit_MailboxModelOpcodes_4 : ∃ s : State, s.dev.admits opPkgLoad (qOf (zeros 116)) = true ∧ (s.dev.arrived 0x0402 (qOf (zeros 116))).staged (pf (qOf (zeros 116)).pay 0 1) = some (({ total := 4, loading := false } : Staging)) ∧ (({ total := 4, loading := false } : Staging)).loading = false ∧ pf (qOf (zeros 116)).pay 1 1 = 0 ∧ (s.dev.arrived 0x0402 (qOf (zeros 116))).canAccept (qOf (zeros 116)) = true := ⟨stOf (mbDev.stagedPut 0 (some { total := 4, loading := false })), by decide +kernel⟩
set_option maxRecDepth 20000 in
theorem wit_MailboxModelOpcodes_5 : ∃ s : State, s.dev.admits opSlotRetire (qOf (zeros 4)) = true ∧ ((s.dev.arrived 0x0403 (qOf (zeros 4))).sl (pf (qOf (zeros 4)).pay 0 1)).owner = 1 := ⟨stOf (mbDev.slMod 0 (fun x => { x with owner := 1 })), by decide +kernel⟩
set_option maxRecDepth 20000 in
theorem wit_MailboxModelOpcodes_6 : ∃ s : State, s.dev.admits opSlotRetire (qOf (zeros 4)) = true ∧ ((s.dev.arrived 0x0403 (qOf (zeros 4))).sl (pf (qOf (zeros 4)).pay 0 1)).owner ≠ 1 := ⟨stOf (mbDev), by decide +kernel⟩
set_option maxRecDepth 20000 in
theorem wit_MailboxModelOpcodes_7 : ∃ s : State, s.dev.admits opSlotQuery (qOf [31, 0, 0, 0]) = true := ⟨stOf (mbDev), by decide +kernel⟩
set_option maxRecDepth 20000 in
theorem wit_MailboxModelOpcodes_8 : ∃ s : State, s.dev.admits opOroSet (qOf ([1, 1, 0, 0] ++ le 2 256 ++ [0, 0])) = true ∧ pf (qOf ([1, 1, 0, 0] ++ le 2 256 ++ [0, 0])).pay 4 2 = (s.dev.arrived 0x0405 (qOf ([1, 1, 0, 0] ++ le 2 256 ++ [0, 0]))).oro.replayMib := ⟨stOf ({ mbDev with oro.replayMib := 256 }), by decide +kernel⟩
set_option maxRecDepth 20000 in
theorem wit_MailboxModelOpcodes_9 : ∃ s : State, s.dev.admits opOroSet (qOf ([1, 1, 0, 0] ++ le 2 512 ++ [0, 0])) = true ∧ pf (qOf ([1, 1, 0, 0] ++ le 2 512 ++ [0, 0])).pay 4 2 ≠ (s.dev.arrived 0x0405 (qOf ([1, 1, 0, 0] ++ le 2 512 ++ [0, 0]))).oro.replayMib ∧ ((s.dev.arrived 0x0405 (qOf ([1, 1, 0, 0] ++ le 2 512 ++ [0, 0]))).hbmUsed.any fun (r : Nat × Nat) => 0x400000000 - pf (qOf ([1, 1, 0, 0] ++ le 2 512 ++ [0, 0])).pay 4 2 * 0x100000 < r.1 + r.2) = true := ⟨stOf (usedHbm), by decide +kernel⟩
set_option maxRecDepth 20000 in
theorem wit_MailboxModelOpcodes_10 : ∃ s : State, s.dev.admits opOroRollback (qOf []) = true := ⟨stOf (mbDev), by decide +kernel⟩
set_option maxRecDepth 20000 in
theorem wit_MailboxModelOpcodes_11 : ∃ s : State, s.dev.admits opOroQuery (qOf []) = true := ⟨stOf (mbDev), by decide +kernel⟩

set_option maxRecDepth 20000 in
theorem wit_MailboxSyncOpcodes_0 : ∃ s : State, s.dev.admits opGroupCreate (qOf (le 4 0xFFFFFFFF ++ le 4 10 ++ zeros 4)) = true ∧ (List.range 256).find? (fun i => (s.dev.arrived 0x0500 (qOf (le 4 0xFFFFFFFF ++ le 4 10 ++ zeros 4))).rd F.GRP_CTRL_STATE i = 0) = some (0) := ⟨stOf (mbDev), by decide +kernel⟩
set_option maxRecDepth 20000 in
theorem wit_MailboxSyncOpcodes_1 : ∃ s : State, s.dev.admits opGroupDelete (qOf (zeros 4)) = true := ⟨stOf (mbDev.wr F.GRP_CTRL_STATE 0 1), by decide +kernel⟩
set_option maxRecDepth 20000 in
theorem wit_MailboxSyncOpcodes_2 : ∃ s : State, s.dev.admits opGroupPolicy (qOf (zeros 4)) = true := ⟨stOf (mbDev.wr F.GRP_CTRL_STATE 0 1), by decide +kernel⟩
set_option maxRecDepth 20000 in
theorem wit_MailboxSyncOpcodes_3 : ∃ s : State, s.dev.admits opObjAlloc (qOf ([0, 1] ++ le 2 1 ++ zeros 12)) = true ∧ ((s.dev.arrived 0x0503 (qOf ([0, 1] ++ le 2 1 ++ zeros 12))).objsOf (pf (qOf ([0, 1] ++ le 2 1 ++ zeros 12)).pay 0 1)).length + pf (qOf ([0, 1] ++ le 2 1 ++ zeros 12)).pay 2 2 ≤ (s.dev.arrived 0x0503 (qOf ([0, 1] ++ le 2 1 ++ zeros 12))).rd F.GRP_CTRL_QUOTA (pf (qOf ([0, 1] ++ le 2 1 ++ zeros 12)).pay 0 1) ∧ (Dev.objAllocs (pf (qOf ([0, 1] ++ le 2 1 ++ zeros 12)).pay 0 1) (pf (qOf ([0, 1] ++ le 2 1 ++ zeros 12)).pay 1 1 % 16) (bitOf (pf (qOf ([0, 1] ++ le 2 1 ++ zeros 12)).pay 1 1) 7) (pf (qOf ([0, 1] ++ le 2 1 ++ zeros 12)).pay 4 4) (pf (qOf ([0, 1] ++ le 2 1 ++ zeros 12)).pay 8 8) (pf (qOf ([0, 1] ++ le 2 1 ++ zeros 12)).pay 2 2) (s.dev.arrived 0x0503 (qOf ([0, 1] ++ le 2 1 ++ zeros 12)))).isSome = true := ⟨stOf ((mbDev.wr F.GRP_CTRL_STATE 0 1).wr F.GRP_CTRL_QUOTA 0 4), by decide +kernel⟩
set_option maxRecDepth 20000 in
theorem wit_MailboxSyncOpcodes_4 : ∃ s : State, s.dev.admits opObjAlloc (qOf ([0, 1] ++ le 2 1 ++ zeros 12)) = true ∧ (s.dev.arrived 0x0503 (qOf ([0, 1] ++ le 2 1 ++ zeros 12))).rd F.GRP_CTRL_QUOTA (pf (qOf ([0, 1] ++ le 2 1 ++ zeros 12)).pay 0 1) < ((s.dev.arrived 0x0503 (qOf ([0, 1] ++ le 2 1 ++ zeros 12))).objsOf (pf (qOf ([0, 1] ++ le 2 1 ++ zeros 12)).pay 0 1)).length + pf (qOf ([0, 1] ++ le 2 1 ++ zeros 12)).pay 2 2 := ⟨stOf (mbDev.wr F.GRP_CTRL_STATE 0 1), by decide +kernel⟩
set_option maxRecDepth 20000 in
theorem wit_MailboxSyncOpcodes_5 : ∃ s : State, s.dev.admits opObjFree (qOf (le 4 1 ++ zeros 4)) = true ∧ (qOf (le 4 1 ++ zeros 4)).pay.length = 4 + 4 * pf (qOf (le 4 1 ++ zeros 4)).pay 0 2 := ⟨stOf (mbDev), by decide +kernel⟩
set_option maxRecDepth 20000 in
theorem wit_MailboxSyncOpcodes_6 : ∃ s : State, s.dev.admits opCtxCreate (qOf ([0, 3, 0, 0, 0, 0, 0, 0] ++ le 4 1 ++ le 2 3 ++ le 2 3 ++ le 2 1000 ++ zeros 2)) = true ∧ ((s.dev.arrived 0x0505 (qOf ([0, 3, 0, 0, 0, 0, 0, 0] ++ le 4 1 ++ le 2 3 ++ le 2 3 ++ le 2 1000 ++ zeros 2))).ctxCreate (ctxAsked (qOf ([0, 3, 0, 0, 0, 0, 0, 0] ++ le 4 1 ++ le 2 3 ++ le 2 3 ++ le 2 1000 ++ zeros 2)).pay)).1 = (some (0), (false)) := ⟨stOf (((mbDev.wr F.GRP_CTRL_STATE 0 1).wrw (F.GRP_MAP_MEMBER.addr 0) 0xFFFFFF10)), by decide +kernel⟩
set_option maxRecDepth 20000 in
theorem wit_MailboxSyncOpcodes_7 : ∃ s : State, s.dev.admits opCtxCreate (qOf ([0, 3, 0, 0, 0, 0, 0, 0] ++ le 4 1 ++ le 2 3 ++ le 2 3 ++ le 2 1000 ++ zeros 2)) = true ∧ ((s.dev.arrived 0x0505 (qOf ([0, 3, 0, 0, 0, 0, 0, 0] ++ le 4 1 ++ le 2 3 ++ le 2 3 ++ le 2 1000 ++ zeros 2))).ctxCreate (ctxAsked (qOf ([0, 3, 0, 0, 0, 0, 0, 0] ++ le 4 1 ++ le 2 3 ++ le 2 3 ++ le 2 1000 ++ zeros 2)).pay)).1 = (none, false) := ⟨stOf ({ ((mbDev.wr F.GRP_CTRL_STATE 0 1).wrw (F.GRP_MAP_MEMBER.addr 0) 0xFFFFFF10) with ecc.comAvoid := 12 }), by decide +kernel⟩
set_option maxRecDepth 20000 in
theorem wit_MailboxSyncOpcodes_8 : ∃ s : State, s.dev.admits opCtxDelete (qOf (zeros 4)) = true := ⟨stOf (mbDev.wr F.BRD_CTX_CFG_VALID 0 1), by decide +kernel⟩
set_option maxRecDepth 20000 in
theorem wit_MailboxSyncOpcodes_9 : ∃ s : State, s.dev.admits opCastle (qOf [0, 0xFF, 0, 0]) = true := ⟨stOf (mbDev), by decide +kernel⟩
set_option maxRecDepth 20000 in
theorem wit_MailboxSyncOpcodes_10 : ∃ s : State, s.dev.admits opAccConfig (qOf [1, 1, 0, 0]) = true := ⟨stOf (mbDev), by decide +kernel⟩
set_option maxRecDepth 20000 in
theorem wit_MailboxSyncOpcodes_11 : ∃ s : State, s.dev.admits opGetAcc (qOf []) = true := ⟨stOf (mbDev), by decide +kernel⟩

set_option maxRecDepth 20000 in
theorem wit_LinkTrainingCommands_3 : ∃ s : State, (s.dev.wr F.LNK_CTRL_EN ((0 : Fin 24)) 0).lst ((0 : Fin 24)) = lsActive := ⟨stOf (({({} : Dev) with sysOn := true}).wr F.LNK_STATE_STATE 0 lsActive), by decide +kernel⟩
set_option maxRecDepth 20000 in
theorem wit_LinkTrainingCommands_4 : ∃ s : State, (s.dev.wr F.LNK_CTRL_EN ((0 : Fin 24)) 0).lst ((0 : Fin 24)) = lsWake := ⟨stOf (({({} : Dev) with sysOn := true}).wr F.LNK_STATE_STATE 0 lsWake), by decide +kernel⟩
set_option maxRecDepth 20000 in
theorem wit_LinkTrainingCommands_5 : ∃ s : State, (s.dev.wr F.LNK_CTRL_EN ((0 : Fin 24)) 0).lst ((0 : Fin 24)) ≠ lsActive ∧ (s.dev.wr F.LNK_CTRL_EN ((0 : Fin 24)) 0).lst ((0 : Fin 24)) ≠ lsWake := ⟨stOf (({({} : Dev) with sysOn := true}).wr F.LNK_STATE_STATE 0 lsEq), by decide +kernel⟩
set_option maxRecDepth 20000 in
theorem wit_LinkTrainingCommands_6 : ∃ s : State, s.dev.lst ((0 : Fin 24)) = lsDetect := ⟨stOf (({({} : Dev) with sysOn := true}).wr F.LNK_STATE_STATE 0 lsDetect), by decide +kernel⟩
set_option maxRecDepth 20000 in
theorem wit_LinkTrainingCommands_7 : ∃ s : State, s.dev.lst ((0 : Fin 24)) = lsDetect := ⟨stOf (({({} : Dev) with sysOn := true}).wr F.LNK_STATE_STATE 0 lsDetect), by decide +kernel⟩
set_option maxRecDepth 20000 in
theorem wit_LinkTrainingCommands_8 : ∃ s : State, s.dev.lst ((0 : Fin 24)) = lsEq := ⟨stOf (({({} : Dev) with sysOn := true}).wr F.LNK_STATE_STATE 0 lsEq), by decide +kernel⟩
set_option maxRecDepth 20000 in
theorem wit_LinkTrainingCommands_9 : ∃ s : State, s.dev.lst ((0 : Fin 24)) = lsAlign := ⟨stOf (({({} : Dev) with sysOn := true}).wr F.LNK_STATE_STATE 0 lsAlign), by decide +kernel⟩
set_option maxRecDepth 20000 in
theorem wit_LinkTrainingCommands_10 : ∃ s : State, s.dev.lst ((0 : Fin 24)) = lsWake := ⟨stOf (({({} : Dev) with sysOn := true}).wr F.LNK_STATE_STATE 0 lsWake), by decide +kernel⟩
set_option maxRecDepth 20000 in
theorem wit_LinkTrainingCommands_11 : ∃ s : State, (s.dev.lst ((0 : Fin 24)) = lsParam ∨ s.dev.lst ((0 : Fin 24)) = lsWake) ∧ 0x10 ≤ pbits (BitVec.ofNat 128 (0x13 + 16 * 2 ^ 16 + 128 * 2 ^ 24 + 256 * 2 ^ 32 + 32 * 2 ^ 48)) 0 8 ∧ pbits (BitVec.ofNat 128 (0x13 + 16 * 2 ^ 16 + 128 * 2 ^ 24 + 256 * 2 ^ 32 + 32 * 2 ^ 48)) 0 8 ≤ 0x1F ∧ 8 ≤ pbits (BitVec.ofNat 128 (0x13 + 16 * 2 ^ 16 + 128 * 2 ^ 24 + 256 * 2 ^ 32 + 32 * 2 ^ 48)) 16 8 ∧ 64 ≤ pbits (BitVec.ofNat 128 (0x13 + 16 * 2 ^ 16 + 128 * 2 ^ 24 + 256 * 2 ^ 32 + 32 * 2 ^ 48)) 24 8 ∧ 128 ≤ pbits (BitVec.ofNat 128 (0x13 + 16 * 2 ^ 16 + 128 * 2 ^ 24 + 256 * 2 ^ 32 + 32 * 2 ^ 48)) 32 16 ∧ 16 ≤ pbits (BitVec.ofNat 128 (0x13 + 16 * 2 ^ 16 + 128 * 2 ^ 24 + 256 * 2 ^ 32 + 32 * 2 ^ 48)) 48 8 := ⟨stOf (({({} : Dev) with sysOn := true}).wr F.LNK_STATE_STATE 0 lsParam), by decide +kernel⟩
set_option maxRecDepth 20000 in
theorem wit_LinkTrainingCommands_12 : ∃ s : State, s.dev.lst ((0 : Fin 24)) = lsParam ∧ (pbits ((0x20 : Payload)) 0 8 < 0x10 ∨ 0x1F < pbits ((0x20 : Payload)) 0 8) := ⟨stOf (({({} : Dev) with sysOn := true}).wr F.LNK_STATE_STATE 0 lsParam), by decide +kernel⟩
set_option maxRecDepth 20000 in
theorem wit_LinkTrainingCommands_13 : ∃ s : State, trainBound (s.dev.lst ((0 : Fin 24))) = some (100000) ∧ (s.dev.lk ((0 : Fin 24))).since + (100000) ≤ s.dev.gts ∧ s.dev.lst ((0 : Fin 24)) ≠ lsWake := ⟨stOf ({ ({({} : Dev) with sysOn := true}).wr F.LNK_STATE_STATE 0 lsDetect with gts := 100000 }), by decide +kernel⟩
set_option maxRecDepth 20000 in
theorem wit_LinkTrainingCommands_14 : ∃ s : State, s.dev.lst ((0 : Fin 24)) = lsWake ∧ (s.dev.lk ((0 : Fin 24))).since + 12000 ≤ s.dev.gts := ⟨stOf ({ ({({} : Dev) with sysOn := true}).wr F.LNK_STATE_STATE 0 lsWake with gts := 12000 }), by decide +kernel⟩
set_option maxRecDepth 20000 in
theorem wit_LinkTrainingCommands_15 : ∃ s : State, s.dev.lst ((0 : Fin 24)) = lsStandby ∧ (s.dev.lk ((0 : Fin 24))).since + 1000000 ≤ s.dev.gts := ⟨stOf ({ ({({} : Dev) with sysOn := true}).wr F.LNK_STATE_STATE 0 lsStandby with gts := 1000000 }), by decide +kernel⟩
set_option maxRecDepth 20000 in
theorem wit_LinkTrainingCommands_16 : ∃ s : State, s.dev.lst ((0 : Fin 24)) = lsStandby ∧ (s.dev.lk ((0 : Fin 24))).since + 1000000 ≤ s.dev.gts := ⟨stOf ({ ({({} : Dev) with sysOn := true}).wr F.LNK_STATE_STATE 0 lsStandby with gts := 1000000 }), by decide +kernel⟩
set_option maxRecDepth 20000 in
theorem wit_LinkTrainingCommands_17 : ∃ s : State, s.dev.lst ((0 : Fin 24)) = lsFault := ⟨stOf (({({} : Dev) with sysOn := true}).wr F.LNK_STATE_STATE 0 lsFault), by decide +kernel⟩
set_option maxRecDepth 20000 in
theorem wit_LinkTrainingCommands_18 : ∃ s : State, s.dev.lst ((0 : Fin 24)) = lsActive := ⟨stOf (({({} : Dev) with sysOn := true}).wr F.LNK_STATE_STATE 0 lsActive), by decide +kernel⟩

set_option maxRecDepth 20000 in
theorem wit_LinkFailureAndTakeover_0 : ∃ s : State, s.dev.lst ((0 : Fin 24)) = lsActive ∧ (accLinks (((0 : Fin 24)).val / 3)).find? (fun i => (s.dev.fence ((0 : Fin 24)) (s.dev.roleOf ((0 : Fin 24)))).lst i = lsActive) = some (1) := ⟨stOf ((({({} : Dev) with sysOn := true}).wr F.LNK_STATE_STATE 0 lsActive).wr F.LNK_STATE_STATE 1 lsActive), by decide +kernel⟩
set_option maxRecDepth 20000 in
theorem wit_LinkFailureAndTakeover_1 : ∃ s : State, s.dev.lst ((0 : Fin 24)) = lsActive ∧ (accLinks (((0 : Fin 24)).val / 3)).find? (fun i => (s.dev.fence ((0 : Fin 24)) (s.dev.roleOf ((0 : Fin 24)))).lst i = lsActive) = none := ⟨stOf (({({} : Dev) with sysOn := true}).wr F.LNK_STATE_STATE 0 lsActive), by decide +kernel⟩
set_option maxRecDepth 20000 in
theorem wit_LinkFailureAndTakeover_2 : ∃ s : State, s.dev.lst ((0 : Fin 24)) = lsActive := ⟨stOf (({({} : Dev) with sysOn := true}).wr F.LNK_STATE_STATE 0 lsActive), by decide +kernel⟩
set_option maxRecDepth 20000 in
theorem wit_LinkFailureAndTakeover_3 : ∃ s : State, s.dev.lst ((0 : Fin 24)) = lsActive ∧ (3 * (((0 : Fin 24)).val / 3) + ((1 : Fin 3))) ≠ ((0 : Fin 24)) := ⟨stOf (({({} : Dev) with sysOn := true}).wr F.LNK_STATE_STATE 0 lsActive), by decide +kernel⟩
set_option maxRecDepth 20000 in
theorem wit_LinkFailureAndTakeover_4 : ∃ s : State, s.dev.lst ((0 : Fin 24)) = lsActive ∧ ((0 : Fin 24)).val % 3 ≠ ((1 : Fin 3)) := ⟨stOf (({({} : Dev) with sysOn := true}).wr F.LNK_STATE_STATE 0 lsActive), by decide +kernel⟩
set_option maxRecDepth 20000 in
theorem wit_LinkFailureAndTakeover_5 : ∃ s : State, s.dev.lst ((0 : Fin 24)) = lsActive ∧ (s.dev.acc (((0 : Fin 24)).val / 3)).wake = some (((0 : Fin 24)).val % 3, ((0 : Fin 4)).val) ∧ s.dev.failedOf (((0 : Fin 24)).val / 3) ((0 : Fin 4)) = some (({ pos := 1, role := 0, frozen := [], rxLast := none, sentAt := 0, midTrain := false } : Failed)) := ⟨stOf ((({({} : Dev) with sysOn := true}).wr F.LNK_STATE_STATE 0 lsActive).accPut 0 { wake := some (0, 0), failed := [{ pos := 1, role := 0, frozen := [], rxLast := none, sentAt := 0, midTrain := false }] }), by decide +kernel⟩
set_option maxRecDepth 20000 in
theorem wit_LinkFailureAndTakeover_6 : ∃ s : State, s.dev.lst ((0 : Fin 24)) = lsActive ∧ (s.dev.acc (((0 : Fin 24)).val / 3)).wake = some (((0 : Fin 24)).val % 3, ((0 : Fin 4)).val) ∧ s.dev.failedOf (((0 : Fin 24)).val / 3) ((0 : Fin 4)) = none := ⟨stOf ((({({} : Dev) with sysOn := true}).wr F.LNK_STATE_STATE 0 lsActive).accPut 0 { wake := some (0, 0) }), by decide +kernel⟩
set_option maxRecDepth 20000 in
theorem wit_LinkFailureAndTakeover_7 : ∃ s : State, s.dev.lst ((0 : Fin 24)) = lsActive ∧ (s.dev.acc (((0 : Fin 24)).val / 3)).wake = some (((0 : Fin 24)).val % 3, ((0 : Fin 4)).val) := ⟨stOf ((({({} : Dev) with sysOn := true}).wr F.LNK_STATE_STATE 0 lsActive).accPut 0 { wake := some (0, 0) }), by decide +kernel⟩
set_option maxRecDepth 20000 in
theorem wit_LinkFailureAndTakeover_8 : ∃ s : State, (accLinks ((0 : Fin 8))).find? (fun i => s.dev.lst i = lsActive) = some (0) := ⟨stOf (({({} : Dev) with sysOn := true}).wr F.LNK_STATE_STATE 0 lsActive), by decide +kernel⟩
set_option maxRecDepth 20000 in
theorem wit_LinkFailureAndTakeover_9 : ∃ s : State, s.dev.holder ((0 : Fin 8)) 0 = 3 ∧ (bitsOf ((0x3C : BitVec 6)).toNat 0 2) < 3 ∧ s.dev.lst (3 * ((0 : Fin 8)) + (bitsOf ((0x3C : BitVec 6)).toNat 0 2)) = lsStandby ∧ bitsOf ((0x3C : BitVec 6)).toNat 2 2 = s.dev.holder ((0 : Fin 8)) 1 ∧ bitsOf ((0x3C : BitVec 6)).toNat 4 2 = s.dev.holder ((0 : Fin 8)) 2 ∧ s.dev.is F.VL_CTRL_EN = true ∧ (s.dev.acc ((0 : Fin 8))).wake.isNone = true := ⟨stOf (((({({} : Dev) with sysOn := true}).wr F.LNK_STATE_STATE 0 lsStandby).wr F.VL_CTRL_EN 0 1).wrw (F.VL_ACC_ROLE_PRIMARY.addr 0) 0x3F), by decide +kernel⟩
set_option maxRecDepth 20000 in
theorem wit_LinkFailureAndTakeover_10 : ∃ s : State, (Agent.host) ≠ .sch := ⟨stOf ({({} : Dev) with sysOn := true}), by decide +kernel⟩

set_option maxRecDepth 20000 in
theorem wit_LinkLayerCommands_0 : ∃ s : State, s.dev.lst ((0 : Fin 24)) = lsActive ∧ s.dev.is F.LNK_STATE_FEC_CORRECT ((0 : Fin 24)) = true ∧ ((2 : Fin 69)).val ≤ 2 := ⟨stOf ((({({} : Dev) with sysOn := true}).wr F.LNK_STATE_STATE 0 lsActive).wr F.LNK_STATE_FEC_CORRECT 0 1), by decide +kernel⟩
set_option maxRecDepth 20000 in
theorem wit_LinkLayerCommands_1 : ∃ s : State, s.dev.lst ((0 : Fin 24)) = lsActive ∧ s.dev.is F.LNK_STATE_FEC_CORRECT ((0 : Fin 24)) = true ∧ 2 < ((3 : Fin 69)).val ∧ (((s.dev.inc F.LNK_CNT1_FEC_UNCORR ((0 : Fin 24))).lk ((0 : Fin 24))).badFrames + 1) < 8 := ⟨stOf ((({({} : Dev) with sysOn := true}).wr F.LNK_STATE_STATE 0 lsActive).wr F.LNK_STATE_FEC_CORRECT 0 1), by decide +kernel⟩
set_option maxRecDepth 20000 in
theorem wit_LinkLayerCommands_2 : ∃ s : State, s.dev.lst ((0 : Fin 24)) = lsActive ∧ s.dev.is F.LNK_STATE_FEC_CORRECT ((0 : Fin 24)) = true ∧ 2 < ((3 : Fin 69)).val ∧ 8 ≤ (((s.dev.inc F.LNK_CNT1_FEC_UNCORR ((0 : Fin 24))).lk ((0 : Fin 24))).badFrames + 1) := ⟨stOf (((({({} : Dev) with sysOn := true}).wr F.LNK_STATE_STATE 0 lsActive).wr F.LNK_STATE_FEC_CORRECT 0 1).lkPut 0 { badFrames := 7 }), by decide +kernel⟩
set_option maxRecDepth 20000 in
theorem wit_LinkLayerCommands_3 : ∃ s : State, s.dev.lst ((0 : Fin 24)) = lsActive ∧ (s.dev.lk ((0 : Fin 24))).nakAt = none ∧ flitCrcOk ((1 : BitVec 160)) = false := ⟨stOf (({({} : Dev) with sysOn := true}).wr F.LNK_STATE_STATE 0 lsActive), by decide +kernel⟩
set_option maxRecDepth 20000 in
theorem wit_LinkLayerCommands_4 : ∃ s : State, s.dev.lst ((0 : Fin 24)) = lsActive ∧ (s.dev.lk ((0 : Fin 24))).nakAt = none ∧ flitCrcOk (BitVec.ofNat 160 (0x2000 + flitCrc 0x2000 * 2 ^ 144)) = true ∧ bitOf ((BitVec.ofNat 160 (0x2000 + flitCrc 0x2000 * 2 ^ 144)).toNat % 65536) 15 = false ∧ rxAdv (bitsOf ((BitVec.ofNat 160 (0x2000 + flitCrc 0x2000 * 2 ^ 144)).toNat % 65536) 13 2) ≤ ((s.dev.lk ((0 : Fin 24))).rx.filter fun (y : Flit) => y.vc = bitsOf ((BitVec.ofNat 160 (0x2000 + flitCrc 0x2000 * 2 ^ 144)).toNat % 65536) 13 2).length + (s.dev.lk ((0 : Fin 24))).ret.getD (bitsOf ((BitVec.ofNat 160 (0x2000 + flitCrc 0x2000 * 2 ^ 144)).toNat % 65536) 13 2) 0 := ⟨stOf ((({({} : Dev) with sysOn := true}).wr F.LNK_STATE_STATE 0 lsActive).lkPut 0 { ret := [0, 128, 0, 0] }), by decide +kernel⟩
set_option maxRecDepth 20000 in
theorem wit_LinkLayerCommands_5 : ∃ s : State, s.dev.lst ((0 : Fin 24)) = lsActive ∧ (s.dev.lk ((0 : Fin 24))).nakAt = none ∧ flitCrcOk (BitVec.ofNat 160 (0x2000 + flitCrc 0x2000 * 2 ^ 144)) = true ∧ bitOf ((BitVec.ofNat 160 (0x2000 + flitCrc 0x2000 * 2 ^ 144)).toNat % 65536) 15 = false ∧ ((s.dev.lk ((0 : Fin 24))).rx.filter fun (y : Flit) => y.vc = bitsOf ((BitVec.ofNat 160 (0x2000 + flitCrc 0x2000 * 2 ^ 144)).toNat % 65536) 13 2).length + (s.dev.lk ((0 : Fin 24))).ret.getD (bitsOf ((BitVec.ofNat 160 (0x2000 + flitCrc 0x2000 * 2 ^ 144)).toNat % 65536) 13 2) 0 < rxAdv (bitsOf ((BitVec.ofNat 160 (0x2000 + flitCrc 0x2000 * 2 ^ 144)).toNat % 65536) 13 2) ∧ typeKnown (bitsOf ((BitVec.ofNat 160 (0x2000 + flitCrc 0x2000 * 2 ^ 144)).toNat % 65536) 13 2) (bitsOf ((BitVec.ofNat 160 (0x2000 + flitCrc 0x2000 * 2 ^ 144)).toNat % 65536) 8 5) = true := ⟨stOf (({({} : Dev) with sysOn := true}).wr F.LNK_STATE_STATE 0 lsActive), by decide +kernel⟩
set_option maxRecDepth 20000 in
theorem wit_LinkLayerCommands_6 : ∃ s : State, s.dev.lst ((0 : Fin 24)) = lsActive ∧ (s.dev.lk ((0 : Fin 24))).nakAt = none ∧ flitCrcOk (BitVec.ofNat 160 (0x3F00 + flitCrc 0x3F00 * 2 ^ 144)) = true ∧ bitOf ((BitVec.ofNat 160 (0x3F00 + flitCrc 0x3F00 * 2 ^ 144)).toNat % 65536) 15 = false ∧ ((s.dev.lk ((0 : Fin 24))).rx.filter fun (y : Flit) => y.vc = bitsOf ((BitVec.ofNat 160 (0x3F00 + flitCrc 0x3F00 * 2 ^ 144)).toNat % 65536) 13 2).length + (s.dev.lk ((0 : Fin 24))).ret.getD (bitsOf ((BitVec.ofNat 160 (0x3F00 + flitCrc 0x3F00 * 2 ^ 144)).toNat % 65536) 13 2) 0 < rxAdv (bitsOf ((BitVec.ofNat 160 (0x3F00 + flitCrc 0x3F00 * 2 ^ 144)).toNat % 65536) 13 2) ∧ typeKnown (bitsOf ((BitVec.ofNat 160 (0x3F00 + flitCrc 0x3F00 * 2 ^ 144)).toNat % 65536) 13 2) (bitsOf ((BitVec.ofNat 160 (0x3F00 + flitCrc 0x3F00 * 2 ^ 144)).toNat % 65536) 8 5) = false := ⟨stOf (({({} : Dev) with sysOn := true}).wr F.LNK_STATE_STATE 0 lsActive), by decide +kernel⟩
set_option maxRecDepth 20000 in
theorem wit_LinkLayerCommands_7 : ∃ s : State, s.dev.lst ((0 : Fin 24)) = lsActive := ⟨stOf (({({} : Dev) with sysOn := true}).wr F.LNK_STATE_STATE 0 lsActive), by decide +kernel⟩
set_option maxRecDepth 20000 in
theorem wit_LinkLayerCommands_9 : ∃ s : State, s.dev.lst ((0 : Fin 24)) = lsActive := ⟨stOf (({({} : Dev) with sysOn := true}).wr F.LNK_STATE_STATE 0 lsActive), by decide +kernel⟩
set_option maxRecDepth 20000 in
theorem wit_LinkLayerCommands_10 : ∃ s : State, s.dev.lst ((0 : Fin 24)) = lsActive ∧ ((s.dev.lk ((0 : Fin 24))).replay.any fun y => y.seq = ((0 : BitVec 7)).toNat) = false := ⟨stOf (({({} : Dev) with sysOn := true}).wr F.LNK_STATE_STATE 0 lsActive), by decide +kernel⟩
set_option maxRecDepth 20000 in
theorem wit_LinkLayerCommands_11 : ∃ s : State, s.dev.lst ((0 : Fin 24)) = lsActive ∧ ((s.dev.lk ((0 : Fin 24))).replay.any fun y => y.seq = ((5 : BitVec 7)).toNat) = true ∧ ((if (s.dev.lk ((0 : Fin 24))).sameSeq.1 = ((5 : BitVec 7)).toNat ∧ 0 < (s.dev.lk ((0 : Fin 24))).sameSeq.2 then (s.dev.lk ((0 : Fin 24))).sameSeq.2 + 1 else 1)) < max 2 (((s.dev.inc F.LNK_CNT0_REPLAYS ((0 : Fin 24))).lkPut ((0 : Fin 24)) { s.dev.lk ((0 : Fin 24)) with sameSeq := ((((5 : BitVec 7)).toNat, ((if (s.dev.lk ((0 : Fin 24))).sameSeq.1 = ((5 : BitVec 7)).toNat ∧ 0 < (s.dev.lk ((0 : Fin 24))).sameSeq.2 then (s.dev.lk ((0 : Fin 24))).sameSeq.2 + 1 else 1)))), rate := (rateWin s.dev.gts, if (s.dev.lk ((0 : Fin 24))).rate.1 = rateWin s.dev.gts then (s.dev.lk ((0 : Fin 24))).rate.2 + 1 else 1) }).rd F.VL_FAIL_CFG_SAME_SEQ_LIMIT) := ⟨stOf ((({({} : Dev) with sysOn := true}).wr F.LNK_STATE_STATE 0 lsActive).lkPut 0 { replay := [({ seq := 5, times := 1, at' := 0, f := { vc := 1, ty := 0, pay := 0 } } : Sent)] }), by decide +kernel⟩
set_option maxRecDepth 20000 in
theorem wit_LinkLayerCommands_12 : ∃ s : State, s.dev.lst ((0 : Fin 24)) = lsActive ∧ (s.dev.lk ((0 : Fin 24))).nakAt.isSome = true ∧ (s.dev.lk ((0 : Fin 24))).rxNext = ((0 : BitVec 7)).toNat := ⟨stOf ((({({} : Dev) with sysOn := true}).wr F.LNK_STATE_STATE 0 lsActive).lkPut 0 { nakAt := some 0 }), by decide +kernel⟩
set_option maxRecDepth 20000 in
theorem wit_LinkLayerCommands_13 : ∃ s : State, (s.dev.lk ((0 : Fin 24))).nakAt = some (0) ∧ s.dev.lst ((0 : Fin 24)) = lsActive ∧ (0) + 200 ≤ s.dev.gts := ⟨stOf ({ (({({} : Dev) with sysOn := true}).wr F.LNK_STATE_STATE 0 lsActive).lkPut 0 { nakAt := some 0 } with gts := 200 }), by decide +kernel⟩
set_option maxRecDepth 20000 in
theorem wit_LinkLayerCommands_14 : ∃ s : State, (s.dev.lk ((0 : Fin 24))).replay.head? = some (({ seq := 5, times := 1, at' := 0, f := { vc := 1, ty := 0, pay := 0 } } : Sent)) ∧ (({ seq := 5, times := 1, at' := 0, f := { vc := 1, ty := 0, pay := 0 } } : Sent)).at' + 250 * max 2 (s.dev.rd F.VL_FAIL_CFG_ACK_TIMEOUT) ≤ s.dev.gts := ⟨stOf ({ (({({} : Dev) with sysOn := true}).wr F.LNK_STATE_STATE 0 lsActive).lkPut 0 { replay := [({ seq := 5, times := 1, at' := 0, f := { vc := 1, ty := 0, pay := 0 } } : Sent)] } with gts := 100000000 }), by decide +kernel⟩
set_option maxRecDepth 20000 in
theorem wit_LinkLayerCommands_15 : ∃ s : State, (s.dev.lk ((0 : Fin 24))).rate.1 < rateWin s.dev.gts := ⟨stOf ({ ({({} : Dev) with sysOn := true}).wr F.LNK_STATE_STATE 0 lsActive with gts := 100000 }), by decide +kernel⟩
set_option maxRecDepth 20000 in
theorem wit_LinkLayerCommands_16 : ∃ s : State, s.dev.lst ((0 : Fin 24)) = lsActive := ⟨stOf (({({} : Dev) with sysOn := true}).wr F.LNK_STATE_STATE 0 lsActive), by decide +kernel⟩

set_option maxRecDepth 20000 in
theorem wit_TimeSyncPairingAndPresence_0 : ∃ s : State, (s.dev.roleLink ((0 : Fin 8)) 0).isSome = true ∧ (s.dev.acc ((0 : Fin 8))).t1 + 10000 * max 1 (s.dev.rd F.VL_CTRL_TSYNC_PERIOD) ≤ s.dev.gts := ⟨stOf (({ ({({} : Dev) with sysOn := true}).wr F.LNK_STATE_STATE 0 lsActive with gts := 100000000000 }).wrw (F.VL_ACC_ROLE_PRIMARY.addr 0) 0), by decide +kernel⟩
set_option maxRecDepth 20000 in
theorem wit_TimeSyncPairingAndPresence_1 : ∃ s : State, (s.dev.acc ((0 : Fin 8))).tsAcked = some (1) := ⟨stOf (({({} : Dev) with sysOn := true}).accPut 0 { tsAcked := some 1 }), by decide +kernel⟩
set_option maxRecDepth 20000 in
theorem wit_TimeSyncPairingAndPresence_2 : ∃ s : State, (((2 : BitVec 4)).toNat ≠ 1 ∨ (((s.dev.takeRxBy ((0 : Fin 8)) vcMgmt 2 fun _ => true).sendFlit ((0 : Fin 8)) vcMgmt 3 (stampPay s.dev.gts ((2 : BitVec 4)).toNat)).acc ((0 : Fin 8))).tsSent ≠ 1) := ⟨stOf ({({} : Dev) with sysOn := true}), by decide +kernel⟩
set_option maxRecDepth 20000 in
theorem wit_TimeSyncPairingAndPresence_3 : ∃ s : State, (((s.dev.takeRxBy ((0 : Fin 8)) vcMgmt 2 fun _ => true).sendFlit ((0 : Fin 8)) vcMgmt 3 (stampPay s.dev.gts 1)).acc ((0 : Fin 8))).tsSent = 1 := ⟨stOf (({({} : Dev) with sysOn := true}).accPut 0 { tsSent := 1 }), by decide +kernel⟩
set_option maxRecDepth 20000 in
theorem wit_TimeSyncPairingAndPresence_4 : ∃ s : State, (s.dev.takeRxBy ((0 : Fin 8)) vcMgmt 0x0C fun p => pbits p 0 2 = 0).anyActive ((0 : Fin 8)) = true := ⟨stOf (({({} : Dev) with sysOn := true}).wr F.LNK_STATE_STATE 0 lsActive), by decide +kernel⟩
set_option maxRecDepth 20000 in
theorem wit_TimeSyncPairingAndPresence_5 : ∃ s : State, (s.dev.takeRxBy ((0 : Fin 8)) vcMgmt 0x0C fun p => pbits p 0 2 = 1).anyActive ((0 : Fin 8)) = true := ⟨stOf (({({} : Dev) with sysOn := true}).wr F.LNK_STATE_STATE 0 lsActive), by decide +kernel⟩
set_option maxRecDepth 20000 in
theorem wit_TimeSyncPairingAndPresence_6 : ∃ s : State, (s.dev.takeRxBy ((0 : Fin 8)) vcMgmt 0x0C fun p => pbits p 0 2 = 2).anyActive ((0 : Fin 8)) = true := ⟨stOf (({({} : Dev) with sysOn := true}).wr F.LNK_STATE_STATE 0 lsActive), by decide +kernel⟩
set_option maxRecDepth 20000 in
theorem wit_TimeSyncPairingAndPresence_7 : ∃ s : State, (s.dev.acc ((0 : Fin 8))).pairWait = some ((0), (2)) ∧ (0) + 1000000 ≤ s.dev.gts ∧ (2) < 3 := ⟨stOf (({ {({} : Dev) with sysOn := true} with gts := 1000000 }).accPut 0 { pairWait := some (0, 2) }), by decide +kernel⟩
set_option maxRecDepth 20000 in
theorem wit_TimeSyncPairingAndPresence_8 : ∃ s : State, (s.dev.acc ((0 : Fin 8))).pairWait = some ((0), (3)) ∧ (0) + 1000000 ≤ s.dev.gts ∧ 3 ≤ (3) := ⟨stOf (({ {({} : Dev) with sysOn := true} with gts := 1000000 }).accPut 0 { pairWait := some (0, 3) }), by decide +kernel⟩
set_option maxRecDepth 20000 in
theorem wit_TimeSyncPairingAndPresence_11 : ∃ s : State, s.dev.is F.VL_ACC_CTRL_FORCE_SIDEBAND ((0 : Fin 8)) = false := ⟨stOf ({({} : Dev) with sysOn := true}), by decide +kernel⟩
set_option maxRecDepth 20000 in
theorem wit_TimeSyncPairingAndPresence_12 : ∃ s : State, s.dev.is F.VL_ACC_CTRL_FORCE_SIDEBAND ((0 : Fin 8)) = true := ⟨stOf (({({} : Dev) with sysOn := true}).wr F.VL_ACC_CTRL_FORCE_SIDEBAND 0 1), by decide +kernel⟩
set_option maxRecDepth 20000 in
theorem wit_TimeSyncPairingAndPresence_13 : ∃ s : State, (s.dev.acc ((0 : Fin 8))).present = false := ⟨stOf ({({} : Dev) with sysOn := true}), by decide +kernel⟩
set_option maxRecDepth 20000 in
theorem wit_TimeSyncPairingAndPresence_14 : ∃ s : State, (s.dev.acc ((0 : Fin 8))).present = true := ⟨stOf (({({} : Dev) with sysOn := true}).accPut 0 { present := true }), by decide +kernel⟩

set_option maxRecDepth 20000 in
theorem wit_TwoWireDescriptors_0 : ∃ s : State, (({ core := 1, tag := 0, addr := 0x20, cmd := 0, wlen := 0, rlen := 0, pec := false, rsvd := false, buf := [] } : TwDesc)).addr ≠ 0x0C ∧ (({ core := 1, tag := 0, addr := 0x20, cmd := 0, wlen := 0, rlen := 0, pec := false, rsvd := false, buf := [] } : TwDesc)).rsvd = false ∧ (s.dev.segGet ((1 : Fin 12))).mode = .normal ∧ (s.dev.segGet ((1 : Fin 12))).queue.length < 16 := ⟨stOf ({({} : Dev) with sysOn := true}), by decide +kernel⟩
set_option maxRecDepth 20000 in
theorem wit_TwoWireDescriptors_1 : ∃ s : State, (({ core := 1, tag := 0, addr := 0x20, cmd := 0, wlen := 0, rlen := 0, pec := false, rsvd := false, buf := [] } : TwDesc)).addr ≠ 0x0C ∧ (({ core := 1, tag := 0, addr := 0x20, cmd := 0, wlen := 0, rlen := 0, pec := false, rsvd := false, buf := [] } : TwDesc)).rsvd = false ∧ (s.dev.segGet ((1 : Fin 12))).mode = .normal ∧ (s.dev.segGet ((1 : Fin 12))).queue.length < 16 := ⟨stOf ({({} : Dev) with sysOn := true}), by decide +kernel⟩
set_option maxRecDepth 20000 in
theorem wit_TwoWireDescriptors_2 : ∃ s : State, (({ core := 1, tag := 0, addr := 0x20, cmd := 0, wlen := 0, rlen := 0, pec := false, rsvd := false, buf := [] } : TwDesc)).addr ≠ 0x0C ∧ (({ core := 1, tag := 0, addr := 0x20, cmd := 0, wlen := 0, rlen := 0, pec := false, rsvd := false, buf := [] } : TwDesc)).rsvd = false ∧ (s.dev.segGet ((1 : Fin 12))).mode = .normal ∧ (s.dev.segGet ((1 : Fin 12))).queue.length < 16 := ⟨stOf ({({} : Dev) with sysOn := true}), by decide +kernel⟩
set_option maxRecDepth 20000 in
theorem wit_TwoWireDescriptors_3 : ∃ s : State, (({ core := 1, tag := 0, addr := 0x20, cmd := 0, wlen := 0, rlen := 0, pec := false, rsvd := false, buf := [] } : TwDesc)).addr ≠ 0x0C ∧ (({ core := 1, tag := 0, addr := 0x20, cmd := 0, wlen := 0, rlen := 0, pec := false, rsvd := false, buf := [] } : TwDesc)).rsvd = false ∧ (s.dev.segGet ((1 : Fin 12))).mode = .normal ∧ (s.dev.segGet ((1 : Fin 12))).queue.length < 16 := ⟨stOf ({({} : Dev) with sysOn := true}), by decide +kernel⟩
set_option maxRecDepth 20000 in
theorem wit_TwoWireDescriptors_4 : ∃ s : State, (({ core := 1, tag := 0, addr := 0x20, cmd := 0, wlen := 0, rlen := 0, pec := false, rsvd := false, buf := [] } : TwDesc)).addr ≠ 0x0C ∧ (({ core := 1, tag := 0, addr := 0x20, cmd := 0, wlen := 0, rlen := 0, pec := false, rsvd := false, buf := [] } : TwDesc)).rsvd = false ∧ (s.dev.segGet ((1 : Fin 12))).mode = .normal ∧ (s.dev.segGet ((1 : Fin 12))).queue.length < 16 := ⟨stOf ({({} : Dev) with sysOn := true}), by decide +kernel⟩
set_option maxRecDepth 20000 in
theorem wit_TwoWireDescriptors_5 : ∃ s : State, (({ core := 1, tag := 0, addr := 0x20, cmd := 0, wlen := 0, rlen := 0, pec := false, rsvd := false, buf := [] } : TwDesc)).addr ≠ 0x0C ∧ (({ core := 1, tag := 0, addr := 0x20, cmd := 0, wlen := 0, rlen := 0, pec := false, rsvd := false, buf := [] } : TwDesc)).rsvd = false ∧ (s.dev.segGet ((1 : Fin 12))).mode = .normal ∧ (s.dev.segGet ((1 : Fin 12))).queue.length < 16 := ⟨stOf ({({} : Dev) with sysOn := true}), by decide +kernel⟩
set_option maxRecDepth 20000 in
theorem wit_TwoWireDescriptors_6 : ∃ s : State, (({ core := 1, tag := 0, addr := 0x20, cmd := 0, wlen := 0, rlen := 0, pec := false, rsvd := false, buf := [] } : TwDesc)).addr ≠ 0x0C ∧ (({ core := 1, tag := 0, addr := 0x20, cmd := 0, wlen := 0, rlen := 0, pec := false, rsvd := false, buf := [] } : TwDesc)).rsvd = false ∧ (s.dev.segGet ((1 : Fin 12))).mode = .normal ∧ (s.dev.segGet ((1 : Fin 12))).queue.length < 16 := ⟨stOf ({({} : Dev) with sysOn := true}), by decide +kernel⟩
set_option maxRecDepth 20000 in
theorem wit_TwoWireDescriptors_7 : ∃ s : State, (({ core := 1, tag := 0, addr := 0x20, cmd := 0, wlen := 0, rlen := 0, pec := false, rsvd := false, buf := [] } : TwDesc)).addr ≠ 0x0C ∧ (({ core := 1, tag := 0, addr := 0x20, cmd := 0, wlen := 0, rlen := 0, pec := false, rsvd := false, buf := [] } : TwDesc)).rsvd = false ∧ (s.dev.segGet ((1 : Fin 12))).mode = .normal ∧ (s.dev.segGet ((1 : Fin 12))).queue.length < 16 := ⟨stOf ({({} : Dev) with sysOn := true}), by decide +kernel⟩
set_option maxRecDepth 20000 in
theorem wit_TwoWireDescriptors_8 : ∃ s : State, (({ core := 1, tag := 0, addr := 0x20, cmd := 0, wlen := 0, rlen := 0, pec := false, rsvd := false, buf := [] } : TwDesc)).addr ≠ 0x0C ∧ (({ core := 1, tag := 0, addr := 0x20, cmd := 0, wlen := 0, rlen := 0, pec := false, rsvd := false, buf := [] } : TwDesc)).rsvd = false ∧ (s.dev.segGet ((1 : Fin 12))).mode = .normal ∧ (s.dev.segGet ((1 : Fin 12))).queue.length < 16 := ⟨stOf ({({} : Dev) with sysOn := true}), by decide +kernel⟩
set_option maxRecDepth 20000 in
theorem wit_TwoWireDescriptors_9 : ∃ s : State, (({ core := 1, tag := 0, addr := 0x20, cmd := 0, wlen := 0, rlen := 0, pec := false, rsvd := false, buf := [] } : TwDesc)).addr ≠ 0x0C ∧ (({ core := 1, tag := 0, addr := 0x20, cmd := 0, wlen := 0, rlen := 0, pec := false, rsvd := false, buf := [] } : TwDesc)).rsvd = false ∧ (s.dev.segGet ((1 : Fin 12))).mode = .normal ∧ (s.dev.segGet ((1 : Fin 12))).queue.length < 16 := ⟨stOf ({({} : Dev) with sysOn := true}), by decide +kernel⟩
set_option maxRecDepth 20000 in
theorem wit_TwoWireDescriptors_10 : ∃ s : State, (({ core := 1, tag := 0, addr := 0x20, cmd := 0, wlen := 0, rlen := 0, pec := false, rsvd := false, buf := [] } : TwDesc)).addr ≠ 0x0C ∧ (({ core := 1, tag := 0, addr := 0x20, cmd := 0, wlen := 0, rlen := 0, pec := false, rsvd := false, buf := [] } : TwDesc)).rsvd = false ∧ (s.dev.segGet ((1 : Fin 12))).mode = .normal ∧ (s.dev.segGet ((1 : Fin 12))).queue.length < 16 := ⟨stOf ({({} : Dev) with sysOn := true}), by decide +kernel⟩
set_option maxRecDepth 20000 in
theorem wit_TwoWireDescriptors_11 : ∃ s : State, (({ core := 1, tag := 0, addr := 0x20, cmd := 0, wlen := 0, rlen := 0, pec := false, rsvd := false, buf := [] } : TwDesc)).addr ≠ 0x0C ∧ (({ core := 1, tag := 0, addr := 0x20, cmd := 0, wlen := 0, rlen := 0, pec := false, rsvd := false, buf := [] } : TwDesc)).rsvd = false ∧ (s.dev.segGet ((1 : Fin 12))).mode = .normal ∧ (s.dev.segGet ((1 : Fin 12))).queue.length < 16 := ⟨stOf ({({} : Dev) with sysOn := true}), by decide +kernel⟩
set_option maxRecDepth 20000 in
theorem wit_TwoWireDescriptors_12 : ∃ s : State, ((({ core := 1, tag := 0, addr := 0x20, cmd := 0, wlen := 0, rlen := 0, pec := false, rsvd := true, buf := [] } : TwDesc)).addr = 0x0C ∨ (({ core := 1, tag := 0, addr := 0x20, cmd := 0, wlen := 0, rlen := 0, pec := false, rsvd := true, buf := [] } : TwDesc)).rsvd = true) := ⟨stOf ({({} : Dev) with sysOn := true}), by decide +kernel⟩
set_option maxRecDepth 20000 in
theorem wit_TwoWireDescriptors_13 : ∃ s : State, (({ core := 1, tag := 0, addr := 0x20, cmd := 0, wlen := 0, rlen := 0, pec := false, rsvd := false, buf := [] } : TwDesc)).addr ≠ 0x0C ∧ (({ core := 1, tag := 0, addr := 0x20, cmd := 0, wlen := 0, rlen := 0, pec := false, rsvd := false, buf := [] } : TwDesc)).rsvd = false ∧ (s.dev.segGet ((1 : Fin 12))).mode ≠ .normal := ⟨stOf (({({} : Dev) with sysOn := true}).segPut 1 { mode := .outOfService }), by decide +kernel⟩
set_option maxRecDepth 20000 in
theorem wit_TwoWireDescriptors_14 : ∃ s : State, (({ core := 1, tag := 0, addr := 0x20, cmd := 0, wlen := 0, rlen := 0, pec := false, rsvd := false, buf := [] } : TwDesc)).addr ≠ 0x0C ∧ (({ core := 1, tag := 0, addr := 0x20, cmd := 0, wlen := 0, rlen := 0, pec := false, rsvd := false, buf := [] } : TwDesc)).rsvd = false ∧ (s.dev.segGet ((1 : Fin 12))).mode = .normal ∧ 16 ≤ (s.dev.segGet ((1 : Fin 12))).queue.length := ⟨stOf (({({} : Dev) with sysOn := true}).segPut 1 { queue := (List.range 16).map fun _ => { ty := 0, t := ({ core := 1, tag := 0, addr := 0x20, cmd := 0, wlen := 0, rlen := 0, pec := false, rsvd := false, buf := [] } : TwDesc), r := .hang, tries := 0 } }), by decide +kernel⟩

set_option maxRecDepth 20000 in
theorem wit_TwoWireBusEventsAndAvs_0 : ∃ s : State, (s.dev.segGet ((1 : Fin 12))).running = some (({ ty := 0, t := ({ core := 1, tag := 0, addr := 0x20, cmd := 0, wlen := 0, rlen := 0, pec := false, rsvd := false, buf := [] } : TwDesc), r := .hang, tries := 0 } : TwJob)) := ⟨stOf (({({} : Dev) with sysOn := true}).segPut 1 { running := some ({ ty := 0, t := ({ core := 1, tag := 0, addr := 0x20, cmd := 0, wlen := 0, rlen := 0, pec := false, rsvd := false, buf := [] } : TwDesc), r := .hang, tries := 0 } : TwJob) }), by decide +kernel⟩
set_option maxRecDepth 20000 in
theorem wit_TwoWireBusEventsAndAvs_1 : ∃ s : State, (s.dev.segGet ((1 : Fin 12))).running = some (({ ty := 0, t := ({ core := 1, tag := 0, addr := 0x20, cmd := 0, wlen := 0, rlen := 0, pec := false, rsvd := false, buf := [] } : TwDesc), r := .hang, tries := 0 } : TwJob)) ∧ ((1 : Fin 12)).val ≠ 0 := ⟨stOf (({({} : Dev) with sysOn := true}).segPut 1 { running := some ({ ty := 0, t := ({ core := 1, tag := 0, addr := 0x20, cmd := 0, wlen := 0, rlen := 0, pec := false, rsvd := false, buf := [] } : TwDesc), r := .hang, tries := 0 } : TwJob) }), by decide +kernel⟩
set_option maxRecDepth 20000 in
theorem wit_TwoWireBusEventsAndAvs_2 : ∃ s : State, (s.dev.segGet 0).running = some (({ ty := 0, t := ({ core := 1, tag := 0, addr := 0x20, cmd := 0, wlen := 0, rlen := 0, pec := false, rsvd := false, buf := [] } : TwDesc), r := .hang, tries := 0 } : TwJob)) := ⟨stOf (({({} : Dev) with sysOn := true}).segPut 0 { running := some ({ ty := 0, t := ({ core := 1, tag := 0, addr := 0x20, cmd := 0, wlen := 0, rlen := 0, pec := false, rsvd := false, buf := [] } : TwDesc), r := .hang, tries := 0 } : TwJob) }), by decide +kernel⟩
set_option maxRecDepth 20000 in
theorem wit_TwoWireBusEventsAndAvs_3 : ∃ s : State, (s.dev.segGet ((0 : Fin 12))).running = some (({ ty := 0, t := ({ core := 1, tag := 0, addr := 0x20, cmd := 0, wlen := 0, rlen := 0, pec := false, rsvd := false, buf := [] } : TwDesc), r := .hang, tries := 0 } : TwJob)) ∧ (s.dev.segGet ((0 : Fin 12))).lost = true ∧ (({ ty := 0, t := ({ core := 1, tag := 0, addr := 0x20, cmd := 0, wlen := 0, rlen := 0, pec := false, rsvd := false, buf := [] } : TwDesc), r := .hang, tries := 0 } : TwJob)).tries < s.dev.rd F.TW_SEG_CFG_ARB_RETRIES ((0 : Fin 12)) := ⟨stOf ((({({} : Dev) with sysOn := true}).segPut 0 { running := some ({ ty := 0, t := ({ core := 1, tag := 0, addr := 0x20, cmd := 0, wlen := 0, rlen := 0, pec := false, rsvd := false, buf := [] } : TwDesc), r := .hang, tries := 0 } : TwJob), lost := true }).wr F.TW_SEG_CFG_ARB_RETRIES 0 3), by decide +kernel⟩
set_option maxRecDepth 20000 in
theorem wit_TwoWireBusEventsAndAvs_4 : ∃ s : State, (s.dev.segGet ((0 : Fin 12))).running = some (({ ty := 0, t := ({ core := 1, tag := 0, addr := 0x20, cmd := 0, wlen := 0, rlen := 0, pec := false, rsvd := false, buf := [] } : TwDesc), r := .hang, tries := 0 } : TwJob)) ∧ (s.dev.segGet ((0 : Fin 12))).lost = true ∧ s.dev.rd F.TW_SEG_CFG_ARB_RETRIES ((0 : Fin 12)) ≤ (({ ty := 0, t := ({ core := 1, tag := 0, addr := 0x20, cmd := 0, wlen := 0, rlen := 0, pec := false, rsvd := false, buf := [] } : TwDesc), r := .hang, tries := 0 } : TwJob)).tries := ⟨stOf ((({({} : Dev) with sysOn := true}).segPut 0 { running := some ({ ty := 0, t := ({ core := 1, tag := 0, addr := 0x20, cmd := 0, wlen := 0, rlen := 0, pec := false, rsvd := false, buf := [] } : TwDesc), r := .hang, tries := 0 } : TwJob), lost := true }).wr F.TW_SEG_CFG_ARB_RETRIES 0 0), by decide +kernel⟩
set_option maxRecDepth 20000 in
theorem wit_TwoWireBusEventsAndAvs_5 : ∃ s : State, ((1 : Fin 20)).val < 12 ∧ (s.dev.segGet ((1 : Fin 20))).mode = .normal := ⟨stOf ({({} : Dev) with sysOn := true}), by decide +kernel⟩
set_option maxRecDepth 20000 in
theorem wit_TwoWireBusEventsAndAvs_6 : ∃ s : State, 12 ≤ ((12 : Fin 20)).val ∧ (bitsOf (s.dev.rd F.TW_ACC_ALERT_MAP) (4 * (((12 : Fin 20)).val - 12)) 4) < 12 ∧ (s.dev.segGet (bitsOf (s.dev.rd F.TW_ACC_ALERT_MAP) (4 * (((12 : Fin 20)).val - 12)) 4)).mode = .normal := ⟨stOf (({({} : Dev) with sysOn := true}).wr F.TW_ACC_ALERT_MAP 0 0), by decide +kernel⟩
set_option maxRecDepth 20000 in
theorem wit_TwoWireBusEventsAndAvs_7 : ∃ s : State, s.dev.segAlerting ((1 : Fin 12)) = true ∧ (s.dev.segGet ((1 : Fin 12))).running = none ∧ (s.dev.segGet ((1 : Fin 12))).mode = .normal := ⟨stOf (({({} : Dev) with sysOn := true}).wr F.TW_SEG_ALERT_ASSERTED 1 1), by decide +kernel⟩
set_option maxRecDepth 20000 in
theorem wit_TwoWireBusEventsAndAvs_8 : ∃ s : State, s.dev.segAlerting ((1 : Fin 12)) = true ∧ (s.dev.segGet ((1 : Fin 12))).running = none ∧ (s.dev.segGet ((1 : Fin 12))).mode = .normal := ⟨stOf (({({} : Dev) with sysOn := true}).wr F.TW_SEG_ALERT_ASSERTED 1 1), by decide +kernel⟩
set_option maxRecDepth 20000 in
theorem wit_TwoWireBusEventsAndAvs_9 : ∃ s : State, s.dev.is F.TW_SEG_ALERT_MASKED ((1 : Fin 12)) = true ∧ (s.dev.segGet ((1 : Fin 12))).maskTill ≤ s.dev.aont := ⟨stOf (({({} : Dev) with sysOn := true}).wr F.TW_SEG_ALERT_MASKED 1 1), by decide +kernel⟩
set_option maxRecDepth 20000 in
theorem wit_TwoWireBusEventsAndAvs_10 : ∃ s : State, (s.dev.segGet ((1 : Fin 12))).running = none ∧ (s.dev.segGet ((1 : Fin 12))).mode = .normal ∧ s.dev.is F.TW_SEG_CFG_EN ((1 : Fin 12)) = true := ⟨stOf (({({} : Dev) with sysOn := true}).wr F.TW_SEG_CFG_EN 1 1), by decide +kernel⟩
set_option maxRecDepth 20000 in
theorem wit_TwoWireBusEventsAndAvs_11 : ∃ s : State, (s.dev.segGet ((1 : Fin 12))).running = none ∧ (s.dev.segGet ((1 : Fin 12))).mode = .normal ∧ s.dev.is F.TW_SEG_CFG_EN ((1 : Fin 12)) = true := ⟨stOf (({({} : Dev) with sysOn := true}).wr F.TW_SEG_CFG_EN 1 1), by decide +kernel⟩
set_option maxRecDepth 20000 in
theorem wit_TwoWireBusEventsAndAvs_12 : ∃ s : State, (s.dev.segGet ((1 : Fin 12))).mode = .powerOff (0) ∧ (0) ≤ s.dev.aont := ⟨stOf (({({} : Dev) with sysOn := true}).segPut 1 { mode := .powerOff 0 }), by decide +kernel⟩
set_option maxRecDepth 20000 in
theorem wit_TwoWireBusEventsAndAvs_13 : ∃ s : State, (s.dev.segGet ((1 : Fin 12))).mode = .powerOn (0) ∧ (0) + 1000000 ≤ s.dev.aont := ⟨stOf ({ ({({} : Dev) with sysOn := true}).segPut 1 { mode := .powerOn 0 } with aont := 1000000 }), by decide +kernel⟩
set_option maxRecDepth 20000 in
theorem wit_TwoWireBusEventsAndAvs_14 : ∃ s : State, (s.dev.segGet ((1 : Fin 12))).mode = .powerOn (0) ∧ (0) + 1000000 ≤ s.dev.aont := ⟨stOf ({ ({({} : Dev) with sysOn := true}).segPut 1 { mode := .powerOn 0 } with aont := 1000000 }), by decide +kernel⟩
set_option maxRecDepth 20000 in
theorem wit_TwoWireBusEventsAndAvs_19 : ∃ s : State, (s.dev.avsGet ((0 : Fin 8))).cur = some ((AvsCmd.status), (0)) ∧ (s.dev.avsGet ((0 : Fin 8))).waitTill = some (0) ∧ (0) ≤ s.dev.gts := ⟨stOf (({({} : Dev) with sysOn := true}).avsPut 0 { cur := some (.status, 0), waitTill := some 0 }), by decide +kernel⟩
set_option maxRecDepth 20000 in
theorem wit_TwoWireBusEventsAndAvs_20 : ∃ s : State, (s.dev.avsGet ((0 : Fin 8))).cur = none ∧ s.dev.is F.TW_AVS_SEL_EN ((0 : Fin 8)) = true := ⟨stOf (({({} : Dev) with sysOn := true}).wr F.TW_AVS_SEL_EN 0 1), by decide +kernel⟩

set_option maxRecDepth 20000 in
theorem wit_SyncOperations_0 : ∃ s : State, (s.dev.syncTook ((8 : Fin 9)) opArrive (({ operand := 1, timeout := 0, tag := 1, ord := false, w := false, cond := 0, handle := 0 } : SyncReq))).syncAllowed ((8 : Fin 9)) (8) opArrive (({ operand := 1, timeout := 0, tag := 1, ord := false, w := false, cond := 0, handle := 0 } : SyncReq)) = true ∧ ((s.dev.syncTook ((8 : Fin 9)) opArrive (({ operand := 1, timeout := 0, tag := 1, ord := false, w := false, cond := 0, handle := 0 } : SyncReq))).syncEff (8) opArrive (({ operand := 1, timeout := 0, tag := 1, ord := false, w := false, cond := 0, handle := 0 } : SyncReq))).wait = none := ⟨stOf ((((({({} : Dev) with sysOn := true}).wr F.SOB_CTRL_EN 0 1).wr F.GRP_CTRL_STATE 0 1).objPut 0 { ty := tyBarrier, word1 := 2 })), by decide +kernel⟩
set_option maxRecDepth 20000 in
theorem wit_SyncOperations_1 : ∃ s : State, (s.dev.syncTook ((8 : Fin 9)) opWait (({ operand := 0, timeout := 0, tag := 1, ord := false, w := false, cond := 0, handle := 0 } : SyncReq))).syncAllowed ((8 : Fin 9)) (8) opWait (({ operand := 0, timeout := 0, tag := 1, ord := false, w := false, cond := 0, handle := 0 } : SyncReq)) = true ∧ ((s.dev.syncTook ((8 : Fin 9)) opWait (({ operand := 0, timeout := 0, tag := 1, ord := false, w := false, cond := 0, handle := 0 } : SyncReq))).syncEff (8) opWait (({ operand := 0, timeout := 0, tag := 1, ord := false, w := false, cond := 0, handle := 0 } : SyncReq))).wait = none := ⟨stOf ((((({({} : Dev) with sysOn := true}).wr F.SOB_CTRL_EN 0 1).wr F.GRP_CTRL_STATE 0 1).objPut 0 { ty := tyCounter })), by decide +kernel⟩
set_option maxRecDepth 20000 in
theorem wit_SyncOperations_2 : ∃ s : State, (s.dev.syncTook ((8 : Fin 9)) opAdd (({ operand := 5, timeout := 0, tag := 1, ord := false, w := false, cond := 0, handle := 0 } : SyncReq))).syncAllowed ((8 : Fin 9)) (8) opAdd (({ operand := 5, timeout := 0, tag := 1, ord := false, w := false, cond := 0, handle := 0 } : SyncReq)) = true ∧ ((s.dev.syncTook ((8 : Fin 9)) opAdd (({ operand := 5, timeout := 0, tag := 1, ord := false, w := false, cond := 0, handle := 0 } : SyncReq))).syncEff (8) opAdd (({ operand := 5, timeout := 0, tag := 1, ord := false, w := false, cond := 0, handle := 0 } : SyncReq))).wait = none := ⟨stOf ((((({({} : Dev) with sysOn := true}).wr F.SOB_CTRL_EN 0 1).wr F.GRP_CTRL_STATE 0 1).objPut 0 { ty := tyCounter })), by decide +kernel⟩
set_option maxRecDepth 20000 in
theorem wit_SyncOperations_3 : ∃ s : State, (s.dev.syncTook ((8 : Fin 9)) opFetchAdd (({ operand := 5, timeout := 0, tag := 1, ord := false, w := false, cond := 0, handle := 0 } : SyncReq))).syncAllowed ((8 : Fin 9)) (8) opFetchAdd (({ operand := 5, timeout := 0, tag := 1, ord := false, w := false, cond := 0, handle := 0 } : SyncReq)) = true ∧ ((s.dev.syncTook ((8 : Fin 9)) opFetchAdd (({ operand := 5, timeout := 0, tag := 1, ord := false, w := false, cond := 0, handle := 0 } : SyncReq))).syncEff (8) opFetchAdd (({ operand := 5, timeout := 0, tag := 1, ord := false, w := false, cond := 0, handle := 0 } : SyncReq))).wait = none := ⟨stOf ((((({({} : Dev) with sysOn := true}).wr F.SOB_CTRL_EN 0 1).wr F.GRP_CTRL_STATE 0 1).objPut 0 { ty := tyCounter })), by decide +kernel⟩
set_option maxRecDepth 20000 in
theorem wit_SyncOperations_4 : ∃ s : State, (s.dev.syncTook ((8 : Fin 9)) opCas (({ operand := 5, timeout := 0, tag := 1, ord := false, w := false, cond := 0, handle := 0 } : SyncReq))).syncAllowed ((8 : Fin 9)) (8) opCas (({ operand := 5, timeout := 0, tag := 1, ord := false, w := false, cond := 0, handle := 0 } : SyncReq)) = true ∧ ((s.dev.syncTook ((8 : Fin 9)) opCas (({ operand := 5, timeout := 0, tag := 1, ord := false, w := false, cond := 0, handle := 0 } : SyncReq))).syncEff (8) opCas (({ operand := 5, timeout := 0, tag := 1, ord := false, w := false, cond := 0, handle := 0 } : SyncReq))).wait = none := ⟨stOf ((((({({} : Dev) with sysOn := true}).wr F.SOB_CTRL_EN 0 1).wr F.GRP_CTRL_STATE 0 1).objPut 0 { ty := tyCounter })), by decide +kernel⟩
set_option maxRecDepth 20000 in
theorem wit_SyncOperations_5 : ∃ s : State, (s.dev.syncTook ((8 : Fin 9)) opSet (({ operand := 5, timeout := 0, tag := 1, ord := false, w := false, cond := 0, handle := 0 } : SyncReq))).syncAllowed ((8 : Fin 9)) (8) opSet (({ operand := 5, timeout := 0, tag := 1, ord := false, w := false, cond := 0, handle := 0 } : SyncReq)) = true ∧ ((s.dev.syncTook ((8 : Fin 9)) opSet (({ operand := 5, timeout := 0, tag := 1, ord := false, w := false, cond := 0, handle := 0 } : SyncReq))).syncEff (8) opSet (({ operand := 5, timeout := 0, tag := 1, ord := false, w := false, cond := 0, handle := 0 } : SyncReq))).wait = none := ⟨stOf ((((({({} : Dev) with sysOn := true}).wr F.SOB_CTRL_EN 0 1).wr F.GRP_CTRL_STATE 0 1).objPut 0 { ty := tyCounter })), by decide +kernel⟩
set_option maxRecDepth 20000 in
theorem wit_SyncOperations_6 : ∃ s : State, (s.dev.syncTook ((8 : Fin 9)) opReset (({ operand := 0, timeout := 0, tag := 1, ord := false, w := false, cond := 0, handle := 0 } : SyncReq))).syncAllowed ((8 : Fin 9)) (8) opReset (({ operand := 0, timeout := 0, tag := 1, ord := false, w := false, cond := 0, handle := 0 } : SyncReq)) = true ∧ ((s.dev.syncTook ((8 : Fin 9)) opReset (({ operand := 0, timeout := 0, tag := 1, ord := false, w := false, cond := 0, handle := 0 } : SyncReq))).syncEff (8) opReset (({ operand := 0, timeout := 0, tag := 1, ord := false, w := false, cond := 0, handle := 0 } : SyncReq))).wait = none := ⟨stOf ((((({({} : Dev) with sysOn := true}).wr F.SOB_CTRL_EN 0 1).wr F.GRP_CTRL_STATE 0 1).objPut 0 { ty := tyCounter })), by decide +kernel⟩
set_option maxRecDepth 20000 in
theorem wit_SyncOperations_7 : ∃ s : State, (s.dev.syncTook ((8 : Fin 9)) opWait (({ operand := 5, timeout := 100, tag := 1, ord := false, w := false, cond := 0, handle := 0 } : SyncReq))).syncAllowed ((8 : Fin 9)) (8) opWait (({ operand := 5, timeout := 100, tag := 1, ord := false, w := false, cond := 0, handle := 0 } : SyncReq)) = true ∧ ((s.dev.syncTook ((8 : Fin 9)) opWait (({ operand := 5, timeout := 100, tag := 1, ord := false, w := false, cond := 0, handle := 0 } : SyncReq))).syncEff (8) opWait (({ operand := 5, timeout := 100, tag := 1, ord := false, w := false, cond := 0, handle := 0 } : SyncReq))).wait = some (5) ∧ syncBound (({ operand := 5, timeout := 100, tag := 1, ord := false, w := false, cond := 0, handle := 0 } : SyncReq)).timeout.toNat ≠ 0 ∧ (s.dev.syncTook ((8 : Fin 9)) opWait (({ operand := 5, timeout := 100, tag := 1, ord := false, w := false, cond := 0, handle := 0 } : SyncReq))).waiterRoom ((8 : Fin 9)) (({ operand := 5, timeout := 100, tag := 1, ord := false, w := false, cond := 0, handle := 0 } : SyncReq)).handle.toNat = true := ⟨stOf ((((({({} : Dev) with sysOn := true}).wr F.SOB_CTRL_EN 0 1).wr F.GRP_CTRL_STATE 0 1).objPut 0 { ty := tyCounter })), by decide +kernel⟩
set_option maxRecDepth 20000 in
theorem wit_SyncOperations_8 : ∃ s : State, ((((8 : Fin 9)).val < 8 → (s.dev.syncTook ((8 : Fin 9)) (7 + ((0 : Fin 9)).val) (({ operand := 0, timeout := 0, tag := 1, ord := false, w := false, cond := 0, handle := 0 } : SyncReq))).paired ((8 : Fin 9)) = true)) ∧ (s.dev.syncTook ((8 : Fin 9)) (7 + ((0 : Fin 9)).val) (({ operand := 0, timeout := 0, tag := 1, ord := false, w := false, cond := 0, handle := 0 } : SyncReq))).is F.SOB_CTRL_EN = true ∧ (s.dev.syncTook ((8 : Fin 9)) (7 + ((0 : Fin 9)).val) (({ operand := 0, timeout := 0, tag := 1, ord := false, w := false, cond := 0, handle := 0 } : SyncReq))).rd F.SOB_SRC_OUTSTANDING ((8 : Fin 9)) < 24 := ⟨stOf ((((({({} : Dev) with sysOn := true}).wr F.SOB_CTRL_EN 0 1).wr F.GRP_CTRL_STATE 0 1).objPut 0 { ty := tyCounter })), by decide +kernel⟩
set_option maxRecDepth 20000 in
theorem wit_SyncOperations_10 : ∃ s : State, 2 ^ 31 ≤ ((0x80000000 : Word)).toNat ∧ s.dev.is F.SOB_HOP_STATUS_BUSY = false := ⟨stOf ({({} : Dev) with sysOn := true}), by decide +kernel⟩
set_option maxRecDepth 20000 in
theorem wit_SyncOperations_11 : ∃ s : State, ((1 : Word)).toNat < 2 ^ 31 := ⟨stOf ({({} : Dev) with sysOn := true}), by decide +kernel⟩
set_option maxRecDepth 20000 in
theorem wit_SyncOperations_12 : ∃ s : State, 4 ≤ widthBytes (Width.w32) ∧ ((0 : BitVec 20)).toNat % widthBytes (Width.w32) = 0 ∧ ((0 : BitVec 20)).toNat % 16 = 0 := ⟨stOf ({({} : Dev) with sysOn := true}), by decide +kernel⟩
set_option maxRecDepth 20000 in
theorem wit_SyncOperations_13 : ∃ s : State, (widthBytes (Width.w8) < 4 ∨ ((0 : BitVec 20)).toNat % widthBytes (Width.w8) ≠ 0) := ⟨stOf ({({} : Dev) with sysOn := true}), by decide +kernel⟩
set_option maxRecDepth 20000 in
theorem wit_SyncOperations_17 : ∃ s : State, (Agent.host) ≠ .sch := ⟨stOf ({({} : Dev) with sysOn := true}), by decide +kernel⟩

set_option maxRecDepth 20000 in
theorem wit_BoardCommands_0 : ∃ s : State, (s.dev.takeRx (((0 : Fin 24)).val / 3) vcRed 0 ((0x200000000 : Payload))).headerTaken ((0 : Fin 24)) (({ ctx := (pbits ((0x200000000 : Payload)) 51 8), inst := (pbits ((0x200000000 : Payload)) 0 16), member := (pbits ((0x200000000 : Payload)) 16 4), off := (pbits ((0x200000000 : Payload)) 20 12), nfl := (pbits ((0x200000000 : Payload)) 32 13) } : Train)) = true := ⟨stOf (((((((((({({} : Dev) with sysOn := true}).wr F.VL_ACC_STATUS_PAIR 0 1).wr F.BRD_CTRL_EN 0 1).wr F.GRP_CTRL_STATE 0 1).wrw (F.GRP_MAP_MEMBER.addr 0) 0xFFFFFF10).wr F.BRD_CTX_CFG_VALID 0 1).wr F.BRD_CTX_CFG_TYPE 0 3).wr F.BRD_CTX_LEN_N 0 64).wr F.BRD_CTX_MEMBERS_CONTRIB 0 3).wr F.BRD_CTX_MEMBERS_RECV 0 3), by decide +kernel⟩
set_option maxRecDepth 20000 in
theorem wit_BoardCommands_1 : ∃ s : State, (s.dev.takeRx (((0 : Fin 24)).val / 3) vcRed 0 ((0 : Payload))).train ((s.dev.takeRx (((0 : Fin 24)).val / 3) vcRed 0 ((0 : Payload))).trainLink ((0 : Fin 24))) = some (({ ctx := 0, inst := 0, member := 0, off := 0, nfl := 2 } : Train)) ∧ (({ ctx := 0, inst := 0, member := 0, off := 0, nfl := 2 } : Train)).refused = false ∧ (({ ctx := 0, inst := 0, member := 0, off := 0, nfl := 2 } : Train)).got + 1 ≠ (({ ctx := 0, inst := 0, member := 0, off := 0, nfl := 2 } : Train)).nfl := ⟨stOf ((((((((((({({} : Dev) with sysOn := true}).wr F.VL_ACC_STATUS_PAIR 0 1).wr F.BRD_CTRL_EN 0 1).wr F.GRP_CTRL_STATE 0 1).wrw (F.GRP_MAP_MEMBER.addr 0) 0xFFFFFF10).wr F.BRD_CTX_CFG_VALID 0 1).wr F.BRD_CTX_CFG_TYPE 0 3).wr F.BRD_CTX_LEN_N 0 64).wr F.BRD_CTX_MEMBERS_CONTRIB 0 3).wr F.BRD_CTX_MEMBERS_RECV 0 3).trainPut 0 (some ({ ctx := 0, inst := 0, member := 0, off := 0, nfl := 2 } : Train))), by decide +kernel⟩
set_option maxRecDepth 20000 in
theorem wit_BoardCommands_2 : ∃ s : State, (s.dev.takeRx (((0 : Fin 24)).val / 3) vcRed 0 ((0 : Payload))).train ((s.dev.takeRx (((0 : Fin 24)).val / 3) vcRed 0 ((0 : Payload))).trainLink ((0 : Fin 24))) = none := ⟨stOf (((((((((({({} : Dev) with sysOn := true}).wr F.VL_ACC_STATUS_PAIR 0 1).wr F.BRD_CTRL_EN 0 1).wr F.GRP_CTRL_STATE 0 1).wrw (F.GRP_MAP_MEMBER.addr 0) 0xFFFFFF10).wr F.BRD_CTX_CFG_VALID 0 1).wr F.BRD_CTX_CFG_TYPE 0 3).wr F.BRD_CTX_LEN_N 0 64).wr F.BRD_CTX_MEMBERS_CONTRIB 0 3).wr F.BRD_CTX_MEMBERS_RECV 0 3), by decide +kernel⟩
set_option maxRecDepth 20000 in
theorem wit_BoardCommands_3 : ∃ s : State, (s.dev.takeRx (((0 : Fin 24)).val / 3) vcRed 1 ((0 : Payload))).train ((s.dev.takeRx (((0 : Fin 24)).val / 3) vcRed 1 ((0 : Payload))).trainLink ((0 : Fin 24))) = some (({ ctx := 0, inst := 0, member := 0, off := 0, nfl := 1 } : Train)) ∧ (({ ctx := 0, inst := 0, member := 0, off := 0, nfl := 1 } : Train)).refused = false ∧ (({ ctx := 0, inst := 0, member := 0, off := 0, nfl := 1 } : Train)).got + 1 = (({ ctx := 0, inst := 0, member := 0, off := 0, nfl := 1 } : Train)).nfl := ⟨stOf ((((((((((({({} : Dev) with sysOn := true}).wr F.VL_ACC_STATUS_PAIR 0 1).wr F.BRD_CTRL_EN 0 1).wr F.GRP_CTRL_STATE 0 1).wrw (F.GRP_MAP_MEMBER.addr 0) 0xFFFFFF10).wr F.BRD_CTX_CFG_VALID 0 1).wr F.BRD_CTX_CFG_TYPE 0 3).wr F.BRD_CTX_LEN_N 0 64).wr F.BRD_CTX_MEMBERS_CONTRIB 0 3).wr F.BRD_CTX_MEMBERS_RECV 0 3).trainPut 0 (some ({ ctx := 0, inst := 0, member := 0, off := 0, nfl := 1 } : Train))), by decide +kernel⟩
set_option maxRecDepth 20000 in
theorem wit_BoardCommands_4 : ∃ s : State, (s.dev.bctx ((0 : Byte)).toNat).cur.complete.isSome = true ∧ (s.dev.bctx ((0 : Byte)).toNat).cur.reduced = false := ⟨stOf ((((((((((({({} : Dev) with sysOn := true}).wr F.VL_ACC_STATUS_PAIR 0 1).wr F.BRD_CTRL_EN 0 1).wr F.GRP_CTRL_STATE 0 1).wrw (F.GRP_MAP_MEMBER.addr 0) 0xFFFFFF10).wr F.BRD_CTX_CFG_VALID 0 1).wr F.BRD_CTX_CFG_TYPE 0 3).wr F.BRD_CTX_LEN_N 0 64).wr F.BRD_CTX_MEMBERS_CONTRIB 0 3).wr F.BRD_CTX_MEMBERS_RECV 0 3).bctxPut 0 { cur := { complete := some 0 } }), by decide +kernel⟩
set_option maxRecDepth 20000 in
theorem wit_BoardCommands_5 : ∃ s : State, (s.dev.bctx ((0 : Byte)).toNat).cur.reduced = true ∧ (s.dev.bctx ((0 : Byte)).toNat).next.complete.isSome = true ∧ (s.dev.bctx ((0 : Byte)).toNat).next.reduced = false := ⟨stOf ((((((((((({({} : Dev) with sysOn := true}).wr F.VL_ACC_STATUS_PAIR 0 1).wr F.BRD_CTRL_EN 0 1).wr F.GRP_CTRL_STATE 0 1).wrw (F.GRP_MAP_MEMBER.addr 0) 0xFFFFFF10).wr F.BRD_CTX_CFG_VALID 0 1).wr F.BRD_CTX_CFG_TYPE 0 3).wr F.BRD_CTX_LEN_N 0 64).wr F.BRD_CTX_MEMBERS_CONTRIB 0 3).wr F.BRD_CTX_MEMBERS_RECV 0 3).bctxPut 0 { cur := { complete := some 0, reduced := true }, next := { complete := some 0 } }), by decide +kernel⟩
set_option maxRecDepth 20000 in
theorem wit_BoardCommands_6 : ∃ s : State, (s.dev.bctx ((0 : Byte)).toNat).cur.reduced = true ∧ (accs8.any fun a => s.dev.tagOut a (((0 : Byte)).toNat * 65536 + s.dev.ctxInst ((0 : Byte)).toNat + 1)) = false := ⟨stOf ((((((((((({({} : Dev) with sysOn := true}).wr F.VL_ACC_STATUS_PAIR 0 1).wr F.BRD_CTRL_EN 0 1).wr F.GRP_CTRL_STATE 0 1).wrw (F.GRP_MAP_MEMBER.addr 0) 0xFFFFFF10).wr F.BRD_CTX_CFG_VALID 0 1).wr F.BRD_CTX_CFG_TYPE 0 3).wr F.BRD_CTX_LEN_N 0 64).wr F.BRD_CTX_MEMBERS_CONTRIB 0 3).wr F.BRD_CTX_MEMBERS_RECV 0 3).bctxPut 0 { cur := { complete := some 0, reduced := true } }), by decide +kernel⟩
set_option maxRecDepth 20000 in
theorem wit_BoardCommands_7 : ∃ s : State, (s.dev.takeRx ((0 : Fin 8)) vcRed 4 ((0 : Payload))).ctxValid (pbits ((0 : Payload)) 51 8) = true ∧ (s.dev.takeRx ((0 : Fin 8)) vcRed 4 ((0 : Payload))).instCheck (pbits ((0 : Payload)) 51 8) (pbits ((0 : Payload)) 0 16) = 0 ∧ ((s.dev.takeRx ((0 : Fin 8)) vcRed 4 ((0 : Payload))).binst (pbits ((0 : Payload)) 51 8) (pbits ((0 : Payload)) 0 16)).complete = none ∧ (s.dev.takeRx ((0 : Fin 8)) vcRed 4 ((0 : Payload))).memberOf ((0 : Fin 8)) ((s.dev.takeRx ((0 : Fin 8)) vcRed 4 ((0 : Payload))).ctxDef (pbits ((0 : Payload)) 51 8)).group = some (pbits ((0 : Payload)) 16 4) ∧ (bitOf ((s.dev.takeRx ((0 : Fin 8)) vcRed 4 ((0 : Payload))).ctxDef (pbits ((0 : Payload)) 51 8)).contrib (pbits ((0 : Payload)) 16 4) || bitOf ((s.dev.takeRx ((0 : Fin 8)) vcRed 4 ((0 : Payload))).ctxDef (pbits ((0 : Payload)) 51 8)).recv (pbits ((0 : Payload)) 16 4)) = true := ⟨stOf (((((((((({({} : Dev) with sysOn := true}).wr F.VL_ACC_STATUS_PAIR 0 1).wr F.BRD_CTRL_EN 0 1).wr F.GRP_CTRL_STATE 0 1).wrw (F.GRP_MAP_MEMBER.addr 0) 0xFFFFFF10).wr F.BRD_CTX_CFG_VALID 0 1).wr F.BRD_CTX_CFG_TYPE 0 3).wr F.BRD_CTX_LEN_N 0 64).wr F.BRD_CTX_MEMBERS_CONTRIB 0 3).wr F.BRD_CTX_MEMBERS_RECV 0 3), by decide +kernel⟩
set_option maxRecDepth 20000 in
theorem wit_BoardCommands_9 : ∃ s : State, (Agent.sch) ≠ .host ∧ (s.dev.wrw (F.BRD_ICONTRIB_CTX.addr 0) (((0 : Word)).toNat % 2 ^ 24)).is F.BRD_CTRL_EN = true ∧ (s.dev.wrw (F.BRD_ICONTRIB_CTX.addr 0) (((0 : Word)).toNat % 2 ^ 24)).ctxValid (((0 : Word)).toNat / 65536 % 256) = true ∧ bitOf ((s.dev.wrw (F.BRD_ICONTRIB_CTX.addr 0) (((0 : Word)).toNat % 2 ^ 24)).ctxDef (((0 : Word)).toNat / 65536 % 256)).contrib 8 = true ∧ (s.dev.wrw (F.BRD_ICONTRIB_CTX.addr 0) (((0 : Word)).toNat % 2 ^ 24)).instCheck (((0 : Word)).toNat / 65536 % 256) (((0 : Word)).toNat % 65536) = 0 ∧ bitOf ((s.dev.wrw (F.BRD_ICONTRIB_CTX.addr 0) (((0 : Word)).toNat % 2 ^ 24)).binst (((0 : Word)).toNat / 65536 % 256) (((0 : Word)).toNat % 65536)).done 8 = false := ⟨stOf ((((((((((({({} : Dev) with sysOn := true}).wr F.VL_ACC_STATUS_PAIR 0 1).wr F.BRD_CTRL_EN 0 1).wr F.GRP_CTRL_STATE 0 1).wrw (F.GRP_MAP_MEMBER.addr 0) 0xFFFFFF10).wr F.BRD_CTX_CFG_VALID 0 1).wr F.BRD_CTX_CFG_TYPE 0 3).wr F.BRD_CTX_LEN_N 0 64).wr F.BRD_CTX_MEMBERS_CONTRIB 0 3).wr F.BRD_CTX_MEMBERS_RECV 0 3).wr F.BRD_CTX_MEMBERS_CONTRIB 0 0x101), by decide +kernel⟩
set_option maxRecDepth 20000 in
theorem wit_BoardCommands_13 : ∃ s : State, (Agent.host) ≠ .sch := ⟨stOf ({({} : Dev) with sysOn := true}), by decide +kernel⟩

set_option maxRecDepth 20000 in
theorem wit_PowerSampleAndBudgetCommands_0 : ∃ s : State, s.dev.sysOn = true := ⟨stOf ({({} : Dev) with sysOn := true}), by decide +kernel⟩
set_option maxRecDepth 20000 in
theorem wit_PowerSampleAndBudgetCommands_1 : ∃ s : State, s.dev.sysOn = false := ⟨stOf ({}), by decide +kernel⟩
set_option maxRecDepth 20000 in
theorem wit_PowerSampleAndBudgetCommands_2 : ∃ s : State, s.dev.winDone = true := ⟨stOf ({ ({} : Dev) with sysOn := true, pwr.winN := 100, gts := 1000000 }), by decide +kernel⟩
set_option maxRecDepth 20000 in
theorem wit_PowerSampleAndBudgetCommands_3 : ∃ s : State, s.dev.is F.PWC_CTRL_ORO_EN = true := ⟨stOf (({({} : Dev) with sysOn := true}).wr F.PWC_CTRL_ORO_EN 0 1), by decide +kernel⟩
set_option maxRecDepth 20000 in
theorem wit_PowerSampleAndBudgetCommands_4 : ∃ s : State, s.dev.is F.PWC_CTRL_ORO_EN = false := ⟨stOf (({({} : Dev) with sysOn := true}).wr F.PWC_CTRL_ORO_EN 0 0), by decide +kernel⟩
set_option maxRecDepth 20000 in
theorem wit_PowerSampleAndBudgetCommands_5 : ∃ s : State, (s.dev.gr ((0 : Byte)).toNat).stagedAt = some (0) ∧ (0) + s.dev.capForce ≤ s.dev.gts := ⟨stOf ({ ({({} : Dev) with sysOn := true}).grPut 0 { stagedAt := some 0 } with gts := 2000000 }), by decide +kernel⟩
set_option maxRecDepth 20000 in
theorem wit_PowerSampleAndBudgetCommands_6 : ∃ s : State, s.dev.is F.PWC_CTRL_SEQ_EN = true ∧ s.dev.is F.PWC_ACC_PSTATE_DVFS_FAULT ((0 : Fin 8)) = false ∧ s.dev.ptabOk ((0 : Fin 8)) = true := ⟨stOf ((({({} : Dev) with sysOn := true}).wr F.PWC_CTRL_SEQ_EN 0 1).wr F.PWC_ACC_CFG_PTAB_VALID 0 1), by decide +kernel⟩
set_option maxRecDepth 20000 in
theorem wit_PowerSampleAndBudgetCommands_7 : ∃ s : State, pbits ((3 : Payload)) 8 8 ≠ 255 ∧ (((s.dev.takeRx ((0 : Fin 8)) vcPwr 1 ((3 : Payload))).wr F.PWC_ACC_PSTATE_CURRENT ((0 : Fin 8)) (pbits ((3 : Payload)) 0 5)).pw ((0 : Fin 8))).change = some (({ target := 3, raise := false, lim := true, phase := .sent 0 0 0 } : Change)) ∧ (({ target := 3, raise := false, lim := true, phase := .sent 0 0 0 } : Change)).phase = .sent (0) (0) (pbits ((3 : Payload)) 8 8) := ⟨stOf (({({} : Dev) with sysOn := true}).pwPut 0 { change := some { target := 3, raise := false, lim := true, phase := .sent 0 0 0 } }), by decide +kernel⟩
set_option maxRecDepth 20000 in
theorem wit_PowerSampleAndBudgetCommands_8 : ∃ s : State, (s.dev.pw ((0 : Fin 8))).change = some (({ target := 3, raise := false, lim := true, phase := .sent 0 0 7 } : Change)) ∧ (({ target := 3, raise := false, lim := true, phase := .sent 0 0 7 } : Change)).phase = .sent (0) (0) (7) ∧ (0) + 1000 * max 5 (s.dev.rd F.PWC_DVFS_CFG_ACK_TIMEOUT) ≤ s.dev.gts ∧ (0) < min 7 (s.dev.rd F.PWC_DVFS_CFG_RETRIES) := ⟨stOf ({ (({({} : Dev) with sysOn := true}).pwPut 0 { change := some { target := 3, raise := false, lim := true, phase := .sent 0 0 7 } }).wr F.PWC_DVFS_CFG_RETRIES 0 3 with gts := 100000000 }), by decide +kernel⟩
set_option maxRecDepth 20000 in
theorem wit_PowerSampleAndBudgetCommands_9 : ∃ s : State, (s.dev.pw ((0 : Fin 8))).change = some (({ target := 3, raise := false, lim := true, phase := .sent 0 7 7 } : Change)) ∧ (({ target := 3, raise := false, lim := true, phase := .sent 0 7 7 } : Change)).phase = .sent (0) (7) (7) ∧ (0) + 1000 * max 5 (s.dev.rd F.PWC_DVFS_CFG_ACK_TIMEOUT) ≤ s.dev.gts ∧ min 7 (s.dev.rd F.PWC_DVFS_CFG_RETRIES) ≤ (7) := ⟨stOf ({ (({({} : Dev) with sysOn := true}).pwPut 0 { change := some { target := 3, raise := false, lim := true, phase := .sent 0 7 7 } }) with gts := 100000000 }), by decide +kernel⟩
set_option maxRecDepth 20000 in
theorem wit_PowerSampleAndBudgetCommands_10 : ∃ s : State, (s.dev.pw ((0 : Fin 8))).change = some (({ target := 3, raise := true, lim := false, phase := .settle 0 } : Change)) ∧ (({ target := 3, raise := true, lim := false, phase := .settle 0 } : Change)).phase = .settle (0) ∧ (0) ≤ s.dev.gts := ⟨stOf (({({} : Dev) with sysOn := true}).pwPut 0 { change := some { target := 3, raise := true, lim := false, phase := .settle 0 } }), by decide +kernel⟩
set_option maxRecDepth 20000 in
theorem wit_PowerSampleAndBudgetCommands_12 : ∃ s : State, s.dev.locked = false ∧ s.dev.ptabMono ((0 : Fin 8)) = true := ⟨stOf ({({} : Dev) with sysOn := true}), by decide +kernel⟩
set_option maxRecDepth 20000 in
theorem wit_PowerSampleAndBudgetCommands_13 : ∃ s : State, s.dev.locked = false ∧ s.dev.ptabMono ((0 : Fin 8)) = false := ⟨stOf (({({} : Dev) with sysOn := true}).wrw 0x201108 5), by decide +kernel⟩
set_option maxRecDepth 20000 in
theorem wit_PowerSampleAndBudgetCommands_14 : ∃ s : State, s.dev.locked = true := ⟨stOf (({({} : Dev) with sysOn := true}).wr F.GLB_WRITE_LOCK_LOCKED 0 1), by decide +kernel⟩
set_option maxRecDepth 20000 in
theorem wit_PowerSampleAndBudgetCommands_16 : ∃ s : State, (s.dev.avsAnswer ((0 : Fin 8)) ((0 : BitVec 2)).toNat (true)).1 = .done (.volt (800)) := ⟨stOf (({({} : Dev) with sysOn := true}).avsPut 0 { cur := some (.volt 800, 0) }), by decide +kernel⟩
set_option maxRecDepth 20000 in
theorem wit_PowerSampleAndBudgetCommands_17 : ∃ s : State, (s.dev.avsAnswer ((0 : Fin 8)) ((3 : BitVec 2)).toNat (true)).1 = .failed (.volt (800)) := ⟨stOf (({({} : Dev) with sysOn := true}).avsPut 0 { cur := some (.volt 800, 0) }), by decide +kernel⟩
set_option maxRecDepth 20000 in
theorem wit_PowerSampleAndBudgetCommands_18 : ∃ s : State, (s.dev.avsAnswer ((0 : Fin 8)) ((0 : BitVec 2)).toNat (true)).1 = .done (.read (1)) := ⟨stOf (({({} : Dev) with sysOn := true}).avsPut 0 { cur := some (.read 1, 0) }), by decide +kernel⟩

set_option maxRecDepth 20000 in
theorem wit_DroopCheckShapingAndSideband_0 : ∃ s : State, (s.dev.pw ((0 : Fin 8))).droop = .clear (0) ∧ (0) ≤ s.dev.gts := ⟨stOf (({({} : Dev) with sysOn := true}).pwPut 0 { droop := .clear 0 }), by decide +kernel⟩
set_option maxRecDepth 20000 in
theorem wit_DroopCheckShapingAndSideband_1 : ∃ s : State, (s.dev.pw ((0 : Fin 8))).droop = .hold (0) ∧ (0) ≤ s.dev.gts ∧ s.dev.coreUp 1 = true := ⟨stOf ((({({} : Dev) with sysOn := true}).pwPut 0 { droop := .hold 0 }).coreMod 1 fun x => { x with up := true }), by decide +kernel⟩
set_option maxRecDepth 20000 in
theorem wit_DroopCheckShapingAndSideband_4 : ∃ s : State, s.dev.locked = false := ⟨stOf ({({} : Dev) with sysOn := true}), by decide +kernel⟩
set_option maxRecDepth 20000 in
theorem wit_DroopCheckShapingAndSideband_5 : ∃ s : State, s.dev.locked = true := ⟨stOf (({({} : Dev) with sysOn := true}).wr F.GLB_WRITE_LOCK_LOCKED 0 1), by decide +kernel⟩
set_option maxRecDepth 20000 in
theorem wit_DroopCheckShapingAndSideband_7 : ∃ s : State, ((0 : Fin 24)).val < 16 ∧ s.dev.is F.PWC_CHECK_CFG_AUTO_VRALERT = true ∧ s.dev.trigIn ((0 : Fin 24)).val = false ∧ tget (fun _ => 0) s.dev.pwr.inactSince ((0 : Fin 24)).val + 1000 * s.dev.rd F.PWC_CHECK_CFG_AUTO_HOLD ≤ s.dev.aont := ⟨stOf ({ ({({} : Dev) with sysOn := true}).wr F.PWC_CHECK_CFG_AUTO_VRALERT 0 1 with aont := 1000000000 }), by decide +kernel⟩
set_option maxRecDepth 20000 in
theorem wit_DroopCheckShapingAndSideband_8 : ∃ s : State, 16 ≤ ((16 : Fin 24)).val ∧ s.dev.is F.PWC_CHECK_CFG_AUTO_OC = true ∧ s.dev.trigIn ((16 : Fin 24)).val = false ∧ tget (fun _ => 0) s.dev.pwr.inactSince ((16 : Fin 24)).val + 1000 * s.dev.rd F.PWC_CHECK_CFG_AUTO_HOLD ≤ s.dev.aont := ⟨stOf ({ ({({} : Dev) with sysOn := true}).wr F.PWC_CHECK_CFG_AUTO_OC 0 1 with aont := 1000000000 }), by decide +kernel⟩
set_option maxRecDepth 20000 in
theorem wit_DroopCheckShapingAndSideband_10 : ∃ s : State, s.dev.predict (((0 : Byte)).toNat) = some ((5), (1)) ∧ s.dev.shapes (((0 : Byte)).toNat) = true ∧ (s.dev.gr (((0 : Byte)).toNat)).down ≠ [] ∧ (s.dev.gr (((0 : Byte)).toNat)).rampEnd = none ∧ (1) ≤ s.dev.gts + 100 * (s.dev.rampOf ((((s.dev.gr (((0 : Byte)).toNat)).down.filterMap (s.dev.memberAcc (((0 : Byte)).toNat))).map fun a => s.dev.fillMa a (s.dev.rd F.PWC_SHAPE_CFG_K_ARR - s.dev.rd F.PWC_SHAPE_CFG_FLOOR)).foldl (· + ·) 0)) + 1000 * s.dev.rd F.PWC_SHAPE_CFG_PRE_MARGIN := ⟨stOf (((((({({} : Dev) with sysOn := true}).wr F.PWC_CTRL_SHAPE_EN 0 1).wr F.GRP_CTRL_STATE 0 1).wr F.ARB_GRP_CFG_PACE 0 1).coreMod 1 fun x => { x with up := true }).grPut 0 { down := [0], opened := some (5, 0), hist := [(5, { i := some { num := 1, sh := 0 } , next := some 5 })] }), by decide +kernel⟩
set_option maxRecDepth 20000 in
theorem wit_DroopCheckShapingAndSideband_11 : ∃ s : State, s.dev.predict ((0 : Byte)).toNat = some ((5), (1)) ∧ s.dev.shapes ((0 : Byte)).toNat = true ∧ (1) ≤ s.dev.gts + 10000 * s.dev.rd F.PWC_GB_CFG_LEAD := ⟨stOf ({ ((((({({} : Dev) with sysOn := true}).wr F.PWC_CTRL_SHAPE_EN 0 1).wr F.GRP_CTRL_STATE 0 1).wr F.ARB_GRP_CFG_PACE 0 1).coreMod 1 fun x => { x with up := true }).grPut 0 { opened := some (5, 0), hist := [(5, { i := some { num := 1, sh := 0 } , next := some 5 })] } with gts := 100 }), by decide +kernel⟩
set_option maxRecDepth 20000 in
theorem wit_DroopCheckShapingAndSideband_12 : ∃ s : State, (s.dev.gr ((0 : Byte)).toNat).gbAt = some (0) ∧ (0) ≤ (s.dev.gr ((0 : Byte)).toNat).released ∧ (s.dev.gr ((0 : Byte)).toNat).released + 10000 * s.dev.rd F.PWC_GB_CFG_HOLD ≤ s.dev.gts := ⟨stOf ({ ({({} : Dev) with sysOn := true}).grPut 0 { gbAt := some 0 } with gts := 100000000 }), by decide +kernel⟩
set_option maxRecDepth 20000 in
theorem wit_DroopCheckShapingAndSideband_13 : ∃ s : State, s.dev.sbOk ((0 : Fin 8)) = true ∧ (s.dev.pw ((0 : Fin 8))).sbDue = true ∧ (s.dev.segGet (s.dev.rd F.PWC_ACC_SB_SEG ((0 : Fin 8)))).running = none := ⟨stOf (((((({({} : Dev) with sysOn := true}).wr F.PWC_ACC_SB_VALID 0 1).wr F.PWC_ACC_SB_SEG 0 2).wr F.VL_ACC_STATUS_MODE 0 modeSideband)).pwPut 0 { sbDue := true }), by decide +kernel⟩
set_option maxRecDepth 20000 in
theorem wit_DroopCheckShapingAndSideband_14 : ∃ s : State, s.dev.sbOk ((0 : Fin 8)) = true ∧ (s.dev.pw ((0 : Fin 8))).sbLast + 1000000000 ≤ s.dev.gts := ⟨stOf ({ (((({({} : Dev) with sysOn := true}).wr F.PWC_ACC_SB_VALID 0 1).wr F.PWC_ACC_SB_SEG 0 2).wr F.VL_ACC_STATUS_MODE 0 modeSideband) with gts := 1000000000 }), by decide +kernel⟩
set_option maxRecDepth 20000 in
theorem wit_DroopCheckShapingAndSideband_15 : ∃ s : State, (s.dev.pw ((0 : Fin 8))).sbRetry = some (0) ∧ (0) ≤ s.dev.gts ∧ s.dev.sbOk ((0 : Fin 8)) = true ∧ (s.dev.segGet (s.dev.rd F.PWC_ACC_SB_SEG ((0 : Fin 8)))).running = none := ⟨stOf (((((({({} : Dev) with sysOn := true}).wr F.PWC_ACC_SB_VALID 0 1).wr F.PWC_ACC_SB_SEG 0 2).wr F.VL_ACC_STATUS_MODE 0 modeSideband)).pwPut 0 { sbRetry := some 0 }), by decide +kernel⟩

set_option maxRecDepth 20000 in
theorem wit_BringUpHotSwapAndBus_0 : ∃ s : State, s.dev.seq.vinUp = false := ⟨stOf (({} : Dev)), by decide +kernel⟩
set_option maxRecDepth 20000 in
theorem wit_BringUpHotSwapAndBus_1 : ∃ s : State, s.dev.seq.vinUp = true ∧ s.dev.seq.xtal = 0 := ⟨stOf ({ ({} : Dev) with seq.vinUp := true }), by decide +kernel⟩
set_option maxRecDepth 20000 in
theorem wit_BringUpHotSwapAndBus_2 : ∃ s : State, s.dev.seq.vinUp = true ∧ s.dev.seq.xtal = 0 ∧ s.dev.seq.xtalAt + 10000000 ≤ s.dev.aont := ⟨stOf ({ ({} : Dev) with seq.vinUp := true, aont := 10000000 }), by decide +kernel⟩
set_option maxRecDepth 20000 in
theorem wit_BringUpHotSwapAndBus_3 : ∃ s : State, s.dev.hsw = hsOff ∧ s.dev.seq.coldDown = false ∧ s.dev.startOk = true := ⟨stOf ((({ ({} : Dev) with seq.vinUp := true, seq.xtal := 1, aont := 20000000000, pwr.startSince := some 0 }).wr F.SEQ_BUS_STATUS_START_OK 0 1)), by decide +kernel⟩
set_option maxRecDepth 20000 in
theorem wit_BringUpHotSwapAndBus_6 : ∃ s : State, s.dev.hsw = hsStart ∧ s.dev.seq.hswAt + s.dev.tMax ≤ s.dev.aont := ⟨stOf (({ ({} : Dev) with aont := 10000000000 }).wr F.SEQ_HSW_STATUS_STATE 0 hsStart), by decide +kernel⟩
set_option maxRecDepth 20000 in
theorem wit_BringUpHotSwapAndBus_7 : ∃ s : State, s.dev.hsw = hsStart := ⟨stOf ((({} : Dev)).wr F.SEQ_HSW_STATUS_STATE 0 hsStart), by decide +kernel⟩
set_option maxRecDepth 20000 in
theorem wit_BringUpHotSwapAndBus_8 : ∃ s : State, s.dev.hsw = hsOn := ⟨stOf ((({} : Dev)).wr F.SEQ_HSW_STATUS_STATE 0 hsOn), by decide +kernel⟩
set_option maxRecDepth 20000 in
theorem wit_BringUpHotSwapAndBus_9 : ∃ s : State, s.dev.hsw = hsLimit := ⟨stOf ((({} : Dev)).wr F.SEQ_HSW_STATUS_STATE 0 hsLimit), by decide +kernel⟩
set_option maxRecDepth 20000 in
theorem wit_BringUpHotSwapAndBus_10 : ∃ s : State, 1000 < ((2000 : BitVec 17)).toNat ∧ (s.dev.hsw = hsStart || s.dev.fetOn) = true ∧ ({ s.dev.soaSet (s.dev.seq.soaE + ((2000 : BitVec 17)).toNat * s.dev.fetMa ((0 : BitVec 27)).toNat) with seq.decayUs := 0 }).seq.soaE < ({ s.dev.soaSet (s.dev.seq.soaE + ((2000 : BitVec 17)).toNat * s.dev.fetMa ((0 : BitVec 27)).toNat) with seq.decayUs := 0 }).soaLimit := ⟨stOf (((({} : Dev)).wr F.SEQ_HSW_STATUS_STATE 0 hsOn).wr F.SEQ_HSW_SHUNT_MICRO_OHM 0 100), by decide +kernel⟩
set_option maxRecDepth 20000 in
theorem wit_BringUpHotSwapAndBus_11 : ∃ s : State, 1000 < ((2000 : BitVec 17)).toNat ∧ (s.dev.hsw = hsStart || s.dev.fetOn) = true ∧ ({ s.dev.soaSet (s.dev.seq.soaE + ((2000 : BitVec 17)).toNat * s.dev.fetMa ((0 : BitVec 27)).toNat) with seq.decayUs := 0 }).soaLimit ≤ ({ s.dev.soaSet (s.dev.seq.soaE + ((2000 : BitVec 17)).toNat * s.dev.fetMa ((0 : BitVec 27)).toNat) with seq.decayUs := 0 }).seq.soaE := ⟨stOf ((({ ({} : Dev) with seq.soaE := 10 ^ 20 }).wr F.SEQ_HSW_STATUS_STATE 0 hsOn).wr F.SEQ_HSW_SHUNT_MICRO_OHM 0 100), by decide +kernel⟩
set_option maxRecDepth 20000 in
theorem wit_BringUpHotSwapAndBus_12 : ∃ s : State, ((0 : BitVec 17)).toNat ≤ 1000 ∧ s.dev.seq.decayUs + 1 < 100000 := ⟨stOf (({} : Dev)), by decide +kernel⟩
set_option maxRecDepth 20000 in
theorem wit_BringUpHotSwapAndBus_13 : ∃ s : State, s.dev.hsw = hsCool ∧ s.dev.seq.hswAt + 100000000 * max 1 (s.dev.rd F.SEQ_HSW_SOA_COOL) ≤ s.dev.aont := ⟨stOf (({ ({} : Dev) with aont := 100000000000 }).wr F.SEQ_HSW_STATUS_STATE 0 hsCool), by decide +kernel⟩
set_option maxRecDepth 20000 in
theorem wit_BringUpHotSwapAndBus_14 : ∃ s : State, s.dev.pwr.uvfSince = some (0) ∧ (0) + 10000 ≤ s.dev.aont := ⟨stOf ({ ({} : Dev) with pwr.uvfSince := some 0, aont := 10000 }), by decide +kernel⟩
set_option maxRecDepth 20000 in
theorem wit_BringUpHotSwapAndBus_15 : ∃ s : State, s.dev.seq.uvAbove = some (0) ∧ s.dev.seq.uvHold = true ∧ (0) + 100000000 ≤ s.dev.aont := ⟨stOf ({ ({} : Dev) with seq.uvAbove := some 0, seq.uvHold := true, aont := 100000000 }), by decide +kernel⟩
set_option maxRecDepth 20000 in
theorem wit_BringUpHotSwapAndBus_16 : ∃ s : State, s.dev.pwr.mateDown = some (0) ∧ (0) ≤ s.dev.aont := ⟨stOf ({ ({} : Dev) with pwr.mateDown := some 0 }), by decide +kernel⟩
set_option maxRecDepth 20000 in
theorem wit_BringUpHotSwapAndBus_17 : ∃ s : State, ((0x5A960001 : Word)).toNat / 65536 = 0x5A96 ∧ ((0x5A960001 : Word)).toNat % 2 = 1 := ⟨stOf (({} : Dev)), by decide +kernel⟩
set_option maxRecDepth 20000 in
theorem wit_BringUpHotSwapAndBus_18 : ∃ s : State, ((1 : Word)).toNat / 65536 ≠ 0x5A96 := ⟨stOf (({} : Dev)), by decide +kernel⟩
set_option maxRecDepth 20000 in
theorem wit_BringUpHotSwapAndBus_19 : ∃ s : State, s.dev.seq.coldOff = some (0) ∧ (0) + 100000000 ≤ s.dev.aont := ⟨stOf ({ ({} : Dev) with seq.coldOff := some 0, aont := 100000000 }), by decide +kernel⟩

set_option maxRecDepth 20000 in
theorem wit_DomainsRailsAndResets_0 : ∃ s : State, s.dev.graphOk = true := ⟨stOf (({} : Dev)), by decide +kernel⟩
set_option maxRecDepth 20000 in
theorem wit_DomainsRailsAndResets_1 : ∃ s : State, s.dev.graphOk = false := ⟨stOf ((({} : Dev)).wr F.SEQ_DOM_CFG_MATE 0 1), by decide +kernel⟩
set_option maxRecDepth 20000 in
theorem wit_DomainsRailsAndResets_2 : ∃ s : State, (Agent.host) ≠ .sec := ⟨stOf (({} : Dev)), by decide +kernel⟩
set_option maxRecDepth 20000 in
theorem wit_DomainsRailsAndResets_3 : ∃ s : State, s.dev.domReqOk ((4 : Fin 16)).val true = true := ⟨stOf ((({} : Dev)).wr F.SEQ_CTRL_GRAPH_VALID 0 1), by decide +kernel⟩
set_option maxRecDepth 20000 in
theorem wit_DomainsRailsAndResets_4 : ∃ s : State, s.dev.domReqOk ((4 : Fin 16)).val false = true := ⟨stOf ((({} : Dev)).wr F.SEQ_CTRL_GRAPH_VALID 0 1), by decide +kernel⟩
set_option maxRecDepth 20000 in
theorem wit_DomainsRailsAndResets_5 : ∃ s : State, s.dev.rail ((5 : Fin 96)).val = rlWait ∧ s.dev.fetOn = true ∧ (s.dev.railPars ((5 : Fin 96)).val).all s.dev.parOn = true ∧ (s.dev.railPars ((5 : Fin 96)).val).foldl (fun m p => max m (s.dev.parSince p)) (s.dev.rlT ((5 : Fin 96)).val).since + s.dev.delayOn ((5 : Fin 96)).val ≤ s.dev.aont := ⟨stOf ((((({ ({} : Dev) with aont := 10000000000 }).wr F.SEQ_RAIL_STATUS_STATE 5 rlWait).wr F.SEQ_HSW_STATUS_STATE 0 hsOn).wrw (F.SEQ_RAIL_PAR_P0.addr 5) 0x7F7F7F7F)), by decide +kernel⟩
set_option maxRecDepth 20000 in
theorem wit_DomainsRailsAndResets_6 : ∃ s : State, s.dev.railUsed ((5 : Fin 96)).val = true ∧ s.dev.is F.SEQ_RAIL_STATUS_PG ((5 : Fin 96)).val = false ∧ s.dev.rail ((5 : Fin 96)).val = rlRamp := ⟨stOf (((({} : Dev)).wr F.SEQ_RAIL_STATUS_STATE 5 rlRamp).wr F.SEQ_RAIL_PG_USED 5 1), by decide +kernel⟩
set_option maxRecDepth 20000 in
theorem wit_DomainsRailsAndResets_7 : ∃ s : State, s.dev.railUsed ((5 : Fin 96)).val = true ∧ s.dev.is F.SEQ_RAIL_STATUS_PG ((5 : Fin 96)).val = true ∧ (s.dev.rail ((5 : Fin 96)).val = rlOn ∨ s.dev.rail ((5 : Fin 96)).val = rlDrain) := ⟨stOf ((((({} : Dev)).wr F.SEQ_RAIL_STATUS_STATE 5 rlOn).wr F.SEQ_RAIL_PG_USED 5 1).wr F.SEQ_RAIL_STATUS_PG 5 1), by decide +kernel⟩
set_option maxRecDepth 20000 in
theorem wit_DomainsRailsAndResets_8 : ∃ s : State, s.dev.qualified ((5 : Fin 96)).val = true := ⟨stOf (({ ({} : Dev) with aont := 10000000000 }).wr F.SEQ_RAIL_STATUS_STATE 5 rlQual), by decide +kernel⟩
set_option maxRecDepth 20000 in
theorem wit_DomainsRailsAndResets_9 : ∃ s : State, s.dev.rail ((5 : Fin 96)).val = rlRamp ∧ s.dev.rd F.SEQ_RAIL_STATUS_CHATTER ((5 : Fin 96)).val = 0 ∧ (s.dev.rlT ((5 : Fin 96)).val).enAt + s.dev.tRise ((5 : Fin 96)).val ≤ s.dev.aont := ⟨stOf (({ ({} : Dev) with aont := 10000000000 }).wr F.SEQ_RAIL_STATUS_STATE 5 rlRamp), by decide +kernel⟩
set_option maxRecDepth 20000 in
theorem wit_DomainsRailsAndResets_10 : ∃ s : State, (s.dev.rail ((5 : Fin 96)).val = rlRamp ∨ s.dev.rail ((5 : Fin 96)).val = rlQual) ∧ (s.dev.rlT ((5 : Fin 96)).val).enAt + s.dev.tRise ((5 : Fin 96)).val + s.dev.tQual ((5 : Fin 96)).val ≤ s.dev.aont := ⟨stOf (({ ({} : Dev) with aont := 10000000000 }).wr F.SEQ_RAIL_STATUS_STATE 5 rlQual), by decide +kernel⟩
set_option maxRecDepth 20000 in
theorem wit_DomainsRailsAndResets_11 : ∃ s : State, s.dev.drained ((5 : Fin 96)).val = true := ⟨stOf (({ ({} : Dev) with aont := 10000000000 }).wr F.SEQ_RAIL_STATUS_STATE 5 rlDrain), by decide +kernel⟩
set_option maxRecDepth 20000 in
theorem wit_DomainsRailsAndResets_12 : ∃ s : State, s.dev.rail ((5 : Fin 96)).val = rlFall ∧ s.dev.is F.SEQ_RAIL_STATUS_PG ((5 : Fin 96)).val = true ∧ (s.dev.rlT ((5 : Fin 96)).val).since + s.dev.tFall ((5 : Fin 96)).val ≤ s.dev.aont := ⟨stOf ((({ ({} : Dev) with aont := 100000000000 }).wr F.SEQ_RAIL_STATUS_STATE 5 rlFall).wr F.SEQ_RAIL_STATUS_PG 5 1), by decide +kernel⟩
set_option maxRecDepth 20000 in
theorem wit_DomainsRailsAndResets_13 : ∃ s : State, s.dev.rail ((5 : Fin 96)).val = rlFailed := ⟨stOf ((({} : Dev)).wr F.SEQ_RAIL_STATUS_STATE 5 rlFailed), by decide +kernel⟩
set_option maxRecDepth 20000 in
theorem wit_DomainsRailsAndResets_14 : ∃ s : State, s.dev.present ((0 : Fin 8)).val = false ∧ tget (fun _ => 0) s.dev.seq.prsntAt ((0 : Fin 8)).val + 100000 ≤ s.dev.aont := ⟨stOf ({ ({} : Dev) with aont := 100000 }), by decide +kernel⟩
set_option maxRecDepth 20000 in
theorem wit_DomainsRailsAndResets_15 : ∃ s : State, s.dev.prsntOk ((0 : Fin 8)).val = true := ⟨stOf (({ ({} : Dev) with aont := 100000000 }).accPut 0 { present := true }), by decide +kernel⟩
set_option maxRecDepth 20000 in
theorem wit_DomainsRailsAndResets_16 : ∃ s : State, s.dev.bit F.SEQ_RST_STATUS_ASSERTED 0 ((9 : Fin 16)).val = true ∧ s.dev.rstReady ((9 : Fin 16)).val = true := ⟨stOf (((((({ ({} : Dev) with aont := 10000000000 }).wr F.SEQ_RAIL_STATUS_STATE 5 rlOn).wr F.SEQ_RST_CFG_USED 9 1).wr F.SEQ_RST_CFG_GATE 9 5).wr F.SEQ_RAIL_PG_USED 5 1).wrBit F.SEQ_RST_STATUS_ASSERTED 0 9 true), by decide +kernel⟩
set_option maxRecDepth 20000 in
theorem wit_DomainsRailsAndResets_18 : ∃ s : State, s.dev.seq.selfRetry = some (0) ∧ (0) ≤ s.dev.aont ∧ ([0, 1, 2].all fun n => s.dev.rail n = rlOff || s.dev.rail n = rlFailed || s.dev.rail n = rlOn) = true := ⟨stOf ({ ({} : Dev) with seq.selfRetry := some 0 }), by decide +kernel⟩

set_option maxRecDepth 20000 in
theorem wit_FanCommands_0 : ∃ s : State, s.dev.fanTurns ((0 : Fin 18)) = true ∧ (s.dev.fan ((0 : Fin 18))).nextK ≤ s.dev.aont / s.dev.fPeriod := ⟨stOf ((((({} : Dev)).wr F.COOL_STATUS_TABLE_VALID 0 1).wr F.FAN_CFG_USED 0 1).wr F.FAN_STATUS_STATE 0 fnRun), by decide +kernel⟩
set_option maxRecDepth 20000 in
theorem wit_FanCommands_1 : ∃ s : State, s.dev.tableOk = true ∧ s.dev.fst ((0 : Fin 18)) = fnKick := ⟨stOf ((((({} : Dev)).wr F.COOL_STATUS_TABLE_VALID 0 1).wr F.FAN_CFG_USED 0 1).wr F.FAN_STATUS_STATE 0 fnKick), by decide +kernel⟩
set_option maxRecDepth 20000 in
theorem wit_FanCommands_2 : ∃ s : State, s.dev.tableOk = true ∧ s.dev.fst ((0 : Fin 18)) ≠ fnKick ∧ (s.dev.fan ((0 : Fin 18))).win = some (({ start := 0, edge := some 40000000 } : FanWin)) ∧ (({ start := 0, edge := some 40000000 } : FanWin)).start + s.dev.fSettle ≤ s.dev.aont ∧ s.dev.aont ≤ (({ start := 0, edge := some 40000000 } : FanWin)).start + s.dev.fWin ∧ (({ start := 0, edge := some 40000000 } : FanWin)).edge = some (40000000) ∧ (40000000) < s.dev.aont := ⟨stOf ((((((({ ({} : Dev) with aont := 50000000 }).wr F.COOL_STATUS_TABLE_VALID 0 1).wr F.FAN_CFG_USED 0 1).wr F.FAN_STATUS_STATE 0 fnRun).wr F.COOL_TACH_CFG_WIN 0 100).wr F.COOL_TACH_CFG_SETTLE 0 20).fanMod 0 fun x => { x with win := some { start := 0, edge := some 40000000 } }), by decide +kernel⟩
set_option maxRecDepth 20000 in
theorem wit_FanCommands_3 : ∃ s : State, (s.dev.fan ((0 : Fin 18))).win = some (({ start := 0 } : FanWin)) ∧ (({ start := 0 } : FanWin)).start + s.dev.fWin ≤ s.dev.aont := ⟨stOf ((((({ ({} : Dev) with aont := 200000000000 }).wr F.COOL_STATUS_TABLE_VALID 0 1).wr F.FAN_CFG_USED 0 1).wr F.FAN_STATUS_STATE 0 fnRun).fanMod 0 fun x => { x with win := some { start := 0 } }), by decide +kernel⟩
set_option maxRecDepth 20000 in
theorem wit_FanCommands_4 : ∃ s : State, s.dev.serves ((0 : Fin 18)) = none := ⟨stOf ((((({} : Dev)).wr F.COOL_STATUS_TABLE_VALID 0 1).wr F.FAN_CFG_USED 0 1).wr F.FAN_STATUS_STATE 0 fnRun), by decide +kernel⟩
set_option maxRecDepth 20000 in
theorem wit_FanCommands_5 : ∃ s : State, s.dev.fst ((0 : Fin 18)) = fnKick ∧ (s.dev.fan ((0 : Fin 18))).since + s.dev.kickNs ≤ s.dev.aont ∧ s.dev.rd F.FAN_STATUS_KICKS ((0 : Fin 18)) + 1 < 3 := ⟨stOf (((({ ({} : Dev) with aont := 200000000000 }).wr F.COOL_STATUS_TABLE_VALID 0 1).wr F.FAN_CFG_USED 0 1).wr F.FAN_STATUS_STATE 0 fnKick), by decide +kernel⟩
set_option maxRecDepth 20000 in
theorem wit_FanCommands_6 : ∃ s : State, s.dev.fst ((0 : Fin 18)) = fnKick ∧ (s.dev.fan ((0 : Fin 18))).since + s.dev.kickNs ≤ s.dev.aont ∧ 3 ≤ s.dev.rd F.FAN_STATUS_KICKS ((0 : Fin 18)) + 1 ∧ ((s.dev.fan ((0 : Fin 18))).kickI.filter fun p => (s.dev.wr F.FAN_STATUS_KICKS ((0 : Fin 18)) (min 3 (s.dev.rd F.FAN_STATUS_KICKS ((0 : Fin 18)) + 1))).aont < p.1 + 100000000) = [] := ⟨stOf ((((({ ({} : Dev) with aont := 200000000000 }).wr F.COOL_STATUS_TABLE_VALID 0 1).wr F.FAN_CFG_USED 0 1).wr F.FAN_STATUS_STATE 0 fnKick).wr F.FAN_STATUS_KICKS 0 2), by decide +kernel⟩
set_option maxRecDepth 20000 in
theorem wit_FanCommands_7 : ∃ s : State, s.dev.fst ((0 : Fin 18)) = fnGap ∧ (s.dev.fan ((0 : Fin 18))).since + s.dev.gapNs ≤ s.dev.aont := ⟨stOf (((({ ({} : Dev) with aont := 200000000000 }).wr F.COOL_STATUS_TABLE_VALID 0 1).wr F.FAN_CFG_USED 0 1).wr F.FAN_STATUS_STATE 0 fnGap), by decide +kernel⟩
set_option maxRecDepth 20000 in
theorem wit_FanCommands_8 : ∃ s : State, s.dev.fst ((0 : Fin 18)) = fnFailed ∧ ((0 : Fin 18)).val < 16 := ⟨stOf ((((({} : Dev)).wr F.COOL_STATUS_TABLE_VALID 0 1).wr F.FAN_CFG_USED 0 1).wr F.FAN_STATUS_STATE 0 fnFailed), by decide +kernel⟩
set_option maxRecDepth 20000 in
theorem wit_FanCommands_9 : ∃ s : State, s.dev.fst ((16 : Fin 18)) = fnFailed ∧ 16 ≤ ((16 : Fin 18)).val := ⟨stOf ((({} : Dev)).wr F.FAN_STATUS_STATE 16 fnFailed), by decide +kernel⟩
set_option maxRecDepth 20000 in
theorem wit_FanCommands_10 : ∃ s : State, (s.dev.testNs) ≠ 0 ∧ s.dev.aont / (s.dev.testNs) ≠ 0 ∧ (s.dev.fan (16 + ((0 : Fin 2)).val)).testK < s.dev.aont / (s.dev.testNs) ∧ (s.dev.fanMod (16 + ((0 : Fin 2)).val) fun x => { x with testK := (s.dev.aont / (s.dev.testNs)) }).tableOk = true ∧ (s.dev.fanMod (16 + ((0 : Fin 2)).val) fun x => { x with testK := (s.dev.aont / (s.dev.testNs)) }).fanUsed (16 + ((0 : Fin 2)).val) = true ∧ (s.dev.fanMod (16 + ((0 : Fin 2)).val) fun x => { x with testK := (s.dev.aont / (s.dev.testNs)) }).rd F.COOL_CTRL_MODE = cmRun ∧ (s.dev.fanMod (16 + ((0 : Fin 2)).val) fun x => { x with testK := (s.dev.aont / (s.dev.testNs)) }).fst (16 + ((0 : Fin 2)).val) = fnIdle ∧ (s.dev.fanMod (16 + ((0 : Fin 2)).val) fun x => { x with testK := (s.dev.aont / (s.dev.testNs)) }).fanSupply (16 + ((0 : Fin 2)).val) = true := ⟨stOf (((((((({ ({} : Dev) with aont := 4000000000000000 }).wr F.COOL_STATUS_TABLE_VALID 0 1).wr F.FAN_CFG_USED 16 1).wr F.COOL_CTRL_MODE 0 cmRun).wr F.FAN_STATUS_STATE 16 fnIdle).wr F.FAN_CFG_SUPPLY 16 5).wr F.SEQ_RAIL_PG_USED 5 1).wr F.SEQ_RAIL_STATUS_STATE 5 rlOn), by decide +kernel⟩
set_option maxRecDepth 20000 in
theorem wit_FanCommands_11 : ∃ s : State, s.dev.fst (16 + ((0 : Fin 2)).val) = fnTest ∧ (s.dev.fan (16 + ((0 : Fin 2)).val)).since + 1000000000 * max 1 (s.dev.rd F.COOL_RSV_TEST_S) ≤ s.dev.aont := ⟨stOf (({ ({} : Dev) with aont := 400000000000000 }).wr F.FAN_STATUS_STATE 16 fnTest), by decide +kernel⟩
set_option maxRecDepth 20000 in
theorem wit_FanCommands_12 : ∃ s : State, s.dev.commOk ((0 : Fin 18)).val = true := ⟨stOf (commDev.wr F.SEQ_RAIL_PG_USED 5 1), by decide +kernel⟩
set_option maxRecDepth 20000 in
theorem wit_FanCommands_13 : ∃ s : State, (Agent.host) ≠ .pmc := ⟨stOf (({} : Dev)), by decide +kernel⟩
set_option maxRecDepth 20000 in
theorem wit_FanCommands_14 : ∃ s : State, s.dev.fst ((0 : Fin 18)) = fnComm ∧ (s.dev.fan ((0 : Fin 18))).since + 60000000000 ≤ s.dev.aont := ⟨stOf (((({ ({} : Dev) with aont := 200000000000 }).wr F.COOL_STATUS_TABLE_VALID 0 1).wr F.FAN_CFG_USED 0 1).wr F.FAN_STATUS_STATE 0 fnComm), by decide +kernel⟩
set_option maxRecDepth 20000 in
theorem wit_FanCommands_15 : ∃ s : State, s.dev.fst ((0 : Fin 18)) = fnComm ∧ (s.dev.fan ((0 : Fin 18))).commLoop = false ∧ (s.dev.fan ((0 : Fin 18))).since + 10000000000 ≤ s.dev.aont := ⟨stOf (((({ ({} : Dev) with aont := 200000000000 }).wr F.COOL_STATUS_TABLE_VALID 0 1).wr F.FAN_CFG_USED 0 1).wr F.FAN_STATUS_STATE 0 fnComm), by decide +kernel⟩

set_option maxRecDepth 20000 in
theorem wit_CoolingTableLoopsAndSensors_0 : ∃ s : State, s.dev.coolTableOk = true := ⟨stOf (({} : Dev)), by decide +kernel⟩
set_option maxRecDepth 20000 in
theorem wit_CoolingTableLoopsAndSensors_1 : ∃ s : State, s.dev.coolTableOk = false := ⟨stOf (((({} : Dev)).wr F.FAN_CFG_USED 0 1).wr F.FAN_CFG_FREQ_HZ 0 5), by decide +kernel⟩
set_option maxRecDepth 20000 in
theorem wit_CoolingTableLoopsAndSensors_2 : ∃ s : State, (Agent.host) ≠ .sec := ⟨stOf (({} : Dev)), by decide +kernel⟩
set_option maxRecDepth 20000 in
theorem wit_CoolingTableLoopsAndSensors_3 : ∃ s : State, s.dev.tableOk = true ∧ s.dev.is F.PUMP_CFG_USED ((0 : Fin 4)) = true ∧ (s.dev.pump' ((0 : Fin 4))).nextK < (s.dev.aont / s.dev.fPeriod) ∧ ((s.dev.pumpMod ((0 : Fin 4)) fun x => { x with nextK := (s.dev.aont / s.dev.fPeriod) }).wr F.PUMP_STATUS_RPM ((0 : Fin 4)) (rpmOf ((s.dev.pumpMod ((0 : Fin 4)) fun x => { x with nextK := (s.dev.aont / s.dev.fPeriod) }).rd F.PUMP_CFG_PPR ((0 : Fin 4)) + 1) ((5 : Word)).toNat)).rd F.PUMP_STATUS_STATE ((0 : Fin 4)) ≠ 1 := ⟨stOf ((({ ({} : Dev) with aont := 100000000000 }).wr F.COOL_STATUS_TABLE_VALID 0 1).wr F.PUMP_CFG_USED 0 1), by decide +kernel⟩
set_option maxRecDepth 20000 in
theorem wit_CoolingTableLoopsAndSensors_4 : ∃ s : State, s.dev.tableOk = true ∧ s.dev.is F.PUMP_CFG_USED ((0 : Fin 4)) = true ∧ (s.dev.pump' ((0 : Fin 4))).nextK < (s.dev.aont / s.dev.fPeriod) ∧ ((s.dev.pumpMod ((0 : Fin 4)) fun x => { x with nextK := (s.dev.aont / s.dev.fPeriod) }).wr F.PUMP_STATUS_RPM ((0 : Fin 4)) (rpmOf ((s.dev.pumpMod ((0 : Fin 4)) fun x => { x with nextK := (s.dev.aont / s.dev.fPeriod) }).rd F.PUMP_CFG_PPR ((0 : Fin 4)) + 1) ((5 : Word)).toNat)).rd F.PUMP_STATUS_STATE ((0 : Fin 4)) = 1 ∧ min (((s.dev.pumpMod ((0 : Fin 4)) fun x => { x with nextK := (s.dev.aont / s.dev.fPeriod) }).wr F.PUMP_STATUS_RPM ((0 : Fin 4)) (rpmOf ((s.dev.pumpMod ((0 : Fin 4)) fun x => { x with nextK := (s.dev.aont / s.dev.fPeriod) }).rd F.PUMP_CFG_PPR ((0 : Fin 4)) + 1) ((5 : Word)).toNat)).rd F.PUMP_TARGET_MAX_RPM ((0 : Fin 4))) (((s.dev.pumpMod ((0 : Fin 4)) fun x => { x with nextK := (s.dev.aont / s.dev.fPeriod) }).wr F.PUMP_STATUS_RPM ((0 : Fin 4)) (rpmOf ((s.dev.pumpMod ((0 : Fin 4)) fun x => { x with nextK := (s.dev.aont / s.dev.fPeriod) }).rd F.PUMP_CFG_PPR ((0 : Fin 4)) + 1) ((5 : Word)).toNat)).rd F.PUMP_TARGET_TARGET_RPM ((0 : Fin 4))) = 0 := ⟨stOf (((({ ({} : Dev) with aont := 100000000000 }).wr F.COOL_STATUS_TABLE_VALID 0 1).wr F.PUMP_CFG_USED 0 1).wr F.PUMP_STATUS_STATE 0 1), by decide +kernel⟩
set_option maxRecDepth 20000 in
theorem wit_CoolingTableLoopsAndSensors_6 : ∃ s : State, s.dev.is F.PUMP_STATUS_FAILED ((0 : Fin 4)).val = true := ⟨stOf ((({} : Dev)).wr F.PUMP_STATUS_FAILED 0 1), by decide +kernel⟩
set_option maxRecDepth 20000 in
theorem wit_CoolingTableLoopsAndSensors_7 : ∃ s : State, s.dev.tableOk = true ∧ s.dev.is F.LOOP_CFG_EN ((0 : Fin 4)) = true := ⟨stOf (((({} : Dev)).wr F.COOL_STATUS_TABLE_VALID 0 1).wr F.LOOP_CFG_EN 0 1), by decide +kernel⟩
set_option maxRecDepth 20000 in
theorem wit_CoolingTableLoopsAndSensors_8 : ∃ s : State, s.dev.tableOk = true ∧ s.dev.is F.LOOP_CFG_EN ((0 : Fin 4)) = true ∧ (s.dev.fwinNs) + 1000 ≤ s.dev.aont ∧ (s.dev.cloop ((0 : Fin 4))).nextK ≤ ((s.dev.aont - 1000) / (s.dev.fwinNs) - 1) ∧ (s.dev.cloop ((0 : Fin 4))).grace = none := ⟨stOf ((({ ({} : Dev) with aont := 100000000000 }).wr F.COOL_STATUS_TABLE_VALID 0 1).wr F.LOOP_CFG_EN 0 1), by decide +kernel⟩
set_option maxRecDepth 20000 in
theorem wit_CoolingTableLoopsAndSensors_9 : ∃ s : State, s.dev.tableOk = true ∧ s.dev.is F.LOOP_CFG_EN ((0 : Fin 4)) = true ∧ (s.dev.fwinNs) + 1000 ≤ s.dev.aont ∧ (s.dev.cloop ((0 : Fin 4))).nextK ≤ ((s.dev.aont - 1000) / (s.dev.fwinNs) - 1) ∧ (s.dev.cloop ((0 : Fin 4))).grace = some (0) ∧ (0) + 1000000000 * s.dev.rd F.COOL_FLOW_CFG_GRACE_S < (((s.dev.aont - 1000) / (s.dev.fwinNs) - 1) + 1) * (s.dev.fwinNs) := ⟨stOf (((({ ({} : Dev) with aont := 100000000000 }).wr F.COOL_STATUS_TABLE_VALID 0 1).wr F.LOOP_CFG_EN 0 1).cloopMod 0 fun x => { x with grace := some 0 }), by decide +kernel⟩
set_option maxRecDepth 20000 in
theorem wit_CoolingTableLoopsAndSensors_10 : ∃ s : State, (s.dev.cloop ((0 : Fin 4)).val).lastFail = false := ⟨stOf (({} : Dev)), by decide +kernel⟩
set_option maxRecDepth 20000 in
theorem wit_CoolingTableLoopsAndSensors_12 : ∃ s : State, s.dev.rd F.LEAK_STATUS_STATE ((0 : Fin 16)).val = 0 := ⟨stOf ((({} : Dev)).wr F.LEAK_STATUS_STATE 0 0), by decide +kernel⟩
set_option maxRecDepth 20000 in
theorem wit_CoolingTableLoopsAndSensors_13 : ∃ s : State, s.dev.tableOk = true ∧ s.dev.is F.TD_CFG_USED ((0 : Fin 32)) = true := ⟨stOf (((({} : Dev)).wr F.COOL_STATUS_TABLE_VALID 0 1).wr F.TD_CFG_USED 0 1), by decide +kernel⟩
set_option maxRecDepth 20000 in
theorem wit_CoolingTableLoopsAndSensors_14 : ∃ s : State, s.dev.tableOk = true ∧ s.dev.is F.TD_CFG_USED ((0 : Fin 32)) = true := ⟨stOf (((({} : Dev)).wr F.COOL_STATUS_TABLE_VALID 0 1).wr F.TD_CFG_USED 0 1), by decide +kernel⟩
set_option maxRecDepth 20000 in
theorem wit_CoolingTableLoopsAndSensors_15 : ∃ s : State, ((Agent.pmc) = .pmc ∨ (Agent.pmc) = .sec) := ⟨stOf (({} : Dev)), by decide +kernel⟩
set_option maxRecDepth 20000 in
theorem wit_CoolingTableLoopsAndSensors_16 : ∃ s : State, (s.dev.rd F.COOL_CTRL_MODE = cmTest ∨ s.dev.rd F.COOL_CTRL_MODE = cmRecovery) ∧ s.dev.cool.modeAt + 1000000000 * max 1 (s.dev.rd F.COOL_CTRL_MODE_MAX) ≤ s.dev.aont := ⟨stOf (({ ({} : Dev) with aont := 100000000000000 }).wr F.COOL_CTRL_MODE 0 cmTest), by decide +kernel⟩

set_option maxRecDepth 20000 in
theorem wit_CaptureQueueWriters_0 : ∃ s : State, s.dev.is F.CQ_CFG_EN ((5 : Fin 16)).val = true ∧ ¬ (s.dev.rd F.CQ_CFG_OWNER ((5 : Fin 16)).val = ((4 : Fin 16)).val ∧ ((4 : Fin 16)).val ≠ 0) := ⟨stOf (((({} : Dev)).wr F.CQ_CFG_EN 5 1).wr F.CQ_CFG_OWNER 5 3), by decide +kernel⟩
set_option maxRecDepth 20000 in
theorem wit_CaptureQueueWriters_1 : ∃ s : State, s.dev.is F.CQ_CFG_EN ((5 : Fin 16)).val = false := ⟨stOf ((({} : Dev)).wr F.CQ_CFG_EN 5 0), by decide +kernel⟩
set_option maxRecDepth 20000 in
theorem wit_CaptureQueueWriters_2 : ∃ s : State, s.dev.is F.CQ_CFG_EN ((5 : Fin 16)).val = true ∧ s.dev.rd F.CQ_CFG_OWNER ((5 : Fin 16)).val = ((3 : Fin 16)).val ∧ ((3 : Fin 16)).val ≠ 0 ∧ 4 ≤ ((5 : Fin 16)).val ∧ (s.dev.cqGet ((5 : Fin 16)).val).pkt = none ∧ (s.dev.cqGet ((5 : Fin 16)).val).vis.length < cqLines := ⟨stOf (((({} : Dev)).wr F.CQ_CFG_EN 5 1).wr F.CQ_CFG_OWNER 5 3), by decide +kernel⟩
set_option maxRecDepth 20000 in
theorem wit_CaptureQueueWriters_3 : ∃ s : State, s.dev.is F.CQ_CFG_EN ((5 : Fin 16)).val = true ∧ s.dev.rd F.CQ_CFG_OWNER ((5 : Fin 16)).val = ((3 : Fin 16)).val ∧ ((3 : Fin 16)).val ≠ 0 ∧ 4 ≤ ((5 : Fin 16)).val ∧ (s.dev.cqGet ((5 : Fin 16)).val).pkt = none ∧ cqLines ≤ (s.dev.cqGet ((5 : Fin 16)).val).vis.length := ⟨stOf ((((({} : Dev)).wr F.CQ_CFG_EN 5 1).wr F.CQ_CFG_OWNER 5 3).cqPut 5 { vis := List.replicate 2048 ({ tag := 0, bytes := [], slot := 0, feed := 0 } : CqLine) }), by decide +kernel⟩
set_option maxRecDepth 20000 in
theorem wit_CaptureQueueWriters_4 : ∃ s : State, s.dev.is F.CQ_CFG_EN ((0 : Fin 16)).val = true ∧ s.dev.rd F.CQ_CFG_OWNER ((0 : Fin 16)).val = ((3 : Fin 16)).val ∧ ((3 : Fin 16)).val ≠ 0 ∧ ((0 : Fin 16)).val < 4 := ⟨stOf (((({} : Dev)).wr F.CQ_CFG_EN 0 1).wr F.CQ_CFG_OWNER 0 3), by decide +kernel⟩
set_option maxRecDepth 20000 in
theorem wit_CaptureQueueWriters_5 : ∃ s : State, s.dev.is F.CQ_CFG_EN ((5 : Fin 16)).val = true ∧ ¬ (s.dev.rd F.CQ_CFG_OWNER ((5 : Fin 16)).val = ((4 : Fin 16)).val ∧ ((4 : Fin 16)).val ≠ 0) := ⟨stOf (((({} : Dev)).wr F.CQ_CFG_EN 5 1).wr F.CQ_CFG_OWNER 5 3), by decide +kernel⟩
set_option maxRecDepth 20000 in
theorem wit_CaptureQueueWriters_6 : ∃ s : State, s.dev.is F.CQ_CFG_EN ((5 : Fin 16)).val = false := ⟨stOf ((({} : Dev)).wr F.CQ_CFG_EN 5 0), by decide +kernel⟩
set_option maxRecDepth 20000 in
theorem wit_CaptureQueueWriters_7 : ∃ s : State, s.dev.is F.CQ_CFG_EN ((5 : Fin 16)).val = true ∧ s.dev.rd F.CQ_CFG_OWNER ((5 : Fin 16)).val = ((3 : Fin 16)).val ∧ ((3 : Fin 16)).val ≠ 0 ∧ 4 ≤ ((5 : Fin 16)).val ∧ (s.dev.cqGet ((5 : Fin 16)).val).pkt = none := ⟨stOf (((({} : Dev)).wr F.CQ_CFG_EN 5 1).wr F.CQ_CFG_OWNER 5 3), by decide +kernel⟩
set_option maxRecDepth 20000 in
theorem wit_CaptureQueueWriters_8 : ∃ s : State, s.dev.is F.CQ_CFG_EN ((5 : Fin 16)).val = true ∧ s.dev.rd F.CQ_CFG_OWNER ((5 : Fin 16)).val = ((3 : Fin 16)).val ∧ ((3 : Fin 16)).val ≠ 0 ∧ 4 ≤ ((5 : Fin 16)).val ∧ (s.dev.cqGet ((5 : Fin 16)).val).pkt = some (([] : List Byte)) ∧ (s.dev.cqGet ((5 : Fin 16)).val).drop = true := ⟨stOf ((((({} : Dev)).wr F.CQ_CFG_EN 5 1).wr F.CQ_CFG_OWNER 5 3).cqPut 5 { pkt := some [], drop := true }), by decide +kernel⟩
set_option maxRecDepth 20000 in
theorem wit_CaptureQueueWriters_9 : ∃ s : State, s.dev.is F.CQ_CFG_EN ((5 : Fin 16)).val = true ∧ s.dev.rd F.CQ_CFG_OWNER ((5 : Fin 16)).val = ((3 : Fin 16)).val ∧ ((3 : Fin 16)).val ≠ 0 ∧ 4 ≤ ((5 : Fin 16)).val ∧ (s.dev.cqGet ((5 : Fin 16)).val).pkt = some (([] : List Byte)) ∧ (s.dev.cqGet ((5 : Fin 16)).val).drop = false ∧ (4 + ((([] : List Byte)).length + 4)) ≤ 16384 ∧ (s.dev.cqGet ((5 : Fin 16)).val).vis.length + linesOf (4 + ((([] : List Byte)).length + 4)) ≤ cqLines := ⟨stOf ((((({} : Dev)).wr F.CQ_CFG_EN 5 1).wr F.CQ_CFG_OWNER 5 3).cqPut 5 { pkt := some [] }), by decide +kernel⟩
set_option maxRecDepth 20000 in
theorem wit_CaptureQueueWriters_10 : ∃ s : State, s.dev.is F.CQ_CFG_EN ((5 : Fin 16)).val = true ∧ s.dev.rd F.CQ_CFG_OWNER ((5 : Fin 16)).val = ((3 : Fin 16)).val ∧ ((3 : Fin 16)).val ≠ 0 ∧ 4 ≤ ((5 : Fin 16)).val ∧ (s.dev.cqGet ((5 : Fin 16)).val).pkt = some (([] : List Byte)) ∧ (s.dev.cqGet ((5 : Fin 16)).val).drop = false ∧ (16384 < 4 + ((([] : List Byte)).length + 4) ∨ cqLines < (s.dev.cqGet ((5 : Fin 16)).val).vis.length + linesOf (4 + ((([] : List Byte)).length + 4))) := ⟨stOf ((((({} : Dev)).wr F.CQ_CFG_EN 5 1).wr F.CQ_CFG_OWNER 5 3).cqPut 5 { pkt := some [], vis := List.replicate 2048 ({ tag := 0, bytes := [], slot := 0, feed := 0 } : CqLine) }), by decide +kernel⟩
set_option maxRecDepth 20000 in
theorem wit_CaptureQueueWriters_11 : ∃ s : State, s.dev.is F.CQ_CFG_EN ((0 : Fin 16)).val = true ∧ s.dev.rd F.CQ_CFG_OWNER ((0 : Fin 16)).val = ((3 : Fin 16)).val ∧ ((3 : Fin 16)).val ≠ 0 ∧ ((0 : Fin 16)).val < 4 ∧ (s.dev.cqGet ((0 : Fin 16)).val).needFirst = true := ⟨stOf ((((({} : Dev)).wr F.CQ_CFG_EN 0 1).wr F.CQ_CFG_OWNER 0 3).cqPut 0 { needFirst := true }), by decide +kernel⟩
set_option maxRecDepth 20000 in
theorem wit_CaptureQueueWriters_12 : ∃ s : State, s.dev.is F.CQ_CFG_EN ((0 : Fin 16)).val = true ∧ s.dev.rd F.CQ_CFG_OWNER ((0 : Fin 16)).val = ((3 : Fin 16)).val ∧ ((3 : Fin 16)).val ≠ 0 ∧ ((0 : Fin 16)).val < 4 ∧ (s.dev.cqGet ((0 : Fin 16)).val).needFirst = false ∧ (s.dev.cqGet ((0 : Fin 16)).val).cur ≠ [] ∧ (s.dev.cqGet ((0 : Fin 16)).val).cur.length < 28 := ⟨stOf ((((({} : Dev)).wr F.CQ_CFG_EN 0 1).wr F.CQ_CFG_OWNER 0 3).cqPut 0 { cur := [1, 2, 3, 4] }), by decide +kernel⟩
set_option maxRecDepth 20000 in
theorem wit_CaptureQueueWriters_13 : ∃ s : State, s.dev.is F.CQ_CFG_EN ((5 : Fin 16)).val = true ∧ s.dev.rd F.CQ_CFG_OWNER ((5 : Fin 16)).val = ((3 : Fin 16)).val ∧ ((3 : Fin 16)).val ≠ 0 ∧ 4 ≤ ((5 : Fin 16)).val := ⟨stOf (((({} : Dev)).wr F.CQ_CFG_EN 5 1).wr F.CQ_CFG_OWNER 5 3), by decide +kernel⟩
set_option maxRecDepth 20000 in
theorem wit_CaptureQueueWriters_14 : ∃ s : State, s.dev.is F.CQ_CFG_EN ((0 : Fin 16)).val = true ∧ s.dev.rd F.CQ_CFG_OWNER ((0 : Fin 16)).val = ((3 : Fin 16)).val ∧ ((3 : Fin 16)).val ≠ 0 ∧ ((0 : Fin 16)).val < 4 := ⟨stOf (((({} : Dev)).wr F.CQ_CFG_EN 0 1).wr F.CQ_CFG_OWNER 0 3), by decide +kernel⟩
set_option maxRecDepth 20000 in
theorem wit_CaptureQueueWriters_15 : ∃ s : State, s.dev.is F.CQ_CFG_EN ((5 : Fin 16)).val = true ∧ ¬ (s.dev.rd F.CQ_CFG_OWNER ((5 : Fin 16)).val = ((4 : Fin 16)).val ∧ ((4 : Fin 16)).val ≠ 0) := ⟨stOf (((({} : Dev)).wr F.CQ_CFG_EN 5 1).wr F.CQ_CFG_OWNER 5 3), by decide +kernel⟩
set_option maxRecDepth 20000 in
theorem wit_CaptureQueueWriters_16 : ∃ s : State, s.dev.is F.CQ_CFG_EN ((5 : Fin 16)).val = false := ⟨stOf ((({} : Dev)).wr F.CQ_CFG_EN 5 0), by decide +kernel⟩
set_option maxRecDepth 20000 in
theorem wit_CaptureQueueWriters_17 : ∃ s : State, s.dev.is F.CQ_CFG_EN ((5 : Fin 16)).val = true ∧ ¬ (s.dev.rd F.CQ_CFG_OWNER ((5 : Fin 16)).val = ((4 : Fin 16)).val ∧ ((4 : Fin 16)).val ≠ 0) := ⟨stOf (((({} : Dev)).wr F.CQ_CFG_EN 5 1).wr F.CQ_CFG_OWNER 5 3), by decide +kernel⟩
set_option maxRecDepth 20000 in
theorem wit_CaptureQueueWriters_18 : ∃ s : State, s.dev.is F.CQ_CFG_EN ((5 : Fin 16)).val = false := ⟨stOf ((({} : Dev)).wr F.CQ_CFG_EN 5 0), by decide +kernel⟩
set_option maxRecDepth 20000 in
theorem wit_CaptureQueueWriters_19 : ∃ s : State, s.dev.is F.CQ_CFG_EN ((5 : Fin 16)).val = true ∧ s.dev.rd F.CQ_CFG_OWNER ((5 : Fin 16)).val = ((3 : Fin 16)).val ∧ ((3 : Fin 16)).val ≠ 0 ∧ 4 ≤ ((5 : Fin 16)).val ∧ (s.dev.cqGet ((5 : Fin 16)).val).pkt = none := ⟨stOf (((({} : Dev)).wr F.CQ_CFG_EN 5 1).wr F.CQ_CFG_OWNER 5 3), by decide +kernel⟩
set_option maxRecDepth 20000 in
theorem wit_CaptureQueueWriters_20 : ∃ s : State, s.dev.is F.CQ_CFG_EN ((5 : Fin 16)).val = true ∧ s.dev.rd F.CQ_CFG_OWNER ((5 : Fin 16)).val = ((3 : Fin 16)).val ∧ ((3 : Fin 16)).val ≠ 0 ∧ 4 ≤ ((5 : Fin 16)).val ∧ (s.dev.cqGet ((5 : Fin 16)).val).pkt = some (([] : List Byte)) ∧ (s.dev.cqGet ((5 : Fin 16)).val).drop = true := ⟨stOf ((((({} : Dev)).wr F.CQ_CFG_EN 5 1).wr F.CQ_CFG_OWNER 5 3).cqPut 5 { pkt := some [], drop := true }), by decide +kernel⟩
set_option maxRecDepth 20000 in
theorem wit_CaptureQueueWriters_21 : ∃ s : State, s.dev.is F.CQ_CFG_EN ((5 : Fin 16)).val = true ∧ s.dev.rd F.CQ_CFG_OWNER ((5 : Fin 16)).val = ((3 : Fin 16)).val ∧ ((3 : Fin 16)).val ≠ 0 ∧ 4 ≤ ((5 : Fin 16)).val ∧ (s.dev.cqGet ((5 : Fin 16)).val).pkt = some (([1, 2, 3, 4] : List Byte)) ∧ (s.dev.cqGet ((5 : Fin 16)).val).drop = false ∧ s.dev.cqFits ((5 : Fin 16)).val ((if (([1, 2, 3, 4] : List Byte)) = [] then [] else (([1, 2, 3, 4] : List Byte)).take ((([1, 2, 3, 4] : List Byte)).length - 4 + (if 1 ≤ ((2 : BitVec 3)).toNat ∧ ((2 : BitVec 3)).toNat ≤ 4 then ((2 : BitVec 3)).toNat else 4)))).length = true := ⟨stOf ((((({} : Dev)).wr F.CQ_CFG_EN 5 1).wr F.CQ_CFG_OWNER 5 3).cqPut 5 { pkt := some [1, 2, 3, 4] }), by decide +kernel⟩

set_option maxRecDepth 20000 in
theorem wit_CaptureQueueReadersAndTracePort_0 : ∃ s : State, s.dev.cqToPort ((5 : Fin 16)).val = false ∧ (s.dev.cqGet ((5 : Fin 16)).val).vis = (({ tag := 0, bytes := [], slot := 0, feed := 0 } : CqLine)) :: (([] : List CqLine)) ∧ s.dev.cqPoisoned ((5 : Fin 16)).val (({ tag := 0, bytes := [], slot := 0, feed := 0 } : CqLine)) = false := ⟨stOf ((({} : Dev)).cqPut 5 { vis := [({ tag := 0, bytes := [], slot := 0, feed := 0 } : CqLine)] }), by decide +kernel⟩
set_option maxRecDepth 20000 in
theorem wit_CaptureQueueReadersAndTracePort_1 : ∃ s : State, s.dev.cqToPort ((5 : Fin 16)).val = false ∧ (s.dev.cqGet ((5 : Fin 16)).val).vis = (({ tag := 0, bytes := [], slot := 0, feed := 0 } : CqLine)) :: (([] : List CqLine)) ∧ s.dev.cqPoisoned ((5 : Fin 16)).val (({ tag := 0, bytes := [], slot := 0, feed := 0 } : CqLine)) = true := ⟨stOf (((({} : Dev)).setPoison .commons (0x100000 + 5 * 0x10000) true).cqPut 5 { vis := [({ tag := 0, bytes := [], slot := 0, feed := 0 } : CqLine)] }), by decide +kernel⟩
set_option maxRecDepth 20000 in
theorem wit_CaptureQueueReadersAndTracePort_2 : ∃ s : State, s.dev.cqToPort ((5 : Fin 16)).val = false ∧ (s.dev.cqGet ((5 : Fin 16)).val).vis = [] := ⟨stOf (({} : Dev)), by decide +kernel⟩
set_option maxRecDepth 20000 in
theorem wit_CaptureQueueReadersAndTracePort_3 : ∃ s : State, s.dev.cqToPort ((0 : Fin 16)).val = true := ⟨stOf ((({} : Dev)).wr F.CQ_CFG_DRAIN 0 1), by decide +kernel⟩
set_option maxRecDepth 20000 in
theorem wit_CaptureQueueReadersAndTracePort_7 : ∃ s : State, s.dev.is F.CQ_MARK_VALID ((5 : Fin 16)).val = true := ⟨stOf ((({} : Dev)).wr F.CQ_MARK_VALID 5 1), by decide +kernel⟩
set_option maxRecDepth 20000 in
theorem wit_CaptureQueueReadersAndTracePort_8 : ∃ s : State, s.dev.is F.CQ_MARK_VALID ((5 : Fin 16)).val = false := ⟨stOf (({} : Dev)), by decide +kernel⟩
set_option maxRecDepth 20000 in
theorem wit_CaptureQueueReadersAndTracePort_9 : ∃ s : State, (s.dev.cqGet ((0 : Fin 4)).val).cur ≠ [] ∧ (s.dev.cqGet ((0 : Fin 4)).val).lastWr + 100 * max (s.dev.rd F.CQ_CFG_LINGER ((0 : Fin 4)).val) 1 ≤ s.dev.gts := ⟨stOf (({ (({} : Dev)) with gts := 10000000 }).cqPut 0 { cur := [1, 2, 3, 4] }), by decide +kernel⟩
set_option maxRecDepth 20000 in
theorem wit_CaptureQueueReadersAndTracePort_10 : ∃ s : State, s.dev.is F.CQ_TRC_CFG_EN = true ∧ s.dev.tracePick = some (0) ∧ (s.dev.cqGet (0)).vis = (({ tag := 0, bytes := [], slot := 0, feed := 0 } : CqLine)) :: (([] : List CqLine)) := ⟨stOf ((((({} : Dev)).wr F.CQ_TRC_CFG_EN 0 1).wr F.CQ_CFG_DRAIN 0 1).cqPut 0 { vis := [({ tag := 0, bytes := [], slot := 0, feed := 0 } : CqLine)] }), by decide +kernel⟩
set_option maxRecDepth 20000 in
theorem wit_CaptureQueueReadersAndTracePort_11 : ∃ s : State, (s.dev.is F.CQ_TRC_CFG_EN = false ∨ s.dev.tracePick = none) := ⟨stOf (({} : Dev)), by decide +kernel⟩

set_option maxRecDepth 20000 in
theorem wit_RecorderAndCheckValues_1 : ∃ s : State, (s.dev.ffrAbsorb 32).obs.ffrS.queue = [] := ⟨stOf (({} : Dev)), by decide +kernel⟩
set_option maxRecDepth 20000 in
theorem wit_RecorderAndCheckValues_2 : ∃ s : State, (s.dev.ffrAbsorb 32).obs.ffrS.queue = (({ cls := 1, code := 2, stamp := 5, rank := 1, payload := [] } : FfrEntry)) :: (([] : List FfrEntry)) ∧ (s.dev.ffrAbsorb 32).obs.ffrS.lastAppend = some (900) ∧ (s.dev.ffrAbsorb 32).aont < (900) + 160 := ⟨stOf ({ (({} : Dev)) with obs.ffrS.queue := [({ cls := 1, code := 2, stamp := 5, rank := 1, payload := [] } : FfrEntry)], obs.ffrS.lastAppend := some 900 , aont := 1000 }), by decide +kernel⟩
set_option maxRecDepth 20000 in
theorem wit_RecorderAndCheckValues_3 : ∃ s : State, (s.dev.ffrAbsorb 32).obs.ffrS.queue = (({ cls := 1, code := 2, stamp := 5, rank := 1, payload := [] } : FfrEntry)) :: (([] : List FfrEntry)) ∧ (s.dev.ffrAbsorb 32).obs.ffrS.lastAppend = none ∧ (({ (s.dev.ffrAbsorb 32) with obs.ffrS.queue := (([] : List FfrEntry)) }).is F.FFR_STATUS_FULL = true ∨ ((s.dev.ffrAbsorb 32).rd F.FFR_FILL_FILL16 + (16 + (({ cls := 1, code := 2, stamp := 5, rank := 1, payload := [] } : FfrEntry)).payload.length + 15) / 16) * 16 > 262144) := ⟨stOf (({ (({} : Dev)) with obs.ffrS.queue := [({ cls := 1, code := 2, stamp := 5, rank := 1, payload := [] } : FfrEntry)] }).wr F.FFR_STATUS_FULL 0 1), by decide +kernel⟩
set_option maxRecDepth 20000 in
theorem wit_RecorderAndCheckValues_4 : ∃ s : State, (s.dev.ffrAbsorb 32).obs.ffrS.queue = (({ cls := 1, code := 2, stamp := 5, rank := 1, payload := [] } : FfrEntry)) :: (([] : List FfrEntry)) ∧ (s.dev.ffrAbsorb 32).obs.ffrS.lastAppend = none ∧ ({ (s.dev.ffrAbsorb 32) with obs.ffrS.queue := (([] : List FfrEntry)) }).is F.FFR_STATUS_FULL = false ∧ ((s.dev.ffrAbsorb 32).rd F.FFR_FILL_FILL16 + (16 + (({ cls := 1, code := 2, stamp := 5, rank := 1, payload := [] } : FfrEntry)).payload.length + 15) / 16) * 16 ≤ 262144 := ⟨stOf ({ (({} : Dev)) with obs.ffrS.queue := [({ cls := 1, code := 2, stamp := 5, rank := 1, payload := [] } : FfrEntry)] }), by decide +kernel⟩
set_option maxRecDepth 20000 in
theorem wit_RecorderAndCheckValues_7 : ∃ s : State, s.dev.is F.FFR_CTRL_PAUSE = true ∧ s.dev.obs.ffrS.pausedAt + 1000000 ≤ s.dev.aont := ⟨stOf (({ (({} : Dev)) with aont := 1000000000 }).wr F.FFR_CTRL_PAUSE 0 1), by decide +kernel⟩
set_option maxRecDepth 20000 in
theorem wit_RecorderAndCheckValues_8 : ∃ s : State, ((0x5A96 : BitVec 16)).toNat = 0x5A96 ∧ s.dev.rd F.FFR_ARCH_FILL16 = s.dev.rd F.FFR_FILL_FILL16 ∧ (s.dev.obs.ffrS.lastAct.all fun t => decide (t / 40 ≠ s.dev.aont / 40)) = true := ⟨stOf (({} : Dev)), by decide +kernel⟩
set_option maxRecDepth 20000 in
theorem wit_RecorderAndCheckValues_9 : ∃ s : State, (((0 : BitVec 16)).toNat ≠ 0x5A96 ∨ s.dev.rd F.FFR_ARCH_FILL16 ≠ s.dev.rd F.FFR_FILL_FILL16) := ⟨stOf (({} : Dev)), by decide +kernel⟩

theorem wit_TileInstructionsNotIssuedOrIllegal_1 : (Instr.nop ({ t := 0, fa := 0, fb := 0, fd := 0, nctl := 0, mode := 0, dst := 0, srcA := 0, srcB := 0, srcC := 0, sa := 0, sb := 0, sc := 0, sd := 0, va := false, vb := false, vc := false } : TileOp)).tileOp = some ({ t := 0, fa := 0, fb := 0, fd := 0, nctl := 0, mode := 0, dst := 0, srcA := 0, srcB := 0, srcC := 0, sa := 0, sb := 0, sc := 0, sd := 0, va := false, vb := false, vc := false } : TileOp) ∧ (stOf {}).dev.canIssue 0 = false := by decide
set_option maxRecDepth 20000 in
theorem wit_TileInstructionsNotIssuedOrIllegal_2 : (stOf (({ ({} : Dev) with sysOn := true }).wrw (F.TILE_STATE_STATE.addr 0) 8197)).dev.canIssue 0 = true ∧ nctlOk 0 8 = false := by decide

set_option maxRecDepth 20000 in
theorem wit_TileSequencerAndAccumulators_0 : ∃ s : State, s.dev.canIssue (({ t := 0, fa := 0, fb := 0, fd := 0, nctl := 0, mode := 0, dst := 0, srcA := 0, srcB := 0, srcC := 0, sa := 0, sb := 0, sc := 0, sd := 0, va := false, vb := false, vc := false } : TileOp)).t.val = true ∧ nctlOk (({ t := 0, fa := 0, fb := 0, fd := 0, nctl := 0, mode := 0, dst := 0, srcA := 0, srcB := 0, srcC := 0, sa := 0, sb := 0, sc := 0, sd := 0, va := false, vb := false, vc := false } : TileOp)).fd.val (({ t := 0, fa := 0, fb := 0, fd := 0, nctl := 0, mode := 0, dst := 0, srcA := 0, srcB := 0, srcC := 0, sa := 0, sb := 0, sc := 0, sd := 0, va := false, vb := false, vc := false } : TileOp)).nctl.toNat = true := ⟨stOf (({ ({} : Dev) with sysOn := true }).wrw (F.TILE_STATE_STATE.addr 0) 8197), by decide +kernel⟩
set_option maxRecDepth 20000 in
theorem wit_TileSequencerAndAccumulators_1 : ∃ s : State, s.dev.canIssue (({ t := 0, fa := 0, fb := 0, fd := 0, nctl := 0, mode := 0, dst := 0, srcA := 0, srcB := 0, srcC := 0, sa := 0, sb := 0, sc := 0, sd := 0, va := false, vb := false, vc := false } : TileOp)).t.val = true ∧ nctlOk (({ t := 0, fa := 0, fb := 0, fd := 0, nctl := 0, mode := 0, dst := 0, srcA := 0, srcB := 0, srcC := 0, sa := 0, sb := 0, sc := 0, sd := 0, va := false, vb := false, vc := false } : TileOp)).fd.val (({ t := 0, fa := 0, fb := 0, fd := 0, nctl := 0, mode := 0, dst := 0, srcA := 0, srcB := 0, srcC := 0, sa := 0, sb := 0, sc := 0, sd := 0, va := false, vb := false, vc := false } : TileOp)).nctl.toNat = true := ⟨stOf (({ ({} : Dev) with sysOn := true }).wrw (F.TILE_STATE_STATE.addr 0) 8197), by decide +kernel⟩
set_option maxRecDepth 20000 in
theorem wit_TileSequencerAndAccumulators_2 : ∃ s : State, s.dev.canIssue (({ t := 0, fa := 0, fb := 0, fd := 0, nctl := 0, mode := 0, dst := 0, srcA := 0, srcB := 0, srcC := 0, sa := 0, sb := 0, sc := 0, sd := 0, va := false, vb := false, vc := false } : TileOp)).t.val = true ∧ nctlOk (({ t := 0, fa := 0, fb := 0, fd := 0, nctl := 0, mode := 0, dst := 0, srcA := 0, srcB := 0, srcC := 0, sa := 0, sb := 0, sc := 0, sd := 0, va := false, vb := false, vc := false } : TileOp)).fd.val (({ t := 0, fa := 0, fb := 0, fd := 0, nctl := 0, mode := 0, dst := 0, srcA := 0, srcB := 0, srcC := 0, sa := 0, sb := 0, sc := 0, sd := 0, va := false, vb := false, vc := false } : TileOp)).nctl.toNat = true := ⟨stOf (({ ({} : Dev) with sysOn := true }).wrw (F.TILE_STATE_STATE.addr 0) 8197), by decide +kernel⟩
set_option maxRecDepth 20000 in
theorem wit_TileSequencerAndAccumulators_3 : ∃ s : State, s.dev.canIssue (({ t := 0, fa := 0, fb := 0, fd := 0, nctl := 0, mode := 0, dst := 0, srcA := 0, srcB := 0, srcC := 0, sa := 0, sb := 0, sc := 0, sd := 0, va := false, vb := false, vc := false } : TileOp)).t.val = true ∧ nctlOk (({ t := 0, fa := 0, fb := 0, fd := 0, nctl := 0, mode := 0, dst := 0, srcA := 0, srcB := 0, srcC := 0, sa := 0, sb := 0, sc := 0, sd := 0, va := false, vb := false, vc := false } : TileOp)).fd.val (({ t := 0, fa := 0, fb := 0, fd := 0, nctl := 0, mode := 0, dst := 0, srcA := 0, srcB := 0, srcC := 0, sa := 0, sb := 0, sc := 0, sd := 0, va := false, vb := false, vc := false } : TileOp)).nctl.toNat = true := ⟨stOf (({ ({} : Dev) with sysOn := true }).wrw (F.TILE_STATE_STATE.addr 0) 8197), by decide +kernel⟩
set_option maxRecDepth 20000 in
theorem wit_TileSequencerAndAccumulators_4 : ∃ s : State, s.dev.canIssue (({ t := 0, fa := 0, fb := 0, fd := 0, nctl := 0, mode := 0, dst := 0, srcA := 0, srcB := 0, srcC := 0, sa := 0, sb := 0, sc := 0, sd := 0, va := false, vb := false, vc := false } : TileOp)).t.val = true ∧ nctlOk (({ t := 0, fa := 0, fb := 0, fd := 0, nctl := 0, mode := 0, dst := 0, srcA := 0, srcB := 0, srcC := 0, sa := 0, sb := 0, sc := 0, sd := 0, va := false, vb := false, vc := false } : TileOp)).fd.val (({ t := 0, fa := 0, fb := 0, fd := 0, nctl := 0, mode := 0, dst := 0, srcA := 0, srcB := 0, srcC := 0, sa := 0, sb := 0, sc := 0, sd := 0, va := false, vb := false, vc := false } : TileOp)).nctl.toNat = true := ⟨stOf (({ ({} : Dev) with sysOn := true }).wrw (F.TILE_STATE_STATE.addr 0) 8197), by decide +kernel⟩
set_option maxRecDepth 20000 in
theorem wit_TileSequencerAndAccumulators_5 : ∃ s : State, s.dev.canIssue (({ t := 0, fa := 0, fb := 0, fd := 0, nctl := 0, mode := 0, dst := 0, srcA := 0, srcB := 0, srcC := 0, sa := 0, sb := 0, sc := 0, sd := 0, va := false, vb := false, vc := false } : TileOp)).t.val = true ∧ nctlOk (({ t := 0, fa := 0, fb := 0, fd := 0, nctl := 0, mode := 0, dst := 0, srcA := 0, srcB := 0, srcC := 0, sa := 0, sb := 0, sc := 0, sd := 0, va := false, vb := false, vc := false } : TileOp)).fd.val (({ t := 0, fa := 0, fb := 0, fd := 0, nctl := 0, mode := 0, dst := 0, srcA := 0, srcB := 0, srcC := 0, sa := 0, sb := 0, sc := 0, sd := 0, va := false, vb := false, vc := false } : TileOp)).nctl.toNat = true := ⟨stOf (({ ({} : Dev) with sysOn := true }).wrw (F.TILE_STATE_STATE.addr 0) 8197), by decide +kernel⟩
set_option maxRecDepth 20000 in
theorem wit_TileSequencerAndAccumulators_6 : ∃ s : State, s.dev.canIssue (({ t := 0, fa := 0, fb := 0, fd := 0, nctl := 0, mode := 0, dst := 0, srcA := 0, srcB := 0, srcC := 0, sa := 0, sb := 0, sc := 0, sd := 0, va := false, vb := false, vc := false } : TileOp)).t.val = true ∧ nctlOk (({ t := 0, fa := 0, fb := 0, fd := 0, nctl := 0, mode := 0, dst := 0, srcA := 0, srcB := 0, srcC := 0, sa := 0, sb := 0, sc := 0, sd := 0, va := false, vb := false, vc := false } : TileOp)).fd.val (({ t := 0, fa := 0, fb := 0, fd := 0, nctl := 0, mode := 0, dst := 0, srcA := 0, srcB := 0, srcC := 0, sa := 0, sb := 0, sc := 0, sd := 0, va := false, vb := false, vc := false } : TileOp)).nctl.toNat = true := ⟨stOf (({ ({} : Dev) with sysOn := true }).wrw (F.TILE_STATE_STATE.addr 0) 8197), by decide +kernel⟩
set_option maxRecDepth 20000 in
theorem wit_TileSequencerAndAccumulators_7 : ∃ s : State, s.dev.canIssue (({ t := 0, fa := 0, fb := 0, fd := 0, nctl := 0, mode := 0, dst := 0, srcA := 0, srcB := 0, srcC := 0, sa := 0, sb := 0, sc := 0, sd := 0, va := false, vb := false, vc := false } : TileOp)).t.val = true ∧ nctlOk (({ t := 0, fa := 0, fb := 0, fd := 0, nctl := 0, mode := 0, dst := 0, srcA := 0, srcB := 0, srcC := 0, sa := 0, sb := 0, sc := 0, sd := 0, va := false, vb := false, vc := false } : TileOp)).fd.val (({ t := 0, fa := 0, fb := 0, fd := 0, nctl := 0, mode := 0, dst := 0, srcA := 0, srcB := 0, srcC := 0, sa := 0, sb := 0, sc := 0, sd := 0, va := false, vb := false, vc := false } : TileOp)).nctl.toNat = true := ⟨stOf (({ ({} : Dev) with sysOn := true }).wrw (F.TILE_STATE_STATE.addr 0) 8197), by decide +kernel⟩
set_option maxRecDepth 20000 in
theorem wit_TileSequencerAndAccumulators_8 : ∃ s : State, s.dev.canIssue (({ t := 0, fa := 0, fb := 0, fd := 0, nctl := 0, mode := 0, dst := 0, srcA := 0, srcB := 0, srcC := 0, sa := 0, sb := 0, sc := 0, sd := 0, va := false, vb := false, vc := false } : TileOp)).t.val = true ∧ nctlOk (({ t := 0, fa := 0, fb := 0, fd := 0, nctl := 0, mode := 0, dst := 0, srcA := 0, srcB := 0, srcC := 0, sa := 0, sb := 0, sc := 0, sd := 0, va := false, vb := false, vc := false } : TileOp)).fd.val (({ t := 0, fa := 0, fb := 0, fd := 0, nctl := 0, mode := 0, dst := 0, srcA := 0, srcB := 0, srcC := 0, sa := 0, sb := 0, sc := 0, sd := 0, va := false, vb := false, vc := false } : TileOp)).nctl.toNat = true := ⟨stOf (({ ({} : Dev) with sysOn := true }).wrw (F.TILE_STATE_STATE.addr 0) 8197), by decide +kernel⟩
set_option maxRecDepth 20000 in
theorem wit_TileSequencerAndAccumulators_9 : ∃ s : State, s.dev.canIssue (({ t := 0, fa := 0, fb := 0, fd := 0, nctl := 0, mode := 0, dst := 0, srcA := 0, srcB := 0, srcC := 0, sa := 0, sb := 0, sc := 0, sd := 0, va := false, vb := false, vc := false } : TileOp)).t.val = true ∧ nctlOk (({ t := 0, fa := 0, fb := 0, fd := 0, nctl := 0, mode := 0, dst := 0, srcA := 0, srcB := 0, srcC := 0, sa := 0, sb := 0, sc := 0, sd := 0, va := false, vb := false, vc := false } : TileOp)).fd.val (({ t := 0, fa := 0, fb := 0, fd := 0, nctl := 0, mode := 0, dst := 0, srcA := 0, srcB := 0, srcC := 0, sa := 0, sb := 0, sc := 0, sd := 0, va := false, vb := false, vc := false } : TileOp)).nctl.toNat = true ∧ mmaClass (({ t := 0, fa := 0, fb := 0, fd := 0, nctl := 0, mode := 0, dst := 0, srcA := 0, srcB := 0, srcC := 0, sa := 0, sb := 0, sc := 0, sd := 0, va := false, vb := false, vc := false } : TileOp)).fa.val (({ t := 0, fa := 0, fb := 0, fd := 0, nctl := 0, mode := 0, dst := 0, srcA := 0, srcB := 0, srcC := 0, sa := 0, sb := 0, sc := 0, sd := 0, va := false, vb := false, vc := false } : TileOp)).fb.val = some (0) ∧ ((s.dev.tl (({ t := 0, fa := 0, fb := 0, fd := 0, nctl := 0, mode := 0, dst := 0, srcA := 0, srcB := 0, srcC := 0, sa := 0, sb := 0, sc := 0, sd := 0, va := false, vb := false, vc := false } : TileOp)).t.val).k % 32 = 0 ∨ (0) ≠ 2) := ⟨stOf (({ ({} : Dev) with sysOn := true }).wrw (F.TILE_STATE_STATE.addr 0) 8197), by decide +kernel⟩
set_option maxRecDepth 20000 in
theorem wit_TileSequencerAndAccumulators_10 : ∃ s : State, s.dev.canIssue (({ t := 0, fa := 0, fb := 1, fd := 0, nctl := 0, mode := 0, dst := 0, srcA := 0, srcB := 0, srcC := 0, sa := 0, sb := 0, sc := 0, sd := 0, va := false, vb := false, vc := false } : TileOp)).t.val = true ∧ nctlOk (({ t := 0, fa := 0, fb := 1, fd := 0, nctl := 0, mode := 0, dst := 0, srcA := 0, srcB := 0, srcC := 0, sa := 0, sb := 0, sc := 0, sd := 0, va := false, vb := false, vc := false } : TileOp)).fd.val (({ t := 0, fa := 0, fb := 1, fd := 0, nctl := 0, mode := 0, dst := 0, srcA := 0, srcB := 0, srcC := 0, sa := 0, sb := 0, sc := 0, sd := 0, va := false, vb := false, vc := false } : TileOp)).nctl.toNat = true ∧ (mmaClass (({ t := 0, fa := 0, fb := 1, fd := 0, nctl := 0, mode := 0, dst := 0, srcA := 0, srcB := 0, srcC := 0, sa := 0, sb := 0, sc := 0, sd := 0, va := false, vb := false, vc := false } : TileOp)).fa.val (({ t := 0, fa := 0, fb := 1, fd := 0, nctl := 0, mode := 0, dst := 0, srcA := 0, srcB := 0, srcC := 0, sa := 0, sb := 0, sc := 0, sd := 0, va := false, vb := false, vc := false } : TileOp)).fb.val = none ∨ (mmaClass (({ t := 0, fa := 0, fb := 1, fd := 0, nctl := 0, mode := 0, dst := 0, srcA := 0, srcB := 0, srcC := 0, sa := 0, sb := 0, sc := 0, sd := 0, va := false, vb := false, vc := false } : TileOp)).fa.val (({ t := 0, fa := 0, fb := 1, fd := 0, nctl := 0, mode := 0, dst := 0, srcA := 0, srcB := 0, srcC := 0, sa := 0, sb := 0, sc := 0, sd := 0, va := false, vb := false, vc := false } : TileOp)).fb.val = some 2 ∧ (s.dev.tl (({ t := 0, fa := 0, fb := 1, fd := 0, nctl := 0, mode := 0, dst := 0, srcA := 0, srcB := 0, srcC := 0, sa := 0, sb := 0, sc := 0, sd := 0, va := false, vb := false, vc := false } : TileOp)).t.val).k % 32 ≠ 0)) := ⟨stOf (({ ({} : Dev) with sysOn := true }).wrw (F.TILE_STATE_STATE.addr 0) 8197), by decide +kernel⟩
set_option maxRecDepth 20000 in
theorem wit_TileSequencerAndAccumulators_11 : ∃ s : State, s.dev.canIssue (({ t := 0, fa := 0, fb := 0, fd := 0, nctl := 0, mode := 0, dst := 0, srcA := 0, srcB := 0, srcC := 0, sa := 0, sb := 0, sc := 0, sd := 0, va := false, vb := false, vc := false } : TileOp)).t.val = true ∧ nctlOk (({ t := 0, fa := 0, fb := 0, fd := 0, nctl := 0, mode := 0, dst := 0, srcA := 0, srcB := 0, srcC := 0, sa := 0, sb := 0, sc := 0, sd := 0, va := false, vb := false, vc := false } : TileOp)).fd.val (({ t := 0, fa := 0, fb := 0, fd := 0, nctl := 0, mode := 0, dst := 0, srcA := 0, srcB := 0, srcC := 0, sa := 0, sb := 0, sc := 0, sd := 0, va := false, vb := false, vc := false } : TileOp)).nctl.toNat = true := ⟨stOf (({ ({} : Dev) with sysOn := true }).wrw (F.TILE_STATE_STATE.addr 0) 8197), by decide +kernel⟩
set_option maxRecDepth 20000 in
theorem wit_TileSequencerAndAccumulators_12 : ∃ s : State, s.dev.canIssue (({ t := 0, fa := 0, fb := 0, fd := 0, nctl := 0, mode := 0, dst := 0, srcA := 0, srcB := 0, srcC := 0, sa := 0, sb := 0, sc := 0, sd := 0, va := false, vb := false, vc := false } : TileOp)).t.val = true ∧ nctlOk (({ t := 0, fa := 0, fb := 0, fd := 0, nctl := 0, mode := 0, dst := 0, srcA := 0, srcB := 0, srcC := 0, sa := 0, sb := 0, sc := 0, sd := 0, va := false, vb := false, vc := false } : TileOp)).fd.val (({ t := 0, fa := 0, fb := 0, fd := 0, nctl := 0, mode := 0, dst := 0, srcA := 0, srcB := 0, srcC := 0, sa := 0, sb := 0, sc := 0, sd := 0, va := false, vb := false, vc := false } : TileOp)).nctl.toNat = true := ⟨stOf (({ ({} : Dev) with sysOn := true }).wrw (F.TILE_STATE_STATE.addr 0) 8197), by decide +kernel⟩
set_option maxRecDepth 20000 in
theorem wit_TileSequencerAndAccumulators_13 : ∃ s : State, s.dev.canIssue (({ t := 0, fa := 0, fb := 0, fd := 0, nctl := 0, mode := 0, dst := 0, srcA := 0, srcB := 0, srcC := 0, sa := 0, sb := 0, sc := 0, sd := 0, va := false, vb := false, vc := false } : TileOp)).t.val = true := ⟨stOf (({ ({} : Dev) with sysOn := true }).wrw (F.TILE_STATE_STATE.addr 0) 8197), by decide +kernel⟩

set_option maxRecDepth 20000 in
theorem wit_TileVectorUnit_0 : ∃ s : State, s.dev.canIssue (({ t := 0, fa := 0, fb := 0, fd := 0, nctl := 0, mode := 0, dst := 0, srcA := 0, srcB := 0, srcC := 0, sa := 0, sb := 0, sc := 0, sd := 0, va := false, vb := false, vc := false } : TileOp)).t.val = true ∧ nctlOk (({ t := 0, fa := 0, fb := 0, fd := 0, nctl := 0, mode := 0, dst := 0, srcA := 0, srcB := 0, srcC := 0, sa := 0, sb := 0, sc := 0, sd := 0, va := false, vb := false, vc := false } : TileOp)).fd.val (({ t := 0, fa := 0, fb := 0, fd := 0, nctl := 0, mode := 0, dst := 0, srcA := 0, srcB := 0, srcC := 0, sa := 0, sb := 0, sc := 0, sd := 0, va := false, vb := false, vc := false } : TileOp)).nctl.toNat = true ∧ (!fmtInt (({ t := 0, fa := 0, fb := 0, fd := 0, nctl := 0, mode := 0, dst := 0, srcA := 0, srcB := 0, srcC := 0, sa := 0, sb := 0, sc := 0, sd := 0, va := false, vb := false, vc := false } : TileOp)).fa.val && (vecSrcs (VecOp.add) < 2 || !fmtInt (({ t := 0, fa := 0, fb := 0, fd := 0, nctl := 0, mode := 0, dst := 0, srcA := 0, srcB := 0, srcC := 0, sa := 0, sb := 0, sc := 0, sd := 0, va := false, vb := false, vc := false } : TileOp)).fb.val)) = true := ⟨stOf (({ ({} : Dev) with sysOn := true }).wrw (F.TILE_STATE_STATE.addr 0) 8197), by decide +kernel⟩
set_option maxRecDepth 20000 in
theorem wit_TileVectorUnit_1 : ∃ s : State, s.dev.canIssue (({ t := 0, fa := 14, fb := 0, fd := 0, nctl := 0, mode := 0, dst := 0, srcA := 0, srcB := 0, srcC := 0, sa := 0, sb := 0, sc := 0, sd := 0, va := false, vb := false, vc := false } : TileOp)).t.val = true ∧ (!fmtInt (({ t := 0, fa := 14, fb := 0, fd := 0, nctl := 0, mode := 0, dst := 0, srcA := 0, srcB := 0, srcC := 0, sa := 0, sb := 0, sc := 0, sd := 0, va := false, vb := false, vc := false } : TileOp)).fa.val && (vecSrcs (VecOp.add) < 2 || !fmtInt (({ t := 0, fa := 14, fb := 0, fd := 0, nctl := 0, mode := 0, dst := 0, srcA := 0, srcB := 0, srcC := 0, sa := 0, sb := 0, sc := 0, sd := 0, va := false, vb := false, vc := false } : TileOp)).fb.val)) = false := ⟨stOf (({ ({} : Dev) with sysOn := true }).wrw (F.TILE_STATE_STATE.addr 0) 8197), by decide +kernel⟩
set_option maxRecDepth 20000 in
theorem wit_TileVectorUnit_2 : ∃ s : State, s.dev.canIssue (({ t := 0, fa := 0, fb := 0, fd := 0, nctl := 0, mode := 0, dst := 0, srcA := 0, srcB := 0, srcC := 0, sa := 0, sb := 0, sc := 0, sd := 0, va := false, vb := false, vc := false } : TileOp)).t.val = true ∧ nctlOk (({ t := 0, fa := 0, fb := 0, fd := 0, nctl := 0, mode := 0, dst := 0, srcA := 0, srcB := 0, srcC := 0, sa := 0, sb := 0, sc := 0, sd := 0, va := false, vb := false, vc := false } : TileOp)).fd.val (({ t := 0, fa := 0, fb := 0, fd := 0, nctl := 0, mode := 0, dst := 0, srcA := 0, srcB := 0, srcC := 0, sa := 0, sb := 0, sc := 0, sd := 0, va := false, vb := false, vc := false } : TileOp)).nctl.toNat = true ∧ fmtInt (({ t := 0, fa := 0, fb := 0, fd := 0, nctl := 0, mode := 0, dst := 0, srcA := 0, srcB := 0, srcC := 0, sa := 0, sb := 0, sc := 0, sd := 0, va := false, vb := false, vc := false } : TileOp)).fa.val = false := ⟨stOf (({ ({} : Dev) with sysOn := true }).wrw (F.TILE_STATE_STATE.addr 0) 8197), by decide +kernel⟩
set_option maxRecDepth 20000 in
theorem wit_TileVectorUnit_3 : ∃ s : State, s.dev.canIssue (({ t := 0, fa := 0, fb := 0, fd := 0, nctl := 0, mode := 0, dst := 0, srcA := 0, srcB := 0, srcC := 0, sa := 0, sb := 0, sc := 0, sd := 0, va := false, vb := false, vc := false } : TileOp)).t.val = true ∧ nctlOk (({ t := 0, fa := 0, fb := 0, fd := 0, nctl := 0, mode := 0, dst := 0, srcA := 0, srcB := 0, srcC := 0, sa := 0, sb := 0, sc := 0, sd := 0, va := false, vb := false, vc := false } : TileOp)).fd.val (({ t := 0, fa := 0, fb := 0, fd := 0, nctl := 0, mode := 0, dst := 0, srcA := 0, srcB := 0, srcC := 0, sa := 0, sb := 0, sc := 0, sd := 0, va := false, vb := false, vc := false } : TileOp)).nctl.toNat = true ∧ fmtInt (({ t := 0, fa := 0, fb := 0, fd := 0, nctl := 0, mode := 0, dst := 0, srcA := 0, srcB := 0, srcC := 0, sa := 0, sb := 0, sc := 0, sd := 0, va := false, vb := false, vc := false } : TileOp)).fa.val = false ∧ fmtInt (({ t := 0, fa := 0, fb := 0, fd := 0, nctl := 0, mode := 0, dst := 0, srcA := 0, srcB := 0, srcC := 0, sa := 0, sb := 0, sc := 0, sd := 0, va := false, vb := false, vc := false } : TileOp)).fb.val = false := ⟨stOf (({ ({} : Dev) with sysOn := true }).wrw (F.TILE_STATE_STATE.addr 0) 8197), by decide +kernel⟩
set_option maxRecDepth 20000 in
theorem wit_TileVectorUnit_4 : ∃ s : State, s.dev.canIssue (({ t := 0, fa := 14, fb := 0, fd := 0, nctl := 0, mode := 0, dst := 0, srcA := 0, srcB := 0, srcC := 0, sa := 0, sb := 0, sc := 0, sd := 0, va := false, vb := false, vc := false } : TileOp)).t.val = true ∧ (!fmtInt (({ t := 0, fa := 14, fb := 0, fd := 0, nctl := 0, mode := 0, dst := 0, srcA := 0, srcB := 0, srcC := 0, sa := 0, sb := 0, sc := 0, sd := 0, va := false, vb := false, vc := false } : TileOp)).fa.val && ((true) || !fmtInt (({ t := 0, fa := 14, fb := 0, fd := 0, nctl := 0, mode := 0, dst := 0, srcA := 0, srcB := 0, srcC := 0, sa := 0, sb := 0, sc := 0, sd := 0, va := false, vb := false, vc := false } : TileOp)).fb.val)) = false := ⟨stOf (({ ({} : Dev) with sysOn := true }).wrw (F.TILE_STATE_STATE.addr 0) 8197), by decide +kernel⟩
set_option maxRecDepth 20000 in
theorem wit_TileVectorUnit_5 : ∃ s : State, s.dev.canIssue (({ t := 0, fa := 0, fb := 0, fd := 0, nctl := 0, mode := 0, dst := 0, srcA := 0, srcB := 0, srcC := 0, sa := 0, sb := 0, sc := 0, sd := 0, va := false, vb := false, vc := false } : TileOp)).t.val = true ∧ nctlOk (({ t := 0, fa := 0, fb := 0, fd := 0, nctl := 0, mode := 0, dst := 0, srcA := 0, srcB := 0, srcC := 0, sa := 0, sb := 0, sc := 0, sd := 0, va := false, vb := false, vc := false } : TileOp)).fd.val (({ t := 0, fa := 0, fb := 0, fd := 0, nctl := 0, mode := 0, dst := 0, srcA := 0, srcB := 0, srcC := 0, sa := 0, sb := 0, sc := 0, sd := 0, va := false, vb := false, vc := false } : TileOp)).nctl.toNat = true ∧ fmtInt (({ t := 0, fa := 0, fb := 0, fd := 0, nctl := 0, mode := 0, dst := 0, srcA := 0, srcB := 0, srcC := 0, sa := 0, sb := 0, sc := 0, sd := 0, va := false, vb := false, vc := false } : TileOp)).fa.val = false := ⟨stOf (({ ({} : Dev) with sysOn := true }).wrw (F.TILE_STATE_STATE.addr 0) 8197), by decide +kernel⟩
set_option maxRecDepth 20000 in
theorem wit_TileVectorUnit_6 : ∃ s : State, s.dev.canIssue (({ t := 0, fa := 14, fb := 0, fd := 0, nctl := 0, mode := 0, dst := 0, srcA := 0, srcB := 0, srcC := 0, sa := 0, sb := 0, sc := 0, sd := 0, va := false, vb := false, vc := false } : TileOp)).t.val = true ∧ (!fmtInt (({ t := 0, fa := 14, fb := 0, fd := 0, nctl := 0, mode := 0, dst := 0, srcA := 0, srcB := 0, srcC := 0, sa := 0, sb := 0, sc := 0, sd := 0, va := false, vb := false, vc := false } : TileOp)).fa.val) = false := ⟨stOf (({ ({} : Dev) with sysOn := true }).wrw (F.TILE_STATE_STATE.addr 0) 8197), by decide +kernel⟩
set_option maxRecDepth 20000 in
theorem wit_TileVectorUnit_7 : ∃ s : State, s.dev.canIssue (({ t := 0, fa := 14, fb := 14, fd := 0, nctl := 0, mode := 0, dst := 0, srcA := 0, srcB := 0, srcC := 0, sa := 0, sb := 0, sc := 0, sd := 0, va := false, vb := false, vc := false } : TileOp)).t.val = true ∧ nctlOk (({ t := 0, fa := 14, fb := 14, fd := 0, nctl := 0, mode := 0, dst := 0, srcA := 0, srcB := 0, srcC := 0, sa := 0, sb := 0, sc := 0, sd := 0, va := false, vb := false, vc := false } : TileOp)).fd.val (({ t := 0, fa := 14, fb := 14, fd := 0, nctl := 0, mode := 0, dst := 0, srcA := 0, srcB := 0, srcC := 0, sa := 0, sb := 0, sc := 0, sd := 0, va := false, vb := false, vc := false } : TileOp)).nctl.toNat = true ∧ (fmtInt (({ t := 0, fa := 14, fb := 14, fd := 0, nctl := 0, mode := 0, dst := 0, srcA := 0, srcB := 0, srcC := 0, sa := 0, sb := 0, sc := 0, sd := 0, va := false, vb := false, vc := false } : TileOp)).fa.val && fmtInt (({ t := 0, fa := 14, fb := 14, fd := 0, nctl := 0, mode := 0, dst := 0, srcA := 0, srcB := 0, srcC := 0, sa := 0, sb := 0, sc := 0, sd := 0, va := false, vb := false, vc := false } : TileOp)).fb.val) = true := ⟨stOf (({ ({} : Dev) with sysOn := true }).wrw (F.TILE_STATE_STATE.addr 0) 8197), by decide +kernel⟩
set_option maxRecDepth 20000 in
theorem wit_TileVectorUnit_8 : ∃ s : State, s.dev.canIssue (({ t := 0, fa := 0, fb := 0, fd := 0, nctl := 0, mode := 0, dst := 0, srcA := 0, srcB := 0, srcC := 0, sa := 0, sb := 0, sc := 0, sd := 0, va := false, vb := false, vc := false } : TileOp)).t.val = true ∧ (fmtInt (({ t := 0, fa := 0, fb := 0, fd := 0, nctl := 0, mode := 0, dst := 0, srcA := 0, srcB := 0, srcC := 0, sa := 0, sb := 0, sc := 0, sd := 0, va := false, vb := false, vc := false } : TileOp)).fa.val && fmtInt (({ t := 0, fa := 0, fb := 0, fd := 0, nctl := 0, mode := 0, dst := 0, srcA := 0, srcB := 0, srcC := 0, sa := 0, sb := 0, sc := 0, sd := 0, va := false, vb := false, vc := false } : TileOp)).fb.val) = false := ⟨stOf (({ ({} : Dev) with sysOn := true }).wrw (F.TILE_STATE_STATE.addr 0) 8197), by decide +kernel⟩
set_option maxRecDepth 20000 in
theorem wit_TileVectorUnit_9 : ∃ s : State, s.dev.canIssue (({ t := 0, fa := 0, fb := 0, fd := 0, nctl := 0, mode := 0, dst := 0, srcA := 0, srcB := 0, srcC := 0, sa := 0, sb := 0, sc := 0, sd := 0, va := false, vb := false, vc := false } : TileOp)).t.val = true ∧ nctlOk (({ t := 0, fa := 0, fb := 0, fd := 0, nctl := 0, mode := 0, dst := 0, srcA := 0, srcB := 0, srcC := 0, sa := 0, sb := 0, sc := 0, sd := 0, va := false, vb := false, vc := false } : TileOp)).fd.val (({ t := 0, fa := 0, fb := 0, fd := 0, nctl := 0, mode := 0, dst := 0, srcA := 0, srcB := 0, srcC := 0, sa := 0, sb := 0, sc := 0, sd := 0, va := false, vb := false, vc := false } : TileOp)).nctl.toNat = true := ⟨stOf (({ ({} : Dev) with sysOn := true }).wrw (F.TILE_STATE_STATE.addr 0) 8197), by decide +kernel⟩
set_option maxRecDepth 20000 in
theorem wit_TileVectorUnit_10 : ∃ s : State, s.dev.canIssue (({ t := 0, fa := 0, fb := 0, fd := 0, nctl := 0, mode := 0, dst := 0, srcA := 0, srcB := 0, srcC := 0, sa := 0, sb := 0, sc := 0, sd := 0, va := false, vb := false, vc := false } : TileOp)).t.val = true ∧ nctlOk (({ t := 0, fa := 0, fb := 0, fd := 0, nctl := 0, mode := 0, dst := 0, srcA := 0, srcB := 0, srcC := 0, sa := 0, sb := 0, sc := 0, sd := 0, va := false, vb := false, vc := false } : TileOp)).fd.val (({ t := 0, fa := 0, fb := 0, fd := 0, nctl := 0, mode := 0, dst := 0, srcA := 0, srcB := 0, srcC := 0, sa := 0, sb := 0, sc := 0, sd := 0, va := false, vb := false, vc := false } : TileOp)).nctl.toNat = true := ⟨stOf (({ ({} : Dev) with sysOn := true }).wrw (F.TILE_STATE_STATE.addr 0) 8197), by decide +kernel⟩
set_option maxRecDepth 20000 in
theorem wit_TileVectorUnit_11 : ∃ s : State, s.dev.canIssue (({ t := 0, fa := 0, fb := 14, fd := 0, nctl := 0, mode := 0, dst := 0, srcA := 0, srcB := 0, srcC := 0, sa := 0, sb := 0, sc := 0, sd := 0, va := false, vb := false, vc := false } : TileOp)).t.val = true ∧ nctlOk (({ t := 0, fa := 0, fb := 14, fd := 0, nctl := 0, mode := 0, dst := 0, srcA := 0, srcB := 0, srcC := 0, sa := 0, sb := 0, sc := 0, sd := 0, va := false, vb := false, vc := false } : TileOp)).fd.val (({ t := 0, fa := 0, fb := 14, fd := 0, nctl := 0, mode := 0, dst := 0, srcA := 0, srcB := 0, srcC := 0, sa := 0, sb := 0, sc := 0, sd := 0, va := false, vb := false, vc := false } : TileOp)).nctl.toNat = true ∧ fmtInt (({ t := 0, fa := 0, fb := 14, fd := 0, nctl := 0, mode := 0, dst := 0, srcA := 0, srcB := 0, srcC := 0, sa := 0, sb := 0, sc := 0, sd := 0, va := false, vb := false, vc := false } : TileOp)).fb.val = true := ⟨stOf (({ ({} : Dev) with sysOn := true }).wrw (F.TILE_STATE_STATE.addr 0) 8197), by decide +kernel⟩
set_option maxRecDepth 20000 in
theorem wit_TileVectorUnit_12 : ∃ s : State, s.dev.canIssue (({ t := 0, fa := 0, fb := 0, fd := 0, nctl := 0, mode := 0, dst := 0, srcA := 0, srcB := 0, srcC := 0, sa := 0, sb := 0, sc := 0, sd := 0, va := false, vb := false, vc := false } : TileOp)).t.val = true ∧ (fmtInt (({ t := 0, fa := 0, fb := 0, fd := 0, nctl := 0, mode := 0, dst := 0, srcA := 0, srcB := 0, srcC := 0, sa := 0, sb := 0, sc := 0, sd := 0, va := false, vb := false, vc := false } : TileOp)).fb.val) = false := ⟨stOf (({ ({} : Dev) with sysOn := true }).wrw (F.TILE_STATE_STATE.addr 0) 8197), by decide +kernel⟩
set_option maxRecDepth 20000 in
theorem wit_TileVectorUnit_13 : ∃ s : State, s.dev.canIssue (({ t := 0, fa := 0, fb := 14, fd := 0, nctl := 0, mode := 0, dst := 0, srcA := 0, srcB := 0, srcC := 0, sa := 0, sb := 0, sc := 0, sd := 0, va := false, vb := false, vc := false } : TileOp)).t.val = true ∧ nctlOk (({ t := 0, fa := 0, fb := 14, fd := 0, nctl := 0, mode := 0, dst := 0, srcA := 0, srcB := 0, srcC := 0, sa := 0, sb := 0, sc := 0, sd := 0, va := false, vb := false, vc := false } : TileOp)).fd.val (({ t := 0, fa := 0, fb := 14, fd := 0, nctl := 0, mode := 0, dst := 0, srcA := 0, srcB := 0, srcC := 0, sa := 0, sb := 0, sc := 0, sd := 0, va := false, vb := false, vc := false } : TileOp)).nctl.toNat = true ∧ (fmtInt (({ t := 0, fa := 0, fb := 14, fd := 0, nctl := 0, mode := 0, dst := 0, srcA := 0, srcB := 0, srcC := 0, sa := 0, sb := 0, sc := 0, sd := 0, va := false, vb := false, vc := false } : TileOp)).fb.val && !fmtMX (({ t := 0, fa := 0, fb := 14, fd := 0, nctl := 0, mode := 0, dst := 0, srcA := 0, srcB := 0, srcC := 0, sa := 0, sb := 0, sc := 0, sd := 0, va := false, vb := false, vc := false } : TileOp)).fd.val) = true := ⟨stOf (({ ({} : Dev) with sysOn := true }).wrw (F.TILE_STATE_STATE.addr 0) 8197), by decide +kernel⟩
set_option maxRecDepth 20000 in
theorem wit_TileVectorUnit_14 : ∃ s : State, s.dev.canIssue (({ t := 0, fa := 0, fb := 0, fd := 0, nctl := 0, mode := 0, dst := 0, srcA := 0, srcB := 0, srcC := 0, sa := 0, sb := 0, sc := 0, sd := 0, va := false, vb := false, vc := false } : TileOp)).t.val = true ∧ (fmtInt (({ t := 0, fa := 0, fb := 0, fd := 0, nctl := 0, mode := 0, dst := 0, srcA := 0, srcB := 0, srcC := 0, sa := 0, sb := 0, sc := 0, sd := 0, va := false, vb := false, vc := false } : TileOp)).fb.val && !fmtMX (({ t := 0, fa := 0, fb := 0, fd := 0, nctl := 0, mode := 0, dst := 0, srcA := 0, srcB := 0, srcC := 0, sa := 0, sb := 0, sc := 0, sd := 0, va := false, vb := false, vc := false } : TileOp)).fd.val) = false := ⟨stOf (({ ({} : Dev) with sysOn := true }).wrw (F.TILE_STATE_STATE.addr 0) 8197), by decide +kernel⟩

set_option maxRecDepth 20000 in
theorem wit_TileTreeEngineAndTransfers_0 : ∃ s : State, s.dev.canIssue (({ t := 0, fa := 0, fb := 0, fd := 0, nctl := 0, mode := 0, dst := 0, srcA := 0, srcB := 0, srcC := 0, sa := 0, sb := 0, sc := 0, sd := 0, va := false, vb := false, vc := false } : TileOp)).t.val = true ∧ nctlOk (({ t := 0, fa := 0, fb := 0, fd := 0, nctl := 0, mode := 0, dst := 0, srcA := 0, srcB := 0, srcC := 0, sa := 0, sb := 0, sc := 0, sd := 0, va := false, vb := false, vc := false } : TileOp)).fd.val (({ t := 0, fa := 0, fb := 0, fd := 0, nctl := 0, mode := 0, dst := 0, srcA := 0, srcB := 0, srcC := 0, sa := 0, sb := 0, sc := 0, sd := 0, va := false, vb := false, vc := false } : TileOp)).nctl.toNat = true := ⟨stOf (({ ({} : Dev) with sysOn := true }).wrw (F.TILE_STATE_STATE.addr 0) 8197), by decide +kernel⟩
set_option maxRecDepth 20000 in
theorem wit_TileTreeEngineAndTransfers_1 : ∃ s : State, s.dev.canIssue (({ t := 0, fa := 0, fb := 0, fd := 0, nctl := 0, mode := 0, dst := 0, srcA := 0, srcB := 0, srcC := 0, sa := 0, sb := 0, sc := 0, sd := 0, va := false, vb := false, vc := false } : TileOp)).t.val = true ∧ nctlOk (({ t := 0, fa := 0, fb := 0, fd := 0, nctl := 0, mode := 0, dst := 0, srcA := 0, srcB := 0, srcC := 0, sa := 0, sb := 0, sc := 0, sd := 0, va := false, vb := false, vc := false } : TileOp)).fd.val (({ t := 0, fa := 0, fb := 0, fd := 0, nctl := 0, mode := 0, dst := 0, srcA := 0, srcB := 0, srcC := 0, sa := 0, sb := 0, sc := 0, sd := 0, va := false, vb := false, vc := false } : TileOp)).nctl.toNat = true ∧ (({ t := 0, fa := 0, fb := 0, fd := 0, nctl := 0, mode := 0, dst := 0, srcA := 0, srcB := 0, srcC := 0, sa := 0, sb := 0, sc := 0, sd := 0, va := false, vb := false, vc := false } : TileOp)).fa = 0 ∧ (s.dev.tl (({ t := 0, fa := 0, fb := 0, fd := 0, nctl := 0, mode := 0, dst := 0, srcA := 0, srcB := 0, srcC := 0, sa := 0, sb := 0, sc := 0, sd := 0, va := false, vb := false, vc := false } : TileOp)).t.val).ens = none := ⟨stOf (({ ({} : Dev) with sysOn := true }).wrw (F.TILE_STATE_STATE.addr 0) 8197), by decide +kernel⟩
set_option maxRecDepth 20000 in
theorem wit_TileTreeEngineAndTransfers_2 : ∃ s : State, s.dev.canIssue (({ t := 0, fa := 0, fb := 0, fd := 0, nctl := 0, mode := 0, dst := 0, srcA := 0, srcB := 0, srcC := 0, sa := 0, sb := 0, sc := 0, sd := 0, va := false, vb := false, vc := false } : TileOp)).t.val = true ∧ nctlOk (({ t := 0, fa := 0, fb := 0, fd := 0, nctl := 0, mode := 0, dst := 0, srcA := 0, srcB := 0, srcC := 0, sa := 0, sb := 0, sc := 0, sd := 0, va := false, vb := false, vc := false } : TileOp)).fd.val (({ t := 0, fa := 0, fb := 0, fd := 0, nctl := 0, mode := 0, dst := 0, srcA := 0, srcB := 0, srcC := 0, sa := 0, sb := 0, sc := 0, sd := 0, va := false, vb := false, vc := false } : TileOp)).nctl.toNat = true ∧ (({ t := 0, fa := 0, fb := 0, fd := 0, nctl := 0, mode := 0, dst := 0, srcA := 0, srcB := 0, srcC := 0, sa := 0, sb := 0, sc := 0, sd := 0, va := false, vb := false, vc := false } : TileOp)).fa = 0 ∧ (s.dev.tl (({ t := 0, fa := 0, fb := 0, fd := 0, nctl := 0, mode := 0, dst := 0, srcA := 0, srcB := 0, srcC := 0, sa := 0, sb := 0, sc := 0, sd := 0, va := false, vb := false, vc := false } : TileOp)).t.val).ens = some (({ nodes := 0, leaves := 0, base := 0, trees := [] } : Ensemble)) := ⟨stOf ((({ ({} : Dev) with sysOn := true }).wrw (F.TILE_STATE_STATE.addr 0) 8197).tlMod 0 fun x => { x with ens := some ({ nodes := 0, leaves := 0, base := 0, trees := [] } : Ensemble) }), by decide +kernel⟩
set_option maxRecDepth 20000 in
theorem wit_TileTreeEngineAndTransfers_3 : ∃ s : State, s.dev.canIssue (({ t := 0, fa := 1, fb := 0, fd := 0, nctl := 0, mode := 0, dst := 0, srcA := 0, srcB := 0, srcC := 0, sa := 0, sb := 0, sc := 0, sd := 0, va := false, vb := false, vc := false } : TileOp)).t.val = true ∧ (({ t := 0, fa := 1, fb := 0, fd := 0, nctl := 0, mode := 0, dst := 0, srcA := 0, srcB := 0, srcC := 0, sa := 0, sb := 0, sc := 0, sd := 0, va := false, vb := false, vc := false } : TileOp)).fa ≠ 0 := ⟨stOf (({ ({} : Dev) with sysOn := true }).wrw (F.TILE_STATE_STATE.addr 0) 8197), by decide +kernel⟩
set_option maxRecDepth 20000 in
theorem wit_TileTreeEngineAndTransfers_4 : ∃ s : State, s.dev.canIssue (({ t := 0, fa := 0, fb := 0, fd := 0, nctl := 0, mode := 0, dst := 0, srcA := 0, srcB := 0, srcC := 0, sa := 0, sb := 0, sc := 0, sd := 0, va := false, vb := false, vc := false } : TileOp)).t.val = true ∧ nctlOk (({ t := 0, fa := 0, fb := 0, fd := 0, nctl := 0, mode := 0, dst := 0, srcA := 0, srcB := 0, srcC := 0, sa := 0, sb := 0, sc := 0, sd := 0, va := false, vb := false, vc := false } : TileOp)).fd.val (({ t := 0, fa := 0, fb := 0, fd := 0, nctl := 0, mode := 0, dst := 0, srcA := 0, srcB := 0, srcC := 0, sa := 0, sb := 0, sc := 0, sd := 0, va := false, vb := false, vc := false } : TileOp)).nctl.toNat = true ∧ s.dev.slotOf (({ t := 0, fa := 0, fb := 0, fd := 0, nctl := 0, mode := 0, dst := 0, srcA := 0, srcB := 0, srcC := 0, sa := 0, sb := 0, sc := 0, sd := 0, va := false, vb := false, vc := false } : TileOp)).t.val = some (0) ∧ (s.dev.dmaPlace (({ t := 0, fa := 0, fb := 0, fd := 0, nctl := 0, mode := 0, dst := 0, srcA := 0, srcB := 0, srcC := 0, sa := 0, sb := 0, sc := 0, sd := 0, va := false, vb := false, vc := false } : TileOp)).t.val (0) ((16 : BitVec 35)).toNat ((8 : Word)).toNat).isSome = true ∧ (s.dev.dmaPlace (({ t := 0, fa := 0, fb := 0, fd := 0, nctl := 0, mode := 0, dst := 0, srcA := 0, srcB := 0, srcC := 0, sa := 0, sb := 0, sc := 0, sd := 0, va := false, vb := false, vc := false } : TileOp)).t.val (0) ((0 : BitVec 35)).toNat ((8 : Word)).toNat).isSome = true := ⟨stOf (({ ({} : Dev) with sysOn := true }).wrw (F.TILE_STATE_STATE.addr 0) 8197), by decide +kernel⟩
set_option maxRecDepth 20000 in
theorem wit_TileTreeEngineAndTransfers_5 : ∃ s : State, s.dev.canIssue (({ t := 0, fa := 0, fb := 0, fd := 0, nctl := 0, mode := 0, dst := 0, srcA := 0, srcB := 0, srcC := 0, sa := 0, sb := 0, sc := 0, sd := 0, va := false, vb := false, vc := false } : TileOp)).t.val = true ∧ nctlOk (({ t := 0, fa := 0, fb := 0, fd := 0, nctl := 0, mode := 0, dst := 0, srcA := 0, srcB := 0, srcC := 0, sa := 0, sb := 0, sc := 0, sd := 0, va := false, vb := false, vc := false } : TileOp)).fd.val (({ t := 0, fa := 0, fb := 0, fd := 0, nctl := 0, mode := 0, dst := 0, srcA := 0, srcB := 0, srcC := 0, sa := 0, sb := 0, sc := 0, sd := 0, va := false, vb := false, vc := false } : TileOp)).nctl.toNat = true ∧ s.dev.slotOf (({ t := 0, fa := 0, fb := 0, fd := 0, nctl := 0, mode := 0, dst := 0, srcA := 0, srcB := 0, srcC := 0, sa := 0, sb := 0, sc := 0, sd := 0, va := false, vb := false, vc := false } : TileOp)).t.val = some (0) ∧ ((s.dev.dmaPlace (({ t := 0, fa := 0, fb := 0, fd := 0, nctl := 0, mode := 0, dst := 0, srcA := 0, srcB := 0, srcC := 0, sa := 0, sb := 0, sc := 0, sd := 0, va := false, vb := false, vc := false } : TileOp)).t.val (0) ((16 : BitVec 35)).toNat ((8 : Word)).toNat).isSome = false ∨ (s.dev.dmaPlace (({ t := 0, fa := 0, fb := 0, fd := 0, nctl := 0, mode := 0, dst := 0, srcA := 0, srcB := 0, srcC := 0, sa := 0, sb := 0, sc := 0, sd := 0, va := false, vb := false, vc := false } : TileOp)).t.val (0) ((0x7FFFFFFF : BitVec 35)).toNat ((8 : Word)).toNat).isSome = false) := ⟨stOf (({ ({} : Dev) with sysOn := true }).wrw (F.TILE_STATE_STATE.addr 0) 8197), by decide +kernel⟩
set_option maxRecDepth 20000 in
theorem wit_TileTreeEngineAndTransfers_6 : ∃ s : State, s.dev.canIssue (({ t := 0, fa := 0, fb := 0, fd := 0, nctl := 0, mode := 0, dst := 0, srcA := 0, srcB := 0, srcC := 0, sa := 0, sb := 0, sc := 0, sd := 0, va := false, vb := false, vc := false } : TileOp)).t.val = true ∧ nctlOk (({ t := 0, fa := 0, fb := 0, fd := 0, nctl := 0, mode := 0, dst := 0, srcA := 0, srcB := 0, srcC := 0, sa := 0, sb := 0, sc := 0, sd := 0, va := false, vb := false, vc := false } : TileOp)).fd.val (({ t := 0, fa := 0, fb := 0, fd := 0, nctl := 0, mode := 0, dst := 0, srcA := 0, srcB := 0, srcC := 0, sa := 0, sb := 0, sc := 0, sd := 0, va := false, vb := false, vc := false } : TileOp)).nctl.toNat = true ∧ s.dev.slotOf (({ t := 0, fa := 0, fb := 0, fd := 0, nctl := 0, mode := 0, dst := 0, srcA := 0, srcB := 0, srcC := 0, sa := 0, sb := 0, sc := 0, sd := 0, va := false, vb := false, vc := false } : TileOp)).t.val = some (0) ∧ ((List.range ((2 : BitVec 16)).toNat).all fun r => (s.dev.dmaPlace (({ t := 0, fa := 0, fb := 0, fd := 0, nctl := 0, mode := 0, dst := 0, srcA := 0, srcB := 0, srcC := 0, sa := 0, sb := 0, sc := 0, sd := 0, va := false, vb := false, vc := false } : TileOp)).t.val (0) (((64 : BitVec 35)).toNat + r * ((8 : Word)).toNat) ((8 : Word)).toNat).isSome && (s.dev.dmaPlace (({ t := 0, fa := 0, fb := 0, fd := 0, nctl := 0, mode := 0, dst := 0, srcA := 0, srcB := 0, srcC := 0, sa := 0, sb := 0, sc := 0, sd := 0, va := false, vb := false, vc := false } : TileOp)).t.val (0) (((0 : BitVec 35)).toNat + r * ((8 : Word)).toNat) ((8 : Word)).toNat).isSome) = true := ⟨stOf (({ ({} : Dev) with sysOn := true }).wrw (F.TILE_STATE_STATE.addr 0) 8197), by decide +kernel⟩
set_option maxRecDepth 20000 in
theorem wit_TileTreeEngineAndTransfers_7 : ∃ s : State, s.dev.canIssue (({ t := 0, fa := 0, fb := 0, fd := 0, nctl := 0, mode := 0, dst := 0, srcA := 0, srcB := 0, srcC := 0, sa := 0, sb := 0, sc := 0, sd := 0, va := false, vb := false, vc := false } : TileOp)).t.val = true ∧ nctlOk (({ t := 0, fa := 0, fb := 0, fd := 0, nctl := 0, mode := 0, dst := 0, srcA := 0, srcB := 0, srcC := 0, sa := 0, sb := 0, sc := 0, sd := 0, va := false, vb := false, vc := false } : TileOp)).fd.val (({ t := 0, fa := 0, fb := 0, fd := 0, nctl := 0, mode := 0, dst := 0, srcA := 0, srcB := 0, srcC := 0, sa := 0, sb := 0, sc := 0, sd := 0, va := false, vb := false, vc := false } : TileOp)).nctl.toNat = true ∧ s.dev.slotOf (({ t := 0, fa := 0, fb := 0, fd := 0, nctl := 0, mode := 0, dst := 0, srcA := 0, srcB := 0, srcC := 0, sa := 0, sb := 0, sc := 0, sd := 0, va := false, vb := false, vc := false } : TileOp)).t.val = some (0) ∧ ((List.range ((2 : BitVec 16)).toNat).all fun r => (s.dev.dmaPlace (({ t := 0, fa := 0, fb := 0, fd := 0, nctl := 0, mode := 0, dst := 0, srcA := 0, srcB := 0, srcC := 0, sa := 0, sb := 0, sc := 0, sd := 0, va := false, vb := false, vc := false } : TileOp)).t.val (0) (((64 : BitVec 35)).toNat + r * ((8 : Word)).toNat) ((8 : Word)).toNat).isSome && (s.dev.dmaPlace (({ t := 0, fa := 0, fb := 0, fd := 0, nctl := 0, mode := 0, dst := 0, srcA := 0, srcB := 0, srcC := 0, sa := 0, sb := 0, sc := 0, sd := 0, va := false, vb := false, vc := false } : TileOp)).t.val (0) (((0x7FFFFFFF : BitVec 35)).toNat + r * ((8 : Word)).toNat) ((8 : Word)).toNat).isSome) = false := ⟨stOf (({ ({} : Dev) with sysOn := true }).wrw (F.TILE_STATE_STATE.addr 0) 8197), by decide +kernel⟩
set_option maxRecDepth 20000 in
theorem wit_TileTreeEngineAndTransfers_8 : ∃ s : State, s.dev.canIssue (({ t := 0, fa := 0, fb := 0, fd := 0, nctl := 0, mode := 0, dst := 0, srcA := 0, srcB := 0, srcC := 0, sa := 0, sb := 0, sc := 0, sd := 0, va := false, vb := false, vc := false } : TileOp)).t.val = true ∧ nctlOk (({ t := 0, fa := 0, fb := 0, fd := 0, nctl := 0, mode := 0, dst := 0, srcA := 0, srcB := 0, srcC := 0, sa := 0, sb := 0, sc := 0, sd := 0, va := false, vb := false, vc := false } : TileOp)).fd.val (({ t := 0, fa := 0, fb := 0, fd := 0, nctl := 0, mode := 0, dst := 0, srcA := 0, srcB := 0, srcC := 0, sa := 0, sb := 0, sc := 0, sd := 0, va := false, vb := false, vc := false } : TileOp)).nctl.toNat = true ∧ s.dev.slotOf (({ t := 0, fa := 0, fb := 0, fd := 0, nctl := 0, mode := 0, dst := 0, srcA := 0, srcB := 0, srcC := 0, sa := 0, sb := 0, sc := 0, sd := 0, va := false, vb := false, vc := false } : TileOp)).t.val = some (0) ∧ s.dev.logical (0) ((0 : Fin 64)).val = some (0) := ⟨stOf (({ ({} : Dev) with sysOn := true }).wrw (F.TILE_STATE_STATE.addr 0) 8197), by decide +kernel⟩
set_option maxRecDepth 20000 in
theorem wit_TileTreeEngineAndTransfers_9 : ∃ s : State, s.dev.canIssue (({ t := 0, fa := 0, fb := 0, fd := 0, nctl := 0, mode := 0, dst := 0, srcA := 0, srcB := 0, srcC := 0, sa := 0, sb := 0, sc := 0, sd := 0, va := false, vb := false, vc := false } : TileOp)).t.val = true ∧ nctlOk (({ t := 0, fa := 0, fb := 0, fd := 0, nctl := 0, mode := 0, dst := 0, srcA := 0, srcB := 0, srcC := 0, sa := 0, sb := 0, sc := 0, sd := 0, va := false, vb := false, vc := false } : TileOp)).fd.val (({ t := 0, fa := 0, fb := 0, fd := 0, nctl := 0, mode := 0, dst := 0, srcA := 0, srcB := 0, srcC := 0, sa := 0, sb := 0, sc := 0, sd := 0, va := false, vb := false, vc := false } : TileOp)).nctl.toNat = true ∧ s.dev.slotOf (({ t := 0, fa := 0, fb := 0, fd := 0, nctl := 0, mode := 0, dst := 0, srcA := 0, srcB := 0, srcC := 0, sa := 0, sb := 0, sc := 0, sd := 0, va := false, vb := false, vc := false } : TileOp)).t.val = some (0) ∧ s.dev.logical (0) ((5 : Fin 64)).val = none := ⟨stOf (({ ({} : Dev) with sysOn := true }).wrw (F.TILE_STATE_STATE.addr 0) 8197), by decide +kernel⟩
set_option maxRecDepth 20000 in
theorem wit_TileTreeEngineAndTransfers_10 : ∃ s : State, s.dev.canIssue (({ t := 0, fa := 0, fb := 0, fd := 0, nctl := 0, mode := 0, dst := 0, srcA := 0, srcB := 0, srcC := 0, sa := 0, sb := 0, sc := 0, sd := 0, va := false, vb := false, vc := false } : TileOp)).t.val = true ∧ nctlOk (({ t := 0, fa := 0, fb := 0, fd := 0, nctl := 0, mode := 0, dst := 0, srcA := 0, srcB := 0, srcC := 0, sa := 0, sb := 0, sc := 0, sd := 0, va := false, vb := false, vc := false } : TileOp)).fd.val (({ t := 0, fa := 0, fb := 0, fd := 0, nctl := 0, mode := 0, dst := 0, srcA := 0, srcB := 0, srcC := 0, sa := 0, sb := 0, sc := 0, sd := 0, va := false, vb := false, vc := false } : TileOp)).nctl.toNat = true ∧ (s.dev.tl (({ t := 0, fa := 0, fb := 0, fd := 0, nctl := 0, mode := 0, dst := 0, srcA := 0, srcB := 0, srcC := 0, sa := 0, sb := 0, sc := 0, sd := 0, va := false, vb := false, vc := false } : TileOp)).t.val).sig ≠ 0 := ⟨stOf ((({ ({} : Dev) with sysOn := true }).wrw (F.TILE_STATE_STATE.addr 0) 8197).tlMod 0 fun x => { x with sig := 1 }), by decide +kernel⟩
set_option maxRecDepth 20000 in
theorem wit_TileTreeEngineAndTransfers_11 : ∃ s : State, s.dev.canIssue (({ t := 0, fa := 0, fb := 0, fd := 0, nctl := 0, mode := 0, dst := 0, srcA := 0, srcB := 0, srcC := 0, sa := 0, sb := 0, sc := 0, sd := 0, va := false, vb := false, vc := false } : TileOp)).t.val = true ∧ nctlOk (({ t := 0, fa := 0, fb := 0, fd := 0, nctl := 0, mode := 0, dst := 0, srcA := 0, srcB := 0, srcC := 0, sa := 0, sb := 0, sc := 0, sd := 0, va := false, vb := false, vc := false } : TileOp)).fd.val (({ t := 0, fa := 0, fb := 0, fd := 0, nctl := 0, mode := 0, dst := 0, srcA := 0, srcB := 0, srcC := 0, sa := 0, sb := 0, sc := 0, sd := 0, va := false, vb := false, vc := false } : TileOp)).nctl.toNat = true ∧ (s.dev.tl (({ t := 0, fa := 0, fb := 0, fd := 0, nctl := 0, mode := 0, dst := 0, srcA := 0, srcB := 0, srcC := 0, sa := 0, sb := 0, sc := 0, sd := 0, va := false, vb := false, vc := false } : TileOp)).t.val).sig = 0 := ⟨stOf (({ ({} : Dev) with sysOn := true }).wrw (F.TILE_STATE_STATE.addr 0) 8197), by decide +kernel⟩

set_option maxRecDepth 20000 in
theorem wit_TileApertureAndLoads_0 : ∃ s : State, s.dev.arrOn = true ∧ s.dev.aperture ((0 : Fin 72)).val ((8 : BitVec 15)).toNat (Width.w32) = some (8) ∧ (¬ (s.dev.tst ((0 : Fin 72)).val = tsLoading ∨ s.dev.tst ((0 : Fin 72)).val = tsLoaded ∨ s.dev.tst ((0 : Fin 72)).val = tsRunning)) := ⟨stOf ((({ ({} : Dev) with sysOn := true }).wr F.TILE_CTRL_APERTURE_EN 0 1)), by decide +kernel⟩
set_option maxRecDepth 20000 in
theorem wit_TileApertureAndLoads_1 : ∃ s : State, s.dev.arrOn = true ∧ s.dev.aperture ((0 : Fin 72)).val ((8 : BitVec 15)).toNat (Width.w32) = some (8) ∧ (s.dev.tst ((0 : Fin 72)).val = tsLoading ∨ s.dev.tst ((0 : Fin 72)).val = tsLoaded ∨ s.dev.tst ((0 : Fin 72)).val = tsRunning) := ⟨stOf (((({ ({} : Dev) with sysOn := true }).wr F.TILE_CTRL_APERTURE_EN 0 1)).wr F.TILE_STATE_STATE 0 tsLoaded), by decide +kernel⟩
set_option maxRecDepth 20000 in
theorem wit_TileApertureAndLoads_2 : ∃ s : State, s.dev.arrOn = true ∧ s.dev.aperture ((0 : Fin 72)).val ((8 : BitVec 15)).toNat (Width.w32) = none := ⟨stOf ({ ({} : Dev) with sysOn := true }), by decide +kernel⟩
set_option maxRecDepth 20000 in
theorem wit_TileApertureAndLoads_3 : ∃ s : State, s.dev.arrOn = true ∧ s.dev.aperture ((0 : Fin 72)).val ((8 : BitVec 15)).toNat (Width.w32) = some (8) ∧ s.dev.poisoned (.tile ((0 : Fin 72)).val) (8) = false := ⟨stOf ((({ ({} : Dev) with sysOn := true }).wr F.TILE_CTRL_APERTURE_EN 0 1)), by decide +kernel⟩
set_option maxRecDepth 20000 in
theorem wit_TileApertureAndLoads_4 : ∃ s : State, s.dev.arrOn = true ∧ s.dev.aperture ((0 : Fin 72)).val ((8 : BitVec 15)).toNat (Width.w32) = some (8) ∧ s.dev.poisoned (.tile ((0 : Fin 72)).val) (8) = true := ⟨stOf (((({ ({} : Dev) with sysOn := true }).wr F.TILE_CTRL_APERTURE_EN 0 1)).setPoison (.tile 0) 8 true), by decide +kernel⟩
set_option maxRecDepth 20000 in
theorem wit_TileApertureAndLoads_5 : ∃ s : State, s.dev.arrOn = true ∧ s.dev.aperture ((0 : Fin 72)).val ((8 : BitVec 15)).toNat (Width.w32) = none := ⟨stOf ({ ({} : Dev) with sysOn := true }), by decide +kernel⟩
set_option maxRecDepth 20000 in
theorem wit_TileApertureAndLoads_6 : ∃ s : State, s.dev.arrOn = true ∧ s.dev.tst ((0 : Fin 72)).val ≠ tsRunning := ⟨stOf ({ ({} : Dev) with sysOn := true }), by decide +kernel⟩
set_option maxRecDepth 20000 in
theorem wit_TileApertureAndLoads_7 : ∃ s : State, s.dev.tst ((0 : Fin 72)).val = tsRunning := ⟨stOf (({ ({} : Dev) with sysOn := true }).wr F.TILE_STATE_STATE 0 tsRunning), by decide +kernel⟩
set_option maxRecDepth 20000 in
theorem wit_TileApertureAndLoads_8 : ∃ s : State, s.dev.arrOn = true ∧ s.dev.coreUp corePmc = true ∧ s.dev.arr.loads = (({ entry := none, pkg := [], role := 0, maxLc := 4, baseId := [], denied := false, owner := 0, id := none, replaces := none, derived := false } : LoadReq)) :: (([] : List LoadReq)) := ⟨stOf ({ ((({ ({} : Dev) with sysOn := true }).coreMod 1 fun x => { x with up := true })) with arr.loads := [({ entry := none, pkg := [], role := 0, maxLc := 4, baseId := [], denied := false, owner := 0, id := none, replaces := none, derived := false } : LoadReq)] }), by decide +kernel⟩
set_option maxRecDepth 20000 in
theorem wit_TileApertureAndLoads_9 : ∃ s : State, s.dev.arr.loads = [] := ⟨stOf ({ ({} : Dev) with sysOn := true }), by decide +kernel⟩
set_option maxRecDepth 20000 in
theorem wit_TileApertureAndLoads_10 : ∃ s : State, s.dev.arrOn = true ∧ s.dev.commitOk ((0 : Fin 32)).val = true ∧ s.dev.is F.SLOT_CTRL_PRED_VALID ((0 : Fin 32)).val = false := ⟨stOf (({ ({} : Dev) with sysOn := true }).wr F.SLOT_STATE_STATE 0 ssBuilding), by decide +kernel⟩
set_option maxRecDepth 20000 in
theorem wit_TileApertureAndLoads_11 : ∃ s : State, s.dev.arrOn = true ∧ s.dev.commitOk ((0 : Fin 32)).val = true ∧ s.dev.is F.SLOT_CTRL_PRED_VALID ((0 : Fin 32)).val = true := ⟨stOf ((({ ({} : Dev) with sysOn := true }).wr F.SLOT_STATE_STATE 0 ssBuilding).wr F.SLOT_CTRL_PRED_VALID 0 1), by decide +kernel⟩
set_option maxRecDepth 20000 in
theorem wit_TileApertureAndLoads_12 : ∃ s : State, s.dev.arrOn = true ∧ s.dev.commitOk ((0 : Fin 32)).val = false := ⟨stOf ({ ({} : Dev) with sysOn := true }), by decide +kernel⟩
set_option maxRecDepth 20000 in
theorem wit_TileApertureAndLoads_13 : ∃ s : State, s.dev.arrOn = true ∧ (s.dev.roleLeave ((0 : Fin 32)).val).sst ((0 : Fin 32)).val = ssRunning := ⟨stOf (({ ({} : Dev) with sysOn := true }).wr F.SLOT_STATE_STATE 0 ssRunning), by decide +kernel⟩
set_option maxRecDepth 20000 in
theorem wit_TileApertureAndLoads_14 : ∃ s : State, s.dev.arrOn = true ∧ (s.dev.roleLeave ((0 : Fin 32)).val).sst ((0 : Fin 32)).val ≠ ssRunning ∧ (s.dev.roleLeave ((0 : Fin 32)).val).sst ((0 : Fin 32)).val ≠ ssFree ∧ (s.dev.roleLeave ((0 : Fin 32)).val).sst ((0 : Fin 32)).val ≠ ssRetiring := ⟨stOf (({ ({} : Dev) with sysOn := true }).wr F.SLOT_STATE_STATE 0 ssReady), by decide +kernel⟩
set_option maxRecDepth 20000 in
theorem wit_TileApertureAndLoads_15 : ∃ s : State, s.dev.arrOn = true ∧ ((s.dev.roleLeave ((0 : Fin 32)).val).sst ((0 : Fin 32)).val = ssFree ∨ (s.dev.roleLeave ((0 : Fin 32)).val).sst ((0 : Fin 32)).val = ssRetiring) := ⟨stOf ({ ({} : Dev) with sysOn := true }), by decide +kernel⟩

set_option maxRecDepth 20000 in
theorem wit_SlotInvocations_0 : ∃ s : State, s.dev.arrOn = true ∧ s.dev.sst ((0 : Fin 32)).val = ssReady ∧ s.dev.slotUp ((0 : Fin 32)).val = true := ⟨stOf (({ ({} : Dev) with sysOn := true }).wr F.SLOT_STATE_STATE 0 ssReady), by decide +kernel⟩
set_option maxRecDepth 20000 in
theorem wit_SlotInvocations_1 : ∃ s : State, s.dev.arrOn = true ∧ (s.dev.sst ((0 : Fin 32)).val = ssRunning ∨ s.dev.sst ((0 : Fin 32)).val = ssRebuilding) ∧ ¬ (s.dev.sst ((0 : Fin 32)).val = ssRunning ∧ (s.dev.sl ((0 : Fin 32)).val).trig = s.dev.gts ∧ ¬ (s.dev.sl ((0 : Fin 32)).val).explicit = true) ∧ (s.dev.sl ((0 : Fin 32)).val).pend = false := ⟨stOf (({ ({} : Dev) with sysOn := true, gts := 5, aont := 5 }).wr F.SLOT_STATE_STATE 0 ssRunning), by decide +kernel⟩
set_option maxRecDepth 20000 in
theorem wit_SlotInvocations_2 : ∃ s : State, s.dev.arrOn = true ∧ (s.dev.sst ((0 : Fin 32)).val = ssRunning ∨ s.dev.sst ((0 : Fin 32)).val = ssRebuilding) ∧ ¬ (s.dev.sst ((0 : Fin 32)).val = ssRunning ∧ (s.dev.sl ((0 : Fin 32)).val).trig = s.dev.gts ∧ ¬ (s.dev.sl ((0 : Fin 32)).val).explicit = true) ∧ (s.dev.sl ((0 : Fin 32)).val).pend = true := ⟨stOf ((({ ({} : Dev) with sysOn := true, gts := 5, aont := 5 }).wr F.SLOT_STATE_STATE 0 ssRunning).slMod 0 fun x => { x with pend := true }), by decide +kernel⟩
set_option maxRecDepth 20000 in
theorem wit_SlotInvocations_3 : ∃ s : State, s.dev.arrOn = true ∧ s.dev.lastTick ((0 : Fin 32)).val = some (0) ∧ (s.dev.sl ((0 : Fin 32)).val).tick ≠ some (0) ∧ (s.dev.slMod ((0 : Fin 32)).val fun x => { x with tick := (some (0)) }).sst ((0 : Fin 32)).val = ssReady ∧ (s.dev.slMod ((0 : Fin 32)).val fun x => { x with tick := (some (0)) }).slotUp ((0 : Fin 32)).val = true := ⟨stOf (((({ ({} : Dev) with sysOn := true }).wr F.SLOT_STATE_STATE 0 ssReady).wr F.SLOT_CTRL_TIMER_EN 0 1).wr F.SLOT_PERIOD_PERIOD_NS 0 1000), by decide +kernel⟩
set_option maxRecDepth 20000 in
theorem wit_SlotInvocations_4 : ∃ s : State, s.dev.arrOn = true ∧ s.dev.lastTick ((0 : Fin 32)).val = some (0) ∧ (s.dev.sl ((0 : Fin 32)).val).tick ≠ some (0) ∧ ((s.dev.slMod ((0 : Fin 32)).val fun x => { x with tick := (some (0)) }).sst ((0 : Fin 32)).val = ssRunning ∨ (s.dev.slMod ((0 : Fin 32)).val fun x => { x with tick := (some (0)) }).sst ((0 : Fin 32)).val = ssRebuilding) ∧ ¬ ((s.dev.slMod ((0 : Fin 32)).val fun x => { x with tick := (some (0)) }).sst ((0 : Fin 32)).val = ssRunning ∧ (s.dev.sl ((0 : Fin 32)).val).trig = (0) ∧ (s.dev.sl ((0 : Fin 32)).val).explicit = true) := ⟨stOf (((({ ({} : Dev) with sysOn := true }).wr F.SLOT_STATE_STATE 0 ssRunning).wr F.SLOT_CTRL_TIMER_EN 0 1).wr F.SLOT_PERIOD_PERIOD_NS 0 1000), by decide +kernel⟩
set_option maxRecDepth 20000 in
theorem wit_SlotInvocations_5 : ∃ s : State, ((s.dev.lastTick ((0 : Fin 32)).val = none) ∨ (s.dev.lastTick ((0 : Fin 32)).val = some (0) ∧ (s.dev.sl ((0 : Fin 32)).val).tick = some (0))) := ⟨stOf ({ ({} : Dev) with sysOn := true }), by decide +kernel⟩
set_option maxRecDepth 20000 in
theorem wit_SlotInvocations_6 : ∃ s : State, s.dev.arrOn = true ∧ s.dev.slotBusy ((0 : Fin 32)).val = true ∧ s.dev.slotUp ((0 : Fin 32)).val = true ∧ ((s.dev.slotTiles ((0 : Fin 32)).val).all fun t => (s.dev.tl t).ended) = true := ⟨stOf (({ ({} : Dev) with sysOn := true }).wr F.SLOT_STATE_STATE 0 ssRunning), by decide +kernel⟩
set_option maxRecDepth 20000 in
theorem wit_SlotInvocations_7 : ∃ s : State, s.dev.arrOn = true ∧ s.dev.slotBusy ((0 : Fin 32)).val = true ∧ s.dev.slotUp ((0 : Fin 32)).val = true ∧ (s.dev.sl ((0 : Fin 32)).val).trig + lcWatchdog (s.dev.rd F.SLOT_STATE_LC ((0 : Fin 32)).val) ≤ s.dev.gts := ⟨stOf (({ ({} : Dev) with sysOn := true, gts := 5000000000, aont := 5000000000 }).wr F.SLOT_STATE_STATE 0 ssRunning), by decide +kernel⟩

def rowDev : Dev :=
  (((({ ({} : Dev) with sysOn := true }).coreMod 3 fun x => { x with up := true }).wr F.TILE_STATE_STATE 0 tsIdle).tlMod 0
    fun x => { x with rowCe := [(0, [0, 0, 0, 0, 0, 0, 0, 0, 0, 0, 0, 0, 0, 0, 0, 0])] })
theorem wr_arrOn (d : Dev) (f : Fld) (i v : Nat) : (d.wr f i v).arrOn = d.arrOn := rfl
theorem wr_coreUp (d : Dev) (f : Fld) (i v k : Nat) : (d.wr f i v).coreUp k = d.coreUp k := rfl
theorem wr_tl (d : Dev) (f : Fld) (i v t : Nat) : (d.wr f i v).tl t = d.tl t := rfl
theorem wr_tst (d : Dev) (v : Nat) : (d.wr F.TILE_REPAIR_ROWS_USED 0 v).tst 0 = d.tst 0 := Dev.rd_wr_addr d _ _ 0 0 v (by decide)
set_option maxRecDepth 20000 in
theorem wit_TileSupervision_row : ∃ d : Dev, d.arrOn = true ∧ d.coreUp 3 = true ∧ d.tst 0 = tsIdle ∧
    16 ≤ ((tget (fun _ => []) (d.tl 0).rowCe (0 : BitVec 20).toNat).filter fun a => d.aont < a + dayNs).length ∧
    d.rd F.TILE_REPAIR_ROWS_USED 0 < 32 := by
  refine ⟨rowDev.wr F.TILE_REPAIR_ROWS_USED 0 0, ?_, ?_, ?_, ?_, ?_⟩
  · rw [wr_arrOn]; decide
  · rw [wr_coreUp]; decide
  · rw [wr_tst]; decide
  · rw [wr_tl, Dev.wr_aont]; decide
  · rw [Dev.rd_wr_same _ _ _ _ (by decide)]; decide

set_option maxRecDepth 20000 in
theorem wit_TileSupervision_0 : ∃ s : State, s.dev.arrOn = true ∧ s.dev.tileServes ((0 : Fin 72)).val = true ∧ ((s.dev.wr F.TILE_ERR_UE_FATAL ((0 : Fin 72)).val 1).ffr causeTileFault ((0 : Fin 72)).val 0).coreUp (3 + ((0 : Fin 72)).val / 9) = true := ⟨stOf ((({ ({} : Dev) with sysOn := true }).coreMod 3 fun x => { x with up := true }).wr F.TILE_STATE_STATE 0 tsIdle), by decide +kernel⟩
set_option maxRecDepth 20000 in
theorem wit_TileSupervision_1 : ∃ s : State, s.dev.arrOn = true ∧ s.dev.tileServes ((0 : Fin 72)).val = true ∧ ((s.dev.wr F.TILE_ERR_UE_FATAL ((0 : Fin 72)).val 1).ffr causeTileFault ((0 : Fin 72)).val 0).coreUp (3 + ((0 : Fin 72)).val / 9) = false := ⟨stOf (({ ({} : Dev) with sysOn := true }).wr F.TILE_STATE_STATE 0 tsIdle), by decide +kernel⟩
set_option maxRecDepth 20000 in
theorem wit_TileSupervision_2 : ∃ s : State, s.dev.arrOn = true ∧ s.dev.tileServes ((0 : Fin 72)).val = true ∧ ((s.dev).ffr causeTileFault ((0 : Fin 72)).val 1).coreUp (3 + ((0 : Fin 72)).val / 9) = true := ⟨stOf ((({ ({} : Dev) with sysOn := true }).coreMod 3 fun x => { x with up := true }).wr F.TILE_STATE_STATE 0 tsIdle), by decide +kernel⟩
set_option maxRecDepth 20000 in
theorem wit_TileSupervision_3 : ∃ s : State, s.dev.arrOn = true ∧ s.dev.tileServes ((0 : Fin 72)).val = true ∧ ((s.dev).ffr causeTileFault ((0 : Fin 72)).val 1).coreUp (3 + ((0 : Fin 72)).val / 9) = false := ⟨stOf (({ ({} : Dev) with sysOn := true }).wr F.TILE_STATE_STATE 0 tsIdle), by decide +kernel⟩
set_option maxRecDepth 20000 in
theorem wit_TileSupervision_4 : ∃ s : State, s.dev.arrOn = true ∧ s.dev.tileServes ((0 : Fin 72)).val = true ∧ ((s.dev).ffr causeTileFault ((0 : Fin 72)).val 2).coreUp (3 + ((0 : Fin 72)).val / 9) = true := ⟨stOf ((({ ({} : Dev) with sysOn := true }).coreMod 3 fun x => { x with up := true }).wr F.TILE_STATE_STATE 0 tsIdle), by decide +kernel⟩
set_option maxRecDepth 20000 in
theorem wit_TileSupervision_5 : ∃ s : State, s.dev.arrOn = true ∧ s.dev.tileServes ((0 : Fin 72)).val = true ∧ ((s.dev).ffr causeTileFault ((0 : Fin 72)).val 2).coreUp (3 + ((0 : Fin 72)).val / 9) = false := ⟨stOf (({ ({} : Dev) with sysOn := true }).wr F.TILE_STATE_STATE 0 tsIdle), by decide +kernel⟩
set_option maxRecDepth 20000 in
theorem wit_TileSupervision_6 : ∃ s : State, s.dev.arrOn = true ∧ s.dev.tileServes ((0 : Fin 72)).val = true ∧ ((s.dev.wr F.TILE_ERR_UE_FATAL ((0 : Fin 72)).val 1).ffr causeTileFault ((0 : Fin 72)).val 0).coreUp (3 + ((0 : Fin 72)).val / 9) = true := ⟨stOf ((({ ({} : Dev) with sysOn := true }).coreMod 3 fun x => { x with up := true }).wr F.TILE_STATE_STATE 0 tsIdle), by decide +kernel⟩
set_option maxRecDepth 20000 in
theorem wit_TileSupervision_7 : ∃ s : State, s.dev.arrOn = true ∧ s.dev.tileServes ((0 : Fin 72)).val = true ∧ ((s.dev.wr F.TILE_ERR_UE_FATAL ((0 : Fin 72)).val 1).ffr causeTileFault ((0 : Fin 72)).val 0).coreUp (3 + ((0 : Fin 72)).val / 9) = false := ⟨stOf (({ ({} : Dev) with sysOn := true }).wr F.TILE_STATE_STATE 0 tsIdle), by decide +kernel⟩
set_option maxRecDepth 20000 in
theorem wit_TileSupervision_8 : ∃ s : State, s.dev.arrOn = true ∧ s.dev.tst ((0 : Fin 72)).val = tsRunning := ⟨stOf (({ ({} : Dev) with sysOn := true }).wr F.TILE_STATE_STATE 0 tsRunning), by decide +kernel⟩
set_option maxRecDepth 20000 in
theorem wit_TileSupervision_9 : ∃ s : State, s.dev.arrOn = true ∧ s.dev.coreUp (3 + ((0 : Fin 8)).val) = true := ⟨stOf (({ ({} : Dev) with sysOn := true }).coreMod 3 fun x => { x with up := true }), by decide +kernel⟩
set_option maxRecDepth 20000 in
theorem wit_TileSupervision_10 : ∃ s : State, s.dev.arrOn = true ∧ s.dev.coreUp (3 + ((0 : Fin 8)).val) = true ∧ s.dev.reserveOk ((0 : Fin 8)).val = true ∧ tget (fun _ => 0) s.dev.arr.bistAt ((0 : Fin 8)).val + dayNs ≤ s.dev.aont := ⟨stOf ((({ ({} : Dev) with sysOn := true, gts := 100000000000000, aont := 100000000000000 }).coreMod 3 fun x => { x with up := true }).wr F.ARR_STATUS_RESERVE_AVAIL 0 255), by decide +kernel⟩
set_option maxRecDepth 20000 in
theorem wit_TileSupervision_11 : ∃ s : State, s.dev.arrOn = true ∧ s.dev.coreUp (3 + ((0 : Fin 8)).val) = true ∧ s.dev.reserveOk ((0 : Fin 8)).val = true ∧ tget (fun _ => 0) s.dev.arr.bistAt ((0 : Fin 8)).val + dayNs ≤ s.dev.aont := ⟨stOf ((({ ({} : Dev) with sysOn := true, gts := 100000000000000, aont := 100000000000000 }).coreMod 3 fun x => { x with up := true }).wr F.ARR_STATUS_RESERVE_AVAIL 0 255), by decide +kernel⟩
set_option maxRecDepth 20000 in
theorem wit_TileSupervision_13 : ∃ s : State, ((tget (fun _ => []) (s.dev.tl ((0 : Fin 72)).val).rowCe ((0 : BitVec 20)).toNat).filter fun a => s.dev.aont < a + dayNs).length < 16 := ⟨stOf ({ ({} : Dev) with sysOn := true }), by decide +kernel⟩
set_option maxRecDepth 20000 in
theorem wit_TileSupervision_14 : ∃ s : State, s.dev.arrOn = true ∧ s.dev.coreUp (3 + ((0 : Fin 8)).val) = true := ⟨stOf (({ ({} : Dev) with sysOn := true }).coreMod 3 fun x => { x with up := true }), by decide +kernel⟩

set_option maxRecDepth 20000 in
theorem wit_ResetCommands_0 : ∃ s : State, s.dev.seq.vinUp = true := ⟨stOf ({ ({} : Dev) with seq.vinUp := true }), by decide +kernel⟩
set_option maxRecDepth 20000 in
theorem wit_ResetCommands_1 : ∃ s : State, s.dev.seq.vinUp = true := ⟨stOf ({ ({} : Dev) with seq.vinUp := true }), by decide +kernel⟩
set_option maxRecDepth 20000 in
theorem wit_ResetCommands_2 : ∃ s : State, s.dev.boot.coldReq = true ∧ s.dev.seq.coldDown = false ∧ s.dev.poweringDown = true := ⟨stOf (({ ({} : Dev) with boot.coldReq := true }).domGo 3 dmFalling), by decide +kernel⟩
set_option maxRecDepth 20000 in
theorem wit_ResetCommands_3 : ∃ s : State, s.dev.boot.coldReq = true ∧ s.dev.seq.coldDown = false ∧ s.dev.poweringDown = false := ⟨stOf ({ ({} : Dev) with boot.coldReq := true }), by decide +kernel⟩
set_option maxRecDepth 20000 in
theorem wit_ResetCommands_4 : ∃ s : State, (s.dev.boot.coldReq = false ∨ s.dev.seq.coldDown = true) := ⟨stOf (({} : Dev)), by decide +kernel⟩
set_option maxRecDepth 20000 in
theorem wit_ResetCommands_5 : ∃ s : State, s.dev.boot.deferred = true ∧ s.dev.poweringDown = false ∧ s.dev.seq.coldDown = false := ⟨stOf ({ ({} : Dev) with boot.deferred := true }), by decide +kernel⟩
set_option maxRecDepth 20000 in
theorem wit_ResetCommands_6 : ∃ s : State, s.dev.boot.warmReq = true ∧ s.dev.boot.coldReq = false ∧ s.dev.boot.deferred = false ∧ s.dev.sysOn = true ∧ s.dev.flt.endgame = false ∧ s.dev.seq.coldDown = false := ⟨stOf ({ ({} : Dev) with boot.warmReq := true, sysOn := true }), by decide +kernel⟩
set_option maxRecDepth 20000 in
theorem wit_ResetCommands_7 : ∃ s : State, s.dev.sysOn = true := ⟨stOf ({ ({} : Dev) with sysOn := true }), by decide +kernel⟩
set_option maxRecDepth 20000 in
theorem wit_ResetCommands_8 : ∃ s : State, s.dev.sysOn = false := ⟨stOf (({} : Dev)), by decide +kernel⟩
set_option maxRecDepth 20000 in
theorem wit_ResetCommands_9 : ∃ s : State, s.dev.sends (Agent.sec) = true ∧ ((0x5A960003 : Word)).toNat / 65536 = 0x5A96 := ⟨stOf (({ ({} : Dev) with sysOn := true }).coreMod 0 fun x => { x with up := true, released := true }), by decide +kernel⟩
set_option maxRecDepth 20000 in
theorem wit_ResetCommands_10 : ∃ s : State, s.dev.sends (Agent.sec) = true ∧ ((0x5A960003 : Word)).toNat / 65536 = 0x5A96 := ⟨stOf (({ ({} : Dev) with sysOn := true }).coreMod 0 fun x => { x with up := true, released := true }), by decide +kernel⟩
set_option maxRecDepth 20000 in
theorem wit_ResetCommands_11 : ∃ s : State, s.dev.sends (Agent.sec) = true ∧ ((0x5A960003 : Word)).toNat / 65536 = 0x5A96 := ⟨stOf (({ ({} : Dev) with sysOn := true }).coreMod 0 fun x => { x with up := true, released := true }), by decide +kernel⟩
set_option maxRecDepth 20000 in
theorem wit_ResetCommands_12 : ∃ s : State, s.dev.sends (Agent.sec) = true ∧ ((3 : Word)).toNat / 65536 ≠ 0x5A96 := ⟨stOf (({ ({} : Dev) with sysOn := true }).coreMod 0 fun x => { x with up := true, released := true }), by decide +kernel⟩
set_option maxRecDepth 20000 in
theorem wit_ResetCommands_13 : ∃ s : State, s.dev.sends (Agent.sec) = true ∧ ((3 : Word)).toNat / 65536 ≠ 0x5A96 := ⟨stOf (({ ({} : Dev) with sysOn := true }).coreMod 0 fun x => { x with up := true, released := true }), by decide +kernel⟩
set_option maxRecDepth 20000 in
theorem wit_ResetCommands_14 : ∃ s : State, s.dev.sends (Agent.sec) = true ∧ ((3 : Word)).toNat / 65536 ≠ 0x5A96 := ⟨stOf (({ ({} : Dev) with sysOn := true }).coreMod 0 fun x => { x with up := true, released := true }), by decide +kernel⟩
set_option maxRecDepth 20000 in
theorem wit_ResetCommands_15 : ∃ s : State, s.dev.sends (Agent.sec) = true ∧ ((0x5A960002 : Word)).toNat / 65536 = 0x5A96 := ⟨stOf (({ ({} : Dev) with sysOn := true }).coreMod 0 fun x => { x with up := true, released := true }), by decide +kernel⟩
set_option maxRecDepth 20000 in
theorem wit_ResetCommands_16 : ∃ s : State, s.dev.sends (Agent.sec) = true ∧ ((2 : Word)).toNat / 65536 ≠ 0x5A96 := ⟨stOf (({ ({} : Dev) with sysOn := true }).coreMod 0 fun x => { x with up := true, released := true }), by decide +kernel⟩
set_option maxRecDepth 20000 in
theorem wit_ResetCommands_17 : ∃ s : State, s.dev.sends (Agent.sec) = false := ⟨stOf (({} : Dev)), by decide +kernel⟩
set_option maxRecDepth 20000 in
theorem wit_ResetCommands_18 : ∃ s : State, s.dev.sysOn = true ∧ s.dev.coreUp 0 = true := ⟨stOf (({ ({} : Dev) with sysOn := true }).coreMod 0 fun x => { x with up := true, released := true }), by decide +kernel⟩
set_option maxRecDepth 20000 in
theorem wit_ResetCommands_19 : ∃ s : State, s.dev.boot.coreLost = true ∧ s.dev.corePower = true ∧ s.dev.seq.coldDown = false := ⟨stOf (((({ ({} : Dev) with boot.coreLost := true }).wr F.SEQ_RAIL_STATUS_STATE 0 rlOn).wr F.SEQ_RAIL_STATUS_STATE 1 rlOn).wr F.SEQ_RAIL_STATUS_STATE 2 rlOn), by decide +kernel⟩

theorem wit_BootWatchdogsUpdatesAndFaults_scan : ∃ d : Dev, (d.wr F.TLM_REF_SPARE_REF 0 0).is F.TLM_STATUS_SPARE_FAILED = false :=
  ⟨{}, (Dev.is_wr_addr _ _ _ _ _ _ (by decide)).trans (by decide)⟩

theorem leVal_le (n v : Nat) (h : v < 256 ^ n) : leVal (le n v) = v := by
  induction n generalizing v with
  | zero => simp at h; simp [le, leVal, h]
  | succ n ih =>
    rw [le, leVal, ih (v / 256) (by rw [Nat.pow_succ] at h; omega)]
    simp
    omega

/-- A tag record whose check value fits an empty header and manifest. -/
def okTag : List Byte :=
  let t : List Byte := [0x54, 0x41, 0x47, 0x31] ++ zeros 20
  t ++ le 48 (Config.slotMac (t ++ [] ++ [])).toNat
def sleepDev : Dev :=
  ((({ ({} : Dev) with boot.asleep := true, boot.retain := { valid := true, tag := okTag, slot := 0 }, boot.run := some { slot := 0, tag := okTag, head := [], man := [] } }).wr
    F.SEQ_RAIL_STATUS_STATE 0 rlOn).wr F.SEQ_RAIL_STATUS_STATE 1 rlOn).wr F.SEQ_RAIL_STATUS_STATE 2 rlOn
theorem okTag_take : okTag.take 24 = ([0x54, 0x41, 0x47, 0x31] ++ zeros 20 : List Byte) := by rfl
theorem okTag_drop : okTag.drop 24 = le 48 (Config.slotMac (([0x54, 0x41, 0x47, 0x31] ++ zeros 20 : List Byte) ++ [] ++ [])).toNat := by rfl
theorem okTag_ok : tagOk 0 okTag [] [] = true := by
  unfold tagOk pf
  have h (x : Nat) : (le 48 x).take 48 = le 48 x := List.take_of_length_le (by simp [le])
  rw [okTag_take, okTag_drop, h, leVal_le 48 _ (Nat.lt_of_lt_of_eq (Config.slotMac _).isLt (by decide)),
    show (okTag.drop 0).take 4 = [0x54, 0x41, 0x47, 0x31] from rfl, show (okTag.drop 8).take 1 = [0] from rfl]
  simp [leVal]
set_option maxRecDepth 20000 in
theorem wit_BootWatchdogsUpdatesAndFaults_wake : ∃ d : Dev, d.boot.asleep = true ∧ d.corePower = true ∧ (d.retained && !false && true) = true :=
  ⟨sleepDev, by decide, by decide, by simp only [Dev.retained]; exact (by rw [show sleepDev.boot.run = some { slot := 0, tag := okTag, head := [], man := [] } from rfl, show sleepDev.boot.retain = { valid := true, tag := okTag, slot := 0 } from rfl]; simp [okTag_ok])⟩

set_option maxRecDepth 20000 in
theorem wit_BootWatchdogsUpdatesAndFaults_0 : ∃ s : State, s.dev.sysOn = true ∧ s.dev.boot.due ≠ 0 ∧ (s.dev.core' 0).released = true ∧ s.dev.flt.endgame = false ∧ s.dev.seq.coldDown = false := ⟨stOf (({ ({} : Dev) with sysOn := true, boot.due := 1 }).coreMod 0 fun x => { x with up := true, released := true }), by decide +kernel⟩
set_option maxRecDepth 20000 in
theorem wit_BootWatchdogsUpdatesAndFaults_1 : ∃ s : State, s.dev.sysOn = true := ⟨stOf (({ ({} : Dev) with sysOn := true }).coreMod 0 fun x => { x with up := true, released := true }), by decide +kernel⟩
set_option maxRecDepth 20000 in
theorem wit_BootWatchdogsUpdatesAndFaults_2 : ∃ s : State, s.dev.sysOn = false := ⟨stOf (({} : Dev)), by decide +kernel⟩
set_option maxRecDepth 20000 in
theorem wit_BootWatchdogsUpdatesAndFaults_3 : ∃ s : State, s.dev.sysOn = true ∧ (s.dev.core' ((0 : Fin 11)).val).released = true ∧ (s.dev.core' ((0 : Fin 11)).val).failed = false ∧ s.dev.wdogDue ((0 : Fin 11)).val ≤ s.dev.aont := ⟨stOf (({ ({} : Dev) with sysOn := true, gts := 1000000000, aont := 1000000000 }).coreMod 0 fun x => { x with up := true, released := true }), by decide +kernel⟩
set_option maxRecDepth 20000 in
theorem wit_BootWatchdogsUpdatesAndFaults_4 : ∃ s : State, s.dev.aont < s.dev.wdogDue ((0 : Fin 11)).val := ⟨stOf (({ ({} : Dev) with sysOn := true }).coreMod 0 fun x => { x with up := true, released := true }), by decide +kernel⟩
set_option maxRecDepth 20000 in
theorem wit_BootWatchdogsUpdatesAndFaults_5 : ∃ s : State, s.dev.sysOn = true ∧ s.dev.coreUp 0 = true ∧ s.dev.boot.sess = some (({ target := 0, id := some 0, at' := 0 } : Session)) ∧ (({ target := 0, id := some 0, at' := 0 } : Session)).id = some (0) := ⟨stOf (({ ({} : Dev) with sysOn := true, boot.sess := some ({ target := 0, id := some 0, at' := 0 } : Session) }).coreMod 0 fun x => { x with up := true, released := true }), by decide +kernel⟩
set_option maxRecDepth 20000 in
theorem wit_BootWatchdogsUpdatesAndFaults_6 : ∃ s : State, s.dev.sysOn = true ∧ s.dev.coreUp 0 = true ∧ s.dev.boot.sess = some (({ target := 0, id := some 0, at' := 0 } : Session)) ∧ (({ target := 0, id := some 0, at' := 0 } : Session)).id = some (0) := ⟨stOf (({ ({} : Dev) with sysOn := true, boot.sess := some ({ target := 0, id := some 0, at' := 0 } : Session) }).coreMod 0 fun x => { x with up := true, released := true }), by decide +kernel⟩
set_option maxRecDepth 20000 in
theorem wit_BootWatchdogsUpdatesAndFaults_7 : ∃ s : State, s.dev.sysOn = true ∧ s.dev.coreUp 0 = true ∧ s.dev.boot.sess = some (({ target := 0, id := none, at' := 0 } : Session)) ∧ (({ target := 0, id := none, at' := 0 } : Session)).id = none ∧ (({ target := 0, id := none, at' := 0 } : Session)).at' + 60000000000 ≤ s.dev.gts := ⟨stOf (({ ({} : Dev) with sysOn := true, gts := 100000000000, aont := 100000000000, boot.sess := some ({ target := 0, id := none, at' := 0 } : Session) }).coreMod 0 fun x => { x with up := true, released := true }), by decide +kernel⟩
set_option maxRecDepth 20000 in
theorem wit_BootWatchdogsUpdatesAndFaults_8 : ∃ s : State, s.dev.boot.heldAct = some (0) ∧ s.dev.sysOn = true ∧ s.dev.coreUp 0 = true ∧ s.dev.emergClear = true := ⟨stOf (({ ({} : Dev) with sysOn := true, gts := 100000000000, aont := 100000000000, boot.heldAct := some 0 }).coreMod 0 fun x => { x with up := true, released := true }), by decide +kernel⟩
set_option maxRecDepth 20000 in
theorem wit_BootWatchdogsUpdatesAndFaults_9 : ∃ s : State, s.dev.boot.run = some (({ slot := 0, tag := [], head := List.replicate 512 2, man := [] } : Running)) ∧ s.dev.boot.served = some (0) ∧ s.dev.sysOn = true ∧ s.dev.coreUp 0 = true ∧ s.dev.onTrial = true ∧ headAuto (({ slot := 0, tag := [], head := List.replicate 512 2, man := [] } : Running)).head = true ∧ s.dev.boot.wdogSeen = false ∧ (0) + 60000000000 ≤ s.dev.aont := ⟨stOf ((({ ({} : Dev) with sysOn := true, gts := 100000000000, aont := 100000000000, boot.served := some 0, boot.run := some ({ slot := 0, tag := [], head := List.replicate 512 2, man := [] } : Running) }).coreMod 0 fun x => { x with up := true, released := true }).wr F.BOOT_STATUS_TRIAL 0 1), by decide +kernel⟩
set_option maxRecDepth 20000 in
theorem wit_BootWatchdogsUpdatesAndFaults_10 : ∃ s : State, s.dev.boot.run = some (({ slot := 0, tag := [], head := [], man := [] } : Running)) ∧ s.dev.sysOn = true ∧ s.dev.coreUp 0 = true ∧ s.dev.onTrial = true ∧ s.dev.boot.served.getD s.dev.boot.dueAt + headConfirm (({ slot := 0, tag := [], head := [], man := [] } : Running)).head * 1000000000 ≤ s.dev.aont := ⟨stOf ((({ ({} : Dev) with sysOn := true, gts := 100000000000000, aont := 100000000000000, boot.served := some 0, boot.run := some ({ slot := 0, tag := [], head := [], man := [] } : Running) }).coreMod 0 fun x => { x with up := true, released := true }).wr F.BOOT_STATUS_TRIAL 0 1), by decide +kernel⟩
set_option maxRecDepth 20000 in
theorem wit_BootWatchdogsUpdatesAndFaults_12 : ∃ s : State, s.dev.boot.asleep = true ∧ s.dev.corePower = true ∧ (s.dev.retained && !(false) && (false)) = false := ⟨stOf (((({ ({} : Dev) with boot.asleep := true }).wr F.SEQ_RAIL_STATUS_STATE 0 rlOn).wr F.SEQ_RAIL_STATUS_STATE 1 rlOn).wr F.SEQ_RAIL_STATUS_STATE 2 rlOn), by decide +kernel⟩
set_option maxRecDepth 20000 in
theorem wit_BootWatchdogsUpdatesAndFaults_13 : ∃ s : State, s.dev.coreUp corePmc = true := ⟨stOf ((({} : Dev)).coreMod 1 fun x => { x with up := true }), by decide +kernel⟩
set_option maxRecDepth 20000 in
theorem wit_BootWatchdogsUpdatesAndFaults_15 : ∃ s : State, s.dev.is F.TLM_STATUS_SPARE_FAILED = true := ⟨stOf ((({} : Dev)).wr F.TLM_STATUS_SPARE_FAILED 0 1), by decide +kernel⟩
set_option maxRecDepth 20000 in
theorem wit_BootWatchdogsUpdatesAndFaults_17 : ∃ s : State, s.dev.chBad ((5 : Fin 128)).val = true := ⟨stOf ({ (({} : Dev)) with flt.chStale := [(5, true)] }), by decide +kernel⟩
set_option maxRecDepth 20000 in
theorem wit_BootWatchdogsUpdatesAndFaults_18 : ∃ s : State, s.dev.chBad ((5 : Fin 128)).val = false := ⟨stOf ({ ({} : Dev) with sysOn := true }), by decide +kernel⟩
set_option maxRecDepth 20000 in
theorem wit_BootWatchdogsUpdatesAndFaults_19 : ∃ s : State, s.dev.is F.GLB_CLK_STATUS_CHK_OK = true := ⟨stOf ((({} : Dev)).wr F.GLB_CLK_STATUS_CHK_OK 0 1), by decide +kernel⟩
set_option maxRecDepth 20000 in
theorem wit_BootWatchdogsUpdatesAndFaults_20 : ∃ s : State, s.dev.is F.GLB_CLK_STATUS_CHK_OK = false := ⟨stOf ((({} : Dev)).wr F.GLB_CLK_STATUS_CHK_OK 0 0), by decide +kernel⟩
set_option maxRecDepth 20000 in
theorem wit_BootWatchdogsUpdatesAndFaults_21 : ∃ s : State, s.dev.sysOn = true ∧ (s.dev.frameRoll).pwr.done = (({ k := 0, accs := [], ovh := 0, sub := false } : FrameDone)) :: (([] : List FrameDone)) ∧ ((({ k := 0, accs := [], ovh := 0, sub := false } : FrameDone)).k + 1) * 10000 + (if (s.dev.frameRoll).is F.ORO_CTRL_TLM_EN then (s.dev.frameRoll).tlmWindow else 0) ≤ (s.dev.frameRoll).gts := ⟨stOf ({ ({} : Dev) with sysOn := true, gts := 20000, aont := 20000, pwr.frameNow := 2, pwr.done := [{ k := 0, accs := [], ovh := 0, sub := false }] }), by decide +kernel⟩
set_option maxRecDepth 20000 in
theorem wit_BootWatchdogsUpdatesAndFaults_22 : ∃ s : State, (servedIn (((0x0A00 : BitVec 16)).toNat / 256)).contains (((0x0A00 : BitVec 16)).toNat % 256) = false ∧ s.dev.linkUp = true ∧ (if (qOf []).ch.val < 4 then s.dev.rd F.MBX_CH_STATUS_STATE (qOf []).ch = 0 else (s.dev.mbx.held.filter fun (h : Held) => h.ch = (qOf []).ch.val).length < 4) ∧ (s.dev.arrived ((0x0A00 : BitVec 16)).toNat (qOf [])).mbxCheck (unknownOp ((0x0A00 : BitVec 16)).toNat) false (qOf []) = some ((.of msBadOpcode)) := ⟨stOf (mbDev), by decide +kernel⟩

def candDev : Dev :=
  ((((((({ ({} : Dev) with sysOn := true, oro.cand := some (0, 0, crc32c []), oro.trainBase := zeros 16 }).coreMod 1 fun x => { x with up := true }).wr
    F.ORO_STATUS_ACTIVE_VALID 0 1).wr F.ORO_STATUS_TRAIN_VALID 0 1).wr F.ORO_STATUS_TRAIN_SLOT 0 1).slMod 0 fun x => { x with pkg := zeros 560 }).slMod 1
    fun x => { x with hwin := [(0, 0)] })
set_option maxRecDepth 20000 in
theorem wit_OrothaCommands_shadow : ∃ (d : Dev) (c : Nat × Nat × Nat) (b : List Byte), d.sysOn = true ∧ d.coreUp corePmc = true ∧ d.oro.cand = some c ∧
    ¬ (d.is F.ORO_STATUS_SHADOW_VALID = true ∧ d.oro.opShadow = true) ∧ d.derive c = some b ∧ d.fitNative (pkgRead b) = true :=
  ⟨candDev, (0, 0, crc32c []), derivedPkg (zeros 560) [], by decide, by decide, rfl, by decide, rfl, rfl⟩

set_option maxRecDepth 20000 in
theorem wit_OrothaCommands_0 : ∃ s : State, s.dev.sysOn = true ∧ s.dev.is F.ORO_CTRL_TLM_EN ≠ (true) := ⟨stOf (({ ({} : Dev) with sysOn := true }).wr F.ORO_CTRL_TLM_EN 0 0), by decide +kernel⟩
set_option maxRecDepth 20000 in
theorem wit_OrothaCommands_1 : ∃ s : State, (s.dev.sysOn = false ∨ s.dev.is F.ORO_CTRL_TLM_EN = (true)) := ⟨stOf (({} : Dev)), by decide +kernel⟩
set_option maxRecDepth 20000 in
theorem wit_OrothaCommands_2 : ∃ s : State, s.dev.sysOn = true ∧ (s.dev.takeRx ((0 : Fin 8)).val vcMgmt 0x10 ((0 : Payload))).tlmFrame (pbits ((0 : Payload)) 96 32) = some (0) ∧ (s.dev.takeRx ((0 : Fin 8)).val vcMgmt 0x10 ((0 : Payload))).tlmOf (0) ((0 : Fin 8)).val = none := ⟨stOf ({ ({} : Dev) with sysOn := true }), by decide +kernel⟩
set_option maxRecDepth 20000 in
theorem wit_OrothaCommands_3 : ∃ s : State, s.dev.sysOn = true ∧ (s.dev.takeRx ((0 : Fin 8)).val vcMgmt 0x10 ((0 : Payload))).tlmFrame (pbits ((0 : Payload)) 96 32) = some (0) ∧ ((s.dev.takeRx ((0 : Fin 8)).val vcMgmt 0x10 ((0 : Payload))).tlmOf (0) ((0 : Fin 8)).val).isSome = true := ⟨stOf ({ ({} : Dev) with sysOn := true, oro.tlm := [(0, some 0)] }), by decide +kernel⟩
set_option maxRecDepth 20000 in
theorem wit_OrothaCommands_4 : ∃ s : State, s.dev.sysOn = true ∧ (s.dev.takeRx ((0 : Fin 8)).val vcMgmt 0x10 ((0x5000000000000000000000000 : Payload))).tlmFrame (pbits ((0x5000000000000000000000000 : Payload)) 96 32) = none := ⟨stOf ({ ({} : Dev) with sysOn := true }), by decide +kernel⟩
set_option maxRecDepth 20000 in
theorem wit_OrothaCommands_5 : ∃ s : State, s.dev.sysOn = true ∧ (s.dev.frameRoll).oro.closed = ((0), (([] : List Byte))) :: (([] : List (Nat × List Byte))) ∧ ((0) + 1) * 10000 + (s.dev.frameRoll).tlmWindow ≤ (s.dev.frameRoll).gts := ⟨stOf ({ ({} : Dev) with sysOn := true, gts := 200000, aont := 200000, pwr.frameNow := 20, oro.closed := [(0, [])] }), by decide +kernel⟩
set_option maxRecDepth 20000 in
theorem wit_OrothaCommands_6 : ∃ s : State, s.dev.sysOn = true ∧ s.dev.oro.copied ≤ (s.dev.gts / 1000000) ∧ 1 ≤ (s.dev.gts / 1000000) ∧ 100 * (s.dev.gts / 1000000) ≤ s.dev.pwr.frameNow ∧ (s.dev.oro.closed.all fun p => decide (100 * (s.dev.gts / 1000000) ≤ p.1)) = true := ⟨stOf ({ ({} : Dev) with sysOn := true, gts := 1000000, aont := 1000000, pwr.frameNow := 100 }), by decide +kernel⟩
set_option maxRecDepth 20000 in
theorem wit_OrothaCommands_7 : ∃ s : State, s.dev.sysOn = true ∧ s.dev.is F.ORO_CTRL_TLM_EN = true ∧ s.dev.oro.blkBoundary ≤ (s.dev.gts / (1000000 * max 2 (s.dev.rd F.ORO_FRAME_CFG_SAMPLE_MS))) * (1000000 * max 2 (s.dev.rd F.ORO_FRAME_CFG_SAMPLE_MS)) := ⟨stOf (({ ({} : Dev) with sysOn := true }).wr F.ORO_CTRL_TLM_EN 0 1), by decide +kernel⟩
set_option maxRecDepth 20000 in
theorem wit_OrothaCommands_8 : ∃ s : State, s.dev.sysOn = true ∧ s.dev.coreUp corePmc = true ∧ s.dev.oro.cand = some (((0, 0, 0) : Nat × Nat × Nat)) ∧ ¬ (s.dev.is F.ORO_STATUS_SHADOW_VALID = true ∧ s.dev.oro.opShadow = true) ∧ s.dev.derive (((0, 0, 0) : Nat × Nat × Nat)) = none := ⟨stOf (({ ({} : Dev) with sysOn := true, oro.cand := some (0, 0, 0) }).coreMod 1 fun x => { x with up := true }), by decide +kernel⟩
set_option maxRecDepth 20000 in
theorem wit_OrothaCommands_10 : ∃ s : State, s.dev.oro.cand = none := ⟨stOf (({} : Dev)), by decide +kernel⟩
set_option maxRecDepth 20000 in
theorem wit_OrothaCommands_11 : ∃ s : State, s.dev.lastHeld = some (0) ∧ s.dev.sysOn = true ∧ s.dev.coreUp corePmc = true ∧ s.dev.oro.gateSeg ≤ (0) := ⟨stOf (({ ({} : Dev) with sysOn := true, gts := 1000000000, aont := 1000000000 }).coreMod 1 fun x => { x with up := true }), by decide +kernel⟩
set_option maxRecDepth 20000 in
theorem wit_OrothaCommands_12 : ∃ s : State, (s.dev.lastHeld = none ∨ (s.dev.lastHeld = some (0) ∧ (0) < s.dev.oro.gateSeg)) := ⟨stOf (({} : Dev)), by decide +kernel⟩
set_option maxRecDepth 20000 in
theorem wit_OrothaCommands_13 : ∃ s : State, s.dev.sysOn = true ∧ s.dev.coreUp corePmc = true ∧ s.dev.oro.promote = true ∧ s.dev.oro.promoteAt ≤ s.dev.gts := ⟨stOf (({ ({} : Dev) with sysOn := true, oro.promote := true }).coreMod 1 fun x => { x with up := true }), by decide +kernel⟩
set_option maxRecDepth 20000 in
theorem wit_OrothaCommands_14 : ∃ s : State, s.dev.oro.promote = false := ⟨stOf (({} : Dev)), by decide +kernel⟩
set_option maxRecDepth 20000 in
theorem wit_OrothaCommands_15 : ∃ s : State, s.dev.oro.retUntil = some (0) ∧ s.dev.sysOn = true ∧ s.dev.coreUp corePmc = true ∧ (0) ≤ s.dev.gts := ⟨stOf (({ ({} : Dev) with sysOn := true, oro.retUntil := some 0 }).coreMod 1 fun x => { x with up := true }), by decide +kernel⟩
set_option maxRecDepth 20000 in
theorem wit_OrothaCommands_16 : ∃ s : State, s.dev.oro.retUntil = none := ⟨stOf (({} : Dev)), by decide +kernel⟩
set_option maxRecDepth 20000 in
theorem wit_OrothaCommands_17 : ∃ s : State, s.dev.sysOn = true ∧ s.dev.oro.promote = true := ⟨stOf ({ ({} : Dev) with sysOn := true, oro.promote := true }), by decide +kernel⟩
set_option maxRecDepth 20000 in
theorem wit_OrothaCommands_18 : ∃ s : State, s.dev.sysOn = true ∧ s.dev.oro.promote = false ∧ s.dev.is F.ORO_STATUS_ACTIVE_VALID = true := ⟨stOf (({ ({} : Dev) with sysOn := true }).wr F.ORO_STATUS_ACTIVE_VALID 0 1), by decide +kernel⟩
set_option maxRecDepth 20000 in
theorem wit_OrothaCommands_19 : ∃ s : State, s.dev.oro.promote = false ∧ s.dev.is F.ORO_STATUS_ACTIVE_VALID = false := ⟨stOf (({} : Dev)), by decide +kernel⟩

theorem wit_StepCarriesOutTheFrontCommand : ∃ (c : Instr) (rest : List Instr) (s : State), s.pending = c :: rest :=
  ⟨.crystalLoss, [.coldReset], { State.reset with pending := [.crystalLoss, .coldReset] }, by decide⟩

theorem wit_EmptyQueueLetsOneTickPass : ∃ s t : State, (s.pending = [] ∧ s.dev.sysOn = true) ∧ t.pending = [] ∧ t.dev.sysOn = false :=
  ⟨stOf mbDev, State.reset, by decide⟩

theorem invOf_mbDev : mbDev.Inv := ⟨by decide, by decide, by decide⟩
theorem wit_StepKeepsTheInvariant : ∃ s t : State, s.dev.Inv ∧ step s = .next t :=
  ⟨{ stOf mbDev with pending := [.crystalLoss] }, _, invOf_mbDev, rfl⟩

theorem wit_TimestampsGoBackOnlyToZero : ∃ s t : State, s.dev.Inv ∧ step s = .next t :=
  ⟨{ stOf mbDev with pending := [.coldReset] }, _, invOf_mbDev, rfl⟩

theorem wit_CommandsThatStoreNothingKeepMemory : ∃ (c : Instr) (s t : State), s.dev.Inv ∧ c.storesNothing = true ∧ exec c s = .next t :=
  ⟨.crystalLoss, stOf mbDev, _, invOf_mbDev, rfl, rfl⟩

/-- The clauses at their boundaries: three bytes at 5 to 7 end word 0; eleven bytes at 5 to 15 hold word 1 whole and word 0 in part. -/
theorem wit_MemoryReadsBackWhatWasStored :
    (Space.hbm.base + 4 < Space.hbm.base + 5 ∨ False) ∧ Space.hbm.base + 5 + 3 ≤ Space.hbm.base + 8 ∧
      (8 * (Space.hbm.base / 8) < Space.hbm.base + 5 + 3 ∧ Space.hbm.base + 5 < 8 * (Space.hbm.base / 8) + 8 ∧
        ¬ Space.hbm.base + 5 ≤ 8 * (Space.hbm.base / 8)) ∧
      (Space.hbm.base + 5 ≤ 8 * (Space.hbm.base / 8 + 1) ∧ 8 * (Space.hbm.base / 8 + 1) + 8 ≤ Space.hbm.base + 5 + 11) ∧
      (8 * (Space.hbm.base / 8 + 2) ≥ Space.hbm.base + 5 + 11) := by decide

theorem wit_HighWordWriteLoadsAWideField : ∃ (s : State) (lo hi lo' hi' : BitVec 28),
    (s.dev.sends .host = true ∧ isWide lo.toNat = true ∧ hi.toNat = lo.toNat + 4 ∧ (∀ k, k < 4 → lo.toNat ≠ F.CRC_VALUE_LO.addr k)) ∧
      isWide lo'.toNat = true ∧ hi'.toNat = lo'.toNat + 4 ∧ lo'.toNat = F.CRC_VALUE_LO.addr 3 :=
  ⟨stOf mbDev, BitVec.ofNat 28 (F.SLOT_START_LO.addr 31), BitVec.ofNat 28 (F.SLOT_START_LO.addr 31 + 4),
    BitVec.ofNat 28 (F.CRC_VALUE_LO.addr 3), BitVec.ofNat 28 (F.CRC_VALUE_LO.addr 3 + 4), by decide⟩

theorem wit_RegisterWritesFollowTheAccessTypes : ∃ (s : State) (a b c : BitVec 28) (r : RegDef),
    (s.dev.sends .host = true ∧ a.toNat % 4 = 0 ∧ reqBuffer a.toNat = none ∧ regDefAt a.toNat = none) ∧
      (b.toNat % 4 = 0 ∧ reqBuffer b.toNat = none ∧ (regDefAt b.toNat).isSome = true ∧ s.dev.regFixed true b.toNat = true) ∧
      (c.toNat % 4 = 0 ∧ reqBuffer c.toNat = none ∧ ¬ (0x100800 ≤ c.toNat ∧ c.toNat < 0x100900) ∧ regDefAt c.toNat = some r ∧
        s.dev.regFixed false c.toNat = false) :=
  ⟨stOf mbDev, 0x8#28, 0x301000#28, BitVec.ofNat 28 (F.SNAP_SRC_EN_SYNC.addr 0),
    (regDefAt (F.SNAP_SRC_EN_SYNC.addr 0)).getD ⟨0, 0, 0, 0, []⟩, by decide⟩

theorem wit_AnotherWriteDropsTheWriteBack : ∃ (w : BitVec 31) (k a q : Nat) (bs : List Byte), eccPlace .hbm w.toNat = (k, some (.hbm, q)) ∧
    Space.hbm.base + a < 8 * k + 8 ∧ 8 * k < Space.hbm.base + a + bs.length ∧ bs ≠ [] ∧ (0 ≤ w.toNat % 32768 ∧ w.toNat % 32768 < 6) :=
  ⟨5#31, Space.hbm.base / 8 + 5, 47, 40, [1, 2], by decide⟩

theorem wit_RefusedMailboxRequestsAreOnlyAnswered : ∃ (c : Instr) (o : MbxOp) (q : MbxReq) (r : Rep) (s : State), c.request = some (o, q) ∧
    s.dev.linkUp = true ∧ (if q.ch.val < 4 then s.dev.rd F.MBX_CH_STATUS_STATE q.ch = 0
      else (s.dev.mbx.held.filter fun (h : Held) => h.ch = q.ch.val).length < 4) ∧ (s.dev.arrived o.op q).mbxCheck o true q = some r :=
  ⟨.getTime { qOf [] with status := 1 }, opGetTime, { qOf [] with status := 1 }, { st := msBadParam, detail := 0x06 }, stOf mbDev, rfl, by decide⟩

theorem wit_AnotherMajorVersionIsAnsweredBadVersion : ∃ (c : Instr) (o : MbxOp) (q p : MbxReq) (s : State), (c.request = some (o, q) ∧
    s.dev.linkUp = true ∧ (if q.ch.val < 4 then s.dev.rd F.MBX_CH_STATUS_STATE q.ch = 0
      else (s.dev.mbx.held.filter fun (h : Held) => h.ch = q.ch.val).length < 4) ∧ q.major ≠ 3 ∧ ¬ q.ch.val < 4) ∧
    ((servedIn 10).contains 0 = false ∧ p.ch.val < 4 ∧ s.dev.rd F.MBX_CH_STATUS_STATE p.ch = 0 ∧ p.major ≠ 3) :=
  ⟨.getTime { qOf [] with major := 2 }, opGetTime, { qOf [] with major := 2 }, { qOf [] with major := 4, ch := 3 }, stOf mbDev, ⟨rfl, by decide⟩, by decide⟩

theorem wit_RefusedSyncOperationsChangeNoObject : ∃ (s : State) (q : SyncReq) (o : Obj), o = (s.dev.syncTook 8 opAdd q).obj (hIndex q.handle.toNat) ∧
    o.poison = 0 ∧ (s.dev.syncTook 8 opAdd q).is F.SOB_CTRL_EN = true ∧
    (s.dev.syncTook 8 opAdd q).rd F.GRP_CTRL_STATE (hGroup q.handle.toNat) = 1 ∧ (s.dev.syncTook 8 opAdd q).validH q.handle.toNat = false ∧
    stStale ≠ stOk :=
  ⟨stOf ((mbDev.wr F.SOB_CTRL_EN 0 1).wr F.GRP_CTRL_STATE 0 1),
    { operand := 1, timeout := 0, tag := 1, ord := false, w := false, cond := 0, handle := 0 }, {}, by decide⟩

theorem wit_CounterAddsClamp : ∃ (o : Obj) (x : Nat), o.ty = tyCounter ∧ (opAdd = opAdd ∨ opAdd = opFetchAdd) ∧ 2 ^ 63 ≤ signed 64 o.value + signed 64 x :=
  ⟨{ ty := tyCounter, value := 2 ^ 63 - 1 }, 1, by decide⟩

end Sys2Proof.Tests
end

section
/-! PROOFS. Writable 64-bit fields (spec/01 R14, R492): what the low write holds, what the high write loads. -/

namespace Sys2Proof.Machine

/-! ### The two steps -/

/-- The low word of a wide field kept until its high word is written. -/
def Dev.holdLow (d : Dev) (lo : Nat) (u : Word) : Dev := { d with wlow := tset (fun _ => 0) d.wlow lo u }

/-- Both words of the wide field at `lo` loaded from the 64-bit value `x`. -/
def Dev.loadWide (d : Dev) (lo x : Nat) : Dev := (d.wrw lo x).wrw (lo + 4) (x / 2 ^ 32)

theorem exec_wideFieldLowWrite {s : State} {x : Agent} {lo : BitVec 28} (u : Word) (hx : s.dev.sends x = true)
    (hw : isWide lo.toNat = true) :
    exec (.wideFieldLowWrite x lo u) s = .next { s with dev := s.dev.holdLow lo.toNat u } := by
  change execWideFieldLowWrite x lo u s = _
  simp [execWideFieldLowWrite, Dev.holdLow, hx, hw]

theorem exec_wideFieldHighWrite {s : State} {y : Agent} {hi : BitVec 28} {lo : Nat} (v : Word) (hy : s.dev.sends y = true)
    (hw : isWide lo = true) (hhi : hi.toNat = lo + 4) :
    exec (.wideFieldHighWrite y hi v) s =
      .next { s with dev := s.dev.loadWide lo (s.dev.wideFit lo ((tget (fun _ => 0) s.dev.wlow lo).toNat + 2 ^ 32 * v.toNat)) } := by
  change execWideFieldHighWrite y hi v s = _
  simp [execWideFieldHighWrite, Dev.loadWide, hy, hw, hhi]

/-! ### What a held low word leaves unchanged -/

@[simp] theorem Dev.rdw_holdLow (d : Dev) (lo : Nat) (u : Word) (a : Nat) : (d.holdLow lo u).rdw a = d.rdw a := rfl

@[simp] theorem Dev.wideFit_holdLow (d : Dev) (lo : Nat) (u : Word) (a n : Nat) :
    (d.holdLow lo u).wideFit a n = d.wideFit a n := rfl

@[simp] theorem Dev.sends_holdLow (d : Dev) (lo : Nat) (u : Word) (y : Agent) : (d.holdLow lo u).sends y = d.sends y := by
  cases y <;> rfl

@[simp] theorem Dev.wlow_holdLow_same (d : Dev) (lo : Nat) (u : Word) : tget (fun _ => 0) (d.holdLow lo u).wlow lo = u := by
  simp [Dev.holdLow]

/-! ### The words a load leaves -/

@[simp] theorem Dev.rdw_loadWide_low (d : Dev) (lo x : Nat) : (d.loadWide lo x).rdw lo = x % 2 ^ 32 := by
  rw [Dev.loadWide, Dev.rdw_wrw_other _ _ _ _ (by omega), Dev.rdw_wrw_same]

@[simp] theorem Dev.rdw_loadWide_high (d : Dev) (lo x : Nat) : (d.loadWide lo x).rdw (lo + 4) = x / 2 ^ 32 % 2 ^ 32 :=
  Dev.rdw_wrw_same _ _ _

theorem Dev.rdw_loadWide_other (d : Dev) {lo a : Nat} (x : Nat) (hlo : a ≠ lo) (hhi : a ≠ lo + 4) :
    (d.loadWide lo x).rdw a = d.rdw a := by
  rw [Dev.loadWide, Dev.rdw_wrw_other _ _ _ _ hhi, Dev.rdw_wrw_other _ _ _ _ hlo]

/-- The two words together hold every 64-bit value loaded. -/
theorem Dev.rdw_loadWide_pair (d : Dev) (lo : Nat) {x : Nat} (hx : x < 2 ^ 64) :
    (d.loadWide lo x).rdw lo + 2 ^ 32 * (d.loadWide lo x).rdw (lo + 4) = x := by
  rw [Dev.rdw_loadWide_low, Dev.rdw_loadWide_high]
  omega

/-- Two words together make a 64-bit value. -/
theorem word_pair_lt (u v : Word) : u.toNat + 2 ^ 32 * v.toNat < 2 ^ 64 := by
  have hu := u.isLt
  have hv := v.isLt
  omega

/-! ### The value the field takes (R492) -/

theorem Dev.wideFit_of_not_crc (d : Dev) {lo : Nat} (n : Nat) (h : ∀ k, k < 4 → lo ≠ F.CRC_VALUE_LO.addr k) :
    d.wideFit lo n = n := by
  have hnone : ((List.range 4).find? fun k => lo = F.CRC_VALUE_LO.addr k) = none := by
    simpa using h
  rw [Dev.wideFit, hnone]

theorem crcValueAddr_inj {j k : Nat} (h : F.CRC_VALUE_LO.addr j = F.CRC_VALUE_LO.addr k) : j = k := by
  simp only [Fld.addr] at h
  omega

theorem Dev.wideFit_crc (d : Dev) {k : Nat} (n : Nat) (hk : k < 4) :
    d.wideFit (F.CRC_VALUE_LO.addr k) n = n % 2 ^ crcWidth (d.rd F.CRC_CFG_ALG k) := by
  have hsome : ((List.range 4).find? fun j => F.CRC_VALUE_LO.addr k = F.CRC_VALUE_LO.addr j) = some k := by
    rw [List.find?_range_eq_some]
    refine ⟨by simp, by simpa using hk, fun j hj => ?_⟩
    simpa using fun h => absurd (crcValueAddr_inj h) (by omega)
  rw [Dev.wideFit, hsome]

/-! ### The obligation -/

/-- Settles O9: the low write only holds its word, which the high write loads together with its own. -/
theorem highWordWriteLoadsAWideField : Obligations.HighWordWriteLoadsAWideField := by
  intro s x y lo hi u v hx hy hw hhi
  have hlow := exec_wideFieldLowWrite u hx hw
  have hhigh := exec_wideFieldHighWrite (s := { s with dev := s.dev.holdLow lo.toNat u }) (y := y) v (by simpa using hy) hw hhi
  simp only [Dev.wlow_holdLow_same, Dev.wideFit_holdLow] at hhigh
  refine ⟨_, _, hlow, hhigh, fun a => Dev.rdw_holdLow _ _ _ a, fun hne => ?_, fun k hk hcrc => ?_, fun a halo hahi => ?_⟩
  · have hu := u.isLt
    have hv := v.isLt
    rw [hhi, Dev.wideFit_of_not_crc _ _ hne, Dev.rdw_loadWide_low, Dev.rdw_loadWide_high]
    omega
  · rw [hhi, hcrc, Dev.wideFit_crc _ _ hk, Dev.rdw_loadWide_pair _ _ (Nat.lt_of_le_of_lt (Nat.mod_le _ _) (word_pair_lt u v))]
  · exact Dev.rdw_loadWide_other _ _ halo (hhi ▸ hahi)

end Sys2Proof.Machine
end

section
/-! PROOFS. Memory write-backs (spec/01 R36): a write-back changes nothing once another write has reached its word. -/

namespace Sys2Proof.Machine

/-! ### A pending write-back, and a write-back that is not pending -/

/-- A write-back of word `k` is pending. -/
def Dev.wbPending (d : Dev) (k : Nat) : Bool := tget (fun _ => false) d.wbPend k

theorem Dev.eccWriteback_of_not_pending {d : Dev} {m : EccMem} {w : Nat} (h : d.wbPending (eccPlace m w).1 = false) :
    d.eccWriteback m w = d := by
  rw [Dev.wbPending] at h
  simp [Dev.eccWriteback, h]

theorem exec_eccWriteback_of_not_pending {s : State} {m : EccMem} {w : BitVec 31}
    (h : s.dev.wbPending (eccPlace m w.toNat).1 = false) : exec (.eccWriteback m w) s = .next s := by
  change execEccWriteback m w s = _
  rw [execEccWriteback, State.run_eq, Dev.eccWriteback_of_not_pending h, ite_self]

/-! ### The write-backs that a write drops -/

@[simp] theorem Dev.wbPending_setPoison (d : Dev) (m : Space) (a : Nat) (p : Bool) (k : Nat) :
    (d.setPoison m a p).wbPending k = d.wbPending k := rfl

theorem Dev.wbPending_dropWb (d : Dev) (w k : Nat) : (d.dropWb w).wbPending k = (d.wbPending k && k != w) := by
  by_cases h : k = w
  · simp [Dev.dropWb, Dev.wbPending, h]
  · simp [Dev.dropWb, Dev.wbPending, h, tget_tset_other]

/-- A run of word updates, each of which drops the write-back of its own word, leaves pending what none of them dropped. -/
theorem Dev.wbPending_foldl_dropWb {g : Dev → Nat → Dev} {key : Nat → Nat} {k : Nat}
    (hg : ∀ d i, (g d i).wbPending k = d.wbPending k) (l : List Nat) (d : Dev) :
    (l.foldl (fun d i => (g d i).dropWb (key i)) d).wbPending k = (d.wbPending k && l.all fun i => k != key i) := by
  induction l generalizing d with
  | nil => simp
  | cons i l ih => rw [List.foldl_cons, ih, Dev.wbPending_dropWb, hg, List.all_cons, Bool.and_assoc]

/-- Every memory begins at a word boundary. -/
theorem Space.base_eq_words (m : Space) : m.base = 8 * (m.id * 2 ^ 37) := by
  rw [Space.base]
  omega

/-- A write of bytes [a, a + n) drops the write-back of every word that holds one of them. -/
theorem Dev.wbPending_poisonWrite (d : Dev) {m : Space} {a n k : Nat} (p : Bool) (hlo : m.base + a < 8 * k + 8)
    (hhi : 8 * k < m.base + a + n) : (d.poisonWrite m a n p).wbPending k = false := by
  rw [Space.base_eq_words] at hlo hhi
  have hword : k - m.id * 2 ^ 37 - a / 8 ∈ List.range ((a + n + 7) / 8 - a / 8) := by
    rw [List.mem_range]
    omega
  have hkey : (m.base + (a / 8 * 8 + 8 * (k - m.id * 2 ^ 37 - a / 8))) / 8 = k := by
    rw [Space.base_eq_words]
    omega
  rw [Dev.poisonWrite, Dev.wbPending_foldl_dropWb fun _ _ => Dev.wbPending_setPoison _ _ _ _ _, Bool.and_eq_false_iff,
    List.all_eq_false]
  exact .inr ⟨_, hword, fun hne => bne_iff_ne.1 hne hkey.symm⟩

theorem Dev.wbPending_stn (d : Dev) {m : Space} {a k : Nat} {bs : List Byte} (p : Bool) (hbs : bs ≠ [])
    (hlo : m.base + a < 8 * k + 8) (hhi : 8 * k < m.base + a + bs.length) : (d.stn m a bs p).wbPending k = false := by
  rw [Dev.stn, if_neg hbs]
  exact Dev.wbPending_poisonWrite _ p hlo hhi

/-- A write of an object drops the write-backs of its two words. -/
theorem Dev.wbPending_objPut (d : Dev) (o : Obj) (w : Nat) : (d.objPut (w / 2) o).wbPending (5 * 2 ^ 37 + w) = false := by
  have hw : w = 2 * (w / 2) ∨ w = 2 * (w / 2) + 1 := by omega
  rw [Dev.objPut, Dev.wbPending_dropWb, Dev.wbPending_dropWb]
  rcases hw with h | h
  · simp [← h]
  · simp [Nat.add_assoc, ← h]

/-- A table cut down to the keys that pass `q` reads as its default at every other key. -/
theorem tget_filter_of_not {α : Type} (d : Nat → α) (q : Nat → Bool) (l : List (Nat × α)) {k : Nat} (hk : q k = false) :
    tget d (l.filter fun c => q c.1) k = d k := by
  induction l with
  | nil => rfl
  | cons c l ih =>
    cases hc : q c.1 with
    | false => simpa [hc] using ih
    | true =>
      have hne : k ≠ c.1 := fun h => by simp [← h, hk] at hc
      simpa [hc, tget, hne] using ih

/-- The recorder's write drops the write-backs of the words it writes. -/
theorem Dev.wbPending_ffrWrote (d : Dev) {lo hi w : Nat} (hlo : lo ≤ w) (hhi : w < hi) :
    (d.ffrWrote lo hi).wbPending (6 * 2 ^ 37 + w) = false :=
  tget_filter_of_not (fun _ => false) (fun k => !(decide (6 * 2 ^ 37 + lo ≤ k) && decide (k < 6 * 2 ^ 37 + hi))) d.wbPend
    (by simp [hlo, hhi])

/-! ### The obligation -/

/-- Settles O11: each of the three writes leaves no write-back pending on its word, and one that is not pending does nothing. -/
theorem anotherWriteDropsTheWriteBack : Obligations.AnotherWriteDropsTheWriteBack := by
  refine ⟨fun s m w k a q sp bs p hplace hlo hhi hbs => ?_, fun s w o => ?_, fun s w lo hi hlo hhi => ?_⟩
  · apply exec_eccWriteback_of_not_pending
    rw [hplace]
    exact Dev.wbPending_stn _ p hbs hlo hhi
  · exact exec_eccWriteback_of_not_pending (Dev.wbPending_objPut s.dev o (w.toNat % 131072))
  · exact exec_eccWriteback_of_not_pending (Dev.wbPending_ffrWrote s.dev hlo hhi)

end Sys2Proof.Machine
end

section
/-! PROOFS. Requests of another major version (spec/13 R448): the check is the first of R443, and its reply carries the version
the S960 speaks. -/

namespace Sys2Proof.Machine

/-! ### Commands that are mailbox requests -/

/-- A command that is a request with a listed opcode runs that opcode; for every other command `h` equates `none` with a request. -/
theorem exec_of_request {c : Instr} {o : MbxOp} {q : MbxReq} (s : State) (h : c.request = some (o, q)) :
    exec c s = o.run q s := by
  cases c <;> cases h <;> rfl

/-- A request with an opcode that no table lists arrives as one that is not served. -/
theorem exec_mbxUnknownOpcode {op : BitVec 16} (q : MbxReq) (s : State)
    (h : (servedIn (op.toNat / 256)).contains (op.toNat % 256) = false) :
    exec (.mbxUnknownOpcode op q) s = .next { s with dev := s.dev.mbxArrive (unknownOp op.toNat) false q } := by
  change execMbxUnknownOpcode op q s = _
  simp only [execMbxUnknownOpcode, unknownOp, State.run_eq, h, Bool.false_eq_true, if_false]

/-! ### The version check -/

/-- The answer to a request of another major version (R448). -/
def badVersionRep : Rep := { st := msBadVersion, detail := 0x00010303, pay := [3, 3, 1, 0] }

theorem Dev.mbxCheck_of_major_ne (d : Dev) (o : MbxOp) (served : Bool) {q : MbxReq} (h : q.major ≠ 3) :
    d.mbxCheck o served q = some badVersionRep :=
  if_pos h

/-- Whatever the opcode, a request of another major version that finds its channel free is only answered. -/
theorem Dev.mbxArrive_of_major_ne {d : Dev} (o : MbxOp) (served : Bool) {q : MbxReq} (hlink : d.linkUp = true)
    (hfree : if q.ch.val < 4 then d.rd F.MBX_CH_STATUS_STATE q.ch = 0
      else (d.mbx.held.filter fun (h : Held) => h.ch = q.ch.val).length < 4) (hmajor : q.major ≠ 3) :
    d.mbxArrive o served q = (d.arrived o.op q).answer o.op q badVersionRep :=
  Dev.mbxArrive_refused d o served q badVersionRep hlink hfree (Dev.mbxCheck_of_major_ne _ o served hmajor)

/-! ### The fields of a packet (R441) -/

section
variable (major minor op tag status len flags detail gts reserved : Nat) (crc : Bool) (pay : List Byte)

theorem take_version_mbxPacket :
    (mbxPacket major minor op tag status len flags detail gts reserved crc pay).take 2 = le 1 major ++ le 1 minor := rfl

theorem pb_status_mbxPacket :
    pb (mbxPacket major minor op tag status len flags detail gts reserved crc pay) 6 2 = le 2 status := rfl

theorem pb_detail_mbxPacket :
    pb (mbxPacket major minor op tag status len flags detail gts reserved crc pay) 12 4 = le 4 detail := rfl

theorem drop_header_mbxPacket :
    (mbxPacket major minor op tag status len flags detail gts reserved crc pay).drop 32 = pay := rfl

end

/-! ### Where the answer to a request stands -/

/-- The packet that answers request `q` with `r`. -/
def Dev.answerPacket (d : Dev) (op : Nat) (q : MbxReq) (r : Rep) : List Byte :=
  mbxPacket 3 q.minorOut op q.tag.toNat r.st r.pay.length (1 + if q.hasCrc then 8 else 0) r.detail d.gts 0 q.hasCrc r.pay

@[simp] theorem Dev.vector_mem (d : Dev) (v : Nat) : (d.vector v).mem = d.mem := by
  rw [Dev.vector]
  split
  · rfl
  · dsimp only
    split <;> rfl

theorem Dev.answer_mem_of_w0 (d : Dev) (op : Nat) {q : MbxReq} (r : Rep) (h : q.ch.val < 4) :
    (d.answer op q r).mem = (d.stn (.rsp q.ch) 0 (d.answerPacket op q r)).mem := by
  rw [Dev.answer, Dev.reply, if_pos h, Dev.vector_mem, Dev.wr_mem, Dev.wr_mem, Dev.answerPacket]

/-- On a W0 channel the packet reads back from the response buffer. -/
theorem Dev.ldn_answer_of_w0 (d : Dev) (op : Nat) {q : MbxReq} (r : Rep) (h : q.ch.val < 4) :
    (d.answer op q r).ldn (.rsp q.ch) 0 (d.answerPacket op q r).length = d.answerPacket op q r := by
  rw [Dev.ldn_congr (Dev.answer_mem_of_w0 d op r h)]
  exact Dev.ldn_eq _ _ _ _ fun i hi => Dev.ldb_stn d _ 0 i _ _ hi

/-- On the other channels the packet is the message sent. -/
theorem Dev.answer_of_not_w0 (d : Dev) (op : Nat) {q : MbxReq} (r : Rep) (h : ¬ q.ch.val < 4) :
    d.answer op q r = d.emit (.reply q.ch (d.answerPacket op q r)) := by
  rw [Dev.answer, Dev.reply, if_neg h, if_neg (Nat.not_le.2 q.ch.isLt), Dev.answerPacket]

/-! ### The obligation -/

theorem MbxReq.minorOut_of_major_ne {q : MbxReq} (h : q.major ≠ 3) : q.minorOut = 1 :=
  if_neg fun hv => h hv.1

/-- Settles O13: the version check comes before every other, whatever the opcode, and its reply's packet is read field by field. -/
theorem anotherMajorVersionIsAnsweredBadVersion : Obligations.AnotherMajorVersionIsAnsweredBadVersion := by
  refine ⟨fun c o q s hreq hlink hfree hmajor => ?_, fun op q s hop hlink hfree hmajor => ?_, fun d op q hmajor => ?_, fun d q => rfl⟩
  · rw [exec_of_request s hreq, MbxOp.run, State.run_eq, Dev.mbxArrive_of_major_ne o true hlink hfree hmajor, badVersionRep]
  · rw [exec_mbxUnknownOpcode q s hop, Dev.mbxArrive_of_major_ne (unknownOp op.toNat) false hlink hfree hmajor]
    rfl
  · refine ⟨d.answerPacket op q badVersionRep, ?_, pb_status_mbxPacket .., pb_detail_mbxPacket .., drop_header_mbxPacket .., ?_⟩
    · rw [Dev.answerPacket, take_version_mbxPacket, MbxReq.minorOut_of_major_ne hmajor]
      rfl
    · dsimp only
      split
      case isTrue hw0 => exact Dev.ldn_answer_of_w0 d op badVersionRep hw0
      case isFalse hw0 => exact congrArg Dev.out (Dev.answer_of_not_w0 d op badVersionRep hw0)

end Sys2Proof.Machine
end

section
/-! PROOFS. The step and its invariant (spec/00, spec/01 R29, R33): what a step is, what it keeps, where the timestamps can go. -/

namespace Sys2Proof.Machine

/-! ### The step -/

theorem step_of_cons {c : Instr} {rest : List Instr} {s : State} (h : s.pending = c :: rest) :
    step s = exec c { s with pending := rest } := by
  rw [step, h]

theorem step_of_nil {s : State} (h : s.pending = []) : step s = .next { s with dev := s.dev.tick } := by
  rw [step, h]

/-- Every command answers a next state in which the device alone is another. -/
theorem exec_next (c : Instr) (s : State) : ∃ e, exec c s = .next { s with dev := e } := by
  cases c <;> exact ⟨_, rfl⟩

/-- Two next states are the same when their devices are: a command's answer is compared through the operation it carries out. -/
theorem next_congr {s : State} {d e : Dev} (h : d = e) :
    (.next { s with dev := d } : Res) = .next { s with dev := e } := by
  rw [h]

/-! ### A tick -/

theorem Dev.tick_inv {d : Dev} (h : d.Inv) : d.tick.Inv := by
  have hclock := h.clock
  rw [Dev.clockOk] at hclock
  unfold Dev.tick
  split
  · exact ⟨by simp [Dev.clockOk], h.mem, h.regs⟩
  case isFalse hoff =>
    simp only [Bool.and_eq_true, decide_eq_true_eq] at hclock
    exact ⟨by simp [Dev.clockOk, hoff]; omega, h.mem, h.regs⟩

/-- A tick lets both timestamps rise, or stay. -/
theorem Dev.tick_rises {d : Dev} (h : d.Inv) : d.gts ≤ d.tick.gts ∧ d.aont ≤ d.tick.aont := by
  have hclock := h.clock
  simp only [Dev.clockOk, Bool.and_eq_true, Bool.or_eq_true, Bool.not_eq_true', decide_eq_true_eq] at hclock
  unfold Dev.tick
  split
  case isTrue hon =>
    simp only [hon, Bool.true_eq_false, false_or] at hclock
    dsimp only
    omega
  case isFalse => dsimp only; omega

/-! ### The obligations -/

/-- Settles O1. -/
theorem stepCarriesOutTheFrontCommand : Obligations.StepCarriesOutTheFrontCommand :=
  fun _ _ _ h => step_of_cons h

/-- Settles O2: the two branches of a tick. -/
theorem emptyQueueLetsOneTickPass : Obligations.EmptyQueueLetsOneTickPass := by
  intro s h
  exact ⟨_, step_of_nil h, h, fun hon => if_pos hon, fun hoff => if_neg (by simp [hoff])⟩

/-- Settles O3: the operation of the device always answers, and the queue is not part of the device. -/
theorem everyCommandAnswersANextState : Obligations.EveryCommandAnswersANextState := by
  intro c s
  obtain ⟨e, he⟩ := exec_next c s
  exact ⟨_, he, rfl⟩

/-- Settles O4: every table is empty, so every word reads as its default. -/
theorem resetStateIsSound : Obligations.ResetStateIsSound :=
  ⟨⟨rfl, rfl, rfl⟩, rfl, rfl, rfl, fun _ => rfl⟩

/-- Settles O5: a tick keeps the invariant, and so does every command. -/
theorem stepKeepsTheInvariant : Obligations.StepKeepsTheInvariant := by
  intro s t hinv hstep
  cases hq : s.pending with
  | nil =>
    rw [step_of_nil hq] at hstep
    cases hstep
    exact Dev.tick_inv hinv
  | cons c rest =>
    rw [step_of_cons hq] at hstep
    obtain ⟨u, hu, -, hkeep⟩ := exec_keeps c { s with pending := rest } hinv.at.forget
    cases hu.symm.trans hstep
    exact hkeep.inv

/-- A device that keeps the invariant from `d` on has timestamps that rose, stayed, or were cleared: GTS loaded from AONT is not
behind, since AONT is never behind GTS. -/
theorem Dev.InvAt.timestamps {d e : Dev} {M : Option (List Host.Cell)} (hd : d.Inv) (he : e.InvAt d.aont d.gts M) :
    (d.gts ≤ e.gts ∨ e.gts = 0) ∧ (d.aont ≤ e.aont ∨ e.aont = 0) := by
  have hle := hd.at.gts_le
  obtain ⟨-, -, -, haont, hgts, -⟩ := he
  omega

/-- Settles O6: a tick raises them, and a command moves GTS to AONT and either to 0. -/
theorem timestampsGoBackOnlyToZero : Obligations.TimestampsGoBackOnlyToZero := by
  intro s t hinv hstep
  cases hq : s.pending with
  | nil =>
    rw [step_of_nil hq] at hstep
    cases hstep
    exact (Dev.tick_rises hinv).imp .inl .inl
  | cons c rest =>
    rw [step_of_cons hq] at hstep
    obtain ⟨u, hu, -, hkeep⟩ := exec_keeps c { s with pending := rest } hinv.at.forget
    cases hu.symm.trans hstep
    exact hkeep.timestamps hinv

/-- Settles O7: such a command leaves the whole memory as it was. -/
theorem commandsThatStoreNothingKeepMemory : Obligations.CommandsThatStoreNothingKeepMemory := by
  intro c s t m a hinv hc hexec
  obtain ⟨u, hu, -, hkeep⟩ := exec_keeps_mem c s hinv.at hc
  cases hu.symm.trans hexec
  rw [Dev.ldb, Dev.ldb, hkeep.keep _ rfl]

/-- Settles O8: the laws of stored bytes, and of the flag of each word a store touches or leaves. -/
theorem memoryReadsBackWhatWasStored : Obligations.MemoryReadsBackWhatWasStored := by
  intro d m a bs p
  have hbase : m.base = 8 * (m.base / 8) := by rw [Space.base_eq_words]; omega
  refine ⟨Dev.ldn_eq _ _ _ _ fun i hi => Dev.ldb_stn d m a i bs p hi, fun n b h => Dev.ldb_stn_other d m n a b bs p h,
    fun w h => ?_, fun w hlo hhi => ?_, fun w hlo hhi hpart hne => ?_⟩
  · by_cases hbs : bs = []
    · rw [Dev.stn, if_pos hbs]
    · rw [Dev.stn_flag _ _ _ _ _ _ hbs, if_neg (by omega)]
  · have hbs : bs ≠ [] := by rintro rfl; simp at hhi; omega
    rw [Dev.stn_flag _ _ _ _ _ _ hbs, if_pos (by omega)]
    simp [hlo, hhi]
  · rw [Dev.stn_flag _ _ _ _ _ _ hne, if_pos (by omega)]
    have hcut : (decide (m.base + a ≤ 8 * w) && decide (8 * w + 8 ≤ m.base + a + bs.length)) = false := by
      simpa using fun h => by omega
    rw [hcut, Bool.not_false, Bool.true_and]

end Sys2Proof.Machine
end

section
/-! PROOFS. Refusals: mailbox requests a check of R443 turns away (spec/13), sync operations a check of R177 turns away (spec/05), tile
instructions that are not issued or are illegal (spec/03 R87, R88). -/

namespace Sys2Proof.Machine

/-! ### Mailbox requests -/

/-- Settles O12: the answer of the first check that fails is all a refused request leaves. -/
theorem refusedMailboxRequestsAreOnlyAnswered : Obligations.RefusedMailboxRequestsAreOnlyAnswered := by
  intro c o q r s hreq hlink hfree hcheck
  rw [exec_of_request s hreq]
  exact next_congr (Dev.mbxArrive_refused s.dev o true q r hlink hfree hcheck)

/-! ### Sync operations -/

/-- A command that is a sync operation has the hub take it from its source and carry it out. -/
theorem exec_of_syncReq {c : Instr} {src : Fin 9} {op : Nat} {q : SyncReq} (s : State) (h : c.syncReq = some (src, op, q)) :
    exec c s = .next { s with
      dev := (s.dev.syncTook src op q).syncReq src op q.cond.toNat q.w q.operand.toNat q.timeout.toNat q.tag.toNat q.handle.toNat } := by
  cases c <;> cases h <;> rfl

/-- The status of the first check of R177 that refuses operation `op` from source `src`; OK where none does and the object is not
poisoned. -/
def Dev.syncStatus (e : Dev) (src op : Nat) (q : SyncReq) : Nat :=
  if src < 8 ∧ e.paired src = false then stUnpaired
  else if e.is F.SOB_CTRL_EN = false then stDisabled
  else if src < 8 ∧ 24 ≤ e.rd F.SOB_SRC_OUTSTANDING src then stOutstanding
  else if 7 ≤ op then stBadOp
  else if ¬ (e.rd F.GRP_CTRL_STATE (hGroup q.handle.toNat) = 1 ∨ e.rd F.GRP_CTRL_STATE (hGroup q.handle.toNat) = 2) ∨
    e.memberOf src (hGroup q.handle.toNat) = none then stNotMember
  else if e.validH q.handle.toNat = false then stStale
  else (e.obj (hIndex q.handle.toNat)).check op q.cond.toNat q.w q.operand.toNat (!(e.waitersOf (hIndex q.handle.toNat)).isEmpty)

theorem ite_le_of_le {p : Prop} [Decidable p] {a b c : Nat} (ha : a ≤ c) (hb : b ≤ c) : (if p then a else b) ≤ c := by
  split
  · exact ha
  · exact hb

/-- The operand rules refuse with BAD_OP, LIMIT or NOT_HELD. -/
theorem Obj.check_le_notHeld (o : Obj) (op cond : Nat) (w : Bool) (x : Nat) (b : Bool) : o.check op cond w x b ≤ stNotHeld := by
  unfold Obj.check
  repeat' apply ite_le_of_le
  all_goals decide

/-- Checks 6 to 9 of R177: a stale handle, then the operand rules of the object's type. -/
theorem Dev.syncRmw_refused {e : Dev} {src m op cond : Nat} {w : Bool} {x timeout tag h st : Nat}
    (hpoison : (e.obj (hIndex h)).poison = 0)
    (hst : st = if e.validH h = false then stStale
      else (e.obj (hIndex h)).check op cond w x (!(e.waitersOf (hIndex h)).isEmpty)) (hne : st ≠ stOk) :
    e.syncRmw src m op cond w x timeout tag h = e.syncSend src 3 0 st tag op h := by
  unfold Dev.syncRmw
  cases hv : e.validH h with
  | false => simp [hv, hst]
  | true =>
    simp only [hv, Bool.true_eq_false, if_false] at hst
    simp [hpoison, ← hst, hne]

/-- A refused operation is answered by OP_ERR; SOB_ERR.OUTSTANDING is set for the limit alone. -/
theorem Dev.syncReq_refused {e : Dev} {src op : Nat} {q : SyncReq} (hpoison : (e.obj (hIndex q.handle.toNat)).poison = 0)
    (hne : e.syncStatus src op q ≠ stOk) :
    e.syncReq src op q.cond.toNat q.w q.operand.toNat q.timeout.toNat q.tag.toNat q.handle.toNat =
      (if e.syncStatus src op q = stOutstanding then e.wr F.SOB_ERR_OUTSTANDING 0 1 else e).syncSend src 3 0
        (e.syncStatus src op q) q.tag.toNat op q.handle.toNat := by
  have hlow := ite_le_of_le (p := e.validH q.handle.toNat = false) (show stStale ≤ stNotHeld by decide)
    ((e.obj (hIndex q.handle.toNat)).check_le_notHeld op q.cond.toNat q.w q.operand.toNat
      (!(e.waitersOf (hIndex q.handle.toNat)).isEmpty))
  unfold Dev.syncReq
  unfold Dev.syncStatus at hne ⊢
  simp only [Bool.not_eq_true]
  by_cases hpair : src < 8 ∧ e.paired src = false
  · simp only [if_pos hpair]
    rfl
  by_cases hen : e.is F.SOB_CTRL_EN = false
  · simp only [if_neg hpair, if_pos hen]
    rfl
  by_cases hout : src < 8 ∧ 24 ≤ e.rd F.SOB_SRC_OUTSTANDING src
  · simp only [if_neg hpair, if_neg hen, if_pos hout]
    rfl
  by_cases hop : 7 ≤ op
  · simp only [if_neg hpair, if_neg hen, if_neg hout, if_pos hop]
    rfl
  simp only [if_neg hpair, if_neg hen, if_neg hout, if_neg hop] at hne ⊢
  by_cases hgroup : e.rd F.GRP_CTRL_STATE (hGroup q.handle.toNat) = 1 ∨ e.rd F.GRP_CTRL_STATE (hGroup q.handle.toNat) = 2
  case neg =>
    simp only [hgroup, not_false_eq_true, true_or, if_true]
    rfl
  simp only [hgroup, not_true_eq_false, false_or] at hne ⊢
  cases hm : e.memberOf src (hGroup q.handle.toNat) with
  | none => rfl
  | some m =>
    simp only [hm, reduceCtorEq, if_false, if_true] at hne ⊢
    rw [Dev.syncRmw_refused hpoison rfl hne, if_neg (Nat.ne_of_lt (Nat.lt_of_le_of_lt hlow (by decide)))]

/-- Settles O14: the first check that fails decides the answer, and neither taking the operation nor answering it touches the store. -/
theorem refusedSyncOperationsChangeNoObject : Obligations.RefusedSyncOperationsChangeNoObject := by
  rintro c src op q s e o st hc rfl rfl hpoison rfl hne
  refine ⟨_, exec_of_syncReq s hc, ?_, Dev.syncReq_refused hpoison hne⟩
  rw [Dev.syncReq_refused hpoison hne, Dev.syncSend_sob]
  split
  · rw [Dev.wr_sob, Dev.syncTook_sob]
  · rw [Dev.syncTook_sob]

/-! ### Tile instructions -/

/-- Settles O26: each instruction is issued under the same two checks, whatever its engine does. -/
theorem tileInstructionsNotIssuedOrIllegal : Obligations.TileInstructionsNotIssuedOrIllegal := by
  intro i o s hi
  have hissue : ∃ ok f, exec i s = .next { s with dev := s.dev.issueAt o ok f } := by
    cases i <;> cases hi <;> exact ⟨_, _, rfl⟩
  obtain ⟨ok, f, hexec⟩ := hissue
  rw [hexec]
  refine ⟨fun hnot => ?_, fun hcan hnctl => ?_⟩
  · rw [issueAt_not s.dev o ok f hnot]
  · rw [issueAt_illegal s.dev o ok f hcan (by rw [hnctl, Bool.and_false])]

end Sys2Proof.Machine
end

section
/-! PROOFS. Arithmetic of the sync objects (spec/05 R178, R182): the semaphore's walk over its waiters, the counter's clamp. -/

namespace Sys2Proof.Machine

/-! ### The semaphore -/


/-- Settles O15: induction on the waiters, each of them served or the first one left. -/
theorem semaphoreWalkServesInOrder : Obligations.SemaphoreWalkServesInOrder := by
  intro n l
  induction l generalizing n with
  | nil => simp [semWalk]
  | cons w l ih =>
    by_cases hw : w.operand ≤ n
    · obtain ⟨hlist, hsum, hhead, hstep⟩ := ih (n - w.operand)
      simp only [semWalk, if_pos hw]
      refine ⟨by simpa using hlist, by simp; omega, hhead, fun k hk => ?_⟩
      cases k with
      | zero => simp; omega
      | succ k =>
        have := hstep k (by simpa using hk)
        simp at this ⊢
        omega
    · simp only [semWalk, if_neg hw]
      simpa using hw

/-! ### The counter -/

/-- A value of the signed 64-bit range, wrapped to 64 bits, reads as itself. -/
theorem signed_wrapInt {i : Int} (hlo : -2 ^ 63 ≤ i) (hhi : i < 2 ^ 63) : signed 64 (wrapInt 64 i) = i := by
  unfold signed wrapInt
  omega

theorem wrapInt_lt (i : Int) : wrapInt 64 i < 2 ^ 64 := by
  unfold wrapInt
  omega

/-- The sum clamped to the signed 64-bit range (R178). -/
def clamp64 (n : Int) : Int := max (-(2 ^ 63 : Int)) (min (2 ^ 63 - 1) n)

theorem clamp64_eq (n : Int) : clamp64 n = if n < -2 ^ 63 then -2 ^ 63 else if 2 ^ 63 ≤ n then 2 ^ 63 - 1 else n := by
  unfold clamp64
  split
  · omega
  · split <;> omega

theorem clamp64_ne_iff (n : Int) : clamp64 n ≠ n ↔ n < -2 ^ 63 ∨ 2 ^ 63 ≤ n := by
  unfold clamp64
  omega

theorem signed_wrapInt_clamp64 (n : Int) : signed 64 (wrapInt 64 (clamp64 n)) = clamp64 n :=
  signed_wrapInt (by unfold clamp64; omega) (by unfold clamp64; omega)

/-- An addition to a COUNTER: the clamped sum is stored, and a clamp is marked. -/
theorem Obj.apply_counterAdd {o : Obj} {op : Nat} (cond : Nat) (w : Bool) (x m : Nat) (b : Bool) (hty : o.ty = tyCounter)
    (hop : op = opAdd ∨ op = opFetchAdd) :
    o.apply op cond w x m b =
      let n := signed 64 o.value + signed 64 x
      let v := wrapInt 64 (clamp64 n)
      Eff.sat { o := { o with value := v }, res := if op = opAdd then v else o.value } (clamp64 n ≠ n) := by
  rw [Obj.apply, if_pos hty, Obj.counter, if_pos hop]
  rfl

/-- Settles O16: by whether the exact sum lies in the signed 64-bit range. -/
theorem counterAddsClamp : Obligations.CounterAddsClamp := by
  intro o op cond m x w b hty hop
  dsimp only
  simp only [Obj.apply_counterAdd cond w x m b hty hop]
  generalize signed 64 o.value + signed 64 x = n
  simp only [← clamp64_eq, ← clamp64_ne_iff]
  by_cases hclamp : clamp64 n = n
  · have hvalue : signed 64 (wrapInt 64 n) = n := hclamp ▸ signed_wrapInt_clamp64 n
    simp [Eff.sat, hclamp, hvalue]
    exact wrapInt_lt n
  · simp [Eff.sat, hclamp, signed_wrapInt_clamp64]
    exact wrapInt_lt _

end Sys2Proof.Machine
end

section
/-! PROOFS. Register access (spec/00 R7 to R14, R49) and clock events: the fields of a register are apart, so a write gives each the
bits its access type says. -/

namespace Sys2Proof.Machine

/-! ### The fields of the register map -/

/-- Two fields share no bit. -/
abbrev FieldDef.Apart (f g : FieldDef) : Prop := f.lo + f.len ≤ g.lo ∨ g.lo + g.len ≤ f.lo

/-- The fields lie in the 32 bits of a register word, and no two share a bit. -/
abbrev fieldsApart (l : List FieldDef) : Prop := (∀ f ∈ l, f.lo + f.len ≤ 32) ∧ l.Pairwise FieldDef.Apart

theorem glbRegs_apart : ∀ r ∈ glbRegs, fieldsApart r.fields := by decide
theorem mbxRegs_apart : ∀ r ∈ mbxRegs, fieldsApart r.fields := by decide
theorem pwcRegs_apart : ∀ r ∈ pwcRegs, fieldsApart r.fields := by decide
theorem seqRegs_apart : ∀ r ∈ seqRegs, fieldsApart r.fields := by decide
theorem coolRegs_apart : ∀ r ∈ coolRegs, fieldsApart r.fields := by decide
theorem tlmRegs_apart : ∀ r ∈ tlmRegs, fieldsApart r.fields := by decide
theorem cqRegs_apart : ∀ r ∈ cqRegs, fieldsApart r.fields := by decide
theorem ffrRegs_apart : ∀ r ∈ ffrRegs, fieldsApart r.fields := by decide
theorem crcRegs_apart : ∀ r ∈ crcRegs, fieldsApart r.fields := by decide
theorem twRegs_apart : ∀ r ∈ twRegs, fieldsApart r.fields := by decide
theorem vlRegs_apart : ∀ r ∈ vlRegs, fieldsApart r.fields := by decide
theorem sobRegs_apart : ∀ r ∈ sobRegs, fieldsApart r.fields := by decide
theorem brdRegs_apart : ∀ r ∈ brdRegs, fieldsApart r.fields := by decide
theorem tileRegs_apart : ∀ r ∈ tileRegs, fieldsApart r.fields := by decide
theorem snapRegs_apart : ∀ r ∈ snapRegs, fieldsApart r.fields := by decide

theorem fieldsApart_ite {p : Prop} [Decidable p] {l m : List RegDef} (hl : ∀ r ∈ l, fieldsApart r.fields)
    (hm : ∀ r ∈ m, fieldsApart r.fields) : ∀ r ∈ if p then l else m, fieldsApart r.fields := by
  split
  · exact hl
  · exact hm

/-- Block by block (R15); the block after SOB has no register. -/
theorem blockRegs_apart (a : Nat) : ∀ r ∈ blockRegs a, fieldsApart r.fields :=
  fieldsApart_ite glbRegs_apart <| fieldsApart_ite mbxRegs_apart <| fieldsApart_ite pwcRegs_apart <|
  fieldsApart_ite seqRegs_apart <| fieldsApart_ite coolRegs_apart <| fieldsApart_ite tlmRegs_apart <|
  fieldsApart_ite cqRegs_apart <| fieldsApart_ite ffrRegs_apart <| fieldsApart_ite crcRegs_apart <|
  fieldsApart_ite twRegs_apart <| fieldsApart_ite vlRegs_apart <| fieldsApart_ite sobRegs_apart <|
  fieldsApart_ite (fun _ h => absurd h List.not_mem_nil) <| fieldsApart_ite brdRegs_apart <|
  fieldsApart_ite tileRegs_apart snapRegs_apart

theorem mem_of_findReg {l : List RegDef} {a : Nat} {r : RegDef} (h : findReg l a = some r) : r ∈ l := by
  induction l with
  | nil => cases h
  | cons x l ih =>
    unfold findReg at h
    split at h
    · cases h
      exact List.mem_cons_self
    · exact List.mem_cons_of_mem _ (ih h)

theorem fieldsApart_of_regDefAt {a : Nat} {r : RegDef} (h : regDefAt a = some r) : fieldsApart r.fields :=
  blockRegs_apart a r (mem_of_findReg h)

/-! ### Registers of one array -/

/-- Registers of arrays with the same stride that begin at different addresses have different addresses at every index. -/
theorem Fld.addr_ne {f g : Fld} (i : Nat) (hstride : f.stride = g.stride) (hbase : f.base ≠ g.base) : f.addr i ≠ g.addr i := by
  unfold Fld.addr
  rw [hstride]
  exact fun h => hbase (Nat.add_right_cancel h)

/-- A count in another register leaves a field alone. -/
theorem Dev.rd_inc_addr (d : Dev) {f g : Fld} {i j : Nat} (n : Nat) (h : g.addr j ≠ f.addr i) : (d.inc f i n).rd g j = d.rd g j :=
  Dev.rd_wr_addr d f g i j _ h

/-! ### A field written -/

/-- What a field takes, from what it holds and the bits written to it (R7, R9). -/
def FieldDef.taken (f : FieldDef) (firmware locked : Bool) (old val : Nat) : Nat :=
  if f.own = true then old
  else match f.acc with
    | .rw | .rws => val
    | .ro => if f.port = true ∧ firmware = true then val else old
    | .wo => old
    | .w1c => old - (old &&& val)
    | .w1s => old ||| val
    | .rwl => if locked = true then old else val

theorem bitsOf_lt (w lo len : Nat) : bitsOf w lo len < 2 ^ len := Nat.mod_lt _ (Nat.two_pow_pos len)

theorem ite_lt {p : Prop} [Decidable p] {a b c : Nat} (ha : a < c) (hb : b < c) : (if p then a else b) < c := by
  split
  · exact ha
  · exact hb

theorem FieldDef.taken_lt (f : FieldDef) (firmware locked : Bool) {old val : Nat} (hold : old < 2 ^ f.len) (hval : val < 2 ^ f.len) :
    f.taken firmware locked old val < 2 ^ f.len := by
  unfold FieldDef.taken
  split
  · exact hold
  cases f.acc with
  | rw | rws => exact hval
  | ro => exact ite_lt hval hold
  | wo => exact hold
  | w1c => exact Nat.lt_of_le_of_lt (Nat.sub_le _ _) hold
  | w1s => exact Nat.or_lt_two_pow hold hval
  | rwl => exact ite_lt hold hval

/-- A write leaves a word's field alone, or puts into it what the field takes. -/
theorem FieldDef.put_cases (f : FieldDef) (firmware locked : Bool) (old v new : Nat) :
    let x := f.taken firmware locked (bitsOf old f.lo f.len) (bitsOf v f.lo f.len)
    f.put firmware locked old v new = new ∧ x = bitsOf old f.lo f.len ∨
      f.put firmware locked old v new = putBits new f.lo f.len x := by
  unfold FieldDef.put FieldDef.taken
  dsimp only
  by_cases hown : f.own = true
  · simp [hown]
  simp only [hown, Bool.false_eq_true, if_false]
  cases f.acc with
  | rw | rws | w1c | w1s => exact .inr rfl
  | wo => exact .inl ⟨rfl, rfl⟩
  | ro => cases f.port <;> cases firmware <;> simp
  | rwl => cases locked <;> simp

theorem FieldDef.bitsOf_put_apart {f g : FieldDef} (h : f.Apart g) (firmware locked : Bool) (old v new : Nat) :
    bitsOf (f.put firmware locked old v new) g.lo g.len = bitsOf new g.lo g.len := by
  rcases f.put_cases firmware locked old v new with ⟨hput, -⟩ | hput
  · rw [hput]
  · rw [hput]
    exact h.elim (bitsOf_putBits_high _ _ _ _ _ _) (bitsOf_putBits_low _ _ _ _ _ _)

theorem FieldDef.bitsOf_put_same {f : FieldDef} (firmware locked : Bool) {old v new : Nat}
    (h : bitsOf new f.lo f.len = bitsOf old f.lo f.len) :
    bitsOf (f.put firmware locked old v new) f.lo f.len =
      f.taken firmware locked (bitsOf old f.lo f.len) (bitsOf v f.lo f.len) := by
  rcases f.put_cases firmware locked old v new with ⟨hput, htaken⟩ | hput
  · rw [hput, htaken, h]
  · rw [hput, bitsOf_putBits_same]
    exact Nat.mod_eq_of_lt (f.taken_lt _ _ (bitsOf_lt _ _ _) (bitsOf_lt _ _ _))

theorem FieldDef.put_lt {f : FieldDef} (h : f.lo + f.len ≤ 32) (firmware locked : Bool) (old v : Nat) {new : Nat} (hnew : new < 2 ^ 32) :
    f.put firmware locked old v new < 2 ^ 32 := by
  rcases f.put_cases firmware locked old v new with ⟨hput, -⟩ | hput
  · rw [hput]
    exact hnew
  · rw [hput]
    exact putBits_lt _ _ _ _ hnew h

/-! ### A register written -/

/-- The word fields `l` of a register make of `new`. -/
def putFields (firmware locked : Bool) (old v : Nat) (l : List FieldDef) (new : Nat) : Nat :=
  l.foldl (fun n f => f.put firmware locked old v n) new

theorem putFields_lt (firmware locked : Bool) (old v : Nat) {l : List FieldDef} (hl : ∀ f ∈ l, f.lo + f.len ≤ 32) {new : Nat}
    (hnew : new < 2 ^ 32) : putFields firmware locked old v l new < 2 ^ 32 := by
  induction l generalizing new with
  | nil => exact hnew
  | cons f l ih =>
    exact ih (fun g hg => hl g (List.mem_cons_of_mem _ hg)) (f.put_lt (hl f List.mem_cons_self) _ _ _ _ hnew)

theorem bitsOf_putFields_apart (firmware locked : Bool) (old v : Nat) {l : List FieldDef} {g : FieldDef} (hg : ∀ f ∈ l, f.Apart g)
    (new : Nat) : bitsOf (putFields firmware locked old v l new) g.lo g.len = bitsOf new g.lo g.len := by
  induction l generalizing new with
  | nil => rfl
  | cons f l ih =>
    exact (ih (fun x hx => hg x (List.mem_cons_of_mem _ hx)) _).trans
      (FieldDef.bitsOf_put_apart (hg f List.mem_cons_self) _ _ _ _ _)

/-- Each of several fields that are apart takes what its access type gives. -/
theorem bitsOf_putFields (firmware locked : Bool) (old v : Nat) {l : List FieldDef} (hl : l.Pairwise FieldDef.Apart) {new : Nat}
    (hnew : ∀ f ∈ l, bitsOf new f.lo f.len = bitsOf old f.lo f.len) {g : FieldDef} (hg : g ∈ l) :
    bitsOf (putFields firmware locked old v l new) g.lo g.len =
      g.taken firmware locked (bitsOf old g.lo g.len) (bitsOf v g.lo g.len) := by
  induction l generalizing new with
  | nil => cases hg
  | cons f l ih =>
    obtain ⟨hf, hl⟩ := List.pairwise_cons.1 hl
    rcases List.mem_cons.1 hg with rfl | hg
    · exact (bitsOf_putFields_apart _ _ _ _ (fun x hx => (hf x hx).symm) _).trans
        (FieldDef.bitsOf_put_same _ _ (hnew g List.mem_cons_self))
    · exact ih hl (fun x hx => (FieldDef.bitsOf_put_apart (hf x hx) _ _ _ _ _).trans (hnew x (List.mem_cons_of_mem _ hx))) hg

theorem exec_registerWrite_w32 {s : State} {x : Agent} {a : BitVec 28} (v : DWord) (hx : s.dev.sends x = true) (ha : a.toNat % 4 = 0)
    (hbuf : reqBuffer a.toNat = none) (hmsix : ¬ (0x100800 ≤ a.toNat ∧ a.toNat < 0x100900)) :
    exec (.registerWrite x a .w32 v) s = .next { s with dev := s.dev.regWrite (x ≠ .host) a.toNat v.toNat } := by
  refine next_congr ?_
  simp [Dev.w0Write, widthBytes, hx, ha, hbuf, hmsix]

theorem Dev.regWrite_of_none (d : Dev) (firmware : Bool) {a : Nat} (v : Nat) (h : regDefAt a = none) : d.regWrite firmware a v = d := by
  rw [Dev.regWrite, h]

theorem Dev.regWrite_of_fixed {d : Dev} {firmware : Bool} {a : Nat} {r : RegDef} (v : Nat) (hr : regDefAt a = some r)
    (h : d.regFixed firmware a = true) : d.regWrite firmware a v = d := by
  rw [Dev.regWrite, hr]
  exact if_pos h

/-- The register takes the word its fields make, after the attempt's first-failure event and the change of ORO_EN. -/
theorem Dev.regWrite_of_some {d : Dev} {firmware : Bool} {a : Nat} {r : RegDef} (v : Nat) (hr : regDefAt a = some r)
    (h : d.regFixed firmware a = false) :
    d.regWrite firmware a v =
      let new := putFields firmware d.locked (d.rdw a) v r.fields (d.rdw a)
      let e := if d.locked = true ∧ (∃ f ∈ r.fields, f.acc = .rwl ∧ f.own = false) then d.ffr causeLocked a v else d
      let f := if a = F.PWC_CTRL_ORO_EN.addr 0 then e.oroEn (bitOf new F.PWC_CTRL_ORO_EN.lo) else e
      (f.wrw a new).regAfter a := by
  rw [Dev.regWrite, hr]
  simp [h, putFields]

/-- Settles O10: the register takes the word its fields make, and they are apart. -/
theorem registerWritesFollowTheAccessTypes : Obligations.RegisterWritesFollowTheAccessTypes := by
  intro s x a v hx ha hbuf hmsix
  rw [exec_registerWrite_w32 v hx ha hbuf hmsix]
  refine ⟨fun hr => next_congr (Dev.regWrite_of_none _ _ _ hr), fun r hr hfix => next_congr (Dev.regWrite_of_fixed _ hr hfix),
    fun r hr hfix => ?_⟩
  obtain ⟨hin, hapart⟩ := fieldsApart_of_regDefAt hr
  refine ⟨_, putFields_lt _ _ _ _ hin (s.dev.rdw_lt _), next_congr (Dev.regWrite_of_some _ hr hfix), fun f hf => ?_⟩
  rw [bitsOf_putFields _ _ _ _ hapart (fun _ _ => rfl) hf]
  simp [FieldDef.taken] <;> rfl

/-! ### Register accesses and clock events -/

/-- Settles O17: a 32-bit write puts the fields' word; the other accesses act where their checks pass. -/
theorem registerAccessAndClockEvents : Obligations.RegisterAccessAndClockEvents := by
  refine ⟨?_, ?_, ?_, ?_, ?_, ?_, ?_, ?_, ?_, ?_, ?_, ?_, ?_, ?_⟩
  · rintro s by_ a w v r hSends rfl hAligned hBuffer hMsix hReg hFixed hLocked hOro
    rw [exec_registerWrite_w32 v hSends hAligned hBuffer hMsix]
    refine next_congr ((Dev.regWrite_of_some _ hReg hFixed).trans ?_)
    simp [hLocked, hOro, putFields]
  · exact fun _ _ _ _ _ hSends hNarrow hAligned hBuffer =>
      next_congr (by simp [Dev.w0Write, hSends, hNarrow, hAligned, hBuffer])
  · exact fun _ _ _ _ _ _ _ hSends hAligned hBuffer hState =>
      next_congr (by simp [Dev.w0Write, hSends, hAligned, hBuffer, hState])
  · exact fun _ _ _ _ _ _ _ hSends hAligned hBuffer hState =>
      next_congr (by simp [Dev.w0Write, hSends, hAligned, hBuffer, hState])
  · exact fun _ _ _ hSends => next_congr (if_pos hSends)
  · exact fun _ hSends => next_congr (if_pos ⟨rfl, hSends⟩)
  · exact fun _ _ _ hSends hCounter => next_congr (if_pos ⟨hSends, hCounter⟩)
  · exact fun _ _ _ _ hSends hWide => next_congr (if_pos ⟨hSends, hWide⟩)
  · rintro _ _ _ _ _ hSends hFour hWide rfl
    exact next_congr (if_pos ⟨hSends, hFour, hWide⟩)
  · exact fun _ _ => next_congr rfl
  · exact fun _ _ => next_congr rfl
  · exact fun _ hVinUp hXtal => next_congr (if_pos ⟨hVinUp, hXtal⟩)
  · exact fun _ => next_congr rfl
  · exact fun _ => next_congr rfl

/-! ### Code words (R35 to R37) -/

/-- A word whose poison flag is set is delivered poisoned and left as it is. -/
theorem Dev.eccRead_corrected_of_poisoned {d : Dev} {m : EccMem} {w : Nat} (h : (d.eccStored m w).1 = true) :
    d.eccRead m w .corrected = (((d.eccStored m w).2, true), d.eccDrawn m) :=
  if_pos h

theorem Dev.eccRead_corrected_of_not_poisoned {d : Dev} {m : EccMem} {w : Nat} (h : (d.eccStored m w).1 = false) :
    d.eccRead m w .corrected =
      (((d.eccStored m w).2, false),
        ((((d.eccDrawn m).inc F.GLB_ECC_CE_COUNT_COUNT).wbQueue (eccPlace m w).1 false).eccOwner m w false).bankError m w false) :=
  if_neg (by simp [h])

/-- A correction's write-back, once it is due, is only dropped: the word read was delivered corrected. -/
theorem Dev.eccWriteback_correction {d : Dev} {m : EccMem} {w : Nat} (hpend : tget (fun _ => false) d.wbPend (eccPlace m w).1 = true)
    (hwb : tget (fun _ => false) d.wb (eccPlace m w).1 = false) : d.eccWriteback m w = d.dropWb (eccPlace m w).1 := by
  simp [Dev.eccWriteback, hpend, hwb]

/-- A poison write-back of a word of a byte memory sets its flag. -/
theorem Dev.eccWriteback_poison {d : Dev} {m : EccMem} {w : Nat} {p : Space × Nat} (hplace : (eccPlace m w).2 = some p)
    (hpend : tget (fun _ => false) d.wbPend (eccPlace m w).1 = true) (hwb : tget (fun _ => false) d.wb (eccPlace m w).1 = true) :
    d.eccWriteback m w = (d.dropWb (eccPlace m w).1).setPoison p.1 p.2 true := by
  simp [Dev.eccWriteback, hpend, hwb, hplace]

/-- Settles O18: a read delivers by what the decoder found, and a write-back acts by the flag it carries. -/
theorem codeWordsReadAndWrittenBack : Obligations.CodeWordsReadAndWrittenBack := by
  refine ⟨?_, ?_, ?_, ?_, ?_, ?_, ?_⟩
  · exact fun _ _ _ hOn => next_congr (if_pos hOn)
  · rintro s m w _ hOn hStored rfl
    refine next_congr ((if_pos hOn).trans ?_)
    rw [Dev.eccRead_corrected_of_not_poisoned hStored]
  · intro s m w hOn hStored
    refine next_congr ((if_pos hOn).trans ?_)
    rw [Dev.eccRead_corrected_of_poisoned hStored]
  · rintro _ _ _ _ _ _ _ hOn rfl rfl rfl
    exact next_congr (if_pos hOn)
  · exact fun _ _ _ _ hOn hPlace hPend hWb => next_congr ((if_pos hOn).trans (Dev.eccWriteback_poison hPlace hPend hWb))
  · exact fun _ _ _ hOn hPend hWb => next_congr ((if_pos hOn).trans (Dev.eccWriteback_correction hPend hWb))
  · exact fun _ _ _ _ hOn => next_congr (if_pos hOn)

end Sys2Proof.Machine
end

section
/-! PROOFS. Resets (spec/01), and the boot ROM, watchdogs, updates, trials, converters and the oscillator (spec/11, spec/12). -/

namespace Sys2Proof.Machine

/-! ### Resets -/

/-- A write of GLB_RESET_CTRL with the key: CAUSE is cleared first, then the cold reset goes before the warm one. -/
theorem Dev.resetCtrl_keyed (d : Dev) {v : Nat} (h : v / 65536 = 0x5A96) :
    d.resetCtrl v =
      let e := if bitOf v 2 then d.wrw (F.GLB_RESET_CAUSE_POR.addr 0) 0 else d
      if bitOf v 1 then e.coldRequest rcHostCold else if bitOf v 0 then e.warmRequest rcHostWarm else e :=
  if_neg (not_not_intro h)

/-- A write of GLB_RESET_CTRL without the key is only recorded. -/
theorem Dev.resetCtrl_unkeyed (d : Dev) {v : Nat} (h : v / 65536 ≠ 0x5A96) :
    d.resetCtrl v = d.ffr causeKey (F.GLB_RESET_CTRL_KEY.addr 0) v :=
  if_pos h

/-- Settles O19: the three bits of GLB_RESET_CTRL are one operation under the key; the other resets act where their conditions hold. -/
theorem resetCommands : Obligations.ResetCommands := by
  refine ⟨?_, ?_, ?_, ?_, ?_, ?_, ?_, ?_, ?_, ?_, ?_, ?_, ?_, ?_, ?_, ?_, ?_, ?_, ?_, ?_⟩
  · rintro _ _ _ _ _ _ hVinUp rfl
    exact next_congr (by simp [hVinUp])
  · exact fun _ hVinUp => next_congr (by simp [hVinUp])
  · exact fun _ hColdReq hColdDown hPoweringDown => next_congr (by simp [hColdReq, hColdDown, hPoweringDown])
  · exact fun _ hColdReq hColdDown hPoweringDown => next_congr (by simp [hColdReq, hColdDown, hPoweringDown])
  · exact fun _ hNone => next_congr (by simp [hNone])
  · exact fun _ hDeferred hPoweringDown hColdDown => next_congr (if_pos ⟨hDeferred, hPoweringDown, hColdDown⟩)
  · exact fun _ hWarmReq hColdReq hDeferred hSysOn hEndgame hColdDown =>
      next_congr (if_pos ⟨hWarmReq, hColdReq, hDeferred, hSysOn, hEndgame, hColdDown⟩)
  · rintro _ _ hSysOn rfl
    exact next_congr (if_pos hSysOn)
  · exact fun _ hSysOn => next_congr (by simp [hSysOn])
  · rintro _ _ _ _ hSends hKey rfl
    exact next_congr ((if_pos hSends).trans (Dev.resetCtrl_keyed _ hKey))
  · rintro _ _ _ _ hSends hKey rfl
    exact next_congr ((if_pos hSends).trans (Dev.resetCtrl_keyed _ hKey))
  · rintro _ _ _ _ hSends hKey rfl
    exact next_congr ((if_pos hSends).trans (Dev.resetCtrl_keyed _ hKey))
  · exact fun _ _ _ hSends hKey => next_congr ((if_pos hSends).trans (Dev.resetCtrl_unkeyed _ hKey))
  · exact fun _ _ _ hSends hKey => next_congr ((if_pos hSends).trans (Dev.resetCtrl_unkeyed _ hKey))
  · exact fun _ _ _ hSends hKey => next_congr ((if_pos hSends).trans (Dev.resetCtrl_unkeyed _ hKey))
  · exact fun _ _ _ hSends hKey => next_congr (by simp [hSends, hKey])
  · exact fun _ _ _ hSends hKey => next_congr (by simp [hSends, hKey])
  · exact fun _ _ _ hSends => next_congr (by simp [hSends])
  · exact fun _ hSysOn hCoreUp => next_congr (if_pos ⟨hSysOn, hCoreUp⟩)
  · exact fun _ hCoreLost hCorePower hColdDown => next_congr (if_pos ⟨hCoreLost, hCorePower, hColdDown⟩)

/-! ### The end of an erase, a frame's end -/

/-- The erase that an UPDATE_BEGIN waits for ends: the session goes on or, where it is closing or the erase failed, ends. -/
theorem Dev.eraseEnd_of_session {d : Dev} {x : Session} {i : Nat} (hsess : d.boot.sess = some x) (hid : x.id = some i) (ok : Bool) :
    d.eraseEnd ok =
      let e := (d.clearRange .flash (slotBase x.target) slotSize).jMark x.target jsWriting 0
      let f := ({ e with boot.sess := some { x with id := none, at' := e.gts } } : Dev).complete i msOk (le 1 x.target ++ zeros 3)
      if ok then (if x.closing then f.sessEnd else f).updShow
      else (d.sessEnd.complete i msIntegrity (le 1 x.target ++ zeros 3)).updShow := by
  simp only [Dev.eraseEnd, hsess, hid]

/-- The oldest frame that is over is booked once its telemetry window is closed. -/
theorem Dev.ledgerEnd_of_done {d x : Dev} {f : FrameDone} {rest : List FrameDone} (hx : x = d.frameRoll) (hdone : x.pwr.done = f :: rest)
    (hdue : (f.k + 1) * 10000 + (if x.is F.ORO_CTRL_TLM_EN then x.tlmWindow else 0) ≤ x.gts) :
    d.ledgerEnd = ((({ x with pwr.done := rest } : Dev).ledgerFrame f).clkFlush ((f.k + 1) * 10000)).tlmPurge := by
  subst hx
  simp only [Dev.ledgerEnd, hdone]
  exact if_pos hdue

/-! ### Boot, watchdogs, updates and faults -/

/-- Settles O20: each event acts where its conditions hold, on the state the operation names. -/
theorem bootWatchdogsUpdatesAndFaults : Obligations.BootWatchdogsUpdatesAndFaults := by
  refine ⟨?_, ?_, ?_, ?_, ?_, ?_, ?_, ?_, ?_, ?_, ?_, ?_, ?_, ?_, ?_, ?_, ?_, ?_, ?_, ?_, ?_, ?_, ?_⟩
  · exact fun _ _ hSysOn hDue hCore hEndgame hColdDown => next_congr (if_pos ⟨hSysOn, hDue, hCore, hEndgame, hColdDown⟩)
  · exact fun _ _ _ hSysOn => next_congr (if_pos hSysOn)
  · exact fun _ _ _ hSysOn => next_congr (by simp [hSysOn])
  · exact fun _ _ hSysOn hReleased hFailed hDue => next_congr (if_pos ⟨hSysOn, hReleased, hFailed, hDue⟩)
  · exact fun _ _ hDue => next_congr (if_neg fun ⟨_, _, _, hOver⟩ => Nat.not_le.2 hDue hOver)
  · intro _ _ _ _ _ hSysOn hCoreUp hSess hId he hf
    refine next_congr ((if_pos ⟨hSysOn, hCoreUp⟩).trans ?_)
    rw [Dev.eraseEnd_of_session hSess hId true, if_pos rfl, hf, he]
  · exact fun _ _ _ hSysOn hCoreUp hSess hId =>
      next_congr ((if_pos ⟨hSysOn, hCoreUp⟩).trans (Dev.eraseEnd_of_session hSess hId false))
  · exact fun _ _ hSysOn hCoreUp hSess hId hAt => next_congr (by simp [hSysOn, hCoreUp, hSess, hId, hAt])
  · intro _ _ hHeld hSysOn hCoreUp hClear
    exact next_congr (by simp only [hHeld]; exact if_pos ⟨hSysOn, hCoreUp, hClear⟩)
  · intro _ _ _ hRun hServed hSysOn hCoreUp hTrial hAuto hWdog hDue
    exact next_congr (by simp only [hRun, hServed]; exact if_pos ⟨hSysOn, hCoreUp, hTrial, hAuto, hWdog, hDue⟩)
  · intro _ _ hRun hSysOn hCoreUp hTrial hDue
    exact next_congr (by simp only [hRun]; exact if_pos ⟨hSysOn, hCoreUp, hTrial, hDue⟩)
  · rintro _ _ _ _ hAsleep hCorePower rfl hFast
    exact next_congr (by simp [hAsleep, hCorePower, hFast])
  · rintro _ _ _ _ _ hAsleep hCorePower rfl hFast rfl
    exact next_congr (by simp [hAsleep, hCorePower, hFast])
  · rintro _ _ _ hCoreUp rfl
    exact next_congr (by simp [hCoreUp])
  · exact fun _ _ => next_congr (by simp)
  · intro s r0 r1 r2 r3 spare hFailed
    have hFailed' : (s.dev.wr F.TLM_REF_SPARE_REF 0 spare.toNat).is F.TLM_STATUS_SPARE_FAILED = true := by
      rwa [Dev.is_wr_addr _ _ _ _ _ _ (by decide)]
    exact next_congr (by simp [Dev.adcScan, hFailed'])
  · rintro _ _ _ _ _ _ _ _ _ _ _ _ _ rfl hFailed rfl rfl rfl rfl rfl rfl
    exact next_congr (by simp [Dev.adcScan, hFailed])
  · rintro s ch code _ rfl hBad
    exact next_congr (by simp [Dev.adcSample, hBad])
  · rintro _ _ _ _ _ _ _ _ _ _ hBad rfl rfl rfl rfl rfl rfl rfl
    exact next_congr (by simp [Dev.adcSample, hBad])
  · rintro _ _ hOk rfl
    exact next_congr (if_pos hOk)
  · exact fun _ hOk => next_congr (by simp [Dev.chkFail, hOk])
  · rintro _ _ _ _ _ hSysOn hx hDone hDue rfl
    exact next_congr ((if_pos hSysOn).trans (Dev.ledgerEnd_of_done hx hDone hDue))
  · intro s op q r hUnserved hLink hFree hCheck
    rw [exec_mbxUnknownOpcode q s hUnserved]
    exact next_congr (Dev.mbxArrive_refused s.dev (unknownOp op.toNat) false q r hLink hFree hCheck)

end Sys2Proof.Machine
end

section
/-! PROOFS. MCTP control and SPDM (spec/12, spec/13), and the mailbox's own events: channels, leases, the log, trace points. -/

namespace Sys2Proof.Machine

/-! ### MCTP control and SPDM -/

/-- SEC answers an SPDM request by one message. -/
theorem Dev.spdm_of_up {d : Dev} {ch : Nat} (kind : String) (f : Dev → List Byte × Dev) (hup : d.mctpUp ch = true)
    (hsec : d.coreUp coreSec = true) : d.spdm ch kind f = (f d).2.emit (.msg kind ch (f d).1) :=
  if_pos (by rw [hup, hsec]; rfl)

/-- Settles O21: a request that reaches the endpoint (and SEC) is answered by its message. -/
theorem mctpControlAndAttestation : Obligations.MctpControlAndAttestation := by
  refine ⟨?_, ?_, ?_, ?_, ?_, ?_, ?_, ?_, ?_, ?_, ?_, ?_, ?_, ?_, ?_, ?_, ?_, ?_⟩
  · exact fun _ _ _ hUp hNull hBroadcast => next_congr ((if_neg (not_not_intro hUp)).trans (if_neg (not_or_intro hNull hBroadcast)))
  · exact fun _ _ _ hUp hRefused => next_congr ((if_neg (not_not_intro hUp)).trans (if_pos hRefused))
  · exact fun _ _ hUp => next_congr (if_pos hUp)
  · exact fun _ _ hUp => next_congr (if_pos hUp)
  · exact fun _ _ _ hUp => next_congr (if_pos hUp)
  · exact fun _ _ hUp => next_congr (if_pos hUp)
  · exact fun _ _ hUp => next_congr (by simp [hUp])
  · exact fun _ _ => next_congr (by simp)
  · exact fun _ _ hUp hSec => next_congr (Dev.spdm_of_up _ _ hUp hSec)
  · exact fun _ _ hUp hSec => next_congr (Dev.spdm_of_up _ _ hUp hSec)
  · exact fun _ _ _ _ hUp hSec => next_congr (Dev.spdm_of_up _ _ hUp hSec)
  · exact fun _ _ hUp hSec => next_congr (Dev.spdm_of_up _ _ hUp hSec)
  · rintro _ _ _ _ _ hUp hSec rfl
    exact next_congr ((if_pos rfl).trans (Dev.spdm_of_up _ _ hUp hSec))
  · exact fun _ _ _ _ _ hUp hSec hSlot => next_congr ((if_neg hSlot).trans (Dev.spdm_of_up _ _ hUp hSec))
  · exact fun _ _ _ hUp hSec => next_congr (Dev.spdm_of_up _ _ hUp hSec)
  · intro _ _ _ _ hUp hSec hIndex
    refine next_congr ((Dev.spdm_of_up _ _ hUp hSec).trans ?_)
    rw [if_neg hIndex]
  · rintro _ _ _ _ hUp hSec rfl
    exact next_congr (Dev.spdm_of_up _ _ hUp hSec)
  · exact fun _ _ hUp hSec => next_congr (Dev.spdm_of_up _ _ hUp hSec)

/-! ### The log and trace points -/

theorem Dev.logStn_obs (d : Dev) (p : Nat) (b : List Byte) : (d.logStn p b).obs = d.obs := by
  rw [Dev.logStn, Dev.stn_obs, Dev.stn_obs]

/-- A record whose level and core are enabled is written to the ring and, with COPY set, to queue 5. -/
theorem Dev.logRecord_of_enabled {d : Dev} {core level : Nat} (code : Nat) (args : List Byte) (hlevel : level ≤ d.obs.logLevel)
    (hcore : bitOf d.obs.logMask core = true) :
    d.logRecord core level code args =
      let n := 24 + ((args.take 232).length + 7) / 8 * 8
      let b := le 8 d.obs.logSeq ++ le 8 d.gts ++ le 2 n ++ le 1 core ++ le 1 level ++ le 4 code ++ fitBytes (n - 24) (args.take 232)
      let e := d.logStn d.obs.logHead b
      let keep := (e.obs.logRecs ++ [(e.obs.logSeq, d.obs.logHead, n)]).filter fun (r : Nat × Nat × Nat) =>
        d.obs.logHead + n ≤ r.2.1 + logSize
      let f : Dev := { e with obs.logSeq := e.obs.logSeq + 1, obs.logHead := d.obs.logHead + n, obs.logRecs := keep }
      if d.obs.logCopy then (f.cqSend 5 b).2 else f := by
  refine (if_neg (by simp [hlevel, hcore])).trans ?_
  simp only [Dev.logStn_obs]

/-- An enabled trace point puts its two words into stream queue 0. -/
theorem Dev.tracePoint_of_enabled {d : Dev} {n : Nat} (core arg : Nat) (htrace : tget (fun _ => false) d.obs.traceEn n = true)
    (hqueue : d.is F.CQ_CFG_EN 0 = true) :
    d.tracePoint n core arg = (d.cqStreamWord 0 true (n * 2 ^ 24 + core * 65536 + d.gts % 65536)).cqStreamWord 0 false arg :=
  if_pos (by rw [htrace, hqueue]; rfl)

/-- Settles O22: each event acts where its conditions hold; an enabled record or trace point is written. -/
theorem mailboxServiceEvents : Obligations.MailboxServiceEvents := by
  refine ⟨?_, ?_, ?_, ?_, ?_, ?_, ?_, ?_, ?_⟩
  · exact fun _ _ hLink hState => next_congr (if_pos ⟨hLink, hState⟩)
  · exact fun _ _ _ _ hWaiting hEn hFits => next_congr (by simp [hWaiting, hEn, hFits])
  · exact fun _ hSysOn => next_congr (if_pos hSysOn)
  · exact fun _ hDue => next_congr (if_pos hDue)
  · exact fun _ hDue hWarned => next_congr (by simp [hDue, hWarned])
  · exact fun _ _ _ _ hSysOn hCoreUp hTrace hEn =>
      next_congr ((if_pos ⟨hSysOn, hCoreUp⟩).trans (Dev.tracePoint_of_enabled _ _ hTrace hEn))
  · rintro _ _ _ _ _ _ _ _ _ hSysOn hCoreUp hLevel hCore hCopy rfl rfl rfl rfl
    refine next_congr ((if_pos ⟨hSysOn, hCoreUp⟩).trans ?_)
    rw [Dev.logRecord_of_enabled _ _ hLevel hCore]
    exact if_neg (by simp [hCopy])
  · rintro _ _ _ _ _ _ _ _ _ hSysOn hCoreUp hLevel hCore hCopy rfl rfl rfl rfl
    refine next_congr ((if_pos ⟨hSysOn, hCoreUp⟩).trans ?_)
    rw [Dev.logRecord_of_enabled _ _ hLevel hCore]
    exact if_pos hCopy
  · exact fun _ _ hSysOn hCoreUp => next_congr (if_pos ⟨hSysOn, hCoreUp⟩)

end Sys2Proof.Machine
end

section
/-! PROOFS. Tiles and slots (spec/03): the aperture, loads, commits, triggers, tile faults and supervision. -/

namespace Sys2Proof.Machine

/-! ### The aperture, loads, COMMIT and RETIRE -/

/-- A commit that passes makes the slot READY and, where PRED_VALID is set, retires the predecessor. -/
theorem Dev.slotCommit_of_ok {d : Dev} {n : Nat} (h : d.commitOk n = true) :
    d.slotCommit n =
      let e := d.wr F.SLOT_STATE_STATE n ssReady
      if d.is F.SLOT_CTRL_PRED_VALID n then e.slotRetire (e.rd F.SLOT_CTRL_PRED n) else e := by
  have haddr : F.SLOT_CTRL_PRED_VALID.addr n ≠ F.SLOT_STATE_STATE.addr n := Fld.addr_ne _ rfl (by decide)
  refine (if_pos h).trans ?_
  simp only [Dev.is_wr_addr _ _ _ _ _ _ haddr]

theorem Dev.slotRetire_of_running {d : Dev} {n : Nat} (h : d.sst n = ssRunning) :
    d.slotRetire n = d.wr F.SLOT_STATE_STATE n ssRetiring :=
  if_pos h

theorem Dev.slotRetire_of_free {d : Dev} {n : Nat} (h : d.sst n = ssFree ∨ d.sst n = ssRetiring) : d.slotRetire n = d :=
  (if_neg fun hrun => by rcases h with h | h <;> exact absurd (hrun.symm.trans h) (by decide)).trans (if_pos h)

theorem Dev.slotRetire_of_idle {d : Dev} {n : Nat} (hrun : d.sst n ≠ ssRunning) (hfree : d.sst n ≠ ssFree)
    (hretiring : d.sst n ≠ ssRetiring) : d.slotRetire n = d.slotFree n :=
  (if_neg hrun).trans (if_neg (not_or_intro hfree hretiring))

/-- Settles O23: an access goes by the address it names, a commit by its checks, a retirement by the slot's state. -/
theorem tileApertureAndLoads : Obligations.TileApertureAndLoads := by
  refine ⟨?_, ?_, ?_, ?_, ?_, ?_, ?_, ?_, ?_, ?_, ?_, ?_, ?_, ?_, ?_, ?_⟩
  · exact fun _ _ _ _ _ _ hArrOn hAddress hTst => next_congr (by simp [hArrOn, hAddress, hTst])
  · exact fun _ _ _ _ _ _ hArrOn hAddress hTst => next_congr (by simp [hArrOn, hAddress, hTst])
  · exact fun _ _ _ _ _ hArrOn hAddress => next_congr (by simp [hArrOn, hAddress])
  · exact fun _ _ _ _ _ hArrOn hAddress hPoisoned => next_congr (by simp [hArrOn, hAddress, hPoisoned])
  · exact fun _ _ _ _ _ hArrOn hAddress hPoisoned => next_congr (by simp [hArrOn, hAddress, hPoisoned])
  · exact fun _ _ _ _ hArrOn hAddress => next_congr (by simp [hArrOn, hAddress])
  · exact fun _ _ _ hArrOn hTst => next_congr (if_pos ⟨hArrOn, hTst⟩)
  · exact fun _ _ _ hTst => next_congr (by simp [hTst])
  · rintro _ _ _ _ hArrOn hCoreUp hLoads rfl
    refine next_congr ((if_pos ⟨hArrOn, hCoreUp⟩).trans ?_)
    simp only [Dev.loadNext, hLoads]
  · exact fun _ hLoads => next_congr (by simp [Dev.loadNext, hLoads])
  · intro _ _ hArrOn hOk hPred
    refine next_congr ((if_pos hArrOn).trans ((Dev.slotCommit_of_ok hOk).trans (if_neg ?_)))
    simp [hPred]
  · rintro s n _ hArrOn hOk hPred rfl
    have haddr : F.SLOT_CTRL_PRED.addr n.val ≠ F.SLOT_STATE_STATE.addr n.val := Fld.addr_ne _ rfl (by decide)
    refine next_congr ((if_pos hArrOn).trans ((Dev.slotCommit_of_ok hOk).trans ((if_pos hPred).trans ?_)))
    rw [Dev.rd_wr_addr _ _ _ _ _ _ haddr]
  · exact fun _ _ hArrOn hOk => next_congr ((if_pos hArrOn).trans (if_neg (by simp [hOk])))
  · rintro _ _ _ hArrOn rfl hRun
    exact next_congr ((if_pos hArrOn).trans (Dev.slotRetire_of_running hRun))
  · rintro _ _ _ hArrOn rfl hRun hFree hRetiring
    exact next_congr ((if_pos hArrOn).trans (Dev.slotRetire_of_idle hRun hFree hRetiring))
  · rintro _ _ _ hArrOn rfl hFree
    exact next_congr ((if_pos hArrOn).trans (Dev.slotRetire_of_free hFree))

/-! ### Triggers and timer ticks (R118) -/

/-- A slot with an invocation is not READY. -/
theorem Dev.sst_ne_ready {d : Dev} {n : Nat} (h : d.sst n = ssRunning ∨ d.sst n = ssRebuilding) : d.sst n ≠ ssReady := by
  rcases h with h | h <;> rw [h] <;> decide

/-- A trigger of a busy slot, other than the tick that runs, is held, or dropped where one is held. -/
theorem Dev.trigger_of_busy {d : Dev} {n : Nat} (hbusy : d.sst n = ssRunning ∨ d.sst n = ssRebuilding)
    (hnew : ¬ (d.sst n = ssRunning ∧ (d.sl n).trig = d.gts ∧ ¬ (d.sl n).explicit = true)) :
    d.trigger n =
      if (d.sl n).pend then d.inc F.SLOT_COUNTS_DROPPED n else d.slMod n fun x => { x with pend := true, pendAt := d.gts } :=
  (if_neg fun h => Dev.sst_ne_ready hbusy h.1).trans ((if_pos (.inr hbusy)).trans (if_neg hnew))

/-- A timer tick not yet taken is taken. -/
theorem Dev.timerTick_of_new {d : Dev} {n t : Nat} (htick : d.lastTick n = some t) (hnew : (d.sl n).tick ≠ some t) :
    d.timerTick n =
      let e := d.slMod n fun x => { x with tick := some t }
      if e.sst n = ssReady ∧ e.slotUp n = true then e.invStart n t false
      else if e.sst n = ssReady ∨ e.sst n = ssRunning ∨ e.sst n = ssRebuilding then
        if e.sst n = ssRunning ∧ (d.sl n).trig = t ∧ (d.sl n).explicit then e else e.inc F.SLOT_COUNTS_OVERRUN n
      else e := by
  simp only [Dev.timerTick, htick, if_neg hnew]

/-- No tick, or one that is taken, changes nothing. -/
theorem Dev.timerTick_of_taken {d : Dev} {n t : Nat} (h : d.lastTick n = none ∨ d.lastTick n = some t ∧ (d.sl n).tick = some t) :
    d.timerTick n = d := by
  rcases h with hnone | ⟨htick, htaken⟩
  · simp only [Dev.timerTick, hnone]
  · simp only [Dev.timerTick, htick, htaken, if_true]

/-- Settles O24: what a trigger or a tick does follows from the slot's state. -/
theorem slotInvocations : Obligations.SlotInvocations := by
  refine ⟨?_, ?_, ?_, ?_, ?_, ?_, ?_, ?_⟩
  · exact fun _ _ hArrOn hReady hUp => next_congr ((if_pos hArrOn).trans (if_pos ⟨hReady, hUp⟩))
  · exact fun _ _ hArrOn hBusy hNew hPend =>
      next_congr ((if_pos hArrOn).trans ((Dev.trigger_of_busy hBusy hNew).trans (if_neg (by simp [hPend]))))
  · exact fun _ _ hArrOn hBusy hNew hPend =>
      next_congr ((if_pos hArrOn).trans ((Dev.trigger_of_busy hBusy hNew).trans (if_pos hPend)))
  · rintro _ _ _ _ hArrOn hTick hNew rfl hReady hUp
    exact next_congr ((if_pos hArrOn).trans ((Dev.timerTick_of_new hTick hNew).trans (if_pos ⟨hReady, hUp⟩)))
  · rintro _ _ _ _ hArrOn hTick hNew rfl hBusy hOther
    refine next_congr ((if_pos hArrOn).trans ((Dev.timerTick_of_new hTick hNew).trans ?_))
    exact (if_neg fun h => Dev.sst_ne_ready hBusy h.1).trans ((if_pos (.inr hBusy)).trans (if_neg hOther))
  · exact fun _ _ _ hTaken => next_congr (by simp [Dev.timerTick_of_taken hTaken])
  · rintro _ _ _ _ _ _ _ _ _ _ hArrOn hBusy hUp hEnded rfl rfl rfl rfl rfl rfl rfl
    exact next_congr (if_pos ⟨hArrOn, hBusy, hUp, hEnded⟩)
  · rintro _ _ _ hArrOn hBusy hUp hDue rfl
    exact next_congr (if_pos ⟨hArrOn, hBusy, hUp, hDue⟩)

/-! ### Tile faults and supervision -/

/-- A fault of a tile in service is recorded; the takeover runs at once, or once the CCC is up. -/
theorem Dev.tileFault_of_serves {d : Dev} {t : Nat} (kind : Nat) (pass : Bool) (harr : d.arrOn = true) (hserves : d.tileServes t = true) :
    d.tileFault t kind pass =
      let e := d.ffr causeTileFault t kind
      if e.coreUp (3 + t / 9) then e.tileFail t pass else { e with arr.faults := e.arr.faults ++ [(t, pass)] } :=
  if_neg (not_not_intro ⟨harr, hserves⟩)

/-- A fatal error of a tile in service sets UE_FATAL and is a fault of kind 0. -/
theorem Dev.tileFault_fatal {d : Dev} {t : Nat} (pass : Bool) (harr : d.arrOn = true) (hserves : d.tileServes t = true) :
    (if d.arrOn ∧ d.tileServes t = true then d.wr F.TILE_ERR_UE_FATAL t 1 else d).tileFault t 0 pass =
      let e := (d.wr F.TILE_ERR_UE_FATAL t 1).ffr causeTileFault t 0
      if e.coreUp (3 + t / 9) then e.tileFail t pass else { e with arr.faults := e.arr.faults ++ [(t, pass)] } := by
  have haddr : F.TILE_STATE_STATE.addr t ≠ F.TILE_ERR_UE_FATAL.addr t := Fld.addr_ne _ rfl (by decide)
  rw [if_pos ⟨harr, hserves⟩]
  exact Dev.tileFault_of_serves 0 pass harr ((tileServes_wr d _ t 1 t haddr).trans hserves)

/-- Settles O25: the kinds of fault differ in what they record, and share the takeover. -/
theorem tileSupervision : Obligations.TileSupervision := by
  refine ⟨?_, ?_, ?_, ?_, ?_, ?_, ?_, ?_, ?_, ?_, ?_, ?_, ?_, ?_, ?_⟩
  · rintro _ _ _ _ hArrOn hServes rfl hCcc
    exact next_congr ((Dev.tileFault_fatal _ hArrOn hServes).trans (if_pos hCcc))
  · rintro _ _ _ _ hArrOn hServes rfl hCcc
    exact next_congr ((Dev.tileFault_fatal _ hArrOn hServes).trans (if_neg (by simp [hCcc])))
  · rintro _ _ _ _ hArrOn hServes rfl hCcc
    exact next_congr ((Dev.tileFault_of_serves _ _ hArrOn hServes).trans (if_pos hCcc))
  · rintro _ _ _ _ hArrOn hServes rfl hCcc
    exact next_congr ((Dev.tileFault_of_serves _ _ hArrOn hServes).trans (if_neg (by simp [hCcc])))
  · rintro _ _ _ _ hArrOn hServes rfl hCcc
    exact next_congr ((Dev.tileFault_of_serves _ _ hArrOn hServes).trans (if_pos hCcc))
  · rintro _ _ _ _ hArrOn hServes rfl hCcc
    exact next_congr ((Dev.tileFault_of_serves _ _ hArrOn hServes).trans (if_neg (by simp [hCcc])))
  · rintro _ _ _ _ hArrOn hServes rfl hCcc
    exact next_congr ((Dev.tileFault_fatal _ hArrOn hServes).trans (if_pos hCcc))
  · rintro _ _ _ _ hArrOn hServes rfl hCcc
    exact next_congr ((Dev.tileFault_fatal _ hArrOn hServes).trans (if_neg (by simp [hCcc])))
  · exact fun _ _ hArrOn hRunning => next_congr (if_pos ⟨hArrOn, hRunning⟩)
  · exact fun _ _ _ _ hArrOn hCcc hCheck => next_congr (by simp [hArrOn, hCcc, hCheck])
  · exact fun _ _ hArrOn hCcc hReserve hDue => next_congr (if_pos ⟨hArrOn, hCcc, hReserve, hDue⟩)
  · rintro _ _ _ hArrOn hCcc hReserve hDue rfl
    exact next_congr (if_pos ⟨hArrOn, hCcc, hReserve, hDue⟩)
  · exact fun _ _ _ hArrOn hCcc hIdle hHits hRows => next_congr (by simp [hArrOn, hCcc, hIdle, hHits, hRows])
  · exact fun _ _ _ hHits => next_congr (by simp [Nat.not_le.2 hHits])
  · rintro _ _ _ _ hArrOn hCcc rfl
    exact next_congr (by simp [hArrOn, hCcc])

end Sys2Proof.Machine
end

section
/-! PROOFS. Tile instructions (spec/03 R87 to R99): one rule says what issuing an accepted instruction does, one what an illegal
one does; each clause names the effect its engine has. -/

namespace Sys2Proof.Machine

/-- An instruction whose formats its engine refuses aborts the invocation, whatever its NCTL. -/
theorem Dev.issueAt_refused {d : Dev} {o : TileOp} {ok : Bool} {f : Dev → Dev} (hissue : d.canIssue o.t = true) (hok : ok = false) :
    d.issueAt o ok f = d.tileAbort o.t 0 :=
  issueAt_illegal d o ok f hissue (by rw [hok]; rfl)

/-- An instruction whose formats its engine accepts, with a legal NCTL, has its effect. -/
theorem Dev.issueAt_accepted {d : Dev} {o : TileOp} {ok : Bool} {f : Dev → Dev} (hissue : d.canIssue o.t = true)
    (hnctl : nctlOk o.fd o.nctl.toNat = true) (hok : ok = true) : d.issueAt o ok f = f d :=
  issueAt_ok d o ok f hissue (by rw [hok, hnctl]; rfl)

/-- Settles O27: the sequencer and the accumulators accept every format; the matrix engine accepts by the class of its pair. -/
theorem tileSequencerAndAccumulators : Obligations.TileSequencerAndAccumulators := by
  refine ⟨?_, ?_, ?_, ?_, ?_, ?_, ?_, ?_, ?_, ?_, ?_, ?_, ?_, ?_⟩
  · exact fun _ _ hIssue hNctl => next_congr (Dev.issueAt_accepted hIssue hNctl rfl)
  · exact fun _ _ hIssue hNctl => next_congr (Dev.issueAt_accepted hIssue hNctl rfl)
  · exact fun _ _ hIssue hNctl => next_congr (Dev.issueAt_accepted hIssue hNctl rfl)
  · exact fun _ _ _ hIssue hNctl => next_congr (Dev.issueAt_accepted hIssue hNctl rfl)
  · exact fun _ _ _ hIssue hNctl => next_congr (Dev.issueAt_accepted hIssue hNctl rfl)
  · exact fun _ _ _ hIssue hNctl => next_congr (Dev.issueAt_accepted hIssue hNctl rfl)
  · exact fun _ _ _ hIssue hNctl => next_congr (Dev.issueAt_accepted hIssue hNctl rfl)
  · exact fun _ _ _ _ _ hIssue hNctl => next_congr (Dev.issueAt_accepted hIssue hNctl rfl)
  · exact fun _ _ hIssue hNctl => next_congr (Dev.issueAt_accepted hIssue hNctl rfl)
  · intro s o bank c hIssue hNctl hClass hDepth
    refine next_congr ((Dev.issueAt_accepted hIssue hNctl ?_).trans ?_)
    · simpa [hClass] using hDepth
    · simp only [hClass, Option.getD_some]
  · intro s o bank hIssue hNctl hClass
    refine next_congr (Dev.issueAt_refused hIssue ?_)
    rcases hClass with hNone | ⟨hMx, hDepth⟩
    · simp [hNone]
    · simp [hMx, hDepth]
  · intro _ _ _ _ _ hIssue hNctl hx hvs
    refine next_congr ((Dev.issueAt_accepted hIssue hNctl rfl).trans ?_)
    rw [hvs, hx]
  · exact fun _ _ _ hIssue hNctl => next_congr (Dev.issueAt_accepted hIssue hNctl rfl)
  · exact fun _ _ _ hIssue => next_congr (Dev.issueAt_refused hIssue rfl)

/-- Settles O28: each vector instruction accepts the formats of its group and stores its elements. -/
theorem tileVectorUnit : Obligations.TileVectorUnit := by
  refine ⟨?_, ?_, ?_, ?_, ?_, ?_, ?_, ?_, ?_, ?_, ?_, ?_, ?_, ?_, ?_⟩
  · rintro _ _ _ _ _ _ _ hIssue hNctl hFormats rfl rfl rfl
    exact next_congr (Dev.issueAt_accepted hIssue hNctl hFormats)
  · exact fun _ _ _ _ hIssue hFormats => next_congr (Dev.issueAt_refused hIssue hFormats)
  · exact fun _ _ _ hIssue hNctl hFa =>
      next_congr ((Dev.issueAt_accepted hIssue hNctl (by simp [hFa])).trans (by simp))
  · exact fun _ _ _ hIssue hNctl hFa hFb =>
      next_congr ((Dev.issueAt_accepted hIssue hNctl (by simp [hFa, hFb])).trans (by simp))
  · exact fun _ _ _ _ hIssue hFormats => next_congr (Dev.issueAt_refused hIssue hFormats)
  · exact fun _ _ _ _ hIssue hNctl hFa => next_congr (Dev.issueAt_accepted hIssue hNctl (by simp [hFa]))
  · exact fun _ _ _ _ hIssue hFormats => next_congr (Dev.issueAt_refused hIssue hFormats)
  · rintro _ _ _ _ _ hIssue hNctl hFormats rfl
    exact next_congr (Dev.issueAt_accepted hIssue hNctl hFormats)
  · exact fun _ _ _ _ hIssue hFormats => next_congr (Dev.issueAt_refused hIssue hFormats)
  · exact fun _ _ _ hIssue hNctl => next_congr (Dev.issueAt_accepted hIssue hNctl rfl)
  · exact fun _ _ _ _ hIssue hNctl => next_congr (Dev.issueAt_accepted hIssue hNctl rfl)
  · rintro _ _ _ _ hIssue hNctl hFb rfl
    exact next_congr (Dev.issueAt_accepted hIssue hNctl hFb)
  · exact fun _ _ _ hIssue hFb => next_congr (Dev.issueAt_refused hIssue hFb)
  · rintro _ _ _ _ _ _ _ hIssue hNctl hFormats rfl rfl rfl rfl
    exact next_congr (Dev.issueAt_accepted hIssue hNctl hFormats)
  · exact fun _ _ _ hIssue hFormats => next_congr (Dev.issueAt_refused hIssue hFormats)

/-- A copy on a tile of slot `n` moves every row, or none where a row lies outside the slot's windows (R99). -/
theorem Dev.dmaRows_of_slot {d : Dev} {o : TileOp} {n : Nat} (h : d.slotOf o.t = some n) (da sa len rows dstr sstr : Nat) :
    d.dmaRows o da sa len rows dstr sstr =
      if (List.range rows).all fun r => (d.dmaPlace o.t n (sa + r * sstr) len).isSome && (d.dmaPlace o.t n (da + r * dstr) len).isSome then
        ((List.range rows).foldl (fun e r => e.dmaMove o.t n (da + r * dstr) (sa + r * sstr) len) d).pcNext o.t
      else d.tileAbort o.t 1 := by
  simp only [Dev.dmaRows, h]

/-- COPY moves the one row it names. -/
theorem Dev.dmaRows_one {d : Dev} {o : TileOp} {n : Nat} (h : d.slotOf o.t = some n) (da sa len : Nat) :
    d.dmaRows o da sa len 1 0 0 =
      if (d.dmaPlace o.t n sa len).isSome && (d.dmaPlace o.t n da len).isSome then (d.dmaMove o.t n da sa len).pcNext o.t
      else d.tileAbort o.t 1 := by
  simp [Dev.dmaRows_of_slot h]

/-- Settles O29: the tree engine takes FP32; a copy goes by its rows; a signal by the logical tile it names. -/
theorem tileTreeEngineAndTransfers : Obligations.TileTreeEngineAndTransfers := by
  refine ⟨?_, ?_, ?_, ?_, ?_, ?_, ?_, ?_, ?_, ?_, ?_, ?_⟩
  · rintro _ _ _ _ hIssue hNctl rfl
    exact next_congr (Dev.issueAt_accepted hIssue hNctl rfl)
  · exact fun _ _ _ _ hIssue hNctl hFa hEns =>
      next_congr ((Dev.issueAt_accepted hIssue hNctl (by simp [hFa])).trans (by simp only [hEns]))
  · rintro _ _ _ _ _ _ _ hIssue hNctl hFa hEns rfl rfl
    exact next_congr ((Dev.issueAt_accepted hIssue hNctl (by simp [hFa])).trans (by simp only [hEns] <;> rfl))
  · exact fun _ _ _ _ hIssue hFa => next_congr (Dev.issueAt_refused hIssue (by simp [hFa]))
  · exact fun _ _ _ _ _ _ hIssue hNctl hSlot hSrc hDst => next_congr
      ((Dev.issueAt_accepted hIssue hNctl rfl).trans ((Dev.dmaRows_one hSlot _ _ _).trans (if_pos (by simp [hSrc, hDst]))))
  · intro _ _ _ _ _ _ hIssue hNctl hSlot hOutside
    refine next_congr ((Dev.issueAt_accepted hIssue hNctl rfl).trans ((Dev.dmaRows_one hSlot _ _ _).trans (if_neg ?_)))
    rcases hOutside with h | h <;> simp [h]
  · exact fun _ _ _ _ _ _ _ _ _ hIssue hNctl hSlot hRows =>
      next_congr ((Dev.issueAt_accepted hIssue hNctl rfl).trans ((Dev.dmaRows_of_slot hSlot _ _ _ _ _ _).trans (if_pos hRows)))
  · exact fun _ _ _ _ _ _ _ _ _ hIssue hNctl hSlot hRows => next_congr ((Dev.issueAt_accepted hIssue hNctl rfl).trans
      ((Dev.dmaRows_of_slot hSlot _ _ _ _ _ _).trans (if_neg (by rw [hRows]; decide))))
  · exact fun _ _ _ _ _ hIssue hNctl hSlot hLogical =>
      next_congr ((Dev.issueAt_accepted hIssue hNctl rfl).trans (by simp [hSlot, hLogical]))
  · exact fun _ _ _ _ hIssue hNctl hSlot hLogical =>
      next_congr ((Dev.issueAt_accepted hIssue hNctl rfl).trans (by simp [hSlot, hLogical]))
  · exact fun _ _ hIssue hNctl hSig => next_congr ((Dev.issueAt_accepted hIssue hNctl rfl).trans (if_neg hSig))
  · exact fun _ _ hIssue hNctl hSig => next_congr ((Dev.issueAt_accepted hIssue hNctl rfl).trans (if_pos hSig))

end Sys2Proof.Machine
end

section
/-! PROOFS. Vreljan links (spec/04): training, failure and takeover, the link layer, time synchronisation, pairing and presence. -/

namespace Sys2Proof.Machine

/-! ### Training -/

/-- PARAM in PARAM or WAKE: agreed where the peer's version and buffers will do. -/
theorem Dev.param_of_training {d : Dev} {n : Nat} (p : Payload) (h : d.lst n = lsParam ∨ d.lst n = lsWake) :
    d.param n p =
      if (decide (0x10 ≤ pbits p 0 8 ∧ pbits p 0 8 ≤ 0x1F) &&
          decide (8 ≤ pbits p 16 8 ∧ 64 ≤ pbits p 24 8 ∧ 128 ≤ pbits p 32 16 ∧ 16 ≤ pbits p 48 8)) = true then
        (d.paramAgree n p).trained n
      else if d.lst n = lsWake then d.wakeFail n
      else d.attemptFail n :=
  if_neg fun hnot => h.elim hnot.1 hnot.2

theorem trainBound_wake : trainBound lsWake = some 12000 := by
  decide

/-- A training state that has lasted its bound fails the attempt, or the wake. -/
theorem Dev.trainTimeout_of_due {d : Dev} {n b : Nat} (hbound : trainBound (d.lst n) = some b) (hdue : (d.lk n).since + b ≤ d.gts) :
    d.trainTimeout n = if d.lst n = lsWake then d.wakeFail n else d.attemptFail n := by
  simp only [Dev.trainTimeout, hbound, if_neg (Nat.not_lt.2 hdue)]

/-- Settles O30: each stage's end takes the link to the state the training table gives. -/
theorem linkTrainingCommands : Obligations.LinkTrainingCommands := by
  refine ⟨?_, ?_, ?_, ?_, ?_, ?_, ?_, ?_, ?_, ?_, ?_, ?_, ?_, ?_, ?_, ?_, ?_, ?_, ?_⟩
  · exact fun _ => next_congr rfl
  · rintro _ _ _ rfl rfl
    exact next_congr rfl
  · exact fun _ _ => next_congr rfl
  · rintro _ _ _ rfl hActive
    exact next_congr (by simp [Dev.linkEn, hActive])
  · rintro _ _ _ rfl hWake
    exact next_congr (by simp [Dev.linkEn, hWake, (by decide : lsWake ≠ lsActive)])
  · rintro _ _ _ rfl hNotActive hNotWake
    exact next_congr (by simp [Dev.linkEn, hNotActive, hNotWake])
  · exact fun _ _ hDetect => next_congr (by simp [Dev.detectEnd, hDetect])
  · rintro _ _ _ hDetect rfl
    exact next_congr (by simp [Dev.detectEnd, hDetect])
  · exact fun _ _ hEq => next_congr (if_pos hEq)
  · exact fun _ _ hAlign => next_congr (if_pos hAlign)
  · exact fun _ _ hWake => next_congr (by simp [hWake, (by decide : lsWake ≠ lsAlign)])
  · exact fun _ _ _ hState hLow hHigh h16 h24 h32 h48 =>
      next_congr ((Dev.param_of_training _ hState).trans (if_pos (by simp [hLow, hHigh, h16, h24, h32, h48])))
  · intro _ _ _ hParam hVersion
    refine next_congr ((Dev.param_of_training _ (.inl hParam)).trans ((if_neg ?_).trans (if_neg (by rw [hParam]; decide))))
    simp only [Bool.and_eq_true, decide_eq_true_eq]
    omega
  · exact fun _ _ _ hBound hDue hNotWake => next_congr ((Dev.trainTimeout_of_due hBound hDue).trans (if_neg hNotWake))
  · intro s n hWake hDue
    have hBound : trainBound (s.dev.lst n) = some 12000 := by rw [hWake, trainBound_wake]
    exact next_congr ((Dev.trainTimeout_of_due hBound hDue).trans (if_pos hWake))
  · exact fun _ _ hStandby hDue => next_congr (if_pos ⟨hStandby, hDue⟩)
  · exact fun _ _ hStandby hDue => next_congr (if_pos ⟨hStandby, hDue⟩)
  · exact fun _ _ hFault => next_congr (if_pos hFault)
  · exact fun _ _ hActive => next_congr (by simp [hActive, (by decide : lsActive ≠ lsFault)])

/-! ### Failure and takeover -/

/-- A role is given by SCH alone. -/
theorem Dev.accRoleWrite_of_not_sch (d : Dev) (a v : Nat) {ag : Agent} (h : ag ≠ .sch) : d.accRoleWrite a ag v = d := by
  simp only [Dev.accRoleWrite, h, false_and, if_false]
  split <;> rfl

/-- Settles O31: a failed link is fenced and told of; a role moves by its ROLE flits and by SCH. -/
theorem linkFailureAndTakeover : Obligations.LinkFailureAndTakeover := by
  refine ⟨?_, ?_, ?_, ?_, ?_, ?_, ?_, ?_, ?_, ?_, ?_⟩
  · rintro _ _ _ _ _ hActive rfl rfl hOther
    exact next_congr (by simp [Dev.linkFail, hActive, hOther])
  · rintro _ _ _ _ hActive rfl rfl hNone
    exact next_congr (by simp [Dev.linkFail, hActive, hNone])
  · exact fun _ _ _ => next_congr rfl
  · rintro _ _ _ _ _ _ _ _ hActive rfl hOther rfl rfl
    exact next_congr (by simp [Dev.roleFailed, hActive, hOther] <;> rfl)
  · exact fun _ _ _ _ hActive hFence => next_congr (if_pos ⟨hActive, hFence⟩)
  · exact fun _ _ _ _ _ hActive hWake hFailed => next_congr (by simp [Dev.roleAssume, hActive, hWake, hFailed])
  · exact fun _ _ _ _ hActive hWake hFailed => next_congr (by simp [Dev.roleAssume, hActive, hWake, hFailed])
  · rintro _ _ _ _ _ _ hActive hWake rfl rfl
    exact next_congr (by simp [Dev.roleAssumeAck, hActive, hWake] <;> rfl)
  · rintro _ _ _ _ hLink rfl
    exact next_congr (by simp [Dev.roleResend, hLink])
  · rintro _ _ _ _ rfl hVacant hPos hStandby hSecondary hReserve hEn hWake
    exact next_congr (by simp [Dev.accRoleWrite, hVacant, hPos, hStandby, hSecondary, hReserve, hEn, hWake])
  · exact fun _ _ _ _ hAgent => next_congr (Dev.accRoleWrite_of_not_sch _ _ _ hAgent)

/-! ### The link layer -/

/-- A frame of an ACTIVE link that corrects errors (R135, R136): up to two are corrected and counted, more are not. -/
theorem Dev.frame_of_correct {d : Dev} {n : Nat} (e : Nat) (hactive : d.lst n = lsActive) (hcorrect : d.is F.LNK_STATE_FEC_CORRECT n = true) :
    d.frame n e =
      if e ≤ 2 then (d.inc F.LNK_CNT1_FEC_SYM n e).lockCount n false else (d.inc F.LNK_CNT1_FEC_UNCORR n).lockCount n true := by
  simp only [Dev.frame, hactive, hcorrect]
  by_cases he : e ≤ 2
  · simp [he, Nat.not_lt.2 he]
  · simp [he, Nat.lt_of_not_le he]

/-- A good frame ends the run of bad ones. -/
theorem Dev.lockCount_good (d : Dev) (n : Nat) : d.lockCount n false = d.lkMod n fun x => { x with badFrames := 0 } := by
  simp [Dev.lockCount]

/-- The eighth bad frame in a row fails an ACTIVE link. -/
theorem Dev.lockCount_bad {d : Dev} {n k : Nat} (hactive : d.lst n = lsActive) (hk : k = (d.lk n).badFrames + 1) :
    d.lockCount n true =
      let e := d.lkMod n fun x => { x with badFrames := k }
      if k < 8 then e else e.linkFail n (some F.LNK_ERR_LOCK_LOST) := by
  subst hk
  have hnotWake : ∀ f, (d.lkMod n f).lst n ≠ lsWake := fun f h => absurd (hactive.symm.trans h) (by decide)
  simp only [Dev.lockCount, if_true, if_neg (hnotWake _)]

/-- Counting an uncorrected frame leaves the link's state. -/
theorem Dev.lst_inc_uncorr (d : Dev) (n : Nat) : (d.inc F.LNK_CNT1_FEC_UNCORR n).lst n = d.lst n :=
  Dev.rd_inc_addr d 1 (Fld.addr_ne n rfl (by decide))

/-- A data flit of an ACTIVE link with no NAK outstanding, a right CRC and VALID set (R138, R142, R151). -/
theorem Dev.dataFlit_of_valid {d : Dev} {n : Nat} {f : BitVec 160} {h : Nat} (hactive : d.lst n = lsActive)
    (hnak : (d.lk n).nakAt = none) (hcrc : flitCrcOk f = true) (hh : h = f.toNat % 65536) (hvalid : bitOf h 15 = false) :
    d.dataFlit n f =
      let vc := bitsOf h 13 2
      let ty := bitsOf h 8 5
      if rxAdv vc ≤ ((d.lk n).rx.filter fun (y : Flit) => y.vc = vc).length + (d.lk n).ret.getD vc 0 then
        d.linkFail n (some F.LNK_ERR_CREDIT_VIOL)
      else
        let e := (d.wr F.LNK_SEQ_RX_ACCEPTED n (d.lk n).rxNext).lkMod n fun y => { y with rxNext := (y.rxNext + 1) % 128, rxAny := true }
        let g := if typeKnown vc ty then
            e.lkMod n fun y => { y with rx := y.rx ++ [{ vc := vc, ty := ty, pay := BitVec.ofNat 128 (f.toNat / 65536) }] }
          else ((e.wr F.LNK_ERR_BAD_TYPE n 1).ffr causeBadType n (vc * 32 + ty)).freeRx n vc
        if bitOf h 7 then g.doAck n (h % 128) else g := by
  subst hh
  simp [Dev.dataFlit, hactive, hnak, hcrc, hvalid]

/-- A NAK for a flit the replay buffer holds (R148, R154): the replay, unless the same number came too often. -/
theorem Dev.nak_of_held {d : Dev} {n q : Nat} (hactive : d.lst n = lsActive) (hheld : ((d.lk n).replay.any fun y => y.seq = q) = true) :
    d.nak n q =
      let x := d.lk n
      let same := if x.sameSeq.1 = q ∧ 0 < x.sameSeq.2 then x.sameSeq.2 + 1 else 1
      let w := rateWin d.gts
      let e := (d.inc F.LNK_CNT0_REPLAYS n).lkPut n
        { x with sameSeq := (q, same), rate := (w, if x.rate.1 = w then x.rate.2 + 1 else 1) }
      if max 2 (e.rd F.VL_FAIL_CFG_SAME_SEQ_LIMIT) ≤ same then e.linkFail n (some F.LNK_ERR_SAME_SEQ)
      else
        let f := e.lct n 3 [q]
        let g := (replayFrom q (f.lk n).replay).foldl (fun (d : Dev) (y : Sent) => d.emit (.flit n y.f.vc y.f.ty y.f.pay)) f
        g.lkMod n fun x => { x with replay := resent g.gts q x.replay } := by
  unfold Dev.nak
  rw [if_neg (not_not_intro hactive), if_neg (not_not_intro hheld)]

/-- Settles O32: a frame by its errors, a flit by its checks in order, a NAK by the flit it names. -/
theorem linkLayerCommands : Obligations.LinkLayerCommands := by
  refine ⟨?_, ?_, ?_, ?_, ?_, ?_, ?_, ?_, ?_, ?_, ?_, ?_, ?_, ?_, ?_, ?_, ?_⟩
  · exact fun _ _ _ hActive hCorrect hFew => next_congr
      ((Dev.frame_of_correct _ hActive hCorrect).trans ((if_pos hFew).trans (Dev.lockCount_good _ _)))
  · exact fun s n _ _ hActive hCorrect hMany hRun hShort => next_congr
      ((Dev.frame_of_correct _ hActive hCorrect).trans ((if_neg (Nat.not_le.2 hMany)).trans
        ((Dev.lockCount_bad ((s.dev.lst_inc_uncorr n).trans hActive) hRun).trans (if_pos hShort))))
  · exact fun s n _ _ hActive hCorrect hMany hRun hLong => next_congr
      ((Dev.frame_of_correct _ hActive hCorrect).trans ((if_neg (Nat.not_le.2 hMany)).trans
        ((Dev.lockCount_bad ((s.dev.lst_inc_uncorr n).trans hActive) hRun).trans (if_neg (Nat.not_lt.2 hLong)))))
  · exact fun _ _ _ hActive hNak hCrc => next_congr (by simp [Dev.dataFlit, hActive, hNak, hCrc])
  · exact fun _ _ _ _ hActive hNak hCrc hHead hValid hFull =>
      next_congr ((Dev.dataFlit_of_valid hActive hNak hCrc hHead hValid).trans (if_pos hFull))
  · rintro _ _ _ _ _ hActive hNak hCrc hHead hValid hRoom hKnown rfl
    refine next_congr ((Dev.dataFlit_of_valid hActive hNak hCrc hHead hValid).trans ((if_neg (Nat.not_le.2 hRoom)).trans ?_))
    simp only [hKnown, if_true]
  · rintro _ _ _ _ _ hActive hNak hCrc hHead hValid hRoom hUnknown rfl
    refine next_congr ((Dev.dataFlit_of_valid hActive hNak hCrc hHead hValid).trans ((if_neg (Nat.not_le.2 hRoom)).trans ?_))
    simp only [hUnknown, Bool.false_eq_true, if_false]
  · exact fun _ _ _ hActive => next_congr (if_pos hActive)
  · exact fun _ _ => next_congr (ite_self _)
  · rintro _ _ _ _ _ hActive rfl
    exact next_congr (by simp [Dev.status, hActive])
  · exact fun _ _ _ hActive hStale => next_congr (by simp [Dev.nak, hActive, hStale])
  · rintro _ _ _ _ _ _ _ hActive hHeld rfl hSame rfl rfl rfl
    exact next_congr ((Dev.nak_of_held hActive hHeld).trans (if_neg (Nat.not_le.2 hSame)))
  · exact fun _ _ _ hActive hNak hNext => next_congr (if_pos ⟨hActive, hNak, hNext⟩)
  · exact fun _ _ _ hNak hActive hDue => next_congr (by simp [hNak, hActive, hDue])
  · exact fun _ _ _ hOldest hDue => next_congr (by simp [hOldest, hDue])
  · rintro _ _ _ hOver rfl
    exact next_congr (if_pos hOver)
  · exact fun _ _ _ hActive => next_congr (if_pos hActive)

/-! ### Time synchronisation, pairing and presence -/

/-- The third request that gets no answer leaves pairing PENDING. -/
theorem Dev.pairTimeout_of_last {d : Dev} {a u k : Nat} (hwait : (d.acc a).pairWait = some (u, k)) (hdue : u + 1000000 ≤ d.gts)
    (hlast : 3 ≤ k) : d.pairTimeout a =
      ((d.accMod a fun x => { x with pairWait := none }).wr F.VL_ACC_STATUS_PAIR a 0).ffr causePairTimeout a 0 := by
  simp only [Dev.pairTimeout, hwait, if_neg (Nat.not_lt.2 hdue), if_neg (Nat.not_lt.2 hlast)]

/-- Settles O33: each exchange goes on where its conditions hold. -/
theorem timeSyncPairingAndPresence : Obligations.TimeSyncPairingAndPresence := by
  refine ⟨?_, ?_, ?_, ?_, ?_, ?_, ?_, ?_, ?_, ?_, ?_, ?_, ?_, ?_, ?_⟩
  · exact fun _ _ hRole hDue => next_congr (if_pos ⟨hRole, hDue⟩)
  · exact fun _ _ _ hSent => next_congr (by simp [Dev.tsyncFollow, hSent])
  · rintro _ _ _ _ _ _ _ rfl hSent
    exact next_congr (if_pos hSent)
  · rintro _ _ _ _ _ _ rfl hSent
    exact next_congr (by simp [Dev.tsyncDreq, hSent])
  · rintro _ _ _ _ rfl hActive rfl
    exact next_congr (by simp [Dev.pairRsp, hActive])
  · rintro _ _ _ _ rfl hActive rfl
    exact next_congr (by simp [Dev.pairRsp, hActive])
  · rintro _ _ _ rfl hActive
    exact next_congr (by simp [Dev.pairRsp, hActive])
  · exact fun _ _ _ _ hWait hDue hAgain => next_congr (by simp [Dev.pairTimeout, hWait, Nat.not_lt.2 hDue, hAgain])
  · exact fun _ _ _ _ hWait hDue hLast => next_congr (Dev.pairTimeout_of_last hWait hDue hLast)
  · rintro _ _ _ rfl
    exact next_congr (by simp [Dev.bindOk])
  · exact fun _ _ => next_congr rfl
  · exact fun _ _ hOff => next_congr (by simp [Dev.forceSideband, hOff])
  · exact fun _ _ hOn => next_congr (by simp [Dev.forceSideband, hOn])
  · rintro _ _ _ hPresent rfl
    exact next_congr (by simp [Dev.prsnt, hPresent])
  · rintro _ _ _ _ hPresent rfl rfl
    exact next_congr (by simp [Dev.prsnt, hPresent])

end Sys2Proof.Machine
end

section
/-! PROOFS. Sync objects (spec/05) and the Board (spec/06): what an allowed operation, a header, a contribution and an abort do. -/

namespace Sys2Proof.Machine

/-! ### Sync operations -/

/-- An allowed operation other than ARRIVE that need not wait: no member of a barrier arrives. -/
theorem Dev.syncReq_done_of_not_arrive {e : Dev} {src m op : Nat} {q : SyncReq} (hallowed : e.syncAllowed src m op q = true)
    (hwait : (e.syncEff m op q).wait = none) (hop : op ≠ opArrive) :
    e.syncReq src op q.cond.toNat q.w q.operand.toNat q.timeout.toNat q.tag.toNat q.handle.toNat =
      let o := e.obj (hIndex q.handle.toNat)
      let x := e.syncEff m op q
      let r := e.opsCount.objCommit q.handle.toNat o x.o (servesWaiters op o x.o)
      r.2.syncSend src 1 (if o.ty = tySem ∧ (op = opAdd ∨ op = opSet) then r.1.value else x.res) x.st q.tag.toNat op
        q.handle.toNat := by
  rw [Dev.syncReq_done e src m op q hallowed hwait]
  simp only [hop, false_and, and_false, if_false]

theorem exec_of_done {c : Instr} {src : Fin 9} {m op : Nat} {q : SyncReq} (s : State) (hc : c.syncReq = some (src, op, q))
    (hallowed : (s.dev.syncTook src op q).syncAllowed src m op q = true) (hwait : ((s.dev.syncTook src op q).syncEff m op q).wait = none)
    (hop : op ≠ opArrive) :
    exec c s =
      let e := s.dev.syncTook src op q
      let o := e.obj (hIndex q.handle.toNat)
      let x := e.syncEff m op q
      let r := e.opsCount.objCommit q.handle.toNat o x.o (servesWaiters op o x.o)
      .next { s with
        dev := r.2.syncSend src 1 (if o.ty = tySem ∧ (op = opAdd ∨ op = opSet) then r.1.value else x.res) x.st q.tag.toNat op
          q.handle.toNat } := by
  rw [exec_of_syncReq s hc]
  exact next_congr (Dev.syncReq_done_of_not_arrive hallowed hwait hop)

/-- ADD and SET of a semaphore answer the count left after its waiters were served. -/
theorem exec_of_done_value {c : Instr} {src : Fin 9} {m op : Nat} {q : SyncReq} (s : State) (hc : c.syncReq = some (src, op, q))
    (hallowed : (s.dev.syncTook src op q).syncAllowed src m op q = true) (hwait : ((s.dev.syncTook src op q).syncEff m op q).wait = none)
    (hop : op = opAdd ∨ op = opSet) :
    exec c s =
      let e := s.dev.syncTook src op q
      let o := e.obj (hIndex q.handle.toNat)
      let x := e.syncEff m op q
      let r := e.opsCount.objCommit q.handle.toNat o x.o (servesWaiters op o x.o)
      .next { s with
        dev := r.2.syncSend src 1 (if o.ty = tySem then r.1.value else x.res) x.st q.tag.toNat op q.handle.toNat } := by
  have harrive : op ≠ opArrive := by
    rintro rfl
    exact absurd hop (by decide)
  rw [exec_of_done s hc hallowed hwait harrive]
  simp only [hop, and_true]

/-- WAIT, FETCH_ADD, CAS and RESET answer their own result. -/
theorem exec_of_done_plain {c : Instr} {src : Fin 9} {m op : Nat} {q : SyncReq} (s : State) (hc : c.syncReq = some (src, op, q))
    (hallowed : (s.dev.syncTook src op q).syncAllowed src m op q = true) (hwait : ((s.dev.syncTook src op q).syncEff m op q).wait = none)
    (hop : op ≠ opArrive ∧ ¬ (op = opAdd ∨ op = opSet)) :
    exec c s =
      let e := s.dev.syncTook src op q
      let o := e.obj (hIndex q.handle.toNat)
      let x := e.syncEff m op q
      let r := e.opsCount.objCommit q.handle.toNat o x.o (servesWaiters op o x.o)
      .next { s with dev := r.2.syncSend src 1 x.res x.st q.tag.toNat op q.handle.toNat } := by
  rw [exec_of_done s hc hallowed hwait hop.1]
  simp only [hop.2, and_false, if_false]

/-- A WAIT changes no object, so it serves no waiter. -/
theorem servesWaiters_wait (o o' : Obj) : servesWaiters opWait o o' = false := rfl

/-- A reserved code passes the checks before it and is answered BAD_OP. -/
theorem Dev.syncReq_reserved {e : Dev} {src op : Nat} {q : SyncReq} (hpaired : src < 8 → e.paired src = true)
    (hen : e.is F.SOB_CTRL_EN = true) (hout : e.rd F.SOB_SRC_OUTSTANDING src < 24) (hop : 7 ≤ op) :
    e.syncReq src op q.cond.toNat q.w q.operand.toNat q.timeout.toNat q.tag.toNat q.handle.toNat =
      e.syncSend src 3 0 stBadOp q.tag.toNat op q.handle.toNat := by
  have hpair : ¬ (src < 8 ∧ ¬ e.paired src = true) := fun h => h.2 (hpaired h.1)
  have hroom : ¬ (src < 8 ∧ 24 ≤ e.rd F.SOB_SRC_OUTSTANDING src) := fun h => Nat.not_le.2 hout h.2
  unfold Dev.syncReq
  rw [if_neg hpair, if_neg (not_not_intro hen), if_neg hroom, if_pos hop]

/-- Settles O34: an allowed operation commits its object's row and is answered; ARRIVE also arrives at a tracked barrier. -/
theorem syncOperations : Obligations.SyncOperations := by
  refine ⟨?_, ?_, ?_, ?_, ?_, ?_, ?_, ?_, ?_, ?_, ?_, ?_, ?_, ?_, ?_, ?_, ?_, ?_⟩
  · rintro s src q m _ _ _ _ rfl hAllowed rfl rfl hWait rfl
    rw [exec_of_syncReq s rfl]
    refine next_congr ((Dev.syncReq_done _ _ m _ _ hAllowed hWait).trans ?_)
    simp
  · rintro s _ _ _ _ _ _ _ rfl hAllowed rfl rfl hWait rfl
    exact exec_of_done_plain s rfl hAllowed hWait (by decide)
  · rintro s _ _ _ _ _ _ _ rfl hAllowed rfl rfl hWait rfl
    exact exec_of_done_value s rfl hAllowed hWait (by decide)
  · rintro s _ _ _ _ _ _ _ rfl hAllowed rfl rfl hWait rfl
    exact exec_of_done_plain s rfl hAllowed hWait (by decide)
  · rintro s _ _ _ _ _ _ _ rfl hAllowed rfl rfl hWait rfl
    exact exec_of_done_plain s rfl hAllowed hWait (by decide)
  · rintro s _ _ _ _ _ _ _ rfl hAllowed rfl rfl hWait rfl
    exact exec_of_done_value s rfl hAllowed hWait (by decide)
  · rintro s _ _ _ _ _ _ _ rfl hAllowed rfl rfl hWait rfl
    exact exec_of_done_plain s rfl hAllowed hWait (by decide)
  · rintro s src q m _ _ _ _ y _ rfl hAllowed rfl rfl hWait hBound hRoom rfl rfl
    rw [exec_of_syncReq s rfl]
    refine next_congr ((Dev.syncReq_parked _ _ m _ _ y hAllowed hWait hBound hRoom).trans ?_)
    have hNotArrive : opWait ≠ opArrive := by decide
    simp only [servesWaiters_wait, hNotArrive, false_and, and_false, if_false, if_true]
  · rintro s src op q _ rfl hPaired hEn hOut
    rw [exec_of_syncReq s rfl]
    exact next_congr (Dev.syncReq_reserved hPaired hEn hOut (Nat.le_add_right 7 _))
  · exact fun _ => next_congr rfl
  · rintro _ _ _ hGo hBusy rfl
    exact next_congr ((if_neg (Nat.not_lt.2 hGo)).trans (if_neg (by simp [hBusy])))
  · exact fun _ _ hNoGo => next_congr (if_pos hNoGo)
  · rintro _ _ _ _ hWidth hAligned hFirst rfl
    exact next_congr (by simp [Dev.winRead, Nat.not_lt.2 hWidth, hAligned, hFirst])
  · exact fun _ _ _ hBad => next_congr (if_pos hBad)
  · exact fun _ _ _ => next_congr rfl
  · exact fun _ => next_congr rfl
  · exact fun _ _ => next_congr rfl
  · exact fun _ _ _ hAgent => next_congr (if_neg hAgent)

/-! ### The Board -/

/-- An accelerator's ABORT of an instance that takes it (R233). -/
theorem Dev.accAbort_of_taken {d e : Dev} {a : Nat} {p : Payload} {c i m : Nat} (he : e = d.takeRx a vcRed 4 p) (hc : c = pbits p 51 8)
    (hi : i = pbits p 0 16) (hm : m = pbits p 16 4) (hvalid : e.ctxValid c = true) (hcheck : e.instCheck c i = 0)
    (hopen : (e.binst c i).complete = none) (hmember : e.memberOf a (e.ctxDef c).group = some m)
    (hpart : (bitOf (e.ctxDef c).contrib m || bitOf (e.ctxDef c).recv m) = true) :
    d.accAbort a p = e.instAbort c i rsMemberAbort m := by
  subst he hc hi hm
  refine if_neg ?_
  simp only [Bool.or_eq_true] at hpart
  simp [hvalid, hcheck, hopen, hmember, hpart]

/-- Member 8's contribution, where no check refuses it and it is not done (R225). -/
theorem Dev.iContrib_of_taken {d e : Dev} {v c i : Nat} (hc : c = v / 65536 % 256) (hi : i = v % 65536)
    (he : e = d.wrw (F.BRD_ICONTRIB_CTX.addr 0) (v % 2 ^ 24)) (hen : e.is F.BRD_CTRL_EN = true) (hvalid : e.ctxValid c = true)
    (hmember : bitOf (e.ctxDef c).contrib 8 = true) (hcheck : e.instCheck c i = 0) (hnew : bitOf (e.binst c i).done 8 = false) :
    d.iContrib v = (e.binstPut c i ((e.binst c i).opened e.gts)).memberDone c i 8 := by
  subst hc hi he
  simp [-Nat.reducePow, Dev.iContrib, hen, hvalid, hmember, hcheck, hnew]

/-- Settles O35: each command acts where no check refuses it. -/
theorem boardCommands : Obligations.BoardCommands := by
  refine ⟨?_, ?_, ?_, ?_, ?_, ?_, ?_, ?_, ?_, ?_, ?_, ?_, ?_, ?_⟩
  · rintro _ _ _ _ _ rfl hTrain hTaken
    exact next_congr (Dev.contribHeader_taken _ _ _ _ hTrain hTaken)
  · rintro _ _ _ _ _ _ _ rfl rfl hTrain hRefused hGot rfl
    exact next_congr (by simp [Dev.contribData, hTrain, hRefused, hGot])
  · rintro _ _ _ _ rfl hTrain
    exact next_congr (by simp [Dev.contribData, hTrain])
  · rintro _ _ _ _ _ _ _ _ _ rfl rfl hTrain hRefused hGot rfl rfl rfl
    exact next_congr (by simp [Dev.contribData, hTrain, hRefused, hGot])
  · exact fun _ _ hComplete hReduced => next_congr (by simp [Dev.reduceNext, hComplete, hReduced])
  · exact fun _ _ hReduced hComplete hNext => next_congr (by simp [Dev.reduceNext, hReduced, hComplete, hNext])
  · exact fun _ _ hReduced hAcked => next_congr (by simp [Dev.finishCurrent, hReduced, hAcked])
  · exact fun _ _ _ _ _ _ _ he hc hi hm hValid hCheck hOpen hMember hPart =>
      next_congr (Dev.accAbort_of_taken he hc hi hm hValid hCheck hOpen hMember hPart)
  · exact fun _ _ => next_congr rfl
  · exact fun _ _ _ _ _ _ hAgent hc hi he hEn hValid hMember hCheck hNew =>
      next_congr ((if_neg hAgent).trans (Dev.iContrib_of_taken hc hi he hEn hValid hMember hCheck hNew))
  · exact fun _ _ => next_congr rfl
  · exact fun _ => next_congr rfl
  · exact fun _ => next_congr rfl
  · exact fun _ _ _ hAgent => next_congr (if_pos hAgent)

end Sys2Proof.Machine
end

section
/-! PROOFS. Power and current shaping (spec/07): samples, the limiter, budgets, P-states, droop, CHECK, MATE, shaping, sideband. -/

namespace Sys2Proof.Machine

/-! ### Samples, budgets, P-states -/

/-- A slot while the SYS domain runs (R240): the bus, the tray's current, each accelerator, then the sums and droop. -/
theorem Dev.fastSample_of_on {d : Dev} (x : FastSlot) (h : d.sysOn = true) :
    d.fastSample x =
      let v := d.frameRoll.fastBus x
      let ib := v.2.fastIn 8 x.ibus.toNat (bitOf x.stale.toNat 8)
      let r := accs8.foldl (fun (p : Int × Dev) a => (p.1 + (p.2.fastAcc x v.1 a).1, (p.2.fastAcc x v.1 a).2)) ((0 : Int), ib.2)
      ((r.2.fastTray v.1 ib.1 r.1).fastDroop v.1).emergUpdate :=
  if_neg (not_not_intro h)

/-- A PSTATE_ACK overdue after the last retry is a DVFS fault (R255). -/
theorem Dev.ackTimeout_of_last {d : Dev} {a : Nat} {c : Change} {u k q : Nat} (hchange : (d.pw a).change = some c)
    (hphase : c.phase = .sent u k q) (hdue : u + 1000 * max 5 (d.rd F.PWC_DVFS_CFG_ACK_TIMEOUT) ≤ d.gts)
    (hlast : min 7 (d.rd F.PWC_DVFS_CFG_RETRIES) ≤ k) : d.ackTimeout a = d.dvfsFault a := by
  simp only [Dev.ackTimeout, hchange, hphase, if_neg (Nat.not_lt.2 hdue), if_neg (Nat.not_lt.2 hlast)]

/-- Settles O36: each command acts where its conditions hold; the limiter's window acts before its sums are reset. -/
theorem powerSampleAndBudgetCommands : Obligations.PowerSampleAndBudgetCommands := by
  refine ⟨?_, ?_, ?_, ?_, ?_, ?_, ?_, ?_, ?_, ?_, ?_, ?_, ?_, ?_, ?_, ?_, ?_, ?_, ?_⟩
  · rintro _ _ _ _ _ _ hSysOn rfl rfl rfl rfl
    exact next_congr (Dev.fastSample_of_on _ hSysOn)
  · rintro _ _ _ hSysOn rfl
    exact next_congr (if_pos (by simp [hSysOn]))
  · intro s n acts e f g h hDone hn he hf hacts hg hh
    refine next_congr ?_
    change Dev.limiterWindow s.dev = _
    unfold Dev.fastWindow at hf
    unfold Dev.limiterWindow
    rw [if_neg (by simp [hDone])]
    dsimp only at hf ⊢
    rw [← hn, ← he, ← hf, ← hacts, ← hg, ← hh]
  · exact fun _ _ hEn => next_congr (by simp [hEn])
  · exact fun _ _ hEn => next_congr (by simp [hEn])
  · exact fun _ _ _ hGr hCapForce => next_congr (by simp [Dev.capForceEnd, hGr, hCapForce])
  · rintro _ _ _ _ hEn hFault hTable rfl
    exact next_congr ((if_pos hEn).trans ((if_neg (by simp [hFault])).trans (if_neg (by simp [hTable]))))
  · rintro _ _ _ _ _ _ _ _ rfl hPbits rfl hPw hPhase
    exact next_congr (by simp [Dev.pstateAck, hPbits, hPw, hPhase])
  · exact fun _ _ _ _ _ _ hPw hPhase hDue hRetries => next_congr (by
      simp [Dev.ackTimeout, hPw, hPhase, Nat.not_lt.2 hDue, hRetries])
  · exact fun _ _ _ _ _ _ hChange hPhase hDue hRetries => next_congr (Dev.ackTimeout_of_last hChange hPhase hDue hRetries)
  · exact fun _ _ _ _ hPw hPhase hGts => next_congr (by simp [Dev.settled, hPw, hPhase, hGts])
  · exact fun _ _ _ => next_congr rfl
  · rintro _ _ _ hLocked hPtabMono rfl
    exact next_congr (by simp [Dev.ptabValid, Dev.unlocked, hLocked, hPtabMono])
  · exact fun _ _ hLocked hPtabMono => next_congr (by simp [Dev.ptabValid, Dev.unlocked, hLocked, hPtabMono])
  · exact fun _ _ _ hLocked => next_congr (if_pos hLocked)
  · exact fun _ _ => next_congr rfl
  · exact fun _ _ _ _ _ _ hAvsAnswer => next_congr (by simp [Dev.avsResponse, hAvsAnswer])
  · exact fun _ _ _ _ _ _ hAvsAnswer => next_congr (by simp [Dev.avsResponse, hAvsAnswer])
  · exact fun _ _ _ _ _ _ hAvsAnswer => next_congr (by simp [Dev.avsResponse, hAvsAnswer])

/-! ### Droop, CHECK, shaping, sideband -/

/-- HOLD ends while PMC runs (R260): the pending target is requested, the guardband returns. -/
theorem Dev.droopEnd_of_due {d : Dev} {a u : Nat} (hhold : (d.pw a).droop = .hold u) (hdue : u ≤ d.gts) (hpmc : d.coreUp 1 = true) :
    d.droopEnd a =
      let e := (d.pwPut a { d.pw a with droop := .none }).wr F.PWC_ACC_PSTATE_DROOP a 0
      let f := e.wr F.PWC_ACC_PSTATE_GB_LEVEL a (e.gbRest a)
      let g := (f.startPending a (f.cur a)).showChange a
      (if e.rd F.PWC_ACC_PSTATE_GB_LEVEL a = g.rd F.PWC_ACC_PSTATE_GB_LEVEL a then g
        else g.gbWrite a (e.rd F.PWC_ACC_PSTATE_GB_LEVEL a)).emergUpdate := by
  have hup : ∀ v w : Nat, (((d.pwPut a { d.pw a with droop := .none }).wr F.PWC_ACC_PSTATE_DROOP a v).wr
      F.PWC_ACC_PSTATE_GB_LEVEL a w).coreUp 1 = true := by
    intro v w
    rwa [Dev.coreUp, Dev.wr_flt, Dev.wr_flt]
  simp only [Dev.droopEnd, hhold, if_pos hdue, hup, if_true]

/-- Settles O37: each timer and trigger acts where its conditions hold. -/
theorem droopCheckShapingAndSideband : Obligations.DroopCheckShapingAndSideband := by
  refine ⟨?_, ?_, ?_, ?_, ?_, ?_, ?_, ?_, ?_, ?_, ?_, ?_, ?_, ?_, ?_, ?_⟩
  · exact fun _ _ _ hPw hGts => next_congr (by simp [hPw, hGts])
  · rintro _ _ _ _ _ _ hHold hDue hPmc rfl rfl rfl
    exact next_congr (Dev.droopEnd_of_due hHold hDue hPmc)
  · exact fun _ _ _ => next_congr rfl
  · exact fun _ _ => next_congr rfl
  · rintro _ _ _ hLocked rfl
    exact next_congr (by simp [Dev.checkEn, Dev.unlocked, hLocked])
  · exact fun _ _ hLocked => next_congr (if_pos hLocked)
  · exact fun _ _ => next_congr rfl
  · exact fun _ _ hVr hAuto hClear hHeld => next_congr (by simp [Dev.autoRelease, hVr, hAuto, hClear, hHeld])
  · exact fun _ _ hOc hAuto hClear hHeld => next_congr (by simp [Dev.autoRelease, hOc, hAuto, hClear, hHeld])
  · exact fun _ _ => next_congr rfl
  · rintro _ _ _ _ _ _ _ _ rfl hPredict hShapes hDown hNoRamp rfl rfl hDue rfl
    exact next_congr (by simp [Dev.preramp, hPredict, hShapes, hDown, hNoRamp, Nat.not_lt.2 hDue])
  · rintro _ _ _ _ _ hPredict hShapes hGts rfl
    exact next_congr (by simp [Dev.gbLead, hPredict, hShapes, hGts])
  · rintro _ _ _ _ hSet hReleased hDue rfl
    exact next_congr (by simp [Dev.gbHoldEnd, hSet, hReleased, hDue])
  · rintro _ _ _ _ hSbOk hPw hSegGet rfl
    exact next_congr (by simp [Dev.sbWrite, hSbOk, hPw, hSegGet])
  · exact fun _ _ hSbOk hPw => next_congr (if_pos ⟨hSbOk, hPw⟩)
  · rintro _ _ _ _ _ _ hPw hGts hSbOk hSegGet rfl rfl
    exact next_congr (by simp [Dev.sbAgain, hPw, Nat.not_lt.2 hGts, hSbOk, hSegGet])

end Sys2Proof.Machine
end

section
/-! PROOFS. Orotha (spec/08): telemetry, records, policy inputs, replay blocks, candidates, the gate, promotion, rollback. -/

namespace Sys2Proof.Machine

/-- The oldest frame is recorded once its window is closed (R291). -/
theorem Dev.recordWrite_of_closed {d : Dev} {k : Nat} {rc : List Byte} {rest : List (Nat × List Byte)}
    (hclosed : d.frameRoll.oro.closed = (k, rc) :: rest) (hover : (k + 1) * 10000 + d.frameRoll.tlmWindow ≤ d.frameRoll.gts) :
    d.recordWrite =
      let x := d.frameRoll
      let y := x.inc F.ORO_TLM_MISS_COUNT 0 (accs8.filter fun a => x.paired a && (x.tlmOf k a).isNone).length
      let e : Dev := { y with oro.closed := rest, oro.nextRec := k + 1 }
      (((e.stn .commons (0x80000 + 288 * (k % 128)) (x.recordOf k rc)).blockAdd k (x.recordOf k rc)).horizonAdd k
        (x.recordOf k rc)).tlmPurge := by
  simp only [Dev.recordWrite, hclosed]
  exact if_neg (Nat.not_lt.2 hover)

/-- Settles O38: each event acts where its conditions hold. -/
theorem orothaCommands : Obligations.OrothaCommands := by
  refine ⟨?_, ?_, ?_, ?_, ?_, ?_, ?_, ?_, ?_, ?_, ?_, ?_, ?_, ?_, ?_, ?_, ?_, ?_, ?_, ?_⟩
  · exact fun _ _ hSysOn hOn => next_congr (by simp [Dev.tlmEn, hSysOn, hOn])
  · exact fun _ _ hSysOn => next_congr (by simp [Dev.tlmEn, hSysOn])
  · rintro _ _ _ _ _ hSysOn rfl hFrame hFirst
    exact next_congr (by simp [hSysOn, hFrame, hFirst])
  · rintro _ _ _ _ _ hSysOn rfl hFrame hFirst
    exact next_congr (by simp [hSysOn, hFrame, hFirst])
  · rintro _ _ _ _ hSysOn rfl hFrame
    exact next_congr (by simp [hSysOn, hFrame])
  · rintro _ _ _ _ _ _ _ hSysOn rfl hClosed hOver rfl rfl
    exact next_congr ((if_pos hSysOn).trans (Dev.recordWrite_of_closed hClosed hOver))
  · rintro _ _ rfl hSysOn hCopied hTick hFrames hClosed
    exact next_congr (if_pos ⟨hSysOn, hCopied, hTick, hFrames, hClosed⟩)
  · rintro _ _ _ _ rfl rfl rfl hSysOn hOn hBoundary
    exact next_congr (by simp [hSysOn, hOn, hBoundary])
  · exact fun _ _ hSysOn hPmc hCand hShadow hDerive => next_congr (by simp [hSysOn, hPmc, hCand, hShadow, hDerive])
  · rintro _ _ _ _ hSysOn hPmc hCand hShadow hDerive hFit rfl
    refine next_congr ((if_neg (not_not_intro ⟨hSysOn, hPmc⟩)).trans ?_)
    simp only [hCand, if_neg hShadow, hDerive]
    exact if_pos hFit
  · exact fun _ hCand => next_congr (by simp [hCand])
  · rintro _ _ _ hHeld hSysOn hPmc hNew rfl
    exact next_congr (by simp [hHeld, hSysOn, hPmc, hNew])
  · rintro _ _ (hNone | ⟨hHeld, hDone⟩)
    · exact next_congr (by simp only [hNone])
    · exact next_congr (by simp [hHeld, Nat.not_le.2 hDone])
  · exact fun _ hSysOn hPmc hPromote hDue => next_congr (if_pos ⟨hSysOn, hPmc, hPromote, hDue⟩)
  · exact fun _ hPromote => next_congr (by simp [hPromote])
  · rintro _ _ _ hRetained hSysOn hPmc hDue rfl
    exact next_congr (by simp [hRetained, hSysOn, hPmc, hDue])
  · exact fun _ hRetained => next_congr (by simp [hRetained])
  · exact fun _ hSysOn hPromote => next_congr ((if_pos hSysOn).trans (if_pos hPromote))
  · exact fun _ hSysOn hPromote hActive =>
      next_congr ((if_pos hSysOn).trans ((if_neg (by simp [hPromote])).trans (if_pos hActive)))
  · exact fun _ hPromote hActive => next_congr (by simp [Dev.rollback, hPromote, hActive])

end Sys2Proof.Machine
end

section
/-! PROOFS. Supplies and sequencing (spec/09): bring-up, the hot-swap controller, the bus, domains, rails and resets. -/

namespace Sys2Proof.Machine

/-! ### Bring-up, hot swap and bus supervision -/

/-- Settles O39: each event of the supply acts in the state it belongs to. -/
theorem bringUpHotSwapAndBus : Obligations.BringUpHotSwapAndBus := by
  refine ⟨?_, ?_, ?_, ?_, ?_, ?_, ?_, ?_, ?_, ?_, ?_, ?_, ?_, ?_, ?_, ?_, ?_, ?_, ?_, ?_⟩
  · exact fun _ hVinUp => next_congr (by simp [hVinUp])
  · exact fun _ hVinUp hXtal => next_congr (if_pos ⟨hVinUp, hXtal⟩)
  · exact fun _ hVinUp hXtal hDue => next_congr (if_pos ⟨hVinUp, hXtal, hDue⟩)
  · exact fun _ hState hColdDown hStart => next_congr (if_pos ⟨hState, hColdDown, hStart⟩)
  · exact fun _ => next_congr rfl
  · exact fun _ => next_congr rfl
  · exact fun _ hState hDue => next_congr (if_pos ⟨hState, hDue⟩)
  · exact fun _ hState => next_congr (if_pos hState)
  · exact fun _ hState => next_congr (if_pos hState)
  · exact fun _ hState => next_congr (if_pos hState)
  · rintro _ _ _ _ hVds hState rfl hBelow
    exact next_congr (by simp [Dev.soaTick, hVds, hState, Nat.not_le.2 hBelow])
  · rintro _ _ _ _ hVds hState rfl hReached
    exact next_congr (by simp [Dev.soaTick, hVds, hState, hReached])
  · exact fun _ _ _ hLow hCount =>
      next_congr ((if_neg (fun h => Nat.not_lt.2 hLow h.1)).trans (if_neg (Nat.not_le.2 hCount)))
  · exact fun _ hState hDue => next_congr (if_pos ⟨hState, hDue⟩)
  · rintro _ _ _ hSince hDue rfl
    exact next_congr (by simp [hSince, hDue])
  · exact fun _ _ hSince hHold hDue => next_congr (by simp [hSince, hHold, hDue])
  · exact fun _ _ hMateDown hDue => next_congr (by simp [hMateDown, hDue])
  · exact fun _ _ hKey hClear => next_congr (if_pos ⟨hKey, hClear⟩)
  · exact fun _ _ hKey => next_congr (by simp [hKey])
  · exact fun _ _ hColdOff hDue => next_congr (by simp [hColdOff, hDue])

/-! ### Domains, rails and reset outputs -/

/-- Power-good of a ramping rail becomes good: the rail qualifies (R332). -/
theorem Dev.pgChange_good_of_ramp {d : Dev} {n : Nat} (hused : d.railUsed n = true) (hpg : d.is F.SEQ_RAIL_STATUS_PG n = false)
    (hramp : d.rail n = rlRamp) :
    d.pgChange n true =
      let e := (d.wr F.SEQ_RAIL_STATUS_PG n 1).rlTMod n fun x => { x with adcRun := 0 }
      (e.railGo n rlQual).rlTMod n fun x => { x with goodAt := e.aont } := by
  simp [Dev.pgChange, hused, hpg, hramp]

/-- Power-good of a rail that is on, or drains, is lost: the rail fails (R335). -/
theorem Dev.pgChange_lost {d : Dev} {n : Nat} (hused : d.railUsed n = true) (hpg : d.is F.SEQ_RAIL_STATUS_PG n = true)
    (hrail : d.rail n = rlOn ∨ d.rail n = rlDrain) :
    d.pgChange n false =
      ((d.wr F.SEQ_RAIL_STATUS_PG n 0).rlTMod n fun x => { x with adcRun := 0 }).railFail n rfPgLost := by
  have hqual : d.rail n ≠ rlQual := by
    rcases hrail with h | h <;> rw [h] <;> decide
  simp [Dev.pgChange, hused, hpg, hqual, hrail]

/-- Settles O40: each event of a rail acts in the stage it belongs to. -/
theorem domainsRailsAndResets : Obligations.DomainsRailsAndResets := by
  refine ⟨?_, ?_, ?_, ?_, ?_, ?_, ?_, ?_, ?_, ?_, ?_, ?_, ?_, ?_, ?_, ?_, ?_, ?_, ?_⟩
  · exact fun _ hGraph => next_congr (if_pos hGraph)
  · exact fun _ hGraph => next_congr ((if_pos rfl).trans (if_neg (by simp [hGraph])))
  · exact fun _ _ hAgent => next_congr (if_neg hAgent)
  · exact fun _ _ hAllowed => next_congr (by simp [Dev.domRequest, hAllowed])
  · rintro _ _ _ hAllowed rfl
    exact next_congr (by simp [Dev.domRequest, hAllowed])
  · exact fun _ _ hRail hFet hParents hDelay => next_congr (if_pos ⟨hRail, hFet, hParents, hDelay⟩)
  · rintro _ _ _ _ hUsed hPg hRamp rfl rfl
    exact next_congr (congrArg Dev.seqEnd (Dev.pgChange_good_of_ramp hUsed hPg hRamp))
  · exact fun _ _ hUsed hPg hRail => next_congr (congrArg Dev.seqEnd (Dev.pgChange_lost hUsed hPg hRail))
  · exact fun _ _ hQualified => next_congr (if_pos hQualified)
  · exact fun _ _ hRail hChatter hDue => next_congr (if_pos ⟨hRail, hChatter, hDue⟩)
  · exact fun _ _ hRail hDue => next_congr (if_pos ⟨hRail, hDue⟩)
  · exact fun _ _ hDrained => next_congr (if_pos hDrained)
  · exact fun _ _ hRail hPg hDue => next_congr (if_pos ⟨hRail, hPg, hDue⟩)
  · exact fun _ _ hFailed => next_congr (congrArg Dev.seqEnd (if_pos hFailed))
  · exact fun _ _ hPresent hDue => next_congr (if_pos ⟨hPresent, hDue⟩)
  · exact fun _ _ hPresent => next_congr (if_pos hPresent)
  · rintro _ _ _ hBit hReady rfl
    exact next_congr (if_pos ⟨hBit, hReady⟩)
  · exact fun _ _ => next_congr rfl
  · exact fun _ _ hRetry hDue hSettled => next_congr (by simp [hRetry, hDue, hSettled])

end Sys2Proof.Machine
end

section
/-! PROOFS. Fans, pumps, coolant loops, leak zones and temperature inputs (spec/10). -/

namespace Sys2Proof.Machine

/-! ### Fans -/

/-- The second edge of an open window, after SETTLE, ends it with the speed of the two edges (R346). -/
theorem Dev.winEdge_of_second {d : Dev} {n u : Nat} {w : FanWin} (hwin : (d.fan n).win = some w)
    (hsettled : w.start + d.fSettle ≤ d.aont) (hopen : d.aont ≤ w.start + d.fWin) (hedge : w.edge = some u) (hlater : u < d.aont) :
    d.winEdge n = d.fanMeasure n (rpmOf (d.ppr n) (d.aont - u)) := by
  have hinside : ¬ (d.aont < w.start + d.fSettle ∨ w.start + d.fWin < d.aont) := by omega
  simp only [Dev.winEdge, hwin, hedge, if_neg hinside, if_pos hlater]

/-- A kick without response that is not the third is followed by GAP (R348). -/
theorem Dev.kickExpiry_gap {d : Dev} {n : Nat} (hkick : d.fst n = fnKick) (hdue : (d.fan n).since + d.kickNs ≤ d.aont)
    (hkicks : d.rd F.FAN_STATUS_KICKS n + 1 < 3) :
    d.kickExpiry n = (d.wr F.FAN_STATUS_KICKS n (min 3 (d.rd F.FAN_STATUS_KICKS n + 1))).fanGo n fnGap := by
  simp only [Dev.kickExpiry, hkick, hdue, and_self, not_true_eq_false, if_false, if_pos hkicks]

/-- The third kick without response, and without a current sample in its last 100 ms, is judged (R350). -/
theorem Dev.kickExpiry_judge {d e : Dev} {n : Nat} (hkick : d.fst n = fnKick) (hdue : (d.fan n).since + d.kickNs ≤ d.aont)
    (hkicks : 3 ≤ d.rd F.FAN_STATUS_KICKS n + 1) (he : e = d.wr F.FAN_STATUS_KICKS n (min 3 (d.rd F.FAN_STATUS_KICKS n + 1)))
    (hsamples : ((d.fan n).kickI.filter fun p => e.aont < p.1 + 100000000) = []) :
    d.kickExpiry n = e.fanJudge n := by
  simp only [Dev.kickExpiry, hkick, hdue, and_self, not_true_eq_false, if_false, if_neg (Nat.not_lt.2 hkicks), ← he, hsamples, List.isEmpty_nil,
    if_true]

/-- Settles O41: each event of a fan acts in the state it belongs to. -/
theorem fanCommands : Obligations.FanCommands := by
  refine ⟨?_, ?_, ?_, ?_, ?_, ?_, ?_, ?_, ?_, ?_, ?_, ?_, ?_, ?_, ?_, ?_⟩
  · exact fun _ _ hTurns hDue => next_congr (if_pos ⟨hTurns, hDue⟩)
  · exact fun _ _ hTable hKick => next_congr (by simp [hTable, hKick])
  · exact fun _ _ _ _ hTable hNoKick hWin hSettled hOpen hEdge hLater => next_congr (by
      simp [hTable, hNoKick, Dev.winEdge_of_second hWin hSettled hOpen hEdge hLater])
  · exact fun _ _ _ hWin hEnd => next_congr (by simp [hWin, hEnd])
  · rintro _ _ _ _ hServes rfl
    exact next_congr (by simp [Dev.setTarget, hServes])
  · exact fun _ _ hKick hDue hKicks => next_congr (congrArg Dev.coolShow (Dev.kickExpiry_gap hKick hDue hKicks))
  · exact fun _ _ _ hKick hDue hKicks he hSamples =>
      next_congr (congrArg Dev.coolShow (Dev.kickExpiry_judge hKick hDue hKicks he hSamples))
  · exact fun _ _ hState hDue => next_congr (if_pos ⟨hState, hDue⟩)
  · exact fun _ _ hFailed hPlace => next_congr (by simp [Dev.fanClear, hFailed, Nat.not_le.2 hPlace])
  · exact fun _ _ hFailed hPlace => next_congr (by simp [Dev.fanClear, hFailed, hPlace])
  · rintro _ _ _ _ _ rfl rfl hOn hFirst hDue rfl hTable hUsed hMode hIdle hSupply
    exact next_congr (by simp [hOn, hFirst, Nat.not_le.2 hDue, hTable, hUsed, hMode, hIdle, hSupply])
  · exact fun _ _ hState hDue => next_congr (if_pos ⟨hState, hDue⟩)
  · exact fun _ _ hCommOk => next_congr (by simp [hCommOk])
  · exact fun _ _ _ hPmc => next_congr (by simp [hPmc])
  · exact fun _ _ hState hDue => next_congr (if_pos ⟨hState, hDue⟩)
  · rintro _ _ _ hComm hLoop hDue rfl
    exact next_congr (by simp [hComm, hLoop, hDue])

/-! ### Pumps, loops, leak zones and temperature inputs -/

/-- Settles O42: each event of a pump, a loop, a zone or a diode acts where its conditions hold. -/
theorem coolingTableLoopsAndSensors : Obligations.CoolingTableLoopsAndSensors := by
  refine ⟨?_, ?_, ?_, ?_, ?_, ?_, ?_, ?_, ?_, ?_, ?_, ?_, ?_, ?_, ?_, ?_, ?_⟩
  · rintro _ _ hTable rfl
    exact next_congr (if_pos hTable)
  · exact fun _ hTable => next_congr ((if_pos rfl).trans (if_neg (by simp [hTable])))
  · exact fun _ _ hSec => next_congr (if_neg hSec)
  · rintro _ _ _ _ _ rfl hTable hUsed hPump rfl hState
    exact next_congr (by simp [Dev.pumpMeasure, hTable, hUsed, hPump, hState])
  · rintro _ _ _ _ _ rfl hTable hUsed hPump rfl hState hTarget
    exact next_congr (by simp [Dev.pumpMeasure, hTable, hUsed, hPump, hState, hTarget])
  · rintro _ _ _ _ _ rfl rfl
    exact next_congr rfl
  · exact fun _ _ hFailed => next_congr (if_pos hFailed)
  · exact fun _ _ hTable hEn => next_congr (if_pos ⟨hTable, hEn⟩)
  · rintro _ _ _ _ _ rfl rfl hTable hEn hStarted hNext hGrace rfl
    exact next_congr (by simp [hTable, hEn, hStarted, hNext, hGrace])
  · rintro _ _ _ _ _ _ rfl rfl hTable hEn hStarted hNext hGrace hPast rfl
    exact next_congr (by simp [hTable, hEn, hStarted, hNext, hGrace, hPast])
  · exact fun _ _ hNext => next_congr (by simp [Dev.loopClear, hNext])
  · exact fun _ _ => next_congr rfl
  · exact fun _ _ hState => next_congr (if_pos hState)
  · rintro _ _ _ _ _ hTable hUsed rfl rfl
    exact next_congr (by simp [Dev.tdConv, hTable, hUsed])
  · rintro _ _ _ _ _ _ _ _ _ hTable hUsed rfl rfl rfl rfl rfl rfl
    exact next_congr (by simp [Dev.tdConv, hTable, hUsed])
  · rintro _ _ _ _ hAgent rfl
    exact next_congr (if_pos hAgent)
  · rintro _ _ hMode hDue rfl
    exact next_congr (if_pos ⟨hMode, hDue⟩)

end Sys2Proof.Machine
end

section
/-! PROOFS. The Endgame responder (spec/11), boundary scan (spec/16) and the snapshot hub (spec/14). -/

namespace Sys2Proof.Machine

/-! ### The Endgame responder -/

/-- Settles O43: the responder answers while Endgame lasts, and the automatic exit looks at its three bars. -/
theorem endgameResponderAnswersOnSmb0 : Obligations.EndgameResponderAnswersOnSmb0 := by
  refine ⟨?_, ?_, ?_, ?_, ?_, ?_, ?_, ?_, ?_, ?_, ?_, ?_⟩
  · exact fun _ hEndgame => next_congr (if_pos hEndgame)
  · exact fun _ hEndgame => next_congr (if_pos hEndgame)
  · exact fun _ hEndgame => next_congr (if_pos hEndgame)
  · exact fun _ hEndgame => next_congr (if_pos hEndgame)
  · exact fun _ hEndgame => next_congr (if_pos hEndgame)
  · exact fun _ hEndgame => next_congr (if_pos hEndgame)
  · exact fun _ hEndgame => next_congr (if_pos hEndgame)
  · exact fun _ hEndgame => next_congr (if_pos hEndgame)
  · exact fun _ _ hEndgame => next_congr (if_pos hEndgame)
  · exact fun _ hEndgame => next_congr (if_pos hEndgame)
  · exact fun _ hEndgame hAuto hDue hBoot hMate hHsw =>
      next_congr (by simp [hEndgame, hAuto, hDue, hBoot, hMate, hHsw])
  · exact fun s hEndgame hAuto hDue hKept => next_congr (by
      have hstays : (s.dev.flt.endBoot || s.dev.is F.PWC_MATE_STATUS_ACTIVE || s.dev.hsw = hsLatched) = true := by
        simpa [or_assoc] using hKept
      simp [hEndgame, hAuto, hDue, hstays])

/-! ### Boundary scan -/

/-- Settles O44: while the port is powered each instruction loads its code and shifts its register out. -/
theorem boundaryScanInstructions : Obligations.BoundaryScanInstructions := by
  refine ⟨?_, ?_, ?_, ?_, ?_, ?_, ?_, ?_, ?_, ?_⟩
  · exact fun _ hPowered => next_congr (if_pos hPowered)
  · exact fun _ hPowered => next_congr (if_pos hPowered)
  · exact fun _ _ _ hPowered => next_congr (if_pos hPowered)
  · exact fun _ _ _ hPowered hStrap => next_congr (by simp [hPowered, hStrap, Dev.tapIr])
  · exact fun _ _ _ hPowered hStrap => next_congr (by simp [hPowered, hStrap, Dev.tapIr, Dev.bypass])
  · exact fun _ hPowered hStrap => next_congr (by simp [hPowered, hStrap, Dev.tapIr])
  · exact fun _ hPowered hStrap => next_congr (by simp [hPowered, hStrap, Dev.tapIr, Dev.bypass])
  · exact fun _ hPowered hStrap => next_congr (by simp [hPowered, hStrap, Dev.tapIr])
  · exact fun _ hPowered hStrap => next_congr (by simp [hPowered, hStrap, Dev.tapIr, Dev.bypass])
  · exact fun _ hPowered => next_congr (if_pos hPowered)

/-! ### The snapshot hub -/

/-- A source that is not enabled does nothing. -/
theorem Dev.snapFire_disabled {d : Dev} {src : Nat} (hdisabled : d.rdw (F.SNAP_SRC_EN_SYNC.addr 0) % 32 &&& src = 0) :
    d.snapFire src = d :=
  if_pos ((Nat.and_comm ..).trans hdisabled)

/-- An enabled source that fires while not armed counts as missed. -/
theorem Dev.snapFire_missed {d : Dev} {src : Nat} (henabled : d.rdw (F.SNAP_SRC_EN_SYNC.addr 0) % 32 &&& src ≠ 0)
    (harmed : d.is F.SNAP_STATUS_ARMED = false) : d.snapFire src = d.inc F.SNAP_STATUS_MISSED := by
  simp [Dev.snapFire, Nat.and_comm src, henabled, harmed]

/-- Enabled sources that fire while armed are recorded with their time, and the capture begins. -/
theorem Dev.snapFire_armed {d e : Dev} {src : Nat} (henabled : src &&& (d.rdw (F.SNAP_SRC_EN_SYNC.addr 0) % 32) ≠ 0)
    (harmed : d.is F.SNAP_STATUS_ARMED = true)
    (he : e = ((((d.wr F.SNAP_CAUSE_SOURCES 0 (src &&& (d.rdw (F.SNAP_SRC_EN_SYNC.addr 0) % 32))).wr64
      F.SNAP_TRIG_GTS_LO 0 d.aont).wr F.SNAP_STATUS_ARMED 0 0).wr F.SNAP_STATUS_CAPTURING 0 1).wr F.SNAP_STATUS_SECTION_VALID 0 0) :
    d.snapFire src = { e with obs.snap.want := true } := by
  rw [he, Dev.snapFire]
  simp only [if_neg henabled, harmed, if_true]

/-- Settles O45: a source acts by whether it is enabled and whether the hub is armed. -/
theorem snapshotTriggersAndCopy : Obligations.SnapshotTriggersAndCopy := by
  refine ⟨?_, ?_, ?_, ?_, ?_, ?_, ?_, ?_⟩
  · exact fun _ hCapturing => next_congr (by simp [Dev.snapArm, hCapturing])
  · exact fun _ hCapturing => next_congr (by simp [Dev.snapArm, hCapturing])
  · exact fun _ hEnabled hArmed => next_congr (by simp [Dev.snapFire_missed hEnabled hArmed])
  · exact fun _ _ hEnabled hArmed he => next_congr (Dev.snapFire_armed hEnabled hArmed he)
  · exact fun _ hDisabled => next_congr (by simp [Dev.snapFire_disabled hDisabled])
  · exact fun _ _ hEnabled hArmed he => next_congr (Dev.snapFire_armed hEnabled hArmed he)
  · exact fun _ _ hWanted => next_congr (if_pos hWanted)
  · exact fun _ hCapturing hWant hArmLater => next_congr (by simp [Dev.snapCopied, hCapturing, hWant, hArmLater])

end Sys2Proof.Machine
end

section
/-! PROOFS. Capture queues, the first-failure recorder and the check-value units (spec/14). -/

namespace Sys2Proof.Machine

/-! ### Capture queues -/

theorem length_le (n v : Nat) : (le n v).length = n := by
  induction n generalizing v with
  | zero => rfl
  | succ n ih => exact congrArg (· + 1) (ih _)

theorem cqStream_of_stream {q : Nat} (h : q < 4) : cqStream q = true := decide_eq_true h

theorem cqStream_of_packet {q : Nat} (h : 4 ≤ q) : cqStream q = false := decide_eq_false (Nat.not_lt.2 h)

/-- With EN clear a write has no effect (R470). -/
theorem Dev.cqMay_off {d : Dev} {q writer : Nat} (hen : d.is F.CQ_CFG_EN q = false) : d.cqMay q writer = (false, d) := by
  simp [Dev.cqMay, hen]

/-- With EN set the owner may write (R470). -/
theorem Dev.cqMay_owner {d : Dev} {q writer : Nat} (hen : d.is F.CQ_CFG_EN q = true) (howner : d.rd F.CQ_CFG_OWNER q = writer)
    (hwriter : writer ≠ 0) : d.cqMay q writer = (true, d) := by
  simp [Dev.cqMay, hen, howner, hwriter]

/-- With EN set another agent's write sets CQ_ERR (R504). -/
theorem Dev.cqMay_other {d : Dev} {q writer : Nat} (hen : d.is F.CQ_CFG_EN q = true)
    (hother : ¬ (d.rd F.CQ_CFG_OWNER q = writer ∧ writer ≠ 0)) : d.cqMay q writer = (false, d.wrBit F.CQ_ERR_WRITER 0 q true) := by
  rw [Dev.cqMay, hen, if_neg hother]
  rfl

theorem Dev.cqGet_cqPut_same (d : Dev) (q : Nat) (c : Cq) : (d.cqPut q c).cqGet q = c := tget_tset_same ..

theorem Dev.cqPut_cqPut_same (d : Dev) (q : Nat) (c e : Cq) : (d.cqPut q c).cqPut q e = d.cqPut q e := by
  simp only [Dev.cqPut, tset_tset_same]

/-- A word that does not fill the partial line of a stream queue is appended to it (R475). -/
theorem Dev.cqStreamWord_of_partial {d : Dev} {q v : Nat} (hfirst : (d.cqGet q).needFirst = false) (hcur : (d.cqGet q).cur ≠ [])
    (hshort : (d.cqGet q).cur.length < 28) :
    d.cqStreamWord q false v =
      (d.cqPut q { d.cqGet q with needFirst := false, cur := (d.cqGet q).cur ++ le 4 v, lastWr := d.gts }).cqWatch q := by
  have hunfilled : (d.cqGet q).cur.length + 4 ≠ 32 := by omega
  simp [Dev.cqStreamWord, hfirst, hcur, Dev.cqGet_cqPut_same, length_le, hunfilled, Dev.cqPut_cqPut_same]
  rfl

/-- Settles O53: a write is judged by EN and the owner, then by the queue's kind and its open packet. -/
theorem captureQueueWriters : Obligations.CaptureQueueWriters := by
  refine ⟨?_, ?_, ?_, ?_, ?_, ?_, ?_, ?_, ?_, ?_, ?_, ?_, ?_, ?_, ?_, ?_, ?_, ?_, ?_, ?_, ?_, ?_⟩
  · exact fun _ _ _ hEn hOther => next_congr (by simp [Dev.pktOpen, Dev.cqMay_other hEn hOther])
  · exact fun _ _ _ hEn => next_congr (by simp [Dev.pktOpen, Dev.cqMay_off hEn])
  · exact fun _ _ _ hEn hOwner hWriter hPacket hClosed hFree => next_congr (by
      simp [Dev.pktOpen, Dev.cqMay_owner hEn hOwner hWriter, cqStream_of_packet hPacket, hClosed, Nat.not_le.2 hFree])
  · exact fun _ _ _ hEn hOwner hWriter hPacket hClosed hFull => next_congr (by
      simp [Dev.pktOpen, Dev.cqMay_owner hEn hOwner hWriter, cqStream_of_packet hPacket, hClosed, hFull])
  · exact fun _ _ _ hEn hOwner hWriter hStream => next_congr (by
      simp [Dev.pktOpen, Dev.cqMay_owner hEn hOwner hWriter, cqStream_of_stream hStream])
  · exact fun _ _ _ _ hEn hOther => next_congr (by simp [Dev.wrData, Dev.cqMay_other hEn hOther])
  · exact fun _ _ _ _ hEn => next_congr (by simp [Dev.wrData, Dev.cqMay_off hEn])
  · exact fun _ _ _ _ hEn hOwner hWriter hPacket hClosed => next_congr (by
      simp [Dev.wrData, Dev.cqMay_owner hEn hOwner hWriter, cqStream_of_packet hPacket, hClosed])
  · exact fun _ _ _ _ _ hEn hOwner hWriter hPacket hPkt hDrop => next_congr (by
      simp [Dev.wrData, Dev.cqMay_owner hEn hOwner hWriter, cqStream_of_packet hPacket, hPkt, hDrop])
  · exact fun _ _ _ _ _ hEn hOwner hWriter hPacket hPkt hKept hLength hLines => next_congr (by
      simp [Dev.wrData, Dev.cqMay_owner hEn hOwner hWriter, cqStream_of_packet hPacket, hPkt, hKept, length_le,
        Nat.not_lt.2 hLength, Nat.not_lt.2 hLines])
  · exact fun _ _ _ _ _ hEn hOwner hWriter hPacket hPkt hKept hFull => next_congr (by
      simp [Dev.wrData, Dev.cqMay_owner hEn hOwner hWriter, cqStream_of_packet hPacket, hPkt, hKept, length_le, hFull])
  · exact fun _ _ _ _ hEn hOwner hWriter hStream hFirst => next_congr (by
      simp [Dev.wrData, Dev.cqMay_owner hEn hOwner hWriter, cqStream_of_stream hStream, Dev.cqStreamWord, hFirst])
  · rintro _ _ _ _ _ hEn hOwner hWriter hStream hNoFirst rfl hCur hShort
    exact next_congr (by
      simp [Dev.wrData, Dev.cqMay_owner hEn hOwner hWriter, cqStream_of_stream hStream,
        Dev.cqStreamWord_of_partial hNoFirst hCur hShort])
  · exact fun _ _ _ _ hEn hOwner hWriter hPacket => next_congr (by
      simp [Dev.wrFirst, Dev.cqMay_owner hEn hOwner hWriter, cqStream_of_packet hPacket])
  · exact fun _ _ _ _ hEn hOwner hWriter hStream => next_congr (by
      simp [Dev.wrFirst, Dev.cqMay_owner hEn hOwner hWriter, cqStream_of_stream hStream])
  · exact fun _ _ _ _ hEn hOther => next_congr (by simp [Dev.wrFirst, Dev.cqMay_other hEn hOther])
  · exact fun _ _ _ _ hEn => next_congr (by simp [Dev.wrFirst, Dev.cqMay_off hEn])
  · exact fun _ _ _ _ hEn hOther => next_congr (by simp [Dev.pktClose, Dev.cqMay_other hEn hOther])
  · exact fun _ _ _ _ hEn => next_congr (by simp [Dev.pktClose, Dev.cqMay_off hEn])
  · exact fun _ _ _ _ hEn hOwner hWriter hPacket hClosed => next_congr (by
      simp [Dev.pktClose, Dev.cqMay_owner hEn hOwner hWriter, cqStream_of_packet hPacket, hClosed])
  · exact fun _ _ _ _ _ hEn hOwner hWriter hPacket hPkt hDrop => next_congr (by
      simp [Dev.pktClose, Dev.cqMay_owner hEn hOwner hWriter, cqStream_of_packet hPacket, hPkt, hDrop])
  · rintro _ _ _ _ _ _ hEn hOwner hWriter hPacket hPkt hKept rfl hFits
    exact next_congr (by
      simp [Dev.pktClose, Dev.cqMay_owner hEn hOwner hWriter, cqStream_of_packet hPacket, hPkt, hKept, hFits])

/-- Settles O54: a read takes the oldest visible line; the other commands act on the queue alone. -/
theorem captureQueueReadersAndTracePort : Obligations.CaptureQueueReadersAndTracePort := by
  refine ⟨?_, ?_, ?_, ?_, ?_, ?_, ?_, ?_, ?_, ?_, ?_, ?_⟩
  · rintro _ _ _ _ _ hPort hVis hPoison rfl
    exact next_congr (by simp [Dev.rdTag, hPort, hVis, hPoison])
  · rintro _ _ _ _ _ hPort hVis hPoison rfl
    exact next_congr (by simp [Dev.rdTag, hPort, hVis, hPoison])
  · exact fun _ _ hPort hVis => next_congr (by simp [Dev.rdTag, hPort, hVis])
  · exact fun _ _ hPort => next_congr (by simp [Dev.rdTag, hPort])
  · exact fun _ _ _ => next_congr rfl
  · rintro _ _ _ _ _ rfl rfl rfl
    exact next_congr rfl
  · exact fun _ _ => next_congr rfl
  · exact fun _ _ hValid => next_congr (if_pos hValid)
  · exact fun _ _ hValid => next_congr (by simp [Dev.rewind, hValid])
  · rintro _ _ _ rfl hPartial hDue
    exact next_congr (if_pos ⟨hPartial, hDue⟩)
  · rintro _ _ _ _ _ _ _ hEn hPick hVis rfl rfl rfl
    exact next_congr (by simp [Dev.traceSend, hEn, hPick, hVis])
  · rintro _ (hOff | hNone)
    · exact next_congr (by simp [Dev.traceSend, hOff])
    · exact next_congr (by simp [Dev.traceSend, hNone])

/-! ### The recorder and the check-value units -/

/-- A first entry that finds the memory full, or too small for it, counts as lost (R484). -/
theorem Dev.ffrAppend_lost {d x y : Dev} {e : FfrEntry} {q : List FfrEntry} (hx : x = d.ffrAbsorb 32)
    (hqueue : x.obs.ffrS.queue = e :: q) (hlast : x.obs.ffrS.lastAppend = none) (hy : y = { x with obs.ffrS.queue := q })
    (hfull : y.is F.FFR_STATUS_FULL = true ∨ (x.rd F.FFR_FILL_FILL16 + (16 + e.payload.length + 15) / 16) * 16 > 262144) :
    d.ffrAppend = (y.wr F.FFR_STATUS_FULL 0 1).inc F.FFR_LOST_COUNT := by
  simp only [hlast] at hy
  rw [Dev.ffrAppend, ← hx]
  simp only [hqueue, hlast, ← hy, Bool.not_true, Bool.false_eq_true, if_false, if_pos hfull]

/-- A first entry that fits is numbered and counted, and takes the folds that waited (R482, R486). -/
theorem Dev.ffrAppend_taken {d x y z g : Dev} {e : FfrEntry} {q : List FfrEntry} {n : Nat} (hx : x = d.ffrAbsorb 32)
    (hqueue : x.obs.ffrS.queue = e :: q) (hlast : x.obs.ffrS.lastAppend = none) (hy : y = { x with obs.ffrS.queue := q })
    (hn : n = x.rd F.FFR_FILL_FILL16 + (16 + e.payload.length + 15) / 16) (hroom : y.is F.FFR_STATUS_FULL = false)
    (hfits : n * 16 ≤ 262144)
    (hz : z = { y.ffrWrote (2 * x.rd F.FFR_FILL_FILL16) (2 * n) with
      obs.ffrS.recs := { e := e, seq := y.rd F.FFR_STATUS_NEXT_SEQ, rep := 0 } :: y.obs.ffrS.recs,
      obs.ffrS.lastAppend := some y.aont, obs.ffrS.lastAct := some y.aont })
    (hg : g = ((z.wr F.FFR_FILL_FILL16 0 n).inc F.FFR_FILL_RECORDS).wr F.FFR_STATUS_NEXT_SEQ 0 (y.rd F.FFR_STATUS_NEXT_SEQ + 1)) :
    d.ffrAppend = g.ffrAbsorb 32 := by
  have htakes : ¬ (y.is F.FFR_STATUS_FULL = true ∨ n * 16 > 262144) := by simpa [hroom] using hfits
  simp only [hlast] at hy
  rw [Dev.ffrAppend, ← hx]
  simp only [hqueue, hlast, ← hy, ← hn, Bool.not_true, Bool.false_eq_true, if_false, if_neg htakes]
  subst hg hz
  rfl

/-- CLEAR with the key acts on archived contents in a quiet cycle (R489). -/
theorem Dev.ffrClear_of_archived {d e : Dev} {key : Nat} (hkey : key = 0x5A96)
    (harchived : d.rd F.FFR_ARCH_FILL16 = d.rd F.FFR_FILL_FILL16)
    (hquiet : (d.obs.ffrS.lastAct.all fun t => decide (t / 40 ≠ d.aont / 40)) = true)
    (he : e = { d.ffrWrote 0 32768 with obs.ffrS.recs := [], obs.ffrS.held := [] }) :
    d.ffrClear key = ((((e.wr F.FFR_FILL_FILL16 0 0).wr F.FFR_FILL_RECORDS 0 0).wr F.FFR_STATUS_NEXT_SEQ 0 0).wr
      F.FFR_STATUS_FULL 0 0).wr F.FFR_LOST_COUNT 0 0 := by
  rw [Dev.ffrClear, ← he]
  cases hact : d.obs.ffrS.lastAct with
  | none => exact if_pos ⟨hkey, harchived, Bool.false_ne_true⟩
  | some t =>
    have hcycle : t / 40 ≠ d.aont / 40 := by simpa [hact] using hquiet
    exact if_pos ⟨hkey, harchived, by simpa using hcycle⟩

/-- Settles O55: an append is judged by the time of the last one and by the room left, CLEAR by its key and the archive. -/
theorem recorderAndCheckValues : Obligations.RecorderAndCheckValues := by
  refine ⟨?_, ?_, ?_, ?_, ?_, ?_, ?_, ?_, ?_, ?_, ?_, ?_, ?_, ?_⟩
  · rintro _ _ _ _ _ _ rfl
    exact next_congr rfl
  · rintro _ _ rfl hQueue
    exact next_congr (by simp [Dev.ffrAppend, hQueue])
  · rintro _ _ _ _ _ rfl hQueue hLast hEarly
    exact next_congr (by simp [Dev.ffrAppend, hQueue, hLast, hEarly])
  · exact fun _ _ _ _ _ hx hQueue hLast hy hFull => next_congr (Dev.ffrAppend_lost hx hQueue hLast hy hFull)
  · exact fun _ _ _ _ _ _ _ _ hx hQueue hLast hy hn hRoom hFits hz hg =>
      next_congr (Dev.ffrAppend_taken hx hQueue hLast hy hn hRoom hFits hz hg)
  · exact fun _ => next_congr rfl
  · rintro _ _ _ rfl rfl
    exact next_congr rfl
  · exact fun _ hPause hDue => next_congr (if_pos ⟨hPause, hDue⟩)
  · exact fun _ _ _ hKey hArchived hQuiet he => next_congr (Dev.ffrClear_of_archived hKey hArchived hQuiet he)
  · exact fun _ _ hBarred => next_congr (if_neg fun h => hBarred.elim (· h.1) (· h.2.1))
  · rintro _ _ _ _ rfl
    exact next_congr rfl
  · exact fun _ _ => next_congr rfl
  · exact fun _ _ _ => next_congr rfl
  · exact fun _ _ _ _ => next_congr rfl

end Sys2Proof.Machine
end

section
/-! PROOFS. The two-wire segments and AVSBus (spec/15). -/

namespace Sys2Proof.Machine

/-- A running descriptor ends with its status and the next is taken. -/
theorem Dev.segEnd_of_running {d : Dev} {n status : Nat} {j : TwJob} (hrunning : (d.segGet n).running = some j) :
    d.segEnd n status = ((d.segPut n { d.segGet n with running := none, lost := false }).segDone n j status []).segPump 17 n := by
  simp only [Dev.segEnd, hrunning]

theorem Dev.segGet_inc (d : Dev) (f : Fld) (i k n : Nat) : (d.inc f i k).segGet n = d.segGet n := rfl

/-- An SMB_ALERT# input of a segment in normal operation is taken (R518). -/
theorem Dev.alertInput_smb {d : Dev} {src : Nat} {level : Bool} (hsmb : src < 12) (hmode : (d.segGet src).mode = .normal) :
    d.alertInput src level = { d with tw.segAlert := putBit d.tw.segAlert src level }.alertEval src :=
  (if_pos hsmb).trans (if_pos hmode)

/-- An accelerator's alert is taken by the segment it is mapped to, in normal operation (R518). -/
theorem Dev.alertInput_acc {d : Dev} {src m : Nat} {level : Bool} (hacc : 12 ≤ src)
    (hm : m = bitsOf (d.rd F.TW_ACC_ALERT_MAP) (4 * (src - 12)) 4) (hmapped : m < 12) (hmode : (d.segGet m).mode = .normal) :
    d.alertInput src level = { d with tw.accAlert := putBit d.tw.accAlert (src - 12) level }.alertEval m := by
  subst hm
  exact (if_neg (Nat.not_lt.2 hacc)).trans (if_pos ⟨hmapped, hmode⟩)

/-- Settles O57: each bus event acts in the mode its segment is in. -/
theorem twoWireBusEventsAndAvs : Obligations.TwoWireBusEventsAndAvs := by
  refine ⟨?_, ?_, ?_, ?_, ?_, ?_, ?_, ?_, ?_, ?_, ?_, ?_, ?_, ?_, ?_, ?_, ?_, ?_, ?_, ?_, ?_⟩
  · exact fun _ _ _ _ hRunning he => next_congr (by
      rw [he]
      exact Dev.segEnd_of_running hRunning)
  · rintro _ _ _ _ _ hRunning hSeg rfl
    exact next_congr (by
      simp [Dev.arbLost, hRunning, hSeg, Dev.segEnd_of_running ((congrArg Seg.running (Dev.segGet_inc ..)).trans hRunning)])
  · rintro _ _ _ _ hRunning rfl
    exact next_congr (by simp [Dev.arbLost, hRunning])
  · exact fun _ _ _ _ hRunning hLost hTries => next_congr (by simp [Dev.arbRetry, hRunning, hLost, Nat.not_le.2 hTries])
  · exact fun _ _ _ _ hRunning hLost hRetries => next_congr (by simp [Dev.arbRetry, hRunning, hLost, hRetries])
  · exact fun _ _ _ hSmb hMode => next_congr (Dev.alertInput_smb hSmb hMode)
  · rintro _ _ _ _ _ hAcc rfl rfl hMapped hMode
    exact next_congr (Dev.alertInput_acc hAcc rfl hMapped hMode)
  · rintro _ _ _ _ hAlert hIdle hMode rfl
    exact next_congr (by simp [Dev.araRead, hAlert, hIdle, hMode])
  · exact fun _ _ hAlert hIdle hMode => next_congr (by simp [Dev.araRead, hAlert, hIdle, hMode])
  · exact fun _ _ hMasked hDue => next_congr (if_pos ⟨hMasked, hDue⟩)
  · exact fun _ _ hIdle hMode hEn => next_congr (by simp [Dev.stuckBus, hIdle, hMode, hEn])
  · rintro _ _ _ _ hIdle hMode hEn rfl
    exact next_congr (by simp [Dev.stuckBus, hIdle, hMode, hEn])
  · exact fun _ _ _ hMode hDue => next_congr (by simp [hMode, hDue])
  · exact fun _ _ _ hMode hDue => next_congr (by simp [hMode, hDue])
  · exact fun _ _ _ hMode hDue => next_congr (by simp [hMode, hDue])
  · exact fun _ _ _ => next_congr rfl
  · exact fun _ _ _ => next_congr rfl
  · exact fun _ _ => next_congr rfl
  · exact fun _ _ _ => next_congr rfl
  · exact fun _ _ _ _ _ hCur hWait hDue => next_congr (by simp [hCur, hWait, hDue])
  · exact fun _ _ hCur hEn => next_congr (by simp [hCur, hEn])

end Sys2Proof.Machine
end

section
/-! PROOFS. The mailbox's opcodes (spec/13): general, observation, power and energy, sequencing and cooling. -/

namespace Sys2Proof.Machine

/-! ### What an admitted request answers -/

/-- An admitted request is answered with what its opcode's body says of the device as the request left it. -/
theorem MbxOp.run_of_body {o : MbxOp} {q : MbxReq} {s : State} {e f : Dev} {r : Rep} (h : s.dev.admits o q = true)
    (he : e = s.dev.arrived o.op q) (hb : o.body e q = (r, f)) (hr : r.held = false := by rfl) :
    o.run q s = .next { s with dev := f.answer o.op q r } :=
  MbxOp.run_answers o q s f r h (he ▸ hb) hr

/-- An admitted request whose reply comes later leaves what its opcode's body leaves. -/
theorem MbxOp.run_of_held {o : MbxOp} {q : MbxReq} {s : State} {e f : Dev} {r : Rep} (h : s.dev.admits o q = true)
    (he : e = s.dev.arrived o.op q) (hb : o.body e q = (r, f)) (hr : r.held = true := by rfl) :
    o.run q s = .next { s with dev := f } := by
  rw [MbxOp.run_admits o q s h, ← he, hb]
  simp [hr]

/-- A request that can be accepted is, and what follows is done under its number (R444). -/
theorem Dev.accepting_of_can {d : Dev} {q : MbxReq} {op : Nat} {f : Dev → Nat → Dev} (h : d.canAccept q = true) :
    d.accepting q op f = (.of msAccepted, f (d.accept q op).2 (d.accept q op).1) := if_pos h

/-- A request that cannot be accepted is answered BUSY (R444). -/
theorem Dev.accepting_of_cannot {d : Dev} {q : MbxReq} {op : Nat} {f : Dev → Nat → Dev} (h : d.canAccept q = false) :
    d.accepting q op f = (.of msBusy, d) := if_neg (by simp [h])

/-! ### General, observation and debug opcodes -/

/-- Settles O46: each body, with the cases of the running bundle, of the lease and of the records kept. -/
theorem mailboxGeneralAndObservationOpcodes : Obligations.MailboxGeneralAndObservationOpcodes := by
  refine ⟨?_, ?_, ?_, ?_, ?_, ?_, ?_, ?_, ?_, ?_, ?_, ?_, ?_, ?_, ?_, ?_, ?_, ?_, ?_, ?_⟩
  · exact fun _ _ _ hAdmits he => MbxOp.run_of_body hAdmits he rfl
  · exact fun _ _ _ _ hAdmits he hRun => MbxOp.run_of_body hAdmits he (by simp [opGetIdentity, hRun])
  · exact fun _ _ _ hAdmits he hRun => MbxOp.run_of_body hAdmits he (by simp [opGetIdentity, hRun])
  · exact fun _ _ _ hAdmits he => MbxOp.run_of_body hAdmits he rfl
  · exact fun _ _ _ _ hAdmits he hFree hf => MbxOp.run_of_body hAdmits he (by simp [opHeartbeat, hFree, hf])
  · exact fun _ _ _ _ hAdmits he hHeld hHolder hTransport hf => MbxOp.run_of_body hAdmits he (by
      simp [opHeartbeat, hHeld, hHolder, hTransport, hf])
  · exact fun _ _ _ hAdmits he hHeld hOther => MbxOp.run_of_body hAdmits he (by simp [opHeartbeat, hHeld, hOther])
  · exact fun _ _ _ hAdmits he => MbxOp.run_of_body hAdmits he rfl
  · exact fun _ _ _ hAdmits he => MbxOp.run_of_body hAdmits he rfl
  · exact fun _ _ _ hAdmits he => MbxOp.run_of_body hAdmits he rfl
  · exact fun _ _ _ hAdmits he => MbxOp.run_of_body hAdmits he rfl
  · exact fun _ _ _ hAdmits he => MbxOp.run_of_body hAdmits he rfl
  · exact fun _ _ _ hAdmits he => MbxOp.run_of_body hAdmits he rfl
  · rintro _ _ _ _ _ _ _ _ hAdmits he hKept rfl rfl rfl
    exact MbxOp.run_of_body hAdmits he (by simp only [opLogRead, hKept] <;> rfl)
  · exact fun _ _ _ hAdmits he hNone => MbxOp.run_of_body hAdmits he (by simp [opLogRead, hNone, logTake])
  · exact fun _ _ _ hAdmits he => MbxOp.run_of_body hAdmits he rfl
  · exact fun _ _ _ hAdmits he => MbxOp.run_of_body hAdmits he rfl
  · exact fun _ _ _ hAdmits he => MbxOp.run_of_body hAdmits he rfl
  · exact fun _ _ _ hAdmits he hCan => MbxOp.run_of_body hAdmits he (if_pos hCan)
  · exact fun _ _ _ hAdmits he hCannot => MbxOp.run_of_body hAdmits he (by simp [opFfrArchive, Dev.accepting_of_cannot hCannot])

/-! ### Power and energy opcodes -/

/-- Settles O47: each body, with the cases of the PMC, of Orotha's enable and of MATE; the energy clocks' requests are held. -/
theorem mailboxPowerAndClockOpcodes : Obligations.MailboxPowerAndClockOpcodes := by
  refine ⟨?_, ?_, ?_, ?_, ?_, ?_, ?_, ?_, ?_, ?_, ?_, ?_, ?_, ?_, ?_, ?_, ?_, ?_, ?_⟩
  · exact fun _ _ _ _ _ hAdmits he hPmc hf hb => MbxOp.run_of_body hAdmits he (by simp [opSetTrayCap, hPmc, hf, hb])
  · exact fun _ _ _ hAdmits he hPmc hRaise => MbxOp.run_of_body hAdmits he (by simp [opSetTrayCap, hPmc, hRaise])
  · exact fun _ _ _ hAdmits he => MbxOp.run_of_body hAdmits he rfl
  · exact fun _ _ _ _ hAdmits he hPmc hf hOro => MbxOp.run_of_body hAdmits he (by simp [opSetStaticBudgets, hPmc, ← hf, hOro])
  · exact fun _ _ _ _ hAdmits he hPmc hf hOro => MbxOp.run_of_body hAdmits he (by simp [opSetStaticBudgets, hPmc, ← hf, hOro])
  · exact fun _ _ _ hAdmits he hPmc => MbxOp.run_of_body hAdmits he (by simp [opSetAccMax, hPmc])
  · exact fun _ _ _ _ hAdmits he hf => MbxOp.run_of_body hAdmits he (by simp [opSetCheckForce, hf])
  · exact fun _ _ _ _ hAdmits he hf => MbxOp.run_of_body hAdmits he (by simp [opClearCheckLatch, hf])
  · exact fun _ _ _ _ hAdmits he hMate hf => MbxOp.run_of_body hAdmits he (by simp [opClearMate, hMate, hf])
  · exact fun _ _ _ hAdmits he hMate => MbxOp.run_of_body hAdmits he (by simp [opClearMate, hMate])
  · exact fun _ _ _ hAdmits he => MbxOp.run_of_body hAdmits he rfl
  · exact fun _ _ _ hAdmits he => MbxOp.run_of_held hAdmits he rfl
  · exact fun _ _ _ hAdmits he => MbxOp.run_of_held hAdmits he rfl
  · exact fun _ _ _ hAdmits he => MbxOp.run_of_held hAdmits he rfl
  · exact fun _ _ _ hAdmits he => MbxOp.run_of_held hAdmits he rfl
  · exact fun _ _ _ hAdmits he => MbxOp.run_of_held hAdmits he rfl
  · exact fun _ _ _ _ hAdmits he hx => MbxOp.run_of_body hAdmits he (by simp [opClockRead, hx])
  · exact fun _ _ _ _ hAdmits he hn => MbxOp.run_of_body hAdmits he (by simp [opAddTokens, hn])
  · rintro _ _ _ _ hAdmits he rfl
    exact MbxOp.run_of_body hAdmits he rfl

/-! ### Sequencing and cooling opcodes -/

/-- Settles O48: each body, with the cases of the domains asked off, of a number free for the fan and of a tray at rest. -/
theorem mailboxTrayOpcodes : Obligations.MailboxTrayOpcodes := by
  refine ⟨?_, ?_, ?_, ?_, ?_, ?_, ?_, ?_, ?_, ?_, ?_⟩
  · exact fun _ _ _ hAdmits he hOff hBusy => MbxOp.run_of_body hAdmits he (by simp [opDomainSet, hOff, hBusy])
  · rintro _ _ _ _ hAdmits he hKept rfl
    exact MbxOp.run_of_body hAdmits he (by simp [opDomainSet, hKept])
  · exact fun _ _ _ hAdmits he => MbxOp.run_of_body hAdmits he rfl
  · exact fun _ _ _ _ hAdmits he hf => MbxOp.run_of_body hAdmits he (by simp [opRailClear, hf])
  · exact fun _ _ _ _ hAdmits he hf => MbxOp.run_of_body hAdmits he (by simp [opResetHold, hf])
  · exact fun _ _ _ hAdmits he => MbxOp.run_of_body hAdmits he rfl
  · exact fun _ _ _ hAdmits he => MbxOp.run_of_body hAdmits he rfl
  · exact fun _ _ _ hAdmits he => MbxOp.run_of_body hAdmits he rfl
  · exact fun _ _ _ hAdmits he hCan => MbxOp.run_of_body hAdmits he (if_pos hCan)
  · exact fun _ _ _ hAdmits he => MbxOp.run_of_body hAdmits he rfl
  · exact fun _ _ _ hAdmits he hOff hSess hAct hTrial hEmerg =>
      MbxOp.run_of_held (r := { st := msOk, held := true }) hAdmits he (by
        simp only [opDeepSleep, hOff, hSess, hAct, hTrial, hEmerg, Dev.answer, Option.isSome_none, Bool.not_true, Bool.or_self,
          Bool.false_eq_true, if_false, ne_eq, not_true_eq_false])

end Sys2Proof.Machine
end

section
/-! PROOFS. The mailbox's opcodes (spec/13), continued: update, trust, models and Orotha, groups and objects. -/

namespace Sys2Proof.Machine

/-! ### Update opcodes -/

theorem Dev.updRep_of (d : Dev) (st : Nat) : d.updRep (.of st) = (.of st, d.updLast st) := rfl

theorem Dev.updRep_bad (d : Dev) (off : Nat) : d.updRep (.bad off) = (.bad off, d.updLast msBadParam) := rfl

theorem Dev.updRep_ok (d : Dev) : d.updRep .ok = (.ok, d.updLast msOk) := rfl

theorem not_and_of_imp_false {b : Bool} {p : Prop} (h : p → b = false) : ¬ (b = true ∧ p) :=
  fun ⟨hb, hp⟩ => Bool.false_ne_true ((h hp).symm.trans hb)

/-- Settles O49: each body, with the cases of the session and of the trial. -/
theorem mailboxUpdateOpcodes : Obligations.MailboxUpdateOpcodes := by
  refine ⟨?_, ?_, ?_, ?_, ?_, ?_, ?_, ?_, ?_, ?_, ?_, ?_, ?_, ?_, ?_, ?_⟩
  · exact fun _ _ _ hAdmits he hSess => MbxOp.run_of_body hAdmits he (by simp [opUpdateBegin, hSess, Dev.updRep_of])
  · rintro _ _ _ _ hAdmits he hSlot hSess hTrial hCan rfl
    exact MbxOp.run_of_body hAdmits he (by simp [opUpdateBegin, hSlot, hSess, hTrial, hCan, Dev.updRep_of])
  · exact fun _ _ _ hAdmits he hSess => MbxOp.run_of_body hAdmits he (by simp [opUpdateData, hSess, Dev.updRep_bad])
  · exact fun _ _ _ _ hAdmits he hSess hErasing => MbxOp.run_of_body hAdmits he (by
      simp [opUpdateData, hSess, hErasing, Dev.updRep_of])
  · exact fun _ _ _ _ hAdmits he hSess hErased hNow => MbxOp.run_of_body hAdmits he (by simp [opUpdateData, hSess, hErased]) hNow
  · exact fun _ _ _ hAdmits he hSess => MbxOp.run_of_body hAdmits he (by simp [opUpdateCommit, hSess, Dev.updRep_bad])
  · rintro _ _ _ _ _ hAdmits he hSess hErased hSlot hCan rfl
    exact MbxOp.run_of_body hAdmits he (by simp [opUpdateCommit, hSess, hErased, hSlot, hCan])
  · exact fun _ _ _ _ hAdmits he hSess hErased => MbxOp.run_of_body hAdmits he (by
      simp [opUpdateCancel, hSess, hErased, Dev.updRep_ok])
  · exact fun _ _ _ hAdmits he hSess hAct => MbxOp.run_of_body hAdmits he (by simp [opUpdateCancel, hSess, hAct])
  · exact fun _ _ _ hAdmits he hIdle hEmerg => MbxOp.run_of_body hAdmits he (by
      simp [opUpdateActivate, not_and_of_imp_false hIdle, hEmerg])
  · exact fun _ _ _ hAdmits he hIdle hEmerg => MbxOp.run_of_body hAdmits he (by
      simp [opUpdateActivate, not_and_of_imp_false hIdle, hEmerg, Dev.updRep_of])
  · exact fun _ _ _ hAdmits he hTrial => MbxOp.run_of_body hAdmits he (by simp [opUpdateConfirm, hTrial, Dev.updRep_ok])
  · exact fun _ _ _ hAdmits he hTrial => MbxOp.run_of_body hAdmits he (by simp [opUpdateConfirm, hTrial, Dev.updRep_bad])
  · exact fun _ _ _ hAdmits he hTrial => MbxOp.run_of_body hAdmits he (by simp [opUpdateReject, hTrial, Dev.updRep_ok])
  · exact fun _ _ _ hAdmits he hTrial => MbxOp.run_of_body hAdmits he (by simp [opUpdateReject, hTrial, Dev.updRep_bad])
  · exact fun _ _ _ hAdmits he => MbxOp.run_of_body hAdmits he rfl

/-! ### Trust opcodes -/

/-- Settles O50: the nonce is used up first, then the owner's signature decides. -/
theorem mailboxTrustOpcodes : Obligations.MailboxTrustOpcodes := by
  refine ⟨?_, ?_, ?_, ?_, ?_, ?_, ?_⟩
  · exact fun _ _ _ hAdmits he => MbxOp.run_of_body hAdmits he rfl
  · exact fun _ _ _ _ hAdmits he hx hUnused => MbxOp.run_of_body hAdmits he (by simp [opOwnerKeyAdd, ← hx, hUnused])
  · rintro _ _ _ _ g _ hAdmits he hx hFresh hg rfl
    cases g
    · exact MbxOp.run_of_body hAdmits he (by
        simp only [opOwnerKeyAdd, ← hx, hFresh, ← hg, Bool.and_false, Bool.false_eq_true, if_false])
    · exact MbxOp.run_of_body hAdmits he (by
        simp only [opOwnerKeyAdd, ← hx, hFresh, ← hg, Bool.and_self, if_true, Dev.trustRep])
  · exact fun _ _ _ _ hAdmits he hx hUnused => MbxOp.run_of_body hAdmits he (by simp [opOwnerKeyRevoke, ← hx, hUnused])
  · rintro _ q _ x g _ hAdmits he hx hFresh hOther hg rfl
    cases g
    · exact MbxOp.run_of_body hAdmits he (by
        simp only [opOwnerKeyRevoke, ← hx, hFresh, ← hg, Bool.and_false, Bool.not_false, Bool.false_eq_true, false_and, if_true,
          if_false])
    · cases hPinned : x.2.keyPinned (pf q.pay 0 1)
      · exact MbxOp.run_of_body hAdmits he (by
          simp only [opOwnerKeyRevoke, ← hx, hFresh, ne_eq, hOther, not_false_eq_true, decide_true, ← hg, Bool.and_self, Bool.not_true,
            Bool.false_eq_true, and_self, if_true, if_false, hPinned, Dev.trustRep])
      · exact MbxOp.run_of_body hAdmits he (by
          simp only [opOwnerKeyRevoke, ← hx, hFresh, ne_eq, hOther, not_false_eq_true, decide_true, ← hg, Bool.and_self, Bool.not_true,
            Bool.false_eq_true, Bool.true_eq_false, and_false, if_false, hPinned, if_true])
  · rintro _ _ _ g _ hAdmits he hg rfl
    cases g
    · exact MbxOp.run_of_body hAdmits he (by simp [opModelKeyEnrol, ← hg])
    · exact MbxOp.run_of_body hAdmits he (by simp [opModelKeyEnrol, ← hg, Dev.trustRep])
  · rintro _ _ _ hAdmits he
    refine MbxOp.run_of_body hAdmits he ?_ ?_
    · simp only [opDebugToken]
      split <;> rfl
    · split <;> rfl

/-! ### Model and Orotha opcodes -/

/-- Settles O51: each body, with the cases of the staging entry, of the slot's owner and of the replay size. -/
theorem mailboxModelOpcodes : Obligations.MailboxModelOpcodes := by
  refine ⟨?_, ?_, ?_, ?_, ?_, ?_, ?_, ?_, ?_, ?_, ?_, ?_⟩
  · exact fun _ _ _ _ hAdmits he hFree => MbxOp.run_of_body hAdmits he (by simp [opPkgBegin, hFree])
  · exact fun _ _ _ hAdmits he hNone => MbxOp.run_of_body hAdmits he (by simp [opPkgBegin, hNone])
  · exact fun _ _ _ _ hAdmits he hEntry hIdle hFits => MbxOp.run_of_body hAdmits he (by
      simp [opPkgData, hEntry, hIdle, Nat.not_lt.2 hFits, -List.length_drop])
  · exact fun _ _ _ _ hAdmits he hEntry hIdle hLong => MbxOp.run_of_body hAdmits he (by
      simp [opPkgData, hEntry, hIdle, hLong, -List.length_drop])
  · rintro _ _ _ _ _ hAdmits he hEntry hIdle hClass hCan rfl
    exact MbxOp.run_of_body hAdmits he (by simp [opPkgLoad, hEntry, hIdle, hClass, Dev.accepting_of_can hCan])
  · exact fun _ _ _ hAdmits he hOwner => MbxOp.run_of_body hAdmits he (by simp [opSlotRetire, hOwner])
  · exact fun _ _ _ hAdmits he hOwner => MbxOp.run_of_body hAdmits he (by simp [opSlotRetire, hOwner])
  · rintro _ _ _ _ hAdmits he rfl
    exact MbxOp.run_of_body hAdmits he rfl
  · exact fun _ _ _ hAdmits he hSame => MbxOp.run_of_body hAdmits he (by simp [opOroSet, hSame])
  · exact fun _ _ _ hAdmits he hNew hUsed => MbxOp.run_of_body hAdmits he (if_pos ⟨hNew, hUsed⟩)
  · exact fun _ _ _ hAdmits he => MbxOp.run_of_body hAdmits he rfl
  · exact fun _ _ _ hAdmits he => MbxOp.run_of_body hAdmits he rfl

/-! ### Group, object, context and accelerator opcodes -/

/-- Settles O52: each body, with the cases of a free group, of the quota and of a free context. -/
theorem mailboxSyncOpcodes : Obligations.MailboxSyncOpcodes := by
  refine ⟨?_, ?_, ?_, ?_, ?_, ?_, ?_, ?_, ?_, ?_, ?_, ?_⟩
  · exact fun _ _ _ _ hAdmits he hFree => MbxOp.run_of_body hAdmits he (by simp only [opGroupCreate, hFree])
  · exact fun _ _ _ hAdmits he => MbxOp.run_of_body hAdmits he rfl
  · exact fun _ _ _ hAdmits he => MbxOp.run_of_body hAdmits he rfl
  · rintro _ _ _ _ hAdmits he hQuota hRoom rfl
    obtain ⟨r, hr⟩ := Option.isSome_iff_exists.1 hRoom
    exact MbxOp.run_of_body hAdmits he (by simp [opObjAlloc, Nat.not_lt.2 hQuota, hr])
  · exact fun _ _ _ hAdmits he hQuota => MbxOp.run_of_body hAdmits he (by simp [opObjAlloc, hQuota])
  · exact fun _ _ _ hAdmits he hLength => MbxOp.run_of_body hAdmits he (by simp [opObjFree, hLength])
  · exact fun _ _ _ _ _ _ hAdmits he hx hMade => MbxOp.run_of_body hAdmits he (by simp [opCtxCreate, ← hx, hMade])
  · exact fun _ _ _ hAdmits he hFull => MbxOp.run_of_body hAdmits he (by simp [opCtxCreate, hFull])
  · exact fun _ _ _ hAdmits he => MbxOp.run_of_body hAdmits he rfl
  · exact fun _ _ _ hAdmits he => MbxOp.run_of_body hAdmits he rfl
  · rintro _ _ _ _ hAdmits he rfl
    exact MbxOp.run_of_body hAdmits he rfl
  · exact fun _ _ _ hAdmits he => MbxOp.run_of_body hAdmits he rfl

end Sys2Proof.Machine
end
